-- ==== Sys2Proof/Word.lean ====
section
/-! DEFINITION. The words and the sparse table from which every part of the state is built. -/
namespace Sys2Proof

/-- A register, lane or scalar of 32 bits. -/
abbrev Word := BitVec 32
/-- A 64-bit count, address or signature. -/
abbrev DWord := BitVec 64
abbrev Byte := BitVec 8

/-- Unit numbers (R20 to R22, R21 for links, R254 for rings, R330 for channels, R456 for watch units). -/
abbrev SiteNo := Fin 13824
abbrev RegionNo := Fin 192
abbrev SlabNo := Fin 12
/-- 0 to 47 are the depot links, 48 and 49 the Sarros ports (the order of the LNK blocks, R462). -/
abbrev LinkNo := Fin 50
abbrev PortNo := Fin 2
abbrev RingNo := Fin 64
abbrev WatchNo := Fin 976

/-- A sparse table: pairs of a key and an entry, keys strictly rising, and no entry equal to the
default that an unlisted key reads as. -/
abbrev Tab (α : Type) := List (Nat × α)

namespace Tab

/-- Every key of `t` is above `k`, keys rise, and no entry is the default `d`. -/
def wfFrom {α : Type} [DecidableEq α] (d : α) : Nat → Tab α → Bool
  | _, [] => true
  | k, (j, v) :: t => decide (k ≤ j) && decide (v ≠ d) && wfFrom d (j + 1) t

/-- The canonical form of a table whose unlisted keys read as `d`. -/
def wf {α : Type} [DecidableEq α] (d : α) (t : Tab α) : Bool := wfFrom d 0 t

def get {α : Type} (d : α) : Tab α → Nat → α
  | [], _ => d
  | (j, v) :: t, k => if j = k then v else if k < j then d else get d t k

/-- Put an entry in front, unless it is the default. -/
def consNe {α : Type} [DecidableEq α] (d : α) (k : Nat) (v : α) (t : Tab α) : Tab α :=
  if v = d then t else (k, v) :: t

def set {α : Type} [DecidableEq α] (d : α) : Tab α → Nat → α → Tab α
  | [], k, v => consNe d k v []
  | (j, w) :: t, k, v =>
    if j = k then consNe d k v t
    else if k < j then consNe d k v ((j, w) :: t)
    else (j, w) :: set d t k v

/-- Change every listed entry; an entry that becomes the default is dropped. -/
def mapVals {α : Type} [DecidableEq α] (d : α) (f : Nat → α → α) : Tab α → Tab α
  | [] => []
  | (j, v) :: t => consNe d j (f j v) (mapVals d f t)

/-- Return every key of the half-open range [lo, hi) to the default. -/
def clear {α : Type} (lo hi : Nat) : Tab α → Tab α
  | [] => []
  | (j, v) :: t => if lo ≤ j ∧ j < hi then clear lo hi t else (j, v) :: clear lo hi t

/-- The entries of a list at consecutive keys. -/
def ofList {α : Type} [DecidableEq α] (d : α) : Nat → List α → Tab α
  | _, [] => []
  | k, v :: vs => consNe d k v (ofList d (k + 1) vs)

/-- Write a list of entries at consecutive keys: what lies below, the entries, what lies above. -/
def setList {α : Type} [DecidableEq α] (d : α) (t : Tab α) (k : Nat) (vs : List α) : Tab α :=
  (t.filter fun e => decide (e.1 < k)) ++ ofList d k vs ++ t.filter fun e => decide (k + vs.length ≤ e.1)

/-- The entries of n consecutive keys from k, walking a table that lists nothing below k. -/
def walk {α : Type} (d : α) : Nat → Nat → Tab α → List α
  | 0, _, _ => []
  | n + 1, k, [] => d :: walk d n (k + 1) []
  | n + 1, k, (j, v) :: t => if j = k then v :: walk d n (k + 1) t else d :: walk d n (k + 1) ((j, v) :: t)

def getList {α : Type} (d : α) (t : Tab α) (k n : Nat) : List α :=
  walk d n k (t.dropWhile fun e => decide (e.1 < k))

/-- The table of a function on the keys below `n`. -/
def ofFn {α : Type} [DecidableEq α] (d : α) (n : Nat) (f : Nat → α) : Tab α :=
  (List.range n).filterMap fun k => if f k = d then none else some (k, f k)

end Tab

end Sys2Proof
end

