-- ==== Sys2Proof/Syntax.lean ====
section
/-! DEFINITION. The commands: one constructor for each row of spec/opcode_table.json, with the row's operands.
Klonal commands name the physical site of the core that issues them. Event rows carry what the event brings
from outside the block: a measured value, a packet's fields, a finding of a test. -/

namespace Sys2Proof

/-- Second operand of a scalar ALU instruction: class 0x0 (a register) or class 0x1 (the immediate), R112. -/
inductive AluB where
  | reg (rb : BitVec 4)
  | imm (i : BitVec 16)
  deriving DecidableEq, Repr

/-- A node of a reduction tree that forwards (R186): the hub of a logical region, or the row hub of a logical row. -/
inductive TreeNode where
  | hub (lreg : BitVec 8)
  | row (ly : BitVec 4)
  deriving DecidableEq, Repr

/-- What a wake is requested for (R402, R437). -/
inductive WakeFor where
  | check | sweep | restart
  deriving DecidableEq, Repr

/-- Source of a trip (R411, R416): a region's junction sensor, or the stack of a field of a slab. -/
inductive TripSrc where
  | junction (r : RegionNo)
  | stack (sl : SlabNo) (f : BitVec 2)
  deriving DecidableEq, Repr

/-- What a report to the fault intake says (R36, R367). -/
inductive ReportKind where
  /-- An uncorrectable larder word; the row's site and word index (R141). -/
  | larderUE (site : SiteNo) (word : BitVec 19)
  /-- An uncorrectable cellar codeword; slice of the region and codeword index (R159). -/
  | cellarUE (r : RegionNo) (cw : BitVec 29)
  /-- An uncorrectable network flit held in a router of the region (R184). -/
  | flitUE (r : RegionNo) (net : BitVec 2)
  /-- A router domain of the region lost power (R179). -/
  | routerLoss (r : RegionNo) (ctl : Bool)
  /-- A parity error on control state, or a supply transient past a monitor limit (R51, R367). -/
  | parity (r : RegionNo)
  | transient (r : RegionNo)
  /-- A cause of forced retirement, with RGN_RESIL.CAUSE (R45, R392). -/
  | forced (r : RegionNo) (cause : BitVec 4)
  /-- A precursor of a preventive retirement (R45). -/
  | precursor (r : RegionNo) (cause : BitVec 4)
  /-- A disagreement decided against the primary, all three different, or against a logical checker (R383). -/
  | belay (primary checker : RegionNo) (outcome : BitVec 2)
  /-- Program fault (with the FAULT immediate), load-list fault, reduction stall (R109, R166, R189). -/
  | program (site : SiteNo) (imm : BitVec 16)
  | loadList (site : SiteNo)
  | redStall (r : RegionNo)
  /-- A poisoned delivery of a pool (R327). -/
  | poison (queue : BitVec 16)
  /-- A hard row, hard wire (with the site of the router that drives it and the port it drives) or failing array row, to be
  repaired later (R367). -/
  | hardLarder (site : SiteNo) (row : BitVec 14)
  | hardCellar (r : RegionNo) (ch : BitVec 3) (rank : BitVec 2) (bank : BitVec 5) (row : BitVec 15)
  | hardWire (c : SiteNo) (net port : BitVec 2) (wire : BitVec 10) (fromUE : Bool)
  | hardArray (site : SiteNo) (blk : BitVec 2) (row : BitVec 6)
  /-- A site that turns bad in service (R24). -/
  | badSite (site : SiteNo)
  /-- Reference loss, thermal trip, supply loss (R429, R411, R413). -/
  | refLoss
  | trip (src : TripSrc)
  | supplyLoss
  deriving DecidableEq, Repr

/-- What the training of a link measured: the lanes of either direction that failed, and the lanes of either direction as the
ends ranked them, by ascending error ratio, 4 bits each (R341, R343). -/
structure LaneTest where
  txFailed : BitVec 10 := 0
  rxFailed : BitVec 10 := 0
  txBest : BitVec 40 := 0x9876543210
  rxBest : BitVec 40 := 0x9876543210
  deriving DecidableEq, Repr

/-- A training outcome of one link: what its lanes measured, and the peer's DEPOT number and PEERID (R345, R346). -/
structure Trained where
  link : LinkNo
  ok : Bool
  full : Bool
  rtt : Word
  lanes : LaneTest
  depot : BitVec 4
  peerid : DWord
  deriving DecidableEq, Repr

/-- What RAILS_UP found: the converters that start, and the regions whose regulator does not come up (R444, R446). -/
structure RailsFound where
  convs : BitVec 12
  bad : List RegionNo := []
  deriving DecidableEq, Repr

/-- What CLOCKS_LOCKED found: whether REFCLK is valid in time and the control clock locks, and the regions whose PLL does not lock
(R444, R446). -/
structure ClocksFound where
  ok : Bool
  bad : List RegionNo := []
  deriving DecidableEq, Repr

/-- What SEAMS_TRAINED found: the hard wires, and the link groups, by router, port and network, whose saved settings failed
their fast check (R175, R449). -/
structure SeamsFound where
  hard : List (SiteNo × BitVec 2 × BitVec 2 × BitVec 10) := []
  slow : List (SiteNo × BitVec 2 × BitVec 2) := []
  deriving DecidableEq, Repr

/-- What CELLAR_TRAINED found: the regions whose slice does not train, and the channels of slices whose saved settings failed
their fast check (R449). -/
structure CellarFound where
  failed : List RegionNo := []
  slow : List (RegionNo × BitVec 3) := []
  deriving DecidableEq, Repr

/-- What a run of the known-answer set found: failing sites, array rows and larder rows (R376). -/
structure KaFound where
  sites : List SiteNo := []
  rows : List (SiteNo × BitVec 2 × BitVec 6) := []
  larRows : List (SiteNo × BitVec 14) := []
  deriving DecidableEq, Repr

/-- What a packet of an unknown type shows: its PTYPE, the slot tag of its header flit, and DFLITS (R333, R347). -/
structure PacketHead where
  ptype : Byte
  tag : BitVec 2
  dflits : BitVec 7
  deriving DecidableEq, Repr

/-- What a region's sweep found: the sites that failed, each with its stress steps, and the array rows and larder rows that it
names (R386, R123, R142). -/
structure SweepFound where
  failing : List (SiteNo × BitVec 4) := []
  rows : List (SiteNo × BitVec 2 × BitVec 6) := []
  larRows : List (SiteNo × BitVec 14) := []
  deriving DecidableEq, Repr

/-- An instruction of the test access port (R460): those that IEEE 1149.1 and the manual name, and any other unpublished one. -/
inductive TapInstr where
  | bypass | idcode | samplePreload | extest | debugUnlock
  | unpublished (code : Byte)
  deriving DecidableEq, Repr

/-- One command. -/
inductive Instr where
  -- Scalar operations (R112)
  | add (c : SiteNo) (rd ra : BitVec 4) (b : AluB)
  | sub (c : SiteNo) (rd ra : BitVec 4) (b : AluB)
  | and (c : SiteNo) (rd ra : BitVec 4) (b : AluB)
  | or (c : SiteNo) (rd ra : BitVec 4) (b : AluB)
  | xor (c : SiteNo) (rd ra : BitVec 4) (b : AluB)
  | sll (c : SiteNo) (rd ra : BitVec 4) (b : AluB)
  | srl (c : SiteNo) (rd ra : BitVec 4) (b : AluB)
  | sra (c : SiteNo) (rd ra : BitVec 4) (b : AluB)
  | slt (c : SiteNo) (rd ra : BitVec 4) (b : AluB)
  | sltu (c : SiteNo) (rd ra : BitVec 4) (b : AluB)
  | mul (c : SiteNo) (rd ra : BitVec 4) (b : AluB)
  | mulh (c : SiteNo) (rd ra : BitVec 4) (b : AluB)
  | min (c : SiteNo) (rd ra : BitVec 4) (b : AluB)
  | max (c : SiteNo) (rd ra : BitVec 4) (b : AluB)
  | clz (c : SiteNo) (rd ra : BitVec 4) (b : AluB)
  | popc (c : SiteNo) (rd ra : BitVec 4) (b : AluB)
  | lui (c : SiteNo) (rd : BitVec 4) (imm : BitVec 20)
  -- Scalar memory, branches, jumps (R113)
  | lw (c : SiteNo) (rd ra : BitVec 4) (imm : BitVec 16)
  | sw (c : SiteNo) (rd ra : BitVec 4) (imm : BitVec 16)
  | lbu (c : SiteNo) (rd ra : BitVec 4) (imm : BitVec 16)
  | sb (c : SiteNo) (rd ra : BitVec 4) (imm : BitVec 16)
  | ldl (c : SiteNo) (h : BitVec 6) (sa sb : BitVec 4)
  | stl (c : SiteNo) (h : BitVec 6) (sa sb : BitVec 4)
  | branchEq (c : SiteNo) (ra rb : BitVec 4) (off : BitVec 16)
  | branchNe (c : SiteNo) (ra rb : BitVec 4) (off : BitVec 16)
  | branchLt (c : SiteNo) (ra rb : BitVec 4) (off : BitVec 16)
  | branchGe (c : SiteNo) (ra rb : BitVec 4) (off : BitVec 16)
  | branchLtu (c : SiteNo) (ra rb : BitVec 4) (off : BitVec 16)
  | branchGeu (c : SiteNo) (ra rb : BitVec 4) (off : BitVec 16)
  | jal (c : SiteNo) (rd : BitVec 4) (off : BitVec 20)
  | jalr (c : SiteNo) (rd ra : BitVec 4) (imm : BitVec 16)
  | loop (c : SiteNo) (n : BitVec 2) (ra : BitVec 4) (len : BitVec 12)
  | waitc (c : SiteNo) (imm : BitVec 16)
  | halt (c : SiteNo)
  -- Array instructions (R114)
  | wload (c : SiteNo) (h : BitVec 6) (sa : BitVec 4) (wfmt : BitVec 3)
  | wrow (c : SiteNo) (h : BitVec 6) (sa sb : BitVec 4) (wfmt : BitVec 3)
  | wscale (c : SiteNo) (h : BitVec 6) (sa : BitVec 4)
  | wswap (c : SiteNo)
  | pass (c : SiteNo) (h : BitVec 6) (sa : BitVec 4) (aw : BitVec 2) (e : BitVec 6) (add : Bool)
  | accrd (c : SiteNo) (e : BitVec 6) (g : BitVec 3) (clr sig : Bool)
  | accst (c : SiteNo) (h : BitVec 6) (sa sb : BitVec 4) (clr sig : Bool)
  | accld (c : SiteNo) (h : BitVec 6) (sa sb : BitVec 4)
  | accnr (c : SiteNo) (e : BitVec 6) (t : BitVec 8) (clr sig : Bool)
  | accclr (c : SiteNo) (e : BitVec 6)
  -- Vector instructions (R104, R105)
  | fadd (c : SiteNo) (vd va vb : BitVec 5) (t : BitVec 2)
  | fsub (c : SiteNo) (vd va vb : BitVec 5) (t : BitVec 2)
  | fmul (c : SiteNo) (vd va vb : BitVec 5) (t : BitVec 2)
  | ffma (c : SiteNo) (vd va vb vc : BitVec 5) (t : BitVec 2)
  | fmax (c : SiteNo) (vd va vb : BitVec 5) (t : BitVec 2)
  | fmin (c : SiteNo) (vd va vb : BitVec 5) (t : BitVec 2)
  | fabs (c : SiteNo) (vd va : BitVec 5) (t : BitVec 2)
  | fneg (c : SiteNo) (vd va : BitVec 5) (t : BitVec 2)
  | fcmplt (c : SiteNo) (vd va vb : BitVec 5) (t : BitVec 2)
  | fsel (c : SiteNo) (vd va vb vc : BitVec 5) (t : BitVec 2)
  | fscale (c : SiteNo) (vd va vb : BitVec 5) (t : BitVec 2)
  | i2f (c : SiteNo) (vd va : BitVec 5) (t : BitVec 2)
  | f2i48 (c : SiteNo) (vd va vb : BitVec 5) (t : BitVec 2)
  | i48f (c : SiteNo) (vd va : BitVec 5) (t : BitVec 2)
  | iadd (c : SiteNo) (vd va vb : BitVec 5) (t : BitVec 2)
  | sqrt (c : SiteNo) (vd va : BitVec 5) (t : BitVec 2)
  | recip (c : SiteNo) (vd va : BitVec 5) (t : BitVec 2)
  | rsqrt (c : SiteNo) (vd va : BitVec 5) (t : BitVec 2)
  | exp2 (c : SiteNo) (vd va : BitVec 5) (t : BitVec 2)
  | log2 (c : SiteNo) (vd va : BitVec 5) (t : BitVec 2)
  | tanh (c : SiteNo) (vd va : BitVec 5) (t : BitVec 2)
  | sigmoid (c : SiteNo) (vd va : BitVec 5) (t : BitVec 2)
  | erf (c : SiteNo) (vd va : BitVec 5) (t : BitVec 2)
  | vred (c : SiteNo) (vd va : BitVec 5) (t : BitVec 2)
  | vredmax (c : SiteNo) (vd va : BitVec 5) (t : BitVec 2)
  | vld (c : SiteNo) (vd : BitVec 5) (h : BitVec 6) (sa : BitVec 4)
  | vst (c : SiteNo) (vd : BitVec 5) (h : BitVec 6) (sa : BitVec 4)
  | vrq (c : SiteNo) (va : BitVec 5) (h : BitVec 6) (sa : BitVec 4) (aw : BitVec 2) (outl : Bool)
  | vnr (c : SiteNo) (va : BitVec 5) (t : BitVec 8)
  -- Engines, handles, sync, queues, system (R115 to R120)
  | fastart (c : SiteNo) (h : BitVec 6)
  | fawait (c : SiteNo) (sa : BitVec 4)
  | fafree (c : SiteNo)
  | cpstart (c : SiteNo) (h : BitVec 6) (sa : BitVec 4)
  | cpwait (c : SiteNo)
  | hset (c : SiteNo) (h : BitVec 6) (sa sb : BitVec 4)
  | hown (c : SiteNo) (h : BitVec 6) (sa : BitVec 4)
  | hrel (c : SiteNo) (h : BitVec 6)
  | hget (c : SiteNo) (h : BitVec 6) (sb : BitVec 4) (sel : BitVec 2)
  | bar (c : SiteNo) (b : BitVec 5)
  | bara (c : SiteNo) (b : BitVec 5)
  | barw (c : SiteNo) (b : BitVec 5)
  | efset (c : SiteNo) (f : BitVec 6)
  | efclr (c : SiteNo) (f : BitVec 6)
  | efwait (c : SiteNo) (f : BitVec 6) (v : Bool)
  | time (c : SiteNo) (sb : BitVec 4) (hi : Bool)
  | qbind (c : SiteNo) (sa : BitVec 4) (wr : Bool)
  | qrd (c : SiteNo) (h : BitVec 6) (sa sb : BitVec 4)
  | qwr (c : SiteNo) (h : BitVec 6) (sa sb : BitVec 4) (last : Bool)
  | qdrop (c : SiteNo)
  | qcnt (c : SiteNo) (sb : BitVec 4)
  | csrr (c : SiteNo) (rd : BitVec 4) (csr : BitVec 12)
  | csrw (c : SiteNo) (csr : BitVec 12) (ra : BitVec 4)
  | fault (c : SiteNo) (imm : BitVec 16)
  | fence (c : SiteNo)
  -- Larder (R124 to R147)
  | scrubVisit (c : SiteNo)
  | scrubWriteBack (c : SiteNo)
  | scrubWindow (r : RegionNo)
  | retentionReturn (r : RegionNo)
  | larinjArm (c : SiteNo) (v : Word)
  -- Cellar and fetch-ahead (R148 to R170)
  | cellarRefresh (r : RegionNo) (ch : BitVec 3) (rank : BitVec 2) (bank : BitVec 5) (idle : Bool)
  | patrolVisit (r : RegionNo)
  | selfRefreshEntry (r : RegionNo)
  | rowRemap (r : RegionNo) (ch : BitVec 3) (rank : BitVec 2) (bank : BitVec 5) (row : BitVec 15)
  | celinjsymArm (r : RegionNo) (v : Word)
  | pitchFilled (c : SiteNo)
  | loadListFault (c : SiteNo)
  -- Networks (R171 to R201)
  | reductionStall (r : RegionNo)
  | treeNodeForward (t : BitVec 8) (n : TreeNode)
  | treeInstanceComplete (t : BitVec 8)
  | barrierRelease (b : BitVec 5)
  | timeBeacon
  | networkFlitError (c : SiteNo) (net port : BitVec 2) (wire : BitVec 10) (uncorrectable : Bool)
  | routerDomainLoss (r : RegionNo) (ctl : Bool)
  | hostAccessTimeout (p : PortNo) (tid : Word) (bytes : BitVec 13)
  | quiesceTimeout (r : RegionNo)
  -- Plans (R202 to R225)
  | glbPlandirWrite (p : PortNo) (n : Fin 1024) (k : BitVec 2) (v : Word)
  | pitchClose
  | handoffTagWritten (entry : Fin 256)
  -- Rings and descriptors (R250 to R294)
  | runPlan
  | copy
  | load
  | store
  | cairn
  | fenceDescriptor
  | bindStream
  | policy
  | sweep
  | handoff
  | nop
  | grant
  | stepRelease
  | completionRecordWrite (ring : RingNo) (energy : Word)
  | eventRecordWrite
  | nudge (p : PortNo) (ring : BitVec 8)
  | backstopPoll
  | rngEnable (p : PortNo) (n : Fin 129) (v : Word)
  | rngDisable (p : PortNo) (n : Fin 129) (v : Word)
  | rngStop (p : PortNo) (n : Fin 129)
  | rngResume (p : PortNo) (n : Fin 129)
  | glbRingcfgWrite (p : PortNo) (v : Word)
  -- Stream (R295 to R330)
  | stream (p : PortNo) (skind : Byte) (recs : List (BitVec 24 × Word))
  | cadenceTick
  | cadenceInEdge
  | pinFallbackTick
  | windowFree (win : Word)
  | ptcmtGo (p : PortNo) (v : Word)
  | ingestEnable (p : PortNo) (ch : Fin 16) (v : Word)
  | actuationEnable (p : PortNo) (a : Fin 8) (v : Word)
  | flush (p : PortNo) (q : BitVec 16) (v : Word)
  | poolModeRequest (p : PortNo) (pool : Fin 13) (v : Word)
  | poolModeChange (pool : Fin 13)
  /-- The header flit of a TIME packet, bytes 0 to 31 and 32 to 63 (R354). -/
  | timePacket (p : PortNo) (lo hi : BitVec 256)
  -- Clocks, power and heat (R393 to R443)
  | timeinEdge
  | timeSlewStep
  | glbTimecfgWrite (p : PortNo) (v : Word)
  | refLost (outOfRange : Bool)
  | refclkValid
  | droopStretch (r : RegionNo)
  | moduleGovernorInterval (pin pcore mvcore : BitVec 16)
  | slabGovernorInterval (sl : SlabNo) (amps : List (BitVec 8))
  | wakeRequest (r : RegionNo) (why : WakeFor)
  | wakeComplete (r : RegionNo)
  | regionIdleEntry (r : RegionNo)
  | bivouacEntry (r : RegionNo)
  | darkAfter (r : RegionNo)
  | thermalCeilingLower (sl : SlabNo) (temps : List (BitVec 8))
  | thermalCeilingRaise (r : RegionNo) (temp : BitVec 8)
  | stackHot (sl : SlabNo) (f : BitVec 2) (temp : BitVec 8)
  | thermalTrip (src : TripSrc) (temp : BitVec 8)
  | tripRelease (maxTemp : BitVec 8)
  | coolantRange (inlet : BitVec 16)
  | supplyLow (v48 : BitVec 16)
  | supplyLost (above : Bool)
  | supplyRestored (v48 : BitVec 16)
  | standbyLost (v12 : BitVec 16)
  | standbyRestored (v12 : BitVec 16)
  | phaseLost (r : RegionNo) (ph : BitVec 2)
  | regionShort (r : RegionNo) (ns : Word) (persists : Bool)
  | crackSuspect (r : RegionNo) (group : BitVec 4) (excessUv : Word)
  | converterPhase (sl : SlabNo) (ph : BitVec 3)
  | converterLost (sl : SlabNo)
  -- Resilience (R359 to R392)
  | faultReport (k : ReportKind)
  | leaveRestart
  | plannedRestart
  | snapshotStaged
  | checkReplay (slot : BitVec 16)
  | thirdReplay (slot : BitVec 16)
  | scheduledSweep
  -- Links (R331 to R358)
  | credit (l : LinkNo) (ack sync control bulk strm : BitVec 16)
  | creditDue (l : LinkNo)
  | nak (l : LinkNo) (group : BitVec 16)
  | resync (l : LinkNo) (group : BitVec 16)
  | align (l : LinkNo) (logical : BitVec 4) (group : BitVec 16) (physical : BitVec 4)
  | alignmentGroup (l : LinkNo)
  | peer (l : LinkNo) (type depot format lanes : Byte) (peerid : DWord)
  | lswap (l : LinkNo) (logical physical : BitVec 4) (group : BitVec 16)
  | laneFailure (l : LinkNo) (physical : BitVec 4)
  | linkTraining (l : LinkNo)
  | linkUp (l : LinkNo) (full : Bool) (rtt : Word) (lanes : LaneTest)
  | linkLost (l : LinkNo) (reason : Byte)
  | linkRetry (l : LinkNo)
  | retrain (p : PortNo) (l : LinkNo)
  | lnkDown (p : PortNo) (l : LinkNo)
  | clrpeer (p : PortNo) (l : LinkNo)
  | requestTimeout (l : LinkNo) (tid : Word)
  | rddata (l : LinkNo) (tid : Word) (epoch status : Byte) (data : List Byte)
  | wrack (l : LinkNo) (tid : Word) (epoch status : Byte)
  | epack (l : LinkNo) (epoch : Byte)
  | derr (l : LinkNo) (tid : Word) (status : Byte)
  | hdata (l : LinkNo) (epoch : Byte) (jobtag step : DWord) (pitch : BitVec 16) (sfrom sto : Byte) (daddr : DWord) (data : List Byte)
  | hend (l : LinkNo) (epoch : Byte) (jobtag step : DWord) (pitch : BitVec 16) (sfrom sto : Byte) (bytes crc : Word)
  | unknownPtype (l : LinkNo) (head : PacketHead)
  -- Host packets and registers (R354, R462 to R467, R14 to R17)
  | mrd (p : PortNo) (addr : BitVec 44) (bytes : BitVec 13) (tid : Word)
  | mwr (p : PortNo) (addr : BitVec 44) (data : List Byte)
  | cpl (p : PortNo) (tid : Word) (status : Byte) (off : Word) (data : List Byte)
  | registerWrite (p : PortNo) (addr : BitVec 44) (v : Word)
  | rcRead (p : PortNo) (addr : BitVec 44) (tid : Word)
  | latchingLoRead (p : PortNo) (addr : BitVec 44) (tid : Word)
  | shutdown (p : PortNo)
  | bringup (p : PortNo)
  -- Bring-up stages (R444)
  | aonUp (us : Word) (ok : Bool) (ports : List Trained)
  | fwVerified (us : Word)
  | railsUp (us : Word) (found : RailsFound) (maxTemp : BitVec 8)
  | fusesRead (us : Word) (ok : Bool)
  | clocksLocked (us : Word) (found : ClocksFound)
  | seamsTrained (us : Word) (found : SeamsFound)
  | cellarTrained (us : Word) (found : CellarFound)
  | larderChecked (us : Word) (badRows : List (SiteNo × BitVec 14))
  | gridBuilt (us : Word)
  | knownAnswer (us : Word) (first : KaFound) (later : List KaFound) (links : List LinkNo) (streamOk cryptoOk : Bool)
  | linksTrained (us : Word) (outcomes : List Trained)
  | ready (us : Word)
  | autoretry
  -- Mailbox (R454)
  | getIdentity (p : PortNo) (tid : Word)
  | attest (p : PortNo) (tid : Word) (nonce : BitVec 256)
  | fwWrite (p : PortNo) (tid : Word) (addr : DWord) (data : List Byte)
  | fwCommit (p : PortNo) (tid : Word)
  | fwActivate (p : PortNo) (tid : Word)
  | logRead (p : PortNo) (tid : Word) (addr : DWord) (bytes : BitVec 13)
  | recordRead (p : PortNo) (tid : Word) (addr : DWord) (bytes : BitVec 13)
  | mailboxTimeout
  -- Watch units (R456 to R458)
  | wctlArm (p : PortNo) (u : WatchNo)
  | wctlStop (p : PortNo) (u : WatchNo)
  | watchStart (u : WatchNo)
  | watchEnd (u : WatchNo)
  | watchSample (u : WatchNo) (v : Word)
  -- Sideband, pins and test access (R459, R460, R485, R486)
  | stage
  | state
  | temp
  | pin
  | vin
  | ident
  | alertStatus
  | alertMask (w : Option (BitVec 16))
  | alertResponse
  | nreset (lowPeriods : Nat)
  | debugUnlock (signature : BitVec 768)
  | tapInstructionLoad (ti : TapInstr)
  | uncorrectableCodeword (l : LinkNo) (group : BitVec 16) (crc : Bool)
  | stretchRepayment (r : RegionNo)
  | copyComplete (c : SiteNo)
  | sweepFinished (r : RegionNo) (found : SweepFound) (notHot : Bool)
  | undefinedInstruction (c : SiteNo) (w : Word)
  | descriptorTypeRefused
  | testReset
  deriving DecidableEq, Repr

end Sys2Proof
end

