-- ==== Sys2Proof/Decode.lean ====
section
/-! DEFINITION. The words of the Klonal core: the instruction that a 32-bit word of a program store encodes (R104, R110 to
R120). No row of spec/opcode_table.json gives bits, so no table word spells a command. -/

namespace Sys2Proof

/-- Bits [lo+n-1:lo] of an instruction word. -/
abbrev opBits (w : Word) (lo n : Nat) : BitVec n := w.extractLsb' lo n

-- The fields of the formats (R110)

/-- rd of RR, RI, U and J; ra of B. -/
abbrev opRd (w : Word) : BitVec 4 := opBits w 20 4
/-- ra of RR and RI; rb of B. -/
abbrev opRa (w : Word) : BitVec 4 := opBits w 16 4
/-- rb of RR. -/
abbrev opRb (w : Word) : BitVec 4 := opBits w 12 4
abbrev opImm (w : Word) : BitVec 16 := opBits w 0 16
abbrev opImm20 (w : Word) : BitVec 20 := opBits w 0 20
/-- h or e of HX, and its sa, sb and mod. -/
abbrev opH (w : Word) : BitVec 6 := opBits w 18 6
abbrev opSa (w : Word) : BitVec 4 := opBits w 14 4
abbrev opSb (w : Word) : BitVec 4 := opBits w 10 4
/-- vd, va, vb, vc and T of VX. -/
abbrev opVd (w : Word) : BitVec 5 := opBits w 17 5
abbrev opVa (w : Word) : BitVec 5 := opBits w 12 5
abbrev opVb (w : Word) : BitVec 5 := opBits w 7 5
abbrev opVc (w : Word) : BitVec 5 := opBits w 2 5
abbrev opT (w : Word) : BitVec 2 := opBits w 0 2
/-- h and sa of VM. -/
abbrev opMh (w : Word) : BitVec 6 := opBits w 11 6
abbrev opMsa (w : Word) : BitVec 4 := opBits w 7 4

-- The classes (R111 to R120); none is a program fault

/-- Classes 0x0 and 0x1: the operation codes of R112 with a register or an immediate as second operand. -/
def decodeAlu (c : SiteNo) (w : Word) (b : AluB) : Nat → Instr
  | 0x0 => .add c (opRd w) (opRa w) b
  | 0x1 => .sub c (opRd w) (opRa w) b
  | 0x2 => .and c (opRd w) (opRa w) b
  | 0x3 => .or c (opRd w) (opRa w) b
  | 0x4 => .xor c (opRd w) (opRa w) b
  | 0x5 => .sll c (opRd w) (opRa w) b
  | 0x6 => .srl c (opRd w) (opRa w) b
  | 0x7 => .sra c (opRd w) (opRa w) b
  | 0x8 => .slt c (opRd w) (opRa w) b
  | 0x9 => .sltu c (opRd w) (opRa w) b
  | 0xA => .mul c (opRd w) (opRa w) b
  | 0xB => .mulh c (opRd w) (opRa w) b
  | 0xC => .min c (opRd w) (opRa w) b
  | 0xD => .max c (opRd w) (opRa w) b
  | 0xE => .clz c (opRd w) (opRa w) b
  | _ => .popc c (opRd w) (opRa w) b

/-- Operation codes of R112 that class 0x1 does not have. -/
def noImmediate (op : Nat) : Bool := [0x1, 0xA, 0xB, 0xE, 0xF].contains op

/-- Class 0x3 (R113). -/
def decodeMem (c : SiteNo) (w : Word) : Nat → Option Instr
  | 0 => some (.lw c (opRd w) (opRa w) (opImm w))
  | 1 => some (.sw c (opRd w) (opRa w) (opImm w))
  | 2 => some (.lbu c (opRd w) (opRa w) (opImm w))
  | 3 => some (.sb c (opRd w) (opRa w) (opImm w))
  | 4 => some (.ldl c (opH w) (opSa w) (opSb w))
  | 5 => some (.stl c (opH w) (opSa w) (opSb w))
  | _ => none

/-- Class 0x4: the cond field (R113). -/
def decodeBranch (c : SiteNo) (w : Word) : Nat → Option Instr
  | 0 => some (.branchEq c (opRd w) (opRa w) (opImm w))
  | 1 => some (.branchNe c (opRd w) (opRa w) (opImm w))
  | 2 => some (.branchLt c (opRd w) (opRa w) (opImm w))
  | 3 => some (.branchGe c (opRd w) (opRa w) (opImm w))
  | 4 => some (.branchLtu c (opRd w) (opRa w) (opImm w))
  | 5 => some (.branchGeu c (opRd w) (opRa w) (opImm w))
  | _ => none

/-- Class 0x5 (R113). -/
def decodeJump (c : SiteNo) (w : Word) : Nat → Option Instr
  | 0 => some (.jal c (opRd w) (opImm20 w))
  | 1 => some (.jalr c (opRd w) (opRa w) (opImm w))
  | 2 => some (.loop c (opBits w 20 2) (opRa w) (opBits w 0 12))
  | 3 => some (.waitc c (opImm w))
  | 4 => some (.halt c)
  | _ => none

/-- Class 0x6 (R114). -/
def decodeWeights (c : SiteNo) (w : Word) : Nat → Option Instr
  | 0 => some (.wload c (opH w) (opSa w) (opBits w 0 3))
  | 1 => some (.wrow c (opH w) (opSa w) (opSb w) (opBits w 0 3))
  | 2 => some (.wscale c (opH w) (opSa w))
  | 3 => some (.wswap c)
  | _ => none

/-- Class 0x7 (R114). -/
def decodeAcc (c : SiteNo) (w : Word) : Nat → Option Instr
  | 0 => some (.pass c (opH w) (opSa w) (opBits w 0 2) (opBits w 2 6) (w.getLsbD 8))
  | 1 => some (.accrd c (opH w) (opBits w 15 3) (w.getLsbD 0) (w.getLsbD 1))
  | 2 => some (.accst c (opH w) (opSa w) (opSb w) (w.getLsbD 0) (w.getLsbD 1))
  | 3 => some (.accld c (opH w) (opSa w) (opSb w))
  | 4 => some (.accnr c (opH w) (opBits w 10 8) (w.getLsbD 0) (w.getLsbD 1))
  | 5 => some (.accclr c (opH w))
  | _ => none

/-- Class 0x8: the vop field (R104). -/
def decodeVector (c : SiteNo) (w : Word) : Nat → Option Instr
  | 0x00 => some (.fadd c (opVd w) (opVa w) (opVb w) (opT w))
  | 0x01 => some (.fsub c (opVd w) (opVa w) (opVb w) (opT w))
  | 0x02 => some (.fmul c (opVd w) (opVa w) (opVb w) (opT w))
  | 0x03 => some (.ffma c (opVd w) (opVa w) (opVb w) (opVc w) (opT w))
  | 0x04 => some (.fmax c (opVd w) (opVa w) (opVb w) (opT w))
  | 0x05 => some (.fmin c (opVd w) (opVa w) (opVb w) (opT w))
  | 0x06 => some (.fabs c (opVd w) (opVa w) (opT w))
  | 0x07 => some (.fneg c (opVd w) (opVa w) (opT w))
  | 0x08 => some (.fcmplt c (opVd w) (opVa w) (opVb w) (opT w))
  | 0x09 => some (.fsel c (opVd w) (opVa w) (opVb w) (opVc w) (opT w))
  | 0x0A => some (.fscale c (opVd w) (opVa w) (opVb w) (opT w))
  | 0x10 => some (.i2f c (opVd w) (opVa w) (opT w))
  | 0x11 => some (.f2i48 c (opVd w) (opVa w) (opVb w) (opT w))
  | 0x12 => some (.i48f c (opVd w) (opVa w) (opT w))
  | 0x13 => some (.iadd c (opVd w) (opVa w) (opVb w) (opT w))
  | 0x20 => some (.sqrt c (opVd w) (opVa w) (opT w))
  | 0x21 => some (.recip c (opVd w) (opVa w) (opT w))
  | 0x22 => some (.rsqrt c (opVd w) (opVa w) (opT w))
  | 0x23 => some (.exp2 c (opVd w) (opVa w) (opT w))
  | 0x24 => some (.log2 c (opVd w) (opVa w) (opT w))
  | 0x25 => some (.tanh c (opVd w) (opVa w) (opT w))
  | 0x26 => some (.sigmoid c (opVd w) (opVa w) (opT w))
  | 0x27 => some (.erf c (opVd w) (opVa w) (opT w))
  | 0x28 => some (.vred c (opVd w) (opVa w) (opT w))
  | 0x29 => some (.vredmax c (opVd w) (opVa w) (opT w))
  | 0x30 => some (.vld c (opVd w) (opMh w) (opMsa w))
  | 0x31 => some (.vst c (opVd w) (opMh w) (opMsa w))
  | 0x32 => some (.vrq c (opVd w) (opMh w) (opMsa w) (opBits w 5 2) (w.getLsbD 4))
  | 0x33 => some (.vnr c (opVd w) (opBits w 9 8))
  | _ => none

/-- Class 0x9 (R115). -/
def decodeEngine (c : SiteNo) (w : Word) : Nat → Option Instr
  | 0 => some (.fastart c (opH w))
  | 1 => some (.fawait c (opSa w))
  | 2 => some (.fafree c)
  | 3 => some (.cpstart c (opH w) (opSa w))
  | 4 => some (.cpwait c)
  | _ => none

/-- Class 0xA (R116). -/
def decodeHandle (c : SiteNo) (w : Word) : Nat → Option Instr
  | 0 => some (.hset c (opH w) (opSa w) (opSb w))
  | 1 => some (.hown c (opH w) (opSa w))
  | 2 => some (.hrel c (opH w))
  | 3 => some (.hget c (opH w) (opSb w) (opBits w 0 2))
  | _ => none

/-- Class 0xB (R117). -/
def decodeSync (c : SiteNo) (w : Word) : Nat → Option Instr
  | 0 => some (.bar c (opBits w 19 5))
  | 1 => some (.bara c (opBits w 19 5))
  | 2 => some (.barw c (opBits w 19 5))
  | 3 => some (.efset c (opH w))
  | 4 => some (.efclr c (opH w))
  | 5 => some (.efwait c (opH w) (w.getLsbD 0))
  | 6 => some (.time c (opSb w) (w.getLsbD 0))
  | _ => none

/-- Class 0xC (R119). -/
def decodeQueue (c : SiteNo) (w : Word) : Nat → Option Instr
  | 0 => some (.qbind c (opSa w) (w.getLsbD 0))
  | 1 => some (.qrd c (opH w) (opSa w) (opSb w))
  | 2 => some (.qwr c (opH w) (opSa w) (opSb w) (w.getLsbD 0))
  | 3 => some (.qdrop c)
  | 4 => some (.qcnt c (opSb w))
  | _ => none

/-- Class 0xD (R120). -/
def decodeSystem (c : SiteNo) (w : Word) : Nat → Option Instr
  | 0 => some (.csrr c (opRd w) (opBits w 0 12))
  | 1 => some (.csrw c (opBits w 0 12) (opRa w))
  | 2 => some (.fault c (opImm w))
  | 3 => some (.fence c)
  | _ => none

/-- The instruction that a word of the core of a site encodes. A class of 0xE or 0xF and an operation code that its class
does not define encode none: they are program faults (R109). A reserved bit is ignored (R110). -/
def decodeKlonal (c : SiteNo) (w : Word) : Option Instr :=
  let op := (opBits w 24 4).toNat
  match (opBits w 28 4).toNat with
  | 0x0 => some (decodeAlu c w (.reg (opRb w)) op)
  | 0x1 => if noImmediate op then none else some (decodeAlu c w (.imm (opImm w)) op)
  | 0x2 => some (.lui c (opRd w) (opImm20 w))
  | 0x3 => decodeMem c w op
  | 0x4 => decodeBranch c w op
  | 0x5 => decodeJump c w op
  | 0x6 => decodeWeights c w op
  | 0x7 => decodeAcc c w op
  | 0x8 => decodeVector c w (opBits w 22 6).toNat
  | 0x9 => decodeEngine c w op
  | 0xA => decodeHandle c w op
  | 0xB => decodeSync c w op
  | 0xC => decodeQueue c w op
  | 0xD => decodeSystem c w op
  | _ => none

/-- The command read from a word whose bits are numbered as the opcode table numbers them: no row gives bits, so none. -/
def decodeTableWord (_nbits _w : Nat) : Option Instr := none

end Sys2Proof
end

