-- ==== Sys2Proof/Config.lean ====
section
/-! DEFINITION. What the manual leaves open: free values without a body, so that no proof can see what they are.
Each is named in a row of the assumption log. -/

namespace Sys2Proof.Config

/-- Offset in units in the last place of RECIP, RSQRT, EXP2, LOG2, TANH, SIGMOID and ERF against the correctly
rounded result, reduced to the bound of R77 where it is used. -/
opaque recipUlp : Word → Nat
opaque rsqrtUlp : Word → Nat
opaque exp2Ulp : Word → Nat
opaque log2Ulp : Word → Nat
opaque tanhUlp : Word → Nat
opaque sigmoidUlp : Word → Nat
opaque erfUlp : Word → Nat

/-- What a read of a larder word with more than two stored bits in error does (R139), by the error pattern:
0 uncorrectable, 1 wrong data with no count, 2 miscorrected with a count. -/
opaque larderOutcome : BitVec 72 → Nat
/-- The bits by which the delivered word then differs from the written word. -/
opaque larderWrong : BitVec 72 → BitVec 64

/-- The same for a cellar codeword with three or more bad symbols (R158). -/
opaque cellarOutcome : BitVec 544 → Nat
opaque cellarWrong : BitVec 544 → BitVec 512

/-- Which of the colliding values of a SCATTER_OVR stands at an address (R241), by a use count. -/
opaque scatterPick : Nat → Nat → Nat

/-- Region-clock cycles lost to stalls and latencies before a CYCLO read (R107, R120). -/
opaque stallCycles : Nat → Nat

/-- Corrected codewords of a link since the last read of LNK_FECCE (R358). -/
opaque correctedCodewords : Nat → Nat → Nat

/-- Cycles in which a bank refused a request during an access, by use count and bank (R129). -/
opaque bankConflicts : Nat → Nat → Nat

/-- Error of a region's path-delay measurement in counts, at each beacon (R196, R432). -/
opaque beaconSkew : Nat → Nat

/-- Measured values that the manual gives a register but no rule for: input energy in µJ of a descriptor (R408). -/
opaque measure : Nat → Nat

/-- What a run of the known-answer set that a belay disagreement or a restart asks for finds in a region, by a use count: field
positions of failing sites, array rows and larder rows (R376, R383). It passes where it finds nothing. -/
opaque knownSites : Nat → List (Fin 72)
opaque knownRows : Nat → List (Fin 72 × BitVec 2 × BitVec 6)
opaque knownLarRows : Nat → List (Fin 72 × BitVec 14)

/-- The signature r · 2^384 + s that the identity key of the module with a serial number makes (R455): the manual gives neither
the keys nor the secret number of a signature. -/
opaque ecdsaSign : DWord → List Byte → BitVec 768

/-- Identity data that the manual gives no layout for: the DER certificate of a module (R454), the bytes of the
configuration record and of the defect map for their contents (R455), the JEP106 code (R460). -/
opaque certificate : DWord → List Byte
opaque configRecord : List (List Nat) → List Byte
opaque defectMap : List (List Nat) → List Byte
opaque jep106 : BitVec 11

/-- SMBADDR straps of the board at the AON_UP of a use count (R459). -/
opaque smbStraps : Nat → BitVec 2

/-- What the boundary-scan register captures of the pins, whose order the manual does not give, by a use count (R460). -/
opaque scanPins : Nat → List Byte

/-- Whether a debug key's signature of a challenge is genuine (R460). -/
opaque debugSigOk : DWord → BitVec 768 → Bool
/-- The challenge offered at an AON_UP (R460). -/
opaque challenge : Nat → DWord

/-- Bytes of the attic's log entries and of the fault record for its contents, whose formats the manual does not
give; bytes of the flash that nothing has written, by use count and offset (R451). -/
opaque logEntry : BitVec 16 → BitVec 16 → DWord → BitVec 128 → List Byte
opaque faultRecord : List (List Nat) → List Byte
opaque blankByte : Nat → Nat → Byte

/-- Logical cluster that the UNIT 0xFFFF of a LOAD or STORE stands for, by the descriptor (R269, R495). -/
opaque transferOwner : BitVec 512 → Nat

/-- Depot address of the static area of a plan in a logical region, which no field of the manual carries (R206). -/
opaque staticAddr : Nat → Nat → Nat

/-- The byte that software finds where a queue of a pool delivers a poisoned word (R327). -/
opaque poisonByte : Nat → Byte

/-- Where a check stream lies in the larder of a reserve that replays it, and the bytes by which it is written there (R381): by the
use count, and for a byte its number. -/
opaque streamAt : Nat → Nat
opaque streamByte : Nat → Nat → Byte

end Sys2Proof.Config
end

