-- ==== Sys2Proof/Machine/State.lean ====
section
/-! DEFINITION. The state of the module as plain data, its faults and refusals, and the state right after reset.
Host registers stay words under their host addresses (R17, R462); a register that has never been written or set
reads its Reset column. Everything below them that the chapters name is a field of its own. -/

namespace Sys2Proof.Machine

/-- The undefined cases of R494 to R505. -/
inductive UCase where
  | u1 | u2 | u3 | u4 | u5 | u6 | u7 | u8 | u9 | u10 | u11 | u12
  deriving DecidableEq, Repr

/-- Why a step stops with a fault. -/
inductive Fault where
  /-- A command met undefined case U1 to U12. R492 gives it no effect: any value may appear and any status may be
  written. Raised by the meanings that detect the misuse. Safe: the module goes on, in a state nothing is said of. -/
  | undefinedCase (u : UCase)
  deriving DecidableEq, Repr

/-- Why a step is refused. -/
inductive Refusal where
  /-- No meaning yet for the command with this mnemonic. Raised by no meaning, only by an arm of the dispatch. Safe. -/
  | notModelled (mnemonic : String)
  /-- An unpublished instruction of the test access port while debug is unlocked in AON: the manual names none of
  them but DEBUG_UNLOCK and gives none an effect (R460). Safe. -/
  | privateTapInstruction
  deriving DecidableEq, Repr

-- The cluster (R87, R106)

/-- A core's run state (R108, R109): held in reset, running a pitch, halted at HALT, or stopped by a program fault. -/
inductive CoreRun where
  | held | running | halted | stopped
  deriving DecidableEq, Repr

/-- What a stalled core waits for. -/
inductive Stall where
  /-- FAWAIT of a pitch not filled; FASTART behind an unfinished list (R163, R165). -/
  | fawait (q : Nat)
  | fastart
  /-- CPSTART behind a busy engine; CPWAIT (R115). -/
  | cpstart
  | cpwait
  /-- A barrier arrival two phases ahead (R192); BAR and BARW waiting for the release of a phase (R117). -/
  | barArrive (b phase : Nat)
  | barRelease (b phase : Nat)
  /-- EFWAIT (R117). -/
  | efwait (f : Nat) (v : Bool)
  /-- FENCE with work outstanding (R120). -/
  | fence
  /-- A queue read with nothing to deliver, a queue write with no free cell (R320, R322). -/
  | qrd
  | qwr
  /-- A contribution held for instance n + 2 of a tree (R188). -/
  | tree (t : Nat)
  /-- An access that met an uncorrectable word: held, never completed (R141, R159). -/
  | heldAccess
  /-- The checker is full, so the primary's array port stalls (R381). -/
  | checkerFull
  deriving DecidableEq, Repr

/-- One of L0 to L3 while active (R106, R113): number, first body instruction, the address after the last, runs left. -/
structure LoopSt where
  num : BitVec 2
  start : Word
  stop : Word
  left : Word
  deriving DecidableEq, Repr

/-- One weight plane (R89): weights by row × 256 + column, scale bytes and Σw by block × 256 + column. -/
structure Plane where
  w : Tab Byte := []
  scale : Tab Byte := []
  sumW : Tab (BitVec 13) := []
  /-- The record of the WLOAD that filled it, by site, larder address and WFMT, and the WROWs applied since, by WFMT, row and
  bytes (R381). -/
  src : Option (Nat × Nat × Nat) := none
  rows : List (Nat × Nat × List Byte) := []
  deriving DecidableEq, Repr

/-- The fetch-ahead engine (R163 to R165). -/
structure FetchAhead where
  running : Bool := false
  /-- The engine's copy of the list buffer and of the handle table, taken at the start (R134, R497). -/
  listAddr : Nat := 0
  listLen : Nat := 0
  handles : Tab DWord := []
  /-- The header as read at the start: ENTRIES, PITCHES, CREDITS and SETH0 to SETH3 (R164). -/
  entries : Nat := 0
  pitches : Nat := 0
  credits : Nat := 1
  sets : List Nat := []
  /-- The next entry to write, read ahead of its turn; none once the list has ended. -/
  cur : Option (List Byte) := none
  /-- A read of the list, a fill or a write met an uncorrectable word: it is held, and the engine with it (R141, R167). -/
  held : Bool := false
  /-- Number of that entry, pitches filled so far, pitches freed so far. -/
  next : Nat := 0
  filled : Nat := 0
  freed : Nat := 0
  deriving DecidableEq, Repr

/-- Who started a COPY that runs on a copy engine (R245, R246). -/
inductive CopyBy where
  | program
  | ring (r : Nat)
  deriving DecidableEq, Repr

/-- An item of a check stream (R381): an instruction of class 0x6 to 0x8 with its scalar operand values and the
bytes it read from larders. -/
structure StreamItem where
  op : Instr
  vals : List Word
  bytes : List Byte
  deriving DecidableEq, Repr

/-- The recording of the current work tile (R377, R379, R381). -/
structure TileRec where
  sampled : Bool := false
  accexp : BitVec 9 := 0
  a1sign : Bool := false
  a1scale : Byte := 0
  plane : Plane := {}
  items : List StreamItem := []
  deriving DecidableEq, Repr

/-- One cluster site (R87, R106). A register, word or byte that is not listed is 0. -/
structure Cluster where
  -- control core
  run : CoreRun := .held
  stall : Option Stall := none
  pc : Word := 0
  sreg : Tab Word := []
  prog : Tab Word := []
  data : List Host.Cell := []
  loops : List LoopSt := []
  handles : Tab DWord := []
  /-- Caches of the plan (R204): index of the loaded program, and the handle images of the preset block. -/
  progIdx : Option Nat := none
  presets : Tab DWord := []
  -- control registers (R120)
  pitch : Word := 0
  cyc : DWord := 0
  cycHi : Word := 0
  accexp : BitVec 9 := 0
  a1sign : Bool := false
  check : Bool := false
  poison : Bool := false
  a1scale : Byte := 0x7F
  sig : DWord := 0
  accSatCnt : Word := 0
  shiftUfl : Word := 0
  outliers : Word := 0
  outlierOvf : Word := 0
  scaleNan : Word := 0
  vecSpecial : Word := 0
  qstat : BitVec 3 := 0
  timeHi : Word := 0
  -- array, accumulator file, vector unit (R89, R99, R101, R103)
  active : Plane := {}
  shadow : Plane := {}
  acc : Tab Word := []
  accSat : Tab (BitVec 256) := []
  accNan : Tab (BitVec 256) := []
  vreg : Tab Word := []
  -- engines and ports (R115, R119)
  fa : FetchAhead := {}
  copyBusy : Option CopyBy := none
  /-- A COPY that met an uncorrectable word is held and never completes (R248). -/
  copyHeld : Bool := false
  rdQueue : Option (BitVec 16) := none
  wrQueue : Option (BitVec 16) := none
  /-- Bytes read so far of the ingest window, and whether its end was reached (R322). -/
  rdPos : Nat := 0
  rdEnded : Bool := false
  /-- Queues in which the rest of the packet under way is discarded up to its end, after a QDROP or a FLUSH cut it (R324, R325). -/
  wrDrop : List Nat := []
  /-- Bytes of the QWR and of the QRD under way that the pool has taken and given, and whether any of these was poisoned. -/
  wrPart : Nat := 0
  rdPart : Nat × Bool := (0, false)
  -- belay checks (R377): the tile under way and TILES of the pitch
  tile : Nat := 0
  tiles : Nat := 0
  tileRec : TileRec := {}
  -- scrub (R130, R140, R142): words queued for write-back with the bits by which the delivered word differed from what was
  -- written, and words corrected in this pass and the last
  writeBack : List (Nat × BitVec 64) := []
  /-- Counter at the site's last complete scrub pass (R145). -/
  passAt : DWord := 0
  corrNow : List Nat := []
  corrLast : List Nat := []
  /-- Rows that gave an uncorrectable read, with its time (R142). -/
  ueLog : List (Nat × DWord) := []
  deriving DecidableEq, Repr

-- Regions, slabs and links

/-- A wake asked for and not yet admitted (R402, R403). -/
structure WakeReq where
  why : WakeFor
  since : DWord
  deferred : Bool
  deriving DecidableEq, Repr

/-- What a region holds besides its registers. -/
structure RegionSt where
  /-- A wake admitted and not complete, and the state it left (R439). -/
  waking : Bool := false
  fromDark : Bool := false
  wakeReq : Option WakeReq := none
  /-- Waits before the last pitch closes, newest first, in µs (R406). -/
  waits : List (BitVec 16) := []
  /-- Counter at entry to BIVOUAC; at the first ceiling reduction (R409, R438). -/
  bivSince : DWord := 0
  throtSince : DWord := 0
  /-- Stretches not repaid: each put the region half a grid period behind (R424 to R426). -/
  owed : Nat := 0
  stallPost : Option DWord := none
  stallsSince : Word := 0
  /-- Time beacons (R196, R432): the region's count minus the time counter, and the count it must not fall below. -/
  timeAdj : DWord := 0
  timeFloor : DWord := 0
  /-- Scrub window open (R145): the region is clocked without a grant. -/
  scrubWin : Bool := false
  /-- Time of the last aperture access to a group in retention (R146). -/
  aperAt : Option DWord := none
  /-- Postponed refreshes of the slice by rank × 256 + channel × 32 + bank (R155). -/
  postponed : Tab Nat := []
  /-- Last request to the slice (R156). -/
  sliceAt : DWord := 0
  /-- Symbols corrected in this patrol pass and the last (R160). -/
  patNow : List Nat := []
  patLast : List Nat := []
  /-- Corrected codewords, and rows of uncorrectable ones by channel, with their times (R160, R161). -/
  ceLog : List (Nat × DWord) := []
  ueLog : List (Nat × Nat) := []
  /-- Corrected errors by wire with their times (R175). -/
  wireLog : List (Nat × DWord) := []
  /-- Held-input records waiting for release: next slot is RGN_CELHELD.NEXT (R168, R169). -/
  heldSteps : List DWord := []
  /-- Steps whose record was overwritten and that the newest valid cairn does not cover (R169). -/
  heldLost : List DWord := []
  /-- The reads that each slot's payload came from: cluster within the region, bytes, QSTAT. The model's own (R370 does
  not say how a re-executed read finds its bytes). -/
  heldLog : Tab (List (Nat × Nat × Nat)) := []
  /-- NET_SAT of the network block (R190); an uncorrectable flit is held in a router of the bulk or of the control domain
  (R184, R200). -/
  netSat : Word := 0
  heldBulk : Bool := false
  heldCtl : Bool := false
  /-- Router domains up: bulk, control (R176). -/
  bulkUp : Bool := false
  ctlUp : Bool := false
  /-- Caches of the plan in the region (R204): whether its handle presets are those of the plan that ran last, and the
  program images as they were read with them; none inside where the table's length is past the program store. -/
  cached : Bool := false
  /-- Sites that the endpoints of R181 attached to at the grid build, in the order of `attachments`. -/
  attach : List Nat := []
  images : Tab (Option (List Word)) := []
  /-- Counter at which the switches of the region's last wake began to ramp (R402, R439). -/
  wakeAt : DWord := 0
  /-- A sweep is running on the region (R386), with its carrier's staging offset if a copy was made. -/
  sweeping : Bool := false
  sweepCopy : Option (Nat × Nat) := none
  deriving DecidableEq, Repr

/-- What a slab holds besides its registers. -/
structure SlabSt where
  /-- Regions of the slab in order of slack, largest first (R407). -/
  order : List Nat := []
  /-- Current of each region in the interval just ended, by position in the slab (R402). -/
  amps : List Nat := []
  /-- Reservations of wakes admitted: region, amps, counter at admission (R402). -/
  reserved : List (Nat × Nat × DWord) := []
  /-- Waves of grants still to wake, each with the A for each of its regions, its share of the granted step budget, and with
  the counter since which they wait (R31, R403, R404). -/
  waves : List (Nat × List Nat) := []
  wavesSince : DWord := 0
  hotFields : BitVec 4 := 0
  /-- The cap lowered a rate since the last module interval (R416). -/
  lowered : Bool := false
  /-- The slab is darkened (R415, R471). -/
  dark : Bool := false
  deriving DecidableEq, Repr

/-- Something the module sends on a port, a link or a pin of the host side, oldest first: the model's own record. -/
inductive Out where
  /-- Posted write and read request of host memory on a Sarros port (R281, R355). -/
  | mwr (p : Nat) (addr : DWord) (last : Bool) (data : List Byte)
  | mrd (p : Nat) (addr : DWord) (len : Nat) (tid : Nat)
  | cpl (p : Nat) (tid : Nat) (status : Nat) (off : Nat) (last : Bool) (data : List Byte)
  | mgt (p : Nat) (tid : Nat) (op : Nat) (status : Nat) (data : List Byte)
  /-- A fragment of an actuation frame: port, channel, byte offset within the frame, LAST, bytes (R317, R355). -/
  | frag (p ch off : Nat) (last : Bool) (data : List Byte)
  /-- Depot packet: link, PTYPE, FLAGS, TID, address, BYTES, epoch, data (R347). -/
  | depot (l : Nat) (ptype flags tid : Nat) (daddr : DWord) (count epoch : Nat) (data : List Byte)
  /-- Handoff packet: link, PTYPE, FLAGS, TID, address, BYTES, epoch, PITCH, JOBTAG, STEP, SFROM, STO, data (R347, R350). -/
  | handoff (l : Nat) (ptype flags tid : Nat) (daddr : DWord) (count epoch pitch : Nat) (jobtag step : DWord) (sfrom sto : Nat)
      (data : List Byte)
  /-- Link-layer flit: link, LTYPE, its fields in byte order (R335). -/
  | flit (l : Nat) (ltype : Nat) (fields : List Nat)
  /-- Time beacon to every region (R196). -/
  | beacon (count : DWord)
  /-- SMBus reply (R459), and what a scan of the register that a test instruction selects brings out on TDO (R460). -/
  | smbus (data : List Byte)
  | tdo (data : List Byte)
  deriving DecidableEq, Repr

/-- One link or Sarros port (R331 to R346). -/
structure LinkSt where
  /-- Physical lane of each logical lane in the transmit and receive directions, 15 for a lane removed; transmit spares and
  failed lanes (R341 to R343). -/
  txLanes : List Nat := []
  rxLanes : List Nat := []
  spares : List Nat := []
  txFailed : BitVec 10 := 0
  rxFailed : BitVec 10 := 0
  /-- Groups sent and groups received good in order since training ended, as they were at a raw count of the time source;
  the numbers in the flits are these modulo 65,536 (R334, R335). -/
  txBase : Nat := 0
  rxBase : Nat := 0
  txSince : DWord := 0
  rxSince : DWord := 0
  /-- The replay buffer: what the last 256 groups carried, oldest first, with the group of each (R339). -/
  replay : List (Nat × Out) := []
  /-- Swaps announced and not yet in force: 0 transmit or 1 receive, logical lane, new physical lane, group G (R342, R343). -/
  swaps : List (Nat × Nat × Nat × Nat) := []
  /-- Corrected codewords since the last read of LNK_FECCE: index of the free value that stands for them (R358). -/
  fecSince : Option Nat := none
  /-- NAKs of one group without progress, the group, and the highest group acknowledged (R339). -/
  nakCount : Nat := 0
  nakGroup : BitVec 16 := 0
  ackGroup : BitVec 16 := 0xFFFF
  /-- The receiver ignores groups until RESYNC (R339). -/
  awaitResync : Bool := false
  /-- Credits held, and credits owed to the peer, for SYNC, CONTROL or MGT, BULK, STREAM (R336). -/
  crSync : Nat := 0
  crControl : Nat := 0
  crBulk : Nat := 0
  crStream : Nat := 0
  owedSync : Nat := 0
  owedControl : Nat := 0
  owedBulk : Nat := 0
  owedStream : Nat := 0
  /-- A frame's fragments have begun and its last one has not gone out (R355). -/
  inFrame : Bool := false
  /-- Packets that wait for credits, oldest first: pool, flits, packet (R336, R337). -/
  txq : List (Nat × Nat × Out) := []
  /-- Deskew: groups in which each logical lane's ALIGN was seen (R334). -/
  aligned : Tab (BitVec 16) := []
  /-- DOWN was commanded, so the link stays DOWN (R358); DOWN attempts made since it went down (R344). -/
  stayDown : Bool := false
  tries : Nat := 0
  /-- In PEER_FAIL the signal has gone, so its return trains (R344). -/
  sigLost : Bool := false
  /-- Restart epoch, EPACK awaited, and exclusion from every set (R351, R352). -/
  epoch : Byte := 0
  epackDue : Bool := false
  excluded : Bool := false
  deriving DecidableEq, Repr

-- Fuses and attic

/-- The fuses (R1, R16, R451): set at manufacture, but for the counter. -/
structure Fuses where
  grade : Byte := 0x0B
  revision : Byte := 0x41
  serial : DWord := 0
  keyHash : BitVec 384 := 0
  /-- Anti-rollback fuses blown (R451). -/
  k : Nat := 0
  /-- Bad regions and bad sites by physical number, bypassed routers by site (R22 to R24, R178). -/
  badRegions : List Nat := []
  badSites : List Nat := []
  bypass : List Nat := []
  /-- SKIP word of each site; 32 in every block where nothing is spared (R121, R122). -/
  skip : Tab Word := []
  /-- Larder spare maps by site × 256 + bank × 16 + spare (R147). -/
  larMap : Tab Word := []
  /-- VSET trim by region in mV (R395). -/
  vset : Tab Nat := []
  deriving DecidableEq, Repr

/-- A firmware image in the attic or the staging buffer, as its header fields and body (R452). -/
structure FwImage where
  bytes : List Host.Cell := []
  len : Nat := 0
  deriving DecidableEq, Repr

/-- Saved settings of a link (R449): what it was trained against, equaliser taps by lane, active and spare lanes. -/
structure LinkSet where
  peer : DWord
  eq : List Word
  tx : List Nat
  rx : List Nat
  spares : List Nat
  rxSpares : List Nat
  deriving DecidableEq, Repr

/-- One copy of the settings area (R449, R450): its sequence number, whether its CRC is valid, and its records. The delays and
levels of a record are measured: each is the use count of the free values that stand for them. -/
structure Settings where
  seq : Nat := 0
  ok : Bool := true
  links : Tab (Option LinkSet) := []
  /-- Seam and bridge link groups: those of a training of all, with the module's serial, and those trained alone since. -/
  seams : Option (DWord × Nat) := none
  groups : Tab Nat := []
  /-- Cellar channels by region × 8 + channel of its slice: serial, stack temperature at training, delays and levels of its ranks. -/
  cellar : Tab (Option (DWord × Nat × Nat)) := []
  /-- Records whose CRC-32 does not match: 3 × link, 3 × group + 1, 3 × channel + 2. -/
  bad : List Nat := []
  deriving DecidableEq, Repr

/-- The attic's flash (R449 to R451), but for the copy of an image in the staging buffer. -/
structure Attic where
  image : FwImage := {}
  /-- The two copies of the settings area (R450, R451). -/
  copy0 : Settings := {}
  copy1 : Settings := {}
  bootcfg : Word := 0
  /-- Marks: bad sites, bad regions, retired regions (with cause; bit 4 set when forced), site conflicts posted. -/
  badSites : List Nat := []
  retired : Tab Nat := []
  retiredOrder : List Nat := []
  conflicts : List Nat := []
  /-- Spare rows, bypasses, remaps, wires, suspect marks with their times, deferrals, sweeps. -/
  skip : Tab Word := []
  larMap : Tab Word := []
  bypass : List Nat := []
  celMap : Tab Word := []
  wires : Tab Word := []
  suspects : List (Nat × DWord) := []
  resil : Tab Word := []
  sweep : Tab Word := []
  bump : Tab Word := []
  /-- Lost VCORE phases by region and lost converter phases by slab, as bit masks (R399, R415, R455). -/
  phases : Tab Nat := []
  convPhases : Tab Nat := []
  /-- Slabs whose frame converter has failed and does not start again (R440). -/
  deadConvs : List Nat := []
  guard : List Nat := []
  /-- Marginal sites that the next planned restart replaces (R386), and suspect bump groups after a region's first (R401). -/
  marginal : List Nat := []
  bumpGroups : List (Nat × Nat) := []
  /-- Depot-link engines that failed their known-answer kernel, and whether the stream unit's conversion path did (R388, R447). -/
  badLinks : List Nat := []
  badStream : Bool := false
  /-- Repairs recorded and not yet applied (R367). -/
  todo : List ReportKind := []
  /-- Every log byte written so far, oldest first; the newest 8 MiB are kept (R451). -/
  log : List Byte := []
  /-- Highest erase count of the flash blocks that settings and images have been written to (R473). -/
  wear : Nat := 0
  deriving DecidableEq, Repr

-- Time, device, bring-up

/-- Device states (R37, R440); RUN is READY with a grant. -/
inductive DevBase where
  | off | aon | ready | degraded | restart
  deriving DecidableEq, Repr

/-- Stages of bring-up in order (R444). -/
inductive StageNo where
  | aonUp | fwVerified | railsUp | fusesRead | clocksLocked | seamsTrained | cellarTrained | larderChecked
  | gridBuilt | knownAnswer | linksTrained | ready
  deriving DecidableEq, Repr

/-- The attic write of FW_COMMIT (R454). -/
structure FlashWrite where
  image : FwImage
  port : Nat
  tid : Nat
  until_ : DWord
  runs : Bool
  deriving DecidableEq, Repr

/-- Device, supplies, pins and bring-up. -/
structure Dev where
  base : DevBase := .aon
  /-- Stage that runs next, if bring-up is running or about to run. -/
  next : Option StageNo := some .aonUp
  /-- The part is in DEGRADED for good (R440). -/
  degraded : Bool := false
  fuses : Bool := false
  grid : Bool := false
  /-- The bypass list as every router received it at the last grid build (R180): the routers named, and the regions whose bulk or
  control domain was down. -/
  routeNamed : List Nat := []
  routeNoBulk : List Nat := []
  routeNoCtl : List Nat := []
  crypto : Bool := true
  fwOk : Bool := false
  retried : Bool := false
  retryDue : Bool := false
  railsUs : Nat := 0
  /-- The 48 V input reads in range, has been in range for 100 ms (R444), and the standby input is in range. -/
  v48 : Bool := false
  v48Held : Bool := false
  v12 : Bool := false
  /-- A reset through nRESET holds RAILS_UP off while the part is hot (R487). -/
  afterReset : Bool := false
  /-- Input energy metered since AON_UP (R417): the use counts of the free amounts, one for each interval of R405. -/
  energy : List Nat := []
  backup : Bool := false
  /-- REFCLK valid (R419). -/
  refOk : Bool := false
  coolBad : Bool := false
  tripped : Bool := false
  outageFrom : Option DWord := none
  /-- Writes of the attic under way: a copy of the settings (R450), and an image with the raw count at which its write ends, the
  request that it answers, and whether it runs then (R453, R454). -/
  saving : Option Settings := none
  flashing : Option FlashWrite := none
  /-- Output pins (R485, R487): asserted. -/
  nAlert : Bool := false
  nTrip : Bool := false
  pGood : Bool := false
  -- SMBus (R459): the straps as sampled at AON_UP, and the alert causes
  smbStraps : BitVec 2 := 0
  alerts : BitVec 16 := 0
  alertMask : BitVec 16 := 0
  -- test access port (R460)
  tap : TapInstr := .idcode
  /-- The boundary-scan register as last captured: the management connector, the clock inputs and the lane control pins. -/
  scan : List Byte := []
  debug : Bool := false
  challenge : DWord := 0
  deriving DecidableEq, Repr

/-- The time source (R431 to R436). -/
structure Clock where
  counter : DWord := 0
  /-- Reference counts since AON_UP, without steps and slews. -/
  raw : DWord := 0
  /-- Slew left, and counts to hold (R433). -/
  slew : Int := 0
  hold : Nat := 0
  drift : Bool := false
  onHold : Bool := false
  /-- REFCLK runs outside its range, so that its offset is measured (R419). -/
  refOut : Bool := false
  /-- Stretches owed by a region minus those of a neighbour when their crossing was last aligned (R426, R427), by the lower
  region of the two and whether the other lies below it or beside it. -/
  walkBase : Tab Int := []
  aligned : Bool := false
  lastEdge : Option DWord := none
  /-- Counter at the loss that holdover bridges (R430). -/
  lostAt : Option DWord := none
  /-- Regions that must still switch back (R430). -/
  switching : List Nat := []
  /-- TIME cells of the time-beacon queue, newest first; an accepted edge takes them (R319, R433). -/
  beacons : List (BitVec 512) := []
  /-- Posting times for at-most-once-per-second events (R287, R416). -/
  capPost : Option DWord := none
  deriving DecidableEq, Repr

-- Sync network and reduction trees

/-- A sum on its way to a node of a tree (R186): 1 to a region hub, 2 to a row hub, 3 to the root. -/
structure TreeMsg where
  tree : Nat
  inst : Nat
  level : Nat
  node : Nat
  src : Nat
  vals : List DWord
  deriving DecidableEq, Repr

/-- What the clusters of a region know of flags, releases and completions (R188, R192, R193). -/
structure SyncCopy where
  flags : DWord
  barPhase : Tab Nat
  treeInst : Tab Nat
  deriving DecidableEq, Repr

structure SyncNet where
  /-- Tree and barrier tables of the loaded plan, 32-byte entries (R185, R191). -/
  treeTab : Tab (BitVec 256) := []
  barTab : Tab (BitVec 256) := []
  /-- Phases released of each barrier; arrivals by barrier × 16384 + logical cluster (R192). -/
  barPhase : Tab Nat := []
  arrivals : Tab Nat := []
  /-- The first phase of a barrier, plus one, of which an unpowered router lost an arrival (R178, R179). -/
  barLost : Tab Nat := []
  /-- Regions that an unpowered router has kept a broadcast from, with what they last heard; every other region has what the
  homes and roots hold. -/
  cut : List (Nat × SyncCopy) := []
  /-- Event flags at their home, equal to every cluster's copy but those of `cut` (R193). -/
  flags : DWord := 0
  /-- Instances complete; contributions by tree × 16384 + logical cluster; sums in flight (R188). -/
  treeInst : Tab Nat := []
  contrib : Tab Nat := []
  msgs : List TreeMsg := []
  deriving DecidableEq, Repr

-- Rings and jobs

/-- Progress of an outstanding descriptor (R255, R264): held for a tick, in the grant queue, granted, or waiting for
other work without a grant. -/
inductive Progress where
  | tickHold | queued | granted | waiting
  deriving DecidableEq, Repr

/-- What a completion record is to say (R276); times, energy and slack are found when it is written. -/
structure CompRec where
  status : Nat
  detail : Nat
  flags : Nat
  checks : Nat
  deriving DecidableEq, Repr

/-- A stretch binding of a plan (R275), and the STEP of the first RUN_PLAN that ran under its JOBTAG (R224). -/
structure HandBind where
  stretch : Nat
  peer : Nat
  jobtag : DWord
  nextAddr : DWord
  prevAddr : DWord
  links : BitVec 48
  first : Option DWord
  deriving DecidableEq, Repr

/-- An outstanding descriptor (R255). -/
structure Outst where
  desc : BitVec 512
  idx : Word
  prog : Progress
  tStart : DWord
  hadGrant : Bool := false
  /-- RUN_PLAN: the directory entry as taken (R203), and the window of a stream step. -/
  hreg : Nat := 0
  hoff : Nat := 0
  window : Option Word := none
  /-- The policy in force at taking (R273): sampling code, NO_RAISE, MARGIN_RETIRE, CAIRN_INT, report-only, and the
  plan's switched pitches (R83). -/
  belay : Nat := 0
  noRaise : Bool := false
  marginRetire : Bool := false
  cairnInt : Nat := 0
  reportOnly : Bool := false
  alts : List Nat := []
  /-- RUN_PLAN: its directory entry was written after it was taken, and the binding of the plan as it stood (R203). -/
  old : Option (Option HandBind) := none
  /-- Power budget of the step's grant in 0.1 kW (R31); COPY and CAIRN have begun, once their regions were clocked (R437). -/
  budget : Nat := 0
  begun : Bool := false
  /-- Release of the step, and the tick that emitted its outputs (R278). -/
  relAt : Option DWord := none
  emitTick : Option DWord := none
  /-- The tick after the one that closed the window, when it fell before the release (R314). -/
  missTick : Option DWord := none
  /-- FENCE: the descriptors awaited, as ring and index, and whether it waits for the drain (R271). -/
  waitFor : List (Nat × Word) := []
  drain : Bool := false
  /-- Regions and links of the request (R264). -/
  regions : List Nat := []
  links : List Nat := []
  /-- Sites that failed in a SWEEP (R279). -/
  failed : Nat := 0
  /-- Executed again inside a replay, without a record and without outputs (R372). -/
  internal : Bool := false
  rec_ : Option CompRec := none
  deriving DecidableEq, Repr

/-- One job ring with its completion ring (R250 to R263). -/
structure RingSt where
  /-- Descriptors fetched and not yet taken, in order, and the index of the next to fetch. -/
  fetched : List (BitVec 512) := []
  fetchIdx : Word := 0
  /-- A read of descriptors, or of the completion ring's consumer word, is in flight. -/
  fetching : Bool := false
  spaceRead : Bool := false
  /-- A NUDGE came while a read of the doorbell word was in flight (R259). -/
  nudgeAgain : Bool := false
  out : Option Outst := none
  /-- Index after the last completed descriptor, and the released index last written (R257, R282). -/
  done : Word := 0
  released : Word := 0
  /-- Stream binding: ingest and actuation masks, and a pending tick (R39, R272). -/
  ingest : BitVec 16 := 0
  actuate : BitVec 8 := 0
  pendTick : Bool := false
  underrun : Bool := false
  /-- Fault index G of a rewind, and whether the rewind stopped (R290, R292). -/
  faultIdx : Option Word := none
  /-- Window that the descriptor at G had been granted (R370). -/
  faultWindow : Option Word := none
  /-- The fault index of a ring that has passed it within the restart; in a fold, whether its record is due once more (R291). -/
  pastIdx : Option Word := none
  gAgain : Bool := false
  rewindStopped : Bool := false
  /-- The rewind has stopped, and the ring moves to STOPPED with RESTART_DONE (R292). -/
  halted : Bool := false
  /-- Descriptors taken since the local snapshot, by index, and those that a replay has still to execute (R372). -/
  hist : List (Word × BitVec 512) := []
  replayQ : List (Word × BitVec 512) := []
  deriving DecidableEq, Repr

/-- An event record that waits to be written (R284). -/
structure EventRec where
  code : BitVec 16
  source : BitVec 16
  drift : Bool
  time : DWord
  data : BitVec 128
  deriving DecidableEq, Repr

/-- Coalescing of one code and source (R287). -/
structure Coal where
  at_ : DWord
  count : Nat
  extra : Nat
  deriving DecidableEq, Repr

/-- What a read of host memory is for (R258 to R261, R269); a poll names the rings that were RUNNING. -/
inductive ReadFor where
  | doorbell (ring : Nat)
  | poll (rings : List Nat)
  | descs (ring : Nat)
  | space (rec_ : Nat)
  | load (ring lar unit off : Nat)
  deriving DecidableEq, Repr

/-- A read of host memory in flight (R355). -/
structure HostRead where
  tid : Nat
  port : Nat
  len : Nat
  got : List Byte
  why : ReadFor
  addr : DWord
  sent : Bool
  deriving DecidableEq, Repr

/-- Where the step stands (R38). -/
inductive Phase where
  | waking | pitches | checks | released | recorded
  deriving DecidableEq, Repr

/-- An inbound handoff of the running step (R224, R350): the table entry, the tag, the bytes received, and the pulls
sent; checked when the tag is written whole, done when the engines have reported it. -/
structure Inbound where
  /-- The entries that share the tag, in the order of the table (R223, R350). -/
  entries : List Nat
  pitch : Nat
  lag : Nat
  tagStep : DWord
  from_ : Nat
  /-- Logical region, DST and bytes of each entry, in the order of the table. -/
  parts : List (Nat × Nat × Nat)
  got : Nat
  /-- BYTES and CRC-32 of HEND, once it has come. -/
  total : Option (Nat × Word)
  pulls : Nat
  /-- The pull sent last: TID, link and times sent (R349). -/
  tid : Nat
  link : Nat
  tries : Nat
  checked : Bool
  done : Bool
  deriving DecidableEq, Repr

/-- The running RUN_PLAN (R38, R213). -/
structure StepSt where
  ring : Nat
  handle : Nat
  hreg : Nat
  /-- The plan header as read at the grant. -/
  hdr : List Byte
  step : DWord
  phase : Phase
  pitch : Nat
  /-- Physical regions in which the pitch has started, regions that have done their part of the wake, and those that reload
  what they cache (R204, R212). -/
  regionsUp : List Nat
  joined : List Nat
  reload : List Nat
  seed : DWord
  window : Option Word
  poisoned : Bool
  replayed : Bool
  /-- Sampling code, NO_RAISE, report-only and switched pitches of the step; whether a disagreement in it raised the rate (R53). -/
  belay : Nat
  noRaise : Bool
  reportOnly : Bool
  alts : List Nat
  raised : Bool
  /-- As in `Outst`. -/
  old : Option (Option HandBind)
  /-- Tiles checked and disagreements, for CHECKS (R279). -/
  sampled : Nat
  disagree : Nat
  inbound : List Inbound
  /-- A re-executed step reads held inputs: payload by logical region (R370). -/
  reexec : Bool
  held : Tab (List Byte)
  /-- The reads of that payload by logical region, and reads made so far by logical cluster. -/
  heldLog : Tab (List (Nat × Nat × Nat))
  heldPos : Tab Nat
  /-- Slots taken in this step by logical region (R168). -/
  heldSlot : List (Nat × Nat)
  deriving DecidableEq, Repr

/-- A write of host memory: whether it is a record, a notification or a shadow word, whether it is the last of its transfer,
address and bytes (R281, R283, R347). -/
structure HostWr where
  ring : Bool
  last : Bool
  addr : DWord
  data : List Byte
  deriving DecidableEq, Repr

/-- The job engine, the job gate and the policy (R31, R263, R264, R273). -/
structure Jobs where
  rings : Tab RingSt := []
  lastRing : Nat := 63
  /-- Rings whose request waits for a grant, in the order taken; a tick-held RUN_PLAN goes first (R32). -/
  queue : List Nat := []
  ahead : List Nat := []
  /-- Rings whose RUN_PLAN is held for a tick, in the order taken (R39). -/
  tickQ : List Nat := []
  grants : List Nat := []
  step : Option StepSt := none
  planLast : Option Nat := none
  planStale : List Nat := []
  altSet : List (Nat × Nat) := []
  reportOnly : List Nat := []
  cairnSet : List Nat := []
  binds : Tab (Option HandBind) := []
  /-- RUN_PLAN completions since the last snapshot; a cairn forced by an overrun (R169, R362). -/
  sinceCairn : Nat := 0
  forceCairn : Bool := false
  /-- STEP of the RUN_PLAN that ran last; all ones before the first. -/
  lastStep : DWord := 0xFFFFFFFFFFFFFFFF
  -- host memory traffic
  events : List EventRec := []
  held : List EventRec := []
  everOn : Bool := false
  loss : Bool := false
  coal : Tab (Option Coal) := []
  reads : List HostRead := []
  nextTid : Nat := 0
  /-- Writes of host memory handed to the ring port in the last 1 ms, oldest first, with their times; no bytes of STORE data
  (R283). -/
  recent : List (DWord × HostWr) := []
  /-- Writes of host memory that wait for a port, oldest first: those that a lost port must see again or never sent, and those
  made without one. -/
  owed : List HostWr := []
  /-- The ring port has lost its link, and ring traffic has found no port since (R283). -/
  portGone : Bool := false
  deriving DecidableEq, Repr

-- Stream

/-- One slot of an ingest channel (R302, R304). -/
structure SlotSt where
  val : Word := 0
  last : Word := 0
  ever : Bool := false
  /-- A value accepted at or after the count of a tick that has not been taken yet: it belongs to the window after (R303). -/
  early : Option Word := none
  deriving DecidableEq, Repr

/-- A closed window with its packets by channel (R305, R307). -/
structure WinSt where
  num : Word
  tick : DWord
  /-- WFLAGS of its packets (R305). -/
  flags : Byte
  /-- Holds of steps: ring, its ingest channels, and whether the step's completion record is written; whether a step ever
  held the window. -/
  holds : List (Nat × BitVec 16 × Bool)
  used : Bool
  packets : List (Nat × List Byte)
  /-- Channels flushed or freed (R325). -/
  cut : List Nat
  /-- Words with wrong bits in the pool by channel, word index and number of bits (R327). -/
  bad : List (Nat × Nat × Nat)
  deriving DecidableEq, Repr

structure Cadence where
  pin : Bool
  period : Nat
  phase : DWord
  deriving DecidableEq, Repr

/-- An item of an actuation queue or the hold buffer (R315, R316). -/
structure ActItem where
  win : Word
  seq : Word
  bytes : List Byte
  trunc : Bool
  /-- Packets linked and the cells that they hold (R323); words with wrong bits: index and number of bits (R327). -/
  pkts : Nat
  cells : Nat
  bad : List (Nat × Nat)
  deriving DecidableEq, Repr

/-- A packet of a queue (R321, R326), or a staged actuation packet (R315). -/
structure QPkt where
  queue : Nat
  prod : Nat
  bytes : List Byte
  ended : Bool
  trunc : Bool
  /-- The reader that has begun on it and the bytes it has read. -/
  reader : Option Nat
  pos : Nat
  visible : Bool
  /-- Cut-through threshold in force when the packet began (R321). -/
  ct : Nat
  bad : List (Nat × Nat)
  deriving DecidableEq, Repr

structure ActSt where
  item : Option ActItem := none
  hold : Option ActItem := none
  emitted : Bool := false
  under : Word := 0
  deriving DecidableEq, Repr

structure StreamSt where
  cad : Option Cadence := none
  newCad : Option (Cadence × DWord) := none
  /-- A moment taken as the previous tick; a step of the counter that passed one (R311, R434). -/
  lastTick : DWord := 0
  window : Word := 0
  slots : Tab SlotSt := []
  wins : List WinSt := []
  acts : Tab ActSt := []
  staged : List QPkt := []
  packets : List QPkt := []
  /-- Slip waiting for the next first-time grant: window and tick (R313). -/
  slip : Option (Word × DWord) := none
  commit : Option (Nat × BitVec 128) := none
  fallback : Bool := false
  deriving DecidableEq, Repr

-- Depot traffic

inductive ReqKind where
  | read | write | imageWrite | headerWrite | imageRead | staticRead
  deriving DecidableEq, Repr

/-- A depot packet to be sent or acknowledged (R348, R349). -/
structure DepReq where
  tid : Nat
  link : Nat
  /-- Links of the set. -/
  set : List Nat
  kind : ReqKind
  daddr : DWord
  /-- Data of a write; bytes asked for by a read. -/
  bytes : List Byte
  len : Nat
  last : Bool
  /-- Where read data goes, in order: a larder (1) or a slice (0), its number, the offset and the bytes, or nowhere (2). Data past
  the last part goes nowhere. -/
  parts : List (Nat × Nat × Nat × Nat)
  ring : Option Nat
  tries : Nat
  sent : Bool
  deriving DecidableEq, Repr

/-- A handoff packet that waits for a link of its binding's set to its depot (R349, R350). -/
structure HandPkt where
  links : List Nat
  peer : Nat
  pool : Nat
  bytes : Nat
  pkt : Out
  deriving DecidableEq, Repr

-- Resilience

/-- A snapshot in the staging areas (R362 to R366). -/
structure Snap where
  number : DWord
  step : DWord
  time : DWord
  e : Nat
  carrier : Nat
  stagingOff : Nat
  sigs : Tab DWord
  rewind : DWord
  ringIdx : Tab Word
  plans : List Nat
  alt : List (Nat × Nat)
  slot : Nat
  /-- Depot and address of the slot (R364). -/
  depot : Nat
  addr : Nat
  /-- Context areas in the order of the image (R361). -/
  areas : List (Nat × Nat)
  carrierRing : Option Nat
  /-- It was taken while a planned restart is due, for which it serves (R373). -/
  forPlan : Bool
  /-- No held record has been overwritten since the snapshot (R169). -/
  covers : Bool
  deriving DecidableEq, Repr

/-- The restart under way (R290, R368). -/
structure RestartSt where
  planned : Bool
  replay : Bool
  /-- No cairn is valid: rings end instead of rewinding (R413). -/
  noCairn : Bool
  began : DWord
  /-- Regions to retire: region, cause, forced, SOURCE kind of the report. -/
  retire : List (Nat × Nat × Bool × Nat)
  /-- Regions named for a known-answer run, and regions to exclude (R383). -/
  known : List Nat
  excl : List Nat
  /-- Logical regions that moved, and codewords of remapped rows by physical region (R159). -/
  moved : List Nat
  lost : List (Nat × Nat)
  /-- Static areas of the plans by handle, and held-input rings with their slots and slot size, as the headers gave them
  before anything moved (R168, R206). -/
  statics : List (Nat × Nat × Nat)
  rings : List (Nat × Nat × Nat)
  /-- Slices that still hold the held-input ring of a logical region that has moved, by logical region, and slices found
  unreadable in the restart (R374). -/
  homes : List (Nat × Nat)
  unread : List Nat
  /-- Step 2 is done; the reads of step 5 were issued; the device has left RESTART. -/
  rebuilt : Bool
  reading : Bool
  left : Bool
  /-- Reads back that failed RSIG since the path came up (R369). -/
  fails : Nat
  stopped : Bool
  /-- The rails dropped: continue at READY with every region moved (R413). -/
  supply : Bool
  /-- A read or write of the restart itself met an uncorrectable word and is held (R141, R159). -/
  stuck : Bool
  /-- A trip was in force at step 1: the regions keep their retention until step 2 begins (R411). -/
  unreset : Bool
  deriving DecidableEq, Repr

/-- A belay check (R379 to R383). -/
structure Check where
  slot : Nat
  primary : Nat
  lc : Nat
  pitch : Nat
  tile : Nat
  sig : DWord
  rec_ : TileRec
  checker : Nat
  third : Option Nat
  sigC : Option DWord
  deriving DecidableEq, Repr

structure Resil where
  intake : List ReportKind := []
  restart : Option RestartSt := none
  checks : List Check := []
  nextCheck : Nat := 0
  snap : Option Snap := none
  /-- The newest valid cairn. -/
  cairn : Option Snap := none
  local_ : Bool := false
  nextNum : DWord := 0
  /-- Regions that bring-up retired and REGION_RETIRED does not name yet, each with the SOURCE kind of its cause (R375). -/
  found : List (Nat × Nat) := []
  /-- Regions that the round of scheduled sweeps under way has swept to the end (R387, R390). -/
  swept : List Nat := []
  /-- Regions on which sweeps have started in the idle window under way (R387), and whether one is: from a step's phase 9 to the
  next grant. -/
  winSwept : List Nat := []
  idleWin : Bool := false
  lastSweep : DWord := 0
  lastPlanned : Option DWord := none
  plannedDue : Bool := false
  /-- A held record was overwritten: until the next cairn is valid, none serves as a restart point (R169). -/
  overrun : Bool := false
  deriving DecidableEq, Repr

-- Management

/-- The Ehrore mailbox, staging buffer and watch units (R454 to R458). -/
structure Mgmt where
  /-- Port and TID of the mailbox operation under way (R454). -/
  busy : Option (Nat × Nat) := none
  staging : List Host.Cell := []
  fill : Nat := 0
  recovery : Bool := false
  /-- Time of the last sample of a watch unit that samples a level (R456). -/
  watchLast : Tab (Option DWord) := []
  version : Word := 0
  svn : Nat := 0
  running : FwImage := {}
  commitFlag : Bool := false
  deriving DecidableEq, Repr

/-- The module. -/
structure State where
  fuses : Fuses := {}
  attic : Attic := {}
  dev : Dev := {}
  clk : Clock := {}
  /-- Host registers by host address (R462); unlisted: the Reset column. -/
  regs : List (Nat × Option Word) := []
  /-- HI latches by port × 2^44 + LO address (R466). -/
  latches : Tab (Option Word) := []
  /-- Larder bytes by site × 2^22 + address, stored error patterns by site × 2^19 + word (R124, R139, R147). -/
  larder : List Host.Cell := []
  larErr : Tab (BitVec 72) := []
  /-- Cellar bytes by physical region × 2^35 + slice offset, error patterns by region × 2^29 + codeword (R150, R158). -/
  cellar : List Host.Cell := []
  celErr : Tab (BitVec 544) := []
  /-- Accesses whose refused cycles the conflict counters have counted since they were read, by site × 16 + bank, with
  the use count of the free number of cycles (R129). -/
  conflicts : List (Nat × Nat) := []
  clusters : Tab Cluster := []
  regions : Tab RegionSt := []
  slabs : Tab SlabSt := []
  links : Tab LinkSt := []
  sync : SyncNet := {}
  jobs : Jobs := {}
  points : Tab (BitVec 128) := []
  strm : StreamSt := {}
  reqs : List DepReq := []
  hands : List HandPkt := []
  resil : Resil := {}
  mgmt : Mgmt := {}
  out : List Out := []
  /-- The model's own count of free values used; no statement rests on it. -/
  freeCtr : Nat := 0
  pending : List Instr := []
  deriving DecidableEq, Repr

/-- The module right after reset: AON_UP is about to run (R440, R444). Every register reads its Reset column, and the queue is
empty. The 48 V input is not yet known to be in range, and the standby input that started AON_UP is noted with it (DESIGN
CHOICE, see the assumption log). -/
def State.reset : State := {}

end Sys2Proof.Machine
end

