-- ==== Sys2Proof/Machine/RegMap.lean ====
section
/-! DEFINITION. The host-view address map (R462) and the register maps of every chapter: where each register lies
and, for each of its bits, the access code of R14 and the Reset column of R16. -/

namespace Sys2Proof.Machine

/-- A register: the bits of each access code, its Reset column where that is a number, and its When column (R14 to
R17). A bit of no mask is RO or reserved. Fuse and attic resets are homes of their own and are read there. -/
structure RegDef where
  rw : Word := 0
  w1c : Word := 0
  w1s : Word := 0
  rc : Word := 0
  reset : Word := 0
  setup : Bool := false
  deriving DecidableEq, Repr

namespace Reg

abbrev rngBase (n : Nat) : Nat := 0x10000 + n * 0x40
abbrev slbBase (s : Nat) : Nat := 0x2000000 + s * 0x100000
abbrev rgnBase (r : Nat) : Nat := 0x4000000 + r * 0x10000
/-- Depot links 0 to 47, then the Sarros ports 48 and 49. -/
abbrev lnkBase (n : Nat) : Nat := if n < 48 then 0x5000000 + n * 0x1000 else 0x5040000 + (n - 48) * 0x1000
abbrev mgtBase : Nat := 0x6000000
abbrev watchBase (u : Nat) : Nat := 0x6010000 + u * 0x100
/-- Larder registers of a physical site (R147). -/
abbrev larBase (site : Nat) : Nat := rgnBase (site / 72) + 0x9000 + (site % 72) * 0x80
abbrev larAperture : Nat := 0x4000000000
abbrev celAperture : Nat := 0x80000000000
abbrev GLB_IDENT : Nat := 0x0
abbrev GLB_GRADE : Nat := 0x4
abbrev GLB_SERIALLO : Nat := 0x8
abbrev GLB_SERIALHI : Nat := 0xc
abbrev GLB_STAGE : Nat := 0x10
abbrev GLB_STAGETIME : Nat := 0x14
abbrev GLB_BOOTCFG : Nat := 0x18
abbrev GLB_FWVER : Nat := 0x1c
abbrev GLB_SECURE : Nat := 0x20
abbrev GLB_BOOTTIME : Nat := 0x24
abbrev GLB_GRIDSTAT : Nat := 0x180
abbrev GLB_GRIDGEN : Nat := 0x184
abbrev GLB_POLICY : Nat := 0x200
abbrev GLB_POLCAIRN : Nat := 0x204
abbrev GLB_POLSWEEP : Nat := 0x208
abbrev GLB_DBBASELO : Nat := 0x400
abbrev GLB_DBBASEHI : Nat := 0x404
abbrev GLB_SHBASELO : Nat := 0x408
abbrev GLB_SHBASEHI : Nat := 0x40c
abbrev GLB_RINGCFG : Nat := 0x410
abbrev GLB_NUDGEIGN : Nat := 0x414
abbrev GLB_RINGSTAT : Nat := 0x418
abbrev GLB_CADPERIOD : Nat := 0x2000
abbrev GLB_CADSTAT : Nat := 0x2004
abbrev GLB_CADPHASELO : Nat := 0x2008
abbrev GLB_CADPHASEHI : Nat := 0x200c
abbrev GLB_WINDOW : Nat := 0x2010
abbrev GLB_CADSLIP : Nat := 0x2014
abbrev GLB_CADIGN : Nat := 0x2018
abbrev GLB_STRMISS : Nat := 0x201c
abbrev GLB_WINSKIP : Nat := 0x2020
abbrev GLB_PTCMT : Nat := 0x2024
abbrev GLB_SPOOL : Nat := 0x2500
abbrev GLB_SPOOLCE : Nat := 0x2504
abbrev GLB_SPOOLUE : Nat := 0x2508
abbrev GLB_CAIRNCFG : Nat := 0x3000
abbrev GLB_CAIRNBASELO : Nat := 0x3004
abbrev GLB_CAIRNBASEHI : Nat := 0x3008
abbrev GLB_CAIRNSLOT : Nat := 0x300c
abbrev GLB_CAIRNSTAT : Nat := 0x3010
abbrev GLB_CAIRNNUM : Nat := 0x3014
abbrev GLB_CAIRNSTEPLO : Nat := 0x3018
abbrev GLB_CAIRNSTEPHI : Nat := 0x301c
abbrev GLB_BELAY : Nat := 0x3020
abbrev GLB_BELAYDIS : Nat := 0x3024
abbrev GLB_RESTARTS : Nat := 0x3028
abbrev GLB_PWRCAP : Nat := 0x4000
abbrev GLB_PWRIN : Nat := 0x4004
abbrev GLB_VIN : Nat := 0x4008
abbrev GLB_PWRSTAT : Nat := 0x400c
abbrev GLB_COOLANT : Nat := 0x4010
abbrev GLB_TRIPS : Nat := 0x4014
abbrev GLB_ENERGYLO : Nat := 0x4018
abbrev GLB_ENERGYHI : Nat := 0x401c
abbrev GLB_TIMELO : Nat := 0x5000
abbrev GLB_TIMEHI : Nat := 0x5004
abbrev GLB_TIMESTAT : Nat := 0x5008
abbrev GLB_TIMECFG : Nat := 0x500c
abbrev GLB_TIMEOFS : Nat := 0x5010
abbrev GLB_TIMESEQ : Nat := 0x5014
abbrev GLB_TIMEMISS : Nat := 0x5018
abbrev GLB_REFMON : Nat := 0x501c
abbrev GLB_DEVSTATE : Nat := 0x5024
abbrev GLB_DEVCMD : Nat := 0x5028
abbrev GLB_SLEEPCFG : Nat := 0x502c
abbrev GLB_GRIDMAPLO (x : Nat) : Nat := 0x100 + 8 * x
abbrev GLB_GRIDMAPHI (x : Nat) : Nat := 0x104 + 8 * x
abbrev GLB_PTSTG (k : Nat) : Nat := 0x2030 + 4 * k
abbrev GLB_INGCFG (c : Nat) : Nat := 0x2100 + 16 * c
abbrev GLB_INGCTL (c : Nat) : Nat := 0x2104 + 16 * c
abbrev GLB_INGSTALE (c : Nat) : Nat := 0x2108 + 16 * c
abbrev GLB_INGDROP (c : Nat) : Nat := 0x210c + 16 * c
abbrev GLB_ACTCFG (c : Nat) : Nat := 0x2200 + 16 * c
abbrev GLB_ACTCTL (c : Nat) : Nat := 0x2204 + 16 * c
abbrev GLB_ACTLAST (c : Nat) : Nat := 0x2208 + 16 * c
abbrev GLB_ACTCNT (c : Nat) : Nat := 0x220c + 16 * c
abbrev GLB_QCTL (q : Nat) : Nat := 0x2300 + 16 * q
abbrev GLB_QCOUNT (q : Nat) : Nat := 0x2304 + 16 * q
abbrev GLB_PLANDIR_CTL (n : Nat) : Nat := 0xc000 + 16 * n
abbrev GLB_PLANDIR_OFFLO (n : Nat) : Nat := 0xc008 + 16 * n
abbrev GLB_PLANDIR_OFFHI (n : Nat) : Nat := 0xc00c + 16 * n
abbrev RNG_BASELO (n : Nat) : Nat := rngBase n + 0x0
abbrev RNG_BASEHI (n : Nat) : Nat := rngBase n + 0x4
abbrev RNG_CTL (n : Nat) : Nat := rngBase n + 0x8
abbrev RNG_CMD (n : Nat) : Nat := rngBase n + 0xc
abbrev RNG_STATE (n : Nat) : Nat := rngBase n + 0x10
abbrev RNG_DEVIDX (n : Nat) : Nat := rngBase n + 0x14
abbrev RNG_HOSTIDX (n : Nat) : Nat := rngBase n + 0x18
abbrev RNG_NADDRLO (n : Nat) : Nat := rngBase n + 0x1c
abbrev RNG_NADDRHI (n : Nat) : Nat := rngBase n + 0x20
abbrev RNG_NDATA (n : Nat) : Nat := rngBase n + 0x24
abbrev RNG_CAIRNIDX (n : Nat) : Nat := rngBase n + 0x28
abbrev RNG_DROPS (n : Nat) : Nat := rngBase n + 0x2c
abbrev SLB_CONV (s : Nat) : Nat := slbBase s + 0x20000
abbrev SLB_BUDGET (s : Nat) : Nat := slbBase s + 0x20004
abbrev SLB_WAKEDEF (s : Nat) : Nat := slbBase s + 0x20008
abbrev SLB_STACKT (s : Nat) : Nat := slbBase s + 0x2000c
abbrev SLB_ID (s : Nat) : Nat := slbBase s + 0x20010
abbrev SLB_POOL (s : Nat) : Nat := slbBase s + 0x40000
abbrev SLB_POOLCE (s : Nat) : Nat := slbBase s + 0x40004
abbrev SLB_POOLUE (s : Nat) : Nat := slbBase s + 0x40008
abbrev SLB_QCTL (s q : Nat) : Nat := slbBase s + 0x41000 + 16 * q
abbrev SLB_QCOUNT (s q : Nat) : Nat := slbBase s + 0x41004 + 16 * q
abbrev SLB_CELREMAP (s f n : Nat) : Nat := slbBase s + 0x80000 + f * 0x4000 + 4 * n
abbrev RGN_AROW (site : Nat) : Nat := rgnBase (site / 72) + 0x8000 + 8 * (site % 72)
abbrev RGN_AROWSRC (site : Nat) : Nat := rgnBase (site / 72) + 0x8004 + 8 * (site % 72)
abbrev RGN_LARPWR (site : Nat) : Nat := larBase site + 0x0
abbrev RGN_LARCE (site : Nat) : Nat := larBase site + 0x4
abbrev RGN_LARCEADDR (site : Nat) : Nat := larBase site + 0x8
abbrev RGN_LARUE (site : Nat) : Nat := larBase site + 0xc
abbrev RGN_LARUEADDR (site : Nat) : Nat := larBase site + 0x10
abbrev RGN_LARSCRUB (site : Nat) : Nat := larBase site + 0x14
abbrev RGN_LARINJ (site : Nat) : Nat := larBase site + 0x18
abbrev RGN_LARSPSEL (site : Nat) : Nat := larBase site + 0x1c
abbrev RGN_LARSPMAP (site : Nat) : Nat := larBase site + 0x20
abbrev RGN_LARCONF (site b : Nat) : Nat := larBase site + 0x40 + 4 * b
abbrev RGN_SCRUBINT (r : Nat) : Nat := rgnBase r + 0xb400
abbrev RGN_CELSTATE (r : Nat) : Nat := rgnBase r + 0xc000
abbrev RGN_CELCE (r : Nat) : Nat := rgnBase r + 0xc004
abbrev RGN_CELCEADDR (r : Nat) : Nat := rgnBase r + 0xc008
abbrev RGN_CELUE (r : Nat) : Nat := rgnBase r + 0xc00c
abbrev RGN_CELUEADDR (r : Nat) : Nat := rgnBase r + 0xc010
abbrev RGN_CELREMAP (r : Nat) : Nat := rgnBase r + 0xc014
abbrev RGN_CELPATROL (r : Nat) : Nat := rgnBase r + 0xc018
abbrev RGN_CELPATPTR (r : Nat) : Nat := rgnBase r + 0xc01c
abbrev RGN_CELINJ (r : Nat) : Nat := rgnBase r + 0xc020
abbrev RGN_CELINJSYM (r : Nat) : Nat := rgnBase r + 0xc024
abbrev RGN_CELHELD (r : Nat) : Nat := rgnBase r + 0xc028
abbrev RGN_NETSTATE (r : Nat) : Nat := rgnBase r + 0xd000
abbrev RGN_NETBYP0 (r : Nat) : Nat := rgnBase r + 0xd004
abbrev RGN_NETBYP1 (r : Nat) : Nat := rgnBase r + 0xd008
abbrev RGN_NETBYP2 (r : Nat) : Nat := rgnBase r + 0xd00c
abbrev RGN_NETCE (r : Nat) : Nat := rgnBase r + 0xd010
abbrev RGN_NETUE (r : Nat) : Nat := rgnBase r + 0xd014
abbrev RGN_NETDISC (r : Nat) : Nat := rgnBase r + 0xd018
abbrev RGN_NETSPARE (r : Nat) : Nat := rgnBase r + 0xd01c
abbrev RGN_NETREDST (r : Nat) : Nat := rgnBase r + 0xd020
abbrev RGN_RESIL (r : Nat) : Nat := rgnBase r + 0xe000
abbrev RGN_SWEEP (r : Nat) : Nat := rgnBase r + 0xe004
abbrev RGN_KA (r : Nat) : Nat := rgnBase r + 0xe008
abbrev RGN_ID (r : Nat) : Nat := rgnBase r + 0xe010
abbrev RGN_PWR (r : Nat) : Nat := rgnBase r + 0xf000
abbrev RGN_RATE (r : Nat) : Nat := rgnBase r + 0xf004
abbrev RGN_VSET (r : Nat) : Nat := rgnBase r + 0xf008
abbrev RGN_CURR (r : Nat) : Nat := rgnBase r + 0xf00c
abbrev RGN_TEMP (r : Nat) : Nat := rgnBase r + 0xf010
abbrev RGN_BUMP (r : Nat) : Nat := rgnBase r + 0xf014
abbrev RGN_SLACK (r : Nat) : Nat := rgnBase r + 0xf018
abbrev RGN_THROT (r : Nat) : Nat := rgnBase r + 0xf01c
abbrev RGN_PSTATE (r : Nat) : Nat := rgnBase r + 0xf100
abbrev RGN_CLKSTR (r : Nat) : Nat := rgnBase r + 0xf104
abbrev RGN_XSTALL (r : Nat) : Nat := rgnBase r + 0xf108
abbrev LNK_CTL (l : Nat) : Nat := lnkBase l + 0x0
abbrev LNK_CMD (l : Nat) : Nat := lnkBase l + 0x4
abbrev LNK_STATE (l : Nat) : Nat := lnkBase l + 0x8
abbrev LNK_LANEMAP (l : Nat) : Nat := lnkBase l + 0xc
abbrev LNK_SPARE (l : Nat) : Nat := lnkBase l + 0x10
abbrev LNK_PEERIDLO (l : Nat) : Nat := lnkBase l + 0x14
abbrev LNK_PEERIDHI (l : Nat) : Nat := lnkBase l + 0x18
abbrev LNK_FECCE (l : Nat) : Nat := lnkBase l + 0x1c
abbrev LNK_FECUE (l : Nat) : Nat := lnkBase l + 0x20
abbrev LNK_REPLAY (l : Nat) : Nat := lnkBase l + 0x24
abbrev LNK_CRCERR (l : Nat) : Nat := lnkBase l + 0x28
abbrev LNK_RTT (l : Nat) : Nat := lnkBase l + 0x2c
abbrev LNK_EQ (l k : Nat) : Nat := lnkBase l + 0x40 + 4 * k
abbrev MGT_MBSTAT : Nat := mgtBase + 0x0
abbrev MGT_STAGEFILL : Nat := mgtBase + 0x4
abbrev MGT_ATTIC : Nat := mgtBase + 0x8
abbrev MGT_LOGPTR : Nat := mgtBase + 0xc
abbrev MGT_RECLEN : Nat := mgtBase + 0x10
abbrev MGT_WCTL (u : Nat) : Nat := watchBase u + 0x0
abbrev MGT_WSRC (u : Nat) : Nat := watchBase u + 0x4
abbrev MGT_WSTARTLO (u : Nat) : Nat := watchBase u + 0x8
abbrev MGT_WSTARTHI (u : Nat) : Nat := watchBase u + 0xc
abbrev MGT_WENDLO (u : Nat) : Nat := watchBase u + 0x10
abbrev MGT_WENDHI (u : Nat) : Nat := watchBase u + 0x14
abbrev MGT_WBASE (u : Nat) : Nat := watchBase u + 0x18
abbrev MGT_WWIDTH (u : Nat) : Nat := watchBase u + 0x1c
abbrev MGT_WMIN (u : Nat) : Nat := watchBase u + 0x20
abbrev MGT_WMAX (u : Nat) : Nat := watchBase u + 0x24
abbrev MGT_WCOUNT (u : Nat) : Nat := watchBase u + 0x28
abbrev MGT_WUNDER (u : Nat) : Nat := watchBase u + 0x2c
abbrev MGT_WBIN (u i : Nat) : Nat := watchBase u + 0x80 + 4 * i

end Reg

/-- GLB registers at a single offset (R253, R330, R391, R417, R442, R461, R469, R470). -/
def glbSingle : Nat → Option RegDef
  | 0x0 => some { reset := 0x4E4C5731 }
  | 0x4 => some {}
  | 0x8 => some {}
  | 0xc => some {}
  | 0x10 => some {}
  | 0x14 => some {}
  | 0x18 => some { rw := 7 }
  | 0x1c => some {}
  | 0x20 => some {}
  | 0x24 => some {}
  | 0x180 => some {}
  | 0x184 => some {}
  | 0x200 => some { reset := 3 }
  | 0x204 => some { reset := 0x40 }
  | 0x208 => some { reset := 0x5A0 }
  | 0x400 => some { rw := 0xFFFFF000, setup := true }
  | 0x404 => some { rw := 0xFFFFFFFF, setup := true }
  | 0x408 => some { rw := 0xFFFFF000, setup := true }
  | 0x40c => some { rw := 0xFFFFFFFF, setup := true }
  | 0x410 => some { rw := 0x103FF, reset := 0xA, setup := true }
  | 0x414 => some { rc := 0xFFFF }
  | 0x418 => some {}
  | 0x2000 => some {}
  | 0x2004 => some {}
  | 0x2008 => some {}
  | 0x200c => some {}
  | 0x2010 => some {}
  | 0x2014 => some { rc := 0xFFFFFFFF }
  | 0x2018 => some { rc := 0xFFFFFFFF }
  | 0x201c => some { rc := 0xFFFFFFFF }
  | 0x2020 => some { rc := 0xFFFFFFFF }
  | 0x2024 => some { rw := 0x1FFFF, w1s := 0x80000000 }
  | 0x2500 => some { rw := 2, reset := 3 }
  | 0x2504 => some { rc := 0xFFFFFFFF }
  | 0x2508 => some { rc := 0xFFFFFFFF }
  | 0x3000 => some { rw := 0xF, setup := true }
  | 0x3004 => some { rw := 0xFFFFF000, setup := true }
  | 0x3008 => some { rw := 0xFFFFFFFF, setup := true }
  | 0x300c => some { rw := 0xFFFFFF, setup := true }
  | 0x3010 => some {}
  | 0x3014 => some {}
  | 0x3018 => some {}
  | 0x301c => some {}
  | 0x3020 => some { reset := 3 }
  | 0x3024 => some { rc := 0xFFFFFFFF }
  | 0x3028 => some {}
  | 0x4000 => some { reset := 0x78 }
  | 0x4004 => some {}
  | 0x4008 => some {}
  | 0x400c => some {}
  | 0x4010 => some {}
  | 0x4014 => some {}
  | 0x4018 => some {}
  | 0x401c => some {}
  | 0x5000 => some {}
  | 0x5004 => some {}
  | 0x5008 => some {}
  | 0x500c => some { rw := 7 }
  | 0x5010 => some {}
  | 0x5014 => some {}
  | 0x5018 => some { rc := 0xFFFFFFFF }
  | 0x501c => some {}
  | 0x5024 => some { reset := 1 }
  | 0x5028 => some { w1s := 3 }
  | 0x502c => some { rw := 0xFFFF }
  | _ => none

/-- The GLB block (R468). -/
def glbDef (a : Nat) : Option RegDef :=
  if (glbSingle a).isSome then glbSingle a
  else if 0x100 ≤ a ∧ a < 0x180 ∧ a % 8 = 0 then some {}
  else if 0x104 ≤ a ∧ a < 0x184 ∧ a % 8 = 4 then some {}
  else if 0x2030 ≤ a ∧ a < 0x2040 ∧ a % 4 = 0 then some { rw := 0xFFFFFFFF }
  else if 0x2100 ≤ a ∧ a < 0x2200 ∧ a % 16 = 0 then some { rw := 0xFFFFF, setup := true }
  else if 0x2104 ≤ a ∧ a < 0x2204 ∧ a % 16 = 4 then some { rw := 1 }
  else if 0x2108 ≤ a ∧ a < 0x2208 ∧ a % 16 = 8 then some { rc := 0xFFFFFFFF }
  else if 0x210c ≤ a ∧ a < 0x220c ∧ a % 16 = 12 then some { rc := 0xFFFFFFFF }
  else if 0x2200 ≤ a ∧ a < 0x2280 ∧ a % 16 = 0 then some { rw := 0x17FFFF, reset := 0x40, setup := true }
  else if 0x2204 ≤ a ∧ a < 0x2284 ∧ a % 16 = 4 then some { rw := 1, w1c := 0x600 }
  else if 0x2208 ≤ a ∧ a < 0x2288 ∧ a % 16 = 8 then some {}
  else if 0x220c ≤ a ∧ a < 0x228c ∧ a % 16 = 12 then some { rc := 0xFFFFFFFF }
  else if 0x2300 ≤ a ∧ a < 0x2490 ∧ a % 16 = 0 then some { rw := 0x1FFF, w1s := 0x10000, reset := 0x40 }
  else if 0x2304 ≤ a ∧ a < 0x2494 ∧ a % 16 = 4 then some {}
  else if 0xc000 ≤ a ∧ a < 0x10000 ∧ a % 16 = 0 then some { rw := 0xFF01 }
  else if 0xc008 ≤ a ∧ a < 0x10008 ∧ a % 16 = 8 then some { rw := 0xFFFFFFFF }
  else if 0xc00c ≤ a ∧ a < 0x1000c ∧ a % 16 = 12 then some { rw := 7 }
  else none

/-- A ring record (R254). -/
def rngDef : Nat → Option RegDef
  | 0x0 => some { rw := 0xFFFFF000, setup := true }
  | 0x4 => some { rw := 0xFFFFFFFF, setup := true }
  | 0x8 => some { rw := 0x800007DF, setup := true }
  | 0xc => some { w1s := 3 }
  | 0x10 => some {}
  | 0x14 => some {}
  | 0x18 => some {}
  | 0x1c => some { rw := 0xFFFFFFFC, setup := true }
  | 0x20 => some { rw := 0xFFFFFFFF, setup := true }
  | 0x24 => some { rw := 0xFFFFFFFF, setup := true }
  | 0x28 => some {}
  | 0x2c => some { rc := 0xFFFFFFFF }
  | _ => none

/-- A slab block (R330, R417, R471). -/
def slbDef (o : Nat) : Option RegDef :=
  match o with
  | 0x20000 => some {}
  | 0x20004 => some {}
  | 0x20008 => some { rc := 0xFFFFFFFF }
  | 0x2000c => some {}
  | 0x20010 => some {}
  | 0x40000 => some { rw := 2, reset := 3 }
  | 0x40004 => some { rc := 0xFFFFFFFF }
  | 0x40008 => some { rc := 0xFFFFFFFF }
  | _ =>
    if 0x41000 ≤ o ∧ o < 0x42000 ∧ o % 16 = 0 then some { rw := 0x1FFF, w1s := 0x10000, reset := 0x40 }
    else if 0x41000 ≤ o ∧ o < 0x42000 ∧ o % 16 = 4 then some {}
    else if 0x80000 ≤ o ∧ o < 0x90000 ∧ o % 4 = 0 then some {}
    else none

/-- The larder registers of one site (R147). -/
def larDef : Nat → Option RegDef
  | 0x0 => some { w1c := 0xF000 }
  | 0x4 => some { rc := 0xFFFF }
  | 0x8 => some {}
  | 0xc => some {}
  | 0x10 => some {}
  | 0x14 => some {}
  | 0x18 => some { rw := 0x7FFFFFF, w1s := 0x8000000, setup := true }
  | 0x1c => some { rw := 0xFF }
  | 0x20 => some { rw := 0x83FF, setup := true }
  | o => if 0x40 ≤ o ∧ o < 0x80 ∧ o % 4 = 0 then some { rc := 0xFFFFFFFF } else none

/-- The registers of a region at a single offset (R147, R170, R201, R392, R417, R443, R472). -/
def rgnSingle : Nat → Option RegDef
  | 0xb400 => some { rw := 0x8000001F, reset := 0x14 }
  | 0xc000 => some {}
  | 0xc004 => some { rc := 0xFFFF }
  | 0xc008 => some {}
  | 0xc00c => some {}
  | 0xc010 => some {}
  | 0xc014 => some {}
  | 0xc018 => some { rw := 0x8000FFFF, reset := 0xC8 }
  | 0xc01c => some {}
  | 0xc020 => some { rw := 0x1FFFFFFF, setup := true }
  | 0xc024 => some { rw := 0xFF, w1s := 0x100, setup := true }
  | 0xc028 => some {}
  | 0xd000 => some {}
  | 0xd004 => some { rw := 0xFFFFFFFF, setup := true }
  | 0xd008 => some { rw := 0xFFFFFFFF, setup := true }
  | 0xd00c => some { rw := 0xFF, setup := true }
  | 0xd010 => some { rc := 0xFFFF }
  | 0xd014 => some {}
  | 0xd018 => some { rc := 0xFFFFFFFF }
  | 0xd01c => some {}
  | 0xd020 => some {}
  | 0xe000 => some {}
  | 0xe004 => some {}
  | 0xe008 => some {}
  | 0xe010 => some {}
  | 0xf000 => some {}
  | 0xf004 => some { reset := 0x4200 }
  | 0xf008 => some {}
  | 0xf00c => some { reset := 0x5A00 }
  | 0xf010 => some { rc := 0xFF00 }
  | 0xf014 => some {}
  | 0xf018 => some {}
  | 0xf01c => some { rc := 0xFFFFFFFF }
  | 0xf100 => some { reset := 3 }
  | 0xf104 => some { rc := 0xFFFFFFFF }
  | 0xf108 => some { rc := 0xFFFF }
  | _ => none

/-- A region block (R472); the array spare rows are R122's. -/
def rgnDef (o : Nat) : Option RegDef :=
  if 0x8000 ≤ o ∧ o < 0x8240 ∧ o % 8 = 0 then some { rw := 0x3F3F3F3F, setup := true }
  else if 0x8000 ≤ o ∧ o < 0x8240 ∧ o % 8 = 4 then some {}
  else if 0x9000 ≤ o ∧ o < 0xB400 then larDef ((o - 0x9000) % 0x80)
  else rgnSingle o

/-- A link block (R358). -/
def lnkDef : Nat → Option RegDef
  | 0x0 => some { rw := 3, reset := 1, setup := true }
  | 0x4 => some { w1s := 7 }
  | 0x8 => some {}
  | 0xc => some { reset := 0xFFFFFFFF }
  | 0x10 => some { reset := 0xFF }
  | 0x14 => some {}
  | 0x18 => some {}
  | 0x1c => some { rc := 0xFFFFFFFF }
  | 0x20 => some { rc := 0xFFFFFFFF }
  | 0x24 => some { rc := 0xFFFFFFFF }
  | 0x28 => some { rc := 0xFFFFFFFF }
  | 0x2c => some {}
  | o => if 0x40 ≤ o ∧ o < 0x68 ∧ o % 4 = 0 then some { rw := 0x3FFFF, setup := true } else none

/-- A watch unit (R458). -/
def watchDef : Nat → Option RegDef
  | 0x0 => some { w1s := 3 }
  | 0x4 => some { rw := 0xFFFFFFFF, setup := true }
  | 0x8 => some { rw := 0xFFFFFFFF, setup := true }
  | 0xc => some { rw := 0xFFFFFFFF, setup := true }
  | 0x10 => some { rw := 0xFFFFFFFF, setup := true }
  | 0x14 => some { rw := 0xFFFFFFFF, setup := true }
  | 0x18 => some { rw := 0xFFFFFFFF, setup := true }
  | 0x1c => some { rw := 0xFFFFFFFF, reset := 1, setup := true }
  | 0x20 => some {}
  | 0x24 => some {}
  | 0x28 => some {}
  | 0x2c => some {}
  | o => if 0x80 ≤ o ∧ o < 0x100 ∧ o % 4 = 0 then some {} else none

/-- The MGT block (R473). -/
def mgtDef (o : Nat) : Option RegDef :=
  if o < 0x14 then (if o % 4 = 0 then some {} else none)
  else if 0x10000 ≤ o ∧ o < 0x4D000 then watchDef ((o - 0x10000) % 0x100)
  else none

/-- The blocks of R462 that a host address can fall in. -/
inductive Block where
  | glb
  | rng (n : Nat)
  | ptb
  | slb (s : Nat)
  | rgn (r : Nat)
  | lnk (l : Nat)
  | mgt
  | lar
  | cel
  deriving DecidableEq, Repr

/-- The block of a host address and the offset in it; none outside every block (R462, R463). -/
def blockOf (a : Nat) : Option (Block × Nat) :=
  if a < 0x10000 then some (.glb, a)
  else if a < 0x14000 then some (.rng ((a - 0x10000) / 0x40), (a - 0x10000) % 0x40)
  else if 0x1000000 ≤ a ∧ a < 0x1200000 then some (.ptb, a - 0x1000000)
  else if 0x2000000 ≤ a ∧ a < 0x2C00000 then some (.slb ((a - 0x2000000) / 0x100000), (a - 0x2000000) % 0x100000)
  else if 0x4000000 ≤ a ∧ a < 0x4C00000 then some (.rgn ((a - 0x4000000) / 0x10000), (a - 0x4000000) % 0x10000)
  else if 0x5000000 ≤ a ∧ a < 0x5030000 then some (.lnk ((a - 0x5000000) / 0x1000), (a - 0x5000000) % 0x1000)
  else if 0x5040000 ≤ a ∧ a < 0x5042000 then some (.lnk (48 + (a - 0x5040000) / 0x1000), (a - 0x5040000) % 0x1000)
  else if 0x6000000 ≤ a ∧ a < 0x6100000 then some (.mgt, a - 0x6000000)
  else if 0x4000000000 ≤ a ∧ a < 0x5000000000 then some (.lar, a - 0x4000000000)
  else if 0x80000000000 ≤ a ∧ a < 0x100000000000 then some (.cel, a - 0x80000000000)
  else none

/-- The register at a host address; none at a reserved offset, in the point table or in an aperture. -/
def regDef (a : Nat) : Option RegDef :=
  match blockOf a with
  | some (.glb, o) => glbDef o
  | some (.rng n, o) => if n < 129 then rngDef o else none
  | some (.slb _, o) => slbDef o
  | some (.rgn _, o) => rgnDef o
  | some (.lnk _, o) => lnkDef o
  | some (.mgt, o) => mgtDef o
  | _ => none

/-- The Reset column of a register, 0 where it is no number. -/
def regReset (a : Nat) : Word := (regDef a).elim 0 (·.reset)

end Sys2Proof.Machine
end

