-- ==== Sys2Proof/Machine/Ops.lean ====
section
/-! DEFINITION. The operations that every meaning shares: bit fields, little-endian bytes, registers, the parts of
the state by number, physical and logical positions, events and what leaves the module. -/

namespace Sys2Proof.Machine

/-- The outcome of a command. -/
abbrev Res := Host.Outcome State Fault Refusal

-- Bit fields and bytes (R12)

/-- Bits [lo+len-1:lo] of a word. -/
def fld (w : Word) (lo len : Nat) : Nat := (w.toNat >>> lo) % 2 ^ len

/-- A word with bits [lo+len-1:lo] replaced. -/
def setFld (w : Word) (lo len v : Nat) : Word :=
  (w &&& ~~~(BitVec.ofNat 32 ((2 ^ len - 1) <<< lo))) ||| BitVec.ofNat 32 ((v % 2 ^ len) <<< lo)

def tst (w : Word) (i : Nat) : Bool := w.getLsbD i

def b2n (b : Bool) : Nat := if b then 1 else 0

/-- Bits [lo+8n-1:lo] of a byte list read as a little-endian number. -/
def ofLe : List Byte → Nat
  | [] => 0
  | b :: bs => b.toNat + 256 * ofLe bs

/-- The n bytes of a little-endian number. -/
def toLe : Nat → Nat → List Byte
  | 0, _ => []
  | n + 1, v => BitVec.ofNat 8 v :: toLe n (v / 256)

/-- The little-endian field of n bytes at offset o of a record. -/
def leAt (l : List Byte) (o n : Nat) : Nat := ofLe ((l.drop o).take n)

/-- A saturating addition to a counter field of len bits. -/
def satAdd (len v d : Nat) : Nat := min (2 ^ len - 1) (v + d)

/-- Replace the element at a position. -/
def setAt {α : Type} : List α → Nat → α → List α
  | [], _, _ => []
  | _ :: t, 0, x => x :: t
  | y :: t, n + 1, x => y :: setAt t n x

-- Registers (R14 to R17)

/-- The word held for a register: what was written or set last, or its Reset column. -/
def State.reg (s : State) (a : Nat) : Word := (Tab.get none s.regs a).getD (regReset a)

/-- Set a register; a register at its Reset column is not listed. -/
def State.setReg (s : State) (a : Nat) (v : Word) : State :=
  { s with regs := Tab.set none s.regs a (if v = regReset a then none else some v) }

def State.regF (s : State) (a lo len : Nat) : Nat := fld (s.reg a) lo len

def State.setRegF (s : State) (a lo len v : Nat) : State := s.setReg a (setFld (s.reg a) lo len v)

/-- Add to a saturating counter field (R14). -/
def State.count (s : State) (a lo len d : Nat) : State := s.setRegF a lo len (satAdd len (s.regF a lo len) d)

-- Parts of the state by number

def State.cl (s : State) (site : Nat) : Cluster := Tab.get {} s.clusters site
def State.setCl (s : State) (site : Nat) (c : Cluster) : State := { s with clusters := Tab.set {} s.clusters site c }
def State.updCl (s : State) (site : Nat) (f : Cluster → Cluster) : State := s.setCl site (f (s.cl site))

def State.rg (s : State) (r : Nat) : RegionSt := Tab.get {} s.regions r
def State.setRg (s : State) (r : Nat) (x : RegionSt) : State := { s with regions := Tab.set {} s.regions r x }
def State.updRg (s : State) (r : Nat) (f : RegionSt → RegionSt) : State := s.setRg r (f (s.rg r))

def State.slab (s : State) (n : Nat) : SlabSt := Tab.get {} s.slabs n
def State.setSlab (s : State) (n : Nat) (x : SlabSt) : State := { s with slabs := Tab.set {} s.slabs n x }
def State.updSlab (s : State) (n : Nat) (f : SlabSt → SlabSt) : State := s.setSlab n (f (s.slab n))

def State.lnk (s : State) (l : Nat) : LinkSt := Tab.get {} s.links l
def State.setLnk (s : State) (l : Nat) (x : LinkSt) : State := { s with links := Tab.set {} s.links l x }
def State.updLnk (s : State) (l : Nat) (f : LinkSt → LinkSt) : State := s.setLnk l (f (s.lnk l))

def State.ring (s : State) (n : Nat) : RingSt := Tab.get {} s.jobs.rings n
def State.setRing (s : State) (n : Nat) (x : RingSt) : State :=
  { s with jobs := { s.jobs with rings := Tab.set {} s.jobs.rings n x } }
def State.updRing (s : State) (n : Nat) (f : RingSt → RingSt) : State := s.setRing n (f (s.ring n))

/-- Use one free value of the model's own count. -/
def State.useFree (s : State) : State := { s with freeCtr := s.freeCtr + 1 }

def State.emit (s : State) (o : Out) : State := { s with out := s.out ++ [o] }

/-- One reference count passes (R431, R433): the counter advances unless a backward slew holds it. -/
def State.refCount (s : State) : State :=
  { s with clk := { s.clk with
      raw := s.clk.raw + 1
      counter := if s.clk.hold = 0 then s.clk.counter + 1 else s.clk.counter
      hold := s.clk.hold - 1 } }

def State.now (s : State) : DWord := s.clk.counter

-- Physical positions (R20 to R23)

def regionX (r : Nat) : Nat := r % 16
def regionY (r : Nat) : Nat := r / 16
def regionAt (x y : Nat) : Nat := y * 16 + x
def slabOf (r : Nat) : Nat := regionY r / 4 * 4 + regionX r / 4
/-- Field of a region within its slab. -/
def fieldOf (r : Nat) : Nat := regionY r / 2 % 2 * 2 + regionX r / 2 % 2
/-- Depot link of a region's field (R21). -/
def linkOf (r : Nat) : Nat := slabOf r * 4 + fieldOf r
def siteRegion (site : Nat) : Nat := site / 72
def siteCol (site : Nat) : Nat := site % 8
def siteRow (site : Nat) : Nat := site % 72 / 8
def siteAt (r c p : Nat) : Nat := r * 72 + p * 8 + c
/-- The regions of a slab in ascending physical number. -/
def slabRegions (sl : Nat) : List Nat := (List.range 192).filter fun r => slabOf r == sl
def fieldRegions (sl f : Nat) : List Nat := (List.range 192).filter fun r => slabOf r == sl && fieldOf r == f

-- Logical positions (R25 to R27): the grid registers are the mapping

/-- Logical rows of the grade (R1). -/
def State.rowsL (s : State) : Nat := if s.fuses.grade = 0x0A then 10 else 11

/-- Physical Y of logical row n of column x, while a grid is built. -/
def State.gridY (s : State) (x n : Nat) : Option Nat :=
  let y := if n < 8 then s.regF (Reg.GLB_GRIDMAPLO x) (4 * n) 4 else s.regF (Reg.GLB_GRIDMAPHI x) (4 * (n - 8)) 4
  if s.dev.grid && decide (n < s.rowsL) && y != 15 then some y else none

/-- Physical region of logical region ly × 16 + lx. -/
def State.physRegion (s : State) (lreg : Nat) : Option Nat :=
  (s.gridY (lreg % 16) (lreg / 16)).map (regionAt (lreg % 16))

/-- Logical region of a physical region. -/
def State.logRegion (s : State) (r : Nat) : Option Nat :=
  ((List.range s.rowsL).find? fun n => s.gridY (regionX r) n == some (regionY r)).map fun n => n * 16 + regionX r

def State.logRegions (s : State) : List Nat := List.range (16 * s.rowsL)
def State.gridRegions (s : State) : List Nat := s.logRegions.filterMap s.physRegion

/-- A site marked bad, or whose router is bypassed (R24, R178). -/
def State.badSite (s : State) (site : Nat) : Bool :=
  s.fuses.badSites.contains site || s.attic.badSites.contains site || s.fuses.bypass.contains site || s.attic.bypass.contains site

/-- Fuse-marked bad, or RETIRED (R25, R374). -/
def State.isRetired (s : State) (r : Nat) : Bool := s.fuses.badRegions.contains r || s.attic.retired.any fun e => e.1 == r

/-- The sites that carry the logical rows of a column, in ascending physical row (R23). -/
def State.goodRows (s : State) (r c : Nat) : List Nat := ((List.range 9).filter fun p => !s.badSite (siteAt r c p)).take 8

/-- A logical row and column of a region to a site. -/
def State.siteIn (s : State) (r row col : Nat) : Option Nat := ((s.goodRows r col)[row]?).map (siteAt r col)

/-- Site of a logical cluster (R26). -/
def State.clusterSite (s : State) (n : Nat) : Option Nat := do
  let r ← s.physRegion (n / 64)
  s.siteIn r (n % 64 / 8) (n % 8)

/-- Logical row × 8 + column of a site within its region, if it carries a logical row. -/
def State.siteLocal (s : State) (site : Nat) : Option Nat :=
  ((s.goodRows (siteRegion site) (siteCol site)).idxOf? (siteRow site)).map fun row => row * 8 + siteCol site

/-- Logical cluster number of a site (R26). -/
def State.siteCluster (s : State) (site : Nat) : Option Nat := do
  let l ← s.logRegion (siteRegion site)
  let i ← s.siteLocal site
  pure (l * 64 + i)

/-- The 64 logical sites of a region in logical order. -/
def State.regionSites (s : State) (r : Nat) : List Nat :=
  (List.range 64).filterMap fun i => s.siteIn r (i / 8) (i % 8)

/-- Number of clusters of the grade. -/
def State.nClusters (s : State) : Nat := s.rowsL * 1024

-- Region states (R437, R443)

abbrev stActive : Nat := 0
abbrev stIdle : Nat := 1
abbrev stBivouac : Nat := 2
abbrev stDark : Nat := 3
abbrev stReserve : Nat := 4
abbrev stRetired : Nat := 5

def State.rstate (s : State) (r : Nat) : Nat := s.regF (Reg.RGN_PSTATE r) 0 3
def State.setRstate (s : State) (r st : Nat) : State := s.setRegF (Reg.RGN_PSTATE r) 0 3 st
def State.clocked (s : State) (r : Nat) : Bool := s.rstate r == stActive || s.rstate r == stIdle

/-- Device states of R37: RUN is READY with a grant. 1 AON, 2 READY, 3 RUN, 4 DEGRADED, 5 RESTART; 0 in OFF. -/
def State.devState (s : State) : Nat :=
  match s.dev.base with
  | .off => 0
  | .aon => 1
  | .ready => if s.jobs.grants.isEmpty then 2 else 3
  | .degraded => 4
  | .restart => 5

/-- READY, RUN, DEGRADED or RESTART: the rails are up (R37). -/
def State.railsOn (s : State) : Bool := decide (2 ≤ s.devState)

/-- Position of the stage that runs next, 12 when none does. -/
def stageAt : Option StageNo → Nat
  | some .aonUp => 0
  | some .fwVerified => 1
  | some .railsUp => 2
  | some .fusesRead => 3
  | some .clocksLocked => 4
  | some .seamsTrained => 5
  | some .cellarTrained => 6
  | some .larderChecked => 7
  | some .gridBuilt => 8
  | some .knownAnswer => 9
  | some .linksTrained => 10
  | some .ready => 11
  | none => 12

/-- The rails are up, in bring-up as well (R444). -/
def State.railsUp (s : State) : Bool := s.railsOn || (s.dev.next.isSome && decide (3 ≤ stageAt s.dev.next))

-- Events (R284 to R288, R258)

/-- SOURCE encoding (R284). -/
def src (kind idx : Nat) : BitVec 16 := BitVec.ofNat 16 (kind * 4096 + idx)
abbrev srcModule : BitVec 16 := src 0 0
abbrev srcRegion (r : Nat) : BitVec 16 := src 1 r
abbrev srcSlab (n : Nat) : BitVec 16 := src 2 n
/-- Depot links are kind 3, Sarros ports kind 4. -/
abbrev srcLink (l : Nat) : BitVec 16 := if l < 48 then src 3 l else src 4 (l - 48)

/-- DATA of an event from pairs of a byte offset and a value (R286). -/
def dat (l : List (Nat × Nat)) : BitVec 128 := l.foldl (fun a p => a ||| BitVec.ofNat 128 (p.2 <<< (8 * p.1))) 0

/-- Event ring enabled, as seen from RNG_STATE of ring 128 (R254). -/
def State.evEnabled (s : State) : Bool := s.regF (Reg.RNG_STATE 128) 0 2 == 1

/-- Stage reports and the events of class 0x04xx go into the attic's log (R445, R451). -/
def State.logEvent (s : State) (code : Nat) (source : BitVec 16) (time : DWord) (data : BitVec 128) : State :=
  if code / 256 = 4 ∨ code / 256 = 7 then
    { s with attic := { s.attic with log := s.attic.log ++ Config.logEntry (BitVec.ofNat 16 code) source time data } }
  else s

/-- Put an event at the end of the buffer of events that wait for a slot. Before the event ring was ever enabled in
this bring-up, stage reports and site conflicts are held and any other event is lost (R258, R288, R388). -/
def State.postAt (s : State) (code : Nat) (source : BitVec 16) (time : DWord) (data : BitVec 128) : State :=
  let e : EventRec := ⟨BitVec.ofNat 16 code, source, s.clk.drift, time, data⟩
  let s := s.logEvent code source time data
  if s.jobs.everOn then
    let st := s.regF (Reg.RNG_STATE 128) 0 2
    if st = 0 then s
    else if 256 ≤ s.jobs.events.length then
      State.count { s with jobs := { s.jobs with loss := true } } (Reg.RNG_DROPS 128) 0 32 1
    else { s with jobs := { s.jobs with events := s.jobs.events ++ [e] } }
  else if code / 256 = 7 ∨ code = 0x0406 then { s with jobs := { s.jobs with held := s.jobs.held ++ [e] } }
  else s

def State.post (s : State) (code : Nat) (source : BitVec 16) (data : List (Nat × Nat)) : State :=
  s.postAt code source s.now (dat data)

/-- Counts of 10 ns in a second. -/
abbrev second : Nat := 100000000

/-- Post an event of class 0x05xx, at most one per code and source per second; n occurrences are covered by DATA,
which `data` gives for the number of occurrences since the previous such event (R287). -/
def State.postCoal (s : State) (code : Nat) (source : BitVec 16) (n : Nat) (data : Nat → List (Nat × Nat)) : State :=
  let key := code * 65536 + source.toNat
  let put (s : State) (c : Coal) : State :=
    { s with jobs := { s.jobs with coal := Tab.set none s.jobs.coal key (some c) } }
  match Tab.get none s.jobs.coal key with
  | some c =>
    if (s.now - c.at_).toNat < second then put s { c with count := c.count + n }
    else put (s.post code source (data (c.count + n))) ⟨s.now, 0, 0⟩
  | none => put (s.post code source (data n)) ⟨s.now, 0, 0⟩

/-- Hand a report to the fault intake (R36). -/
def State.report (s : State) (k : ReportKind) : State := { s with resil := { s.resil with intake := s.resil.intake ++ [k] } }

-- Grants (R31, R33)

/-- A descriptor with a grant holds the region. -/
def State.regionGranted (s : State) (r : Nat) : Bool :=
  s.jobs.grants.any fun n => ((s.ring n).out.map fun o => o.regions.contains r).getD false

/-- The unit of an injection or spare register is stopped while its region holds no grant and is not in RESTART (R147, R170). -/
def State.injStopped (s : State) (r : Nat) : Bool := !s.regionGranted r && s.devState != 5

/-- A repair for which firmware plans a restart: a hard cellar row is remapped live (R160, R373). -/
def plansRestart : ReportKind → Bool
  | .hardCellar _ _ _ _ _ => false
  | _ => true

/-- Two reports ask for the same repair: a wire is one, whichever error made it hard (R175). -/
def sameRepair : ReportKind → ReportKind → Bool
  | .hardWire a b c d _, .hardWire e f g h _ => a == e && b == f && c == g && d == h
  | a, b => a == b

/-- Record a repair in the attic, once. -/
def State.recordRepair (s : State) (k : ReportKind) : State :=
  if s.attic.todo.any (sameRepair k) then s else { s with attic := { s.attic with todo := s.attic.todo ++ [k] } }

/-- Record a repair that waits for a restart (R367, R373). -/
def State.todo (s : State) (k : ReportKind) : State :=
  if s.attic.todo.any (sameRepair k) then s
  else { s.recordRepair k with resil := { s.resil with plannedDue := s.resil.plannedDue || plansRestart k } }

/-- Counts of 10 ns in 24 hours. -/
abbrev day : Nat := 86400 * second

end Sys2Proof.Machine
end

