-- ==== Sys2Proof/Machine/Larder.lean ====
section
/-! DEFINITION. Reads and writes of larder bytes as every requester makes them: bank-group power, the code over each
64-bit word, and the counts and reports that errors leave (R124 to R142). -/

namespace Sys2Proof.Machine

abbrev larSpan : Nat := 2 ^ 22
abbrev larWords : Nat := 2 ^ 19

/-- Number of set bits among the lowest n. -/
def ones {w : Nat} (n : Nat) (p : BitVec w) : Nat := (List.range n).countP fun i => p.getLsbD i

/-- A queued write-back is dropped once anything else writes its row: rows `lo` to `hi` of a site, `hi` not among them (R130). -/
def State.dropWriteBack (s : State) (site lo hi : Nat) : State :=
  let rows (x : Nat × BitVec 64) : Bool := decide (lo ≤ x.1 / 32) && decide (x.1 / 32 < hi)
  if (s.cl site).writeBack.any rows then
    s.updCl site fun c => { c with writeBack := c.writeBack.filter fun x => !rows x }
  else s

/-- Power a bank group of a site on: zero in every row, ON and READY (R136). -/
def State.groupOn (s : State) (site g : Nat) : State :=
  let b := site * larSpan + g * 2 ^ 20
  let e := site * larWords + g * 2 ^ 17
  let s := s.dropWriteBack site (g * 4096) (g * 4096 + 4096)
  { s.setRegF (Reg.RGN_LARPWR site) g 1 1 |>.setRegF (Reg.RGN_LARPWR site) (4 + g) 1 1 with
    larder := Tab.clear b (b + 2 ^ 20) s.larder
    larErr := Tab.clear e (e + 2 ^ 17) s.larErr }

/-- A group that is turned off loses its contents (R136). -/
def State.groupOff (s : State) (site g : Nat) : State :=
  let b := site * larSpan + g * 2 ^ 20
  let e := site * larWords + g * 2 ^ 17
  let s := s.dropWriteBack site (g * 4096) (g * 4096 + 4096)
  { (((s.setRegF (Reg.RGN_LARPWR site) g 1 0).setRegF (Reg.RGN_LARPWR site) (4 + g) 1 0).setRegF
      (Reg.RGN_LARPWR site) (8 + g) 1 0) with
    larder := Tab.clear b (b + 2 ^ 20) s.larder
    larErr := Tab.clear e (e + 2 ^ 17) s.larErr }

def State.groupIsOn (s : State) (site g : Nat) : Bool := tst (s.reg (Reg.RGN_LARPWR site)) g

/-- The bank groups that a range of addresses touches. -/
def groupsOf (addr n : Nat) : List Nat :=
  (List.range 4).filter fun g => decide (n ≠ 0) && decide (addr / 2 ^ 20 ≤ g) && decide (g ≤ (addr + n - 1) / 2 ^ 20)

/-- An access to a group that is off powers it on and sets WOKE (R137). -/
def State.wakeGroups (s : State) (site addr n : Nat) : State :=
  (groupsOf addr n).foldl
    (fun s g => if s.groupIsOn site g then s else (s.groupOn site g).setRegF (Reg.RGN_LARPWR site) (12 + g) 1 1) s

/-- The banks that a range of addresses touches (R124). -/
def banksOf (addr n : Nat) : List Nat :=
  (List.range 16).filter fun b => decide (n ≠ 0) && decide (addr / 2 ^ 18 ≤ b) && decide (b ≤ (addr + n - 1) / 2 ^ 18)

/-- An access adds a free number of refused cycles to the conflict counter of each bank it touches: the manual fixes no
arbitration outcome for it (R128, R129; DESIGN CHOICE, see the assumption log). -/
def State.contend (s : State) (site addr n : Nat) : State :=
  { s with
    conflicts := s.conflicts ++ (banksOf addr n).map fun b => (site * 16 + b, s.freeCtr)
    freeCtr := s.freeCtr + 1 }

/-- The conflict counter of a bank: what its accesses added since it was last read, saturating. -/
def State.conflictCount (s : State) (site b : Nat) : Nat :=
  min (2 ^ 32 - 1)
    ((s.conflicts.filterMap fun e => if e.1 = site * 16 + b then some (Config.bankConflicts e.2 b) else none).sum)

/-- What a read makes of a stored error pattern (R139): none when it is uncorrectable, else the bits by which the
delivered word is wrong and whether a correction is counted. What more than two bits do is free. -/
def larDecode (p : BitVec 72) : Option (BitVec 64 × Bool) :=
  match ones 72 p with
  | 0 => some (0, false)
  | 1 => some (0, true)
  | 2 => none
  | _ =>
    match Config.larderOutcome p % 3 with
    | 0 => none
    | 1 => some (p.setWidth 64, false)
    | _ => some (Config.larderWrong p, true)

/-- Error patterns stored in the words of a range of bytes of a site, by word index. -/
def State.larErrs (s : State) (site addr n : Nat) : List (Nat × BitVec 72) :=
  if n = 0 then []
  else s.larErr.filterMap fun e =>
    if site * larWords + addr / 8 ≤ e.1 ∧ e.1 ≤ site * larWords + (addr + n - 1) / 8
    then some (e.1 - site * larWords, e.2) else none

/-- A corrected read of a word: count, address, and a write-back queued of the word as the read delivered it (R130, R140). -/
def State.larCorrected (s : State) (site w : Nat) (x : BitVec 64) (scrub : Bool) : State :=
  let s := s.count (Reg.RGN_LARCE site) 0 16 1
  let s := s.setRegF (Reg.RGN_LARCE site) 16 1 (b2n scrub)
  let s := s.setReg (Reg.RGN_LARCEADDR site) (BitVec.ofNat 32 (w * 8))
  s.updCl site fun c => { c with writeBack := c.writeBack.filter (fun e => e.1 != w) ++ [(w, x)] }

/-- An uncorrectable read of a word: count, address and report (R141). -/
def State.larUncorrectable (s : State) (site w : Nat) (scrub : Bool) : State :=
  let s := s.count (Reg.RGN_LARUE site) 0 16 1
  let s := s.setRegF (Reg.RGN_LARUE site) 16 1 (b2n scrub)
  let s := s.setReg (Reg.RGN_LARUEADDR site) (BitVec.ofNat 32 (w * 8))
  s.report (.larderUE (Fin.ofNat 13824 site) (BitVec.ofNat 19 w))

/-- Check the words of a range: the state with what the errors leave, and the wrong bits by word, or none when a
word is uncorrectable. The words behind an uncorrectable one are checked and counted too (DESIGN CHOICE, see the assumption
log). -/
def State.larCheck (s : State) (site addr n : Nat) (scrub : Bool) : State × Option (List (Nat × BitVec 64)) :=
  (s.larErrs site addr n).foldl
    (fun a e =>
      match larDecode e.2 with
      | none => (a.1.larUncorrectable site e.1 scrub, none)
      | some (x, counted) =>
        (if counted then a.1.larCorrected site e.1 x scrub else a.1, a.2.map fun l => l ++ [(e.1, x)]))
    (s, some [])

/-- Wrong bits that a byte of a checked range carries. -/
def wrongByte (l : List (Nat × BitVec 64)) (a : Nat) : Byte :=
  match l.find? fun e => e.1 == a / 8 with
  | some e => BitVec.ofNat 8 (e.2.toNat >>> (8 * (a % 8)))
  | none => 0

/-- One byte of a site's larder as it was written; a word of zero is what a group holds after power-up (R136). -/
def State.larByte (s : State) (site a : Nat) : Byte := Tab.get 0 s.larder (site * larSpan + a)

/-- Read n bytes of a site's larder; none when the access is held (R137 to R141). -/
def State.larRead (s : State) (site addr n : Nat) : State × Option (List Byte) :=
  let s := (s.wakeGroups site addr n).contend site addr n
  let r := s.larCheck site addr n false
  (r.1, r.2.map fun l => (List.range n).map fun i => s.larByte site (addr + i) ^^^ wrongByte l (addr + i))

/-- The words of a range that a write covers in part (R126). -/
def edgeWords (addr n : Nat) : List Nat :=
  let a := if n ≠ 0 ∧ addr % 8 ≠ 0 then [addr / 8] else []
  let e := addr + n
  if n ≠ 0 ∧ e % 8 ≠ 0 ∧ (a.isEmpty ∨ e / 8 ≠ addr / 8) then a ++ [e / 8] else a

/-- Write bytes as they are: new check bits in every word touched, and write-backs of the rows written are dropped (R130). -/
def State.larPut (s : State) (site addr : Nat) (data : List Byte) : State :=
  let n := data.length
  if n = 0 then s
  else
    let w := site * larWords
    let s := s.dropWriteBack site (addr / 256) ((addr + n - 1) / 256 + 1)
    { s with
      larder := Tab.setList 0 s.larder (site * larSpan + addr) data
      larErr := Tab.clear (w + addr / 8) (w + (addr + n - 1) / 8 + 1) s.larErr }

/-- Check the words that a write covers in part; none when one of them is uncorrectable. -/
def State.larEdges (s : State) (site : Nat) (ws : List Nat) : State × Option (List (Nat × BitVec 64)) :=
  ws.foldl
    (fun a w =>
      let c := a.1.larCheck site (w * 8) 8 false
      (c.1, a.2.bind fun l => c.2.map fun m => l ++ m))
    (s, some [])

/-- Rewrite a word as its read delivered it. -/
def State.larMend (s : State) (site : Nat) (e : Nat × BitVec 64) : State :=
  s.larPut site (e.1 * 8) (toLe 8 (ofLe (Tab.getList 0 s.larder (site * larSpan + e.1 * 8) 8) ^^^ e.2.toNat))

/-- Write bytes within one row. A write of part of a word reads the word first; when that read is uncorrectable nothing
is written and the access is held (R126, R141). -/
def State.larWriteRow (s : State) (site addr : Nat) (data : List Byte) : State × Bool :=
  let s := (s.wakeGroups site addr data.length).contend site addr data.length
  match s.larEdges site (edgeWords addr data.length) with
  | (t, none) => (t, false)
  | (t, some l) => ((l.foldl (fun t e => t.larMend site e) t).larPut site addr data, true)

/-- Write bytes row by row. Rows after one whose access is held are not written (DEDUCED, see the assumption log). -/
def State.larWriteRows (site : Nat) : Nat → Nat → List Byte → State → State × Bool
  | 0, _, _, s => (s, true)
  | fuel + 1, addr, data, s =>
    if data.isEmpty then (s, true)
    else
      let k := 256 - addr % 256
      match s.larWriteRow site addr (data.take k) with
      | (t, false) => (t, false)
      | (t, true) => State.larWriteRows site fuel (addr + k) (data.drop k) t

/-- Write bytes to a site's larder. An access that crosses a row boundary is split into one access for each row (R126). -/
def State.larWrite (s : State) (site addr : Nat) (data : List Byte) : State × Bool :=
  State.larWriteRows site (data.length / 256 + 2) addr data s

end Sys2Proof.Machine
end

