-- ==== Sys2Proof/Machine/Operands.lean ====
section
/-! DEFINITION. Operand forms of the Klonal instructions: scalar registers and immediates, data-store addresses,
handles, the step of PC with its loops, stalls and program faults (R106 to R118, R131 to R133). -/

namespace Sys2Proof.Machine

-- Registers and the data store

/-- s0 reads 0 (R106). -/
def Cluster.s (c : Cluster) (i : BitVec 4) : Word := if i = 0 then 0 else Tab.get 0 c.sreg i.toNat

/-- Writes to s0 are discarded (R106). -/
def Cluster.setS (c : Cluster) (i : BitVec 4) (v : Word) : Cluster :=
  if i = 0 then c else { c with sreg := Tab.set 0 c.sreg i.toNat v }

/-- The second operand of a scalar ALU instruction: the immediate is zero-extended for AND, OR and XOR (R112). -/
def Cluster.aluB (c : Cluster) (zext : Bool) : AluB → Word
  | .reg rb => c.s rb
  | .imm i => if zext then i.setWidth 32 else i.signExtend 32

def isImmB : AluB → Bool
  | .reg _ => false
  | .imm _ => true

/-- A data-store address wraps modulo 8 KiB (R106). -/
def Cluster.dataAddr (c : Cluster) (ra : BitVec 4) (imm : BitVec 16) : Nat := (c.s ra + imm.signExtend 32).toNat % 8192

-- The step of PC (R106, R107, R113)

/-- The PC after an instruction that ends at p, and the loops still active: an innermost body whose end is p runs
again while it has runs left, else it ends, and its end may end the next body out. -/
def nextPc : List LoopSt → Word → Word × List LoopSt
  | [], p => (p, [])
  | l :: ls, p =>
    if p = l.stop then
      if 1 < l.left.toNat then (l.start, { l with left := l.left - 1 } :: ls) else nextPc ls p
    else (p, l :: ls)

/-- Go on at p as if in order, after an issue cost in cycles. -/
def Cluster.goto (c : Cluster) (p : Word) (cost : Nat) : Cluster :=
  let n := nextPc c.loops p
  { c with pc := n.1, loops := n.2, cyc := c.cyc + BitVec.ofNat 64 cost }

/-- The next instruction in order. -/
def Cluster.advance (c : Cluster) : Cluster := c.goto (c.pc + 4) 1

/-- A taken branch or jump out of an active body is a program fault (R109). -/
def Cluster.leavesBody (c : Cluster) (target : Word) : Bool :=
  match c.loops with
  | [] => false
  | l :: _ => decide ((l.stop - l.start).toNat ≤ (target - l.start).toNat)

/-- The word at PC of a core's program store: fetch uses PC bits [14:2] (R106). -/
def Cluster.fetchWord (c : Cluster) : Word := Tab.get 0 c.prog (c.pc.toNat / 4 % 8192)

/-- The instruction that a core's program goes on with, if the word is one (R110). A command of a core says which
instruction issues; that it is this one is what State.followsProgram says of a run. -/
def State.fetched (s : State) (site : SiteNo) : Option Instr := decodeKlonal site (s.cl site).fetchWord

-- Whether a core issues

/-- A core issues while it runs a pitch, waits for nothing, and its region is clocked (R107, R108, R398). -/
def State.coreReady (s : State) (site : Nat) : Bool :=
  decide ((s.cl site).run = .running) && decide ((s.cl site).stall = none) && s.clocked (siteRegion site)

/-- Issue an instruction on a core; a core that does not run issues nothing and the command changes nothing. -/
def State.core (s : State) (site : Nat) (k : Cluster → Res) : Res :=
  if s.coreReady site then k (s.cl site) else .next s

/-- Complete an instruction: the cluster as it leaves it, and PC advanced. -/
def State.fin (s : State) (site : Nat) (c : Cluster) : Res := .next (s.setCl site c.advance)

/-- A program fault stops the core and is reported with the immediate of FAULT, 0 for every other cause (R109). -/
def State.progFault (s : State) (site : Nat) (imm : BitVec 16) : State :=
  (s.updCl site fun c => { c with run := .stopped }).report (.program (Fin.ofNat 13824 site) imm)

def State.stop (s : State) (site : Nat) : Res := .next (s.progFault site 0)

/-- Stall a core. -/
def State.stallCore (s : State) (site : Nat) (w : Stall) : State := s.updCl site fun c => { c with stall := some w }

def undef (u : UCase) : Res := .fault (.undefinedCase u)

-- Routes (R180)

/-- The route of a flit in the grid of sites. -/
inductive Route where
  | direct
  | via (col row : Nat)
  deriving DecidableEq, Repr

/-- Columns in the order of their distance from s.col, + before −. -/
def nearColumns (c : Nat) : List Nat :=
  (c :: (List.range 127).flatMap fun k => [c + (k + 1)] ++ (if c < k + 1 then [] else [c - (k + 1)])).filter fun x => decide (x < 128)

/-- The procedure of R180 for a source and a destination router given by column and row; none where it fails. -/
def route (bypassed : Nat → Nat → Bool) (sc sr dc dr : Nat) : Option Route :=
  if sr = dr ∨ sc = dc then some .direct
  else if !bypassed dc sr then some .direct
  else ((nearColumns sc).find? fun c => !bypassed c sr && !bypassed c dr).map fun c => .via c dr

/-- Column and row of a site in the grid of sites. -/
def siteX (site : Nat) : Nat := regionX (siteRegion site) * 8 + siteCol site
def siteY (site : Nat) : Nat := regionY (siteRegion site) * 9 + siteRow site

/-- The router domain that carries a network is up: 0 bulk, 1 control, 2 sync (R176). -/
def State.netUp (s : State) (r net : Nat) : Bool := if net = 0 then (s.rg r).bulkUp else (s.rg r).ctlUp

/-- A router that the bypass list of the last grid build names, by column and row. -/
def State.listed (s : State) (net x y : Nat) : Bool :=
  (s.dev.routeNamed.any fun i => siteX i == x && siteY i == y)
    || (if net = 0 then s.dev.routeNoBulk else s.dev.routeNoCtl).any fun r => x / 8 == regionX r && y / 9 == regionY r

/-- The routers at which a route turns, by column and row. -/
def turns (sc sr dc dr : Nat) : Route → List (Nat × Nat)
  | .direct => if sr = dr ∨ sc = dc then [] else [(dc, sr)]
  | .via c row => [(c, sr), (c, row)]

/-- A flit from one site reaches another: the routers of both have power, and so has every router at which its route turns. The
route is that of the last grid build; an unpowered router turns no traffic and serves no endpoint, and passes what goes straight
on (R178, R180). -/
def State.reaches (s : State) (net a b : Nat) : Bool :=
  s.netUp (siteRegion a) net && s.netUp (siteRegion b) net
    && (decide (siteRegion a = siteRegion b)
      || match route (s.listed net) (siteX a) (siteY a) (siteX b) (siteY b) with
        | none => false
        | some p => (turns (siteX a) (siteY a) (siteX b) (siteY b) p).all fun t => s.netUp (regionAt (t.1 / 8) (t.2 / 9)) net)

-- Handles (R131 to R133)

abbrev hAddr (h : DWord) : Nat := h.toNat % 2 ^ 22
abbrev hLen (h : DWord) : Nat := h.toNat / 2 ^ 22 % 2 ^ 23
abbrev hHome (h : DWord) : Nat := h.toNat / 2 ^ 45 % 2 ^ 14
abbrev hRemote (h : DWord) : Bool := h.getLsbD 59
abbrev hClass (h : DWord) : Nat := h.toNat / 2 ^ 60 % 4
abbrev hValid (h : DWord) : Bool := h.getLsbD 62

/-- The class of an entry (R132): FAR when any byte lies in banks 8 to 15. -/
def handleClass (addr len : Nat) (remote : Bool) : Nat :=
  if remote then 2 else if 2 ^ 21 < addr + len then 1 else 0

/-- A valid entry's image, with its class and its even parity (R131). -/
def mkHandle (addr len home : Nat) (remote : Bool) : DWord :=
  let v := addr % 2 ^ 22 + len % 2 ^ 23 * 2 ^ 22 + home % 2 ^ 14 * 2 ^ 45 + b2n remote * 2 ^ 59
    + handleClass addr len remote * 2 ^ 60 + 2 ^ 62
  BitVec.ofNat 64 (v + ones 63 (BitVec.ofNat 63 v) % 2 * 2 ^ 63)

/-- Where an access through a handle goes. -/
inductive Acc where
  | at_ (site addr : Nat)
  | undef (u : UCase)
  /-- No answer comes: a router domain on the way has no power (R178, R179). -/
  | lost
  deriving DecidableEq, Repr

/-- The larder bytes that n bytes at an offset of handle h of a site name: a released entry is U4, an access past its
end and an entry that passes the end of the larder are U1, a home outside the grid U2 (R114, R132, R133, R494, R497). An
access to another cluster is lost where a router without power stands at either end of the way there or back, or at a turn. -/
def State.handleAt (s : State) (site : Nat) (h : BitVec 6) (off n : Nat) : Acc :=
  let e := Tab.get 0 (s.cl site).handles h.toNat
  if !hValid e then .undef .u4
  else if hLen e < off + n ∨ larSpan < hAddr e + hLen e then .undef .u1
  else if hRemote e then
    match s.clusterSite (hHome e) with
    | some t =>
      if t ≠ site ∧ !(s.reaches 0 site t && s.reaches 0 t site) then .lost else .at_ t (hAddr e + off)
    | none => .undef .u2
  else .at_ site (hAddr e + off)

/-- Read through a handle on behalf of an instruction; a held or lost access stalls the core (R141). -/
def State.handleRead (s : State) (site : Nat) (h : BitVec 6) (off n : Nat) (k : State → List Byte → Res) : Res :=
  match s.handleAt site h off n with
  | .undef u => undef u
  | .lost => .next (s.stallCore site .heldAccess)
  | .at_ t a =>
    match s.larRead t a n with
    | (s', some d) => k s' d
    | (s', none) => .next (s'.stallCore site .heldAccess)

/-- Write through a handle on behalf of an instruction. -/
def State.handleWrite (s : State) (site : Nat) (h : BitVec 6) (off : Nat) (d : List Byte) (k : State → Res) : Res :=
  match s.handleAt site h off d.length with
  | .undef u => undef u
  | .lost => .next (s.stallCore site .heldAccess)
  | .at_ t a =>
    match s.larWrite t a d with
    | (s', true) => k s'
    | (s', false) => .next (s'.stallCore site .heldAccess)

end Sys2Proof.Machine
end

