-- ==== Sys2Proof/Machine/Flags.lean ====
section
/-! DEFINITION. The counts and sticky bits that instructions of a cluster set: the precision counters of the pitch,
the accumulator's SAT and NaN bits, the signature and QSTAT (R67, R68, R73, R79, R81, R102, R119). -/

namespace Sys2Proof.Machine

/-- A 32-bit count, saturating. -/
def sat32 (v : Word) (n : Nat) : Word := BitVec.ofNat 32 (satAdd 32 v.toNat n)

/-- Belay-check executions add nothing (R81, R100, R105). -/
def Cluster.counting (c : Cluster) : Bool := !c.check

def Cluster.addSat (c : Cluster) (n : Nat) : Cluster := if c.counting then { c with accSatCnt := sat32 c.accSatCnt n } else c
def Cluster.addUfl (c : Cluster) (n : Nat) : Cluster := if c.counting then { c with shiftUfl := sat32 c.shiftUfl n } else c
def Cluster.addOutliers (c : Cluster) (n : Nat) : Cluster := if c.counting then { c with outliers := sat32 c.outliers n } else c
def Cluster.addOvf (c : Cluster) (n : Nat) : Cluster := if c.counting then { c with outlierOvf := sat32 c.outlierOvf n } else c
def Cluster.addNan (c : Cluster) (n : Nat) : Cluster := if c.counting then { c with scaleNan := sat32 c.scaleNan n } else c
def Cluster.addSpecial (c : Cluster) (n : Nat) : Cluster := if c.counting then { c with vecSpecial := sat32 c.vecSpecial n } else c

/-- One bit of the fold of R102. -/
def crcBit (g : DWord) (bit : Bool) : DWord := if g.msb != bit then (g <<< 1) ^^^ 0x42F0E1EBA9EA3693 else g <<< 1

/-- CRC-64 of one byte, most significant bit first, without reflection or final XOR (R102). -/
def crcByte (g : DWord) (b : Byte) : DWord := (List.range 8).foldl (fun g i => crcBit g (b.getLsbD (7 - i))) g

def crcFold (g : DWord) (d : List Byte) : DWord := d.foldl crcByte g

/-- QSTAT after a queue read; POISON also sets the sticky PMODE.POISON (R119). -/
def Cluster.setQstat (c : Cluster) (ended trunc poison : Bool) : Cluster :=
  { c with qstat := BitVec.ofNat 3 (b2n ended + 2 * b2n trunc + 4 * b2n poison), poison := c.poison || poison }

end Sys2Proof.Machine
end

