-- ==== Sys2Proof/Machine/Float.lean ====
section
/-! DEFINITION. Binary32 and bfloat16 arithmetic over exact integers, with one rounding to nearest, ties to even,
and the functions of R77 against their correctly rounded result (R72 to R77). -/

namespace Sys2Proof.Machine

/-- A decoded operand: value (-1)^neg × m × 2^e. -/
inductive FVal where
  | nan
  | inf (neg : Bool)
  | fin (neg : Bool) (m : Nat) (e : Int)
  deriving DecidableEq, Repr

abbrev nan32 : Word := 0x7FC00000

/-- m / 2^k to nearest, ties to even; `more` says that the exact value lies above m. -/
def shrRne (m k : Nat) (more : Bool) : Nat :=
  if k = 0 then m
  else
    let q := m >>> k
    let r := m % 2 ^ k
    let half := 2 ^ (k - 1)
    if half < r ∨ (r = half ∧ (more ∨ q % 2 = 1)) then q + 1 else q

/-- Round m × 2^e (and a little more when `more`) to p bits of precision with the exponent range of binary32:
the encoding without its sign; overflow gives infinity, subnormals are kept (R72). -/
def roundMag (p m : Nat) (e : Int) (more : Bool) : Nat :=
  if m = 0 then 0
  else
    let qmin : Int := -126 - (p - 1 : Nat)
    let q := max (e + (Nat.log2 m + 1 : Nat) - p) qmin
    let mant := if q ≤ e then m <<< (e - q).toNat else shrRne m (q - e).toNat more
    min ((q - qmin).toNat * 2 ^ (p - 1) + mant) (255 * 2 ^ (p - 1))

/-- Round to binary32. -/
def round32 (neg : Bool) (m : Nat) (e : Int) (more : Bool) : Word :=
  BitVec.ofNat 32 (roundMag 24 m e more + b2n neg * 2 ^ 31)

/-- Round an exact signed dyadic; an exact 0 takes the sign given. -/
def roundInt (zneg : Bool) (v e : Int) : Word :=
  if v = 0 then round32 zneg 0 0 false else round32 (decide (v < 0)) v.natAbs e false

def inf32 (neg : Bool) : Word := if neg then 0xFF800000 else 0x7F800000

def decode32 (w : Word) : FVal :=
  let f : Nat := w.toNat % 2 ^ 23
  let x : Nat := w.toNat / 2 ^ 23 % 256
  if x = 255 then (if f = 0 then .inf w.msb else .nan)
  else if x = 0 then .fin w.msb f (-149)
  else .fin w.msb (2 ^ 23 + f) ((x : Int) - 150)

def FVal.isFin : FVal → Bool
  | .fin _ _ _ => true
  | _ => false

def finite32 (w : Word) : Bool := (decode32 w).isFin
def isNan32 (w : Word) : Bool := decode32 w == .nan

/-- A NaN becomes the canonical quiet NaN (R73). -/
def canon (w : Word) : Word := if isNan32 w then nan32 else w

/-- Bits [15:0] of a lane as bfloat16, widened (R72, R105). -/
def bf16In (w : Word) : Word := w <<< 16

/-- A binary32 result rounded once to bfloat16 in bits [15:0] (R72, R105). -/
def bf16Out (w : Word) : Word :=
  match decode32 w with
  | .nan => 0x7FC0
  | .inf n => if n then 0xFF80 else 0x7F80
  | .fin n m e => BitVec.ofNat 32 (roundMag 8 m e false + b2n n * 2 ^ 15)

-- Basic operations

def signed (n : Bool) (m : Nat) : Int := if n then -(m : Int) else m

/-- The exact sum of two dyadics, at the lower exponent. -/
def dyAdd (a : Int) (ea : Int) (b : Int) (eb : Int) : Int × Int :=
  if ea ≤ eb then (a + b * 2 ^ (eb - ea).toNat, ea) else (a * 2 ^ (ea - eb).toNat + b, eb)

def fAdd (x y : Word) : Word :=
  match decode32 x, decode32 y with
  | .nan, _ => nan32
  | _, .nan => nan32
  | .inf a, .inf b => if a = b then inf32 a else nan32
  | .inf a, _ => inf32 a
  | _, .inf b => inf32 b
  | .fin a ma ea, .fin b mb eb =>
    let v := dyAdd (signed a ma) ea (signed b mb) eb
    roundInt (a && b) v.1 v.2

def fNeg (x : Word) : Word := if isNan32 x then nan32 else x ^^^ 0x80000000
def fAbs (x : Word) : Word := if isNan32 x then nan32 else x &&& 0x7FFFFFFF
def fSub (x y : Word) : Word := fAdd x (y ^^^ 0x80000000)

def fMul (x y : Word) : Word :=
  match decode32 x, decode32 y with
  | .nan, _ => nan32
  | _, .nan => nan32
  | .inf a, .inf b => inf32 (a != b)
  | .inf a, .fin b m _ => if m = 0 then nan32 else inf32 (a != b)
  | .fin a m _, .inf b => if m = 0 then nan32 else inf32 (a != b)
  | .fin a ma ea, .fin b mb eb => round32 (a != b) (ma * mb) (ea + eb) false

/-- a × b + c with one rounding (R74, R104). -/
def fFma (x y z : Word) : Word :=
  match decode32 x, decode32 y with
  | .fin a ma ea, .fin b mb eb =>
    match decode32 z with
    | .nan => nan32
    | .inf c => inf32 c
    | .fin c mc ec =>
      let v := dyAdd (signed (a != b) (ma * mb)) (ea + eb) (signed c mc) ec
      roundInt ((a != b) && c) v.1 v.2
  | _, _ =>
    let p := fMul x y
    match decode32 p, decode32 z with
    | .nan, _ => nan32
    | _, .nan => nan32
    | .inf a, .inf c => if a = c then inf32 a else nan32
    | _, _ => p

/-- Order of two numbers that are no NaN, with −0 below +0: the encodings as signed magnitudes. -/
def ordKey (x : Word) : Int := if x.msb then -(x.toNat % 2 ^ 31 : Nat) - 1 else x.toNat

def fMax (x y : Word) : Word :=
  if isNan32 x || isNan32 y then nan32 else if ordKey x < ordKey y then y else x
def fMin (x y : Word) : Word :=
  if isNan32 x || isNan32 y then nan32 else if ordKey y < ordKey x then y else x

/-- va < vb as numbers; −0 equals +0 and a NaN compares false (R72). -/
def fLt (x y : Word) : Bool :=
  !(isNan32 x || isNan32 y) &&
    decide (ordKey (if x = 0x80000000 then 0 else x) < ordKey (if y = 0x80000000 then 0 else y))

/-- x × 2^k with one rounding on overflow or underflow only; beyond ±1,000 every value overflows or underflows (R104). -/
def fScale (x : Word) (k : Int) : Word :=
  match decode32 x with
  | .nan => nan32
  | .inf n => inf32 n
  | .fin n m e => round32 n m (e + max (-1000) (min 1000 k)) false

/-- An integer to binary32 with one rounding (R76). -/
def intToF (v : Int) : Word := roundInt false v 0
/-- An integer rounded once to bfloat16 (R105). -/
def intToBf (v : Int) : Word := BitVec.ofNat 32 (roundMag 8 v.natAbs 0 false + b2n (decide (v < 0)) * 2 ^ 15)

def clampInt (lo hi v : Int) : Int := max lo (min hi v)

/-- m × 2^e to the nearest integer, ties to even. -/
def toIntRne (neg : Bool) (m : Nat) (e : Int) : Int :=
  signed neg (if 0 ≤ e then m <<< e.toNat else shrRne m (-e).toNat false)

/-- x × 2^−k as a 48-bit integer, to nearest, saturating; a NaN gives 0 (R75). -/
def toInt48 (x : Word) (k : Int) : Int :=
  match decode32 x with
  | .nan => 0
  | .inf n => if n then -2 ^ 47 else 2 ^ 47 - 1
  | .fin n m e => clampInt (-2 ^ 47) (2 ^ 47 - 1) (toIntRne n m (e - max (-1000) (min 1000 k)))

-- Fixed-point numbers of fx bits below the point, for the reference results of R77

abbrev fx : Nat := 512

/-- Integer square root by trial of each bit from `bits` down. -/
def isqrt : Nat → Nat → Nat → Nat
  | 0, _, r => r
  | b + 1, n, r => if (r + 2 ^ b) * (r + 2 ^ b) ≤ n then isqrt b n (r + 2 ^ b) else isqrt b n r

/-- Sum of z^(2k+1) / (2k+1), k below n, with alternating signs when `alt`: the arctangent and its hyperbolic kin. -/
def atanSum (alt : Bool) (z2 : Nat) : Nat → Nat → Nat → Int
  | 0, _, _ => 0
  | n + 1, k, p => signed (alt && k % 2 == 1) (p / (2 * k + 1)) + atanSum alt z2 n (k + 1) (p * z2 / 2 ^ fx)

def atanInv (q : Nat) : Int := atanSum true (2 ^ fx / (q * q)) 240 0 (2 ^ fx / q)
def ln2Fx : Nat := (2 * atanSum false (2 ^ fx / 9) 180 0 (2 ^ fx / 3)).toNat
def piFx : Nat := (16 * atanInv 5 - 4 * atanInv 239).toNat

/-- Sum of r^k / k! for a fixed-point r below 1. -/
def expSum (r : Nat) : Nat → Nat → Nat → Nat
  | 0, _, _ => 0
  | n + 1, k, t => t + expSum r n (k + 1) (t * r / 2 ^ fx / (k + 1))

/-- e^−y for a fixed-point y. -/
def expNeg (y : Nat) : Nat :=
  let n := y / ln2Fx + 1
  let r := n * ln2Fx - y
  expSum r 110 0 (2 ^ fx) >>> n

/-- The magnitude of a finite operand as a fixed-point number; exact, since fx exceeds 149. -/
def magFx (m : Nat) (e : Int) : Nat := m <<< ((fx : Int) + e).toNat

/-- Round a fixed-point magnitude to binary32. -/
def fxRound (neg : Bool) (v : Nat) : Word := round32 neg v (-(fx : Int)) true

/-- Shift a result by free units in the last place, at most b to either side (R77). -/
def ulps (b : Nat) (free : Nat) (w : Word) : Word :=
  let o : Int := signed w.msb (w.toNat % 2 ^ 31)
  let v := o + ((free % (2 * b + 1) : Nat) : Int) - b
  if v.natAbs > 0x7F800000 then inf32 (decide (v < 0))
  else BitVec.ofNat 32 (v.natAbs + b2n (if v = 0 then w.msb else decide (v < 0)) * 2 ^ 31)

def fSqrt (x : Word) : Word :=
  match decode32 x with
  | .nan => nan32
  | .inf n => if n then nan32 else x
  | .fin n m e =>
    if m = 0 then x
    else if n then nan32
    else
      let e' : Int := (e - 120) - (e % 2)
      let v := m <<< (e - e').toNat
      let r := isqrt 80 v 0
      round32 false r (e' / 2) (decide (r * r ≠ v))

def fRecip (x : Word) : Word :=
  match decode32 x with
  | .nan => nan32
  | .inf n => if n then 0x80000000 else 0
  | .fin n m e =>
    if m = 0 then inf32 n
    else ulps 1 (Config.recipUlp x) (round32 n (2 ^ 100 / m) (-100 - e) (decide (2 ^ 100 % m ≠ 0)))

def fRsqrt (x : Word) : Word :=
  match decode32 x with
  | .nan => nan32
  | .inf n => if n then nan32 else 0
  | .fin n m e =>
    if m = 0 then inf32 n
    else if n then nan32
    else
      let e' : Int := e - e % 2
      let v := 2 ^ 200 / (m <<< (e - e').toNat)
      ulps 1 (Config.rsqrtUlp x) (round32 false (isqrt 101 v 0) (-100 - e' / 2) true)

def fExp2 (x : Word) : Word :=
  match decode32 x with
  | .nan => nan32
  | .inf n => if n then 0 else x
  | .fin n m e =>
    let y := magFx m e
    if !n && decide (128 * 2 ^ fx ≤ y) then inf32 false
    else
      let w :=
        if 200 * 2 ^ fx ≤ y then 0
        else if n then fxRound false (expNeg (y * ln2Fx / 2 ^ fx))
        else
          let i := y / 2 ^ fx + 1
          round32 false (expNeg ((i * 2 ^ fx - y) * ln2Fx / 2 ^ fx)) (i - fx) true
      if w = inf32 false then w else ulps 2 (Config.exp2Ulp x) w

def fLog2 (x : Word) : Word :=
  match decode32 x with
  | .nan => nan32
  | .inf n => if n then nan32 else x
  | .fin n m e =>
    if m = 0 then inf32 true
    else if n then nan32
    else
      let l := Nat.log2 m
      let z := ((m - 2 ^ l) <<< fx) / (m + 2 ^ l)
      let ln := (2 * atanSum false (z * z / 2 ^ fx) 180 0 z).toNat
      let v : Int := (e + l) * 2 ^ fx + (ln * 2 ^ fx / ln2Fx : Nat)
      ulps 2 (Config.log2Ulp x) (roundInt false v (-(fx : Int)))

def fTanh (x : Word) : Word :=
  match decode32 x with
  | .nan => nan32
  | .inf n => if n then 0xBF800000 else 0x3F800000
  | .fin n m e =>
    let y := magFx m e
    let w := if 20 * 2 ^ fx ≤ y then (if n then 0xBF800000 else 0x3F800000)
      else
        let q := expNeg (2 * y)
        fxRound n ((2 ^ fx - q) * 2 ^ fx / (2 ^ fx + q))
    ulps 3 (Config.tanhUlp x) w

def fSigmoid (x : Word) : Word :=
  match decode32 x with
  | .nan => nan32
  | .inf n => if n then 0 else 0x3F800000
  | .fin n m e =>
    let y := magFx m e
    let q := if 120 * 2 ^ fx ≤ y then 0 else expNeg y
    ulps 3 (Config.sigmoidUlp x) (fxRound false ((if n then q else 2 ^ fx) * 2 ^ fx / (2 ^ fx + q)))

/-- Sum of (−1)^k y^(2k+1) / (k! (2k+1)); t is y^(2k+1) / k!. -/
def erfSum (y2 : Nat) : Nat → Nat → Nat → Int
  | 0, _, _ => 0
  | n + 1, k, t => signed (k % 2 == 1) (t / (2 * k + 1)) + erfSum y2 n (k + 1) (t * y2 / 2 ^ fx / (k + 1))

def fErf (x : Word) : Word :=
  match decode32 x with
  | .nan => nan32
  | .inf n => if n then 0xBF800000 else 0x3F800000
  | .fin n m e =>
    let y := magFx m e
    let w := if 4 * 2 ^ fx ≤ y then (if n then 0xBF800000 else 0x3F800000)
      else fxRound n ((erfSum (y * y / 2 ^ fx) 200 0 y).toNat * 2 ^ (fx + 1) / isqrt (fx + 2) (piFx * 2 ^ fx) 0)
    ulps 3 (Config.erfUlp x) w

end Sys2Proof.Machine
end

