-- ==== Sys2Proof/Machine/Array.lean ====
section
/-! DEFINITION. The MAC array and the accumulator file: planes, passes and readouts as functions of a cluster and the
larder bytes an instruction reads, and the array instructions over them (R57 to R68, R89 to R102, R114). -/

namespace Sys2Proof.Machine

-- Formats (R57 to R63)

/-- Bits stored per weight (R57). -/
def wBits (fmt : Nat) : Nat := match fmt with
  | 0 => 1
  | 1 => 2
  | 4 => 8
  | _ => 4

/-- Bits of value per weight. -/
def wVal (fmt : Nat) : Nat := if fmt = 2 then 3 else wBits fmt

def sext (n v : Nat) : Int := if v % 2 ^ n < 2 ^ (n - 1) then (v % 2 ^ n : Nat) else (v % 2 ^ n : Nat) - 2 ^ n

/-- The packed elements of a byte list, b bits each, lower index in lower bits (R58). -/
def unpack (b : Nat) (d : List Byte) : List Nat :=
  d.flatMap fun x => (List.range (8 / b)).map fun i => x.toNat / 2 ^ (b * i) % 2 ^ b

/-- The weights of one row record as the cells hold them (R57 to R59). -/
def rowWeights (fmt : Nat) (d : List Byte) : List Byte :=
  (unpack (wBits fmt) d).map fun v => if fmt = 0 then (if v = 0 then 0xFF else 1) else BitVec.ofInt 8 (sext (wVal fmt) v)

/-- Bytes of a row record (R60). -/
def rowBytes (fmt : Nat) : Nat := 32 * wBits fmt

-- Planes (R89 to R93)

/-- Weights of a logical row, by column. -/
def Plane.row (p : Plane) (r : Nat) : List Int := (Tab.getList 0 p.w (r * 256) 256).map (·.toInt)

/-- Σw of a block, by column, formed from the rows the plane holds (R62, R90). -/
def Plane.blockSums (p : Plane) (b : Nat) : List (BitVec 13) :=
  ((List.range 32).foldl (fun acc i => List.zipWith (· + ·) acc (p.row (32 * b + i))) (List.replicate 256 0)).map (BitVec.ofInt 13)

/-- WLOAD: 128 row records, then 1,024 scale bytes (R60, R90). -/
def Cluster.loadPlane (c : Cluster) (fmt : Nat) (d : List Byte) : Cluster :=
  let n := 128 * rowBytes fmt
  let p : Plane := { w := Tab.ofList 0 0 (rowWeights fmt (d.take n)), scale := Tab.ofList 0 0 (d.drop n) }
  { c with shadow := { p with sumW := Tab.ofList 0 0 ((List.range 4).flatMap p.blockSums) } }

/-- The shadow plane remembers which record its WLOAD read. -/
def Cluster.loadedFrom (c : Cluster) (a : Acc) (fmt : Nat) : Cluster :=
  { c with shadow := { c.shadow with src := match a with
    | .at_ t x => some (t, x, fmt)
    | _ => none } }

/-- WROW: one row, scale bytes unchanged, Σw of the block formed again (R91). -/
def Cluster.loadRow (c : Cluster) (fmt row : Nat) (d : List Byte) : Cluster :=
  let p := { c.shadow with
    w := Tab.setList 0 c.shadow.w (row * 256) (rowWeights fmt d)
    rows := (c.shadow.rows.filter fun (x : Nat × Nat × List Byte) => x.2.1 != row) ++ [(fmt, row, d)] }
  { c with shadow := { p with sumW := Tab.setList 0 p.sumW (row / 32 * 256) (p.blockSums (row / 32)) } }

def Cluster.loadScale (c : Cluster) (d : List Byte) : Cluster :=
  { c with shadow := { c.shadow with scale := Tab.ofList 0 0 d } }

/-- WSWAP (R92). -/
def Cluster.swapPlanes (c : Cluster) : Cluster := { c with active := c.shadow, shadow := c.active }

-- Block records (R63)

/-- Element bits of an activation format. -/
def aBits (aw : Nat) : Nat := 2 ^ aw
/-- Bytes of a block record (R63). -/
def recBytes (aw : Nat) : Nat := 4 * aBits aw + 8

/-- A block record: the elements as the array multiplies them, the scale byte and the outlier entries (R61 to R63). -/
structure ActRec where
  elems : List Int
  scale : Byte
  outl : List (Nat × Int)
  deriving DecidableEq, Repr

def byteAt (d : List Byte) (i : Nat) : Byte := d.getD i 0

def actRec (aw : Nat) (d : List Byte) : ActRec :=
  let n := aBits aw
  let t := d.drop (4 * n)
  let raw := unpack n (d.take (4 * n))
  let cnt := if aw = 1 ∨ aw = 2 then min 2 ((byteAt t 1).toNat % 4) else 0
  { elems := raw.map fun (v : Nat) => if aw = 0 then (v : Int) else sext n v
    scale := byteAt t 0
    outl := (List.range cnt).map fun j => ((byteAt t (2 + 2 * j)).toNat % 32, (byteAt t (3 + 2 * j)).toInt) }

/-- Elements with those at outlier positions taken as 0 (R66). -/
def ActRec.narrow (a : ActRec) : List Int :=
  a.elems.zipIdx.map fun e => if a.outl.any fun o => o.1 == e.2 then 0 else e.1

/-- Block sums S by column (R65, R66, R95). -/
def blockSum (p : Plane) (b : Nat) (a1sign : Bool) (a : ActRec) : List Int :=
  let add (acc : List Int) (row : Nat) (x : Int) : List Int :=
    if x = 0 then acc else List.zipWith (fun s w => s + w * x) acc (p.row (32 * b + row))
  let s0 := a.narrow.zipIdx.foldl (fun acc e => add acc e.2 e.1) (List.replicate 256 0)
  let s1 := a.outl.foldl (fun acc o => add acc o.1 o.2) s0
  if a1sign then List.zipWith (fun s w => 2 * s - w.toInt) s1 (Tab.getList 0 p.sumW (b * 256) 256) else s1

/-- Nearest integer to s / 2^k, ties to even. -/
def divRne (s : Int) (k : Nat) : Int := signed (decide (s < 0)) (shrRne s.natAbs k false)

def clamp32 (v : Int) : Int := max (-2 ^ 31) (min (2 ^ 31 - 1) v)

/-- The term of a block (R67): its value, and whether it saturates, underflows or meets a NaN scale. -/
structure Term where
  t : Int
  sat : Bool
  ufl : Bool
  nan : Bool
  deriving DecidableEq, Repr

def blockTerm (f : Nat) (ew ea : Byte) (s : Int) : Term :=
  if ew = 0xFF ∨ ea = 0xFF then ⟨0, false, false, true⟩
  else
    let d : Int := ew.toNat + ea.toNat - f
    let v : Int :=
      if 0 ≤ d then clamp32 (s * 2 ^ d.toNat)
      else if -31 ≤ d then divRne s (-d).toNat
      else 0
    ⟨v, decide (0 ≤ d) && decide (v ≠ s * 2 ^ d.toNat), decide (v = 0) && decide (s ≠ 0), false⟩

/-- F in force: values above 508 act as 508 (R120). -/
def Cluster.f (c : Cluster) : Nat := min 508 c.accexp.toNat

/-- A column accumulator with its sticky bits and the underflows counted. -/
structure ColAcc where
  v : Int
  sat : Bool
  nan : Bool
  ufl : Nat
  deriving DecidableEq, Repr

/-- Add a term, with a clamp after the add (R68). -/
def ColAcc.add (a : ColAcc) (t : Term) : ColAcc :=
  let v := a.v + t.t
  ⟨clamp32 v, a.sat || t.sat || decide (clamp32 v ≠ v), a.nan || t.nan, a.ufl + b2n t.ufl⟩

-- Entries of the accumulator file (R99 to R101)

def Cluster.entry (c : Cluster) (e : Nat) : List Word := Tab.getList 0 c.acc (e * 256) 256

def Cluster.setEntry (c : Cluster) (e : Nat) (v : List Word) (sat nan : BitVec 256) : Cluster :=
  { c with acc := Tab.setList 0 c.acc (e * 256) v, accSat := Tab.set 0 c.accSat e sat, accNan := Tab.set 0 c.accNan e nan }

/-- The bits of a list of columns. -/
def colBits (l : List Bool) : BitVec 256 := BitVec.ofNat 256 (l.foldr (fun b n => b2n b + 2 * n) 0)

def bitCols (b : BitVec 256) : List Bool := (List.range 256).map b.getLsbD

/-- One pass of four block records into an entry (R94 to R96, R99). -/
def Cluster.pass (c : Cluster) (aw e : Nat) (addMode : Bool) (d : List Byte) : Cluster :=
  let start : List ColAcc :=
    if addMode then
      List.zipWith (fun (a : ColAcc) n => ⟨a.v, a.sat, n, 0⟩)
        (List.zipWith (fun (w : Word) b => ⟨w.toInt, b, false, 0⟩) (c.entry e) (bitCols (Tab.get 0 c.accSat e)))
        (bitCols (Tab.get 0 c.accNan e))
    else List.replicate 256 ⟨0, false, false, 0⟩
  let cols := (List.range 4).foldl
    (fun acc b =>
      let a := actRec aw ((d.drop (b * recBytes aw)).take (recBytes aw))
      let s := blockSum c.active b (decide (aw = 0) && c.a1sign) a
      let terms := List.zipWith (fun s ew => blockTerm c.f ew a.scale s) s (Tab.getList 0 c.active.scale (b * 256) 256)
      List.zipWith ColAcc.add acc terms)
    start
  (c.setEntry e (cols.map fun x => BitVec.ofInt 32 x.v) (colBits (cols.map (·.sat))) (colBits (cols.map (·.nan)))).addUfl
    ((cols.map (·.ufl)).sum)

/-- The 1,088-byte image of an entry (R101). -/
def Cluster.image (c : Cluster) (e : Nat) : List Byte :=
  (c.entry e).flatMap (fun w => toLe 4 w.toNat) ++ toLe 32 (Tab.get 0 c.accSat e).toNat ++ toLe 32 (Tab.get 0 c.accNan e).toNat

/-- Little-endian words of a byte list. -/
def wordsOf : Nat → List Byte → List Word
  | 0, _ => []
  | n + 1, d => BitVec.ofNat 32 (ofLe (d.take 4)) :: wordsOf n (d.drop 4)

def Cluster.loadImage (c : Cluster) (e : Nat) (d : List Byte) : Cluster :=
  c.setEntry e (wordsOf 256 d) (BitVec.ofNat 256 (leAt d 1024 32)) (BitVec.ofNat 256 (leAt d 1056 32))

def Cluster.clearEntry (c : Cluster) (e : Nat) : Cluster := c.setEntry e (List.replicate 256 0) 0 0

/-- What every readout does after the copy: the signature fold, then the clear with its counts (R68, R100, R102). -/
def Cluster.readout (c : Cluster) (e : Nat) (clr sig : Bool) : Cluster :=
  let c := if sig then { c with sig := crcFold c.sig (c.image e) } else c
  if clr then
    ((c.addSat (ones 256 (Tab.get 0 c.accSat e))).addNan (ones 256 (Tab.get 0 c.accNan e))).clearEntry e
  else c

-- Vector registers as the accumulator readout writes them (R103)

def Cluster.v (c : Cluster) (r : Nat) : List Word := Tab.getList 0 c.vreg (r * 64) 64
def Cluster.setV (c : Cluster) (r : Nat) (l : List Word) : Cluster := { c with vreg := Tab.setList 0 c.vreg (r * 64) l }

/-- ACCRD into group g: column c to register 4g + c div 64, lane c mod 64. -/
def Cluster.accToV (c : Cluster) (e g : Nat) : Cluster := { c with vreg := Tab.setList 0 c.vreg (g * 256) (c.entry e) }

-- The check stream (R381)

/-- Record an instruction of class 0x6 to 0x8 of a sampled tile, with its scalar values and the larder bytes it read. -/
def Cluster.record (c : Cluster) (op : Instr) (vals : List Word) (bytes : List Byte) : Cluster :=
  if c.tileRec.sampled then { c with tileRec := { c.tileRec with items := c.tileRec.items ++ [⟨op, vals, bytes⟩] } } else c

-- The array instructions (R114)

/-- An array instruction that reads n bytes at h + sa and works on the cluster alone. -/
def arrayRead (site : SiteNo) (op : Instr) (h : BitVec 6) (off : Word) (n : Nat) (vals : List Word)
    (f : Cluster → List Byte → Cluster) (s : State) : Res :=
  s.handleRead site h off.toNat n fun s' d => s'.fin site ((f (s'.cl site) d).record op vals d)

/-- A WFMT of 5 to 7 is a program fault (R109). -/
def wfmtBad (w : BitVec 3) : Bool := decide (5 ≤ w.toNat)

def execWload (c : SiteNo) (h : BitVec 6) (sa : BitVec 4) (wfmt : BitVec 3) (s : State) : Res :=
  s.core c fun k =>
    if wfmtBad wfmt then s.stop c
    else arrayRead c (.wload c h sa wfmt) h (k.s sa) (128 * rowBytes wfmt.toNat + 1024) [k.s sa]
      (fun c' d => (c'.loadPlane wfmt.toNat d).loadedFrom (s.handleAt c h (k.s sa).toNat (128 * rowBytes wfmt.toNat + 1024)) wfmt.toNat) s

def execWrow (c : SiteNo) (h : BitVec 6) (sa sb : BitVec 4) (wfmt : BitVec 3) (s : State) : Res :=
  s.core c fun k =>
    if wfmtBad wfmt then s.stop c
    else arrayRead c (.wrow c h sa sb wfmt) h (k.s sa) (rowBytes wfmt.toNat) [k.s sa, k.s sb]
      (fun c d => c.loadRow wfmt.toNat ((k.s sb).toNat % 128) d) s

def execWscale (c : SiteNo) (h : BitVec 6) (sa : BitVec 4) (s : State) : Res :=
  s.core c fun k => arrayRead c (.wscale c h sa) h (k.s sa) 1024 [k.s sa] (fun c d => c.loadScale d) s

def execWswap (c : SiteNo) (s : State) : Res :=
  s.core c fun k => s.fin c (k.swapPlanes.record (.wswap c) [] [])

def execPass (c : SiteNo) (h : BitVec 6) (sa : BitVec 4) (aw : BitVec 2) (e : BitVec 6) (add : Bool) (s : State) : Res :=
  s.core c fun k =>
    arrayRead c (.pass c h sa aw e add) h (k.s sa) (4 * recBytes aw.toNat) [k.s sa]
      (fun c d => c.pass aw.toNat e.toNat add d) s

def execAccrd (c : SiteNo) (e : BitVec 6) (g : BitVec 3) (clr sig : Bool) (s : State) : Res :=
  s.core c fun k =>
    s.fin c (((k.accToV e.toNat g.toNat).readout e.toNat clr sig).record (.accrd c e g clr sig) [] [])

/-- ACCST names its entry in sb[5:0]. -/
def execAccst (c : SiteNo) (h : BitVec 6) (sa sb : BitVec 4) (clr sig : Bool) (s : State) : Res :=
  s.core c fun k =>
    let e := (k.s sb).toNat % 64
    s.handleWrite c h (k.s sa).toNat (k.image e) fun s' =>
      s'.fin c (((s'.cl c).readout e clr sig).record (.accst c h sa sb clr sig) [k.s sa, k.s sb] [])

def execAccld (c : SiteNo) (h : BitVec 6) (sa sb : BitVec 4) (s : State) : Res :=
  s.core c fun k =>
    arrayRead c (.accld c h sa sb) h (k.s sa) 1088 [k.s sa, k.s sb] (fun c d => c.loadImage ((k.s sb).toNat % 64) d) s

def execAccclr (c : SiteNo) (e : BitVec 6) (s : State) : Res :=
  s.core c fun k => s.fin c ((k.clearEntry e.toNat).record (.accclr c e) [] [])

end Sys2Proof.Machine
end

