-- ==== Sys2Proof/Machine/Crypto.lean ====
section
/-! DEFINITION. The hash and the signature that the firmware check and attestation name by their standards: SHA-384 (FIPS
180-4), and ECDSA (FIPS 186-5) on brainpoolP384r1 (RFC 5639) (R452, R455). The manual gives neither in full, and their constants
and steps are PRESUMED from the standards it names. -/

namespace Sys2Proof.Machine

-- SHA-384

/-- The largest number of `n` bits whose `k`-th power is at most `m`, bit by bit from the top. -/
def floorRoot (k m n : Nat) : Nat :=
  (List.range n).foldr (fun i t => if (t + 2 ^ i) ^ k ≤ m then t + 2 ^ i else t) 0

/-- The first 64 bits of the fractional part of the `k`-th root of a prime. -/
def rootFraction (k p : Nat) : DWord := BitVec.ofNat 64 (floorRoot k (p * 2 ^ (64 * k)) 72)

/-- The primes up to 409, which are the first eighty. -/
def shaPrimes : List Nat :=
  (List.range 410).filter fun p => decide (2 ≤ p) && (List.range 19).all fun d => decide (d + 2 = p) || p % (d + 2) != 0

/-- The initial hash value, from the square roots of the ninth to the sixteenth prime, and the constants of the 80 rounds, from
the cube roots of all eighty. -/
def shaInit : List DWord := ((shaPrimes.drop 8).take 8).map (rootFraction 2)
def shaK : List DWord := shaPrimes.map (rootFraction 3)

/-- The two functions of a word of the state, and the two of the message schedule. -/
def shaSum0 (x : DWord) : DWord := x.rotateRight 28 ^^^ x.rotateRight 34 ^^^ x.rotateRight 39
def shaSum1 (x : DWord) : DWord := x.rotateRight 14 ^^^ x.rotateRight 18 ^^^ x.rotateRight 41
def shaSig0 (x : DWord) : DWord := x.rotateRight 1 ^^^ x.rotateRight 8 ^^^ (x >>> 7)
def shaSig1 (x : DWord) : DWord := x.rotateRight 19 ^^^ x.rotateRight 61 ^^^ (x >>> 6)
def shaCh (x y z : DWord) : DWord := (x &&& y) ^^^ (~~~x &&& z)
def shaMaj (x y z : DWord) : DWord := (x &&& y) ^^^ (x &&& z) ^^^ (y &&& z)

/-- The 16 words of the schedule in use move on by one. -/
def shaNext : List DWord → List DWord
  | w0 :: w1 :: r => w1 :: r ++ [shaSig1 ((r[12]?).getD 0) + (r[7]?).getD 0 + shaSig0 w1 + w0]
  | w => w

/-- One round on the state a to h. -/
def shaRound (k w : DWord) : List DWord → List DWord
  | [a, b, c, d, e, f, g, h] =>
    let t := h + shaSum1 e + shaCh e f g + k + w
    [t + shaSum0 a + shaMaj a b c, a, b, c, d + t, e, f, g]
  | v => v

def shaRounds : List DWord → List DWord → List DWord → List DWord
  | [], _, v => v
  | k :: ks, w, v => shaRounds ks (shaNext w) (shaRound k (w.headD 0) v)

/-- One block of 16 words. -/
def shaBlock (h : List DWord) (w : List DWord) : List DWord := List.zipWith (· + ·) h (shaRounds shaK w h)

/-- A number from its bytes, the most significant first, and the bytes of a number. -/
def ofBe (l : List Byte) : Nat := ofLe l.reverse
def toBe (n x : Nat) : List Byte := (toLe n x).reverse

/-- The message with its padding: a 1 bit, zeros, and the length in bits as 128 bits. -/
def shaPad (m : List Byte) : List Byte := m ++ [0x80] ++ List.replicate ((239 - m.length % 128) % 128) 0 ++ toBe 16 (8 * m.length)

/-- The words of a block of a padded message. -/
def shaWords (m : List Byte) (block : Nat) : List DWord :=
  (List.range 16).map fun i => BitVec.ofNat 64 (ofBe ((m.drop (128 * block + 8 * i)).take 8))

/-- SHA-384 of a message. -/
def sha384 (m : List Byte) : List Byte :=
  let p := shaPad m
  (((List.range (p.length / 128)).foldl (fun h b => shaBlock h (shaWords p b)) shaInit).take 6).flatMap fun w => toBe 8 w.toNat

-- brainpoolP384r1

/-- The prime of the field, the two coefficients of the curve, and the order of its base point. -/
def curveP : Nat := 0x8CB91E82A3386D280F5D6F7E50E641DF152F7109ED5456B412B1DA197FB71123ACD3A729901D1A71874700133107EC53
def curveA : Nat := 0x7BC382C63D8C150C3C72080ACE05AFA0C2BEA28E4FB22787139165EFBA91F90F8AA5814A503AD4EB04A8C7DD22CE2826
def curveB : Nat := 0x04A8C7DD22CE28268B39B55416F0447C2FB77DE107DCD2A62E880EA53EEB62D57CB4390295DBC9943AB78696FA504C11
def curveN : Nat := 0x8CB91E82A3386D280F5D6F7E50E641DF152F7109ED5456B31F166E6CAC0425A7CF3AB6AF6B7FC3103B883202E9046565

/-- A point in Jacobian coordinates: (x / z², y / z³), and with z = 0 the point at infinity. -/
structure CurvePt where
  x : Nat
  y : Nat
  z : Nat
  deriving DecidableEq, Repr

/-- The base point. -/
def curveG : CurvePt :=
  { x := 0x1D1C64F068CF45FFA2A63A81B7C13F6B8847A3E77EF14FE3DB7FCAFE0CBD10E8E826E03436D646AAEF87B2E247D4AF1E
    y := 0x8ABE1D7520F9C2A45CB1EB8E95CFD55262B70B29FEEC5864E19C054FF99129280E4646217791811142820341263C5315
    z := 1 }

/-- Product and difference in the field. -/
def cMul (a b : Nat) : Nat := a * b % curveP
def cSub (a b : Nat) : Nat := (a + (curveP - b % curveP)) % curveP

/-- Twice a point. -/
def CurvePt.double (q : CurvePt) : CurvePt :=
  let y2 := cMul q.y q.y
  let z2 := cMul q.z q.z
  let s := 4 * cMul q.x y2
  let m := 3 * cMul q.x q.x + cMul curveA (cMul z2 z2)
  let x := cSub (cMul m m) (2 * s)
  { x := x, y := cSub (cMul m (cSub s x)) (8 * cMul y2 y2), z := cMul (2 * q.y) q.z }

/-- The sum of two points. -/
def CurvePt.add (q r : CurvePt) : CurvePt :=
  let qz := cMul q.z q.z
  let rz := cMul r.z r.z
  let u := cMul q.x rz
  let s := cMul q.y (cMul rz r.z)
  let h := cSub (cMul r.x qz) u
  let d := cSub (cMul r.y (cMul qz q.z)) s
  if q.z = 0 then r
  else if r.z = 0 then q
  else if h = 0 then if d = 0 then q.double else { x := 1, y := 1, z := 0 }
  else
    let h2 := cMul h h
    let h3 := cMul h2 h
    let x := cSub (cSub (cMul d d) h3) (2 * cMul u h2)
    { x := x, y := cSub (cMul d (cSub (cMul u h2) x)) (cMul s h3), z := cMul (cMul q.z r.z) h }

/-- The bits of a number below 2^384, the most significant first, joined with those of a second one. -/
def bitPairs (a b : Nat) : List (Bool × Bool) := (List.range 384).map fun i => (a.testBit (383 - i), b.testBit (383 - i))

/-- The sum of a multiple of one point and a multiple of another. -/
def curveSum (a : Nat) (q : CurvePt) (b : Nat) (r : CurvePt) : CurvePt :=
  (bitPairs a b).foldl
    (fun t e =>
      let t := t.double
      let t := if e.1 then t.add q else t
      if e.2 then t.add r else t)
    { x := 1, y := 1, z := 0 }

/-- A power in the ring of a modulus, from the bits of the exponent. -/
def powMod (m a e : Nat) : Nat :=
  (List.range 384).foldl (fun t i => let t := t * t % m; if e.testBit (383 - i) then t * a % m else t) 1

/-- The signature check: a public key that is an uncompressed point of the curve, r and s from 1 to the order less 1, and r equal
to the x coordinate of (e / s) G + (r / s) Q. -/
def ecdsaOk (key msg sig : List Byte) : Bool :=
  let x := ofBe ((key.drop 1).take 48)
  let y := ofBe ((key.drop 49).take 48)
  let r := ofBe (sig.take 48)
  let s := ofBe ((sig.drop 48).take 48)
  let onCurve : Bool := decide (x < curveP) && decide (y < curveP) && cMul y y == (cMul (cMul x x + curveA) x + curveB) % curveP
  let inv := powMod curveN s (curveN - 2)
  let t := curveSum (ofBe (sha384 msg) * inv % curveN) curveG (r * inv % curveN) { x := x, y := y, z := 1 }
  let affine := cMul t.x (powMod curveP (cMul t.z t.z) (curveP - 2))
  key.head? == some 4 && onCurve && decide (1 ≤ r) && decide (r < curveN) && decide (1 ≤ s) && decide (s < curveN)
    && decide (t.z ≠ 0) && affine % curveN == r

end Sys2Proof.Machine
end

