-- ==== Sys2Proof/Machine/Cellar.lean ====
section
/-! DEFINITION. The cellar: reads and writes of slice bytes under the symbol code, refresh, patrol, remaps and error
injection (R148 to R162, R170, R506). -/

namespace Sys2Proof.Machine

abbrev celSpan : Nat := 2 ^ 35
abbrev celWords : Nat := 2 ^ 29

-- Geometry (R149, R150)

/-- Slice number within the field: region_row × 2 + region_col (R149). -/
def sliceOf (r : Nat) : Nat := regionY r % 2 * 2 + regionX r % 2

/-- Channel, rank, bank and row of a codeword of a slice. -/
structure CelRow where
  ch : Nat
  rank : Nat
  bank : Nat
  row : Nat
  deriving DecidableEq, Repr

def celRow (cw : Nat) : CelRow :=
  let o := cw * 64
  ⟨o / 2 ^ 8 % 8, o / 2 ^ 11 % 4, o / 2 ^ 13 % 32, o / 2 ^ 20⟩

/-- The 16 codewords of a row. -/
def CelRow.codewords (x : CelRow) : List Nat :=
  (List.range 4).flatMap fun u =>
    (List.range 4).map fun i => (x.row * 2 ^ 20 + u * 2 ^ 18 + x.bank * 2 ^ 13 + x.rank * 2 ^ 11 + x.ch * 2 ^ 8) / 64 + i

/-- A number for a row within its slice. -/
def CelRow.key (x : CelRow) : Nat := ((x.ch * 4 + x.rank) * 32 + x.bank) * 32768 + x.row

/-- Remap table of the region's field (R170). -/
def remapBase (r : Nat) : Nat := (slabOf r * 4 + fieldOf r) * 4096

-- The code (R158)

/-- Bad symbols of a stored error pattern. -/
def badSymbols (p : BitVec 544) : List Nat := (List.range 68).filter fun i => p.toNat / 2 ^ (8 * i) % 256 != 0

/-- What a read makes of an error pattern: none when it is uncorrectable, else the wrong bits delivered and whether a
correction is counted. What three or more bad symbols do is free. -/
def celDecode (p : BitVec 544) : Option (BitVec 512 × Bool) :=
  match (badSymbols p).length with
  | 0 => some (0, false)
  | 1 => some (0, true)
  | 2 => none
  | _ =>
    match Config.cellarOutcome p % 3 with
    | 0 => none
    | 1 => some (p.setWidth 512, false)
    | _ => some (Config.cellarWrong p, true)

/-- A request to a slice in self-refresh brings it to ACTIVE (R156). -/
def State.celTouch (s : State) (r : Nat) : State :=
  let s := s.updRg r fun x => { x with sliceAt := s.now }
  if s.regF (Reg.RGN_CELSTATE r) 0 2 = 2 then s.setRegF (Reg.RGN_CELSTATE r) 0 2 1 else s

/-- Record a row as hard, to be remapped (R160). -/
def State.celHard (s : State) (r : Nat) (x : CelRow) : State :=
  s.todo (.hardCellar (Fin.ofNat 192 r) (BitVec.ofNat 3 x.ch) (BitVec.ofNat 2 x.rank) (BitVec.ofNat 5 x.bank) (BitVec.ofNat 15 x.row))

/-- A corrected read: count and codeword; corrections in three codewords of a row within 24 h make it hard (R158, R160). -/
def State.celCorrected (s : State) (r cw : Nat) (patrol : Bool) : State :=
  let s := s.count (Reg.RGN_CELCE r) 0 16 1
  let s := s.setRegF (Reg.RGN_CELCE r) 16 1 (b2n patrol)
  let s := s.setReg (Reg.RGN_CELCEADDR r) (BitVec.ofNat 32 cw)
  let log := ((s.rg r).ceLog.filter fun e => decide ((s.now - e.2).toNat < day) && e.1 != cw) ++ [(cw, s.now)]
  let s := s.updRg r fun x => { x with ceLog := log }
  if 3 ≤ (log.countP fun e => celRow e.1 == celRow cw) then s.celHard r (celRow cw) else s

/-- An uncorrectable read: count, codeword and report (R159). -/
def State.celUncorrectable (s : State) (r cw : Nat) (patrol : Bool) : State :=
  let s := s.count (Reg.RGN_CELUE r) 0 16 1
  let s := s.setRegF (Reg.RGN_CELUE r) 16 1 (b2n patrol)
  let s := s.setReg (Reg.RGN_CELUEADDR r) (BitVec.ofNat 32 cw)
  let x := celRow cw
  let s := s.updRg r fun g => if g.ueLog.contains (x.ch, x.key) then g else { g with ueLog := g.ueLog ++ [(x.ch, x.key)] }
  s.report (.cellarUE (Fin.ofNat 192 r) (BitVec.ofNat 29 cw))

/-- Error patterns stored in the codewords of a range, by codeword. -/
def State.celErrs (s : State) (r off n : Nat) : List (Nat × BitVec 544) :=
  if n = 0 then []
  else s.celErr.filterMap fun e =>
    if r * celWords + off / 64 ≤ e.1 ∧ e.1 ≤ r * celWords + (off + n - 1) / 64
    then some (e.1 - r * celWords, e.2) else none

def State.celCheck (s : State) (r off n : Nat) (patrol : Bool) : State × Option (List (Nat × BitVec 512)) :=
  (s.celErrs r off n).foldl
    (fun a e =>
      match celDecode e.2 with
      | none => (a.1.celUncorrectable r e.1 patrol, none)
      | some (x, counted) =>
        (if counted then a.1.celCorrected r e.1 patrol else a.1, a.2.map fun l => l ++ [(e.1, x)]))
    (s, some [])

def celWrong (l : List (Nat × BitVec 512)) (a : Nat) : Byte :=
  match l.find? fun e => e.1 == a / 64 with
  | some e => BitVec.ofNat 8 (e.2.toNat >>> (8 * (a % 64)))
  | none => 0

/-- A byte of a physical region's slice as it was written. DESIGN CHOICE: a byte that nothing has written reads 0. -/
def State.celByte (s : State) (r a : Nat) : Byte := Tab.get 0 s.cellar (r * celSpan + a)

/-- Read n bytes of a slice; none when the access is held (R158, R159). -/
def State.celRead (s : State) (r off n : Nat) : State × Option (List Byte) :=
  let s := if n = 0 then s else s.celTouch r
  let c := s.celCheck r off n false
  (c.1, c.2.map fun l => (List.range n).map fun i => s.celByte r (off + i) ^^^ celWrong l (off + i))

/-- The codewords that a write covers in part (R506). -/
def celEdges (off n : Nat) : List Nat :=
  let a := if n ≠ 0 ∧ off % 64 ≠ 0 then [off / 64] else []
  let e := off + n
  if n ≠ 0 ∧ e % 64 ≠ 0 ∧ (a.isEmpty ∨ e / 64 ≠ off / 64) then a ++ [e / 64] else a

/-- Write bytes with new check bytes for every codeword touched. -/
def State.celPut (s : State) (r off : Nat) (d : List Byte) : State :=
  if d.length = 0 then s
  else
    { s with
      cellar := Tab.setList 0 s.cellar (r * celSpan + off) d
      celErr := Tab.clear (r * celWords + off / 64) (r * celWords + (off + d.length - 1) / 64 + 1) s.celErr }

/-- Check the codewords that a write covers in part; none when one of them is uncorrectable. -/
def State.celEdgeCheck (s : State) (r : Nat) (ws : List Nat) : State × Option (List (Nat × BitVec 512)) :=
  ws.foldl
    (fun a w =>
      let c := a.1.celCheck r (w * 64) 64 false
      (c.1, a.2.bind fun l => c.2.map fun m => l ++ m))
    (s, some [])

/-- Rewrite a codeword as its read delivered it. -/
def State.celMend (s : State) (r : Nat) (e : Nat × BitVec 512) : State :=
  s.celPut r (e.1 * 64) (toLe 64 (ofLe (Tab.getList 0 s.cellar (r * celSpan + e.1 * 64) 64) ^^^ e.2.toNat))

/-- Write bytes to a slice; a codeword covered in part is read and merged, and an uncorrectable read of one leaves
everything unwritten and the access held (R506). -/
def State.celWrite (s : State) (r off : Nat) (d : List Byte) : State × Bool :=
  let s := if d.length = 0 then s else s.celTouch r
  match s.celEdgeCheck r (celEdges off d.length) with
  | (t, none) => (t, false)
  | (t, some l) => ((l.foldl (fun t e => t.celMend r e) t).celPut r off d, true)

/-- Slice contents are lost (R156, R162). -/
def State.celLose (s : State) (r : Nat) : State :=
  { s with
    cellar := Tab.clear (r * celSpan) ((r + 1) * celSpan) s.cellar
    celErr := Tab.clear (r * celWords) ((r + 1) * celWords) s.celErr }

-- The commands

/-- A refresh of a bank of an ACTIVE slice falls due. It is issued when the bank is idle or after 8 postponements,
and postponed otherwise (R155, R156). -/
def execCellarRefresh (r : RegionNo) (ch : BitVec 3) (rank : BitVec 2) (bank : BitVec 5) (idle : Bool) (s : State) : Res :=
  if s.regF (Reg.RGN_CELSTATE r) 0 2 ≠ 1 then .next s
  else
    let k := rank.toNat * 256 + ch.toNat * 32 + bank.toNat
    let n := Tab.get 0 (s.rg r).postponed k
    let n' := if idle ∨ 8 ≤ n then 0 else n + 1
    .next (s.updRg r fun x => { x with postponed := Tab.set 0 x.postponed k n' })

/-- Patrol of one 256-byte unit of a channel: corrections are written back; a symbol that recurs in two passes makes
its row hard (R157, R160). -/
def State.patrolUnit (s : State) (r ch unit : Nat) : State :=
  (s.celErrs r (unit * 2048 + ch * 256) 256).foldl
    (fun s e =>
      match celDecode e.2 with
      | none => s.celUncorrectable r e.1 true
      | some (_, false) => s
      | some (x, true) =>
        let s := s.celCorrected r e.1 true
        let sym := e.1 * 68 + (badSymbols e.2).headD 0
        let s := if (s.rg r).patLast.contains sym then s.celHard r (celRow e.1) else s
        let s := s.updRg r fun g => { g with patNow := g.patNow ++ [sym] }
        s.celMend r (e.1, x))
    s

def execPatrolVisit (r : RegionNo) (s : State) : Res :=
  let st := s.regF (Reg.RGN_CELSTATE r) 0 2
  if st = 0 ∨ s.rstate r = stRetired ∨ tst (s.reg (Reg.RGN_CELPATROL r)) 31 then .next s
  else
    let u := s.regF (Reg.RGN_CELPATPTR r) 0 24
    let s := (List.range 8).foldl (fun s ch => s.patrolUnit r ch u) s
    let s := s.setRegF (Reg.RGN_CELPATPTR r) 0 24 (u + 1)
    if u + 1 = 2 ^ 24 then
      let s := s.setRegF (Reg.RGN_CELPATPTR r) 24 8 (s.regF (Reg.RGN_CELPATPTR r) 24 8 + 1)
      .next (s.updRg r fun g => { g with patLast := g.patNow, patNow := [], ueLog := [] })
    else .next s

/-- A slice of an unclocked region with no request for 10 µs (R156). -/
def execSelfRefreshEntry (r : RegionNo) (s : State) : Res :=
  let st := s.rstate r
  if s.regF (Reg.RGN_CELSTATE r) 0 2 = 1 ∧ (st = stDark ∨ st = stReserve ∨ st = stRetired) ∧ s.devState ≠ 5
      ∧ 1000 ≤ (s.now - (s.rg r).sliceAt).toNat then
    .next (s.setRegF (Reg.RGN_CELSTATE r) 0 2 2)
  else .next s

/-- Entry of the remap table (R170). -/
def remapEntry (ch : Nat) (x : CelRow) (spare : Nat) : Word :=
  BitVec.ofNat 32 (ch + x.rank * 2 ^ 5 + x.bank * 2 ^ 7 + x.row * 2 ^ 12 + spare * 2 ^ 27 + 2 ^ 28)

/-- Remaps of a slice in use (R161, R170). -/
def State.remapCount (s : State) (r : Nat) : Nat :=
  s.attic.celMap.countP fun e =>
    decide (remapBase r ≤ e.1) && decide (e.1 < remapBase r + 4096) && tst e.2 28 && fld e.2 0 5 / 8 == sliceOf r

/-- A report of an uncorrectable codeword in a row of a slice. -/
def reportsRow (r : Nat) (x : CelRow) : ReportKind → Bool
  | .cellarUE q cw => q.val == r && celRow cw.toNat == x
  | _ => false

/-- Give a row of a slice entry i of its remap map; the order to remap it is done, and what firmware noted of corrected reads
in the row does not count against its spare (R160). -/
def State.mapRow (s : State) (r : Nat) (x : CelRow) (i spare : Nat) : State :=
  let gone (cw : Nat) : Bool := celRow cw == x
  State.updRg { s with
    attic := { s.attic with
      celMap := Tab.set 0 s.attic.celMap (remapBase r + i) (remapEntry (sliceOf r * 8 + x.ch) x spare)
      todo := s.attic.todo.filter fun k => k != .hardCellar (Fin.ofNat 192 r) (BitVec.ofNat 3 x.ch)
        (BitVec.ofNat 2 x.rank) (BitVec.ofNat 5 x.bank) (BitVec.ofNat 15 x.row) } } r fun g =>
    { g with
      ceLog := g.ceLog.filter fun e => !gone e.1
      patNow := g.patNow.filter fun e => !gone (e / 68)
      patLast := g.patLast.filter fun e => !gone (e / 68) }

/-- What the intake still holds on a row is answered by its remap in a restart (R159). -/
def State.dropRowReports (s : State) (r : Nat) (x : CelRow) : State :=
  { s with resil := { s.resil with intake := s.resil.intake.filter fun k => !reportsRow r x k } }

/-- The report that the remap map fills up (R161). -/
def State.reportFill (s : State) (r : Nat) : State :=
  if s.remapCount r = 1025 then s.report (.precursor (Fin.ofNat 192 r) 12) else s

/-- Remap a hard row onto a free spare of its bank; none when the fault is not remappable (R160, R161). -/
def State.remapRow (s : State) (r : Nat) (x : CelRow) : Option State :=
  let fch := sliceOf r * 8 + x.ch
  let base := remapBase r
  let sameBank := s.attic.celMap.filter fun e =>
    decide (base ≤ e.1) && decide (e.1 < base + 4096) && tst e.2 28 && fld e.2 0 5 == fch && fld e.2 5 2 == x.rank
      && fld e.2 7 5 == x.bank
  let free := (List.range 4096).find? fun i => Tab.get 0 s.attic.celMap (base + i) == 0
  let rows := (s.rg r).ueLog.countP fun e => e.1 == x.ch
  match free with
  | some i =>
    if 2 ≤ sameBank.length ∨ 8 < rows then none
    else
      some ((s.mapRow r x i (if sameBank.any fun e => !tst e.2 27 then 1 else 0)).reportFill r)
  | none => none

/-- The controller copies the row, corrected, into the spare (R160). Its corrections count nowhere, and a codeword that it cannot
correct goes into the spare as it is, without a report (DESIGN CHOICE, see the assumption log). -/
def State.rewriteRow (s : State) (r : Nat) (x : CelRow) : State :=
  x.codewords.foldl
    (fun s cw =>
      match celDecode (Tab.get 0 s.celErr (r * celWords + cw)) with
      | some (w, _) =>
        if Tab.get 0 s.celErr (r * celWords + cw) = 0 then s
        else s.celMend r (cw, w)
      | none => s)
    s

/-- A row recorded as hard is remapped live; a fault that is not remappable retires the region (R160, R161, R45). -/
def execRowRemap (r : RegionNo) (ch : BitVec 3) (rank : BitVec 2) (bank : BitVec 5) (row : BitVec 15) (s : State) : Res :=
  if s.regF (Reg.RGN_CELSTATE r) 0 2 = 0 || !s.attic.todo.contains (.hardCellar r ch rank bank row) then .next s
  else
    let x : CelRow := ⟨ch.toNat, rank.toNat, bank.toNat, row.toNat⟩
    match s.remapRow r x with
    | some s' => .next (s'.rewriteRow r x)
    | none => .next (s.report (.forced r 7))

/-- Invert every bit of the selected symbols of the selected codeword (R170). -/
def State.celInject (s : State) (r : Nat) (v : Word) : State :=
  let k := r * celWords + s.regF (Reg.RGN_CELINJ r) 0 29
  let sym := min 67 (fld v 0 7)
  let m (i : Nat) : BitVec 544 := BitVec.ofNat 544 (255 * 2 ^ (8 * i))
  let p := m sym ^^^ (if tst v 7 then m ((sym + 1) % 68) else 0)
  { s with celErr := Tab.set 0 s.celErr k (Tab.get 0 s.celErr k ^^^ p) }

/-- A write of RGN_CELINJSYM: U5 while the region holds a grant or the device is in RESTART; unreachable while its
router domain is down (R170, R465, R498). -/
def execCelinjsymArm (r : RegionNo) (v : Word) (s : State) : Res :=
  if !(s.railsOn && (s.rg r).ctlUp) then .next s
  else if !s.injStopped r then undef .u5
  else
    let s := s.setReg (Reg.RGN_CELINJSYM r) (v &&& 0xFF)
    .next (if tst v 8 then s.celInject r v else s)

end Sys2Proof.Machine
end

