-- ==== Sys2Proof/Machine/Scrub.lean ====
section
/-! DEFINITION. Scrub of the larders, scrub windows, retention and error injection (R130, R137, R142 to R147). -/

namespace Sys2Proof.Machine

/-- The next row index at or after n whose bank group is powered, going once around (R144). -/
def State.scrubRow (s : State) (site n : Nat) : Option Nat :=
  if s.groupIsOn site (n / 4096 % 4) then some n
  else ((List.range 3).map fun i => (n / 4096 + 1 + i) % 4).find? (s.groupIsOn site) |>.map (· * 4096)

/-- Bits of a word address and the bit that a correction repaired, as one number. -/
def corrKey (w : Nat) (p : BitVec 72) : Nat := w * 72 + ((List.range 72).find? fun i => p.getLsbD i).getD 0

/-- Record a row as hard, to be spared (R142). -/
def State.larHard (s : State) (site row : Nat) : State :=
  s.todo (.hardLarder (Fin.ofNat 13824 site) (BitVec.ofNat 14 row))

/-- Read and check one row; a correction that recurs in two passes makes the row hard (R140 to R144). A word that is
uncorrectable is reported, and the scrub engine goes on with its next visit (DEDUCED, see the assumption log). -/
def State.scrubCheck (s : State) (site row : Nat) : State :=
  (s.larErrs site (row * 256) 256).foldl
    (fun (s : State) e =>
      match larDecode e.2 with
      | none => s.larUncorrectable site e.1 true
      | some (_, false) => s
      | some (x, true) =>
        let s := s.larCorrected site e.1 x true
        let k := corrKey e.1 e.2
        let s := if (s.cl site).corrLast.contains k then s.larHard site row else s
        s.updCl site fun c => { c with corrNow := c.corrNow ++ [k] })
    (s.contend site (row * 256) 256)

/-- Every powered logical site of a region has completed a pass in the last 9 minutes (R145). -/
def State.passedRecently (s : State) (r : Nat) : Bool :=
  (s.regionSites r).all fun site =>
    fld (s.reg (Reg.RGN_LARPWR site)) 0 4 == 0 || decide ((s.now - (s.cl site).passAt).toNat ≤ 540 * second)

-- Ceilings and retention (R138, R147, R407, R428)

def State.phCeil (s : State) (r : Nat) : Nat := s.regF (Reg.RGN_RATE r) 5 5
def State.thCeil (s : State) (r : Nat) : Nat := s.regF (Reg.RGN_RATE r) 10 5

/-- ceil(r) of R407. -/
def State.ceil (s : State) (r : Nat) : Nat := min 16 (min (s.phCeil r) (s.thCeil r))

/-- The highest rate that a region may be given: its ceiling, but 8/16 under reference loss and until it has switched back
(R428, R430). -/
def State.topRate (s : State) (r : Nat) : Nat :=
  if s.clk.onHold || tst (s.reg (Reg.RGN_PSTATE r)) 5 then min 8 (s.ceil r) else s.ceil r

/-- The 72 sites of a region. -/
def allSites (r : Nat) : List Nat := (List.range 72).map (r * 72 + ·)

/-- Put every powered group of a region's sites into or out of retention (R138, R147). READY stays 1 at retention, since
the group holds kept contents (DEDUCED, see the assumption log). -/
def State.setRetention (s : State) (r : Nat) (on : Bool) : State :=
  (allSites r).foldl
    (fun s site =>
      let p := s.regF (Reg.RGN_LARPWR site) 0 4
      if p = 0 then s else s.setRegF (Reg.RGN_LARPWR site) 8 4 (if on then p else 0))
    s

/-- Switches and VSRAM of a region; the phase bits stay. -/
def State.setSwitches (s : State) (r : Nat) (closed retn sram : Bool) : State :=
  (((s.setRegF (Reg.RGN_PWR r) 0 2 (if closed then 3 else 0)).setRegF (Reg.RGN_PWR r) 2 1 (b2n retn)).setRegF
    (Reg.RGN_PWR r) 3 1 (b2n sram))

/-- Every larder of a region is in retention, its clock is off and its switches are open. -/
def State.toBivouac (s : State) (r : Nat) : State :=
  let s := (s.setRstate r stBivouac).setRegF (Reg.RGN_PSTATE r) 4 1 0
  let s := (s.setRegF (Reg.RGN_RATE r) 0 5 0).setRegF (Reg.RGN_RATE r) 15 1 0
  let s := (s.setSwitches r false true false).setRetention r true
  s.updRg r fun g => { g with waking := false, wakeReq := none, scrubWin := false, bivSince := s.now, aperAt := none }

/-- A region in BIVOUAC whose clock a scrub window or a watch capture claims: clocked without a grant it is ACTIVE (R421, R398;
DEDUCED, see the assumption log). It is no wake of R402 and counts as none. -/
def State.clockUp (s : State) (r : Nat) : State :=
  if s.clocked r then s
  else
    let s := ((s.setRstate r stActive).setRegF (Reg.RGN_PSTATE r) 4 1 1).setRegF (Reg.RGN_RATE r) 0 5 (s.topRate r)
    (s.setSwitches r true false true).setRetention r false

/-- Open a scrub window of a region (R145). -/
def State.openWindow (s : State) (r : Nat) : State := (s.clockUp r).updRg r fun g => { g with scrubWin := true }

/-- Every requester to the larders of a region has completed its last access (R138): no copy runs, and no correction waits
to be written back. -/
def State.larsQuiet (s : State) (r : Nat) : Bool :=
  (allSites r).all fun site => (s.cl site).copyBusy.isNone && (s.cl site).writeBack.isEmpty

/-- Close the scrub window of a region, if one is open: the region enters BIVOUAC as R138 lets it, at once where its larders are
quiet, else at a later BIVOUAC_ENTRY. -/
def State.closeWindow (s : State) (r : Nat) : State :=
  let t := s.updRg r fun g => { g with scrubWin := false }
  if (s.rg r).scrubWin then (if s.larsQuiet r then t.toBivouac r else t) else s

/-- The scrub engines of a region work (R144, R145): in a logical region while it is clocked, as it is in a scrub window
too, in a reserve only while it runs belay checks. -/
def State.scrubs (s : State) (r : Nat) : Bool :=
  s.clocked r && ((s.logRegion r).isSome
    || s.resil.checks.any fun x => siteRegion x.checker == r || (x.third.map siteRegion) == some r)

/-- A site's scrub pass is complete, and the next starts at row 0 (R144); a scrub window that has done its work closes
(R145). -/
def State.passEnd (s : State) (site : Nat) : State :=
  let r := siteRegion site
  let a := Reg.RGN_LARSCRUB site
  let s := (s.setRegF a 16 16 (s.regF a 16 16 + 1)).setRegF a 0 14 0
  let s := s.updCl site fun k => { k with corrLast := k.corrNow, corrNow := [], passAt := s.now }
  if (s.rg r).scrubWin && s.passedRecently r then s.closeWindow r else s

/-- Visit a row. No powered row after it: the pass is complete (R144; for a group 3 that is off DEDUCED, see the assumption
log). -/
def State.visitRow (s : State) (site row : Nat) : State :=
  let s := s.scrubCheck site row
  let more : Bool := row != 16383 && (s.scrubRow site (row + 1)).any fun n => decide (row < n)
  if more then s.setRegF (Reg.RGN_LARSCRUB site) 0 14 (row + 1) else s.passEnd site

/-- A visit of the next powered row. Where the rows still to visit were turned off meanwhile, the pass ends first. -/
def execScrubVisit (c : SiteNo) (s : State) : Res :=
  let site := c.val
  let r := siteRegion site
  if !s.scrubs r || tst (s.reg (Reg.RGN_SCRUBINT r)) 31 then .next s
  else
    let n := s.regF (Reg.RGN_LARSCRUB site) 0 14
    match s.scrubRow site n with
    | none => .next s
    | some row =>
      let s := if row < n then s.passEnd site else s
      .next (if s.scrubs r then s.visitRow site row else s)

/-- Rewrite one word as its read delivered it (R130). -/
def State.rewriteWord (s : State) (site : Nat) (e : Nat × BitVec 64) : State :=
  { s with
    larder := Tab.setList 0 s.larder (site * larSpan + e.1 * 8)
      (toLe 8 (ofLe (Tab.getList 0 s.larder (site * larSpan + e.1 * 8) 8) ^^^ e.2.toNat))
    larErr := Tab.set 0 s.larErr (site * larWords + e.1) 0 }

/-- The words queued for the first row in the queue are rewritten; a row written meanwhile is no longer queued (R130). -/
def execScrubWriteBack (c : SiteNo) (s : State) : Res :=
  let site := c.val
  match (s.cl site).writeBack with
  | [] => .next s
  | w :: ws =>
    if !s.clocked (siteRegion site) then .next s
    else
      let s := s.updCl site fun k => { k with writeBack := ws.filter fun x => x.1 / 32 != w.1 / 32 }
      .next (((w :: ws).filter fun x => x.1 / 32 == w.1 / 32).foldl (fun s x => s.rewriteWord site x) s)

/-- Kinds whose capture needs the region's clock (R456). -/
def watchClocked (kind : Nat) : Bool := [4, 5, 6, 10].contains kind

/-- A watch unit of a region captures and claims the region's clock, which holds no grant (R458). -/
def State.watchClaim (s : State) (r u : Nat) : Bool :=
  s.regF (Reg.MGT_WCTL u) 2 2 == 2 && watchClocked (s.regF (Reg.MGT_WSRC u) 0 8) && !s.regionGranted r

/-- The watch units of a region. -/
def regionWatch (r : Nat) : List Nat := (List.range 4).map (208 + 4 * r + ·)

def State.watchClaims (s : State) (r : Nat) : Bool := (regionWatch r).any (s.watchClaim r)

/-- A capture that claims a region's clock ends when a higher rank claims the region (R458). -/
def State.preemptWatch (s : State) (r : Nat) : State :=
  (regionWatch r).foldl
    (fun s u => if s.watchClaim r u then (s.setRegF (Reg.MGT_WCTL u) 2 2 3).setRegF (Reg.MGT_WCTL u) 4 1 1 else s) s

/-- The groups of a region in BIVOUAC return to retention 20 µs after its last aperture access (R146). -/
def execRetentionReturn (r : RegionNo) (s : State) : Res :=
  match (s.rg r).aperAt with
  | some t =>
    if s.rstate r = stBivouac ∧ 2000 ≤ (s.now - t).toNat then
      .next (((s.setSwitches r false true false).setRetention r true).updRg r fun g => { g with aperAt := none })
    else .next s
  | none => .next s

/-- Invert the selected stored bits of the selected word (R147). -/
def State.larInject (s : State) (site : Nat) (v : Word) : State :=
  let k := site * larWords + fld v 0 19
  let b := min 71 (fld v 19 7)
  let m (i : Nat) : BitVec 72 := BitVec.ofNat 72 (2 ^ i)
  let p := m b ^^^ (if tst v 26 then m ((b + 1) % 72) else 0)
  { s with larErr := Tab.set 0 s.larErr k (Tab.get 0 s.larErr k ^^^ p) }

/-- A write of RGN_LARINJ: U5 while the region holds a grant or the device is in RESTART; unreachable while its router
domain is down (R147, R465, R498). A word of a group that is off holds nothing to invert. -/
def execLarinjArm (c : SiteNo) (v : Word) (s : State) : Res :=
  let r := siteRegion c
  if !(s.railsOn && (s.rg r).ctlUp) then .next s
  else if !s.injStopped r then undef .u5
  else
    let s := s.setReg (Reg.RGN_LARINJ c) (v &&& 0x7FFFFFF)
    .next (if tst v 27 && s.groupIsOn c (fld v 0 19 / 2 ^ 17) then s.larInject c v else s)

end Sys2Proof.Machine
end

