-- ==== Sys2Proof/Machine/Plan.lean ====
section
/-! DEFINITION. Pitch plans: header, tables, cluster sets, the wake of a region for a step and the start of a pitch
(R185, R202 to R214). -/

namespace Sys2Proof.Machine

/-- Why work on a plan ends: an access is held, with the state it leaves, or an undefined case is met. -/
inductive Stop where
  | held (s : State)
  | undef (u : UCase)
  deriving Repr

abbrev Flow := Except Stop State

/-- The outcome of such work. -/
def Flow.res : Flow → Res
  | .ok s => .next s
  | .error (.held s) => .next s
  | .error (.undef u) => undef u

def Flow.bind' (f : Flow) (k : State → Flow) : Flow :=
  match f with
  | .ok s => k s
  | .error e => .error e

/-- Do something for each element in turn. -/
def foldFlow {α : Type} (f : State → α → Flow) : State → List α → Flow
  | s, [] => .ok s
  | s, x :: l => (f s x).bind' fun s' => foldFlow f s' l

/-- Read a slice on behalf of the device: past its end is U1; an uncorrectable codeword holds the access. -/
def State.planRead (s : State) (r off n : Nat) (k : State → List Byte → Flow) : Flow :=
  if celSpan < off + n then .error (.undef .u1)
  else
    match s.celRead r off n with
    | (s', some d) => k s' d
    | (s', none) => .error (.held s')

def State.planWrite (s : State) (r off : Nat) (d : List Byte) : Flow :=
  if celSpan < off + d.length then .error (.undef .u1)
  else
    match s.celWrite r off d with
    | (s', true) => .ok s'
    | (s', false) => .error (.held s')

/-- A larder write on behalf of the device. -/
def State.larStore (s : State) (site addr : Nat) (d : List Byte) : Flow :=
  if larSpan < addr + d.length then .error (.undef .u1)
  else
    match s.larWrite site addr d with
    | (s', true) => .ok s'
    | (s', false) => .error (.held s')

-- The header (R205)

abbrev planMagic : Nat := 0x4E4C5031

structure Hdr where
  b : List Byte
  deriving DecidableEq, Repr

namespace Hdr
def magic (h : Hdr) : Nat := leAt h.b 0 4
def format (h : Hdr) : Nat := leAt h.b 4 2
def grade (h : Hdr) : Nat := leAt h.b 6 1
def lgy (h : Hdr) : Nat := leAt h.b 7 1
def pitches (h : Hdr) : Nat := leAt h.b 8 2
def alts (h : Hdr) : Nat := leAt h.b 10 2
def programs (h : Hdr) : Nat := leAt h.b 12 2
def trees (h : Hdr) : Nat := leAt h.b 14 2
def barriers (h : Hdr) : Nat := leAt h.b 16 1
def stretches (h : Hdr) : Nat := leAt h.b 17 1
def isStream (h : Hdr) : Bool := leAt h.b 18 1 % 2 == 1
def llHandle (h : Hdr) : Nat := leAt h.b 19 1 % 64
def llAddr (h : Hdr) : Nat := leAt h.b 20 4 % 2 ^ 22
def llStride (h : Hdr) : Nat := leAt h.b 24 4
def llLen (h : Hdr) : Nat := leAt h.b 28 4
/-- A slice offset [34:0] (R205). -/
def off (h : Hdr) (o : Nat) : Nat := leAt h.b o 8 % 2 ^ 35
def pitchTab (h : Hdr) : Nat := h.off 32
def progTab (h : Hdr) : Nat := h.off 40
def assignTab (h : Hdr) : Nat := h.off 48
def assigns (h : Hdr) : Nat := leAt h.b 56 4
def wakes (h : Hdr) : Nat := leAt h.b 60 2
def handoffs (h : Hdr) : Nat := leAt h.b 62 2
def wakeTab (h : Hdr) : Nat := h.off 64
def presetTab (h : Hdr) : Nat := h.off 72
def treeTab (h : Hdr) : Nat := h.off 80
def barTab (h : Hdr) : Nat := h.off 88
def handoffTab (h : Hdr) : Nat := h.off 96
def llOff (h : Hdr) : Nat := h.off 104
def staticOff (h : Hdr) : Nat := h.off 112
def staticEnd (h : Hdr) : Nat := h.off 120
def ctxOff (h : Hdr) : Nat := h.off 128
def ctxEnd (h : Hdr) : Nat := h.off 136
def heldBase (h : Hdr) : Nat := h.off 144
def heldSlot (h : Hdr) : Nat := leAt h.b 152 4
def heldSlots (h : Hdr) : Nat := leAt h.b 156 2
def pwatchOff (h : Hdr) : Nat := h.off 160
def cairnOff (h : Hdr) : Nat := h.off 168
def cairnEnd (h : Hdr) : Nat := h.off 176
def inSet (h : Hdr) : List Byte := (h.b.drop 184).take 10
def outSet (h : Hdr) : List Byte := (h.b.drop 194).take 10
def presets (h : Hdr) : Nat := leAt h.b 204 2
/-- A length from an offset inside the static area runs past the area's end (R206, R207). -/
def passes (h : Hdr) (o n : Nat) : Bool := decide (h.staticOff ≤ o) && decide (o < h.staticEnd) && decide (h.staticEnd < o + n)
/-- The tables of a plan and its load lists: offset and length. -/
def tables (h : Hdr) : List (Nat × Nat) :=
  [(h.pitchTab, 32 * (h.pitches + h.alts)), (h.progTab, 16 * h.programs), (h.assignTab, 16 * h.assigns), (h.wakeTab, 16 * h.wakes),
    (h.presetTab, 512 * h.presets), (h.treeTab, 32 * h.trees), (h.barTab, 32 * h.barriers), (h.handoffTab, 32 * h.handoffs),
    (h.llOff, 63 * h.llStride + h.llLen)]
/-- The undefined case of a header whose counts pass their tables, whose load lists pass their stride, or one of whose tables runs
past the static area (R205, R207). -/
def oversize (h : Hdr) : Option UCase :=
  if 4096 < h.pitches ∨ 1024 < h.alts ∨ 1024 < h.programs ∨ 256 < h.trees ∨ 32 < h.barriers ∨ 256 < h.handoffs then some .u2
  else if h.llStride < h.llLen ∨ h.tables.any (fun t => h.passes t.1 t.2) then some .u1
  else none
end Hdr

-- Cluster sets (R185)

/-- A rectangle of logical regions and a mask of clusters. -/
structure CSet where
  lx0 : Nat
  lx1 : Nat
  ly0 : Nat
  ly1 : Nat
  mask : Nat
  deriving DecidableEq, Repr

/-- Bytes 0 to 9: LX, LY and CMASK. -/
def cset (d : List Byte) : CSet :=
  let x := leAt d 0 1
  let y := leAt d 1 1
  ⟨x % 16, x / 16, y % 16, y / 16, leAt d 2 8⟩

def CSet.has (c : CSet) (lc : Nat) : Bool :=
  let lx := lc / 64 % 16
  let ly := lc / 1024
  decide (c.lx0 ≤ lx) && decide (lx ≤ c.lx1) && decide (c.ly0 ≤ ly) && decide (ly ≤ c.ly1) && c.mask.testBit (lc % 64)

/-- The conditions of R185 on a tree or barrier entry; breaking them is U2. -/
def CSet.ok (c : CSet) (rows : Nat) : Bool :=
  decide (c.lx0 ≤ c.lx1) && decide (c.ly0 ≤ c.ly1) && decide (c.ly1 < rows) && c.mask != 0

-- The directory (R202)

structure PlanEnt where
  valid : Bool
  hreg : Nat
  off : Nat
  deriving DecidableEq, Repr

def State.planEnt (s : State) (n : Nat) : PlanEnt :=
  let c := s.reg (Reg.GLB_PLANDIR_CTL n)
  ⟨tst c 0, fld c 8 8,
    ((s.reg (Reg.GLB_PLANDIR_OFFLO n)).toNat + s.regF (Reg.GLB_PLANDIR_OFFHI n) 0 3 * 2 ^ 32) / 256 * 256⟩

/-- Read a plan header through a directory entry; a header region outside the grid is U2. -/
def State.readHdr (s : State) (hreg off : Nat) (k : State → Hdr → Flow) : Flow :=
  match s.physRegion hreg with
  | none => .error (.undef .u2)
  | some r => s.planRead r off 256 fun s' d => k s' ⟨d⟩

-- Pitch entries (R208)

structure PEnt where
  b : List Byte
  deriving DecidableEq, Repr

namespace PEnt
def altPitch (p : PEnt) : Nat := leAt p.b 0 2
def policy (p : PEnt) : Bool := leAt p.b 2 1 % 2 == 1
def a1sign (p : PEnt) : Bool := leAt p.b 2 1 / 2 % 2 == 1
def a1scale (p : PEnt) : Byte := byteAt p.b 3
def accexp (p : PEnt) : Nat := leAt p.b 4 2 % 512
def assignCount (p : PEnt) : Nat := leAt p.b 6 2
def assignFirst (p : PEnt) : Nat := leAt p.b 8 4
def satLimit (p : PEnt) : Nat := leAt p.b 12 4
def ovfLimit (p : PEnt) : Nat := leAt p.b 16 4
def tiles (p : PEnt) : Nat := leAt p.b 24 2
end PEnt

/-- Read the pitch table entry of an index; past the table is U2 (R207). -/
def State.readPitch (s : State) (hr : Nat) (h : Hdr) (i : Nat) (k : State → PEnt → Flow) : Flow :=
  if h.pitches + h.alts ≤ i then .error (.undef .u2)
  else s.planRead hr (h.pitchTab + 32 * i) 32 fun s' d => k s' ⟨d⟩

/-- The records of n bytes each of a table, read whole. -/
def chunks (n : Nat) : Nat → List Byte → List (List Byte)
  | 0, _ => []
  | c + 1, d => d.take n :: chunks n c (d.drop n)

/-- Last record of a list whose cluster set has the cluster (R210, R211). -/
def lastFor (recs : List (List Byte)) (lc : Nat) : Option (List Byte) :=
  (recs.reverse).find? fun d => (cset d).has lc

-- Programs (R209, R214)

/-- A program image by its table entry; none where the entry gives more than a program store holds, or runs past the static
area. -/
def State.readProgram (s : State) (hr : Nat) (h : Hdr) (d : List Byte) (k : State → Option (List Word) → Flow) : Flow :=
  let len := leAt d 8 4 / 4 * 4
  if 32768 < leAt d 8 4 || h.passes (leAt d 0 8 % 2 ^ 35) len then k s none
  else s.planRead hr (leAt d 0 8 % 2 ^ 35) len fun s img => k s (some (wordsOf (len / 4) img))

/-- Read the images of program table entries from number i on. -/
def State.readPrograms (hr : Nat) (h : Hdr) : List (List Byte) → Nat → Tab (Option (List Word)) → State →
    (State → Tab (Option (List Word)) → Flow) → Flow
  | [], _, t, s, k => k s t
  | d :: ds, i, t, s, k => s.readProgram hr h d fun s x => State.readPrograms hr h ds (i + 1) (Tab.set none t i x) s k

/-- Cache the plan's programs in regions: their images as they stand now (R204). -/
def State.cachePrograms (s : State) (hr : Nat) (h : Hdr) (rs : List Nat) : Flow :=
  s.planRead hr h.progTab (16 * h.programs) fun s d =>
    State.readPrograms hr h (chunks 16 h.programs d) 0 [] s fun s t =>
      .ok (rs.foldl (fun s r => s.updRg r fun g => { g with images := t }) s)

/-- Load a cached program into a cluster's store from address 0; an image longer than the store is U1. -/
def State.loadProgram (s : State) (h : Hdr) (site idx : Nat) : Flow :=
  if h.programs ≤ idx then .error (.undef .u2)
  else
    match Tab.get none (s.rg (siteRegion site)).images idx with
    | none => .error (.undef .u1)
    | some ws => .ok (s.updCl site fun c => { c with prog := Tab.setList 0 c.prog 0 ws, progIdx := some idx })

/-- Belay sampling of a tile (R379). -/
def belayHash (seed pitch lc tile : Nat) : DWord :=
  let h := BitVec.ofNat 64 (seed + 0x9E3779B97F4A7C15 * (((pitch * 16384 + lc) * 65536) + tile))
  let h := (h ^^^ (h >>> 30)) * 0xBF58476D1CE4E5B9
  let h := (h ^^^ (h >>> 27)) * 0x94D049BB133111EB
  h ^^^ (h >>> 31)

/-- Low bits of the hash that must be 0 for a sampling code of R273; none when checks are off. -/
def belayBits : Nat → Option Nat
  | 1 => some 4
  | 2 => some 6
  | 3 => some 8
  | 4 => some 10
  | 5 => some 12
  | _ => none

def State.tileSampled (s : State) (seed pitch lc tile : Nat) : Bool :=
  match (s.jobs.step.map (·.belay)).bind belayBits with
  | some m => (belayHash seed pitch lc tile).toNat % 2 ^ m == 0
  | none => false

/-- Start a tile's recording: the start record and the active plane when the tile is sampled (R379, R381). -/
def Cluster.startTile (c : Cluster) (tile : Nat) (sampled : Bool) : Cluster :=
  { c with
    tile := tile
    tileRec := if sampled then { sampled := true, accexp := c.accexp, a1sign := c.a1sign, a1scale := c.a1scale, plane := c.active }
      else {} }

/-- The active plane as the check stream carries it: the record, and the WROWs applied to it since (R381). -/
def streamPlane (p : Plane) (fmt : Nat) (d : List Byte) : Plane :=
  (p.rows.foldl (fun (c : Cluster) r => c.loadRow r.1 r.2.1 r.2.2) (Cluster.loadPlane {} fmt d)).shadow

/-- The stream of a sampled tile begins: the record of the active plane is read again. Where it cannot be read, the tile has no
check; a plane that no WLOAD filled is carried as it is (DESIGN CHOICE, see the assumption log). -/
def State.openTile (s : State) (site : Nat) : State :=
  let k := s.cl site
  match k.active.src with
  | none => s
  | some (t, a, fmt) =>
    if !k.tileRec.sampled then s
    else
      let noCheck (s : State) : State := s.updCl site fun c => { c with tileRec := {} }
      if t ≠ site ∧ !(s.reaches 0 site t && s.reaches 0 t site) then noCheck s
      else
        match s.larRead t a (128 * rowBytes fmt + 1024) with
        | (s', some d) => s'.updCl site fun c => { c with tileRec := { c.tileRec with plane := streamPlane c.active fmt d } }
        | (s', none) => noCheck s'

/-- Start of a pitch in one cluster (R214), with its counts at 0 (R80). A cluster that no record names runs nothing and has arrived (R210). -/
def State.startCluster (s : State) (h : Hdr) (p : Nat) (e : PEnt) (seed : Nat)
    (recs : List (List Byte)) (lc site : Nat) : Flow :=
  let base (c : Cluster) : Cluster :=
    { c with
      pitch := BitVec.ofNat 32 p, accexp := BitVec.ofNat 9 e.accexp, a1sign := e.a1sign, a1scale := e.a1scale
      check := false, loops := [], stall := none
      accSatCnt := 0, shiftUfl := 0, outliers := 0, outlierOvf := 0, scaleNan := 0, vecSpecial := 0 }
  match lastFor recs lc with
  | none => .ok (s.updCl site fun c => { base c with run := .halted })
  | some d =>
    let idx := leAt d 10 2
    let f := if (s.cl site).progIdx = some idx then .ok s else s.loadProgram h site idx
    f.bind' fun s =>
      .ok ((s.updCl site fun c =>
        ({ base c with run := .running, pc := BitVec.ofNat 32 (leAt d 12 2 * 4), tiles := e.tiles }).startTile 0
          (decide (0 < e.tiles) && s.tileSampled seed p lc 0)).openTile site)

/-- Start of pitch p in every cluster of a region (R213, R214). -/
def State.startPitch (s : State) (hr : Nat) (h : Hdr) (p entry : Nat) (seed : Nat) (r : Nat) : Flow :=
  match s.logRegion r with
  | none => .ok s
  | some l =>
    s.readPitch hr h entry fun s e =>
      if h.assigns < e.assignFirst + e.assignCount then .error (.undef .u2)
      else
        s.planRead hr (h.assignTab + 16 * e.assignFirst) (16 * e.assignCount) fun s d =>
          let recs := chunks 16 e.assignCount d
          foldFlow
            (fun s i =>
              match s.siteIn r (i / 8) (i % 8) with
              | some site => s.startCluster h p e seed recs (l * 64 + i) site
              | none => .ok s)
            s (List.range 64)

-- The fetch-ahead engine's list (R134, R163, R164)

def State.updFa (s : State) (site : Nat) (f : FetchAhead → FetchAhead) : State := s.updCl site fun c => { c with fa := f c.fa }

/-- The engine takes the next entry of its list; the entry before had PITCH p. An entry whose PITCH is lower, or not below
PITCHES, ends the list as the count does; one past the list's buffer is U1. -/
def State.takeEntry (s : State) (site p : Nat) : Flow :=
  let fa := (s.cl site).fa
  if fa.entries ≤ fa.next then .ok (s.updFa site fun fa => { fa with cur := none })
  else if fa.listLen < 96 + 32 * fa.next then .error (.undef .u1)
  else
    match s.larRead site (fa.listAddr + 64 + 32 * fa.next) 32 with
    | (t, none) => .ok (t.updFa site fun fa => { fa with cur := none, held := true })
    | (t, some e) =>
      .ok (t.updFa site fun fa => { fa with cur := if leAt e 0 2 < p ∨ fa.pitches ≤ leAt e 0 2 then none else some e })

/-- The engine starts on a list of its own larder with its credits reset: it works from the handle table as it stands
(DEDUCED, see the assumption log) and reads the header and the first entry. A buffer of length 0 is an empty list, as a
length of 0 moves nothing (R494). -/
def State.startEngine (s : State) (site addr len : Nat) : Flow :=
  if len = 0 then .ok (s.updFa site fun _ => { running := true, listAddr := addr })
  else if len < 64 then .error (.undef .u1)
  else
    let start (s : State) (fa : FetchAhead) : State := s.updCl site fun c => { c with fa := { fa with handles := c.handles } }
    let fa : FetchAhead := { running := true, listAddr := addr, listLen := len }
    match s.larRead site addr 64 with
    | (t, none) => .ok (start t { fa with held := true })
    | (t, some b) =>
      let cr := leAt b 6 1 % 8
      (start t { fa with
        entries := min 131071 (leAt b 0 4), pitches := leAt b 4 2, credits := if cr = 0 then 1 else min 4 cr
        sets := (List.range 4).map fun j => leAt b (8 + j) 1 % 64 }).takeEntry site 0

/-- The engine stops with its credits reset (R163). -/
def State.stopEngine (s : State) (site : Nat) : State := s.updFa site fun _ => {}

-- The wake for a step (R204, R211, R212)

/-- A valid image describes a buffer that passes the end of the larder: U1 (R132). -/
def imageBad (v : DWord) : Bool := hValid v && decide (larSpan < hAddr v + hLen v)

/-- A handle image as the loading cluster reads it (R211). -/
def presetImage (own : Nat) (v : DWord) : DWord :=
  if !hValid v then 0
  else if hRemote v ∧ hHome v ≠ own then mkHandle (hAddr v) (hLen v) (hHome v) true
  else mkHandle (hAddr v) (hLen v) own false

/-- Apply GMASK (R136): groups turned off lose their contents, groups turned on are zeroed. -/
def State.applyMask (s : State) (site mask : Nat) : State :=
  (List.range 4).foldl
    (fun s g =>
      if mask.testBit g then (if s.groupIsOn site g then s else s.groupOn site g)
      else (if s.groupIsOn site g then s.groupOff site g else s))
    s

/-- Preset block of a wake record, from the cluster's cache unless it is to be reloaded (R204, R211). -/
def State.loadPresets (s : State) (hr : Nat) (h : Hdr) (site : Nat) (reload : Bool) (idx : Nat) : Flow :=
  if !reload then .ok s
  else if h.presets ≤ idx then .error (.undef .u2)
  else
    s.planRead hr (h.presetTab + 512 * idx) 512 fun s d =>
      let l := (chunks 8 64 d).map fun x => BitVec.ofNat 64 (ofLe x)
      if l.any imageBad then .error (.undef .u1) else .ok (s.updCl site fun c => { c with presets := Tab.ofList 0 0 l })

/-- Group mask of a cluster: of its wake record, else every group on (R136, R211). -/
def wakeMask (recs : List (List Byte)) (lc : Nat) : Nat := ((lastFor recs lc).map fun d => leAt d 12 1 % 16).getD 15

/-- Presets of a cluster: those of its wake record, else none (R211). -/
def State.wakePresets (s : State) (hr : Nat) (h : Hdr) (reload : Bool) (recs : List (List Byte)) (lc site : Nat) : Flow :=
  match lastFor recs lc with
  | some d => s.loadPresets hr h site reload (leAt d 10 2)
  | none => .ok (if reload then s.updCl site fun c => { c with presets := [] } else s)

/-- Steps 1 to 3 of R212 for one cluster; a reload forgets the loaded program, so that pitch 0 loads it (step 5). -/
def State.wakeCluster (s : State) (hr : Nat) (h : Hdr) (reload : Bool) (recs : List (List Byte)) (r lc site : Nat) : Flow :=
  let own := lc
  (s.wakePresets hr h reload recs lc site).bind' fun s =>
    let s := s.applyMask site (wakeMask recs lc)
    let s := s.updCl site fun c =>
      { c with handles := Tab.ofList 0 0 ((List.range 64).map fun i => presetImage own (Tab.get 0 c.presets i)) }
    s.planRead r (h.llOff + lc % 64 * h.llStride) h.llLen fun s d =>
      (s.larStore site h.llAddr d).bind' fun s =>
        .ok (s.updCl site fun c =>
          { c with
            handles := Tab.set 0 c.handles h.llHandle (mkHandle h.llAddr h.llLen own false)
            progIdx := if reload then none else c.progIdx })

/-- Steps 1 to 3 of R212 for a region; its caches are then those of the plan. -/
def State.wakeRegion (s : State) (hr : Nat) (h : Hdr) (reload : Bool) (r : Nat) : Flow :=
  match s.logRegion r with
  | none => .ok s
  | some l =>
    s.planRead hr h.wakeTab (16 * h.wakes) fun s d =>
      let recs := chunks 16 h.wakes d
      (foldFlow
        (fun s i =>
          match s.siteIn r (i / 8) (i % 8) with
          | some site => s.wakeCluster hr h reload recs r (l * 64 + i) site
          | none => .ok s)
        s (List.range 64)).bind' fun s => .ok (s.updRg r fun g => { g with cached := true })

/-- Step 4 of R212 in every cluster of the logical grid. -/
def State.startEngines (s : State) (h : Hdr) : Flow :=
  foldFlow (fun s site => s.startEngine site h.llAddr h.llLen) s (s.gridRegions.flatMap s.regionSites)

/-- Load the tree and barrier tables into the network blocks (R185, R191, R204). -/
def State.loadTables (s : State) (hr : Nat) (h : Hdr) : Flow :=
  s.planRead hr h.treeTab (32 * h.trees) fun s t =>
    s.planRead hr h.barTab (32 * h.barriers) fun s b =>
      .ok { s with sync := { s.sync with
        treeTab := Tab.ofList 0 0 ((chunks 32 h.trees t).map fun x => BitVec.ofNat 256 (ofLe x))
        barTab := Tab.ofList 0 0 ((chunks 32 h.barriers b).map fun x => BitVec.ofNat 256 (ofLe x)) } }

/-- At each grant and grid rebuild: barriers, flags and trees start again (R194). -/
def State.resetSync (s : State) : State :=
  { s with sync := { s.sync with barPhase := [], arrivals := [], barLost := [], cut := [], flags := 0, treeInst := [], contrib := [], msgs := [] } }

end Sys2Proof.Machine
end

