-- ==== Sys2Proof/Machine/Vector.lean ====
section
/-! DEFINITION. The vector unit: lane operations, functions, reductions, conversions, requantisation and larder
accesses (R72 to R79, R103 to R105). VNR is with the sync network. -/

namespace Sys2Proof.Machine

-- Operand types (R105)

/-- T of 2 or 3 is a bad T field (R105, R109). -/
def badT (t : BitVec 2) : Bool := decide (2 ≤ t.toNat)

def vin (t : BitVec 2) (w : Word) : Word := if t = 1 then bf16In w else w
def vout (t : BitVec 2) (r : Word) : Word := if t = 1 then bf16Out r else canon r

/-- The lane written for a binary32 result, and 1 when it is a NaN or an infinity from finite inputs (R73). -/
def vlane (t : BitVec 2) (ins : List Word) (r : Word) : Word × Nat :=
  let o := vout t r
  (o, b2n (ins.all finite32 && !finite32 (vin t o)))

/-- Write lanes with their counts to VEC_SPECIAL. -/
def Cluster.putLanes (c : Cluster) (vd : BitVec 5) (l : List (Word × Nat)) : Cluster :=
  (c.setV vd.toNat (l.map (·.1))).addSpecial ((l.map (·.2)).sum)

def Cluster.lane1 (c : Cluster) (t : BitVec 2) (vd va : BitVec 5) (f : Word → Word) : Cluster :=
  c.putLanes vd ((c.v va.toNat).map fun a => vlane t [vin t a] (f (vin t a)))

def Cluster.lane2 (c : Cluster) (t : BitVec 2) (vd va vb : BitVec 5) (f : Word → Word → Word) : Cluster :=
  c.putLanes vd (List.zipWith (fun a b => vlane t [vin t a, vin t b] (f (vin t a) (vin t b))) (c.v va.toNat) (c.v vb.toNat))

def Cluster.lane3 (c : Cluster) (t : BitVec 2) (vd va vb vc : BitVec 5) (f : Word → Word → Word → Word) : Cluster :=
  c.putLanes vd (List.zipWith (fun (p : Word × Word) z =>
      vlane t [vin t p.1, vin t p.2, vin t z] (f (vin t p.1) (vin t p.2) (vin t z)))
    ((c.v va.toNat).zip (c.v vb.toNat)) (c.v vc.toNat))

/-- 48-bit values of a register pair (R103). -/
def Cluster.pair (c : Cluster) (va : BitVec 5) : List Int :=
  List.zipWith (fun lo hi => sext 48 (lo.toNat + hi.toNat % 2 ^ 16 * 2 ^ 32)) (c.v va.toNat) (c.v (va.toNat + 1))

/-- Combine lanes 2i and 2i + 1, the lower on the left; counts of specials are kept (R74). -/
def treeLevel (f : Word → Word → Word) : List Word → List Word × Nat
  | a :: b :: l =>
    let r := treeLevel f l
    let o := f a b
    (o :: r.1, b2n (finite32 a && finite32 b && !finite32 o) + r.2)
  | l => (l, 0)

def treeReduce (f : Word → Word → Word) : Nat → List Word → List Word × Nat
  | 0, l => (l, 0)
  | n + 1, l =>
    let a := treeLevel f l
    let b := treeReduce f n a.1
    (b.1, a.2 + b.2)

/-- VRED and VREDMAX: lane 0 of vd, and 0 in lanes 1 to 63 (R105). -/
def Cluster.vreduce (c : Cluster) (t : BitVec 2) (vd va : BitVec 5) (f : Word → Word → Word) : Cluster :=
  let r := treeReduce f 6 ((c.v va.toNat).map (vin t))
  let x := r.1.headD 0
  let o := vlane t [x] x
  (c.setV vd.toNat (o.1 :: List.replicate 63 0)).addSpecial (r.2 + o.2)

-- Requantisation (R78, R79)

/-- M × 2^e ≤ Q × 2^k. -/
def leScaled (m : Nat) (e : Int) (q : Nat) (k : Int) : Bool :=
  if k ≤ e then decide (m <<< (e - k).toNat ≤ q) else decide (m ≤ q <<< (k - e).toNat)

/-- Smallest k with a magnitude at most Q × 2^k: none for 0, above every clamp for an infinity. -/
def scaleOf (q : Nat) (mag : Word) : Option Int :=
  match decode32 mag with
  | .fin _ m e =>
    if m = 0 then none
    else ((List.range 320).find? fun (i : Nat) => leScaled m e q ((i : Int) - 170)).map fun (i : Nat) => (i : Int) - 170
  | _ => some 1000

/-- x / 2^k to the nearest integer, ties to even; an infinity lies outside every range. -/
def quant (k : Int) (x : Word) : Int :=
  match decode32 x with
  | .nan => 0
  | .inf n => if n then -2 ^ 200 else 2 ^ 200
  | .fin n m e => toIntRne n m (e - k)

/-- Insert into positions ranked by magnitude, ties to the lower position. -/
def rankInsert (e : Nat × Nat) : List (Nat × Nat) → List (Nat × Nat)
  | [] => [e]
  | x :: l => if x.1 < e.1 then e :: x :: l else x :: rankInsert e l

/-- Positions and magnitudes of a block, the largest first. -/
def rank (l : List Word) : List (Nat × Nat) :=
  l.zipIdx.foldl (fun acc e => rankInsert (e.1.toNat % 2 ^ 31, e.2) acc) []

/-- Pack elements of b bits, lower index in lower bits (R58). -/
def packElems (b : Nat) (l : List Int) : List Byte :=
  toLe (32 * b / 8) (l.foldr (fun v n => (v % 2 ^ b).toNat + 2 ^ b * n) 0)

/-- A record with its trailer (R63). -/
def mkRec (b : Nat) (l : List Int) (scale : Byte) (outl : List (Nat × Int)) : List Byte :=
  let o := (outl.map fun e => [BitVec.ofNat 8 e.1, BitVec.ofInt 8 e.2]).flatten
  packElems b l ++ ([scale, BitVec.ofNat 8 outl.length] ++ o ++ List.replicate (6 - o.length) 0)

/-- A requantised block and what it counts. -/
structure Requant where
  bytes : List Byte
  outliers : Nat
  ovf : Nat
  special : Nat
  deriving DecidableEq, Repr

def inRange (n : Nat) (q : Int) : Bool := decide (-2 ^ (n - 1) ≤ q) && decide (q ≤ 2 ^ (n - 1) - 1)

/-- One block of 32 values to format An (R78, R79). Where k3 is void, k1 has not exceeded it (DESIGN CHOICE, see the assumption
log). -/
def requant (aw : Nat) (outl a1sign : Bool) (a1scale : Byte) (xs : List Word) : Requant :=
  let nans := xs.countP isNan32
  let xs := xs.map fun x => if isNan32 x then 0 else x
  if aw = 0 then
    ⟨mkRec 1 (xs.map fun x => if (if a1sign then !fLt x 0 else fLt 0 x) then 1 else 0) a1scale [], 0, 0, nans⟩
  else
    let n := aBits aw
    let qm := 2 ^ (n - 1) - 1
    let order := rank xs
    let mag (i : Nat) : Word := BitVec.ofNat 32 ((order.getD i (0, 0)).1)
    let outl := outl && decide (aw ≠ 3)
    let k1 := scaleOf (if outl then 127 else qm) (mag 0)
    let k3 := if outl then scaleOf qm (mag 2) else none
    let k := match k1, k3 with
      | some a, some b => max a b
      | some a, none => a
      | none, some b => b
      | none, none => 0
    let narrowed := match k1, k3 with
      | some a, some b => b2n (decide (b < a))
      | _, _ => 0
    let k := clampInt (-127) 127 k
    let qs := xs.map (quant k)
    let top := (order.take 2).map (·.2)
    let ent := qs.zipIdx.filter fun e => outl && top.contains e.2 && !inRange n e.1
    let kept := qs.zipIdx.map fun e => if ent.any fun x => x.2 == e.2 then (0, false)
      else (clampInt (-2 ^ (n - 1)) (2 ^ (n - 1) - 1) e.1, !inRange n e.1)
    let clamped := (kept.countP (·.2)) + ent.countP fun e => !inRange 8 e.1
    ⟨mkRec n (kept.map (·.1)) (BitVec.ofInt 8 (k + 127)) (ent.map fun e => (e.2, clampInt (-128) 127 e.1)),
      ent.length, narrowed + clamped, nans⟩

/-- The two records of VRQ, lanes 0 to 31 and 32 to 63, and the counts of both. -/
def Cluster.vrqRecs (c : Cluster) (va : BitVec 5) (aw : Nat) (outl : Bool) : Requant :=
  let a := requant aw outl c.a1sign c.a1scale ((c.v va.toNat).take 32)
  let b := requant aw outl c.a1sign c.a1scale ((c.v va.toNat).drop 32)
  ⟨a.bytes ++ b.bytes, a.outliers + b.outliers, a.ovf + b.ovf, a.special + b.special⟩

def Cluster.countRq (c : Cluster) (r : Requant) : Cluster := ((c.addOutliers r.outliers).addOvf r.ovf).addSpecial r.special

-- What each instruction does to the cluster

def Cluster.fcmplt (c : Cluster) (t : BitVec 2) (vd va vb : BitVec 5) : Cluster :=
  c.setV vd.toNat (List.zipWith (fun a b => if fLt (vin t a) (vin t b) then 1 else 0) (c.v va.toNat) (c.v vb.toNat))

/-- FSEL tests the raw bits of vc in the operand width (R105). -/
def Cluster.fsel (c : Cluster) (t : BitVec 2) (vd va vb vc : BitVec 5) : Cluster :=
  c.setV vd.toNat (List.zipWith (fun (p : Word × Word) z =>
      vout t (vin t (if (if t = 1 then z.setWidth 16 != 0 else z != 0) then p.1 else p.2)))
    ((c.v va.toNat).zip (c.v vb.toNat)) (c.v vc.toNat))

def Cluster.fscale (c : Cluster) (t : BitVec 2) (vd va vb : BitVec 5) : Cluster :=
  c.putLanes vd (List.zipWith (fun a b => vlane t [vin t a] (fScale (vin t a) b.toInt)) (c.v va.toNat) (c.v vb.toNat))

def Cluster.i2f (c : Cluster) (t : BitVec 2) (vd va : BitVec 5) : Cluster :=
  c.setV vd.toNat ((c.v va.toNat).map fun a => if t = 1 then intToBf a.toInt else intToF a.toInt)

def Cluster.f2i48 (c : Cluster) (vd va vb : BitVec 5) : Cluster :=
  let l := List.zipWith (fun a b => toInt48 a b.toInt) (c.v va.toNat) (c.v vb.toNat)
  ((c.setV vd.toNat (l.map (BitVec.ofInt 32))).setV (vd.toNat + 1) (l.map fun v => BitVec.ofInt 32 (v / 2 ^ 32))).addSpecial
    ((c.v va.toNat).countP isNan32)

def Cluster.i48f (c : Cluster) (vd va : BitVec 5) : Cluster := c.setV vd.toNat ((c.pair va).map intToF)

def Cluster.iadd (c : Cluster) (vd va vb : BitVec 5) : Cluster :=
  c.setV vd.toNat (List.zipWith (· + ·) (c.v va.toNat) (c.v vb.toNat))

-- The instructions (R104)

/-- A vector instruction that works on the cluster alone; `bad` is a program fault (R109). -/
def vec (site : SiteNo) (op : Instr) (bad : Bool) (f : Cluster → Cluster) (s : State) : Res :=
  s.core site fun k => if bad then s.stop site else s.fin site ((f k).record op [] [])

def execFadd (c : SiteNo) (vd va vb : BitVec 5) (t : BitVec 2) (s : State) : Res :=
  vec c (.fadd c vd va vb t) (badT t) (fun k => k.lane2 t vd va vb fAdd) s
def execFsub (c : SiteNo) (vd va vb : BitVec 5) (t : BitVec 2) (s : State) : Res :=
  vec c (.fsub c vd va vb t) (badT t) (fun k => k.lane2 t vd va vb fSub) s
def execFmul (c : SiteNo) (vd va vb : BitVec 5) (t : BitVec 2) (s : State) : Res :=
  vec c (.fmul c vd va vb t) (badT t) (fun k => k.lane2 t vd va vb fMul) s
def execFfma (c : SiteNo) (vd va vb vc : BitVec 5) (t : BitVec 2) (s : State) : Res :=
  vec c (.ffma c vd va vb vc t) (badT t) (fun k => k.lane3 t vd va vb vc fFma) s
def execFmax (c : SiteNo) (vd va vb : BitVec 5) (t : BitVec 2) (s : State) : Res :=
  vec c (.fmax c vd va vb t) (badT t) (fun k => k.lane2 t vd va vb fMax) s
def execFmin (c : SiteNo) (vd va vb : BitVec 5) (t : BitVec 2) (s : State) : Res :=
  vec c (.fmin c vd va vb t) (badT t) (fun k => k.lane2 t vd va vb fMin) s
def execFabs (c : SiteNo) (vd va : BitVec 5) (t : BitVec 2) (s : State) : Res :=
  vec c (.fabs c vd va t) (badT t) (fun k => k.lane1 t vd va fAbs) s
def execFneg (c : SiteNo) (vd va : BitVec 5) (t : BitVec 2) (s : State) : Res :=
  vec c (.fneg c vd va t) (badT t) (fun k => k.lane1 t vd va fNeg) s
def execFcmplt (c : SiteNo) (vd va vb : BitVec 5) (t : BitVec 2) (s : State) : Res :=
  vec c (.fcmplt c vd va vb t) (badT t) (fun k => k.fcmplt t vd va vb) s
def execFsel (c : SiteNo) (vd va vb vc : BitVec 5) (t : BitVec 2) (s : State) : Res :=
  vec c (.fsel c vd va vb vc t) (badT t) (fun k => k.fsel t vd va vb vc) s
def execFscale (c : SiteNo) (vd va vb : BitVec 5) (t : BitVec 2) (s : State) : Res :=
  vec c (.fscale c vd va vb t) (badT t) (fun k => k.fscale t vd va vb) s
def execI2f (c : SiteNo) (vd va : BitVec 5) (t : BitVec 2) (s : State) : Res :=
  vec c (.i2f c vd va t) (badT t) (fun k => k.i2f t vd va) s
/-- A 48-bit pair never begins at v31 (R103); F2I48, I48F and IADD ignore T (R105). -/
def execF2i48 (c : SiteNo) (vd va vb : BitVec 5) (t : BitVec 2) (s : State) : Res :=
  vec c (.f2i48 c vd va vb t) (decide (vd = 31)) (fun k => k.f2i48 vd va vb) s
def execI48f (c : SiteNo) (vd va : BitVec 5) (t : BitVec 2) (s : State) : Res :=
  vec c (.i48f c vd va t) (decide (va = 31)) (fun k => k.i48f vd va) s
def execIadd (c : SiteNo) (vd va vb : BitVec 5) (t : BitVec 2) (s : State) : Res :=
  vec c (.iadd c vd va vb t) false (fun k => k.iadd vd va vb) s
def execSqrt (c : SiteNo) (vd va : BitVec 5) (t : BitVec 2) (s : State) : Res :=
  vec c (.sqrt c vd va t) (badT t) (fun k => k.lane1 t vd va fSqrt) s
def execRecip (c : SiteNo) (vd va : BitVec 5) (t : BitVec 2) (s : State) : Res :=
  vec c (.recip c vd va t) (badT t) (fun k => k.lane1 t vd va fRecip) s
def execRsqrt (c : SiteNo) (vd va : BitVec 5) (t : BitVec 2) (s : State) : Res :=
  vec c (.rsqrt c vd va t) (badT t) (fun k => k.lane1 t vd va fRsqrt) s
def execExp2 (c : SiteNo) (vd va : BitVec 5) (t : BitVec 2) (s : State) : Res :=
  vec c (.exp2 c vd va t) (badT t) (fun k => k.lane1 t vd va fExp2) s
def execLog2 (c : SiteNo) (vd va : BitVec 5) (t : BitVec 2) (s : State) : Res :=
  vec c (.log2 c vd va t) (badT t) (fun k => k.lane1 t vd va fLog2) s
def execTanh (c : SiteNo) (vd va : BitVec 5) (t : BitVec 2) (s : State) : Res :=
  vec c (.tanh c vd va t) (badT t) (fun k => k.lane1 t vd va fTanh) s
def execSigmoid (c : SiteNo) (vd va : BitVec 5) (t : BitVec 2) (s : State) : Res :=
  vec c (.sigmoid c vd va t) (badT t) (fun k => k.lane1 t vd va fSigmoid) s
def execErf (c : SiteNo) (vd va : BitVec 5) (t : BitVec 2) (s : State) : Res :=
  vec c (.erf c vd va t) (badT t) (fun k => k.lane1 t vd va fErf) s
def execVred (c : SiteNo) (vd va : BitVec 5) (t : BitVec 2) (s : State) : Res :=
  vec c (.vred c vd va t) (badT t) (fun k => k.vreduce t vd va fAdd) s
def execVredmax (c : SiteNo) (vd va : BitVec 5) (t : BitVec 2) (s : State) : Res :=
  vec c (.vredmax c vd va t) (badT t) (fun k => k.vreduce t vd va fMax) s

def execVld (c : SiteNo) (vd : BitVec 5) (h : BitVec 6) (sa : BitVec 4) (s : State) : Res :=
  s.core c fun k =>
    arrayRead c (.vld c vd h sa) h (k.s sa) 256 [k.s sa] (fun c d => c.setV vd.toNat (wordsOf 64 d)) s

def execVst (c : SiteNo) (vd : BitVec 5) (h : BitVec 6) (sa : BitVec 4) (s : State) : Res :=
  s.core c fun k =>
    s.handleWrite c h (k.s sa).toNat ((k.v vd.toNat).flatMap fun w => toLe 4 w.toNat) fun s' =>
      s'.fin c ((s'.cl c).record (.vst c vd h sa) [k.s sa] [])

def execVrq (c : SiteNo) (va : BitVec 5) (h : BitVec 6) (sa : BitVec 4) (aw : BitVec 2) (outl : Bool) (s : State) : Res :=
  s.core c fun k =>
    let r := k.vrqRecs va aw.toNat outl
    s.handleWrite c h (k.s sa).toNat r.bytes fun s' =>
      s'.fin c (((s'.cl c).countRq r).record (.vrq c va h sa aw outl) [k.s sa] [])

end Sys2Proof.Machine
end

