-- ==== Sys2Proof/Machine/Sync.lean ====
section
/-! DEFINITION. The sync network and reduction trees: barriers, event flags, region time, contributions, sums at the
nodes and completion at the root, and the release of stalled cores (R69 to R71, R117, R185 to R196). -/

namespace Sys2Proof.Machine

-- Release of stalls

/-- Clear the stall of every core that `p` picks; a wait that its event ends goes on at the next instruction. A region
in IDLE becomes ACTIVE when a stalled core's condition clears (R437). -/
def State.unstall (s : State) (p : Nat → Stall → Bool) (adv : Bool) : State :=
  let hit := s.clusters.filter fun e => (e.2.stall.map (p e.1)).getD false
  let s := hit.foldl (fun s e =>
    let c := { e.2 with stall := none }
    s.setCl e.1 (if adv then c.advance else c)) s
  hit.foldl (fun s e => if s.rstate (siteRegion e.1) = stIdle then s.setRstate (siteRegion e.1) stActive else s) s

-- Which way the sync network still goes (R178, R179, R186)

/-- The hub of a logical region: the router of its logical cluster row 4, col 4. -/
def State.hubSite (s : State) (l : Nat) : Option Nat := s.clusterSite (l * 64 + 36)

/-- A flit reaches each of the sites in turn; a site that the grid does not place is passed over. -/
def State.path (s : State) (net : Nat) : Nat → List (Option Nat) → Bool
  | _, [] => true
  | a, none :: l => s.path net a l
  | a, some b :: l => s.reaches net a b && s.path net b l

/-- What the clusters of a region know: the homes' and roots' own values, unless a broadcast has missed the region. -/
def State.syncAt (s : State) (r : Nat) : SyncCopy :=
  ((s.sync.cut.find? fun e => e.1 == r).map (·.2)).getD ⟨s.sync.flags, s.sync.barPhase, s.sync.treeInst⟩

/-- A region that a broadcast has missed. -/
def State.isCut (s : State) (r : Nat) : Bool := s.sync.cut.any fun e => e.1 == r

/-- A broadcast leaves a site: the logical regions that it does not reach keep what they know, from here on. That a region which
misses one broadcast misses the later ones too is a DESIGN CHOICE (see the assumption log). -/
def State.broadcast (s : State) (src : Option Nat) : State :=
  match src with
  | none => s
  | some a =>
    let miss := s.gridRegions.filter fun r => !s.reaches 2 a (siteAt r 4 4) && !s.isCut r
    { s with sync := { s.sync with cut := s.sync.cut ++ miss.map fun r => (r, ⟨s.sync.flags, s.sync.barPhase, s.sync.treeInst⟩) } }

-- Barriers (R191, R192)

def entBytes (v : BitVec 256) : List Byte := toLe 32 v.toNat

/-- Member set of a barrier of the loaded plan; an entry that breaks the conditions of R185 is U2. -/
def State.barSet (s : State) (b : Nat) : Option CSet :=
  let c := cset (entBytes (Tab.get 0 s.sync.barTab b))
  if c.ok s.rowsL then some c else none

abbrev arrKey (b lc : Nat) : Nat := b * 16384 + lc
def State.released (s : State) (b : Nat) : Nat := Tab.get 0 s.sync.barPhase b
/-- Phases of a barrier that the clusters of a region know to be released. -/
def State.releasedAt (s : State) (r b : Nat) : Nat := Tab.get 0 (s.syncAt r).barPhase b
def State.arrived (s : State) (b lc : Nat) : Nat := Tab.get 0 s.sync.arrivals (arrKey b lc)

def State.arrive (s : State) (b lc : Nat) : State :=
  { s with sync := { s.sync with arrivals := Tab.set 0 s.sync.arrivals (arrKey b lc) (s.arrived b lc + 1) } }

/-- The root of a barrier's tree: the row hub of the middle row, at the middle column (R191). -/
def CSet.root (m : CSet) : Nat := (m.ly0 + m.ly1) / 2 * 16 + (m.lx0 + m.lx1) / 2

/-- A cluster's arrival goes up the tree by its region's hub and its row's. An unpowered router loses it, and then that phase of
the barrier and the later ones never release (R178, R179). -/
def State.sendArrival (s : State) (m : CSet) (site b lc : Nat) : State :=
  let up := [s.hubSite (lc / 64), s.hubSite (lc / 1024 * 16 + (m.lx0 + m.lx1) / 2), s.hubSite m.root]
  let a := s.arrived b lc
  let old := Tab.get 0 s.sync.barLost b
  let s := s.arrive b lc
  if s.path 2 site up then s
  else { s with sync := { s.sync with barLost := Tab.set 0 s.sync.barLost b (if old = 0 then a + 1 else min old (a + 1)) } }

/-- Arrive at a barrier; `k` says how the core goes on after an arrival at a phase. A core that no grid place has, and
one that is no member, changes nothing and goes on (R192). -/
def barArrive (site : SiteNo) (b : Nat) (s : State) (k : Nat → State → Res) : Res :=
  s.core site fun c =>
    match s.barSet b with
    | none => undef .u2
    | some m =>
      match s.siteCluster site with
      | none => s.fin site c
      | some lc =>
        if !m.has lc then s.fin site c
        else
          let a := s.arrived b lc
          if s.releasedAt (siteRegion site) b + 2 ≤ a then .next (s.stallCore site (.barArrive b a)) else k a (s.sendArrival m site b lc)

/-- BAR arrives and stalls until the phase releases. -/
def execBar (c : SiteNo) (b : BitVec 5) (s : State) : Res :=
  barArrive c b.toNat s fun a s' => .next (s'.stallCore c (.barRelease b.toNat a))

def execBara (c : SiteNo) (b : BitVec 5) (s : State) : Res := barArrive c b.toNat s fun _ s' => s'.fin c (s'.cl c)

/-- BARW stalls until the phase this cluster last arrived at releases; one that has never arrived goes on (R192). -/
def execBarw (c : SiteNo) (b : BitVec 5) (s : State) : Res :=
  s.core c fun k =>
    match s.barSet b.toNat with
    | none => undef .u2
    | some _ =>
      let a := ((s.siteCluster c).map (s.arrived b.toNat)).getD 0
      if a = 0 ∨ a ≤ s.releasedAt (siteRegion c) b.toNat then s.fin c k else .next (s.stallCore c (.barRelease b.toNat (a - 1)))

/-- Every member of a set of clusters. -/
def State.members (s : State) (m : CSet) : List Nat := (List.range s.nClusters).filter m.has

/-- A phase releases when the root has an arrival of every member for it; the members that the release reaches go on. -/
def execBarrierRelease (b : BitVec 5) (s : State) : Res :=
  match s.barSet b.toNat with
  | none => .next s
  | some m =>
    let n := s.released b.toNat
    let lost := Tab.get 0 s.sync.barLost b.toNat
    if (decide (lost = 0) || decide (n + 1 < lost)) && (s.members m).all fun lc => decide (n < s.arrived b.toNat lc) then
      let s := s.broadcast (s.hubSite m.root)
      let s := { s with sync := { s.sync with barPhase := Tab.set 0 s.sync.barPhase b.toNat (n + 1) } }
      let s := s.unstall (fun i w => decide (w = .barRelease b.toNat n) && !s.isCut (siteRegion i)) true
      .next (s.unstall
        (fun i w => (match w with | .barArrive b' a => b' == b.toNat && decide (a < n + 3) | _ => false) && !s.isCut (siteRegion i)) false)
    else .next s

-- Event flags (R193)

/-- The home of the flags: the hub of the logical region at lx = 8, ly = L div 2. -/
def State.flagHome (s : State) : Option Nat := s.hubSite (s.rowsL / 2 * 16 + 8)

/-- Apply a flag value at its home, which broadcasts it to the copies; the cores that wait for it go on. -/
def State.setFlag (s : State) (f : Nat) (v : Bool) : State :=
  let m := (1 : DWord) <<< f
  let s := s.broadcast s.flagHome
  let s := { s with sync := { s.sync with flags := if v then s.sync.flags ||| m else s.sync.flags &&& ~~~m } }
  s.unstall (fun i w => decide (w = .efwait f v) && !s.isCut (siteRegion i)) true

/-- A flag value travels from a site to the home; an unpowered router on the way loses it (R178, R179). -/
def State.sendFlag (s : State) (site f : Nat) (v : Bool) : State := if s.path 2 site [s.flagHome] then s.setFlag f v else s

def execEfset (c : SiteNo) (f : BitVec 6) (s : State) : Res :=
  s.core c fun _ => let s' := s.sendFlag c f.toNat true; s'.fin c (s'.cl c)

def execEfclr (c : SiteNo) (f : BitVec 6) (s : State) : Res :=
  s.core c fun _ => let s' := s.sendFlag c f.toNat false; s'.fin c (s'.cl c)

def execEfwait (c : SiteNo) (f : BitVec 6) (v : Bool) (s : State) : Res :=
  s.core c fun k =>
    if (s.syncAt (siteRegion c)).flags.getLsbD f.toNat = v then s.fin c k else .next (s.stallCore c (.efwait f.toNat v))

-- Region time (R117, R196, R432)

/-- A region's local count: within ±2 counts of the time counter at every moment (R432), and it never falls below what it
has shown. -/
def State.regionTime (s : State) (r : Nat) : DWord :=
  let g := s.rg r
  BitVec.ofInt 64 (max (g.timeFloor.toNat : Int) (s.now.toNat + g.timeAdj.toInt))

/-- TIME reads the region's counter and latches its high half, or returns the latched half. -/
def execTime (c : SiteNo) (sb : BitVec 4) (hi : Bool) (s : State) : Res :=
  s.core c fun k =>
    if hi then s.fin c (k.setS sb k.timeHi)
    else
      let t := s.regionTime (siteRegion c)
      s.fin c (({ k with timeHi := (t >>> 32).setWidth 32 }).setS sb (t.setWidth 32))

/-- A beacon every 1,024 counts: each region takes the counter, with the error of its path delay free within ±2
counts, and holds its count until the beacon reaches it when it is ahead (R196, R432). -/
def execTimeBeacon (s : State) : Res :=
  let s := (List.range 192).foldl
    (fun s r =>
      if !(s.rg r).ctlUp then s
      else
        let e : DWord := BitVec.ofNat 64 (Config.beaconSkew s.freeCtr % 5) - 2
        let old := s.regionTime r
        (s.updRg r fun g => { g with timeAdj := e, timeFloor := old }).useFree)
    s
  .next (s.emit (.beacon s.clk.counter))

-- Reduction trees (R185 to R190)

structure Tree where
  m : CSet
  dest : Nat
  addr : Nat
  wide : Bool
  addDest : Bool
  raw : Bool
  flagEn : Bool
  flag : Nat
  fexp : Nat
  deriving DecidableEq, Repr

/-- An entry of the tree table; one that breaks the conditions of R185 is U2. The low eight bits of DSTADDR have no effect
(DESIGN CHOICE, see the assumption log). -/
def State.tree (s : State) (t : Nat) : Option Tree :=
  let d := entBytes (Tab.get 0 s.sync.treeTab t)
  let x : Tree :=
    { m := cset d, dest := leAt d 10 2 % 2 ^ 14, addr := leAt d 12 4 % 2 ^ 22 / 256 * 256
      wide := leAt d 16 1 % 2 == 1, addDest := leAt d 16 1 / 2 % 2 == 1, raw := leAt d 16 1 / 4 % 2 == 1
      flagEn := leAt d 16 1 / 8 % 2 == 1, flag := leAt d 17 1 % 64, fexp := leAt d 18 2 % 512 }
  if x.m.ok s.rowsL && decide (x.dest < s.nClusters) then some x else none

def Tree.width (t : Tree) : Nat := if t.wide then 256 else 64

/-- Element-wise sum; a shorter vector adds to the first elements (R187). -/
def addVec : List DWord → List DWord → List DWord
  | a :: as, b :: bs => (a + b) :: addVec as bs
  | [], bs => bs
  | as, [] => as

def State.putMsg (s : State) (m : TreeMsg) : State := { s with sync := { s.sync with msgs := s.sync.msgs ++ [m] } }

/-- Where a node of a tree stands: the hub of a region, the hub of a row at DEST's column clamped into the rectangle, and the root
at DEST (R186). -/
def State.nodeSite (s : State) (x : Tree) (level node : Nat) : Option Nat :=
  match level with
  | 1 => s.hubSite node
  | 2 => s.hubSite (node * 16 + max x.m.lx0 (min x.m.lx1 (x.dest / 64 % 16)))
  | _ => s.clusterSite x.dest

/-- The region that a sum waits in: that of the node it goes to (R189). -/
def State.msgRegion (s : State) (m : TreeMsg) : Option Nat :=
  (s.tree m.tree).bind fun x => (s.nodeSite x m.level m.node).map siteRegion

/-- No flit of job or cairn traffic is held in a router of the region (R201): no uncorrectable one, and no sum in a reduction
slot. -/
def State.quiet (s : State) (r : Nat) : Bool :=
  let g := s.rg r
  g.bulkUp && g.ctlUp && !g.heldBulk && !g.heldCtl && s.sync.msgs.all fun m => !decide (s.msgRegion m = some r)

/-- A sum goes to a node of its tree; an unpowered router on the way loses it (R178, R179). -/
def State.sendSum (s : State) (x : Tree) (src : Option Nat) (m : TreeMsg) : State :=
  if src.elim true fun a => s.path 0 a [s.nodeSite x m.level m.node] then s.putMsg m else s

/-- Send a contribution of a cluster into a tree, or stall while it belongs to an instance two ahead (R187, R188);
`k` ends the instruction. The contribution of a cluster that is no member counts in RGN_NETDISC of the cluster's own region, and
the elements past WIDTH count nowhere (DESIGN CHOICES, see the assumption log). -/
def contribute (site : SiteNo) (t : Nat) (vals : List Int) (k : State → Res) (s : State) : Res :=
  match s.tree t with
  | none => undef .u2
  | some x =>
    let lc := (s.siteCluster site).getD 16383
    if !x.m.has lc then k (s.count (Reg.RGN_NETDISC (siteRegion site)) 0 32 (vals.length / 8))
    else
      let n := Tab.get 0 s.sync.contrib (arrKey t lc)
      if Tab.get 0 (s.syncAt (siteRegion site)).treeInst t + 2 ≤ n then .next (s.stallCore site (.tree t))
      else
        let s := { s with sync := { s.sync with contrib := Tab.set 0 s.sync.contrib (arrKey t lc) (n + 1) } }
        k (s.sendSum x (some site) ⟨t, n, 1, lc / 64, lc % 64, (vals.take x.width).map (BitVec.ofInt 64)⟩)

/-- ACCNR: 256 column values, then the readout as of ACCRD (R100, R114). -/
def execAccnr (c : SiteNo) (e : BitVec 6) (t : BitVec 8) (clr sig : Bool) (s : State) : Res :=
  s.core c fun k =>
    contribute c t.toNat ((k.entry e.toNat).map (·.toInt))
      (fun s' => s'.fin c (((s'.cl c).readout e.toNat clr sig).record (.accnr c e t clr sig) [] [])) s

/-- VNR: 64 values of a register pair; a pair never begins at v31 (R103, R104). -/
def execVnr (c : SiteNo) (va : BitVec 5) (t : BitVec 8) (s : State) : Res :=
  s.core c fun k =>
    if va = 31 then s.stop c
    else contribute c t.toNat (k.pair va) (fun s' => s'.fin c ((s'.cl c).record (.vnr c va t) [] [])) s

/-- Level and number of a node, and how many inputs it has. -/
def Tree.node (x : Tree) : TreeNode → Nat × Nat × Nat
  | .hub l => (1, l.toNat, ones 64 (BitVec.ofNat 64 x.m.mask))
  | .row ly => (2, ly.toNat, x.m.lx1 + 1 - x.m.lx0)

def State.nodeMsgs (s : State) (t level node inst : Nat) : List TreeMsg :=
  s.sync.msgs.filter fun m => m.tree == t && m.level == level && m.node == node && m.inst == inst

/-- A node forwards its sum once every one of its inputs has arrived, the lowest instance first (R186). -/
def execTreeNodeForward (t : BitVec 8) (n : TreeNode) (s : State) : Res :=
  match s.tree t.toNat with
  | none => .next s
  | some x =>
    let (level, node, inputs) := x.node n
    let i0 := Tab.get 0 s.sync.treeInst t.toNat
    match [i0, i0 + 1].find? fun i => (s.nodeMsgs t.toNat level node i).length == inputs with
    | none => .next s
    | some i =>
      let ms := s.nodeMsgs t.toNat level node i
      let sum := ms.foldl (fun a m => addVec a m.vals) []
      let s := { s with sync := { s.sync with msgs := s.sync.msgs.filter fun m => !ms.contains m } }
      .next (s.sendSum x (s.nodeSite x level node)
        (if level = 1 then ⟨t.toNat, i, 2, node / 16, node % 16, sum⟩ else ⟨t.toNat, i, 3, 0, node, sum⟩))

/-- Elements of a destination area in the layout of RAW (R186, R190). -/
def decodeDest (raw : Bool) (n : Nat) (d : List Byte) : List Int :=
  (List.range n).map fun i =>
    if raw then sext 48 (leAt d (8 * i) 6)
    else
      let g := i / 64 * 512
      sext 48 (leAt d (g + 4 * (i % 64)) 4 + leAt d (g + 256 + 4 * (i % 64)) 2 * 2 ^ 32)

/-- The element area of a result (R190). -/
def encodeDest (raw : Bool) (l : List Int) : List Byte :=
  if raw then l.flatMap fun v => toLe 8 (BitVec.ofInt 64 v).toNat
  else
    (chunks' (l.length / 64) l).flatMap fun g =>
      g.flatMap (fun v => toLe 4 (BitVec.ofInt 32 v).toNat) ++ g.flatMap fun v => toLe 4 (BitVec.ofInt 32 (v / 2 ^ 32)).toNat
where
  chunks' : Nat → List Int → List (List Int)
    | 0, _ => []
    | n + 1, l => l.take 64 :: chunks' n (l.drop 64)

def clamp48 (v : Int) : Int := clampInt (-2 ^ 47) (2 ^ 47 - 1) v

/-- The root adds the destination in ADDDEST mode, clamps once, writes the result with its trailer, then broadcasts
completion and sets the flag (R69, R186, R190). -/
def State.completeTree (s : State) (t : Nat) (x : Tree) (site inst : Nat) (sum : List DWord) : Flow :=
  let w := x.width
  let area := 8 * w
  let sum := sum ++ List.replicate (w - sum.length) 0
  let done (s : State) (old : List Int) (prevSat : Bool) : Flow :=
    let exact := List.zipWith (fun (a : DWord) b => a.toInt + b) sum old
    let res := exact.map clamp48
    let sat := (List.zipWith (fun a b => b2n (decide (a ≠ b))) exact res).sum
    let trailer := toLe 2 x.fexp ++ [if sat ≠ 0 ∨ prevSat then 1 else 0, 0] ++ toLe 4 inst ++ toLe 4 sat ++ List.replicate 52 0
    (s.larStore site x.addr (encodeDest x.raw res ++ trailer)).bind' fun s =>
      let s := (s.updRg (siteRegion site) fun g => { g with netSat := sat32 g.netSat sat }).broadcast (some site)
      let s := { s with sync := { s.sync with
        treeInst := Tab.set 0 s.sync.treeInst t (inst + 1)
        msgs := s.sync.msgs.filter fun m => !(m.tree == t && m.inst == inst) } }
      let s := s.unstall (fun i k => decide (k = .tree t) && !s.isCut (siteRegion i)) false
      .ok (if x.flagEn then s.sendFlag site x.flag true else s)
  if x.addDest then
    if larSpan < x.addr + area + 64 then .error (.undef .u1)
    else
      match s.larRead site x.addr (area + 64) with
      | (s', some d) => done s' (decodeDest x.raw w d) (leAt d (area + 2) 1 % 2 == 1)
      | (s', none) => .error (.held s')
  else done s (List.replicate w 0) false

def execTreeInstanceComplete (t : BitVec 8) (s : State) : Res :=
  match s.tree t.toNat with
  | none => .next s
  | some x =>
    let i := Tab.get 0 s.sync.treeInst t.toNat
    let ms := s.nodeMsgs t.toNat 3 0 i
    match s.clusterSite x.dest with
    | none => .next s
    | some site =>
      if ms.length = x.m.ly1 + 1 - x.m.ly0 then
        (s.completeTree t.toNat x site i (ms.foldl (fun a m => addVec a m.vals) [])).res
      else .next s

end Sys2Proof.Machine
end

