-- ==== Sys2Proof/Machine/Engine.lean ====
section
/-! DEFINITION. The engines and ports of a cluster: fetch-ahead, handles, control registers, work tiles, FENCE and
program faults (R109, R115, R116, R120, R131 to R135, R163 to R167, R377 to R381). -/

namespace Sys2Proof.Machine

-- The load list (R164)

/-- The list still has an entry to write. -/
def State.moreEntries (s : State) (site : Nat) : Bool :=
  let fa := (s.cl site).fa
  fa.running && (fa.cur.isSome || fa.held)

/-- PITCH of an entry further down the list, as the larder holds it: what the deadlock detection of R166 knows of the list
without an access of the engine. -/
def State.listPitch (s : State) (site i : Nat) : Nat :=
  ofLe (Tab.getList 0 s.larder (site * larSpan + (s.cl site).fa.listAddr + 64 + 32 * i) 2)

/-- PITCH of the last entry of the list from entry i on, p being the entry before. -/
def State.lastPitch (s : State) (site : Nat) : Nat → Nat → Nat → Nat
  | 0, _, p => p
  | n + 1, i, p =>
    let q := s.listPitch site i
    if q < p ∨ (s.cl site).fa.pitches ≤ q then p else s.lastPitch site n (i + 1) q

-- Filling a pitch (R165)

/-- One entry: a range of a slice into the engine's own larder. -/
def State.fillEntry (s : State) (site : Nat) (e : List Byte) : Flow :=
  let fa := (s.cl site).fa
  let len := leAt e 4 3 / 64 * 64
  let dst := if leAt e 2 1 % 2 = 1 then fa.sets.getD (leAt e 0 2 % fa.credits) 0 else leAt e 3 1 % 64
  let v := Tab.get 0 fa.handles dst
  let off := leAt e 20 4 % 2 ^ 22 / 64 * 64
  let reg := if leAt e 16 2 = 0xFFFF then some (siteRegion site) else s.physRegion (leAt e 16 2)
  if len = 0 then .ok s
  else
    match reg with
    | none => .error (.undef .u2)
    | some r =>
      if !hValid v then .error (.undef .u4)
      else if hLen v < off + len then .error (.undef .u1)
      else s.planRead r (leAt e 8 8 % 2 ^ 35 / 64 * 64) len fun s d => s.larStore site (hAddr v + off) d

/-- A fill that met an uncorrectable word is held, and the engine with it (R167). -/
def Flow.holdFill (f : Flow) (site : Nat) : Flow := match f with
  | .error (.held s) => .error (.held (s.updFa site fun fa => { fa with held := true }))
  | f => f

/-- Write the entries of pitch q in list order. -/
def State.fillPitch (site : Nat) (q : Nat) : Nat → State → Flow
  | 0, s => .ok s
  | n + 1, s =>
    match (s.cl site).fa.cur with
    | none => .ok s
    | some e =>
      if leAt e 0 2 ≠ q then .ok s
      else
        ((s.fillEntry site e).holdFill site).bind' fun s =>
          ((s.updFa site fun fa => { fa with next := fa.next + 1 }).takeEntry site q).bind' fun s => State.fillPitch site q n s

/-- The next pitch is filled when the engine holds its set's credit; FAWAIT of it no longer stalls. -/
def execPitchFilled (c : SiteNo) (s : State) : Res :=
  let fa := (s.cl c).fa
  if !fa.running || fa.held || !s.clocked (siteRegion c) || decide (fa.pitches ≤ fa.filled)
      || decide (fa.credits ≤ fa.filled - fa.freed) then .next s
  else
    Flow.res ((State.fillPitch c fa.filled (fa.entries - fa.next) s).bind' fun s =>
      if (s.cl c).fa.held then .ok s
      else
        let s := s.updFa c fun fa => { fa with filled := fa.filled + 1 }
        let s := s.unstall (fun i w => i == c.val && decide (w = .fawait fa.filled)) true
        .ok (if s.moreEntries c then s else s.unstall (fun i w => i == c.val && decide (w = .fastart)) false))

-- Fetch-ahead instructions (R115, R163 to R166)

/-- FASTART waits for the entries of the current list, then starts on the list in handle h with its credits reset. The
list is read from the engine's own larder (DEDUCED, see the assumption log). -/
def execFastart (c : SiteNo) (h : BitVec 6) (s : State) : Res :=
  s.core c fun k =>
    if s.moreEntries c then .next (s.stallCore c .fastart)
    else
      let v := Tab.get 0 k.handles h.toNat
      if !hValid v then undef .u4
      else match s.startEngine c (hAddr v) (hLen v) with
        | .ok t => t.fin c (t.cl c)
        | .error (.held t) => t.fin c (t.cl c)
        | .error (.undef u) => undef u

def execFawait (c : SiteNo) (sa : BitVec 4) (s : State) : Res :=
  s.core c fun k =>
    let q := (k.s sa).toNat
    if q < k.fa.filled then s.fin c k else .next (s.stallCore c (.fawait q))

/-- The oldest filled pitch is freed; without one FAFREE has no effect. -/
def execFafree (c : SiteNo) (s : State) : Res :=
  s.core c fun k =>
    s.fin c (if k.fa.freed < k.fa.filled then { k with fa := { k.fa with freed := k.fa.freed + 1 } } else k)

/-- The deadlocks of R166, reported once. -/
def execLoadListFault (c : SiteNo) (s : State) : Res :=
  let k := s.cl c
  let stuck : Bool :=
    match k.stall with
    | some (.fawait q) => !k.fa.running || decide (k.fa.pitches ≤ q) || decide (k.fa.freed + k.fa.credits ≤ q)
    | some .fastart =>
      k.fa.cur.isSome
        && decide (k.fa.freed + k.fa.credits ≤ s.lastPitch c (k.fa.entries - k.fa.next) k.fa.next k.fa.filled)
    | _ => false
  if stuck && decide (k.run = .running) && !s.resil.intake.contains (.loadList c) then .next (s.report (.loadList c))
  else .next s

-- Handles (R116, R131 to R133)

def Cluster.setHandle (k : Cluster) (h : BitVec 6) (v : DWord) : Cluster := { k with handles := Tab.set 0 k.handles h.toNat v }

def State.ownNumber (s : State) (site : Nat) : Nat := (s.siteCluster site).getD 0

/-- HSET makes the entry LOCAL; a buffer that passes the end of the larder is U1 (R132). A length of 0, which R116 does not
give, makes a valid empty entry (DESIGN CHOICE, see the assumption log). -/
def execHset (c : SiteNo) (h : BitVec 6) (sa sb : BitVec 4) (s : State) : Res :=
  s.core c fun k =>
    let a := (k.s sa).toNat % 2 ^ 22
    let n := (k.s sb).toNat % 2 ^ 23
    if larSpan < a + n then undef .u1
    else s.fin c (k.setHandle h (mkHandle a n (s.ownNumber c) false))

/-- HOWN of a released entry is U4, of a cluster outside the grid U2. -/
def execHown (c : SiteNo) (h : BitVec 6) (sa : BitVec 4) (s : State) : Res :=
  s.core c fun k =>
    let v := Tab.get 0 k.handles h.toNat
    let n := (k.s sa).toNat % 2 ^ 14
    if !hValid v then undef .u4
    else if s.nClusters ≤ n then undef .u2
    else s.fin c (k.setHandle h (mkHandle (hAddr v) (hLen v) n (n != s.ownNumber c)))

def execHrel (c : SiteNo) (h : BitVec 6) (s : State) : Res := s.core c fun k => s.fin c (k.setHandle h 0)

/-- HGET of a released entry writes 0 for every field (R132). -/
def execHget (c : SiteNo) (h : BitVec 6) (sb : BitVec 4) (sel : BitVec 2) (s : State) : Res :=
  s.core c fun k =>
    let v := Tab.get 0 k.handles h.toNat
    let x := if !hValid v then 0 else match sel.toNat with
      | 0 => hAddr v
      | 1 => hLen v
      | 2 => hHome v
      | _ => hClass v
    s.fin c (k.setS sb (BitVec.ofNat 32 x))

-- Control registers (R120)

/-- CYCLO: the cycles issued, and those lost to stalls and latencies, which are free (R107). -/
def State.cycles (s : State) (k : Cluster) : DWord := k.cyc + BitVec.ofNat 64 (Config.stallCycles s.freeCtr)

def State.csrRead (s : State) (site : Nat) (k : Cluster) (csr : Nat) : Word :=
  match csr with
  | 0x000 => BitVec.ofNat 32 (s.ownNumber site)
  | 0x001 => k.pitch
  | 0x003 => k.cycHi
  | 0x010 => k.accexp.setWidth 32
  | 0x011 => BitVec.ofNat 32 (b2n k.a1sign + 2 * b2n k.check + 4 * b2n k.poison)
  | 0x012 => k.a1scale.setWidth 32
  | 0x020 => k.sig.setWidth 32
  | 0x021 => (k.sig >>> 32).setWidth 32
  | 0x030 => k.accSatCnt
  | 0x031 => k.shiftUfl
  | 0x032 => k.outliers
  | 0x033 => k.outlierOvf
  | 0x034 => k.scaleNan
  | 0x035 => k.vecSpecial
  | 0x040 => k.qstat.setWidth 32
  | 0x041 => BitVec.ofNat 32 (b2n (s.moreEntries site) + 2 * ((k.fa.filled - k.fa.freed) % 8))
  | 0x042 => BitVec.ofNat 32 (b2n k.copyBusy.isSome)
  | _ => 0

/-- An unlisted register reads 0. A read of CYCLO latches CYCHI. -/
def execCsrr (c : SiteNo) (rd : BitVec 4) (csr : BitVec 12) (s : State) : Res :=
  s.core c fun k =>
    if csr = 0x002 then
      let v := s.cycles k
      s.useFree.fin c (({ k with cyc := v, cycHi := (v >>> 32).setWidth 32 }).setS rd (v.setWidth 32))
    else s.fin c (k.setS rd (s.csrRead c k csr.toNat))

-- Work tiles and their checkers (R377 to R381)

def State.goodSite (s : State) (site : Nat) : Bool := !s.badSite site

/-- A region that serves as a reserve: usable, outside the logical grid, and not excluded (R380, R392). -/
def State.isReserve (s : State) (r : Nat) : Bool :=
  s.dev.grid && (s.logRegion r).isNone && s.rstate r != stRetired && !s.isRetired r

/-- Good sites of reserves outside a slab, in ascending number. -/
def State.eligible (s : State) (slab : Nat) : List Nat :=
  ((List.range 192).filter fun r => s.isReserve r && slabOf r != slab).flatMap fun r => (allSites r).filter s.goodSite

def siteSlab (site : Nat) : Nat := slabOf (siteRegion site)

/-- The checker of a tile of logical cluster lc at a site (R380). -/
def State.checkerOf (s : State) (site lc : Nat) (h : DWord) : Option Nat :=
  match s.eligible (siteSlab site) with
  | [] => s.clusterSite ((lc + s.nClusters / 2) % s.nClusters)
  | l => l[(h >>> 32).toNat % l.length]?

/-- The third: the first candidate after a cluster whose slab differs from the primary's and the checker's. -/
def State.thirdOf (s : State) (site checker after : Nat) : Option Nat :=
  let l := s.eligible (siteSlab site)
  let ok (x : Nat) : Bool := siteSlab x != siteSlab site && siteSlab x != siteSlab checker
  if l.isEmpty then
    let n := (s.siteCluster after).getD 0
    ((List.range (s.nClusters - 1)).filterMap fun i => s.clusterSite ((n + 1 + i) % s.nClusters)).find? ok
  else ((l.filter fun x => after < x) ++ l.filter fun x => x < after).find? ok

/-- Operand bytes of a stream, its only part whose length the manual fixes (R381). -/
def TileRec.size (t : TileRec) : Nat := (t.items.map fun x => x.bytes.length).sum

/-- The end of a work tile: a sampled tile goes to its checker, and the next tile starts. A checker that holds three
streams stalls the primary, and a stream past 1 MiB passes the end of its buffer (R381, R494; DEDUCED, see the assumption log). -/
def State.tileEnd (s : State) (site : Nat) (k : Cluster) (fin : State → Cluster → Res) : Res :=
  if k.tiles ≤ k.tile then fin s k
  else
    let lc := s.ownNumber site
    let seed := ((s.jobs.step).map (·.seed.toNat)).getD 0
    let next := k.startTile (k.tile + 1) (decide (k.tile + 1 < k.tiles) && s.tileSampled seed k.pitch.toNat lc (k.tile + 1))
    let go (s : State) : Res :=
      let t := (s.setCl site next).openTile site
      fin t (t.cl site)
    if !k.tileRec.sampled then go s
    else
      match s.checkerOf site lc (belayHash seed k.pitch.toNat lc k.tile) with
      | none => go s
      | some ch =>
        if 3 ≤ (s.resil.checks.countP fun x => x.checker == ch) then .next (s.stallCore site .checkerFull)
        else if 2 ^ 20 < k.tileRec.size then undef .u1
        else
          let x : Check :=
            { slot := s.resil.nextCheck, primary := site, lc := lc, pitch := k.pitch.toNat, tile := k.tile, sig := k.sig
              rec_ := k.tileRec, checker := ch, third := none, sigC := none }
          go { s with resil := { s.resil with checks := s.resil.checks ++ [x], nextCheck := s.resil.nextCheck + 1 } }

/-- A write to an unlisted or read-only register is ignored; a write to SIGHI ends a tile (R377). -/
def execCsrw (c : SiteNo) (csr : BitVec 12) (ra : BitVec 4) (s : State) : Res :=
  s.core c fun k =>
    let v := k.s ra
    match csr.toNat with
    | 0x010 => s.fin c { k with accexp := v.setWidth 9 }
    | 0x011 => s.fin c { k with a1sign := v.getLsbD 0, poison := k.poison && !v.getLsbD 2 }
    | 0x012 => s.fin c { k with a1scale := v.setWidth 8 }
    | 0x020 => s.fin c { k with sig := (k.sig >>> 32 <<< 32) ||| v.setWidth 64 }
    | 0x021 =>
      s.tileEnd c k fun s k => s.fin c { k with sig := (k.sig &&& 0xFFFFFFFF) ||| (v.setWidth 64 <<< 32) }
    | _ => s.fin c k

-- FAULT, FENCE and undefined instructions

/-- FAULT is a program fault with its immediate in the report (R109). -/
def execFault (c : SiteNo) (imm : BitVec 16) (s : State) : Res := s.core c fun _ => .next (s.progFault c imm)

/-- Every instruction completes whole but a COPY, so FENCE waits for the copy engine (R120, R245). It does not wait for the fills
of a load list, which FAWAIT awaits (DESIGN CHOICE, see the assumption log). -/
def execFence (c : SiteNo) (s : State) : Res :=
  s.core c fun k => if k.copyBusy = some .program then .next (s.stallCore c .fence) else s.fin c k

/-- A word that encodes an instruction: its class defines the operation code (R111 to R120, R104). -/
def definedOp (w : Word) : Bool := (decodeKlonal 0 w).isSome

/-- A class of 0xE or 0xF, or an operation code that its class does not define, is a program fault (R109). -/
def execUndefinedInstruction (c : SiteNo) (w : Word) (s : State) : Res :=
  s.core c fun _ => if definedOp w then .next s else .next (s.progFault c 0)

end Sys2Proof.Machine
end

