-- ==== Sys2Proof/Machine/Copy.lean ====
section
/-! DEFINITION. The copy engine: tensor views, the elements a COPY moves, and its effect on memory (R226 to R249). -/

namespace Sys2Proof.Machine

-- Memory units (R228)

/-- A memory unit: the larder of a site or the slice of a physical region. -/
structure MUnit where
  lar : Bool
  num : Nat
  deriving DecidableEq, Repr

def MUnit.span (u : MUnit) : Nat := if u.lar then larSpan else celSpan

/-- The unit that a LOC names; 0xFFFF is the executing cluster or its own region (R228). A number in the grade's grid whose column is
lost names none, as one outside it (DESIGN CHOICE, see the assumption log). -/
def State.locUnit (s : State) (own : Nat) (loc : Nat) : Option MUnit :=
  let n := loc / 2 ^ 40 % 2 ^ 16
  if loc / 2 ^ 56 % 4 = 1 then
    if n = 0xFFFF then some ⟨true, own⟩ else (s.clusterSite n).map (⟨true, ·⟩)
  else if n = 0xFFFF then some ⟨false, siteRegion own⟩
  else (s.physRegion n).map (⟨false, ·⟩)

def State.unitRead (s : State) (u : MUnit) (a n : Nat) : State × Option (List Byte) :=
  if u.lar then s.larRead u.num a n else s.celRead u.num a n

def State.unitWrite (s : State) (u : MUnit) (a : Nat) (d : List Byte) : State × Bool :=
  if u.lar then s.larWrite u.num a d else s.celWrite u.num a d

/-- Bytes of a unit as they were written. -/
def State.unitPeek (s : State) (u : MUnit) (a n : Nat) : List Byte :=
  if u.lar then Tab.getList 0 s.larder (u.num * larSpan + a) n else Tab.getList 0 s.cellar (u.num * celSpan + a) n

-- Views (R228 to R230)

/-- A tensor view: its LOC, sizes and strides. -/
structure TView where
  loc : Nat
  d0 : Nat
  d1 : Nat
  d2 : Nat
  d3 : Nat
  t1 : Nat
  t2 : Nat
  t3 : Nat
  deriving DecidableEq, Repr

def tview (b : List Byte) : TView :=
  ⟨leAt b 0 8, leAt b 8 3, leAt b 11 3, leAt b 14 3, leAt b 17 3, leAt b 20 4, leAt b 24 4, leAt b 28 4⟩

abbrev Ix := Nat × Nat × Nat × Nat

def TView.size (v : TView) : Ix := (v.d0, v.d1, v.d2, v.d3)
def ixCount (d : Ix) : Nat := d.1 * d.2.1 * d.2.2.1 * d.2.2.2
def ixSwap (i : Ix) : Ix := (i.2.1, i.1, i.2.2)

/-- Component g of an index. -/
def ixGet (i : Ix) : Nat → Nat
  | 0 => i.1
  | 1 => i.2.1
  | 2 => i.2.2.1
  | _ => i.2.2.2

def ixSet (i : Ix) (g v : Nat) : Ix :=
  match g with
  | 0 => (v, i.2)
  | 1 => (i.1, v, i.2.2)
  | 2 => (i.1, i.2.1, v, i.2.2.2)
  | _ => (i.1, i.2.1, i.2.2.1, v)

/-- The indices of sizes d in ascending linear order, d0 fastest (R234). -/
def ixAll (d : Ix) : List Ix :=
  (List.range (ixCount d)).map fun n =>
    (n % d.1, n / d.1 % d.2.1, n / (d.1 * d.2.1) % d.2.2.1, n / (d.1 * d.2.1 * d.2.2.1))

/-- First nibble of an element of e nibbles within its unit (R229). -/
def TView.nib (v : TView) (e : Nat) (i : Ix) : Nat :=
  2 * (v.loc % 2 ^ 35) + (if e = 1 then v.loc / 2 ^ 35 % 2 else 0) + e * (i.1 + i.2.1 * v.t1 + i.2.2.1 * v.t2 + i.2.2.2 * v.t3)

/-- Every element lies inside the unit (R230). -/
def TView.inside (v : TView) (e : Nat) (u : MUnit) : Bool :=
  ixCount v.size == 0 || decide (v.nib e (v.d0 - 1, v.d1 - 1, v.d2 - 1, v.d3 - 1) + e ≤ 2 * u.span)

-- Elements to and from memory

/-- The bytes that the element at nibble n occupies. -/
def elemBytes (e n : Nat) : List Nat := (List.range ((n + e - 1) / 2 + 1 - n / 2)).map (n / 2 + ·)

/-- The 64-byte unit that the engine read last, with its bytes (R239). -/
abbrev LastRead := Option (Nat × List Byte)

/-- Read bytes in order; successive bytes of one 64-byte unit are served from one read (R239). -/
def fetchBytes (u : MUnit) : State → LastRead → List Nat → Except Stop (State × LastRead × List Byte)
  | s, last, [] => .ok (s, last, [])
  | s, last, a :: as =>
    let go (s : State) (d : List Byte) : Except Stop (State × LastRead × List Byte) :=
      (fetchBytes u s (some (a / 64, d)) as).map fun r => (r.1, r.2.1, byteAt d (a % 64) :: r.2.2)
    match last.filter fun c => c.1 == a / 64 with
    | some c => go s c.2
    | none =>
      match s.unitRead u (a / 64 * 64) 64 with
      | (s', some d) => go s' d
      | (s', none) => .error (.held s')

/-- Values of elements from the bytes read for them. -/
def elemValues (e : Nat) : List Nat → List Byte → List Nat
  | [], _ => []
  | n :: ns, d =>
    let k := (elemBytes e n).length
    (if e = 1 then (byteAt d 0).toNat / (if n % 2 = 1 then 16 else 1) % 16 else ofLe (d.take k)) :: elemValues e ns (d.drop k)

def State.readElems (s : State) (u : MUnit) (e : Nat) (ns : List Nat) (k : State → List Nat → Flow) : Flow :=
  match fetchBytes u s none (ns.flatMap (elemBytes e)) with
  | .ok (s', _, d) => k s' (elemValues e ns d)
  | .error x => .error x

/-- The nibbles of a value, low nibble first (R58, R229). -/
def nibbles : Nat → Nat → List Nat
  | 0, _ => []
  | n + 1, v => v % 16 :: nibbles n (v / 16)

/-- Adjoining writes within one 64-byte unit join into one run of nibbles. -/
def writeRuns (e : Nat) : Option (Nat × List Nat) → List (Nat × Nat) → List (Nat × List Nat)
  | none, [] => []
  | some r, [] => [r]
  | none, (n, v) :: ws => writeRuns e (some (n, nibbles e v)) ws
  | some r, (n, v) :: ws =>
    if n = r.1 + r.2.length ∧ n / 128 = r.1 / 128 then writeRuns e (some (r.1, r.2 ++ nibbles e v)) ws
    else r :: writeRuns e (some (n, nibbles e v)) ws

def packNibbles : List Nat → List Byte
  | a :: b :: l => BitVec.ofNat 8 (a + 16 * b) :: packNibbles l
  | [a] => [BitVec.ofNat 8 a]
  | [] => []

/-- Write one run; a byte written in part keeps its other nibble. -/
def State.writeRun (s : State) (u : MUnit) (r : Nat × List Nat) : Flow :=
  let first := r.1 / 2
  let last := (r.1 + r.2.length - 1) / 2
  let edge (s : State) (need : Bool) (a : Nat) (k : State → Nat → Flow) : Flow :=
    if !need then k s 0
    else
      match s.unitRead u a 1 with
      | (s', some d) => k s' (byteAt d 0).toNat
      | (s', none) => .error (.held s')
  edge s (r.1 % 2 == 1) first fun s lo =>
    edge s ((r.1 + r.2.length) % 2 == 1) last fun s hi =>
      let l := (if r.1 % 2 = 1 then [lo % 16] else []) ++ r.2 ++ (if (r.1 + r.2.length) % 2 = 1 then [hi / 16] else [])
      match s.unitWrite u first (packNibbles l) with
      | (s', true) => .ok s'
      | (s', false) => .error (.held s')

def State.writeElems (s : State) (u : MUnit) (e : Nat) (ws : List (Nat × Nat)) : Flow :=
  foldFlow (fun s r => s.writeRun u r) s (writeRuns e none ws)

-- The descriptor (R231, R232)

structure CopyD where
  mode : Nat
  trans : Bool
  paden : Bool
  g : Nat
  /-- Element width in nibbles. -/
  e : Nat
  pad : Nat
  block : Nat
  idx : TView
  deriving DecidableEq, Repr

def copyD (d : List Byte) : CopyD :=
  let op := leAt d 8 1
  let e := 2 ^ min 4 (leAt d 9 1 % 8)
  { mode := op % 4, trans := op / 4 % 2 == 1, paden := op / 8 % 2 == 1, g := op / 16 % 4, e := e
    pad := leAt d 16 8 % 16 ^ e, block := leAt d 24 8, idx := tview (d.drop 32) }

/-- The view block: source, destination and offsets of the body. -/
structure CopyV where
  src : TView
  dst : TView
  ofs : Ix
  deriving DecidableEq, Repr

def copyV (b : List Byte) : CopyV :=
  let o (k : Nat) : Nat := leAt b (64 + 4 * k) 3
  ⟨tview b, tview (b.drop 32), (o 0, o 1, o 2, o 3)⟩

/-- Sizes S' of the logical source (R233). -/
def CopyV.logical (v : CopyV) (trans : Bool) : Ix := if trans then ixSwap v.src.size else v.src.size

def CopyV.srcNib (v : CopyV) (d : CopyD) (i : Ix) : Nat := v.src.nib d.e (if d.trans then ixSwap i else i)

/-- Index elements that the COPY reads: those of the destination for GATHER, of the source for the SCATTER modes. -/
def idxNeed (d : CopyD) (v : CopyV) : Nat :=
  match d.mode with
  | 0 => 0
  | 1 => ixGet v.dst.size d.g
  | _ => ixGet (v.logical d.trans) d.g

/-- An index value must be non-negative and below this (R238, R240). -/
def idxBound (d : CopyD) (v : CopyV) : Nat := if d.mode = 1 then ixGet (v.logical d.trans) d.g else ixGet v.dst.size d.g

/-- Source index of a destination index in PLAIN and GATHER modes; none for padding (R233, R238). -/
def bodyOf (d : CopyD) (v : CopyV) (idx : List Nat) (j : Ix) : Option Ix :=
  let sz := v.logical d.trans
  let dim (k : Nat) : Option Nat :=
    if d.mode = 1 ∧ k = d.g then idx[ixGet j k]?
    else if ixGet v.ofs k ≤ ixGet j k ∧ ixGet j k - ixGet v.ofs k < ixGet sz k then some (ixGet j k - ixGet v.ofs k) else none
  if ixCount sz = 0 then none
  else do
    let a ← dim 0
    let b ← dim 1
    let c ← dim 2
    let e ← dim 3
    pure (a, b, c, e)

/-- Destination index of a source index in the SCATTER modes; none when it is dropped (R240). -/
def scatterTo (d : CopyD) (v : CopyV) (idx : List Nat) (i : Ix) : Option Ix :=
  let j := ixSet (ixGet i 0 + ixGet v.ofs 0, ixGet i 1 + ixGet v.ofs 1, ixGet i 2 + ixGet v.ofs 2, ixGet i 3 + ixGet v.ofs 3)
    d.g ((idx[ixGet i d.g]?).getD 0)
  if (List.range 4).all fun k => k == d.g || decide (ixGet j k < ixGet v.dst.size k) then some j else none

/-- The indices of sizes d in tiles of t × t of d0 and d1, in ascending linear order of their first elements, and in ascending
linear order in each (R236). -/
def ixTiles (d : Ix) (t : Nat) : List (List Ix) :=
  (List.range d.2.2.2).flatMap fun i3 => (List.range d.2.2.1).flatMap fun i2 =>
    (List.range ((d.2.1 + t - 1) / t)).flatMap fun b => (List.range ((d.1 + t - 1) / t)).map fun a =>
      (List.range (min t (d.2.1 - b * t))).flatMap fun y =>
        (List.range (min t (d.1 - a * t))).map fun x => (a * t + x, b * t + y, i2, i3)

/-- What is written at a destination index in PLAIN and GATHER modes: its nibble, and the source nibble or padding. -/
def moveAt (d : CopyD) (v : CopyV) (idx : List Nat) (j : Ix) : Option (Nat × Option Nat) :=
  match bodyOf d v idx j with
  | some i => some (v.dst.nib d.e j, some (v.srcNib d i))
  | none => if d.paden then some (v.dst.nib d.e j, none) else none

/-- The destination indices by tiles of a transposed COPY, else in one piece. -/
def copyTiles (d : CopyD) (v : CopyV) : List (List Ix) :=
  if d.trans then ixTiles v.dst.size (128 / d.e) else [ixAll v.dst.size]

/-- What is written where, in write order: destination nibble, and source nibble or padding (R233 to R240). A SCATTER follows
the logical source, transposed or not; a source element that is dropped is not read (DESIGN CHOICE, see the assumption log). -/
def copyMoves (d : CopyD) (v : CopyV) (idx : List Nat) : List (Nat × Option Nat) :=
  if d.mode ≤ 1 then (copyTiles d v).flatten.filterMap (moveAt d v idx)
  else
    (ixAll (v.logical d.trans)).filterMap fun i =>
      (scatterTo d v idx i).map fun j => (v.dst.nib d.e j, some (v.srcNib d i))

/-- One element on its way: destination nibble, source nibble or padding, and whether its value stands. -/
abbrev Move := Nat × Option Nat × Bool

/-- In SCATTER_OVR one of the colliding values is written, and which one is free (R241); in the other modes each is. -/
def standing (d : CopyD) (ctr : Nat) (ms : List (Nat × Option Nat)) : List Move :=
  ms.zipIdx.map fun m =>
    let same := ms.zipIdx.filter fun x => x.1.1 == m.1.1
    (m.1.1, m.1.2, d.mode != 2 || (same[Config.scatterPick ctr m.1.1 % same.length]?).map (·.2) == some m.2)

/-- Split moves where the destination leaves a run of adjoining elements in one 64-byte unit. -/
def moveRuns (e : Nat) : List Move → List (List Move)
  | [] => []
  | m :: ms =>
    match moveRuns e ms with
    | (n :: b) :: bs => if n.1 = m.1 + e ∧ n.1 / 128 = m.1 / 128 then (m :: n :: b) :: bs else [m] :: (n :: b) :: bs
    | bs => [m] :: bs

/-- What the engine reads before it writes: a tile of a transposed COPY, else a run of up to 64 bytes (R236, R237). It reads the
elements of a tile in the order of their destinations (DESIGN CHOICE, see the assumption log). -/
def copyBatches (d : CopyD) (v : CopyV) (idx : List Nat) (ctr : Nat) : List (List Move) :=
  if d.mode ≤ 1 ∧ d.trans then (copyTiles d v).map fun t => standing d ctr (t.filterMap (moveAt d v idx))
  else moveRuns d.e (standing d ctr (copyMoves d v idx))

/-- Elements at nibbles a (of e nibbles) and b (of f) share a byte. -/
def shareByte (a e b f : Nat) : Bool := decide (a / 2 ≤ (b + f - 1) / 2) && decide (b / 2 ≤ (a + e - 1) / 2)

/-- The destination of a transposed COPY maps two indices to one address (R234, R242, R496). -/
def aliased (d : CopyD) (v : CopyV) : Bool := !decide (((ixAll v.dst.size).map (v.dst.nib d.e)).Nodup)

/-- Two values reach one address (R241). -/
def collides (ms : List (Nat × Option Nat)) : Bool := !decide ((ms.map (·.1)).Nodup)

/-- Write the elements of a batch; SCATTER_ADD adds to what stands there. -/
def State.writeBatch (s : State) (u : MUnit) (d : CopyD) (ws : List (Nat × Nat)) : Flow :=
  if d.mode = 3 then
    s.readElems u d.e (ws.map (·.1)) fun s old => s.writeElems u d.e (List.zipWith (fun w o => (w.1, (o + w.2) % 16 ^ d.e)) ws old)
  else s.writeElems u d.e ws

/-- Pair the moves of a batch with the values read for them, and leave out those that do not stand. -/
def placed (pad : Nat) : List Move → List Nat → List (Nat × Nat)
  | [], _ => []
  | (a, none, _) :: ms, vs => (a, pad) :: placed pad ms vs
  | (a, some _, w) :: ms, vs => (if w then [(a, vs.headD 0)] else []) ++ placed pad ms (vs.drop 1)

/-- Batch after batch is read and written; a held access leaves the batches before it written. -/
def State.runBatches (su du : MUnit) (d : CopyD) : List (List Move) → LastRead → State → Flow
  | [], _, s => .ok s
  | b :: bs, last, s =>
    let ns := b.filterMap (·.2.1)
    match fetchBytes su s last (ns.flatMap (elemBytes d.e)) with
    | .error x => .error x
    | .ok (s, last, bytes) =>
      (s.writeBatch du d (placed d.pad b (elemValues d.e ns bytes))).bind' fun s => State.runBatches su du d bs last s

/-- Index values that break the bounds of R238 and R240. Of a GATHER whose logical source is empty along GDIM every value does,
although R235 calls such a source padding (DESIGN CHOICE, see the assumption log). -/
def badIndex (d : CopyD) (v : CopyV) (idx : List Nat) : Bool := idx.any fun x => decide (idxBound d v ≤ x)

/-- Move the elements, once the descriptor, the views and the indices are known. -/
def State.copyMove (s : State) (d : CopyD) (v : CopyV) (su du iu : MUnit) (idx : List Nat) : Flow :=
  let moves := copyMoves d v idx
  let reads := moves.filterMap (·.2)
  let idxNibs := (List.range (idxNeed d v)).map fun i => d.idx.nib 8 (i, 0, 0, 0)
  let shared : Bool :=
    (su == du && moves.any fun w => reads.any fun r => shareByte w.1 d.e r d.e)
      || (iu == du && moves.any fun w => idxNibs.any fun r => shareByte w.1 d.e r 8)
  if shared || (d.trans && aliased d v) then .error (.undef .u3)
  else
    let t := if d.mode = 2 ∧ collides moves then s.useFree else s
    State.runBatches su du d (copyBatches d v idx s.freeCtr) none t

/-- A COPY by the engine of the cluster at site `own`: the view block is read first, then the indices, then the elements
(R232, R235). -/
def State.copyRun (s : State) (own : Nat) (desc : List Byte) : Flow :=
  let d := copyD desc
  match s.locUnit own d.block with
  | none => .error (.undef .u2)
  | some bu =>
    let off := d.block % 2 ^ 35 / 32 * 32
    if bu.span < off + 96 then .error (.undef .u1)
    else
      match s.unitRead bu off 96 with
      | (s', none) => .error (.held s')
      | (s, some b) =>
        let v := copyV b
        if ixCount v.dst.size = 0 then .ok s
        else
          match s.locUnit own v.src.loc, s.locUnit own v.dst.loc, (if d.mode = 0 then some bu else s.locUnit own d.idx.loc) with
          | some su, some du, some iu =>
            let iv : TView := { d.idx with d1 := 1, d2 := 1, d3 := 1 }
            if !v.src.inside d.e su || !v.dst.inside d.e du || (d.mode != 0 && !iv.inside 8 iu) then .error (.undef .u1)
            else if d.mode ≠ 0 ∧ d.idx.d0 < idxNeed d v then .error (.undef .u1)
            else
              s.readElems iu 8 ((List.range (idxNeed d v)).map fun i => d.idx.nib 8 (i, 0, 0, 0)) fun s idx =>
                if badIndex d v idx then .error (.undef .u2) else s.copyMove d v su du iu idx
          | _, _, _ => .error (.undef .u2)

/-- Run a COPY on a cluster's engine, which is busy until COPY_COMPLETE; an uncorrectable word holds it (R245, R248). -/
def State.copyStart (s : State) (site : Nat) (by_ : CopyBy) (desc : List Byte) : Flow :=
  let s := s.updCl site fun c => { c with copyBusy := some by_, copyHeld := false }
  match s.copyRun site desc with
  | .error (.held s') => .ok (s'.updCl site fun c => { c with copyHeld := true })
  | f => f

/-- CPSTART reads 64 bytes at h + sa and stalls while the engine is busy (R115). -/
def execCpstart (c : SiteNo) (h : BitVec 6) (sa : BitVec 4) (s : State) : Res :=
  s.core c fun k =>
    if k.copyBusy.isSome then .next (s.stallCore c .cpstart)
    else
      s.handleRead c h (k.s sa).toNat 64 fun s d =>
        Flow.res ((s.copyStart c .program d).bind' fun s => .ok (s.setCl c (s.cl c).advance))

def execCpwait (c : SiteNo) (s : State) : Res :=
  s.core c fun k => if k.copyBusy.isSome then .next (s.stallCore c .cpwait) else s.fin c k

end Sys2Proof.Machine
end

