-- ==== Sys2Proof/Machine/Send.lean ====
section
/-! DEFINITION. What leaves the module: packets under link credits, host-memory traffic on the ring port, and which
register blocks are reachable (R30, R283, R336, R337, R355, R465). -/

namespace Sys2Proof.Machine

-- CRC-32 of IEEE 802.3 (R346, R350)

def crc32Byte (c : Word) (b : Byte) : Word :=
  (List.range 8).foldl (fun c _ => if c.getLsbD 0 then (c >>> 1) ^^^ 0xEDB88320 else c >>> 1) (c ^^^ b.setWidth 32)

def crc32 (d : List Byte) : Word := ~~~(d.foldl crc32Byte 0xFFFFFFFF)

-- Header flits (R346, R347, R354)

/-- Data flits that carry n bytes. -/
def dataFlits (n : Nat) : Nat := (n + 63) / 64

/-- The data flits of a packet; what follows the last byte in the last flit is zero (DESIGN CHOICE, see the assumption log). -/
def flitBytes (d : List Byte) : List Byte := d ++ List.replicate (64 * dataFlits d.length - d.length) 0

/-- A header flit: bytes 0 to 19, bytes 20 to 59, and the CRC-32 of them and of every data flit (R346). -/
def hdrFlit (ptype flags tid : Nat) (addr : DWord) (count : Nat) (rest data : List Byte) : List Byte :=
  let h := [BitVec.ofNat 8 ptype, BitVec.ofNat 8 flags] ++ toLe 2 (dataFlits data.length) ++ toLe 4 tid ++ toLe 8 addr.toNat
    ++ toLe 4 count ++ (rest ++ List.replicate 40 0).take 40
  h ++ toLe 4 (crc32 (h ++ flitBytes data)).toNat

/-- The header flit of a packet; none of a flit of the link layer and of what leaves by a pin. FLAGS.LAST stands on the last
packet of a transfer. -/
def Out.header : Out → List Byte
  | .mwr _ addr last d => hdrFlit 3 (2 * b2n last) 0 addr d.length [] d
  | .mrd _ addr n tid => hdrFlit 2 2 tid addr n [] []
  | .cpl _ tid status off last d =>
    hdrFlit 4 (2 * b2n last) tid 0 d.length ([0, BitVec.ofNat 8 status, 0, 0] ++ toLe 4 off) d
  | .mgt _ tid op status d => hdrFlit 5 2 tid 0 d.length (toLe 2 op ++ [BitVec.ofNat 8 status]) d
  | .frag _ ch off last d =>
    hdrFlit 6 (2 * b2n last) 0 0 d.length ([1, BitVec.ofNat 8 ch, BitVec.ofNat 8 (b2n last), 0] ++ toLe 4 off) d
  | .depot _ ptype flags tid daddr count epoch d => hdrFlit ptype flags tid daddr count [BitVec.ofNat 8 epoch] d
  | .handoff _ ptype flags tid daddr count epoch pitch jobtag step sfrom sto d =>
    hdrFlit ptype flags tid daddr count
      ([BitVec.ofNat 8 epoch, 0] ++ toLe 2 pitch ++ toLe 8 jobtag.toNat ++ toLe 8 step.toNat ++ [BitVec.ofNat 8 sfrom, BitVec.ofNat 8 sto]) d
  | .flit _ _ _ | .beacon _ | .smbus _ | .tdo _ => []

-- Groups (R334, R335, R339)

/-- Groups of 42.5 ns in a number of counts of 10 ns. -/
def groupsIn (counts : Nat) : Nat := counts * 4 / 17

/-- Groups sent since training ended; the group now on the line has this number. -/
def State.txCount (s : State) (l : Nat) : Nat := (s.lnk l).txBase + groupsIn (s.clk.raw - (s.lnk l).txSince).toNat

/-- Groups received good in order since training ended; while a RESYNC is awaited none is. -/
def State.rxCount (s : State) (l : Nat) : Nat :=
  (s.lnk l).rxBase + if (s.lnk l).awaitResync then 0 else groupsIn (s.clk.raw - (s.lnk l).rxSince).toNat

def State.txGroup (s : State) (l : Nat) : BitVec 16 := BitVec.ofNat 16 (s.txCount l)
/-- The highest group received good, which CREDIT carries as ACK. -/
def State.rxGroup (s : State) (l : Nat) : BitVec 16 := BitVec.ofNat 16 (s.rxCount l) - 1

/-- The group count that a 16-bit number stands for, next to a count. -/
def groupNear (count : Nat) (g : BitVec 16) : Int := count + (g - BitVec.ofNat 16 count).toInt

/-- Put a flit or a packet on the line and into the replay buffer, which keeps the last 256 groups. What follows a replay
comes after everything replayed. -/
def State.onLine (s : State) (l : Nat) (o : Out) : State :=
  let n := ((s.lnk l).replay.map (·.1)).foldl max (s.txCount l)
  (s.updLnk l fun k => { k with replay := (k.replay ++ [(n, o)]).filter fun e => decide (n ≤ e.1 + 256) }).emit o

-- Links and credits (R336, R337)

/-- UP or DEGRADED (R344). -/
def State.linkUp (s : State) (l : Nat) : Bool :=
  let st := s.regF (Reg.LNK_STATE l) 0 3
  st == 2 || st == 3

/-- Packets are taken in: after an uncorrectable group the receiver ignores everything until RESYNC (R339). -/
def State.linkIn (s : State) (l : Nat) : Bool := s.linkUp l && !(s.lnk l).awaitResync

/-- Credit pools: 0 SYNC, 1 CONTROL or MGT, 2 BULK, 3 STREAM. -/
def LinkSt.credit (k : LinkSt) : Nat → Nat
  | 0 => k.crSync
  | 1 => k.crControl
  | 2 => k.crBulk
  | _ => k.crStream

def LinkSt.spend (k : LinkSt) (pool n : Nat) : LinkSt :=
  match pool with
  | 0 => { k with crSync := k.crSync - n }
  | 1 => { k with crControl := k.crControl - n }
  | 2 => { k with crBulk := k.crBulk - n }
  | _ => { k with crStream := k.crStream - n }

/-- Flits that the receiver owes the sender for a packet taken in (R336). -/
def LinkSt.owe (k : LinkSt) (pool n : Nat) : LinkSt :=
  match pool with
  | 0 => { k with owedSync := k.owedSync + n }
  | 1 => { k with owedControl := k.owedControl + n }
  | 2 => { k with owedBulk := k.owedBulk + n }
  | _ => { k with owedStream := k.owedStream + n }

/-- One header flit and the data flits of n bytes. -/
def flitsOf (n : Nat) : Nat := 1 + (n + 63) / 64

/-- Traffic of a cairn drain: it yields to the other depot traffic (R42, R366). -/
def Out.isDrain : Out → Bool
  | .depot _ ptype flags _ _ _ _ _ => ptype == 0x40 && flags % 2 == 1
  | _ => false

/-- The oldest waiting packet of a pool, if the credits cover every flit of it; a drain's only when no other waits. -/
def LinkSt.ready (k : LinkSt) (pool : Nat) : Option (Nat × Nat × Out) :=
  let first := (k.txq.find? fun x => x.1 == pool && !x.2.2.isDrain).orElse fun _ => k.txq.find? fun x => x.1 == pool
  first.filter fun x => decide (x.2.1 ≤ k.credit pool)

/-- Pools in the order in which a link serves them: SYNC, then CONTROL, STREAM before MGT, then BULK. Inside a frame no MGT
packet is sent, since its fragments are consecutive CONTROL packets (R318, R337, R355). -/
def LinkSt.order (k : LinkSt) : List Nat := if k.inFrame then [0, 3, 2] else [0, 3, 1, 2]

/-- A packet goes out: a fragment opens its frame, or closes it with LAST. -/
def LinkSt.sent (k : LinkSt) (o : Out) : LinkSt :=
  match o with
  | .frag _ _ _ last _ => { k with inFrame := !last }
  | _ => k

/-- Send waiting packets while credits last. -/
def State.drainLink (l : Nat) : Nat → State → State
  | 0, s => s
  | n + 1, s =>
    if !s.linkUp l then s
    else
      match (s.lnk l).order.findSome? (s.lnk l).ready with
      | none => s
      | some x =>
        State.drainLink l n ((s.updLnk l fun k => { (k.spend x.1 x.2.1).sent x.2.2 with txq := k.txq.erase x }).onLine l x.2.2)

/-- Hand a packet to a link. -/
def State.send (s : State) (l pool n : Nat) (o : Out) : State :=
  let s := s.updLnk l fun k => { k with txq := k.txq ++ [(pool, flitsOf n, o)] }
  State.drainLink l (s.lnk l).txq.length s

/-- A packet that was received returns its credits with the next CREDIT flit. -/
def State.received (s : State) (l pool n : Nat) : State := s.updLnk l fun k => k.owe pool (flitsOf n)

abbrev portLink (p : Nat) : Nat := 48 + p

-- The ring port (R253, R283)

def State.ringPortNo (s : State) : Nat := (s.regF Reg.GLB_RINGCFG 16 1 + s.regF Reg.GLB_RINGSTAT 0 1) % 2

def State.ringPort (s : State) : Option Nat := if s.linkUp (portLink s.ringPortNo) then some s.ringPortNo else none

/-- Counts of 10 ns in a millisecond and a microsecond. -/
abbrev milli : Nat := 100000
abbrev micro : Nat := 100

/-- The writes that a port still holds for want of credits. -/
def State.heldWrites (s : State) (p : Nat) : List (List Byte) :=
  (s.lnk (portLink p)).txq.filterMap fun x => match x.2.2 with
    | .mwr _ _ _ d => some d
    | _ => none

/-- Writes handed to the ring port in the last 1 ms, and those that it still holds, which are the newest. -/
def State.recentWrites (s : State) : List (DWord × HostWr) :=
  let n := s.jobs.recent.length - (s.heldWrites s.ringPortNo).length
  (s.jobs.recent.take n).filter (fun e => decide ((s.now - e.1).toNat ≤ milli)) ++ s.jobs.recent.drop n

/-- A posted write of host memory; without a port it waits for one (R283). -/
def State.putHost (s : State) (w : HostWr) : State :=
  match s.ringPort with
  | some p =>
    State.send { s with jobs := { s.jobs with recent := s.recentWrites ++ [(s.now, if w.ring then w else { w with data := [] })] } }
      (portLink p) 2 w.data.length (.mwr p w.addr w.last w.data)
  | none => { s with jobs := { s.jobs with owed := s.jobs.owed ++ [w] } }

/-- Data of a STORE. -/
def State.hostWrite (s : State) (addr : DWord) (last : Bool) (d : List Byte) : State := s.putHost ⟨false, last, addr, d⟩

/-- A record, a notification or a shadow word: a write that is made again when the port fails within 1 ms. -/
def State.ringWrite (s : State) (addr : DWord) (d : List Byte) : State := s.putHost ⟨true, true, addr, d⟩

/-- The ring port has lost its link: the ring writes of the last 1 ms that it sent are due again, and after them all that it
never sent, in the order in which they were made. -/
def State.ringLost (s : State) : State :=
  let held := s.heldWrites s.ringPortNo
  let last := s.recentWrites
  let n := last.length - held.length
  let sent := (last.take n).filter fun e => e.2.ring
  let owed := s.jobs.owed ++ sent.map (·.2) ++ ((last.drop n).zip held).map fun e => { e.1.2 with data := e.2 }
  { s with jobs := { s.jobs with owed := owed, recent := [], portGone := true } }

/-- Send the reads of host memory that have not been sent, up to 256 in flight (R355). -/
def State.pumpReads (s : State) : State :=
  match s.ringPort with
  | none => s
  | some p =>
    let free := 256 - s.jobs.reads.countP (·.sent)
    let go := (s.jobs.reads.filter fun r => !r.sent).take free
    let mark (r : HostRead) : HostRead := if go.any (fun g => g.tid == r.tid) then { r with sent := true, port := p } else r
    let s := { s with jobs := { s.jobs with reads := s.jobs.reads.map mark } }
    go.foldl (fun s r => s.send (portLink p) 2 0 (.mrd p r.addr r.len r.tid)) s

/-- A read of host memory. -/
def State.ringRead (s : State) (addr : DWord) (len : Nat) (why : ReadFor) : State :=
  State.pumpReads { s with jobs := { s.jobs with
    reads := s.jobs.reads ++ [⟨s.jobs.nextTid, 0, len, [], why, addr, false⟩], nextTid := s.jobs.nextTid + 1 } }

/-- The ring traffic has a port again: what is owed is written, in order, and what was in flight is read again. -/
def State.resendRing (s : State) : State :=
  let old := s.jobs.owed
  let again (r : HostRead) : HostRead := { r with sent := false, got := [] }
  let s := { s with jobs := { s.jobs with owed := [], portGone := false, reads := s.jobs.reads.map again } }
  (old.foldl State.putHost s).pumpReads

-- Reachability (R30, R465)

/-- AON_UP has run and has not failed: until then nothing but the SMBus STAGE command answers (R444, R446). -/
def State.aonLive (s : State) : Bool :=
  s.dev.base != .off && s.dev.next != some .aonUp && s.regF Reg.GLB_STAGE 0 8 != 0x90

/-- Register blocks answer only while the domain that holds them is up. -/
def State.reach (s : State) (a : Nat) : Bool :=
  let on := s.aonLive
  let fw := on && s.dev.fwOk
  match blockOf a with
  | some (.glb, o) => if o ≤ 0x24 then on else fw
  | some (.rng _, _) => fw
  | some (.ptb, _) => fw
  | some (.slb n, o) => if 0x20000 ≤ o ∧ o < 0x30000 then fw else s.railsOn && !(s.slab n).dark
  | some (.rgn r, o) => if 0xE000 ≤ o then fw else s.railsOn && (s.rg r).ctlUp
  | some (.lnk l, _) => if 48 ≤ l then on else s.railsOn && !(s.slab (l / 4)).dark
  | some (.mgt, o) => if o < 0x1000 then on else fw
  | _ => s.railsOn

/-- A write to the RW bits of a register; the other bits keep their values (R14, R463). -/
def State.writeRw (s : State) (a : Nat) (v : Word) : State :=
  let m := ((regDef a).getD {}).rw
  s.setReg a ((s.reg a &&& ~~~m) ||| (v &&& m))

-- The latches of LO and HI pairs (R464, R466, R467)

/-- The LO registers, whose HI partner is the next word: a read latches it, each port for itself (R464, R466). -/
def latchLo (a : Nat) : Bool :=
  [Reg.GLB_SERIALLO, Reg.GLB_DBBASELO, Reg.GLB_SHBASELO, Reg.GLB_CADPHASELO, Reg.GLB_CAIRNBASELO, Reg.GLB_CAIRNSTEPLO,
      Reg.GLB_ENERGYLO, Reg.GLB_TIMELO].contains a
    || (decide (0x100 ≤ a) && decide (a < 0x180) && a % 8 == 0)
    || match blockOf a with
      | some (.glb, o) => decide (0xC000 ≤ o) && o % 16 == 8
      | some (.rng n, o) => decide (n ≤ 128) && (o == 0 || o == 0x1C)
      | some (.lnk _, o) => o == 0x14
      | some (.mgt, o) => decide (0x10000 ≤ o) && (regDef a).isSome && (o % 0x100 == 8 || o % 0x100 == 0x10)
      | _ => false

def latchKey (p a : Nat) : Nat := p * 2 ^ 44 + a

/-- A read that follows a write of a HI register by the same port shows the write (R467): the port's latch no longer stands. -/
def State.unlatch (s : State) (p a : Nat) : State :=
  if latchLo (a - 4) && ((regDef a).getD {}).rw != 0 then { s with latches := Tab.set none s.latches (latchKey p (a - 4)) none } else s

end Sys2Proof.Machine
end

