-- ==== Sys2Proof/Machine/Ring.lean ====
section
/-! DEFINITION. Rings in host memory: setup, doorbells, the fetch of descriptors, records and their order, events, and
the completions of reads of host memory (R250 to R261, R276 to R288, R355). -/

namespace Sys2Proof.Machine

-- Descriptors (R265)

/-- The field of n bytes at byte o of a descriptor. -/
def dF (d : BitVec 512) (o n : Nat) : Nat := d.toNat / 2 ^ (8 * o) % 2 ^ (8 * n)

def dBytes (d : BitVec 512) : List Byte := toLe 64 d.toNat

-- Ring records (R254): job rings 0 to 63, completion rings 64 to 127, event ring 128

def State.ringState (s : State) (n : Nat) : Nat := s.regF (Reg.RNG_STATE n) 0 2
def State.setRingState (s : State) (n st : Nat) : State := s.setRegF (Reg.RNG_STATE n) 0 2 st

abbrev rsDisabled : Nat := 0
abbrev rsRunning : Nat := 1
abbrev rsStopping : Nat := 2
abbrev rsStopped : Nat := 3

def State.ringSize (s : State) (n : Nat) : Nat := 2 ^ max 6 (min 16 (s.regF (Reg.RNG_CTL n) 0 5))

/-- A 64-bit register pair. -/
def State.pairReg (s : State) (lo hi : Nat) : DWord := ((s.reg hi).setWidth 64 <<< 32) ||| (s.reg lo).setWidth 64

def State.setPair (s : State) (lo hi : Nat) (v : DWord) : State :=
  (s.setReg lo (v.setWidth 32)).setReg hi ((v >>> 32).setWidth 32)

def State.slotAddr (s : State) (n : Nat) (i : Word) (bytes : Nat) : DWord :=
  s.pairReg (Reg.RNG_BASELO n) (Reg.RNG_BASEHI n) + BitVec.ofNat 64 (i.toNat % s.ringSize n * bytes)

def State.doorbellAddr (s : State) (w : Nat) : DWord := s.pairReg Reg.GLB_DBBASELO Reg.GLB_DBBASEHI + BitVec.ofNat 64 (4 * w)

/-- Released index of a job ring (R257). -/
def State.releasedIdx (s : State) (n : Nat) : Word :=
  if tst (s.reg (Reg.RNG_CTL n)) 8 then s.reg (Reg.RNG_CAIRNIDX n) else (s.ring n).done

-- Completing a descriptor

/-- CHECKS of a step: tiles checked and disagreements, saturating (R279). -/
def StepSt.checks (st : StepSt) : Nat := min st.sampled (2 ^ 24 - 1) + min st.disagree 15 * 2 ^ 24

/-- CHECKS of the outstanding descriptor of a ring: of the running step, or of a sweep (R279). -/
def State.checksOf (s : State) (r : Nat) : Nat :=
  match s.jobs.step.filter fun st => st.ring == r, (s.ring r).out with
  | some st, _ => st.checks
  | none, some o => min 65535 o.failed
  | none, none => 0

/-- Give an outstanding descriptor its outcome; the record is written when the ring can take it (R255, R276). An outcome
that it has stands, but a restart ends every descriptor whose record is still to be written (R290). -/
def State.finish (s : State) (r status detail flags : Nat) : State :=
  let n := s.checksOf r
  let restart : Bool := status == 2 && detail == 0x40
  let s := s.updRing r fun x =>
    match x.out with
    | some o => if o.rec_.isSome && !restart then x else { x with out := some { o with rec_ := some ⟨status, detail, flags, n⟩ } }
    | none => x
  let s := s.setRegF (Reg.RNG_STATE r) 3 1 0
  { s with jobs := { s.jobs with
    queue := s.jobs.queue.filter (· != r), ahead := s.jobs.ahead.filter (· != r), tickQ := s.jobs.tickQ.filter (· != r) } }

/-- Flags of a ring that rewinds: below the fault index REPEAT and RESTARTED, at it RESTARTED (R277, R290), with REPEAT when
its record was written before in this restart (R291). An index at which nothing was outstanding is noted until RESTART_DONE
alone (`State.restartDone`). -/
def RingSt.rewindFlags (x : RingSt) (idx : Word) : Nat :=
  match x.faultIdx with
  | none => 0
  | some g => if idx = g then (if x.gAgain then 6 else 4) else if (g - idx).toNat < 2 ^ 31 then 6 else 0

-- Reading the rings (R259 to R261)

/-- Read descriptors after the consumer index: up to 16 at once, not past the end of the array. -/
def State.fetchMore (s : State) (r : Nat) : State :=
  let x := s.ring r
  let room := 16 - x.fetched.length
  let n := min room (min (s.reg (Reg.RNG_HOSTIDX r) - x.fetchIdx).toNat (s.ringSize r - x.fetchIdx.toNat % s.ringSize r))
  if s.ringState r ≠ rsRunning ∨ x.fetching ∨ n = 0 ∨ s.devState = 5 then s
  else (s.updRing r fun x => { x with fetching := true }).ringRead (s.slotAddr r x.fetchIdx 64) (64 * n) (.descs r)

/-- A read of a ring's doorbell word is in flight: its own or a poll's (R259, R260). -/
def State.wordRead (s : State) (r : Nat) : Bool :=
  s.jobs.reads.any fun h => match h.why with
    | .doorbell k => k == r
    | .poll rs => rs.contains r
    | _ => false

def State.readDoorbell (s : State) (r : Nat) : State :=
  (s.updRing r fun x => { x with nudgeAgain := false }).ringRead (s.doorbellAddr r) 4 (.doorbell r)

/-- A read of the word returned: one more follows when a NUDGE came meanwhile. -/
def State.wordBack (s : State) (r : Nat) : State :=
  if (s.ring r).nudgeAgain && !s.wordRead r && s.ringState r == rsRunning then s.readDoorbell r else s

/-- A producer index was read, also one whose read was in flight when the ring was stopped: too far ahead of the released index
or moved backward is U1 (R254, R256). -/
def State.doorbellValue (s : State) (r : Nat) (v : Word) : Flow :=
  if s.ringState r = rsDisabled then .ok s
  else if s.ringSize r < (v - s.releasedIdx r).toNat ∨ 2 ^ 31 ≤ (v - s.reg (Reg.RNG_HOSTIDX r)).toNat then .error (.undef .u1)
  else .ok ((s.setReg (Reg.RNG_HOSTIDX r) v).fetchMore r)

/-- Read the consumer index of a completion ring or the event ring (R258). -/
def State.readSpace (s : State) (n : Nat) : State :=
  if (s.ring n).spaceRead then s
  else (s.updRing n fun x => { x with spaceRead := true }).ringRead (s.doorbellAddr n) 4 (.space n)

/-- NUDGE: one read of the doorbell word, and one more when it arrives while a read is in flight (R259). -/
def State.nudge (s : State) (r : Nat) : State :=
  if !s.reach Reg.GLB_NUDGEIGN then s
  else if 63 < r ∨ s.ringState r ≠ rsRunning then s.count Reg.GLB_NUDGEIGN 0 16 1
  else if s.wordRead r then s.updRing r fun x => { x with nudgeAgain := true }
  else s.readDoorbell r

/-- A NUDGE is a packet of one flit of the SYNC pool: its port must take packets in, and its credit goes back (R336, R354). -/
def execNudge (p : PortNo) (ring : BitVec 8) (s : State) : Res :=
  if !s.linkIn (portLink p) then .next s else .next ((s.received (portLink p) 0 0).nudge ring.toNat)

/-- The backstop poll: one read of the words of all job rings, and of the consumer words that records wait for (R258, R260). -/
def execBackstopPoll (s : State) : Res :=
  if !s.reach Reg.GLB_RINGCFG then .next s
  else
    let rs := (List.range 64).filter fun r => s.ringState r == rsRunning
    let s := if rs.isEmpty then s else s.ringRead (s.doorbellAddr 0) 256 (.poll rs)
    .next (((List.range 65).map (64 + ·)).foldl (fun s n => if s.regF (Reg.RNG_STATE n) 2 1 = 1 then s.readSpace n else s) s)

-- Writing records (R258, R281, R284)

def State.hasSpace (s : State) (n : Nat) : Bool :=
  decide ((s.reg (Reg.RNG_DEVIDX n) - s.reg (Reg.RNG_HOSTIDX n)).toNat < s.ringSize n)

/-- LAP of the record at an index: 1 in the first pass (R277). -/
def State.lap (s : State) (n : Nat) (i : Word) : Nat := (i.toNat / s.ringSize n + 1) % 2

/-- Write a 32-byte record: bytes 8 to 31, then bytes 0 to 7 with the LAP bit in byte `fb`, then any notification. -/
def State.putRecord (s : State) (n fb : Nat) (d : List Byte) (notify : Bool) : State :=
  let i := s.reg (Reg.RNG_DEVIDX n)
  let a := s.slotAddr n i 32
  let d := setAt d fb (byteAt d fb ||| BitVec.ofNat 8 (s.lap n i))
  let s := (s.ringWrite (a + 8) (d.drop 8)).ringWrite a (d.take 8)
  let s := (s.setReg (Reg.RNG_DEVIDX n) (i + 1)).setRegF (Reg.RNG_STATE n) 2 1 0
  if notify then s.ringWrite (s.pairReg (Reg.RNG_NADDRLO n) (Reg.RNG_NADDRHI n)) (toLe 4 (s.reg (Reg.RNG_NDATA n)).toNat) else s

/-- A record that finds no space waits; the consumer index is read again (R258). -/
def State.waitSpace (s : State) (n : Nat) : State := (s.setRegF (Reg.RNG_STATE n) 2 1 1).readSpace n

def eventBytes (e : EventRec) (loss : Bool) : List Byte :=
  toLe 2 e.code.toNat ++ toLe 2 e.source.toNat ++ [BitVec.ofNat 8 (2 * b2n loss + 4 * b2n e.drift), 0, 0, 0]
    ++ toLe 8 e.time.toNat ++ toLe 16 e.data.toNat

/-- The oldest event is written while the event ring is RUNNING and has space; the event ring treats NMODE 1 as 2. -/
def execEventRecordWrite (s : State) : Res :=
  match s.jobs.events with
  | [] => .next s
  | e :: es =>
    if s.ringState 128 ≠ rsRunning ∨ s.ringPort.isNone then .next s
    else if !s.hasSpace 128 then .next (s.waitSpace 128)
    else
      let s1 := { s with jobs := { s.jobs with events := es, loss := false } }
      .next (s1.putRecord 128 4 (eventBytes e s.jobs.loss) (s.regF (Reg.RNG_CTL 128) 6 2 != 0))

-- Enabling, stopping and resuming (R254, R255)

/-- A ring's queues and indices at enable: indices 0 and lap 1. A stream binding stays. The released index is 0 again, and
the shadow word is not written for it (R257; DESIGN CHOICE, see the assumption log). -/
def State.clearRing (s : State) (n : Nat) : State :=
  let s := s.updRing n fun x => { ingest := x.ingest, actuate := x.actuate, pendTick := x.pendTick, underrun := x.underrun }
  let polled (r : HostRead) : HostRead := match r.why with
    | .poll rs => { r with why := .poll (rs.filter (· != n)) }
    | _ => r
  let keep (r : HostRead) : Bool := match r.why with
    | .doorbell k | .descs k | .space k => k != n
    | _ => true
  let s := { s with jobs := { s.jobs with reads := (s.jobs.reads.filter keep).map polled } }
  ((s.setReg (Reg.RNG_DEVIDX n) 0).setReg (Reg.RNG_HOSTIDX n) 0).setReg (Reg.RNG_CAIRNIDX n) 0

/-- A write of RNG_CTL with ENABLE 1: U5 unless the ring is DISABLED or STOPPED; it enables a DISABLED ring. The first
enable of the event ring releases the held reports (R288, R388). -/
def execRngEnable (_p : PortNo) (n : Fin 129) (v : Word) (s : State) : Res :=
  if !s.reach (Reg.RNG_CTL n) then .next s
  else
    let st := s.ringState n
    if st = rsRunning ∨ st = rsStopping then undef .u5
    else
      let s := s.writeRw (Reg.RNG_CTL n) (v ||| 0x80000000)
      if st = rsStopped then .next s
      else
        let s := (s.clearRing n).setReg (Reg.RNG_STATE n) 1
        if n.val = 128 ∧ !s.jobs.everOn then
          .next { s with jobs := { s.jobs with everOn := true, events := s.jobs.events ++ s.jobs.held, held := [] } }
        else .next s

/-- STOPPING becomes STOPPED once nothing is outstanding. -/
def State.stopIfIdle (s : State) (n : Nat) : State :=
  if s.ringState n = rsStopping ∧ (64 ≤ n ∨ ((s.ring n).out.isNone ∧ (s.ring n).replayQ.isEmpty)) then s.setRingState n rsStopped else s

def execRngStop (_p : PortNo) (n : Fin 129) (s : State) : Res :=
  if !s.reach (Reg.RNG_CMD n) || s.ringState n != rsRunning then .next s
  else .next ((s.setRingState n rsStopping).stopIfIdle n)

/-- RESUME returns a STOPPED ring to RUNNING with its indices kept. -/
def execRngResume (_p : PortNo) (n : Fin 129) (s : State) : Res :=
  if !s.reach (Reg.RNG_CMD n) || s.ringState n != rsStopped then .next s
  else
    .next ((s.setRingState n rsRunning).fetchMore n)

/-- GLB_RINGCFG is written while every ring is DISABLED or STOPPED, else U5; ring traffic then uses PORT (R283). -/
def execGlbRingcfgWrite (_p : PortNo) (v : Word) (s : State) : Res :=
  if !s.reach Reg.GLB_RINGCFG then .next s
  else if (List.range 129).any fun n => s.ringState n == rsRunning || s.ringState n == rsStopping then undef .u5
  else
    let s := (s.writeRw Reg.GLB_RINGCFG v).setReg Reg.GLB_RINGSTAT 0
    .next { s with jobs := { s.jobs with portGone := false } }

-- Completions of reads (R355)

/-- What a finished read of host memory brings. -/
def State.deliver (s : State) (x : HostRead) : Flow :=
  match x.why with
  | .doorbell r =>
    (s.doorbellValue r (BitVec.ofNat 32 (ofLe x.got))).bind' fun s => .ok (s.wordBack r)
  | .poll rs =>
    (foldFlow (fun s r => s.doorbellValue r (BitVec.ofNat 32 (leAt x.got (4 * r) 4))) s rs).bind' fun s =>
      .ok ((List.range 64).foldl State.wordBack s)
  | .descs r =>
    let ds := (chunks 64 (x.got.length / 64) x.got).map fun d => BitVec.ofNat 512 (ofLe d)
    .ok ((s.updRing r fun y =>
      { y with fetching := false, fetched := y.fetched ++ ds, fetchIdx := y.fetchIdx + BitVec.ofNat 32 ds.length }).fetchMore r)
  | .space n =>
    .ok ((s.setReg (Reg.RNG_HOSTIDX n) (BitVec.ofNat 32 (ofLe x.got))).updRing n fun y => { y with spaceRead := false })
  | .load r lar unit off =>
    let f := if lar = 1 then s.larStore unit off x.got else s.planWrite unit off x.got
    f.bind' fun s =>
      let more := s.jobs.reads.any fun y =>
        match y.why with
        | .load k _ _ _ => k == r
        | _ => false
      .ok (if more then s else s.finish r 0 0 0)

/-- A CPL part, in ascending offset; the last part ends the read. A part with an error status brings no data (DESIGN
CHOICE, see the assumption log). -/
def execCpl (p : PortNo) (tid : Word) (status : Byte) (off : Word) (data : List Byte) (s : State) : Res :=
  if !s.linkIn (portLink p) then .next s
  else match s.jobs.reads.find? fun x => x.tid == tid.toNat && x.sent && x.port == p.val with
  | none => .next (s.received (portLink p) 2 data.length)
  | some x =>
    let s := s.received (portLink p) 2 data.length
    if status ≠ 0 ∨ off.toNat ≠ x.got.length then .next s
    else
      let got := (x.got ++ data).take x.len
      if got.length < x.len then
        .next { s with jobs := { s.jobs with reads := s.jobs.reads.map fun y => if y.tid = x.tid then { y with got := got } else y } }
      else
        let s := { s with jobs := { s.jobs with reads := s.jobs.reads.filter fun y => y.tid != x.tid } }
        Flow.res ((s.pumpReads).deliver { x with got := got })

end Sys2Proof.Machine
end

