-- ==== Sys2Proof/Machine/Cairn.lean ====
section
/-! DEFINITION. Depot transfers by packets, handoffs on their way out, and cairns: images, snapshots, drains and what a
valid cairn changes (R348 to R353, R359 to R366). -/

namespace Sys2Proof.Machine

-- Depot links (R347 to R349)

abbrev depotLinks : List Nat := List.range 48

/-- DEPOT number of a link's peer. -/
def State.depotOf (s : State) (l : Nat) : Nat := s.regF (Reg.LNK_STATE l) 7 4

/-- Links of a 48-bit LINKS field; 0 names every link (R269). -/
def linksOf (m : Nat) : List Nat := if m % 2 ^ 48 = 0 then depotLinks else depotLinks.filter fun l => m.testBit l

/-- The up links of a set that reach a depot, in ascending number (R348). -/
def State.upLinks (s : State) (set : List Nat) (peer : Nat) : List Nat :=
  set.filter fun l => s.linkUp l && s.depotOf l == peer && !(s.lnk l).excluded

/-- No link still owes an EPACK (R352). -/
def State.epochClear (s : State) : Bool := depotLinks.all fun l => !(s.lnk l).epackDue

abbrev ptHsent : Nat := 0x20
abbrev ptRdreq : Nat := 0x30
abbrev ptHpull : Nat := 0x32
abbrev ptHfree : Nat := 0x33
abbrev ptWrite : Nat := 0x40
abbrev ptEpoch : Nat := 0x42
abbrev ptHdata : Nat := 0x43

def ReqKind.isRead : ReqKind → Bool
  | .read | .imageRead | .staticRead => true
  | _ => false

def DepReq.isDrain (q : DepReq) : Bool := decide (q.kind = ReqKind.imageWrite) || decide (q.kind = ReqKind.headerWrite)

/-- FLAGS of a request's packet: CAIRN for cairn traffic, LAST for the last one of its transfer on the link (R347). -/
def DepReq.flags (q : DepReq) : Nat := b2n (q.isDrain || decide (q.kind = ReqKind.imageRead)) + 2 * b2n q.last

/-- Put the packet of a request on its link. -/
def State.sendReq (s : State) (q : DepReq) : State :=
  let e := (s.lnk q.link).epoch.toNat
  if q.kind.isRead then s.send q.link 1 0 (.depot q.link ptRdreq q.flags q.tid q.daddr q.len e [])
  else s.send q.link 2 q.bytes.length (.depot q.link ptWrite q.flags q.tid q.daddr q.bytes.length e q.bytes)

/-- Send what may be sent: nothing while an EPACK is awaited, and at most 256 reads in flight on a link (R348, R352). A drain
yields to the other traffic (R42). -/
def State.pumpReqs (s : State) : State :=
  if !s.epochClear then s
  else
    ((s.reqs.filter fun q => !q.sent && !q.isDrain) ++ s.reqs.filter fun q => !q.sent && q.isDrain).foldl
      (fun s q =>
        if !s.linkUp q.link then s
        else if q.kind.isRead && decide (256 ≤ s.reqs.countP fun x => x.sent && x.kind.isRead && x.link == q.link) then s
        else
          let mark (x : DepReq) : DepReq := if x.tid = q.tid then { x with sent := true, tries := x.tries + 1 } else x
          ({ s with reqs := s.reqs.map mark }).sendReq q)
      s

/-- Split n bytes into packets of 4,096 bytes, the last shorter: offsets and lengths (R348). -/
def pieces (n : Nat) : List (Nat × Nat) := (List.range ((n + 4095) / 4096)).map fun j => (4096 * j, min 4096 (n - 4096 * j))

/-- The parts of a transfer that k bytes from offset o on fall into. -/
def partsIn : List (Nat × Nat × Nat × Nat) → Nat → Nat → List (Nat × Nat × Nat × Nat)
  | [], _, _ => []
  | (a, u, f, n) :: ps, o, k =>
    if n ≤ o then partsIn ps (o - n) k
    else
      let m := min (n - o) k
      if m = 0 then [] else (a, u, f + o, m) :: partsIn ps 0 (k - m)

/-- A packet of a transfer: DADDR, length, the data of a write and the places of a read. -/
abbrev Packet := Nat × Nat × List Byte × List (Nat × Nat × Nat × Nat)

/-- The packets of n bytes at a depot address, of 4,096 bytes each and the last shorter. -/
def packets (daddr n : Nat) (data : Nat → Nat → List Byte) (parts : List (Nat × Nat × Nat × Nat)) : List Packet :=
  (pieces n).map fun p => (daddr + p.1, p.2, data p.1 p.2, partsIn parts p.1 p.2)

/-- Add the packets of a transfer, packet j to the j-th member of the up links; each link's last one carries LAST (R347, R348). -/
def State.addPackets (s : State) (kind : ReqKind) (set up : List Nat) (ps : List Packet) (ring : Option Nat) : State :=
  let mk (p : Packet × Nat) : DepReq :=
    { tid := s.jobs.nextTid + p.2, link := (up[p.2 % up.length]?).getD 0, set := set, kind := kind
      daddr := BitVec.ofNat 64 p.1.1, bytes := p.1.2.2.1, len := p.1.2.1, last := decide (ps.length ≤ p.2 + up.length)
      parts := p.1.2.2.2, ring := ring, tries := 0, sent := false }
  { s with reqs := s.reqs ++ ps.zipIdx.map mk, jobs := { s.jobs with nextTid := s.jobs.nextTid + ps.length } }

def State.addTransfer (s : State) (kind : ReqKind) (set up : List Nat) (daddr : Nat) (n : Nat) (data : Nat → Nat → List Byte)
    (parts : List (Nat × Nat × Nat × Nat)) (ring : Option Nat) : State :=
  s.addPackets kind set up (packets daddr n data parts) ring

-- Handoffs (R223, R224, R350)

structure HEnt where
  b : List Byte
  deriving DecidableEq, Repr

namespace HEnt
def pitch (h : HEnt) : Nat := leAt h.b 0 2
def dir (h : HEnt) : Nat := leAt h.b 2 1
def lag (h : HEnt) : Nat := leAt h.b 3 1
def region (h : HEnt) : Nat := leAt h.b 4 2
def src (h : HEnt) : Nat := leAt h.b 8 8 % 2 ^ 35
def length (h : HEnt) : Nat := leAt h.b 16 4 % 2 ^ 24
def dst (h : HEnt) : Nat := leAt h.b 20 8 % 2 ^ 35
end HEnt

def State.readHandoffs (s : State) (hr : Nat) (h : Hdr) (k : State → List HEnt → Flow) : Flow :=
  s.planRead hr h.handoffTab (32 * h.handoffs) fun s d => k s ((chunks 32 h.handoffs d).map (⟨·⟩))

def State.bindOf (s : State) (plan : Nat) : Option HandBind := Tab.get none s.jobs.binds plan

/-- The neighbour that an entry's direction names, with its depot address; none at either end of the sequence (R223). -/
def HandBind.sendTo (b : HandBind) (stretches dir : Nat) : Option (Nat × DWord) :=
  match dir with
  | 0 => if b.stretch + 1 < stretches then some (b.stretch + 1, b.nextAddr) else none
  | 1 => if 0 < b.stretch then some (b.stretch - 1, b.prevAddr) else none
  | _ => none

/-- A handoff packet as it goes out on a link of now: its link and that link's epoch. -/
def Out.onLink (o : Out) (l epoch : Nat) : Out :=
  match o with
  | .handoff _ ptype flags tid daddr count _ pitch jobtag step sfrom sto d =>
    .handoff l ptype flags tid daddr count epoch pitch jobtag step sfrom sto d
  | o => o

def State.updStep (s : State) (f : StepSt → StepSt) : State := { s with jobs := { s.jobs with step := s.jobs.step.map f } }

/-- The link that a pull goes out on is the one that its timeout and its loss concern (R349). -/
def State.noteLink (s : State) (o : Out) (l : Nat) : State :=
  match o with
  | .handoff _ ptype _ tid _ _ _ _ _ _ _ _ _ =>
    if ptype = ptHpull then
      s.updStep fun st => { st with inbound := st.inbound.map fun x => if x.tid = tid then { x with link := l } else x }
    else s
  | _ => s

/-- Send a handoff packet on the j-th up link of its binding, or keep it until one is up and every EPACK is in (R349, R350,
R352). -/
def State.sendHand (s : State) (j : Nat) (x : HandPkt) : State :=
  let up := s.upLinks x.links x.peer
  match (if s.epochClear then up[j % up.length]? else none) with
  | some l => (s.noteLink x.pkt l).send l x.pool x.bytes (x.pkt.onLink l (s.lnk l).epoch.toNat)
  | none => { s with hands := s.hands ++ [x] }

/-- Links may be up again: the handoff packets that wait go out, once every EPACK is in (R352). -/
def State.pumpHands (s : State) : State :=
  if !s.epochClear then s
  else s.hands.zipIdx.foldl (fun s x => s.sendHand x.2 x.1) { s with hands := [] }

def HandBind.pkt (b : HandBind) (pool bytes : Nat) (o : Out) : HandPkt := ⟨linksOf b.links.toNat, b.peer, pool, bytes, o⟩

/-- Read the outbound areas of entries one after the other. -/
def State.readAreas : List HEnt → List Byte → State → (State → List Byte → Flow) → Flow
  | [], acc, s, k => k s acc
  | e :: es, acc, s, k =>
    match s.physRegion e.region with
    | none => .error (.undef .u2)
    | some r => s.planRead r e.src e.length fun s d => State.readAreas es (acc ++ d) s k

/-- Send one tag, which the entries of a pitch and a direction share: their bytes in the order of the table as HDATA striped over
the links, then HSENT on one of them (R350). HDATA carries its offset in the tag; HSENT carries the handoff address (DEDUCED, see
the assumption log). -/
def State.sendHandoff (s : State) (b : HandBind) (stretches : Nat) (step : DWord) (pitch dir : Nat) (es : List HEnt) : Flow :=
  match b.sendTo stretches dir, es.isEmpty with
  | none, _ | _, true => .ok s
  | some (sto, addr), false =>
    State.readAreas es [] s fun s d =>
      let n := (pieces d.length).length
      let up := (s.upLinks (linksOf b.links.toNat) b.peer).length
      let s := (pieces d.length).zipIdx.foldl
        (fun s p =>
          let x := (d.drop p.1.1).take p.1.2
          s.sendHand p.2 (b.pkt 2 x.length (.handoff 0 ptHdata (2 * b2n (decide (n ≤ p.2 + up))) (s.jobs.nextTid + p.2)
            (BitVec.ofNat 64 p.1.1) x.length 0 pitch b.jobtag step b.stretch sto x)))
        s
      let s := { s with jobs := { s.jobs with nextTid := s.jobs.nextTid + n } }
      .ok (s.sendHand 0 (b.pkt 0 0 (.handoff 0 ptHsent 2 (crc32 d).toNat addr d.length 0 pitch b.jobtag step b.stretch sto [])))

/-- HPULL for an inbound tag, on one link of the binding; one sent again goes out on another link, where another is up (R349). -/
def State.sendHpull (s : State) (b : HandBind) (x : Inbound) : State :=
  let addr := if x.from_ < b.stretch then b.prevAddr else b.nextAddr
  let up := s.upLinks (linksOf b.links.toNat) b.peer
  let rest := if x.tries ≤ 1 then up else up.filter (· != x.link)
  let next := if rest.isEmpty then up else rest
  let j := (next[x.tid % next.length]?).elim 0 up.idxOf
  s.sendHand j (b.pkt 1 0 (.handoff 0 ptHpull 2 x.tid addr 0 0 x.pitch b.jobtag x.tagStep x.from_ b.stretch []))

-- Region images (R359 to R361)

abbrev mib : Nat := 2 ^ 20

/-- The header of a plan of the cairn set, as it lies in the cellar. -/
def State.hdrPeek (s : State) (n : Nat) : Hdr :=
  let e := s.planEnt n
  match s.physRegion e.hreg with
  | some r => ⟨Tab.getList 0 s.cellar (r * celSpan + e.off) 256⟩
  | none => ⟨List.replicate 256 0⟩

/-- The context areas of the cairn set in ascending handle, each range once (R361). -/
def State.ctxAreas (s : State) (plans : List Nat) : List (Nat × Nat) :=
  (((List.range 1024).filter plans.contains).map fun n => ((s.hdrPeek n).ctxOff, (s.hdrPeek n).ctxEnd)).foldl
    (fun acc a => if a.2 ≤ a.1 ∨ acc.contains a then acc else acc ++ [a]) []

def imageSize (areas : List (Nat × Nat)) : Nat :=
  let n := 256 * mib + (areas.map fun a => a.2 - a.1).sum
  (n + mib - 1) / mib * mib

/-- Copy the larder of a site into an image; a group that is off images as zero. -/
def State.copyLarder (s : State) (site r dst : Nat) : Flow :=
  foldFlow
    (fun s g =>
      if s.groupIsOn site g then
        match s.larRead site (g * mib) mib with
        | (s', some d) => s'.planWrite r (dst + g * mib) d
        | (s', none) => .error (.held s')
      else s.planWrite r (dst + g * mib) (List.replicate mib 0))
    s (List.range 4)

/-- Offsets of the context areas in an image. -/
def areaOffsets : Nat → List (Nat × Nat) → List (Nat × Nat × Nat)
  | _, [] => []
  | o, a :: l => (o, a.1, a.2 - a.1) :: areaOffsets (o + (a.2 - a.1)) l

/-- Write the image of a logical region into its staging area (R362). -/
def State.copyRegion (s : State) (lreg r staging e : Nat) (areas : List (Nat × Nat)) : Flow :=
  let used := 256 * mib + (areas.map fun a => a.2 - a.1).sum
  (foldFlow
    (fun s i =>
      match s.clusterSite (lreg * 64 + i) with
      | some site => s.copyLarder site r (staging + i * 4 * mib)
      | none => .ok s)
    s (List.range 64)).bind' fun s =>
  (foldFlow (fun s (x : Nat × Nat × Nat) => s.planRead r x.2.1 x.2.2 fun s d => s.planWrite r (staging + x.1) d)
    s (areaOffsets (256 * mib) areas)).bind' fun s =>
  s.planWrite r (staging + used) (List.replicate (e - used) 0)

/-- Signature of an image in the staging area (R362). -/
def State.imageSig (s : State) (r staging e : Nat) : DWord := crcFold 0 (Tab.getList 0 s.cellar (r * celSpan + staging) e)

-- Snapshots (R362, R363)

abbrev caIdle : Nat := 0
abbrev caStaging : Nat := 1
abbrev caDraining : Nat := 2
def State.cairnStage (s : State) : Nat := s.regF Reg.GLB_CAIRNSTAT 0 2
def State.setCairnStage (s : State) (v : Nat) : State := s.setRegF Reg.GLB_CAIRNSTAT 0 2 v
def State.setLocal (s : State) (v : Bool) : State := s.setRegF Reg.GLB_CAIRNSTAT 4 1 (b2n v)
def State.localOk (s : State) : Bool := s.regF Reg.GLB_CAIRNSTAT 4 1 == 1

def State.rewindRings (s : State) : List Nat :=
  (List.range 64).filter fun r => s.ringState r != rsDisabled && tst (s.reg (Reg.RNG_CTL r)) 8

/-- Index that a snapshot records for a ring: its outstanding descriptor, or the consumer index (R290). In a replay the first
descriptor that is still to be executed again counts as the outstanding one (DEDUCED, see the assumption log). -/
def State.recordIdx (s : State) (r : Nat) : Word :=
  match (s.ring r).out, (s.ring r).replayQ with
  | some o, _ => o.idx
  | none, e :: _ => e.1
  | none, [] => s.reg (Reg.RNG_DEVIDX r)

/-- The slot layout on the depot (R364). -/
def State.slotBase (s : State) (slot : Nat) : Nat :=
  (s.pairReg Reg.GLB_CAIRNBASELO Reg.GLB_CAIRNBASEHI).toNat + slot * (s.regF Reg.GLB_CAIRNSLOT 0 24 * mib)

def State.cairnDepot (s : State) : Nat := s.regF Reg.GLB_CAIRNCFG 0 4

/-- A planned restart is due, and 24 h have passed since the last one (R373). -/
def State.planSoon (s : State) : Bool :=
  s.resil.plannedDue && !s.resil.lastPlanned.elim false fun t => decide ((s.now - t).toNat < day)

/-- The cairn of a planned restart has been begun or is valid: nothing more is to lie between it and the restart (R373). -/
def State.planHeld (s : State) : Bool :=
  s.planSoon && s.resil.restart.isNone
    && (s.resil.cairn.elim false (·.forPlan) || (s.cairnStage != caIdle && s.resil.snap.elim false (·.forPlan)))

/-- Take a snapshot for a carrier plan with the header h; a staging area smaller than E is U1 (R362). S is the STEP after the last that
ran (DEDUCED, see the assumption log). -/
def State.snapshot (s : State) (h : Hdr) (carrier : Nat) (ring : Option Nat) : Flow :=
  let areas := s.ctxAreas s.jobs.cairnSet
  let e := imageSize areas
  if h.cairnEnd < h.cairnOff + e then .error (.undef .u1)
  else
    let started := (s.setLocal false).setCairnStage caStaging
    let slot := ((s.resil.cairn).map fun c => 1 - c.slot).getD 0
    (foldFlow
      (fun s l =>
        match s.physRegion l with
        | some r => s.copyRegion l r h.cairnOff e areas
        | none => .ok s)
      started s.logRegions).bind' fun t =>
    let snap : Snap :=
      { number := s.resil.nextNum, step := s.jobs.lastStep + 1, time := s.now, e := e, carrier := carrier, stagingOff := h.cairnOff
        sigs := Tab.ofFn 0 256 fun l => if l < 16 * s.rowsL then ((t.physRegion l).map fun r => t.imageSig r h.cairnOff e).getD 0 else 0
        rewind := BitVec.ofNat 64 ((s.rewindRings.map fun r => 2 ^ r).sum)
        ringIdx := Tab.ofFn 0 64 fun r => if s.rewindRings.contains r then s.recordIdx r else 0
        plans := s.jobs.cairnSet, alt := s.jobs.altSet, slot := slot, depot := s.cairnDepot, addr := s.slotBase slot, areas := areas, carrierRing := ring, forPlan := s.planSoon
        covers := true }
    let keep (r : Nat) (x : RingSt) : RingSt :=
      { x with hist := x.hist.filter fun e => decide ((e.1 - s.recordIdx r).toNat < 2 ^ 31) }
    .ok { t with
      resil := { t.resil with snap := some snap }
      jobs := { t.jobs with sinceCairn := 0, forceCairn := false, rings := Tab.mapVals {} keep t.jobs.rings } }

/-- FENCEs whose awaited descriptors have all completed, and whose drain has ended, complete (R271). -/
def State.fenceCheck (s : State) : State :=
  (List.range 64).foldl
    (fun s r =>
      match (s.ring r).out with
      | some o =>
        if dF o.desc 0 1 = 6 ∧ o.rec_.isNone ∧ o.waitFor.isEmpty ∧ (!o.drain ∨ s.cairnStage ≠ caDraining) then
          s.finish r 0 0 0
        else s
      | none => s)
    s

/-- A drain that cannot finish is discarded; a CAIRN that waits for it completes LINK_DOWN (R35, R270, R366). -/
def State.discardDrain (s : State) : State :=
  let s := { (s.setCairnStage caIdle) with reqs := s.reqs.filter fun (q : DepReq) => !q.isDrain }
  match s.resil.snap with
  | some x =>
    let s := { s with resil := { s.resil with snap := some { x with carrierRing := none } } }
    State.fenceCheck (match x.carrierRing with
      | some r => s.finish r 8 0x50 0
      | none => s)
  | none => s.fenceCheck

/-- The packets of the staged images, region after region. -/
def State.imagePackets (x : Snap) (base : Nat) : List Nat → List Packet → State → (State → List Packet → Flow) → Flow
  | [], acc, s, k => k s acc
  | l :: ls, acc, s, k =>
    match s.physRegion l with
    | none => State.imagePackets x base ls acc s k
    | some r =>
      s.planRead r x.stagingOff x.e fun s d =>
        State.imagePackets x base ls (acc ++ packets (base + 2 ^ 16 + l * x.e) x.e (fun o n => (d.drop o).take n) []) s k

/-- Start the drain of the staged images, which is one transfer (R348, R366); a SLOT too small is U1 (R364). -/
def State.startDrain (s : State) (x : Snap) : Flow :=
  let up := s.upLinks depotLinks s.cairnDepot
  if s.regF Reg.GLB_CAIRNSLOT 0 24 * mib < 2 ^ 16 + 16 * s.rowsL * x.e then .error (.undef .u1)
  else if up.isEmpty then .ok s.discardDrain
  else
    State.imagePackets x (s.slotBase x.slot) s.logRegions [] (s.setCairnStage caDraining) fun t ps =>
      .ok (t.addPackets .imageWrite depotLinks up ps none).pumpReqs

/-- When the regions' copies end, the snapshot is the local snapshot and its drain starts; a CAIRN descriptor without
WAITVALID completes (R267, R270, R363). A DEPOT of 0 lets it be staged only (R364). -/
def execSnapshotStaged (s : State) : Res :=
  match s.resil.snap with
  | none => .next s
  | some x =>
    if s.cairnStage ≠ caStaging then .next s
    else
      let s := s.setLocal true
      let waits := (x.carrierRing.bind fun r => (s.ring r).out.map fun o => dF o.desc 8 1 % 2 == 1).getD false
      let (s, x) := match x.carrierRing with
        | some r =>
          if waits then (s, x)
          else
            (s.finish r 0 0 0, { x with carrierRing := none })
        | none => (s, x)
      let s := { s with resil := { s.resil with snap := some x } }
      if s.cairnDepot = 0 then .next s.discardDrain else Flow.res (s.startDrain x)

/-- The cairn header (R365). -/
def State.cairnHeader (s : State) (x : Snap) : List Byte :=
  let head := toLe 4 0x4E4C4331 ++ toLe 2 1 ++ [s.fuses.grade, 0] ++ toLe 8 x.number.toNat ++ toLe 8 x.step.toNat
    ++ toLe 8 x.time.toNat ++ toLe 8 x.e ++ toLe 8 x.rewind.toNat ++ toLe 2 x.plans.length ++ toLe 2 x.alt.length
    ++ List.replicate 12 0
  let idx := (Tab.getList 0 x.ringIdx 0 64).flatMap fun v => toLe 4 v.toNat
  let plans := (x.plans.flatMap fun p => toLe 2 p) ++ List.replicate (128 - 2 * x.plans.length) 0
  let alt := (x.alt.flatMap fun a => toLe 2 a.1 ++ toLe 2 a.2) ++ List.replicate (1024 - 4 * x.alt.length) 0
  head ++ idx ++ plans ++ alt ++ List.replicate 576 0 ++ ((Tab.getList 0 x.sigs 0 176).flatMap fun v => toLe 8 v.toNat)
    ++ List.replicate 640 0

/-- After every image write is acknowledged the header is written (R366). -/
def State.drainNext (s : State) : State :=
  match s.resil.snap with
  | some x =>
    if s.cairnStage = caDraining ∧ !s.reqs.any DepReq.isDrain then
      match s.upLinks depotLinks s.cairnDepot with
      | [] => s.discardDrain
      | l :: _ =>
        (s.addTransfer .headerWrite depotLinks [l] (s.slotBase x.slot) 4096 (fun o n => ((s.cairnHeader x).drop o).take n) [] none).pumpReqs
    else s
  | none => s

/-- Write the shadow word of a ring whose released index changed, once a port is up (R257, R282, R283). -/
def State.shadow (s : State) (r : Nat) : State :=
  let v := s.releasedIdx r
  if v = (s.ring r).released ∨ s.ringPort.isNone then s
  else
    (s.updRing r fun x => { x with released := v }).ringWrite
      (s.pairReg Reg.GLB_SHBASELO Reg.GLB_SHBASEHI + BitVec.ofNat 64 (4 * r)) (toLe 4 v.toNat)

/-- A cairn becomes valid: its record, RNG_CAIRNIDX of the rings that rewind, held slots and handoff tags no longer
needed, in this order (R366, R169, R351). -/
def State.cairnValid (s : State) : State :=
  match s.resil.snap with
  | none => s
  | some x =>
    let s := { s with resil := { s.resil with
      cairn := some { x with carrierRing := none }, snap := some { x with carrierRing := none }, nextNum := x.number + 1
      overrun := s.resil.overrun && !x.covers } }
    let s := ((s.setCairnStage caIdle).setRegF Reg.GLB_CAIRNSTAT 2 1 1).setRegF Reg.GLB_CAIRNSTAT 3 1 x.slot
    let s := (s.setReg Reg.GLB_CAIRNNUM (x.number.setWidth 32)).setPair Reg.GLB_CAIRNSTEPLO Reg.GLB_CAIRNSTEPHI x.step
    let s := ((List.range 64).filter fun r => x.rewind.getLsbD r).foldl
      (fun s r => (s.setReg (Reg.RNG_CAIRNIDX r) (Tab.get 0 x.ringIdx r)).shadow r) s
    let s := s.gridRegions.foldl
      (fun s r => s.updRg r fun g =>
        { g with
          heldSteps := g.heldSteps.map fun v => if v.toNat < x.step.toNat then 0xFFFFFFFFFFFFFFFF else v
          heldLost := g.heldLost.filter fun v => decide (x.step.toNat ≤ v.toNat) }) s
    let s := s.jobs.binds.foldl
      (fun s e =>
        match e.2 with
        | some b => s.sendHand 0 (b.pkt 1 0 (.handoff 0 ptHfree 2 0 0 0 0 0 b.jobtag (x.step - 1) 0 b.stretch []))
        | none => s)
      s
    let s := match x.carrierRing with
      | some r => s.finish r 0 0 0
      | none => s
    s.fenceCheck

end Sys2Proof.Machine
end

