-- ==== Sys2Proof/Machine/Depot.lean ====
section
/-! DEFINITION. Packets that depots send: read data and acknowledgements, refusals, resends after a lost link or a
timeout, inbound handoffs and restart epochs (R347 to R352). -/

namespace Sys2Proof.Machine

-- Acknowledged and failed packets (R348, R349)

def State.dropReq (s : State) (tid : Nat) : State := { s with reqs := s.reqs.filter fun q => q.tid != tid }

/-- What follows when the last packet of a transfer is acknowledged. -/
def State.reqDone (s : State) (q : DepReq) : State :=
  let s := (s.dropReq q.tid).pumpReqs
  match q.kind with
  | .read | .write =>
    match q.ring with
    | some r => if s.reqs.any fun x => x.ring == some r then s else s.finish r 0 0 0
    | none => s
  | .imageWrite => s.drainNext
  | .headerWrite => s.cairnValid
  | _ => s

/-- A transfer fails: its descriptor completes LINK_DOWN, a drain is discarded, and a read-back waits for the path
(R35, R269, R349, R369). -/
def State.reqFail (s : State) (q : DepReq) : State :=
  match q.kind with
  | .read | .write =>
    match q.ring with
    | some r => { (s.finish r 8 0x50 0) with reqs := s.reqs.filter fun x => x.ring != some r }
    | none => s.dropReq q.tid
  | .imageWrite | .headerWrite => s.discardDrain
  | _ => { s with reqs := s.reqs.map fun x => if x.tid = q.tid then { x with sent := false, tries := 0 } else x }

/-- Send the packets outstanding on a link again on the remaining up links of their set, or on the link itself when it
is the only one that is up; three tries are all (R349). -/
def State.resend (s : State) (l : Nat) : State :=
  ((s.reqs.filter fun q => q.link == l).foldl
    (fun s q =>
      if s.reqs.all fun x => x.tid != q.tid then s
      else
        let up := s.upLinks q.set (s.depotOf l)
        let rest := up.filter (· != l)
        let next := if rest.isEmpty then up else rest
        match next[q.tid % next.length]? with
        | none => s.reqFail q
        | some k =>
          if q.sent && decide (3 ≤ q.tries) then s.reqFail q
          else { s with reqs := s.reqs.map fun x => if x.tid = q.tid then { x with link := k, sent := false } else x })
    s).pumpReqs

def State.setInbound (s : State) (x : Inbound) : State :=
  s.updStep fun st => { st with inbound := st.inbound.map fun y => if y.entries = x.entries then x else y }

/-- Send the pull of an inbound tag (R349, R350). -/
def State.pullTag (s : State) (b : HandBind) (x : Inbound) : State :=
  (s.setInbound { x with tries := x.tries + 1 }).sendHpull b x

/-- A pull that is out and not yet answered in full. -/
def Inbound.open_ (x : Inbound) : Bool := !x.checked && decide (0 < x.tries)

/-- Send a pull again, on another link, and count its bytes from 0. The wait for a tag has no time limit (R224), so it is sent as
often as it takes; with no link of its set up the RUN_PLAN completes LINK_DOWN (R349). -/
def State.pullOnce (s : State) (st : StepSt) (x : Inbound) : State :=
  match st.old.getD (s.bindOf st.handle) with
  | some b =>
    if (s.upLinks (linksOf b.links.toNat) b.peer).isEmpty then s.finish st.ring 8 0x50 0
    else s.pullTag b { x with got := 0, total := none }
  | none => s

/-- A pull that is refused (R349). -/
def State.pullAgain (s : State) (l tid : Nat) : State :=
  match s.jobs.step with
  | none => s
  | some st => (st.inbound.find? fun x => x.tid == tid && x.link == l && x.open_).elim s fun x => s.pullOnce st x

/-- Pulls that are out on a link. -/
def State.pullsOn (s : State) (l : Nat) : List Inbound :=
  s.jobs.step.elim [] fun st => st.inbound.filter fun x => x.link == l && x.open_

/-- The pulls that are out on a link that is lost, or on which a request timed out, go out again (R349). -/
def State.pullLost (s : State) (l : Nat) : State :=
  match s.jobs.step with
  | none => s
  | some st => (s.pullsOn l).foldl (fun s x => s.pullOnce st x) s

/-- A request unanswered for 50 ms: whatever is outstanding on its link goes out again (R349). -/
def execRequestTimeout (l : LinkNo) (tid : Word) (s : State) : Res :=
  if (s.reqs.any fun q => q.tid == tid.toNat && q.link == l.val && q.sent) || (s.pullsOn l).any fun x => x.tid == tid.toNat then
    .next ((s.resend l).pullLost l)
  else .next s

/-- A packet from a depot: it needs a link that is up, and its credits go back with the next CREDIT flit. -/
def fromDepot (l : LinkNo) (pool n : Nat) (s : State) (k : State → Res) : Res :=
  if s.linkIn l then k (s.received l pool n) else .next s

/-- A packet of an older epoch is discarded (R352). -/
def State.sameEpoch (s : State) (l : Nat) (e : Byte) : Bool := (s.lnk l).epoch == e

def State.findReq (s : State) (tid : Word) (read : Bool) : Option DepReq :=
  s.reqs.find? fun q => q.tid == tid.toNat && q.sent && q.kind.isRead == read

/-- A refused packet counts as not acknowledged: it is sent again, up to three times (DESIGN CHOICE, see the log). -/
def State.refused (s : State) (q : DepReq) : State :=
  if 3 ≤ q.tries then s.reqFail q
  else State.pumpReqs { s with reqs := s.reqs.map fun x => if x.tid = q.tid then { x with sent := false } else x }

/-- Write read data to the places that a request names; a place of kind 2 stands for bytes that nothing asked for. -/
def State.storeParts (s : State) : List Byte → List (Nat × Nat × Nat × Nat) → Flow
  | _, [] => .ok s
  | d, (lar, unit, off, n) :: ps =>
    (if lar = 2 then .ok s else if lar = 1 then s.larStore unit off (d.take n) else s.planWrite unit off (d.take n)).bind' fun s => s.storeParts (d.drop n) ps

def execRddata (l : LinkNo) (tid : Word) (epoch status : Byte) (data : List Byte) (s : State) : Res :=
  fromDepot l 2 data.length s fun s =>
    match s.findReq tid true with
    | none => .next s
    | some q =>
      if !s.sameEpoch l epoch then .next s
      else if status ≠ 0 then .next (s.refused q)
      else
        ((s.storeParts (data.take q.len) q.parts).bind' fun s => .ok (s.reqDone q)).res

def execWrack (l : LinkNo) (tid : Word) (epoch status : Byte) (s : State) : Res :=
  fromDepot l 1 0 s fun s =>
    match s.findReq tid false with
    | none => .next s
    | some q =>
      if !s.sameEpoch l epoch then .next s
      else if status ≠ 0 then .next (s.refused q)
      else .next (s.reqDone q)

def execDerr (l : LinkNo) (tid : Word) (_status : Byte) (s : State) : Res :=
  fromDepot l 1 0 s fun s =>
    match s.reqs.find? fun q => q.tid == tid.toNat && q.sent with
    | none => .next (s.pullAgain l tid.toNat)
    | some q => .next (s.refused q)

/-- EPACK of the current epoch ends the link's part of the wait (R352). -/
def execEpack (l : LinkNo) (epoch : Byte) (s : State) : Res :=
  fromDepot l 1 0 s fun s =>
    if s.sameEpoch l epoch then .next (s.updLnk l fun k => { k with epackDue := false }).pumpReqs.pumpHands else .next s

/-- PTYPEs that a link of the module takes in. -/
def knownPtype (l : Nat) (p : Nat) : Bool :=
  if l < 48 then [0x21, 0x31, 0x34, 0x35, 0x41, 0x43].contains p else decide (1 ≤ p) && decide (p ≤ 7)

/-- A packet whose PTYPE the port does not know is discarded and counted; the pool that its slot tag names gets its
credits back, which is the MGT pool for CONTROL on a Sarros port (R333, R347, R354). A slot tag of 0 starts no packet. -/
def execUnknownPtype (l : LinkNo) (head : PacketHead) (s : State) : Res :=
  if !s.linkIn l || knownPtype l head.ptype.toNat || head.tag == 0 then .next s
  else .next ((s.received l (head.tag.toNat - 1) (64 * head.dflits.toNat)).count (Reg.LNK_CRCERR l) 0 32 1)

-- Inbound handoffs (R224, R350)

/-- The places of the bytes of a tag from an offset on: physical region, slice offset and bytes. A region outside the grid is U2. -/
def State.tagPlaces (s : State) (x : Inbound) (o n : Nat) : List (Nat × Nat × Nat × Nat) :=
  partsIn (x.parts.map fun p => (((s.physRegion p.1).elim 3 fun _ => 0), ((s.physRegion p.1).getD 0), p.2.1, p.2.2)) o n

/-- The bytes of a tag as they lie at its places. -/
def State.tagBytes (s : State) (x : Inbound) (n : Nat) : List Byte :=
  (s.tagPlaces x 0 n).flatMap fun p => Tab.getList 0 s.cellar (p.2.1 * celSpan + p.2.2.1) p.2.2.2

/-- The awaited tag that a handoff packet names. -/
def State.awaited (s : State) (jobtag step : DWord) (pitch sfrom sto : Nat) : Option (Inbound × HandBind) := do
  let st ← s.jobs.step
  let b ← st.old.getD (s.bindOf st.handle)
  let x ← st.inbound.find? fun x =>
    !x.checked && x.tagStep == step && x.pitch == pitch && x.from_ == sfrom && b.stretch == sto && b.jobtag == jobtag
  pure (x, b)

/-- When the bytes counted equal the BYTES of HEND, the CRC decides: the tag is written, or it is pulled once more, and
a second mismatch completes the RUN_PLAN LINK_DOWN (R350). -/
def State.checkTag (s : State) (x : Inbound) (b : HandBind) : State :=
  match x.total with
  | none => s.setInbound x
  | some (n, crc) =>
    if x.got < n then s.setInbound x
    else
      if x.got == n && crc32 (s.tagBytes x n) == crc then s.setInbound { x with checked := true }
      else if 2 ≤ x.pulls then
        match s.jobs.step with
        | some st => (s.setInbound x).finish st.ring 8 0x50 0
        | none => s
      else
        s.pullTag b { x with got := 0, total := none, pulls := x.pulls + 1, tries := 0 }

def execHdata (l : LinkNo) (epoch : Byte) (jobtag step : DWord) (pitch : BitVec 16) (sfrom sto : Byte) (daddr : DWord)
    (data : List Byte) (s : State) : Res :=
  fromDepot l 2 data.length s fun s =>
    match s.awaited jobtag step pitch.toNat sfrom.toNat sto.toNat with
    | none => .next s
    | some (x, b) =>
      if !s.sameEpoch l epoch then .next s
      else
        let places := s.tagPlaces x daddr.toNat data.length
        if places.any fun p => p.1 == 3 then undef .u2
        else ((s.storeParts data places).bind' fun s => .ok (s.checkTag { x with got := x.got + data.length } b)).res

def execHend (l : LinkNo) (epoch : Byte) (jobtag step : DWord) (pitch : BitVec 16) (sfrom sto : Byte) (bytes crc : Word)
    (s : State) : Res :=
  fromDepot l 0 0 s fun s =>
    match s.awaited jobtag step pitch.toNat sfrom.toNat sto.toNat with
    | none => .next s
    | some (x, b) =>
      if !s.sameEpoch l epoch then .next s else .next (s.checkTag { x with total := some (bytes.toNat, crc) } b)

end Sys2Proof.Machine
end

