-- ==== Sys2Proof/Machine/Stream.lean ====
section
/-! DEFINITION. The stream unit: point records and the point table, channels, windows and their seal, the cadence,
actuation and holdover, queues of the stream pool and pool modes (R295 to R330). -/

namespace Sys2Proof.Machine

-- The point table (R296)

structure PtEnt where
  v : BitVec 128
  deriving DecidableEq, Repr

namespace PtEnt
def bits (e : PtEnt) (lo n : Nat) : Nat := e.v.toNat / 2 ^ lo % 2 ^ n
def id (e : PtEnt) : Nat := e.bits 0 24
def fmt (e : PtEnt) : Nat := e.bits 24 4
def valid (e : PtEnt) : Bool := e.v.getLsbD 31
def ch (e : PtEnt) : Nat := e.bits 32 4
def slot (e : PtEnt) : Nat := e.bits 36 17
def stale (e : PtEnt) : Nat := e.bits 56 8
def offset (e : PtEnt) : Word := BitVec.ofNat 32 (e.bits 64 32)
def scale (e : PtEnt) : Word := BitVec.ofNat 32 (e.bits 96 16)
def fallback (e : PtEnt) : Word := BitVec.ofNat 32 (e.bits 112 16)
end PtEnt

/-- Bytes of an entry without the reserved bits, which read 0 (R17, R296). -/
def pointMask : BitVec 128 := ~~~(BitVec.ofNat 128 (7 * 2 ^ 28 + 7 * 2 ^ 53))

def State.point (s : State) (i : Nat) : PtEnt := ⟨Tab.get 0 s.points i⟩

-- Channels (R330)

def State.ingOn (s : State) (c : Nat) : Bool := tst (s.reg (Reg.GLB_INGCTL c)) 0
def State.actOn (s : State) (a : Nat) : Bool := tst (s.reg (Reg.GLB_ACTCTL a)) 0
def State.ingSlots (s : State) (c : Nat) : Nat := max 1 (min 131072 (s.regF (Reg.GLB_INGCFG c) 0 18))
/-- 0 BINARY32, 1 BFLOAT16, 2 INT8, 3 INT16. -/
def State.ingElem (s : State) (c : Nat) : Nat := s.regF (Reg.GLB_INGCFG c) 18 2

def elemSize : Nat → Nat
  | 0 => 4
  | 2 => 1
  | _ => 2

def State.actMax (s : State) (a : Nat) : Nat := (max 64 (min 262144 (s.regF (Reg.GLB_ACTCFG a) 0 19)) + 63) / 64 * 64

/-- The ring bound to an ingest or actuation channel (R272). -/
def State.ingRing (s : State) (c : Nat) : Option Nat := (List.range 64).find? fun r => (s.ring r).ingest.getLsbD c
def State.actRing (s : State) (a : Nat) : Option Nat := (List.range 64).find? fun r => (s.ring r).actuate.getLsbD a
def RingSt.bound (x : RingSt) : Bool := x.ingest != 0 || x.actuate != 0

def State.act (s : State) (a : Nat) : ActSt := Tab.get {} s.strm.acts a
def State.setAct (s : State) (a : Nat) (x : ActSt) : State := { s with strm := { s.strm with acts := Tab.set {} s.strm.acts a x } }

abbrev slotKey (c i : Nat) : Nat := c * 131072 + i

-- Conversion (R298, R299)

/-- The raw value in binary32; none for a reserved input format. -/
def toBinary32 (fmt : Nat) (raw : Word) : Option Word :=
  match fmt with
  | 0 => some (intToF raw.toInt)
  | 1 => some (intToF raw.toNat)
  | 2 => some (intToF (raw.setWidth 16).toInt)
  | 3 => some (intToF (raw.toNat % 2 ^ 16 : Nat))
  | 4 => some raw
  | 5 => some (bf16In (raw &&& 0xFFFF))
  | 6 => some (if raw.getLsbD 0 then 0x3F800000 else 0)
  | _ => none

/-- An integer element: to nearest, ties to even, saturating; a NaN gives 0. -/
def toIntElem (n : Nat) (y : Word) : Word :=
  match decode32 y with
  | .nan => 0
  | .inf neg => BitVec.ofInt 32 (if neg then -2 ^ (n - 1) else 2 ^ (n - 1) - 1)
  | .fin neg m e => BitVec.ofInt 32 (clampInt (-2 ^ (n - 1)) (2 ^ (n - 1) - 1) (toIntRne neg m e))

def toElem (elem : Nat) (y : Word) : Word :=
  match elem with
  | 0 => canon y
  | 1 => bf16Out y
  | 2 => toIntElem 8 y
  | _ => toIntElem 16 y

/-- A record's value in the channel's format, or none when it is dropped. -/
def PtEnt.convert (e : PtEnt) (raw : Word) (elem : Nat) : Option Word :=
  match toBinary32 e.fmt raw with
  | none => none
  | some v =>
    let y := fMul (fSub v e.offset) (bf16In e.scale)
    if isNan32 v || isNan32 y then none else some (toElem elem y)

-- Point records (R295, R297, R300, R301, R303)

/-- A matched record is dropped. -/
def State.ingestDrop (s : State) (c : Nat) : State :=
  (s.count (Reg.GLB_INGDROP c) 0 32 1).postCoal 0x0504 (src 6 c) 1 fun n => [(0, n)]

/-- The first count PHASE + k × 100 × PERIOD_US at or after a count. -/
def Cadence.firstAt (c : Cadence) (t : Nat) : Nat :=
  let step : Int := 100 * c.period
  let p : Int := c.phase.toNat
  (p + (((t : Int) - 1 - p) / step + 1) * step).toNat

/-- The least count at which a new cadence may tick (R309). -/
def State.newFrom (s : State) (a : DWord) : Nat := max a.toNat (s.strm.lastTick.toNat + milli)

/-- The earlier of two moments, with whether it belongs to the new cadence. -/
def firstOf (old new : Option (Nat × Cadence)) : Option (Nat × Cadence × Bool) :=
  match old, new with
  | some a, some b => some (if b.1 ≤ a.1 then (b.1, b.2, true) else (a.1, a.2, false))
  | some a, none => some (a.1, a.2, false)
  | none, some b => some (b.1, b.2, true)
  | none, none => none

/-- The scheduled count of the next tick of the time counter, and the cadence that it belongs to. -/
def State.nextTick (s : State) : Option (Nat × Cadence × Bool) :=
  firstOf ((s.strm.cad.filter fun c => !c.pin).map fun c => (c.firstAt (s.strm.lastTick.toNat + 1), c))
    ((s.strm.newCad.filter fun c => !c.1.pin).map fun c => (c.1.firstAt (s.newFrom c.2), c.1))

/-- Count in sixteenths at which a pin cadence ticks without an edge, and its cadence (R309, R311). -/
def State.pinDue (s : State) : Option (Nat × Cadence × Bool) :=
  firstOf ((s.strm.cad.filter fun c => c.pin).map fun c =>
      (16 * s.strm.lastTick.toNat + (if s.strm.fallback then 1600 else 1700) * c.period, c))
    ((s.strm.newCad.filter fun c => c.1.pin).map fun c =>
      (max (16 * s.newFrom c.2) (16 * c.2.toNat + 1700 * c.1.period), c.1))

/-- The count of the tick that closes the open window has been reached. -/
def State.tickReached (s : State) : Bool :=
  (s.nextTick.elim false fun x => decide (x.1 ≤ s.now.toNat)) || s.pinDue.elim false fun x => decide (x.1 ≤ 16 * s.now.toNat)

/-- The entry that a record finds: from the count of the tick on, the committed one (R302). -/
def State.pointNow (s : State) (i : Nat) : PtEnt :=
  match s.strm.commit with
  | some (j, v) => if j = i ∧ s.tickReached then ⟨v &&& pointMask⟩ else s.point i
  | none => s.point i

def State.pointRecord (s : State) (id : Nat) (raw : Word) : Flow :=
  let e := s.pointNow (id % 131072)
  if !e.valid || e.id != id then .ok (s.count Reg.GLB_STRMISS 0 32 1)
  else if !s.ingOn e.ch then .ok (s.ingestDrop e.ch)
  else if s.ingSlots e.ch ≤ e.slot then .error (.undef .u2)
  else
    match e.convert raw (s.ingElem e.ch) with
    | none => .ok (s.ingestDrop e.ch)
    | some v =>
      let k := slotKey e.ch e.slot
      let x : SlotSt := if s.tickReached then { Tab.get {} s.strm.slots k with early := some v } else ⟨v, s.strm.window, true, none⟩
      .ok { s with strm := { s.strm with slots := Tab.set {} s.strm.slots k x } }

/-- A STREAM packet: its point records in order. A packet of another SKIND brings the device nothing. -/
def execStream (p : PortNo) (skind : Byte) (recs : List (BitVec 24 × Word)) (s : State) : Res :=
  if !s.linkIn (portLink p) then .next s
  else
    let s := s.received (portLink p) 3 (8 * recs.length)
    if skind ≠ 0 then .next s else Flow.res (foldFlow (fun s r => s.pointRecord r.1.toNat r.2) s recs)

-- The seal (R304 to R307)

/-- The valid entries that name slots of a channel, the lowest index of each. -/
def State.namedSlots (s : State) (c : Nat) : Tab PtEnt :=
  s.points.foldl
    (fun t p =>
      let e : PtEnt := ⟨p.2⟩
      if e.valid && e.ch == c && e.slot < s.ingSlots c && (Tab.get ⟨0⟩ t e.slot).v == 0 then Tab.set ⟨0⟩ t e.slot e else t)
    []

/-- Value of a slot in window n, and whether it counts as stale. -/
def sealSlot (n : Word) (elem : Nat) (e : PtEnt) (x : SlotSt) : Word × Bool :=
  if !e.valid then (0, false)
  else
    let fb := toElem elem (bf16In e.fallback)
    if x.ever then
      if e.stale = 0 ∨ (n - x.last).toNat < e.stale then (x.val, false) else (fb, true)
    else (fb, decide (1 ≤ e.stale))

structure Sealed where
  bytes : List Byte
  stale : Nat
  deriving DecidableEq, Repr

/-- The window packet of a channel; a slot that accepted a value in the window is fresh. -/
def State.sealChannel (s : State) (c : Nat) (n : Word) (wflags : Byte) : Sealed :=
  let named := s.namedSlots c
  let elem := s.ingElem c
  let slots := s.ingSlots c
  let st (i : Nat) : SlotSt := Tab.get {} s.strm.slots (slotKey c i)
  let vals := (List.range slots).map fun i => sealSlot n elem (Tab.get ⟨0⟩ named i) (st i)
  let fresh := (List.range slots).countP fun i => (st i).ever && (st i).last == n
  let stale := vals.countP (·.2)
  let body := vals.flatMap fun v => toLe (elemSize elem) v.1.toNat
  let head := toLe 4 n.toNat ++ toLe 4 slots ++ toLe 8 s.strm.lastTick.toNat
    ++ [BitVec.ofNat 8 elem, wflags] ++ toLe 2 c ++ toLe 4 fresh ++ toLe 4 stale ++ List.replicate 36 0
  ⟨head ++ body ++ List.replicate ((64 - body.length % 64) % 64) 0, stale⟩

/-- Header of a packet for a channel that has none in a window: SLOTS 0 (R307). -/
def State.emptyPacket (s : State) (c : Nat) (w : WinSt) : List Byte :=
  toLe 4 w.num.toNat ++ toLe 4 0 ++ toLe 8 w.tick.toNat ++ [BitVec.ofNat 8 (s.ingElem c), w.flags] ++ toLe 2 c ++ List.replicate 44 0

/-- Seal the open window on every enabled channel in ascending order. -/
def State.seal (s : State) (pin gen : Bool) : State :=
  let n := s.strm.window
  let w0 : WinSt := { num := n, tick := s.strm.lastTick, flags := BitVec.ofNat 8 (b2n s.clk.drift + 2 * b2n pin + 4 * b2n gen), holds := [], used := false, packets := [], cut := [], bad := [] }
  let r := ((List.range 16).filter s.ingOn).foldl
    (fun (a : State × WinSt) c =>
      let x := s.sealChannel c n w0.flags
      let t := if x.stale = 0 then a.1 else
        (a.1.count (Reg.GLB_INGSTALE c) 0 32 x.stale).postCoal 0x0503 (src 6 c) x.stale fun k => [(0, k), (4, n.toNat)]
      (t, { a.2 with packets := a.2.packets ++ [(c, x.bytes)] }))
    (s, w0)
  let next (_ : Nat) (x : SlotSt) : SlotSt := x.early.elim x fun v => ⟨v, n + 1, true, none⟩
  { r.1 with strm := { r.1.strm with
    wins := r.1.strm.wins ++ [r.2], window := n + 1, slots := Tab.mapVals {} next r.1.strm.slots } }

/-- Closed windows that no step holds are freed, and counted when no step has read them (R307). -/
def State.freeUnread (s : State) : State :=
  let n := s.strm.wins.countP fun w => w.holds.isEmpty && !w.used
  let s := s.count Reg.GLB_WINSKIP 0 32 n
  { s with strm := { s.strm with wins := s.strm.wins.filter fun w => !w.holds.isEmpty } }

/-- End the holds that `p` names: the packets on the queues of their rings are freed. -/
def WinSt.drop (w : WinSt) (p : Nat × BitVec 16 × Bool → Bool) : WinSt :=
  let gone (c : Nat) : Bool := w.holds.any fun h => p h && h.2.1.getLsbD c
  let out := (w.packets.map (·.1)).filter fun c => gone c && !w.cut.contains c
  { w with holds := w.holds.filter fun h => !p h, packets := w.packets.filter fun x => !gone x.1, cut := w.cut ++ out }

/-- A ring's queues of a held window are freed once its step's record is written; the held-input records are valid by
then (R307, R168). -/
def execWindowFree (win : Word) (s : State) : Res :=
  .next { s with strm := { s.strm with wins := s.strm.wins.map fun w => if w.num = win then w.drop (·.2.2) else w } }

/-- Apply a committed entry after the freeze (R302). A value that the new window has accepted by then came through it. -/
def State.applyCommit (s : State) : State :=
  match s.strm.commit with
  | none => s
  | some (i, v) =>
    let old := s.point i
    let e : PtEnt := ⟨v⟩
    let k := slotKey e.ch e.slot
    let x := Tab.get {} s.strm.slots k
    let slots := if old.ch = e.ch ∧ old.slot = e.slot then s.strm.slots
      else Tab.set {} s.strm.slots k { x with ever := x.ever && x.last == s.strm.window }
    { s.setRegF Reg.GLB_PTCMT 30 1 0 with
      points := Tab.set 0 s.points i (v &&& pointMask)
      strm := { s.strm with commit := none, slots := slots } }

/-- A write of GLB_PTCMT: INDEX, and GO unless BUSY (R302). The staged words are taken at GO (DEDUCED, see the log). -/
def execPtcmtGo (_p : PortNo) (v : Word) (s : State) : Res :=
  if !s.reach Reg.GLB_PTCMT then .next s
  else
    let s := s.writeRw Reg.GLB_PTCMT v
    if !tst v 31 || s.strm.commit.isSome then .next s
    else
      let e := ofLe ((List.range 4).flatMap fun k => toLe 4 (s.reg (Reg.GLB_PTSTG k)).toNat)
      let s := s.setRegF Reg.GLB_PTCMT 30 1 1
      .next { s with strm := { s.strm with commit := some (fld v 0 17, BitVec.ofNat 128 e) } }

-- Actuation (R315 to R318)

/-- An actuation frame on its port, or on the other when that is down. -/
def State.sendFrame (s : State) (a : Nat) (d : List Byte) : State :=
  let want := s.regF (Reg.GLB_ACTCFG a) 20 1
  let go (s : State) (p : Nat) : State :=
    (pieces d.length).foldl
      (fun s x => s.send (portLink p) 3 x.2 (.frag p a x.1 (decide (d.length ≤ x.1 + x.2)) ((d.drop x.1).take x.2))) s
  if s.linkUp (portLink want) then go s want
  else if s.linkUp (portLink (1 - want)) then go s (1 - want)
  else s.count (Reg.GLB_ACTCNT a) 24 8 1

def State.actFrame (s : State) (a : Nat) (x : Option ActItem) (hold skip : Bool) : List Byte :=
  let i := x.getD { win := 0, seq := 0, bytes := [], trunc := false, pkts := 0, cells := 0, bad := [] }
  let flags := b2n hold + 2 * b2n x.isNone + 4 * b2n i.trunc + 8 * b2n s.clk.drift + 16 * b2n skip
  [BitVec.ofNat 8 a, BitVec.ofNat 8 flags, 0, 0] ++ toLe 4 i.win.toNat ++ toLe 8 s.strm.lastTick.toNat ++ toLe 4 i.bytes.length
    ++ toLe 4 i.seq.toNat ++ toLe 4 (s.act a).under.toNat ++ [0, 0, 0, 0] ++ i.bytes

/-- Control and count registers of a pool: 0 the stream pool, n + 1 that of slab n (R328, R330). -/
def poolReg (pool : Nat) : Nat := if pool = 0 then Reg.GLB_SPOOL else Reg.SLB_POOL (pool - 1)
def poolCe (pool : Nat) : Nat := if pool = 0 then Reg.GLB_SPOOLCE else Reg.SLB_POOLCE (pool - 1)
def poolUe (pool : Nat) : Nat := if pool = 0 then Reg.GLB_SPOOLUE else Reg.SLB_POOLUE (pool - 1)

/-- A poisoned delivery of a pool (R327). -/
def State.poolPoison (s : State) (pool q : Nat) : State := (s.count (poolUe pool) 0 32 1).report (.poison (BitVec.ofNat 16 q))

/-- Read words of a pool: under parity an odd number of wrong bits poisons the word; under SECDED one is corrected and
counted, and two poison it. The answer tells whether the delivery is poisoned. No row of the table upsets a word, so the
lists that this reads stay empty (DESIGN CHOICE, see the assumption log). -/
def State.poolRead (s : State) (pool q : Nat) (words : List (Nat × Nat)) : State × Bool :=
  if words.isEmpty then (s, false)
  else if s.regF (poolReg pool) 0 1 = 1 then
    let s := s.count (poolCe pool) 0 32 (words.countP fun w => w.2 == 1)
    if words.any fun w => w.2 != 1 then (s.poolPoison pool q, true) else (s, false)
  else if words.any fun w => w.2 % 2 == 1 then (s.poolPoison pool q, true) else (s, false)

/-- One enabled channel at a tick (R316). -/
def State.actuate (s : State) (a : Nat) : State :=
  let x := s.act a
  let fresh (i : ActItem) : Bool :=
    let d := (i.win - s.reg (Reg.GLB_ACTLAST a)).toNat
    !x.emitted || (decide (1 ≤ d) && decide (d < 2 ^ 31))
  let holdover (s : State) (skip : Bool) : State :=
    let x := s.act a
    let lost := (x.hold.map fun i => i.bad.any fun w => w.2 != 1).getD false
    let s := if lost then s.setReg (Reg.GLB_ACTLAST a) s.strm.window else s
    let s := s.setAct a { x with item := none, hold := if lost then none else x.hold, under := x.under + 1 }
    let s := (s.setRegF (Reg.GLB_ACTCTL a) 9 1 1).setRegF (Reg.GLB_ACTCTL a) 11 1 1
    let s := s.count (Reg.GLB_ACTCNT a) 0 16 1
    let s := match s.actRing a with
      | some r => s.updRing r fun y => { y with underrun := true }
      | none => s
    let s := s.postCoal 0x0501 (src 5 a) 1 fun n => [(0, n)]
    s.sendFrame a (s.actFrame a (s.act a).hold true skip)
  match x.item with
  | none => holdover s false
  | some i =>
    if !fresh i then holdover (s.count (Reg.GLB_ACTCNT a) 16 8 1) false
    else
      let p := s.poolRead 0 (16 + a) i.bad
      if p.2 then holdover ((p.1.setRegF (Reg.GLB_ACTCTL a) 10 1 1).count (Reg.GLB_ACTCNT a) 16 8 1) true
      else
      let s := p.1
      let s := s.setAct a { x with item := none, hold := some { i with bad := [] }, emitted := true }
      let s := (s.setReg (Reg.GLB_ACTLAST a) i.win).setRegF (Reg.GLB_ACTCTL a) 11 1 0
      s.sendFrame a (s.actFrame a (some i) false false)

-- Pool modes (R328)

/-- Queue numbers of slab queues (R319). -/
def slabQueue (q : Nat) : Option (Nat × Nat) :=
  if 0x1000 ≤ q ∧ q < 0x1C00 then some ((q - 0x1000) / 256, q % 256) else none

/-- Cells that a packet holds: those whose bytes have all been read are free again (DESIGN CHOICE, see the assumption log). -/
def pktCells (p : QPkt) : Nat := (p.bytes.length + 63) / 64 - p.pos / 64

def State.poolCells (s : State) (pool : Nat) : Nat :=
  if pool = 0 then
    (s.strm.wins.map fun w => (w.packets.map fun p => (p.2.length + 63) / 64).sum).sum
      + (s.strm.acts.map fun a => ((a.2.item.map (·.cells)).getD 0)).sum
      + (s.strm.staged.map pktCells).sum + s.clk.beacons.length
  else (s.strm.packets.map fun p => if slabQueue p.queue |>.elim false (·.1 == pool - 1) then pktCells p else 0).sum

def State.poolChange (s : State) (pool : Nat) : State :=
  if s.regF (poolReg pool) 0 1 ≠ s.regF (poolReg pool) 1 1 ∧ s.poolCells pool = 0 then
    s.setRegF (poolReg pool) 0 1 (s.regF (poolReg pool) 1 1)
  else s

/-- Firmware asks for ECC, or for PARITY, in every slab pool (R328). -/
def State.slabPools (s : State) (ecc : Bool) : State :=
  (List.range 12).foldl (fun s sl => (s.setRegF (Reg.SLB_POOL sl) 1 1 (b2n ecc)).poolChange (sl + 1)) s

def execPoolModeChange (pool : Fin 13) (s : State) : Res := .next (s.poolChange pool)

/-- A write of REQ: the mode follows once the pool holds no cell. -/
def execPoolModeRequest (_p : PortNo) (pool : Fin 13) (v : Word) (s : State) : Res :=
  if !s.reach (poolReg pool) then .next s else .next ((s.writeRw (poolReg pool) v).poolChange pool)

-- The tick (R38 to R43, R303, R308, R313, R316)

def State.streamStep (s : State) : Bool := (s.jobs.step.map fun st => st.window.isSome).getD false

/-- A slipped tick leaves a pending tick on each bound ring that held no RUN_PLAN (R39). -/
def State.pendTicks (s : State) : State :=
  (List.range 64).foldl
    (fun s r => if (s.ring r).bound && !s.jobs.tickQ.contains r then s.updRing r fun x => { x with pendTick := true } else s) s

/-- Held RUN_PLANs go to the grant queue ahead of the rest (R32, R312). -/
def State.releaseHeld (s : State) : State :=
  let q := s.jobs.tickQ
  let s := q.foldl
    (fun s r =>
      (s.setRegF (Reg.RNG_STATE r) 3 1 0).updRing r fun x => { x with out := x.out.map fun o => { o with prog := .queued } }) s
  { s with jobs := { s.jobs with tickQ := [], ahead := s.jobs.ahead ++ q } }

/-- Steps released since the last tick have their outputs emitted by this one (R278). -/
def State.markEmitted (s : State) : State :=
  (List.range 64).foldl
    (fun s r =>
      match (s.ring r).out with
      | some o => if o.relAt.isSome && o.emitTick.isNone then
          s.updRing r fun x => { x with out := some { o with emitTick := some s.strm.lastTick } } else s
      | none => s) s

/-- This tick follows the one that closed the window of a step not yet released (R314). -/
def State.markMissed (s : State) : State :=
  match s.jobs.step with
  | some st =>
    if st.window.isSome && st.window != some s.strm.window then
      s.updRing st.ring fun x => { x with out := x.out.map fun o =>
        if o.relAt.isNone && o.missTick.isNone then { o with missTick := some s.strm.lastTick } else o }
    else s
  | none => s

/-- CADENCE_SLIP: the newest window and the largest slip of the coalesced occurrences (R287, R313). -/
def State.postSlip (s : State) (w : Word) (us : Nat) : State :=
  let key := 0x0502 * 65536
  let put (s : State) (c : Coal) : State := { s with jobs := { s.jobs with coal := Tab.set none s.jobs.coal key (some c) } }
  match Tab.get none s.jobs.coal key with
  | some c =>
    if (s.now - c.at_).toNat < second then put s { c with extra := max c.extra us }
    else put (s.post 0x0502 srcModule [(0, w.toNat), (4, max c.extra us)]) ⟨s.now, 0, 0⟩
  | none => put (s.post 0x0502 srcModule [(0, w.toNat), (4, us)]) ⟨s.now, 0, 0⟩

/-- A cadence tick: `pin` came from CADENCE_IN, `gen` was generated under R311, `forward` is the single tick of a forward
step of the counter, which is no slip (R434). Its count is `t`, which the capture of an edge settles (R486). -/
def State.tick (s : State) (t : DWord) (pin gen forward : Bool) : State :=
  let n := s.strm.window
  let slipped := !forward && (s.streamStep || s.resil.restart.isSome)
  let s := if gen then s.count Reg.GLB_CADSLIP 0 32 1 |>.postSlip n (((s.strm.cad.map (·.period)).getD 0) / 16) else s
  let s := if slipped then s.count Reg.GLB_CADSLIP 0 32 1 else s
  let s := { s with strm := { s.strm with
    lastTick := t
    slip := if slipped then some (n, s.strm.slip.elim t fun x => x.2) else s.strm.slip } }
  let s := s.markEmitted.markMissed
  let s := ((List.range 8).filter s.actOn).foldl State.actuate s
  let s := (s.freeUnread.poolChange 0).seal pin gen
  let s := if slipped then s.applyCommit.pendTicks else s.applyCommit
  s.releaseHeld

-- Cadence (R308, R309, R311)

def State.adopt (s : State) (c : Cadence) : State :=
  { s with strm := { s.strm with cad := some c, newCad := none, fallback := false } }

/-- A tick whose scheduled count has been reached. -/
def State.dueTick (s : State) (forward : Bool) : State :=
  match s.nextTick with
  | some (t, c, new) =>
    if s.dev.base != .off && decide (t ≤ s.now.toNat) then
      (if new then s.adopt c else s).tick s.now false false forward
    else s
  | none => s

def execCadenceTick (s : State) : Res := .next (s.dueTick false)

def execPinFallbackTick (s : State) : Res :=
  match s.pinDue with
  | some (t, c, new) =>
    if s.dev.base != .off && decide (t ≤ 16 * s.now.toNat) then
      let s := if new then s.adopt c else s
      .next (({ s with strm := { s.strm with fallback := true } }).tick s.now false true false)
    else .next s
  | none => .next s

-- Enables (R320)

def State.ingCells (s : State) (c : Nat) : Nat := 2 * ((64 + s.ingSlots c * elemSize (s.ingElem c) + 63) / 64)
def State.actCells (s : State) (a : Nat) : Nat := 2 * s.actMax a / 64

/-- Cells reserved by the enabled channels and the time-beacon queue. -/
def State.reservedCells (s : State) : Nat :=
  16 + (((List.range 16).filter s.ingOn).map s.ingCells).sum + (((List.range 8).filter s.actOn).map s.actCells).sum

/-- Give ENABLE its value in a control register when the cells allow it. -/
def State.enableChan (s : State) (a cells : Nat) : State × Bool :=
  if 65536 < s.reservedCells + cells then ((s.setRegF a 0 1 0).setRegF a 1 1 1, false)
  else ((s.setRegF a 0 1 1).setRegF a 1 1 0, true)

/-- A write of GLB_INGCTL; no slot of a channel just enabled has a value yet (R304). -/
def execIngestEnable (_p : PortNo) (ch : Fin 16) (v : Word) (s : State) : Res :=
  let a := Reg.GLB_INGCTL ch
  if !s.reach a then .next s
  else if !tst v 0 then .next (s.setRegF a 0 1 0)
  else if s.ingOn ch then .next s
  else
    let r := s.enableChan a (s.ingCells ch)
    let forget (k : Nat) (x : SlotSt) : SlotSt := if k / 131072 = ch.val then { x with ever := false } else x
    .next (if r.2 then { r.1 with strm := { r.1.strm with slots := Tab.mapVals {} forget r.1.strm.slots } } else r.1)

/-- A write of GLB_ACTCTL, whose UNDERRUN and POISONSKIP clear where 1 is written. -/
def execActuationEnable (_p : PortNo) (ch : Fin 8) (v : Word) (s : State) : Res :=
  let a := Reg.GLB_ACTCTL ch
  if !s.reach a then .next s
  else
    let s := s.setReg a (s.reg a &&& ~~~(v &&& 0x600))
    if !tst v 0 then .next ((s.setRegF a 0 1 0).setAct ch { s.act ch with item := none })
    else if s.actOn ch then .next s
    else
      let r := s.enableChan a (s.actCells ch)
      .next (if r.2 then r.1.setAct ch {} else r.1)

-- Flush (R325)

def qctlReg (q : Nat) : Option Nat :=
  if q ≤ 0x18 then some (Reg.GLB_QCTL q) else (slabQueue q).map fun x => Reg.SLB_QCTL x.1 x.2

/-- The rest of an open packet of a queue is discarded, whichever queue the port is bound to meanwhile. -/
def Cluster.dropRest (c : Cluster) (q : Nat) : Cluster := if c.wrDrop.contains q then c else { c with wrDrop := c.wrDrop ++ [q] }

/-- Producers inside a packet that a reader drops or a FLUSH cuts lose the rest of it (R324, R325). -/
def State.cutProducers (s : State) (l : List QPkt) : State :=
  (l.filter fun p => !p.ended).foldl (fun s p => s.updCl p.prod fun c => c.dropRest p.queue) s

/-- Packets whose producers abandon them end with a truncation mark, behind those visible before them, or are removed when they
have no bytes (R321, R326). -/
def cutOpen (f : QPkt → Bool) (l : List QPkt) : List QPkt :=
  let cut (p : QPkt) : QPkt := if f p && !p.ended then { p with ended := true, trunc := true, visible := true } else p
  let late (p : QPkt) : Bool := f p && !p.ended && !p.visible
  ((l.filter fun p => !late p) ++ l.filter fun p => late p && !p.bytes.isEmpty).map cut

/-- A reader inside a packet sees END and TRUNC at its position; one whose first read of it waits for bytes is inside it. -/
def cutPacket (p : QPkt) : Option QPkt :=
  if p.reader.isSome then some { p with bytes := [], pos := 0, ended := true, trunc := true, visible := true }
  else none

def State.flushQueue (s : State) (q : Nat) : State :=
  if q < 0x10 then
    { s with strm := { s.strm with wins := s.strm.wins.map fun w =>
      { w with cut := if w.cut.contains q then w.cut else w.cut ++ [q], packets := w.packets.filter fun p => p.1 != q } } }
  else if q < 0x18 then
    let mine := s.strm.staged.filter fun p => p.queue == q
    let s := (s.cutProducers mine).setAct (q - 16) { s.act (q - 16) with item := none }
    { s with strm := { s.strm with staged := s.strm.staged.filter fun p => p.queue != q } }
  else if q = 0x18 then { s with clk := { s.clk with beacons := [] } }
  else
    let mine := s.strm.packets.filter fun p => p.queue == q
    let s := s.cutProducers mine
    { s with strm := { s.strm with packets := s.strm.packets.filterMap fun p => if p.queue = q then cutPacket p else some p } }

/-- Writers that wait for a cell of a slab pool, and readers that wait on a queue, issue again. -/
def State.wakeWriters (s : State) (slab : Nat) : State :=
  s.unstall (fun i w => decide (w = .qwr) && ((s.cl i).wrQueue.bind fun q => slabQueue q.toNat).elim false (·.1 == slab)) false

def State.wakeReaders (s : State) (q : Nat) : State :=
  s.unstall (fun i w => decide (w = .qrd) && (s.cl i).rdQueue.elim false (·.toNat == q)) false

/-- The clusters of a region are reset: they abandon the packets that they have open, and the readers of these go on (R326). -/
def State.abandonPackets (s : State) (r : Nat) : State :=
  let mine (p : QPkt) : Bool := siteRegion p.prod == r
  let open_ := s.strm.packets.filter fun p => mine p && !p.ended
  let s := { s with strm := { s.strm with staged := cutOpen mine s.strm.staged, packets := cutOpen mine s.strm.packets } }
  open_.foldl (fun s p => s.wakeReaders p.queue) s

/-- Cores that wait on a flushed queue, or for a cell of its pool, issue again. -/
def State.wakeFlushed (s : State) (q : Nat) : State :=
  (s.wakeReaders q).wakeWriters (((slabQueue q).map (·.1)).getD 12)

/-- A write of a queue control register: CT, and FLUSH, which is done at once. -/
def execFlush (_p : PortNo) (q : BitVec 16) (v : Word) (s : State) : Res :=
  match qctlReg q.toNat with
  | none => .next s
  | some a =>
    if !s.reach a then .next s
    else
      let s := s.writeRw a v
      .next (if tst v 16 then (s.flushQueue q.toNat).wakeFlushed q.toNat else s)

end Sys2Proof.Machine
end

