-- ==== Sys2Proof/Machine/Queue.lean ====
section
/-! DEFINITION. The queue ports of a cluster: packets of the slab queues, ingest windows and their held-input records,
and staged actuation packets (R119, R168, R169, R315, R319 to R327, R370). -/

namespace Sys2Proof.Machine

/-- A queue of R319. -/
def queueOk (q : Nat) : Bool := decide (q ≤ 0x18) || (slabQueue q).isSome

/-- Cut-through threshold of a queue (R321, R330). -/
def State.cutThrough (s : State) (q : Nat) : Nat :=
  (max 64 (min 4096 (((qctlReg q).map fun a => s.regF a 0 13).getD 64)) + 63) / 64 * 64

/-- QCOUNT of a queue: cells, and complete packets from bit 17 (R323, R330). What a FLUSH leaves for a reader inside a packet is
no packet of the queue. -/
def State.queueCount (s : State) (q : Nat) : Word :=
  let put (cells pkts : Nat) : Word := BitVec.ofNat 32 (min cells 131071 + min pkts 32767 * 2 ^ 17)
  if q < 0x10 then
    let l := s.strm.wins.flatMap fun w => w.packets.filter fun p => p.1 == q
    put ((l.map fun p => (p.2.length + 63) / 64).sum) l.length
  else if q < 0x18 then
    let l := s.strm.staged.filter fun p => p.queue == q
    let i := (s.act (q - 16)).item
    put ((l.map pktCells).sum + (i.map (·.cells)).getD 0) (l.countP (·.ended) + (i.map (·.pkts)).getD 0)
  else if q = 0x18 then put s.clk.beacons.length s.clk.beacons.length
  else
    let l := s.strm.packets.filter fun p => p.queue == q
    put ((l.map pktCells).sum) (l.countP fun p => p.ended && !(p.trunc && p.bytes.isEmpty))

-- Binding

/-- QBIND binds the read or the write port; a number that names no queue is U2 (R119, R319). A binding of the read port starts the
position in an ingest queue's window, and its end, again (DESIGN CHOICE, see the assumption log). -/
def execQbind (c : SiteNo) (sa : BitVec 4) (wr : Bool) (s : State) : Res :=
  s.core c fun k =>
    let q : BitVec 16 := (k.s sa).setWidth 16
    if !queueOk q.toNat then undef .u2
    else if wr then s.fin c { k with wrQueue := some q }
    else s.fin c { k with rdQueue := some q, rdPos := 0, rdEnded := false }

-- Held-input records (R168, R169)

/-- The slot of a step in a region's ring, and whether the record that it takes overwrites one that is not free. -/
def RegionSt.heldSlotOf (g : RegionSt) (next slots : Nat) (step : DWord) : Nat × Bool :=
  let free : DWord := 0xFFFFFFFFFFFFFFFF
  match (List.range g.heldSteps.length).find? fun i => g.heldSteps[i]? == some step && step != free with
  | some i => (i, false)
  | none => (next % slots, (g.heldSteps[next % slots]?).elim false (· != free))

/-- A record as it lies in a slot; VALID and SIG are written last, once the step has read its last byte (R168). -/
def heldRecord (step tick : DWord) (win : Word) (plan ring : Nat) (mirror : Bool) (payload : List Byte) : List Byte :=
  toLe 8 step.toNat ++ toLe 8 tick.toNat ++ toLe 4 win.toNat ++ toLe 2 plan ++ [BitVec.ofNat 8 ring, BitVec.ofNat 8 (2 * b2n mirror)]
    ++ toLe 4 payload.length ++ List.replicate 36 0 ++ payload ++ List.replicate ((256 - payload.length % 256) % 256) 0

/-- Take the slot of the running step in a logical region. -/
def State.takeSlot (s : State) (lreg r : Nat) (st : StepSt) : State × Nat :=
  match st.heldSlot.find? fun e => e.1 == lreg with
  | some e => (s, e.2)
  | none =>
    let slots := max 1 (Hdr.heldSlots ⟨st.hdr⟩)
    let g := s.rg r
    let x := g.heldSlotOf (s.regF (Reg.RGN_CELHELD r) 0 16) slots st.step
    let fresh := (g.heldSteps[x.1]?) != some st.step
    let steps := setAt (g.heldSteps ++ List.replicate (x.1 + 1 - g.heldSteps.length) 0xFFFFFFFFFFFFFFFF) x.1 st.step
    let lost := if x.2 then g.heldLost ++ (g.heldSteps[x.1]?).toList else g.heldLost
    let s := s.setRg r { g with heldSteps := steps, heldLog := Tab.set [] g.heldLog x.1 [], heldLost := lost.filter (· != st.step) }
    let s := if fresh then s.setRegF (Reg.RGN_CELHELD r) 0 16 ((x.1 + 1) % slots) else s
    let s := if x.2 then
        let s := s.count (Reg.RGN_CELHELD r) 16 16 1
        { s with
          jobs := { s.jobs with forceCairn := true }
          resil := { s.resil with overrun := true, snap := s.resil.snap.map fun c => { c with covers := false } } }
      else s
    (s.updStep fun y => { y with heldSlot := y.heldSlot ++ [(lreg, x.1)] }, x.1)

/-- Bytes of the running step's record so far. -/
def State.heldSoFar (s : State) (r base : Nat) : List Byte :=
  Tab.getList 0 s.cellar (r * celSpan + base + 64) (ofLe (Tab.getList 0 s.cellar (r * celSpan + base + 24) 4))

/-- Add bytes that a cluster read to the region's record and to its mirror. -/
def State.heldAppend (s : State) (site : Nat) (w : WinSt) (d : List Byte) (qstat : Nat) : Flow :=
  match s.jobs.step, s.siteCluster site with
  | some st, some lc =>
    let lreg := lc / 64
    let h : Hdr := ⟨st.hdr⟩
    let mir := (lreg / 16 + 1) % s.rowsL * 16 + lreg % 16
    match s.physRegion lreg, s.physRegion mir with
    | some r, some rm =>
      let first := !(st.heldSlot.any fun e => e.1 == lreg)
      let (s, slot) := s.takeSlot lreg r st
      let base := h.heldBase + slot * h.heldSlot
      let pay := (if first then [] else s.heldSoFar r base) ++ d
      if h.heldSlot / 2 < 64 + (pay.length + 255) / 256 * 256 then .error (.undef .u1)
      else
        let s := s.updRg r fun g =>
          { g with heldLog := Tab.set [] g.heldLog slot (Tab.get [] g.heldLog slot ++ [(lc % 64, d.length, qstat)]) }
        (s.planWrite r base (heldRecord st.step w.tick w.num st.handle st.ring false pay)).bind' fun s =>
          s.planWrite rm (base + h.heldSlot / 2) (heldRecord st.step w.tick w.num st.handle st.ring true pay)
    | _, _ => .ok s
  | _, _ => .ok s

/-- Write VALID and SIG of a record and of its mirror. -/
def State.heldSeal (s : State) (h : Hdr) (e : Nat × Nat) : Flow :=
  let base := h.heldBase + e.2 * h.heldSlot
  let mir := (e.1 / 16 + 1) % s.rowsL * 16 + e.1 % 16
  match s.physRegion e.1, s.physRegion mir with
  | some r, some rm =>
    let sig := toLe 8 (crcFold 0 (s.heldSoFar r base)).toNat
    let m := base + h.heldSlot / 2
    (s.planWrite r (base + 32) sig).bind' fun s => (s.planWrite r (base + 23) [1]).bind' fun s =>
      (s.planWrite rm (m + 32) sig).bind' fun s => s.planWrite rm (m + 23) [3]
  | _, _ => .ok s

/-- The step has read its window to the last byte it will read: every record that it began becomes valid (R168). -/
def State.heldSealAll (s : State) (st : StepSt) : Flow := foldFlow (fun s e => s.heldSeal ⟨st.hdr⟩ e) s st.heldSlot

-- QRD

/-- Deliver bytes of a read into the handle's buffer and set QSTAT; a read of no bytes accesses nothing. -/
def State.deliverRead (s : State) (site : Nat) (h : BitVec 6) (off : Nat) (d : List Byte) (ended trunc poison : Bool)
    (k : State → Res) : Res :=
  let fin (s : State) : Res := k (s.setCl site ((s.cl site).setQstat ended trunc poison))
  if d.isEmpty then fin s else s.handleWrite site h off d fin

/-- The words with wrong bits in a range of n bytes. -/
def badIn (bad : List (Nat × Nat)) (pos n : Nat) : List (Nat × Nat) :=
  bad.filter fun w => decide (pos < 8 * w.1 + 8) && decide (8 * w.1 < pos + n)

/-- QRD on an ingest queue in a step that reads its window from the pool (R322, R325, R327). -/
def State.readWindow (s : State) (site : SiteNo) (h : BitVec 6) (off n q : Nat) (win : Word) : Res :=
  let k := s.cl site
  let none_ (trunc : Bool) : Res :=
    s.deliverRead site h off [] true trunc false fun s => s.fin site { s.cl site with rdEnded := true }
  match s.strm.wins.find? fun w => w.num == win with
  | none => none_ true
  | some w =>
    if w.cut.contains q then none_ true
    else if k.rdEnded then none_ false
    else
      let pkt := ((w.packets.find? fun p => p.1 == q).map (·.2)).getD (s.emptyPacket q w)
      let d := (pkt.drop k.rdPos).take n
      let ended := decide (pkt.length ≤ k.rdPos + d.length)
      let (s, poison) := s.poolRead 0 q (badIn ((w.bad.filter fun b => b.1 == q).map (·.2)) k.rdPos d.length)
      s.deliverRead site h off d ended false poison fun s =>
        let s := s.updCl site fun k => { k with rdPos := k.rdPos + d.length, rdEnded := ended }
        match s.heldAppend site w d (b2n ended + 4 * b2n poison) with
        | .ok s => s.fin site (s.cl site)
        | .error (.held s) => .next (s.stallCore site .heldAccess)
        | .error (.undef u) => undef u

/-- QRD on an ingest queue in a re-executed step: the bytes of the read that the record holds (R370). -/
def State.readHeld (s : State) (site : SiteNo) (h : BitVec 6) (off n : Nat) (st : StepSt) : Res :=
  let lc := s.ownNumber site
  let log := Tab.get [] st.heldLog (lc / 64)
  let pay := Tab.get [] st.held (lc / 64)
  let i := Tab.get 0 st.heldPos lc
  let mine := log.zipIdx.filter fun e => e.1.1 == lc % 64
  match mine[i]? with
  | none => s.deliverRead site h off [] true false false fun s => s.fin site (s.cl site)
  | some (e, j) =>
    let pos := ((log.take j).map fun x => x.2.1).sum
    let d := (pay.drop pos).take (min n e.2.1)
    let s := s.updStep fun y => { y with heldPos := Tab.set 0 y.heldPos lc (i + 1) }
    s.deliverRead site h off d (e.2.2 % 2 == 1) (e.2.2 / 2 % 2 == 1) (e.2.2 / 4 % 2 == 1) fun s => s.fin site (s.cl site)

/-- The packet that a reader has begun, or the first visible one without a reader, with its place in the list. -/
def State.currentPkt (s : State) (site q : Nat) : Option (QPkt × Nat) :=
  match s.strm.packets.zipIdx.find? fun p => p.1.queue == q && p.1.reader == some site with
  | some p => some p
  | none => s.strm.packets.zipIdx.find? fun p => p.1.queue == q && p.1.reader.isNone && p.1.visible

def State.setPackets (s : State) (l : List QPkt) : State := { s with strm := { s.strm with packets := l } }

/-- QRD on a slab queue (R320 to R322). The bytes that have arrived are delivered and their cells freed; the reader stalls until
all that it asked for, or the packet's end, has come. -/
def State.readSlab (s : State) (site : SiteNo) (h : BitVec 6) (off n q slab : Nat) : Res :=
  match s.currentPkt site q with
  | none => .next (s.stallCore site .qrd)
  | some (p, i) =>
    let part := (s.cl site).rdPart
    let d := (p.bytes.drop p.pos).take (n - part.1)
    let all := p.ended || decide (n ≤ part.1 + d.length)
    let ended := p.ended && decide (p.bytes.length ≤ p.pos + d.length)
    let (s, poison) := s.poolRead (slab + 1) q (badIn p.bad p.pos d.length)
    let go (s : State) : Res :=
      let s := s.setPackets (if ended then s.strm.packets.eraseIdx i
        else setAt s.strm.packets i { p with reader := some site.val, pos := p.pos + d.length })
      let s := if ended || !d.isEmpty then s.wakeWriters slab else s
      if all then s.fin site { (s.cl site).setQstat ended (ended && p.trunc) (part.2 || poison) with rdPart := (0, false) }
      else .next ((s.updCl site fun k => { k with rdPart := (part.1 + d.length, part.2 || poison) }).stallCore site .qrd)
    if d.isEmpty then go s else s.handleWrite site h (off + part.1) d go

/-- QRD reads up to sb bytes of the current packet into h + sa. A port that is not bound is a program fault. -/
def execQrd (c : SiteNo) (h : BitVec 6) (sa sb : BitVec 4) (s : State) : Res :=
  s.core c fun k =>
    let off := (k.s sa).toNat
    let n := (k.s sb).toNat
    match k.rdQueue with
    | none => s.stop c
    | some q =>
      match slabQueue q.toNat with
      | some (slab, _) => s.readSlab c h off n q.toNat slab
      | none =>
        if 0x10 ≤ q.toNat then s.deliverRead c h off [] true true false fun s => s.fin c (s.cl c)
        else
          match s.jobs.step with
          | none => s.deliverRead c h off [] true false false fun s => s.fin c (s.cl c)
          | some st =>
            match st.window with
            | none => s.deliverRead c h off [] true false false fun s => s.fin c (s.cl c)
            | some w => if st.reexec then s.readHeld c h off n st else s.readWindow c h off n q.toNat w

-- QWR

def newPacket (s : State) (q prod : Nat) : QPkt :=
  { queue := q, prod := prod, bytes := [], ended := false, trunc := false, reader := none, pos := 0, visible := false
    ct := s.cutThrough q, bad := [] }

/-- The place of a producer's open packet of a queue. -/
def openAt (l : List QPkt) (q prod : Nat) : Option (QPkt × Nat) :=
  l.zipIdx.find? fun p => p.1.queue == q && p.1.prod == prod && !p.1.ended

/-- Cells of a channel's reservation that its item and its other staged packets leave to a packet (R320). -/
def State.stagedRoom (s : State) (site q : Nat) : Nat :=
  let others := s.strm.staged.filter fun p => p.queue == q && !(p.prod == site && !p.ended)
  s.actCells (q - 16) - (others.map pktCells).sum - (((s.act (q - 16)).item).map (·.cells)).getD 0

/-- Bytes into an actuation queue are staged for the release (R219, R315). What finds no cell of the channel's reservation
is discarded, and the packet marked as truncated (DESIGN CHOICE, see the assumption log). -/
def State.writeStaged (s : State) (site q : Nat) (d : List Byte) (last : Bool) : State :=
  let room := 64 * s.stagedRoom site q
  let add (p : QPkt) : QPkt :=
    { p with bytes := (p.bytes ++ d).take room, ended := last, trunc := p.trunc || decide (room < p.bytes.length + d.length) }
  let l := match openAt s.strm.staged q site with
    | some (p, i) => setAt s.strm.staged i (add p)
    | none => if d.isEmpty && !last then s.strm.staged else s.strm.staged ++ [add (newPacket s q site)]
  { s with strm := { s.strm with staged := l } }

/-- Bytes into a slab queue: a packet becomes visible when its threshold or its end has arrived, behind those that
already are (R321). -/
def State.writeSlab (s : State) (site q : Nat) (d : List Byte) (last : Bool) : State :=
  let add (p : QPkt) : QPkt :=
    let b := p.bytes ++ d
    { p with bytes := b, ended := last, visible := p.visible || last || decide (p.ct ≤ b.length) }
  let s := match openAt s.strm.packets q site with
    | some (p, i) =>
      let x := add p
      s.setPackets (if x.visible == p.visible then setAt s.strm.packets i x else s.strm.packets.eraseIdx i ++ [x])
    | none => if d.isEmpty && !last then s else s.setPackets (s.strm.packets ++ [add (newPacket s q site)])
  s.wakeReaders q

abbrev slabCells : Nat := 16384

/-- Bytes that a slab pool still has cells for in a producer's packet. -/
def State.slabRoom (s : State) (site q slab : Nat) : Nat :=
  let begun := ((openAt s.strm.packets q site).map fun p => p.1.bytes.length).getD 0
  64 * (slabCells - s.poolCells (slab + 1)) + ((begun + 63) / 64 * 64 - begun)

/-- QWR on a slab queue: the pool takes what it has cells for, and the producer stalls with the rest (R320). -/
def State.pushSlab (s : State) (site : SiteNo) (q slab : Nat) (d : List Byte) (last : Bool) : Res :=
  let room := s.slabRoom site q slab
  if d.length ≤ room then
    let t := s.writeSlab site q d last
    t.fin site { t.cl site with wrPart := 0 }
  else
    let t := s.writeSlab site q (d.take room) false
    .next ((t.updCl site fun k => { k with wrPart := k.wrPart + room }).stallCore site .qwr)

/-- QWR writes sb bytes from h + sa into the current packet. Ingest and time-beacon queues take none; a slab pool
without a free cell stalls the producer (R319, R320). The rest of a packet that was cut is discarded up to its end. -/
def execQwr (c : SiteNo) (h : BitVec 6) (sa sb : BitVec 4) (last : Bool) (s : State) : Res :=
  s.core c fun k =>
    let n := (k.s sb).toNat
    match k.wrQueue with
    | none => s.stop c
    | some q =>
      s.handleRead c h ((k.s sa).toNat + k.wrPart) (n - k.wrPart) fun s d =>
        let q := q.toNat
        if k.wrDrop.contains q then
          s.fin c { s.cl c with wrPart := 0, wrDrop := if last then k.wrDrop.filter (· != q) else k.wrDrop }
        else match slabQueue q with
        | some (slab, _) => s.pushSlab c q slab d last
        | none => if 0x10 ≤ q ∧ q < 0x18 then (s.writeStaged c q d last).fin c (s.cl c) else s.fin c (s.cl c)

-- QDROP and QCNT

/-- QDROP discards the rest of the packet that the reader has begun; of one it has not begun nothing is discarded
(DESIGN CHOICE, see the log). On an ingest queue it ends the window for the step (R324). -/
def execQdrop (c : SiteNo) (s : State) : Res :=
  s.core c fun k =>
    match k.rdQueue with
    | none => s.stop c
    | some q =>
      match slabQueue q.toNat with
      | none => s.fin c (if q.toNat < 0x10 then { k with rdEnded := true } else k)
      | some (slab, _) =>
        match s.strm.packets.zipIdx.find? fun p => p.1.queue == q.toNat && p.1.reader == some c.val with
        | none => s.fin c k
        | some (p, i) =>
          let s := (s.setPackets (s.strm.packets.eraseIdx i)).cutProducers [p]
          let s := s.wakeWriters slab
          s.fin c (s.cl c)

def execQcnt (c : SiteNo) (sb : BitVec 4) (s : State) : Res :=
  s.core c fun k =>
    match k.rdQueue with
    | none => s.stop c
    | some q => s.fin c (k.setS sb (s.queueCount q.toNat))

end Sys2Proof.Machine
end

