-- ==== Sys2Proof/Machine/Time.lean ====
section
/-! DEFINITION. The time counter and its alignment, loss and return of REFCLK,
stretched periods and crossing stalls, and the alert causes (R308, R310, R311, R418 to R436, R459). -/

namespace Sys2Proof.Machine

-- Alerts (R459)

abbrev alStage : Nat := 0
abbrev alDegraded : Nat := 1
abbrev alTrip : Nat := 2
abbrev alSupply : Nat := 3
abbrev alStandby : Nat := 4
abbrev alRef : Nat := 5
abbrev alRetired : Nat := 6

/-- Record an alert cause; an unmasked one asserts nALERT. -/
def State.alert (s : State) (cause : Nat) : State :=
  { s with dev := { s.dev with
    alerts := s.dev.alerts ||| (1 <<< cause)
    nAlert := s.dev.nAlert || !s.dev.alertMask.getLsbD cause } }

-- Host time (R431 to R436)

/-- CADENCE_IN is the cadence source, or will be at the first tick of a new cadence. -/
def State.pinSource (s : State) : Bool := (s.strm.cad.map (·.pin)).getD false || (s.strm.newCad.map (·.1.pin)).getD false

/-- CADENCE_IN serves as the time pulse as well. -/
def State.alias_ (s : State) : Bool := tst (s.reg Reg.GLB_TIMECFG) 1

/-- DRIFT clears once host time has confirmed the counter after REF_RESTORED, or at REF_RESTORED where no host time is taken
(R435). -/
def State.clearDrift (s : State) : State := { s with clk := { s.clk with drift := false } }

/-- The count at which a rising edge is captured, within ±1 of the counter (R433, R486). -/
def State.captured (s : State) : DWord := s.now + BitVec.ofNat 64 (Config.measure s.freeCtr % 3) - 1

/-- A time pulse (R433): bytes 20 to 27 of the newest cell are the host time, bytes 28 to 31 its sequence. The edge is
accepted 10 ms after the last; C is captured within ±1 count. -/
def State.timePulse (s : State) : State :=
  let early : Bool := s.clk.lastEdge.elim false fun t => decide ((s.clk.raw - t).toNat < 10 * milli)
  if s.dev.base == .off || !tst (s.reg Reg.GLB_TIMECFG) 0 || early then s
  else
    let s := { s with clk := { s.clk with lastEdge := some s.clk.raw } }
    match s.clk.beacons with
    | [] => s.count Reg.GLB_TIMEMISS 0 32 1
    | cell :: _ =>
      let t : DWord := cell.extractLsb' 160 64
      let seq : Word := cell.extractLsb' 224 32
      let c := s.captured
      let s := { s.useFree with clk := { s.clk with beacons := [], aligned := true } }
      let d : Int := (t - c).toInt
      let s := (s.setReg Reg.GLB_TIMESEQ seq).setReg Reg.GLB_TIMEOFS (BitVec.ofInt 32 (clampInt (-2 ^ 31) (2 ^ 31 - 1) d))
      let s := if s.clk.drift && !s.clk.onHold && s.clk.lostAt.isNone && decide (d.natAbs ≤ 100) then s.clearDrift else s
      if 100000 < d ∧ tst (s.reg Reg.GLB_TIMECFG) 2 then
        State.dueTick { s with clk := { s.clk with counter := s.clk.counter + BitVec.ofInt 64 d, slew := 0 } } true
      else { s with clk := { s.clk with slew := d } }

/-- Every 1,024 counts of a slew one more count, or one count held (R433). -/
def execTimeSlewStep (s : State) : Res :=
  if 0 < s.clk.slew then
    .next { s with clk := { s.clk with counter := s.clk.counter + 1, slew := s.clk.slew - 1 } }
  else if s.clk.slew < 0 then .next { s with clk := { s.clk with hold := s.clk.hold + 1, slew := s.clk.slew + 1 } }
  else .next s

/-- A write of GLB_TIMECFG. TPSRC 1 while CADENCE_IN is the cadence source is not applied, and HELD reads 1 until a
write sets TPSRC to 0 (R436). -/
def execGlbTimecfgWrite (_p : PortNo) (v : Word) (s : State) : Res :=
  if !s.reach Reg.GLB_TIMECFG then .next s
  else
    let hold := tst v 1 && s.pinSource
    let s := s.writeRw Reg.GLB_TIMECFG (if hold then setFld v 1 1 0 else v)
    .next (if hold then s.setRegF Reg.GLB_TIMECFG 3 1 1 else if tst v 1 then s else s.setRegF Reg.GLB_TIMECFG 3 1 0)

/-- A TIME packet: its header flit is one cell of the time-beacon queue, which keeps the newest 16 (R319, R354). -/
def execTimePacket (p : PortNo) (lo hi : BitVec 256) (s : State) : Res :=
  if !s.linkIn (portLink p) then .next s
  else
    let s := s.received (portLink p) 0 0
    .next { s with clk := { s.clk with beacons := ((hi ++ lo) :: s.clk.beacons).take 16 } }

-- Rates (R422, R423)

def State.rate (s : State) (r : Nat) : Nat := s.regF (Reg.RGN_RATE r) 0 5

/-- Short stops of a region's branch (R423). -/
def State.shortStop (s : State) (r : Nat) : State := s.count (Reg.RGN_CLKSTR r) 16 16 1

/-- A change of rate takes effect through a short stop. -/
def State.setRate (s : State) (r k : Nat) : State :=
  if s.rate r = k then s else (s.setRegF (Reg.RGN_RATE r) 0 5 k).shortStop r

/-- The reference loop of a region runs (R421). -/
def State.refLoop (s : State) (r : Nat) : Bool := tst (s.reg (Reg.RGN_PSTATE r)) 3

-- Loss and return of the reference (R428 to R430)

/-- Every consumer goes to the holdover oscillator, and every clocked region to 8/16. -/
def execRefLost (outOfRange : Bool) (s : State) : Res :=
  if s.dev.base == .off || !s.dev.refOk then .next s
  else
    let s := s.count Reg.GLB_REFMON 16 16 1
    let s := { s with
      dev := { s.dev with refOk := false }
      clk := { s.clk with
        onHold := true, drift := true, refOut := outOfRange, lostAt := some (s.clk.lostAt.getD s.now), switching := [] } }
    let s := (List.range 192).foldl
      (fun s r =>
        let s := if s.refLoop r then s.setRegF (Reg.RGN_PSTATE r) 5 1 1 else s
        if s.clocked r then (s.setRegF (Reg.RGN_RATE r) 0 5 8).shortStop r else s)
      s
    .next (((s.report .refLoss).post 0x0301 srcModule [(0, b2n outOfRange)]).alert alRef)

/-- After the last region has switched back, REF_RESTORED; without host time DRIFT then clears (R430, R435). -/
def State.refRestored (s : State) : State :=
  match s.clk.lostAt with
  | some t =>
    if !s.clk.switching.isEmpty || s.clk.onHold then s
    else
      let s := { s with clk := { s.clk with lostAt := none } }
      let s := s.post 0x0302 srcModule [(0, (s.now - t).toNat)]
      if tst (s.reg Reg.GLB_TIMECFG) 0 then s else s.clearDrift
  | none => s

/-- A region's loop returns to REFCLK. -/
def State.switchBack (s : State) (r : Nat) : State :=
  let s := s.setRegF (Reg.RGN_PSTATE r) 5 1 0
  let s := if s.clocked r then s.shortStop r else s
  { s with clk := { s.clk with switching := s.clk.switching.filter (· != r) } }

/-- REFCLK valid for 100 ms: the time source and the regions without a grant switch back at once, a granted region at
the return of its grant. The first validity after AON_UP restores nothing. -/
def execRefclkValid (s : State) : Res :=
  if s.dev.base == .off || s.dev.refOk then .next s
  else
    let s := { s with dev := { s.dev with refOk := true }, clk := { s.clk with onHold := false, refOut := false } }
    let hold := (List.range 192).filter fun r => tst (s.reg (Reg.RGN_PSTATE r)) 5
    let s := { s with clk := { s.clk with switching := hold.filter s.regionGranted } }
    let s := (hold.filter fun r => !s.regionGranted r).foldl State.switchBack s
    if s.clk.lostAt.isNone then .next (if tst (s.reg Reg.GLB_TIMECFG) 0 then s else s.clearDrift)
    else .next s.refRestored

-- Stretches and crossings (R424 to R426)

/-- The neighbours of a region by port: 0 north, 1 south, 2 east, 3 west, with north toward lower Y (DESIGN CHOICE). -/
def neighbours (r : Nat) : List (Nat × Nat) :=
  (if regionY r = 0 then [] else [(0, r - 16)]) ++ (if regionY r = 11 then [] else [(1, r + 16)])
    ++ (if regionX r = 15 then [] else [(2, r + 1)]) ++ (if regionX r = 0 then [] else [(3, r - 1)])

/-- The port of the neighbour that faces a port. -/
def facing : Nat → Nat
  | 0 => 1
  | 1 => 0
  | 2 => 3
  | _ => 2

/-- A stall of a crossing into region r: counted, and posted at most once per second (R426). -/
def State.crossingStall (s : State) (r port n : Nat) : State :=
  let s := (s.count (Reg.RGN_XSTALL r) 0 16 1).setRegF (Reg.RGN_XSTALL r) 16 2 port
  let g := s.rg r
  let early : Bool := g.stallPost.elim false fun t => decide ((s.now - t).toNat < second)
  if early then s.setRg r { g with stallsSince := g.stallsSince + 1 }
  else
    (s.setRg r { g with stallPost := some s.now, stallsSince := 0 }).post 0x0303 (srcRegion r)
      [(0, g.stallsSince.toNat + 1), (4, n)]

/-- The place of a pair of neighbours in Clock.walkBase. -/
def linkKey (a b : Nat) : Nat := 2 * min a b + b2n (decide (max a b = min a b + 16))

/-- Half periods by which a region lags behind a neighbour since their crossing was last aligned (R426, R427). -/
def State.walk (s : State) (r n : Nat) : Int :=
  let base := Tab.get 0 s.clk.walkBase (linkKey r n)
  (s.rg r).owed - (s.rg n).owed - (if r < n then base else -base)

/-- Align the crossings of a region: the pointers of every link to a neighbour are re-centred (R427). -/
def State.alignRegion (s : State) (r : Nat) : State :=
  (neighbours r).foldl
    (fun s (p : Nat × Nat) =>
      let d : Int := (s.rg r).owed - (s.rg p.2).owed
      { s with clk := { s.clk with walkBase := Tab.set 0 s.clk.walkBase (linkKey r p.2) (if r < p.2 then d else -d) } })
    s

/-- A phase of region r that has just moved stalls the crossings, in both directions, to each neighbour from which it is more
than three periods away on the side it moved to. -/
def State.walkStalls (s : State) (r : Nat) (later : Bool) : State :=
  (neighbours r).foldl
    (fun s (p : Nat × Nat) =>
      let w := if later then s.walk r p.2 else s.walk p.2 r
      if 6 < w ∧ s.refLoop p.2 then (s.crossingStall r p.1 p.2).crossingStall p.2 (facing p.1) r else s)
    s

/-- A stretch of half a period, wherever the reference loop runs, in bring-up as well. -/
def execDroopStretch (r : RegionNo) (s : State) : Res :=
  if !s.railsUp || !s.refLoop r then .next s
  else
    let s := (s.count (Reg.RGN_CLKSTR r) 0 16 1).updRg r fun g => { g with owed := g.owed + 1 }
    .next (s.walkStalls r true)

/-- Once VCORE is back, the oldest stretch owed is repaid over 16 periods, and the phase comes forward by half a period
(R425). Each stretch owed is a command of its own (DEDUCED, see the assumption log). -/
def execStretchRepayment (r : RegionNo) (s : State) : Res :=
  if s.refLoop r && decide (0 < (s.rg r).owed) then
    .next ((s.updRg r fun g => { g with owed := g.owed - 1 }).walkStalls r false)
  else .next s

end Sys2Proof.Machine
end

