-- ==== Sys2Proof/Machine/Grid.lean ====
section
/-! DEFINITION. The logical grid and retirement: marks in the attic, the columns of a grid build, the known-answer set,
suspect marks, and what a region loses with its power (R25 to R27, R45 to R48, R374 to R376, R384, R469). -/

namespace Sys2Proof.Machine

-- RGN_RESIL (R392): SUSPECT is counted from the marks, the other fields lie in the attic

def State.resilF (s : State) (r lo len : Nat) : Nat := fld (Tab.get 0 s.attic.resil r) lo len

def State.setResilF (s : State) (r lo len v : Nat) : State :=
  { s with attic := { s.attic with resil := Tab.set 0 s.attic.resil r (setFld (Tab.get 0 s.attic.resil r) lo len v) } }

/-- The attic holds work that a planned restart applies (R373). -/
def State.restartWork (s : State) : Bool :=
  s.attic.todo.any plansRestart || !s.attic.marginal.isEmpty || (List.range 192).any fun r => s.resilF r 3 1 == 1

/-- Suspect marks of a region within the last 24 h (R384). -/
def State.marks (s : State) (r : Nat) : Nat :=
  s.attic.suspects.countP fun (e : Nat × DWord) => e.1 == r && decide ((s.now - e.2).toNat < day)

-- Power of a region's clusters (R136, R437, R439)

/-- What outlives the contents of a site: the time of its last scrub pass, and what firmware has noted of corrected and
uncorrectable reads (R142, R145). -/
def Cluster.dark (c : Cluster) : Cluster :=
  { passAt := c.passAt, corrNow := c.corrNow, corrLast := c.corrLast, ueLog := c.ueLog }

/-- A region that goes DARK loses its larders, its stores, its handle tables and the programs and tables cached in it (R204). -/
def State.loseRegion (s : State) (r : Nat) : State :=
  ((allSites r).foldl
    (fun s site =>
      let s := (List.range 4).foldl (fun s g => if s.groupIsOn site g then s.groupOff site g else s) s
      s.updCl site Cluster.dark)
    s).updRg r fun g => { g with cached := false, images := [] }

/-- A restart writes zero into the state of a cluster that is no job state, and holds its core (R360, R368). -/
def Cluster.reset (c : Cluster) : Cluster :=
  { c.dark with writeBack := c.writeBack }

-- Routes (R180)

/-- The routers that the fuses or the attic name (R178). -/
def State.bypassList (s : State) : List Nat := s.fuses.bypass ++ s.attic.bypass.filter fun i => !s.fuses.bypass.contains i

/-- A router of a network is bypassed: it is named, or its domain has no power (R178). -/
def State.bypassed (s : State) (net site : Nat) : Bool := s.bypassList.contains site || !s.netUp (siteRegion site) net

/-- Regions whose domain of a network has no power. -/
def State.downRegions (s : State) (net : Nat) : List Nat := (List.range 192).filter fun r => !s.netUp r net

/-- Sites with a live endpoint on a network: those that are not bypassed, in regions that are not RETIRED; a depot-link engine or a
fault intake port in a RETIRED region is none (DESIGN CHOICE, see the assumption log). -/
def State.liveSites (s : State) (net : Nat) : List Nat :=
  (List.range 13824).filter fun i => !s.bypassed net i && !s.isRetired (siteRegion i)

/-- A network's list holds up to 160 routers, and every pair of live endpoints has a route; with no router bypassed every
route is DIRECT. -/
def State.routesOk (s : State) (net : Nat) : Bool :=
  let named := s.bypassList.filter fun i => s.netUp (siteRegion i) net
  let down := s.downRegions net
  let by_ (x y : Nat) : Bool := (named.any fun i => siteX i == x && siteY i == y) || down.any fun r => x / 8 == regionX r && y / 9 == regionY r
  let live := s.liveSites net
  (named.isEmpty && down.isEmpty)
    || (decide (named.length + 72 * down.length ≤ 160)
      && live.all fun a => live.all fun b => (route by_ (siteX a) (siteY a) (siteX b) (siteY b)).isSome)

/-- The first network whose routes fail. -/
def State.routeFault (s : State) : Option Nat := [0, 1, 2].find? fun net => !s.routesOk net

/-- The endpoints of R181 in a region: network, primary and alternate site. -/
def attachments (r : Nat) : List (Nat × Nat × Nat) :=
  [(0, siteAt r 3 0, siteAt r 2 0), (0, siteAt r 4 0, siteAt r 5 0)]
    ++ (if regionX r % 2 = 0 ∧ regionY r % 2 = 0 then [(0, siteAt r 0 4, siteAt r 1 4)] else [])
    ++ (if regionX r % 4 = 0 ∧ regionY r % 4 = 0 then [(1, siteAt r 7 0, siteAt r 6 0)] else [])

/-- The grid build gives every router the bypass list, and attaches every endpoint to its primary site, or to the alternate where
the primary's router is bypassed. -/
def State.attachAll (s : State) : State :=
  let s := { s with dev := { s.dev with routeNamed := s.bypassList, routeNoBulk := s.downRegions 0, routeNoCtl := s.downRegions 1 } }
  (List.range 192).foldl
    (fun s r => s.updRg r fun g => { g with attach := (attachments r).map fun a => if s.bypassed a.1 a.2.1 then a.2.2 else a.2.1 }) s

/-- An endpoint of the region uses its alternate (R181). -/
def State.attAlt (s : State) (r : Nat) : Bool :=
  ((s.rg r).attach.zip (attachments r)).any fun a => a.1 != a.2.2.1

-- Columns (R25, R374)

/-- Usable regions of a column in ascending Y. -/
def State.usableRows (s : State) (x : Nat) : List Nat := (List.range 12).filter fun y => !s.isRetired (regionAt x y)

/-- Reserves left in a column. -/
def State.reservesLeft (s : State) (x : Nat) : Nat := (s.usableRows x).length - s.rowsL

def State.isForced (s : State) (r : Nat) : Bool := decide (16 ≤ Tab.get 0 s.attic.retired r)

/-- Preventively retired regions of a column, the most recent first (R48). -/
def State.preventives (s : State) (x : Nat) : List Nat :=
  (s.attic.retiredOrder.filter fun r => regionX r == x && (s.attic.retired.any fun e => e.1 == r) && !s.isForced r).reverse

/-- Mark a region retired in the attic (R375). -/
def State.markRetired (s : State) (r cause : Nat) (forced : Bool) : State :=
  if s.isRetired r then s
  else
    let s := { s with attic := { s.attic with
      retired := Tab.set 0 s.attic.retired r (max 1 (cause % 16) + 16 * b2n forced), retiredOrder := s.attic.retiredOrder ++ [r] } }
    ((s.setResilF r 8 4 cause).setResilF r 3 1 0).setRstate r stRetired

/-- Bring a preventively retired region back, with a raised guard band (R48). -/
def State.reinstate (s : State) (r : Nat) : State :=
  let s := { s with attic := { s.attic with
    retired := Tab.set 0 s.attic.retired r 0, retiredOrder := s.attic.retiredOrder.filter (· != r)
    guard := if s.attic.guard.contains r then s.attic.guard else s.attic.guard ++ [r] } }
  (s.setResilF r 2 1 1).setRstate r stDark

/-- Reinstate regions of a short column one at a time. -/
def State.reinstateColumn (s : State) (x : Nat) : State :=
  (s.preventives x).foldl (fun s r => if (s.usableRows x).length < s.rowsL then s.reinstate r else s) s

/-- Write the registers of one column, and the states that the build leaves its regions in. -/
def State.buildColumn (s : State) (x : Nat) : State :=
  let ys := s.usableRows x
  let l := s.rowsL
  let y (n : Nat) : Nat := if n < l then (ys[n]?).getD 15 else 15
  let lost := decide (ys.length < l)
  let resv := if lost then [] else ys.drop l
  let lo := ((List.range 8).map fun n => y n * 16 ^ n).sum
  let hi := ((List.range 3).map fun n => y (8 + n) * 16 ^ n).sum + (resv.map fun r => 2 ^ (16 + r)).sum + b2n lost * 2 ^ 28
  let s := (s.setReg (Reg.GLB_GRIDMAPLO x) (BitVec.ofNat 32 lo)).setReg (Reg.GLB_GRIDMAPHI x) (BitVec.ofNat 32 hi)
  (List.range 12).foldl
    (fun s yy =>
      let r := regionAt x yy
      if s.isRetired r then s.setRstate r stRetired
      else if resv.contains yy then s.setRstate r stReserve
      else if s.rstate r = stReserve ∨ s.rstate r = stRetired then s.setRstate r stDark
      else s)
    s

/-- Columns that cannot form their logical rows. -/
def State.lostCols (s : State) : Nat := s.regF Reg.GLB_GRIDSTAT 16 16

/-- Every column can form its logical rows (R25, R266). -/
def State.columnsOk (s : State) : Bool := s.dev.grid && s.lostCols == 0 && !s.dev.degraded

/-- A grid build over every column (R27, R469); a lost column leaves the device DEGRADED (R49). -/
def State.buildGrid (s : State) : State :=
  let s := (List.range 16).foldl State.buildColumn s
  let hi (x : Nat) : Word := s.reg (Reg.GLB_GRIDMAPHI x)
  let resv := ((List.range 16).map fun x => ones 12 (BitVec.ofNat 12 (fld (hi x) 16 12))).sum
  let ret := (List.range 192).countP s.isRetired
  let lost := ((List.range 16).map fun x => b2n (tst (hi x) 28) * 2 ^ (16 + x)).sum
  let s := s.setReg Reg.GLB_GRIDSTAT (BitVec.ofNat 32 (resv + ret * 256 + lost))
  let s := s.setReg Reg.GLB_GRIDGEN (s.reg Reg.GLB_GRIDGEN + 1)
  let s := State.attachAll { s with dev := { s.dev with grid := true } }
  if lost = 0 then s else { s with dev := { s.dev with degraded := true } }

-- Wires (R172 to R175)

/-- The site that a router's port leads to: 0 north, 1 south, 2 east, 3 west. -/
def siteBeside (site port : Nat) : Option Nat :=
  let gx := regionX (siteRegion site) * 8 + siteCol site
  let gy := regionY (siteRegion site) * 9 + siteRow site
  let at_ (x y : Nat) : Nat := siteAt (regionAt (x / 8) (y / 9)) (x % 8) (y % 9)
  match port with
  | 0 => if gy = 0 then none else some (at_ gx (gy - 1))
  | 1 => if gy = 107 then none else some (at_ gx (gy + 1))
  | 2 => if gx = 127 then none else some (at_ (gx + 1) gy)
  | _ => if gx = 0 then none else some (at_ (gx - 1) gy)

/-- Wires of a link of a network (R171): 0 bulk, 1 control, 2 sync. -/
def netWires : Nat → Nat
  | 0 => 640
  | 1 => 96
  | 2 => 32
  | _ => 0

/-- Wires of a group that share one spare: 16 across a bridge, 32 across a seam, none inside a field. -/
def groupSize (site port : Nat) : Option Nat :=
  (siteBeside site port).bind fun b =>
    let r := siteRegion site
    let q := siteRegion b
    if slabOf r ≠ slabOf q then some 16 else if fieldOf r ≠ fieldOf q then some 32 else none

def wireKey (site port net group : Nat) : Nat := ((site * 4 + port) * 4 + net) * 64 + group

/-- The group of a wire, when its link has spares. A number past the wires of the link names none (R171, R174). -/
def wireGroup (site port net wire : Nat) : Option Nat :=
  if wire < netWires net then (groupSize site port).map fun n => wireKey site port net (wire / n) else none

/-- Key of a wire at its receiving router. -/
def wireAt (site port net wire : Nat) : Nat := ((site * 4 + port) * 4 + net) * 1024 + wire

/-- A hard wire whose group has no spare left. -/
def State.wireSpent (s : State) (site port net wire : Nat) : Bool :=
  (wireGroup site port net wire).elim false fun k => Tab.get 0 s.attic.wires k != 0

-- The known-answer set (R376) and suspect marks (R384)

/-- Run the set on a region on a disagreement's or a restart's behalf. What it finds is free, and recorded; it passes where it
finds nothing. A region that fails is retired, so no restart is planned for it. -/
def State.runKnown (s : State) (r : Nat) : State × Bool :=
  let n := s.freeCtr
  let site (p : Fin 72) : SiteNo := Fin.ofNat 13824 (r * 72 + p.val)
  let found : List ReportKind := (Config.knownSites n).map (fun p => .badSite (site p))
    ++ (Config.knownRows n).map (fun w => .hardArray (site w.1) w.2.1 w.2.2)
    ++ (Config.knownLarRows n).map fun w => .hardLarder (site w.1) w.2
  let s := s.useFree.count (Reg.RGN_KA r) 0 16 1
  if found.isEmpty then (s, true) else (found.foldl State.recordRepair (s.count (Reg.RGN_KA r) 16 16 1), false)

/-- REGION_RETIRED (R286, R374). -/
def State.postRetired (s : State) (r kind : Nat) (forced : Bool) : State :=
  (s.post 0x0401 (srcRegion r) [(0, b2n forced), (1, kind), (2, s.reservesLeft (regionX r))]).alert alRetired

/-- Waves of grants that are withdrawn wait no longer (R33, R404). -/
def State.dropWaves (s : State) : State :=
  (List.range 12).foldl
    (fun s sl =>
      if (s.slab sl).waves.isEmpty then s
      else s.updSlab sl fun x =>
        { x with waves := (x.waves.map fun w => (w.1, w.2.filter s.regionGranted)).filter fun w => !w.2.isEmpty })
    s

/-- Forget checks that a rule abandons (R385); cores that a full checker stalled issue again. -/
def State.dropChecks (s : State) (p : Check → Bool) : State :=
  let s := { s with resil := { s.resil with checks := s.resil.checks.filter fun x => !p x } }
  s.unstall (fun _ w => decide (w = .checkerFull)) false

/-- Checks whose stream is lost on its way from one site to another end; one that loses it on the way from the checker to the third
goes to the next cluster, or is left without one (R385). -/
def State.abandonBy (s : State) (lost : Nat → Nat → Bool) : State :=
  let s := s.dropChecks fun x => lost x.primary x.checker
  { s with resil := { s.resil with checks := s.resil.checks.map fun x =>
    match x.third with
    | some d => if lost x.checker d then { x with third := s.thirdOf x.primary x.checker d } else x
    | none => x } }

/-- Checks whose checker or third is in a region. -/
def State.abandonIn (s : State) (r : Nat) : State := s.abandonBy fun _ b => siteRegion b == r

/-- No larder keeps its contents, no sweep goes on, and the packets that the region's clusters have open are abandoned. -/
def State.toDark (s : State) (r : Nat) : State :=
  let s := (s.setRstate r (if s.isRetired r then stRetired else stDark)).setRegF (Reg.RGN_PSTATE r) 4 1 0
  let s := (s.setRegF (Reg.RGN_RATE r) 0 5 0).setRegF (Reg.RGN_RATE r) 15 1 0
  let s := ((s.setSwitches r false false false).loseRegion r).abandonPackets r
  s.updRg r fun g => { g with waking := false, wakeReq := none, aperAt := none, scrubWin := false, sliceAt := s.now, sweeping := false, sweepCopy := none }

/-- A region that is not logical is retired at once, without a restart: its switches open and its branch loop stops (R398,
R421). A sweep there ends without a result. -/
def State.retireReserve (s : State) (r cause kind : Nat) (forced : Bool) : State :=
  if s.isRetired r then s
  else
    let sweeps := (s.rg r).sweeping
    ((((s.markRetired r cause forced).abandonIn r).toDark r).updRg r fun g => { g with sweeping := sweeps }).postRetired r kind forced

/-- Regions of a column whose retirement is pending, but for one (R392). -/
def State.pendingIn (s : State) (x but : Nat) : Nat :=
  (List.range 12).countP fun y => regionAt x y != but && s.resilF (regionAt x y) 3 1 == 1

/-- Record a retirement for the next planned restart. -/
def State.pendRetirement (s : State) (r cause : Nat) : State :=
  let s := (s.setResilF r 3 1 1).setResilF r 8 4 cause
  { s with resil := { s.resil with plannedDue := true } }

/-- A retirement that R47 defers leaves the region in service with a raised guard band. -/
def State.deferRetirement (s : State) (r : Nat) : State :=
  let s := ((s.setResilF r 4 1 1).setResilF r 2 1 1).setResilF r 3 1 0
  { s with attic := { s.attic with guard := if s.attic.guard.contains r then s.attic.guard else s.attic.guard ++ [r] } }

/-- Plan a preventive retirement for the next planned restart, unless R47 defers it (R367, R373). -/
def State.planRetirement (s : State) (r cause : Nat) : State :=
  if s.isRetired r then s
  else if (s.usableRows (regionX r)).length ≤ s.rowsL + s.pendingIn (regionX r) r then s.deferRetirement r
  else s.pendRetirement r cause

/-- A suspect mark. The second within 24 h retires a reserve at once, and a logical region at the next planned restart or
in the restart under way. -/
def State.suspect (s : State) (r : Nat) : State :=
  let s := { s with attic := { s.attic with suspects := s.attic.suspects ++ [(r, s.now)] } }
  if s.marks r < 2 then s
  else if (s.logRegion r).isNone then s.retireReserve r 9 1 true
  else s.pendRetirement r 9

end Sys2Proof.Machine
end

