-- ==== Sys2Proof/Machine/Belay.lean ====
section
/-! DEFINITION. Belay checks: the replay of a check stream on a cluster, the rate, and the arbitration of a disagreement
(R53, R377 to R385). -/

namespace Sys2Proof.Machine

-- The replay (R381, R382)

/-- What an item's instruction does to the array, the accumulator file and the vector unit of the checker. It writes
nothing outside its own larder and adds nothing to counts. -/
def Cluster.replayItem (c : Cluster) (x : StreamItem) : Cluster :=
  let v (i : Nat) : Nat := (x.vals.getD i 0).toNat
  match x.op with
  | .wload _ _ _ f => c.loadPlane f.toNat x.bytes
  | .wrow _ _ _ _ f => c.loadRow f.toNat (v 1 % 128) x.bytes
  | .wscale _ _ _ => c.loadScale x.bytes
  | .wswap _ => c.swapPlanes
  | .pass _ _ _ aw e add => c.pass aw.toNat e.toNat add x.bytes
  | .accrd _ e g clr sig => (c.accToV e.toNat g.toNat).readout e.toNat clr sig
  | .accst _ _ _ _ clr sig => c.readout (v 1 % 64) clr sig
  | .accld _ _ _ _ => c.loadImage (v 1 % 64) x.bytes
  | .accnr _ e _ clr sig => c.readout e.toNat clr sig
  | .accclr _ e => c.clearEntry e.toNat
  | .fadd _ d a b t => c.lane2 t d a b fAdd
  | .fsub _ d a b t => c.lane2 t d a b fSub
  | .fmul _ d a b t => c.lane2 t d a b fMul
  | .ffma _ d a b e t => c.lane3 t d a b e fFma
  | .fmax _ d a b t => c.lane2 t d a b fMax
  | .fmin _ d a b t => c.lane2 t d a b fMin
  | .fabs _ d a t => c.lane1 t d a fAbs
  | .fneg _ d a t => c.lane1 t d a fNeg
  | .fcmplt _ d a b t => c.fcmplt t d a b
  | .fsel _ d a b e t => c.fsel t d a b e
  | .fscale _ d a b t => c.fscale t d a b
  | .i2f _ d a t => c.i2f t d a
  | .f2i48 _ d a b _ => c.f2i48 d a b
  | .i48f _ d a _ => c.i48f d a
  | .iadd _ d a b _ => c.iadd d a b
  | .sqrt _ d a t => c.lane1 t d a fSqrt
  | .recip _ d a t => c.lane1 t d a fRecip
  | .rsqrt _ d a t => c.lane1 t d a fRsqrt
  | .exp2 _ d a t => c.lane1 t d a fExp2
  | .log2 _ d a t => c.lane1 t d a fLog2
  | .tanh _ d a t => c.lane1 t d a fTanh
  | .sigmoid _ d a t => c.lane1 t d a fSigmoid
  | .erf _ d a t => c.lane1 t d a fErf
  | .vred _ d a t => c.vreduce t d a fAdd
  | .vredmax _ d a t => c.vreduce t d a fMax
  | .vld _ d _ _ => c.setV d.toNat (wordsOf 64 x.bytes)
  | _ => c

/-- A cluster that has replayed a stream: CHECK set, SIG from 0, and the start record with the active plane of the stream. -/
def Cluster.replayed (c : Cluster) (r : TileRec) : Cluster :=
  r.items.foldl Cluster.replayItem
    { c with check := true, sig := 0, accexp := r.accexp, a1sign := r.a1sign, a1scale := r.a1scale, active := r.plane }

/-- A cluster can run a check: a clocked reserve, or a logical cluster between its HALT and its next pitch (R380). -/
def State.canCheck (s : State) (site : Nat) : Bool :=
  s.clocked (siteRegion site) && ((s.siteCluster site).isNone || decide ((s.cl site).run = .halted))

/-- The stream lies in the larder of the reserve that replays it, at a place and in a form that are free; it takes the operand
bytes at least. That of a logical checker lies where nothing of a plan does (DESIGN CHOICE, see the assumption log). -/
def State.placeStream (s : State) (site n : Nat) : State :=
  let use := s.freeCtr
  (s.useFree.larPut site (Config.streamAt use % (larSpan - n + 1)) ((List.range n).map (Config.streamByte use)))

/-- Replay on a cluster, whose array, accumulator file and vector unit it uses. A logical cluster goes on with what its program
left in them, since no result depends on a sample and all of it carries over to the next pitch (R85, R214): only PMODE.CHECK
stays set there (DEDUCED, see the assumption log). -/
def State.replayOn (s : State) (site : Nat) (x : Check) : State × DWord :=
  let k := (s.cl site).replayed x.rec_
  let s := if (s.siteCluster site).isSome then s else s.placeStream site x.rec_.size
  let s' := s.updCl site fun c =>
    if (s.siteCluster site).isSome then { c with check := true }
    else { c with
      check := true, sig := k.sig, accexp := k.accexp, a1sign := k.a1sign, a1scale := k.a1scale, active := k.active
      shadow := k.shadow, acc := k.acc, accSat := k.accSat, accNan := k.accNan, vreg := k.vreg }
  (s', k.sig)

def State.checkNo (s : State) (slot : BitVec 16) : Option Check :=
  s.resil.checks.find? fun x => BitVec.ofNat 16 x.slot == slot

def State.setCheck (s : State) (x : Check) : State :=
  { s with resil := { s.resil with checks := s.resil.checks.map fun y => if y.slot = x.slot then x else y } }

/-- A check has ended, and its tile counts in CHECKS (R279, R382). -/
def State.checkEnds (s : State) (x : Check) : State :=
  (s.dropChecks fun y => y.slot == x.slot).updStep fun st => { st with sampled := st.sampled + 1 }

-- The rate (R53, R273, R391)

/-- GLB_BELAY: the rate in force and the steps left at the raised rate. -/
def State.setRaised (s : State) (n : Nat) : State :=
  s.setReg Reg.GLB_BELAY (BitVec.ofNat 32 ((if n = 0 then s.regF Reg.GLB_POLICY 0 3 else 1) + n * 8))

def State.raisedLeft (s : State) : Nat := s.regF Reg.GLB_BELAY 3 10

/-- After a disagreement the next 1,000 steps run at 1/16, unless NO_RAISE is set or POLICY's rate is 1/16 already. -/
def State.raiseRate (s : State) : State :=
  match s.jobs.step with
  | some st =>
    if st.noRaise || s.regF Reg.GLB_POLICY 0 3 == 1 then s
    else (s.setRaised 1000).updStep fun y => { y with raised := true }
  | none => s

-- Arbitration (R383)

/-- Settle a disagreement. A reserve checker has no logical number, so its field is free (DESIGN CHOICE, see the log). -/
def State.arbitrate (s : State) (x : Check) (outcome : Nat) : State :=
  let p := siteRegion x.primary
  let c := siteRegion x.checker
  let no := (s.siteCluster x.checker).getD (Config.measure s.freeCtr % 65536)
  let s := if (s.siteCluster x.checker).isNone then s.useFree else s
  let s := s.post 0x0402 (srcRegion p) [(0, x.lc), (2, no), (4, x.pitch), (6, x.tile), (8, outcome)]
  let s := s.raiseRate.count Reg.GLB_BELAYDIS 0 32 1
  let s := (s.checkEnds x).updStep fun st => { st with disagree := st.disagree + 1 }
  if outcome = 0 ∧ (s.logRegion c).isNone then
    let k := s.runKnown c
    if k.2 then k.1.suspect c else k.1.retireReserve c 8 1 true
  else s.report (.belay (Fin.ofNat 192 p) (Fin.ofNat 192 c) (BitVec.ofNat 2 outcome))

end Sys2Proof.Machine
end

