-- ==== Sys2Proof/Machine/Region.lean ====
section
/-! DEFINITION. Power states of a region: switches, ceilings, wakes and their admission, entry to BIVOUAC and DARK, and
the power-down of the module (R136 to R138, R396 to R404, R437 to R441). -/

namespace Sys2Proof.Machine

-- Phases and rates (R399, R407)

def State.phasesIn (s : State) (r : Nat) : Nat := ones 4 (BitVec.ofNat 4 (s.regF (Reg.RGN_PWR r) 4 4))

/-- A rate above the ceiling comes down at once (R407). -/
def State.clipRate (s : State) (r : Nat) : State :=
  if s.clocked r && decide (s.ceil r < s.rate r) then s.setRate r (s.ceil r) else s

-- Wakes (R402 to R404, R427, R439)

/-- A wake is admitted: the switches close. -/
def State.wakeStart (s : State) (r : Nat) : State :=
  if s.clocked r || (s.rg r).waking || s.isRetired r then s
  else
    ((s.preemptWatch r).setSwitches r true false true).updRg r fun g =>
      { g with waking := true, fromDark := s.rstate r != stBivouac, wakeReq := none, wakeAt := s.now }

/-- The region is ACTIVE: larders out of retention or zeroed, loops locked, crossings re-centred. -/
def State.wakeDone (s : State) (r : Nat) : State :=
  let dark := (s.rg r).fromDark
  let s := if dark then (allSites r).foldl (fun s site => (List.range 4).foldl (fun s g => s.groupOn site g) s) s
    else s.setRetention r false
  let s := if s.regF (Reg.RGN_CELSTATE r) 0 2 = 2 then s.setRegF (Reg.RGN_CELSTATE r) 0 2 1 else s
  let s := ((s.setRstate r stActive).setRegF (Reg.RGN_PSTATE r) 3 2 3).setRegF (Reg.RGN_PSTATE r) 16 16
    (s.regF (Reg.RGN_PSTATE r) 16 16 + 1)
  let s := s.setRegF (Reg.RGN_RATE r) 0 5 (s.topRate r)
  (s.updRg r fun g => { g with waking := false, fromDark := false, aperAt := none }).alignRegion r

/-- A wake asked for by a check, a sweep or a restart waits for an interval boundary of its slab. -/
def execWakeRequest (r : RegionNo) (why : WakeFor) (s : State) : Res :=
  let g := s.rg r
  let wanted : Bool := match why with
    | .check => s.resil.checks.any fun x => siteRegion x.checker == r.val || (x.third.map siteRegion) == some r.val
    | .sweep => g.sweeping
    | .restart => s.resil.restart.isSome
  if !s.railsOn || s.dev.tripped || s.isRetired r || s.clocked r || g.waking || g.wakeReq.isSome || !wanted then .next s
  else .next (s.updRg r fun g => { g with wakeReq := some ⟨why, s.now, false⟩ })

/-- Regions of a slab whose switches ramp, which takes the first 4 µs of a wake (R398, R439). -/
def State.ramping (s : State) (sl : Nat) : Nat :=
  (slabRegions sl).countP fun r =>
    (s.rg r).waking && decide (s.now.toNat < (s.rg r).wakeAt.toNat + 4 * micro) && decide ((s.rg r).wakeAt.toNat ≤ s.now.toNat)

/-- Reservations of a slab in A, without those that lapse 10 µs after their region became ACTIVE. -/
def State.reservedAmps (s : State) (sl : Nat) : Nat := ((s.slab sl).reserved.map fun e => e.2.1).sum

def State.reserve (s : State) (sl r amps : Nat) : State :=
  s.updSlab sl fun x => { x with reserved := x.reserved ++ [(r, amps, s.now)] }

/-- Expected current and in-rush allowance of R402. -/
abbrev reserveGrant : Nat := 80
abbrev reserveOther : Nat := 48

/-- Headroom of a slab in A; it may be negative. -/
def State.headroom (s : State) (sl : Nat) : Int :=
  (s.regF (Reg.SLB_BUDGET sl) 0 12 : Int) - s.regF (Reg.SLB_BUDGET sl) 16 12 - s.reservedAmps sl

/-- A neighbour of the region drew at least 72 A in the interval just ended. -/
def State.hotNeighbour (s : State) (r : Nat) : Bool :=
  (neighbours r).any fun p => decide (72 ≤ s.regF (Reg.RGN_CURR p.2) 0 8)

-- Idle, bivouac and dark (R437, R438)

/-- Every core of an ACTIVE region has stalled for 4,096 cycles. -/
def execRegionIdleEntry (r : RegionNo) (s : State) : Res :=
  let sites := s.regionSites r
  if s.rstate r = stActive ∧ sites.any (fun i => decide ((s.cl i).run = .running))
      ∧ sites.all (fun i => decide ((s.cl i).run ≠ .running) || (s.cl i).stall.isSome) then
    .next (s.setRstate r stIdle)
  else .next s

/-- A check or sweep uses the region. -/
def State.usedByCheck (s : State) (r : Nat) : Bool :=
  (s.rg r).sweeping || s.resil.checks.any fun x => siteRegion x.checker == r || (x.third.map siteRegion) == some r

/-- The grant is returned, or a check, a sweep or a watch capture has ended, and the requesters to the larders are done. -/
def execBivouacEntry (r : RegionNo) (s : State) : Res :=
  if !s.clocked r || s.regionGranted r || s.usedByCheck r || (s.rg r).scrubWin || s.watchClaims r || !s.larsQuiet r || s.cairnStage = caStaging || s.devState = 5 then .next s
  else .next (s.toBivouac r)

/-- A logical region goes DARK DARKAFTER ms after its grant, a reserve that holds no check at once. -/
def execDarkAfter (r : RegionNo) (s : State) : Res :=
  let ms := s.regF Reg.GLB_SLEEPCFG 0 16
  let due : Bool :=
    if (s.logRegion r).isSome then
      ms != 0 && decide (ms * milli ≤ (s.now - (s.rg r).bivSince).toNat)
    else s.isReserve r
  if s.rstate r = stBivouac ∧ !s.regionGranted r ∧ !s.usedByCheck r ∧ !(s.rg r).waking ∧ due then
    .next (s.toDark r)
  else .next s

-- Slices and rails (R156, R162, R413, R440, R441)

/-- The held-input records of a slice are lost with it: no slot is taken any more (R169). -/
def RegionSt.loseHeld (g : RegionSt) : RegionSt :=
  { g with heldSteps := [], heldLog := [], heldLost := g.heldLost ++ g.heldSteps.filter (· != 0xFFFFFFFFFFFFFFFF) }

/-- A slice in mode OFF loses its contents. -/
def State.sliceOff (s : State) (r : Nat) : State :=
  (((s.setRegF (Reg.RGN_CELSTATE r) 0 2 0).setReg (Reg.RGN_CELHELD r) 0).celLose r).updRg r RegionSt.loseHeld

/-- The rails of a region are gone: everything in it is lost, its routers are down, and its loops have nothing to switch. -/
def State.railsOff (s : State) (r : Nat) : State :=
  let s := (s.toDark r).sliceOff r
  let s := { s with clk := { s.clk with switching := s.clk.switching.filter (· != r) } }
  (s.setRegF (Reg.RGN_PSTATE r) 3 3 0).updRg r fun g =>
    { g with bulkUp := false, ctlUp := false, heldBulk := false, heldCtl := false, owed := 0 }

end Sys2Proof.Machine
end

