-- ==== Sys2Proof/Machine/Job.lean ====
section
/-! DEFINITION. The job engine: taking descriptors, the checks of R266, the types that need no grant, and completion
records with all that follows one (R262 to R282, R290 to R292). -/

namespace Sys2Proof.Machine

-- RESTART_DONE (R290, R293)

/-- A descriptor of a ring that a restart executes again. -/
def State.reexecuted (s : State) (r : Nat) (i : Word) : Bool :=
  match (s.ring r).faultIdx with
  | some g => i != g || (s.ring r).faultWindow.isSome || (s.ring r).gAgain
  | none => false

/-- Every REPEAT record of a ring has been written, and so is what a replay executes again; a stream RUN_PLAN at the fault
index that waits for its tick runs after RESTART_DONE (R43). -/
def State.rewindOver (s : State) (r : Nat) : Bool :=
  let x := s.ring r
  match x.faultIdx with
  | none => true
  | some g =>
    let here : Bool := match x.out with
      | none => s.reg (Reg.RNG_DEVIDX r) == g && !x.gAgain
      | some o => o.idx == g && dF o.desc 0 1 == 1 && x.bound && !s.reexecuted r g && o.rec_.isNone
    x.replayQ.isEmpty && here && !x.rewindStopped

/-- The restart is over for a ring: an index at which nothing was outstanding is nobody's, and the one passed is forgotten. -/
def RingSt.restartOver (x : RingSt) : RingSt :=
  { x with pastIdx := none, gAgain := false, halted := false, faultIdx := x.faultIdx.filter fun g => x.hist.any fun e => e.1 == g }

/-- The slab pools run in ECC while a sweep or a restart runs, else in PARITY (R328). -/
def State.sweepPools (s : State) : State :=
  if s.devState = 5 then s else s.slabPools (s.regions.any fun e => e.2.sweeping)

def State.restartDone (s : State) : State :=
  match s.resil.restart with
  | none => s
  | some x =>
    if x.left && (List.range 64).all s.rewindOver then
      let s := s.post 0x0404 srcModule [(0, (s.reg Reg.GLB_RESTARTS).toNat), (4, b2n x.stopped), (8, (s.now - x.began).toNat)]
      let s := (List.range 64).foldl (fun s r => if (s.ring r).halted then s.setRingState r rsStopped else s) s
      State.sweepPools { s with
        resil := { s.resil with restart := none }
        jobs := { s.jobs with rings := Tab.mapVals {} (fun _ x => x.restartOver) s.jobs.rings } }
    else s

-- Taking (R262, R263, R266)

/-- A ring has a descriptor that the job engine may take. What a replay executes again was outstanding or completed before,
so a ring that is stopping still runs it (R293). A ring that goes back in a restart takes nothing past the fault index before
RESTART_DONE (R43; DEDUCED, see the assumption log), and the descriptor at it only when its record is due once more (R291). Behind
the cairn of a planned restart a ring that rewinds takes nothing more (R373; DEDUCED, see the assumption log). -/
def State.ringReady (s : State) (r : Nat) : Bool :=
  let x := s.ring r
  s.ringState (64 + r) != rsDisabled && x.out.isNone && !(s.planHeld && tst (s.reg (Reg.RNG_CTL r)) 8)
    && ((s.ringState r != rsDisabled && !x.replayQ.isEmpty) || (s.ringState r == rsRunning && x.replayQ.isEmpty && !x.fetched.isEmpty
      && !(s.resil.restart.isSome && (x.pastIdx.isSome
        || (x.faultIdx == some (s.reg (Reg.RNG_DEVIDX r)) && !x.rewindStopped && !x.gAgain)))))

def State.prio (s : State) (r : Nat) : Nat := s.regF (Reg.RNG_CTL r) 9 2

/-- The ring of the highest priority, in round robin from the ring after the one taken last. -/
def State.takeRing (s : State) : Option Nat :=
  if s.dev.base ≠ .ready ∧ s.dev.base ≠ .degraded then none
  else
    let order := ((List.range 64).map fun i => (s.jobs.lastRing + 1 + i) % 64).filter s.ringReady
    [3, 2, 1, 0].findSome? fun p => order.find? fun r => s.prio r == p

def State.setOut (s : State) (r : Nat) (f : Outst → Outst) : State := s.updRing r fun x => { x with out := x.out.map f }

/-- The next descriptor of a ring with its index: a replay's first (R372). -/
def State.nextDesc (s : State) (r : Nat) : Option (Word × BitVec 512) :=
  match (s.ring r).replayQ, (s.ring r).fetched with
  | e :: _, _ => some e
  | [], d :: _ => some (s.reg (Reg.RNG_DEVIDX r), d)
  | [], [] => none

/-- A descriptor is noted in ring order, once (R372). -/
def RingSt.note (x : RingSt) (i : Word) (d : BitVec 512) : RingSt :=
  let below (e : Word × BitVec 512) : Bool := decide ((e.1 - i).toNat ≥ 2 ^ 31)
  if x.hist.any fun e => e.1 == i then x
  else { x with hist := x.hist.filter below ++ (i, d) :: x.hist.filter fun e => !below e }

/-- Make the descriptor outstanding; the ring's consumer index follows, but for a replay, which rewinds no ring. The first
work executed again puts the slab pools back to PARITY, unless a sweep runs (R328). -/
def State.takeOut (s : State) (r : Nat) (i : Word) (d : BitVec 512) : State :=
  let x := s.ring r
  let replay := !x.replayQ.isEmpty
  let o : Outst := { desc := d, idx := i, prog := .waiting, tStart := s.now, internal := replay && x.faultIdx != some i }
  let s := { s with jobs := { s.jobs with lastRing := r } }
  let s := if x.faultIdx.isSome then s.sweepPools else s
  if replay then s.updRing r fun x => { x with replayQ := x.replayQ.drop 1, out := some o }
  else
    let s := s.updRing r fun x => { x.note i d with fetched := x.fetched.drop 1, out := some o }
    (s.setReg (Reg.RNG_DEVIDX r) (i + 1)).fetchMore r

/-- Take the next descriptor when its TYPE is one that `ty` names. A descriptor of a stopped rewind is not executed (R292). -/
def State.takeDesc (s : State) (ty : Nat → Bool) (k : State → Nat → BitVec 512 → Flow) : Res :=
  match s.takeRing with
  | none => .next s
  | some r =>
    match s.nextDesc r with
    | none => .next s
    | some (i, d) =>
      if !ty (dF d 0 1) then .next s
      else
        let s := s.takeOut r i d
        if (s.ring r).rewindStopped && (s.ring r).faultIdx.isSome then .next (s.finish r 2 0x42 0)
        else Flow.res (k s r d)

/-- PLAN_HANDLE of a descriptor. -/
def planOf (d : BitVec 512) : Nat := dF d 2 2

def State.planValid (s : State) (n : Nat) : Bool := decide (n < 1024) && (s.planEnt n).valid

/-- Join the grant queue with the regions and links needed (R264). -/
def State.enqueue (s : State) (r : Nat) (regions links : List Nat) : State :=
  let s := s.setOut r fun o => { o with prog := .queued, regions := regions, links := links }
  { s with jobs := { s.jobs with queue := s.jobs.queue ++ [r] } }

-- RUN_PLAN (R39, R207, R266)

/-- Hold a stream RUN_PLAN for the next tick, or queue it: re-executed work and work with a pending tick is not held. One that the
restart does not execute again is not awaited by RESTART_DONE. -/
def State.planTaken (s : State) (r : Nat) : State :=
  let x := s.ring r
  let i := (x.out.map (·.idx)).getD 0
  if !x.bound || s.reexecuted r i then s.enqueue r s.gridRegions []
  else if x.pendTick then ((s.updRing r fun x => { x with pendTick := false }).enqueue r s.gridRegions []).restartDone
  else
    let s := (s.setOut r fun o => { o with prog := .tickHold, regions := s.gridRegions }).setRegF (Reg.RNG_STATE r) 3 1 1
    State.restartDone { s with jobs := { s.jobs with tickQ := s.jobs.tickQ ++ [r] } }

/-- RUN_PLAN and its checks (R207, R266). A header that lies in a logical region of a lost column cannot be read, and completes as
any RUN_PLAN without the grid does (DESIGN CHOICE, see the assumption log). -/
def execRunPlan (s : State) : Res :=
  s.takeDesc (· == 1) fun s r d =>
    let n := planOf d
    let e := s.planEnt n
    if !s.planValid n then .ok (s.finish r 7 0x10 0)
    else if !s.columnsOk && (s.physRegion e.hreg).isNone then .ok (s.finish r 0xF 0x24 0)
    else
      s.readHdr e.hreg e.off fun s h =>
        if h.magic ≠ planMagic ∨ h.format ≠ 1 then .ok (s.finish r 7 0x11 0)
        else if h.grade ≠ s.fuses.grade.toNat ∨ h.lgy ≠ s.rowsL then .ok (s.finish r 7 0x12 0)
        else if h.isStream ≠ (s.ring r).bound then .ok (s.finish r 6 0x02 0)
        else if !s.columnsOk then .ok (s.finish r 0xF 0x24 0)
        else if h.pitches = 0 then .ok (s.finish r 0 0 0)
        else
          .ok ((s.setOut r fun o =>
            { o with
              hreg := e.hreg, hoff := e.off, belay := s.regF Reg.GLB_POLICY 0 3, noRaise := tst (s.reg Reg.GLB_POLICY) 9
              cairnInt := (s.reg Reg.GLB_POLCAIRN).toNat, reportOnly := s.jobs.reportOnly.contains n, alts := (s.jobs.altSet.filter fun a => a.1 == n).map (·.2) }).planTaken r)

-- Types that wait for a grant

/-- Physical region of a unit. -/
def MUnit.region (u : MUnit) : Nat := if u.lar then siteRegion u.num else u.num

/-- COPY: the region of its ENGINE and every region its views touch (R246): that of the view block, and that of every unit named,
read or not. An ENGINE that names no logical cluster of the grid is U2 (DESIGN CHOICES, see the assumption log). -/
def execCopy (s : State) : Res :=
  s.takeDesc (· == 2) fun s r d =>
    match s.clusterSite (dF d 10 2 % 2 ^ 14) with
    | none => .error (.undef .u2)
    | some site =>
      let c := copyD (dBytes d)
      match s.locUnit site c.block with
      | none => .error (.undef .u2)
      | some bu =>
        let v := copyV (s.unitPeek bu (c.block % 2 ^ 35 / 32 * 32) 96)
        let us := [some bu, s.locUnit site v.src.loc, s.locUnit site v.dst.loc]
          ++ (if c.mode = 0 then [] else [s.locUnit site c.idx.loc])
        .ok (s.enqueue r ((siteRegion site :: (us.filterMap id).map MUnit.region).eraseDups) [])

/-- Unit of a LOAD, STORE: its LOC, whose offset is 256-byte aligned (R269). The UNIT 0xFFFF is defined (R495), and no rule says
whose larder or slice it names without an executing cluster: it is that of a free logical cluster (DESIGN CHOICE, see the
assumption log). -/
def State.peerUnit (s : State) (d : BitVec 512) : Option MUnit :=
  let grid := s.gridRegions.flatMap s.regionSites
  s.locUnit ((grid[Config.transferOwner d % grid.length]?).getD 0) (dF d 16 8)

def transferLinks (d : BitVec 512) : List Nat := if dF d 28 1 = 0 then [] else linksOf (dF d 32 6)

def State.enqueueTransfer (s : State) (r : Nat) (d : BitVec 512) : Flow :=
  match s.peerUnit d with
  | none => .error (.undef .u2)
  | some u => .ok (s.enqueue r [u.region] (transferLinks d))

def execLoad (s : State) : Res := s.takeDesc (· == 3) fun s r d => s.enqueueTransfer r d
def execStore (s : State) : Res := s.takeDesc (· == 4) fun s r d => s.enqueueTransfer r d

def execCairn (s : State) : Res :=
  s.takeDesc (· == 5) fun s r d =>
    if !s.planValid (planOf d) then .ok (s.finish r 7 0x10 0)
    else if !s.columnsOk then .ok (s.finish r 0xF 0x24 0)
    else .ok (s.enqueue r s.gridRegions [])

def execHandoff (s : State) : Res :=
  s.takeDesc (· == 0xA) fun s r d =>
    if !s.planValid (planOf d) then .ok (s.finish r 7 0x10 0)
    else .ok (s.enqueue r [] (linksOf (dF d 40 6)))

-- Types without a grant

/-- FENCE awaits what was taken before it from the rings named (R271). -/
def execFenceDescriptor (s : State) : Res :=
  s.takeDesc (· == 6) fun s r d =>
    let mask := dF d 8 8
    let wait := (List.range 64).filterMap fun q =>
      if mask.testBit q && q != r then (s.ring q).out.map fun o => (q, o.idx) else none
    .ok (s.setOut r fun o => { o with waitFor := wait, drain := dF d 16 1 % 2 == 1 }).fenceCheck

/-- BIND_STREAM replaces the ring's binding and may set the cadence; a channel of two rings is U7 (R272, R309). -/
def execBindStream (s : State) : Res :=
  s.takeDesc (· == 7) fun s r d =>
    let flags := dF d 11 1
    let unbind := flags % 2 == 1
    let setCad := flags / 2 % 2 == 1
    let pin := dF d 12 1 == 1
    let ing : BitVec 16 := if unbind then 0 else BitVec.ofNat 16 (dF d 8 2)
    let act : BitVec 8 := if unbind then 0 else BitVec.ofNat 8 (dF d 10 1)
    if setCad && pin && s.alias_ then .ok (s.finish r 4 0x31 0)
    else if (List.range 64).any fun q => q != r && ((s.ring q).ingest &&& ing != 0 || (s.ring q).actuate &&& act != 0) then
      .error (.undef .u7)
    else
      let s := s.updRing r fun x => { x with ingest := ing, actuate := act }
      let cad : Cadence := ⟨pin, max 1000 (min 60000000 (dF d 16 4)), BitVec.ofNat 64 (dF d 24 8)⟩
      let s := if setCad then { s with strm := { s.strm with newCad := some (cad, s.now + BitVec.ofNat 64 milli) } } else s
      .ok (s.finish r 0 0 0)

/-- POLICY: the groups that VALID names (R273, R470). -/
def execPolicy (s : State) : Res :=
  s.takeDesc (· == 8) fun s r d =>
    let v := dF d 8 4
    let on (i : Nat) : Bool := v.testBit i
    let bits := dF d 13 1
    let n := planOf d
    if on 5 && !s.planValid n then .ok (s.finish r 7 0x10 0)
    else
      let code := if dF d 12 1 ≤ 5 then dF d 12 1 else 3
      let s := if on 0 then (s.setRegF Reg.GLB_POLICY 0 3 code) else s
      let s := if on 0 then s.setRaised s.raisedLeft else s
      let s := if on 1 then s.setRegF Reg.GLB_PWRCAP 0 8 (max 48 (min 120 (dF d 14 2))) else s
      let s := if on 2 then s.setReg Reg.GLB_POLCAIRN (BitVec.ofNat 32 (dF d 16 4)) else s
      let s := if on 3 then s.setReg Reg.GLB_POLSWEEP (BitVec.ofNat 32 (dF d 20 4)) else s
      let s := if on 4 then s.setRegF Reg.GLB_POLICY 8 1 (bits % 2) else s
      let s := if on 6 then s.setRegF Reg.GLB_POLICY 9 1 (bits / 8 % 2) else s
      let s := if on 5 then
          { s with jobs := { s.jobs with
            altSet := if bits / 2 % 2 = 1 then s.jobs.altSet.filter fun a => a.1 != n else s.jobs.altSet
            reportOnly := let l := s.jobs.reportOnly.filter (· != n); if bits / 4 % 2 = 1 then l ++ [n] else l } }
        else s
      .ok (s.finish r 0 0 0)

def execNop (s : State) : Res := s.takeDesc (· == 0xB) fun s r _ => .ok (s.finish r 0 0 0)

def execDescriptorTypeRefused (s : State) : Res :=
  s.takeDesc (fun t => t == 0 || decide (0xB < t)) fun s r _ => .ok (s.finish r 6 0x01 0)

-- The plan directory (R202, R203)

/-- A RUN_PLAN of plan n that was taken runs on the plan as it stood: its switched pitches and its binding are kept with it. -/
def State.agePlan (s : State) (n r : Nat) : State :=
  s.setOut r fun o =>
    if dF o.desc 0 1 = 1 ∧ planOf o.desc = n ∧ o.old.isNone then
      { o with
        old := some (s.bindOf n)
        alts := o.alts ++ ((s.jobs.altSet.filter fun a => a.1 == n && !o.alts.contains a.2).map (·.2)) }
    else o

/-- A write to a register of entry n releases the plan that the entry named; what was taken before runs on the old one.
The reserved word takes no write. -/
def execGlbPlandirWrite (p : PortNo) (n : Fin 1024) (k : BitVec 2) (v : Word) (s : State) : Res :=
  if !s.reach (Reg.GLB_PLANDIR_CTL n) || k == 1 then .next s
  else
    let s := (List.range 64).foldl (fun s r => s.agePlan n r) s
    let s := s.updStep fun st => if st.handle = n.val ∧ st.old.isNone then { st with old := some (s.bindOf n) } else st
    let s := (s.writeRw (Reg.GLB_PLANDIR_CTL n + 4 * k.toNat) v).unlatch p (Reg.GLB_PLANDIR_CTL n + 4 * k.toNat)
    .next { s with jobs := { s.jobs with
      altSet := s.jobs.altSet.filter fun a => a.1 != n.val, reportOnly := s.jobs.reportOnly.filter (· != n.val)
      cairnSet := s.jobs.cairnSet.filter (· != n.val), binds := Tab.set none s.jobs.binds n none
      planStale := if s.jobs.planStale.contains n.val then s.jobs.planStale else s.jobs.planStale ++ [n.val] } }

/-- A write of RNG_CTL with ENABLE 0: U5 for a RUNNING or STOPPING ring, U10 while a descriptor is outstanding on the
job ring or on the job ring of the completion ring. A ring that is disabled executes nothing again (DEDUCED, see the
assumption log), and no step of it holds a window. -/
def execRngDisable (_p : PortNo) (n : Fin 129) (v : Word) (s : State) : Res :=
  if !s.reach (Reg.RNG_CTL n) then .next s
  else
    let st := s.ringState n
    if st = rsRunning ∨ st = rsStopping then undef .u5
    else if n.val < 128 ∧ (s.ring (n.val % 64)).out.isSome then undef .u10
    else
      let s := ((s.writeRw (Reg.RNG_CTL n) (v &&& 0x7FFFFFFF)).clearRing n).setReg (Reg.RNG_STATE n) 0
      .next (if n.val < 64 then ({ s with strm := { s.strm with
        wins := s.strm.wins.map fun w => w.drop fun h => h.1 == n.val } } : State).restartDone else s)

-- Completion records (R276 to R282)

/-- SLACK_US in µs, rounded down, before it saturates (R278). A LATE step whose outputs wait for their tick counts to the
tick that it missed, so that its slack is negative (R314; DEDUCED, see the assumption log). A stream step without a release has no such tick, and its
value is free (DESIGN CHOICE, see the assumption log). -/
def State.slack (s : State) (o : Outst) (late : Bool) : Int :=
  let us (t : Int) : Int := (t - s.now.toNat) / 100
  match o.emitTick.orElse fun _ => if late then o.missTick else none, s.strm.cad with
  | some t, _ => us t.toNat
  | none, none => 0
  | none, some c =>
    if o.relAt.isNone then BitVec.toInt (BitVec.ofNat 32 (Config.measure s.freeCtr))
    else if c.pin then us (s.strm.lastTick.toNat + 100 * c.period)
    else us (((s.nextTick).map (·.1)).getD s.now.toNat)

def State.timeEnd (s : State) (o : Outst) : Word :=
  if 2 ^ 32 - 1 ≤ (s.now - o.tStart).toNat then o.tStart.setWidth 32 - 1 else s.now.setWidth 32

/-- The record and any notification (R281); the energy is 0 without a grant. -/
def State.putCompletion (s : State) (n : Nat) (o : Outst) (c : CompRec) (energy : Word) : State :=
  let bound := dF o.desc 0 1 == 1 && (s.ring n).bound
  let flags := c.flags ||| (s.ring n).rewindFlags o.idx ||| 8 * b2n (s.ring n).underrun
  let slack := if bound then BitVec.ofInt 32 (clampInt (-2 ^ 31) (2 ^ 31 - 1) (s.slack o (c.status == 5))) else 0
  let d := toLe 4 (dF o.desc 4 4) ++ [BitVec.ofNat 8 c.status, BitVec.ofNat 8 flags, BitVec.ofNat 8 n, BitVec.ofNat 8 c.detail]
    ++ toLe 8 o.tStart.toNat ++ toLe 4 (s.timeEnd o).toNat ++ toLe 4 (if o.hadGrant then energy.toNat else 0)
    ++ toLe 4 slack.toNat ++ toLe 4 c.checks
  let nm := s.regF (Reg.RNG_CTL (64 + n)) 6 2
  let notify := decide (2 ≤ nm) || (nm == 1 && (dF o.desc 1 1 % 2 == 1 || c.status != 0))
  (if bound && o.relAt.isNone then s.useFree else s).putRecord (64 + n) 5 d notify

/-- The regions of a grant that is returned switch back to REFCLK; the last one posts REF_RESTORED (R430). -/
def State.switchGrant (s : State) (n : Nat) : State :=
  let rs := s.clk.switching.filter fun r => (s.ring n).out.elim false fun o => o.regions.contains r
  if rs.isEmpty then s else (rs.foldl State.switchBack s).refRestored

/-- The window of the outstanding descriptor of a ring: the one granted to it, or to the descriptor at the fault index before
the restart (R370). -/
def RingSt.stepWindow (x : RingSt) : Option Word :=
  x.out.bind fun o => o.window.orElse fun _ => if x.faultIdx = some o.idx then x.faultWindow else none

/-- The grant comes back; the window that the RUN_PLAN holds is freed with its record, at once when the step has no result
(R307). -/
def State.returnGrant (s : State) (n : Nat) (bad : Bool) : State :=
  let win := (s.ring n).stepWindow
  let mine (h : Nat × BitVec 16 × Bool) : Bool := h.1 == n
  let wins := s.strm.wins.map fun w =>
    if win ≠ some w.num then w
    else if bad then w.drop mine else { w with holds := w.holds.map fun h => if mine h then (h.1, h.2.1, true) else h }
  State.switchGrant { s with
    strm := { s.strm with wins := wins }
    jobs := { s.jobs with
      grants := s.jobs.grants.filter (· != n)
      step := s.jobs.step.filter fun st => st.ring != n } } n

/-- Descriptors that FENCEs await (R271). -/
def State.fenceWakes (s : State) (n : Nat) (i : Word) : State :=
  ((List.range 64).foldl
    (fun s q => if (s.ring q).out.isSome then s.setOut q fun o => { o with waitFor := o.waitFor.filter (· != (n, i)) } else s)
    s).fenceCheck

/-- A RUN_PLAN has completed (R362). -/
def State.countPlan (s : State) (o : Outst) : State :=
  if dF o.desc 0 1 = 1 then { s with jobs := { s.jobs with sinceCairn := s.jobs.sinceCairn + 1 } } else s

/-- After a released step: STEP, the raised rate, and the snapshot that is due at the boundary (R53, R169, R362, R373). A
completion without a release has no boundary: what it made due waits for the next one (DESIGN CHOICE, see the log). -/
def State.stepBoundary (s : State) (st : StepSt) (o : Outst) : Flow :=
  let s := { s with jobs := { s.jobs with lastStep := st.step } }
  let s := if s.raisedLeft ≠ 0 && !st.raised then s.setRaised (s.raisedLeft - 1) else s
  let due : Bool := s.jobs.forceCairn || (s.planSoon && !s.resil.cairn.elim false (·.forPlan))
    || (o.cairnInt != 0 && decide (o.cairnInt ≤ s.jobs.sinceCairn))
  if due && s.cairnStage == caIdle then s.snapshot ⟨st.hdr⟩ st.handle none else .ok s

/-- A ring has passed its fault index; the index stays known while the restart lasts (R291). -/
def RingSt.passed (x : RingSt) (restart : Bool) : RingSt :=
  { x with faultIdx := none, pastIdx := if restart then x.faultIdx else none, gAgain := false, replayQ := [], rewindStopped := false }

def State.passFault (s : State) (n : Nat) : State := s.updRing n fun x => x.passed s.resil.restart.isSome

/-- The end of a stopped rewind: the ring moves to STOPPED with RESTART_DONE (R292). -/
def State.rewindHalt (s : State) (n : Nat) : State :=
  let s := (s.passFault n).updRing n fun x => { x with halted := true }
  { s with resil := { s.resil with restart := s.resil.restart.map fun x => { x with stopped := true } } }

/-- A rewind stops at a re-executed descriptor that fails; its ring stops after the descriptor at G (R292). -/
def State.rewindStep (s : State) (n : Nat) (i : Word) (status : Nat) : State :=
  match (s.ring n).faultIdx with
  | none => s
  | some g =>
    if i = g then
      if (s.ring n).rewindStopped then s.rewindHalt n else s.passFault n
    else
      let s := if status = 0xF then s.updRing n fun x => { x with rewindStopped := true } else s
      if (s.ring n).rewindStopped && i + 1 == g && s.reg (Reg.RNG_HOSTIDX n) == g then s.rewindHalt n else s

/-- A step's record has been written: an idle window opens (R38, R387). -/
def State.openIdle (s : State) : State := { s with resil := { s.resil with winSwept := [], idleWin := true } }

/-- The step is abandoned before its release: cores and fetch-ahead engines stop (R163), staged items are
freed, packets begun are ended with a truncation mark, behind those visible before them, or removed when empty, and checks end
(R315, R321, R326, R385). -/
def State.endStep (s : State) : State :=
  let s := s.dropChecks fun _ => true
  { s with
    clusters := Tab.mapVals {}
      (fun _ c => { c with
        run := .held, stall := none, copyBusy := c.copyBusy.filter (· != .program), wrDrop := [], wrPart := 0, rdPart := (0, false), fa := {} })
      s.clusters
    strm := { s.strm with staged := [], packets := cutOpen (fun _ => true) s.strm.packets } }

/-- A descriptor executed again inside a replay ends without a record (R372). A step so run again does not count toward the 1,000
steps at the raised rate (DESIGN CHOICE, see the assumption log). -/
def State.internalDone (s : State) (n : Nat) (o : Outst) (status : Nat) : State :=
  let s := s.updRing n fun x => { x with out := none }
  let s :=
    if status = 0xF then
      let s := s.updRing n fun x => { x with rewindStopped := true, replayQ := x.replayQ.filter fun e => x.faultIdx == some e.1 }
      if (s.ring n).replayQ.isEmpty then s.rewindHalt n else s
    else s
  let s := if dF o.desc 0 1 = 1 then { s with jobs := { s.jobs with lastStep := BitVec.ofNat 64 (dF o.desc 8 8) } } else s
  (s.stopIfIdle n).fenceWakes n o.idx

/-- STEP_REPLAYED, before the record of the replayed RUN_PLAN (R293). -/
def State.postReplayed (s : State) (n : Nat) (o : Outst) : State :=
  let replay := (s.resil.restart.map (·.replay)).getD false
  if replay && (s.ring n).faultIdx == some o.idx && dF o.desc 0 1 == 1 then
    s.post 0x0405 (src 7 n) [(0, dF o.desc 8 8), (8, dF o.desc 4 4)]
  else s

/-- RESTART_BEGIN waits to be written: the records that it brackets follow it (R281, R290). -/
def State.bracketWaits (s : State) (n : Nat) (o : Outst) (c : CompRec) : Bool :=
  s.jobs.events.any (fun e => e.code == 0x0403) && (c.detail == 0x40 || (s.ring n).rewindFlags o.idx != 0)

/-- A descriptor's completion record is written; the ring takes the next descriptor only after it (R262). -/
def execCompletionRecordWrite (ring : RingNo) (energy : Word) (s : State) : Res :=
  let n := ring.val
  match (s.ring n).out with
  | none => .next s
  | some o =>
    match o.rec_ with
    | none => .next s
    | some c =>
      if o.internal then .next ((s.returnGrant n false).internalDone n o c.status).restartDone
      else if s.ringState (64 + n) ≠ rsRunning ∨ s.ringPort.isNone ∨ s.bracketWaits n o c then .next s
      else if !s.hasSpace (64 + n) then .next (s.waitSpace (64 + n))
      else
        let st := s.jobs.step.filter fun st => st.ring == n
        let s := if st.isSome && o.relAt.isNone then s.endStep else s
        let s := (s.postReplayed n o).putCompletion n o c energy
        let s := s.returnGrant n (c.status == 2 || c.status == 0xF)
        let s := (s.updRing n fun x => { x with out := none, done := o.idx + 1, underrun := false }).countPlan o
        let s := ((s.shadow n).rewindStep n o.idx c.status).stopIfIdle n
        let f := match st with
          | some st => if o.relAt.isSome then s.openIdle.stepBoundary st o else .ok s.openIdle
          | none => .ok s
        Flow.res (f.bind' fun s => .ok ((s.fenceWakes n o.idx).restartDone.fetchMore n))

end Sys2Proof.Machine
end

