-- ==== Sys2Proof/Machine/Run.lean ====
section
/-! DEFINITION. Grants and what they start: transfers, copies, cairns, bindings and control steps with their wakes,
pitches, handoffs and release; and margin sweeps (R38 to R42, R80 to R83, R203 to R224, R264 to R275, R386, R387). -/

namespace Sys2Proof.Machine

-- The job gate (R31 to R33, R264)

def typeOf (o : Outst) : Nat := dF o.desc 0 1

def meets (a b : List Nat) : Bool := a.any b.contains

/-- A grant that a request may not take from: every type but SWEEP, which a job preempts (R390). -/
def State.blocked (s : State) (o : Outst) : Bool :=
  s.jobs.grants.any fun n => (s.ring n).out.elim false fun g => typeOf g != 9 && (meets g.regions o.regions || meets g.links o.links)

/-- A CAIRN waits until the previous snapshot is drained (R363). -/
def State.cairnWaits (s : State) (o : Outst) : Bool := typeOf o == 5 && s.cairnStage != caIdle

/-- Until RESTART_DONE no step starts on a tick: only what the restart executes again runs, back to back (R43). -/
def State.afterRewind (s : State) (n : Nat) (o : Outst) : Bool :=
  s.resil.restart.isSome && typeOf o == 1 && (s.ring n).bound && !s.reexecuted n o.idx && !o.internal

/-- The oldest request that can be granted and takes nothing that an older waiting one needs. -/
def State.grantable (s : State) : List Nat → List Nat → List Nat → Option Nat
  | [], _, _ => none
  | n :: ns, rs, ls =>
    match (s.ring n).out with
    | none => s.grantable ns rs ls
    | some o =>
      if s.afterRewind n o then s.grantable ns rs ls
      else if s.blocked o || s.cairnWaits o || meets o.regions rs || meets o.links ls then
        s.grantable ns (rs ++ o.regions) (ls ++ o.links)
      else some n

-- Margin sweeps (R386, R387)

/-- A grant is issued; an idle window ends with it (R387). -/
def State.addGrant (s : State) (n : Nat) : State :=
  { s with
    jobs := { s.jobs with grants := s.jobs.grants ++ [n] }
    resil := { s.resil with winSwept := [], idleWin := false } }

/-- Zero the powered groups of a region, whose larders held the kernels of the known-answer set. -/
def State.zeroLarders (s : State) (r : Nat) : State :=
  (allSites r).foldl
    (fun s site => (List.range 4).foldl (fun s g => if s.groupIsOn site g then s.groupOn site g else s) s) s

/-- Copy the larders back from the staging area of the carrier, or leave zero where no copy was made. -/
def State.sweepEnd (s : State) (r : Nat) : Flow :=
  let copy := (s.rg r).sweepCopy
  let s := (s.updRg r fun g => { g with sweeping := false, sweepCopy := none }).sweepPools
  match copy with
  | none => .ok (s.zeroLarders r)
  | some (_, off) =>
    foldFlow
      (fun s (p : Nat × Nat) =>
        foldFlow
          (fun s g =>
            if s.groupIsOn p.2 g then
              s.planRead r (off + p.1 * 4 * mib + g * mib) mib fun s d => s.larStore p.2 (g * mib) d
            else .ok s)
          s (List.range 4))
      s ((s.regionSites r).zipIdx.map fun p => (p.2, p.1))

/-- Copy the 64 larders of a region to image offset 0 of the carrier's staging area, past whose end is U1 (R207); the local
snapshot is lost. Nothing is copied where the larders hold no job state, and a region whose staging area drains is passed over. -/
def State.sweepStart (s : State) (r : Nat) : Flow :=
  let begin_ (s : State) (c : Option (Nat × Nat)) : State := ((s.preemptWatch r).updRg r fun g => { g with sweeping := true, sweepCopy := c }).sweepPools
  match s.jobs.cairnSet.getLast?, s.logRegion r with
  | some n, some _ =>
    if s.rstate r = stDark then .ok (begin_ s none)
    else if s.cairnStage = caDraining then .ok s
    else
      let off := (s.hdrPeek n).cairnOff
      if (s.hdrPeek n).cairnEnd < off + 256 * mib then .error (.undef .u1)
      else (foldFlow (fun s (p : Nat × Nat) => s.copyLarder p.1 r (off + p.2 * 4 * mib)) s (s.regionSites r).zipIdx).bind' fun s =>
        .ok (begin_ (s.setLocal false) (some (n, off)))
  | _, _ => .ok (begin_ s none)

/-- A higher rank holds a region that a sweep asks for (R389, R390). -/
def State.sweepHeld (s : State) (r : Nat) : Bool :=
  s.regionGranted r || s.usedByCheck r || (s.rg r).scrubWin || (s.rg r).waking

/-- SWEEP never waits: a named region that is held completes it HELD (R264, R274). -/
def execSweep (s : State) : Res :=
  s.takeDesc (· == 9) fun s r d =>
    let rs := (List.range 192).filter fun i => (dF d 8 24).testBit i && !s.isRetired i
    if rs.any s.sweepHeld then .ok (s.finish r 4 0x30 0)
    else
      (foldFlow State.sweepStart s rs).bind' fun s =>
        let s := s.setOut r fun o =>
          { o with prog := .granted, hadGrant := true, tStart := s.now, regions := rs, marginRetire := s.regF Reg.GLB_POLICY 8 1 == 1 }
        let s := s.addGrant r
        .ok (if rs.any fun i => (s.rg i).sweeping then s else s.finish r 0 0 0)

/-- Pick up to 8 regions in ascending number, no two in one slab. -/
def sweepPick (ok : Nat → Bool) : List Nat → List Nat → List Nat
  | [], acc => acc
  | r :: rs, acc =>
    if 8 ≤ acc.length then acc
    else if ok r && !acc.any fun q => slabOf q == slabOf r then sweepPick ok rs (acc ++ [r])
    else sweepPick ok rs acc

/-- Regions that scheduled sweeps visit: those that are not RETIRED and have their supply (R387, R415). -/
def State.sweepable (s : State) (r : Nat) : Bool := !s.isRetired r && !(s.slab (slabOf r)).dark

/-- What a round of scheduled sweeps has done, to its end; once that is every region that they visit, the round is over. -/
def State.noteSwept (s : State) (rs : List Nat) : State :=
  let all := s.resil.swept ++ rs
  let whole : Bool := ((List.range 192).filter s.sweepable).all all.contains
  { s with resil := { s.resil with swept := if whole then [] else all, lastSweep := if whole then s.now else s.resil.lastSweep } }

/-- An idle window: from a step's phase 9, which follows the staging of a snapshot, to the next grant (R38, R387). -/
def State.idleWindow (s : State) : Bool := s.resil.idleWin && s.cairnStage != caStaging

/-- The sweep interval: in an idle window the regions that the round has not visited yet, lowest number first, up to 8 in one
window and no two of them in one slab; at any other time reserves only. A region that is held waits for a later window of the
round (R387, R390; DEDUCED, see the assumption log). -/
def execScheduledSweep (s : State) : Res :=
  let n := (s.reg Reg.GLB_POLSWEEP).toNat
  let due : Bool := n != 0 && (!s.resil.swept.isEmpty || decide (n * 60 * second ≤ (s.now - s.resil.lastSweep).toNat))
  let idle := s.idleWindow
  if (s.dev.base ≠ .ready ∧ s.dev.base ≠ .degraded) ∨ !due then .next s
  else
    let free (r : Nat) : Bool := s.sweepable r && !s.resil.swept.contains r && !s.sweepHeld r && (idle || s.isReserve r)
    let before := if idle then s.resil.winSwept else []
    let rs := (sweepPick free (List.range 192) before).drop before.length
    Flow.res ((foldFlow State.sweepStart s rs).bind' fun s =>
      let rs := rs.filter fun r => (s.rg r).sweeping
      .ok (if idle then { s with resil := { s.resil with winSwept := s.resil.winSwept ++ rs } } else s))

/-- No bad site lies in the column of a site: its spare is free. A claim that waits for a restart does not take it, so two
findings in one column before that restart both claim it (DESIGN CHOICE, see the assumption log). -/
def State.spareFree (s : State) (site : Nat) : Bool :=
  (List.range 9).all fun p => !s.badSite (siteAt (siteRegion site) (siteCol site) p)

/-- Raise the guard band of a region (R386, R395). -/
def State.raiseGuard (s : State) (r : Nat) : State :=
  let s := s.setResilF r 2 1 1
  { s with attic := { s.attic with guard := if s.attic.guard.contains r then s.attic.guard else s.attic.guard ++ [r] } }

/-- What a site that fails at step 1 or step 4 of a sweep leads to, with MARGINAL_FOUND; a site of which a row is named takes
a spare row instead. It retires its region where MARGIN_RETIRE says so, or where the sweep ran against a raised guard band. Where
a spare replaces it, DATA byte 3 is free (DESIGN CHOICE, see the assumption log). -/
def State.marginal (s : State) (retire rowNamed : Bool) (site mask : Nat) : State :=
  let r := siteRegion site
  let one := mask.testBit 0
  let put (s : State) (how : Nat) : State :=
    s.post 0x040A (srcRegion r) [(0, site), (2, if one then 1 else 4), (3, how)]
  if !one && !mask.testBit 3 then s
  else if rowNamed then (put s (Config.measure s.freeCtr % 2)).useFree
  else if s.spareFree site then
    let s := if mask.testBit 3 then s.todo (.badSite (Fin.ofNat 13824 site))
      else { s with
        attic := { s.attic with marginal := if s.attic.marginal.contains site then s.attic.marginal else s.attic.marginal ++ [site] }
        resil := { s.resil with plannedDue := true } }
    (put s (Config.measure s.freeCtr % 2)).useFree
  else if mask.testBit 3 then put (s.todo (.forced (Fin.ofNat 192 r) 10)) 1
  else if !retire then put (s.raiseGuard r) 0
  else put (s.planRetirement r 10) 1

/-- The results of a region's sweep: RGN_SWEEP, RGN_KA, what each failing site leads to, and the rows that take a spare. -/
def State.sweepResults (s : State) (r stress : Nat) (retire : Bool) (mine : List (SiteNo × BitVec 4))
    (rows : List (SiteNo × BitVec 2 × BitVec 6)) (larRows : List (SiteNo × BitVec 14)) (notHot : Bool) : State :=
  let fails := mine.foldl (fun a e => a ||| e.2.toNat) 0
  let w := Tab.get 0 s.attic.sweep r
  let w := setFld (setFld (setFld w 0 4 fails) 4 1 (b2n notHot)) 16 16 (fld w 16 16 + 1)
  let s := { s with attic := { s.attic with sweep := Tab.set 0 s.attic.sweep r w } }
  let s := (s.count (Reg.RGN_KA r) 0 16 (ones 4 (BitVec.ofNat 4 stress))).count (Reg.RGN_KA r) 16 16 (ones 4 (BitVec.ofNat 4 fails))
  let named (site : SiteNo) : Bool := (rows.any fun x => x.1 == site) || larRows.any fun x => x.1 == site
  let retire := retire || s.resilF r 2 1 == 1
  let s := mine.foldl (fun s e => s.marginal retire (named e.1) e.1 e.2.toNat) s
  let s := (rows.filter fun x => siteRegion x.1 == r).foldl (fun s x => s.todo (.hardArray x.1 x.2.1 x.2.2)) s
  (larRows.filter fun x => siteRegion x.1 == r).foldl (fun s x => s.todo (.hardLarder x.1 x.2)) s

/-- A region's sweep ends (R386, R392); its SWEEP completes with the last of its regions. In a region that was retired
meanwhile it ends without a result. -/
def execSweepFinished (r : RegionNo) (found : SweepFound) (notHot : Bool) (s : State) : Res :=
  if !(s.rg r).sweeping || !(s.clocked r || s.isRetired r) then .next s
  else
    let mine := found.failing.filter fun e => siteRegion e.1 == r.val && e.2 != 0 && !s.isRetired r
    let ring := s.jobs.grants.find? fun n => (s.ring n).out.elim false fun o => typeOf o == 9 && o.regions.contains r.val
    let stress := (ring.bind fun n => (s.ring n).out.map fun o => dF o.desc 32 1 % 16).getD 15
    let retire := (ring.bind fun n => (s.ring n).out.map (·.marginRetire)).getD (s.regF Reg.GLB_POLICY 8 1 == 1)
    let s := if s.isRetired r then s else s.sweepResults r stress retire mine found.rows found.larRows notHot
    Flow.res ((s.sweepEnd r).bind' fun s =>
      match ring with
      | none => .ok (s.noteSwept [r])
      | some n =>
        let s := s.setOut n fun o => { o with failed := o.failed + mine.length }
        match (s.ring n).out with
        | some o =>
          .ok (if o.regions.any fun i => (s.rg i).sweeping then s else s.finish n 0 0 0)
        | none => .ok s)

/-- A claim on regions at a higher rank ends the sweeps, scrub windows and watch captures on them (R390). -/
def State.claimRegions (s : State) (rs : List Nat) : Flow :=
  let sweeps := s.jobs.grants.filter fun n => (s.ring n).out.elim false fun o => typeOf o == 9 && meets o.regions rs
  let more := sweeps.flatMap fun n => ((s.ring n).out.map (·.regions)).getD []
  (foldFlow (fun s r => if (s.rg r).sweeping then s.sweepEnd r else .ok s) s (rs ++ more)).bind' fun s =>
    let s := sweeps.foldl (fun s n => s.finish n 2 0x41 0) s
    let s := { s with jobs := { s.jobs with grants := s.jobs.grants.filter fun n => !sweeps.contains n } }
    .ok (rs.foldl (fun s r => (s.preemptWatch r).closeWindow r) s)

/-- Firmware opens a scrub window for a logical region that has not completed a pass in the last 9 minutes, while no higher
rank holds the region (R145, R389); a sweep or a watch capture there ends (R390, R458). -/
def execScrubWindow (r : RegionNo) (s : State) : Res :=
  let job : Bool := s.jobs.grants.any fun n => (s.ring n).out.elim false fun o => typeOf o != 9 && o.regions.contains r.val
  let check : Bool := s.resil.checks.any fun x => siteRegion x.checker == r.val || (x.third.map siteRegion) == some r.val
  if (s.logRegion r).isNone || job || check || (s.rg r).waking || (s.rg r).scrubWin || s.passedRecently r
      || tst (s.reg (Reg.RGN_SCRUBINT r)) 31 then .next s
  else if (s.rg r).sweeping then
    Flow.res ((s.claimRegions [r]).bind' fun s => .ok (s.openWindow r))
  else if s.rstate r = stBivouac || (s.clocked r && s.devState != 5 && s.cairnStage != caStaging) then
    .next ((s.preemptWatch r).openWindow r)
  else .next s

-- Checks replay (R381 to R383, R390)

/-- A check that begins claims its region: a sweep or a watch capture there ends (R390; for the moment DESIGN CHOICE, see the
assumption log). -/
def State.checkClaims (s : State) (site : Nat) : Flow :=
  let r := siteRegion site
  if (s.rg r).sweeping then s.claimRegions [r] else .ok (s.preemptWatch r)

/-- The checker replays the stream and compares. -/
def execCheckReplay (slot : BitVec 16) (s : State) : Res :=
  match s.checkNo slot with
  | none => .next s
  | some x =>
    if x.sigC.isSome || !s.canCheck x.checker then .next s
    else
      Flow.res ((s.checkClaims x.checker).bind' fun s =>
        let (s, sig) := s.replayOn x.checker x
        if sig = x.sig then .ok (s.checkEnds x)
        else
          match s.thirdOf x.primary x.checker x.checker with
          | some d => .ok (s.setCheck { x with sigC := some sig, third := some d })
          | none => .ok (s.arbitrate x 2))

/-- The third replays the stream; without a third left the disagreement is decided as outcome 2 (R385). -/
def execThirdReplay (slot : BitVec 16) (s : State) : Res :=
  match s.checkNo slot with
  | none => .next s
  | some x =>
    match x.sigC, x.third with
    | some c, some d =>
      if !s.canCheck d then .next s
      else
        Flow.res ((s.checkClaims d).bind' fun s =>
          let (s, sig) := s.replayOn d x
          .ok (s.arbitrate x (if sig = x.sig then 0 else if sig = c then 1 else 2)))
    | some _, none => .next (s.arbitrate x 2)
    | none, _ => .next s

-- Re-executed inputs (R370)

/-- A record of a step in a slot: its window and its payload, when it is valid; the reads are checked (R158, R159). -/
def State.heldRead (s : State) (r off half : Nat) (step : DWord) (k : State → Option (Word × List Byte) → Flow) : Flow :=
  s.planRead r off 64 fun s h =>
    let n := leAt h 24 4
    if leAt h 0 8 = step.toNat ∧ leAt h 23 1 % 2 = 1 ∧ 64 + n ≤ half then
      s.planRead r (off + 64) n fun s d =>
        k s (if leAt h 32 8 = (crcFold 0 d).toNat then some (BitVec.ofNat 32 (leAt h 16 4), d) else none)
    else k s none

/-- A region's record of a step: window, payload and the reads it came from. -/
abbrev HeldRec := Word × List Byte × List (Nat × Nat × Nat)

/-- The record of a region's step from its primary or its mirror: none when no slot was taken, and none inside when both
are lost or the record was overwritten. -/
def State.heldOf (s : State) (h : Hdr) (lreg : Nat) (step : DWord) (k : State → Option (Option HeldRec) → Flow) : Flow :=
  match s.physRegion lreg with
  | none => k s none
  | some r =>
    let g := s.rg r
    match g.heldSteps.idxOf? step with
    | none => k s (if g.heldLost.contains step then some none else none)
    | some slot =>
      let base := h.heldBase + slot * h.heldSlot
      let mir := (lreg / 16 + 1) % s.rowsL * 16 + lreg % 16
      let got (s : State) (x : Option (Word × List Byte)) : Flow := k s (some (x.map fun x => (x.1, x.2, Tab.get [] g.heldLog slot)))
      s.heldRead r base (h.heldSlot / 2) step fun s x =>
        match x, s.physRegion mir with
        | none, some rm => s.heldRead rm (base + h.heldSlot / 2) (h.heldSlot / 2) step got
        | x, _ => got s x

/-- The records of a step in logical regions, by logical region. -/
def State.heldAll (h : Hdr) (step : DWord) : List Nat → List (Nat × Option HeldRec) → State →
    (State → List (Nat × Option HeldRec) → Flow) → Flow
  | [], acc, s, k => k s acc
  | l :: ls, acc, s, k =>
    s.heldOf h l step fun s x => State.heldAll h step ls (acc ++ (x.map fun y => (l, y)).toList) s k

-- The step: start (R38, R204, R212 to R214, R350)

def State.stepHdr (s : State) : Hdr := ⟨(s.jobs.step.map (·.hdr)).getD []⟩

/-- The pitch at whose start an inbound handoff is awaited (R224). -/
def waitPitch (x : Inbound) : Nat := if x.lag = 0 then x.pitch + 1 else 0

/-- Logical region, DST and bytes of each entry of a tag. The sender is the other stretch of the same plan, whose k-th entry of
that pitch in the other direction lands at the k-th entry here; the last takes what is left (DESIGN CHOICE, see the assumption
log). -/
def tagParts (es : List HEnt) (e : HEnt) : List (Nat × Nat × Nat) :=
  let mine := es.filter fun x => x.pitch == e.pitch && x.dir == e.dir
  let sent := es.filter fun x => x.pitch == e.pitch && x.dir + e.dir == 1
  mine.zipIdx.map fun p =>
    (p.1.region, p.1.dst, if p.2 + 1 < mine.length then (sent[p.2]?).elim 0 HEnt.length else 2 ^ 35)

/-- An entry is the first of its tag and LAG: one pull stands for all of them. -/
def firstOfTag (es : List HEnt) (e : HEnt) (i : Nat) : Bool :=
  !(es.take i).any fun x => x.pitch == e.pitch && x.dir == e.dir && x.lag == e.lag

/-- The inbound tags that a step will wait for, each once. The job starts with the first step under a JOBTAG: there a LAG 1 area
is used as it stands (R224). An entry receives from the stretch that its direction names (R350). -/
def inboundOf (tid : Nat) (bind : Option HandBind) (h : Hdr) (step : DWord) (es : List HEnt) : List Inbound :=
  match bind with
  | none => []
  | some b =>
    es.zipIdx.filterMap fun p =>
      match b.sendTo h.stretches p.1.dir with
      | none => none
      | some (from_, _) =>
        let first := b.first.elim true fun x => x == step
        let wanted := if p.1.lag = 0 then decide (p.1.pitch + 1 < h.pitches) else p.1.lag == 1 && !first
        if wanted && firstOfTag es p.1 p.2 then
          some
            { entries := (es.zipIdx.filter fun q => q.1.pitch == p.1.pitch && q.1.dir == p.1.dir && q.1.lag == p.1.lag).map (·.2)
              pitch := p.1.pitch, lag := p.1.lag, tagStep := if p.1.lag = 0 then step else step - 1, from_ := from_
              parts := tagParts es p.1, got := 0, total := none, pulls := 1, tid := tid + p.2, link := 0, tries := 0
              checked := false, done := false }
        else none

/-- Start the step's pitch in a region, once its inbound handoffs have been reported. -/
def State.startRegion (s : State) (r : Nat) : Flow :=
  match s.jobs.step with
  | none => .ok s
  | some st =>
    let held := st.inbound.any fun x => waitPitch x == st.pitch && !x.done
    if st.regionsUp.contains r || held then .ok s
    else
      match s.physRegion st.hreg with
      | none => .error (.undef .u2)
      | some hr =>
        let h : Hdr := ⟨st.hdr⟩
        s.readPitch hr h st.pitch fun s e =>
          let entry := if st.alts.contains st.pitch then e.altPitch else st.pitch
          (s.startPitch hr h st.pitch entry st.seed.toNat r).bind' fun s =>
            .ok (s.updStep fun st => { st with regionsUp := st.regionsUp ++ [r] })

/-- A step that waits for inbound tags, with every depot link of the module down, completes LINK_DOWN (R224). -/
def State.handoffWait (s : State) : State :=
  match s.jobs.step with
  | none => s
  | some st =>
    let waits := decide (st.phase = .pitches) && st.inbound.any fun x => waitPitch x == st.pitch && !x.checked
    if waits && depotLinks.all fun l => !s.linkUp l then s.finish st.ring 8 0x50 0 else s

/-- Every region of the step is ACTIVE: the engines start, and then pitch 0 (phases 4 and 5 of R38). -/
def State.stepReady (s : State) : Flow :=
  match s.jobs.step with
  | none => .ok s
  | some st =>
    if st.phase ≠ .waking || !s.gridRegions.all fun r => st.joined.contains r && s.clocked r then .ok s
    else
      (s.startEngines ⟨st.hdr⟩).bind' fun s =>
        (foldFlow State.startRegion (s.updStep fun st => { st with phase := .pitches }) s.gridRegions).bind' fun s => .ok s.handoffWait

/-- A region of the step is ACTIVE: steps 1 to 3 of R212, once; the last one lets the step go on. -/
def State.joinStep (s : State) (r : Nat) : Flow :=
  match s.jobs.step with
  | none => .ok s
  | some st =>
    if st.joined.contains r then .ok s
    else
      match s.physRegion st.hreg with
      | none => .error (.undef .u2)
      | some hr =>
        (s.wakeRegion hr ⟨st.hdr⟩ (st.reload.contains r) r).bind' fun s =>
          (s.updStep fun st => { st with joined := st.joined ++ [r] }).stepReady

/-- The waves of a grant in each slab (R404), by field position. -/
def waveOf (r : Nat) : Nat := regionY r % 2 * 2 + regionX r % 2

def State.waves (s : State) (rs : List Nat) (sl : Nat) : List (List Nat) :=
  (List.range 4).map fun w => rs.filter fun r => slabOf r == sl && waveOf r == w && !s.clocked r && !(s.rg r).waking

/-- A region's share of a step budget of n tenths of a kW, in A at 0.70 V and at most the 72 A of R402 (DESIGN CHOICE, see
the assumption log). -/
def budgetShare (n regions : Nat) : Nat := min (reserveGrant - 8) (1000 * n / (7 * max 1 regions))

/-- What a slab's limit leaves for reservations, in A. -/
def State.waveRoom (s : State) (sl : Nat) : Int := (1250 : Int) - s.regF (Reg.SLB_BUDGET sl) 16 12 - s.reservedAmps sl

/-- Start the waves that the slab limit has room for, 4 µs apart from the k-th on; the first that does not fit waits with those
after it, for the slab's boundaries (R404). -/
def State.runWaves (sl : Nat) : List (Nat × List Nat) → Nat → State → State
  | [], _, s => s.updSlab sl fun x => { x with waves := [] }
  | w :: ws, k, s =>
    if s.waveRoom sl < (w.1 * w.2.length : Nat) then s.updSlab sl fun x => { x with waves := w :: ws, wavesSince := s.now }
    else
      State.runWaves sl ws (k + 1) (w.2.foldl (fun s r =>
        ((s.reserve sl r w.1).wakeStart r).updRg r fun g => if g.waking then { g with wakeAt := s.now + BitVec.ofNat 64 (4 * micro * k) } else g) s)

/-- The waves of a slab that wait are tested at a boundary: they lack headroom and are counted, as one request, or start
(R403, R404). -/
def State.retryWaves (s : State) (sl : Nat) : State :=
  let since := (s.slab sl).wavesSince
  let t := State.runWaves sl (s.slab sl).waves 0 s
  if (t.slab sl).waves.isEmpty then t
  else
    let first := (t.slab sl).waves.length == (s.slab sl).waves.length
    let t := if first then t.updSlab sl fun x => { x with wavesSince := since } else t
    t.count (Reg.SLB_WAKEDEF sl) 16 16 1

/-- Wake the regions of a grant, each slab's reservation being its share of the budget. Waves of another grant that wait in the
slab go first. -/
def State.wakeGrant (s : State) (rs : List Nat) (share : Nat) : State :=
  let s := (List.range 12).foldl
    (fun s sl =>
      let old := (s.slab sl).waves
      let new := (s.waves rs sl).filterMap fun w => if w.isEmpty then none else some (share, w)
      if old.isEmpty then State.runWaves sl new 0 s else s.updSlab sl fun x => { x with waves := old ++ new })
    s
  (rs.filter s.clocked).foldl (fun s r => if s.rstate r = stIdle then s.setRstate r stActive else s) s

/-- The window that a step reads, with the records of a re-executed one: none when its held inputs are lost. -/
structure StepInput where
  window : Option Word
  reexec : Bool
  held : Tab (List Byte)
  log : Tab (List (Nat × Nat × Nat))
  deriving DecidableEq, Repr

/-- A re-executed step reads its own window again: from its records, or at the fault index from the pool (R370). -/
def State.heldInput (s : State) (n : Nat) (i : Word) (recs : List (Nat × Option HeldRec)) : Option StepInput :=
  let atG := (s.ring n).faultIdx == some i
  let pool := (s.ring n).faultWindow.filter fun w => atG && s.strm.wins.any fun x => x.num == w && x.holds.any fun h => h.1 == n
  if recs.any fun e => e.2.isNone then pool.map fun w => ⟨some w, false, [], []⟩
  else if recs.isEmpty && pool.isSome then some ⟨pool, false, [], []⟩
  else
    let good := recs.filterMap fun e => e.2.map fun x => (e.1, x)
    let win := ((good.head?.map fun e => e.2.1).orElse fun _ => (s.ring n).faultWindow).getD 0
    some ⟨some win, true, good.map fun e => (e.1, e.2.2.1), good.map fun e => (e.1, e.2.2.2)⟩

/-- The input of a step: no window without a binding, the newest closed one at the first execution (R312), and for a RUN_PLAN at
the fault index that had none (DEDUCED, see the assumption log). -/
def State.stepInput (s : State) (n : Nat) (h : Hdr) (step : DWord) (i : Word) (k : State → Option StepInput → Flow) : Flow :=
  if !(s.ring n).bound then k s (some ⟨none, false, [], []⟩)
  else if !s.reexecuted n i || ((s.ring n).faultIdx == some i && (s.ring n).faultWindow.isNone) then
    k s (some ⟨some (s.strm.window - 1), false, [], []⟩)
  else State.heldAll h step s.logRegions [] s fun s recs => k s (s.heldInput n i recs)

/-- The plans of the cairn set, the one that ran last at the end, at most 64 (R359). -/
def cairnAdd (l : List Nat) (n : Nat) : List Nat :=
  let l := l.filter (· != n) ++ [n]
  l.drop (l.length - 64)

/-- The RUN_PLAN at the fault index of a replay (R293). -/
def State.replayed (s : State) (n : Nat) (o : Outst) : Bool :=
  (s.resil.restart.map (·.replay)).getD false && (s.ring n).faultIdx == some o.idx

/-- CADENCE_SLIP at the grant of the next first-time stream RUN_PLAN (R313). -/
def State.grantSlip (s : State) (bound first : Bool) : State :=
  match s.strm.slip with
  | some (w, t) =>
    if bound && first then
      let s := s.postSlip w (min (2 ^ 32 - 1) ((s.now - t).toNat / 100))
      { s with strm := { s.strm with slip := none } }
    else s
  | none => s

/-- The binding of a step's plan: as it stood when its entry was written, else the one in force (R203). -/
def State.stepBind (s : State) (st : StepSt) : Option HandBind := st.old.getD (s.bindOf st.handle)

/-- A step holds the window that it reads, on the channels of its ring (R307). -/
def State.holdWindow (s : State) (n : Nat) (w : Option Word) : State :=
  let hold (x : WinSt) : WinSt :=
    { x with holds := x.holds.filter (fun h => h.1 != n) ++ [(n, (s.ring n).ingest, false)], used := true }
  { s with strm := { s.strm with wins := s.strm.wins.map fun x => if w = some x.num then hold x else x } }

/-- The job starts with this step, unless a step has run under its JOBTAG (R224). -/
def State.firstStep (s : State) (handle : Nat) (step : DWord) : State :=
  let b := (s.bindOf handle).map fun b => if b.first.isSome then b else { b with first := some step }
  { s with jobs := { s.jobs with binds := Tab.set none s.jobs.binds handle b } }

/-- What the device holds of a plan once it runs (R203, R359): of a released one nothing new. -/
def State.notePlan (s : State) (handle : Nat) (step : DWord) (old : Bool) : State :=
  let s := { s with jobs := { s.jobs with planLast := if old then none else some handle } }
  if old then s
  else
    State.firstStep { s with jobs := { s.jobs with
      planStale := s.jobs.planStale.filter (· != handle), cairnSet := cairnAdd s.jobs.cairnSet handle } } handle step

/-- The grant of a RUN_PLAN (R31, R204, R212): the step and its power budget, the caches that are reloaded, the pulls of
inbound tags, and the wake of the grid. The budget is the software cap itself (DESIGN CHOICE, see the assumption log). -/
def State.grantPlan (s : State) (n : Nat) (o : Outst) : Flow :=
  let handle := planOf o.desc
  let step := BitVec.ofNat 64 (dF o.desc 8 8)
  let old := o.old.isSome
  s.readHdr o.hreg o.hoff fun s h => s.stepInput n h step o.idx fun s inp =>
    match inp, s.physRegion o.hreg, h.oversize with
    | none, _, _ => .ok (s.finish n 0xF 0x23 0)
    | _, none, _ => .error (.undef .u2)
    | _, _, some u => .error (.undef u)
    | some inp, some hr, none =>
      let s := s.grantSlip (s.ring n).bound (!s.reexecuted n o.idx)
      let stale := old || s.jobs.planLast != some handle || s.jobs.planStale.contains handle
      let reload := s.gridRegions.filter fun r => stale || !(s.rg r).cached
      let alts := if old then o.alts
        else o.alts ++ ((s.jobs.altSet.filter fun a => a.1 == handle && !o.alts.contains a.2).map (·.2))
      let budget := s.regF Reg.GLB_PWRCAP 0 8
      s.readHandoffs hr h fun s es =>
        let bind := o.old.getD (s.bindOf handle)
        let st : StepSt :=
          { ring := n, handle := handle, hreg := o.hreg, hdr := h.b, step := step, phase := .waking, pitch := 0, regionsUp := []
            joined := [], reload := reload, seed := s.now, window := inp.window, poisoned := false, replayed := s.replayed n o
            belay := if s.raisedLeft = 0 then o.belay else 1, noRaise := o.noRaise, reportOnly := o.reportOnly, alts := alts
            raised := false, old := o.old, sampled := 0, disagree := 0, inbound := inboundOf s.jobs.nextTid bind h step es
            reexec := inp.reexec, held := inp.held, heldLog := inp.log, heldPos := [], heldSlot := [] }
        let s := (s.setOut n fun o => { o with window := inp.window, budget := budget }).resetSync.holdWindow n inp.window
        let s : State := { s with
          clusters := Tab.mapVals {} (fun _ c => { c with rdPos := 0, rdEnded := false }) s.clusters
          regions := Tab.mapVals {} (fun _ g => { g with netSat := 0 }) s.regions
          jobs := { s.jobs with step := some st, nextTid := s.jobs.nextTid + es.length } }
        let s := (reload.foldl (fun s r => s.updRg r fun g => { g with cached := false }) s).notePlan handle step old
        (if reload.isEmpty then .ok s
          else (s.loadTables hr h).bind' fun s => s.cachePrograms hr h reload).bind' fun s =>
          let s : State := match bind with
            | some b => st.inbound.foldl (fun (s : State) x => s.pullTag b x) s
            | none => s
          let s := s.wakeGrant o.regions (budgetShare budget o.regions.length)
          foldFlow State.joinStep s (o.regions.filter s.clocked)

-- Transfers and bindings (R269, R275, R348)

/-- LENGTH of a LOAD or STORE in bytes, and the offset within its unit. -/
def transferLen (d : BitVec 512) : Nat := dF d 24 3 * 256
def transferOff (d : BitVec 512) : Nat := dF d 16 8 % 2 ^ 35 / 256 * 256
def transferAddr (d : BitVec 512) : Nat := dF d 8 8 / 256 * 256

/-- The grant of a LOAD or STORE: packets to the depot named, or reads and writes of host memory on the ring port. -/
def State.grantTransfer (s : State) (n : Nat) (d : BitVec 512) (load : Bool) : Flow :=
  let len := transferLen d
  let off := transferOff d
  let peer := dF d 28 1
  match s.peerUnit d with
  | none => .error (.undef .u2)
  | some u =>
    if len = 0 then .ok (s.finish n 0 0 0)
    else if u.span < off + len then .error (.undef .u1)
    else if peer = 0 ∧ load then
      .ok ((pieces len).foldl
        (fun s p => s.ringRead (BitVec.ofNat 64 (transferAddr d + p.1)) p.2 (.load n (b2n u.lar) u.num (off + p.1))) s)
    else
      let up := s.upLinks (linksOf (dF d 32 6)) peer
      if peer ≠ 0 ∧ up.isEmpty then .ok (s.finish n 8 0x50 0)
      else if load then
        .ok (s.addTransfer .read (linksOf (dF d 32 6)) up (transferAddr d) len (fun _ _ => []) [(b2n u.lar, u.num, off, len)] (some n)).pumpReqs
      else
        match s.unitRead u off len with
        | (s', none) => .error (.held s')
        | (s, some b) =>
          let cut (o k : Nat) : List Byte := (b.drop o).take k
          if peer = 0 then
            .ok (((pieces len).foldl (fun s p => s.hostWrite (BitVec.ofNat 64 (transferAddr d + p.1)) (decide (len ≤ p.1 + p.2)) (cut p.1 p.2)) s).finish n 0 0 0)
          else
            .ok (s.addTransfer .write (linksOf (dF d 32 6)) up (transferAddr d) len cut [] (some n)).pumpReqs

/-- HANDOFF binds the plan; it needs one link of the set to its depot (R275). It completes once the depot has acknowledged the
binding (R267), which goes out as the one packet that a depot acknowledges without bringing data: a WRITE without data to the
depot address that the binding names (DESIGN CHOICE, see the assumption log). -/
def State.grantHandoff (s : State) (n : Nat) (d : BitVec 512) : State :=
  let b : HandBind :=
    { stretch := dF d 8 1 % 64, peer := dF d 9 1 % 16, jobtag := BitVec.ofNat 64 (dF d 16 8), nextAddr := BitVec.ofNat 64 (dF d 24 8)
      prevAddr := BitVec.ofNat 64 (dF d 32 8), links := BitVec.ofNat 48 (dF d 40 6)
      first := ((s.bindOf (planOf d)).filter fun x => x.jobtag == BitVec.ofNat 64 (dF d 16 8)).bind (·.first) }
  let up := s.upLinks (linksOf (dF d 40 6)) b.peer
  if up.isEmpty then s.finish n 8 0x50 0
  else
    let s := { s with jobs := { s.jobs with binds := Tab.set none s.jobs.binds (planOf d) (some b) } }
    (s.addPackets .write (linksOf (dF d 40 6)) up [(b.nextAddr.toNat, 0, [], [])] (some n)).pumpReqs

/-- A granted COPY or CAIRN begins once all its regions are clocked: copies follow the wake (R437). -/
def State.beginWork (s : State) (n : Nat) : Flow :=
  match (s.ring n).out with
  | none => .ok s
  | some o =>
    if o.prog ≠ .granted || o.begun || o.rec_.isSome || !o.regions.all s.clocked then .ok s
    else
      let s := s.setOut n fun o => { o with begun := true }
      match typeOf o with
      | 2 =>
        match s.clusterSite (dF o.desc 10 2 % 2 ^ 14) with
        | some site => s.copyStart site (.ring n) (dBytes o.desc)
        | none => .error (.undef .u2)
      | 5 => s.snapshot (s.hdrPeek (planOf o.desc)) (planOf o.desc) (some n)
      | _ => .ok s

/-- The grant of the request at ring n. -/
def State.grantOne (s : State) (n : Nat) (o : Outst) : Flow :=
  (s.claimRegions o.regions).bind' fun s =>
    let s := s.setOut n fun o => { o with prog := .granted, hadGrant := true, tStart := s.now }
    let s := s.addGrant n
    let s := { s with jobs := { s.jobs with queue := s.jobs.queue.filter (· != n), ahead := s.jobs.ahead.filter (· != n) } }
    let d := o.desc
    match typeOf o with
    | 1 => s.grantPlan n o
    | 2 | 5 => (s.wakeGrant o.regions (reserveGrant - 8)).beginWork n
    | 3 => s.grantTransfer n d true
    | 4 => s.grantTransfer n d false
    | 0xA => .ok (s.grantHandoff n d)
    | _ => .ok s

def execGrant (s : State) : Res :=
  if (s.dev.base ≠ .ready ∧ s.dev.base ≠ .degraded) ∨ s.dev.tripped then .next s
  else
    match s.grantable (s.jobs.ahead ++ s.jobs.queue) [] [] with
    | none => .next s
    | some n =>
      match (s.ring n).out with
      | some o => Flow.res (s.grantOne n o)
      | none => .next s

/-- The engines report an inbound tag (R224); regions that waited for it start their pitch. -/
def execHandoffTagWritten (entry : Fin 256) (s : State) : Res :=
  match s.jobs.step with
  | none => .next s
  | some st =>
    match st.inbound.find? fun x => x.entries.contains entry.val && x.checked && !x.done with
    | none => .next s
    | some x =>
      let s := s.setInbound { x with done := true }
      let rs := ((s.ring st.ring).out.map (·.regions)).getD []
      Flow.res (foldFlow State.startRegion s (rs.filter fun r => s.clocked r && st.phase == .pitches))

-- The pitch close (R80 to R82, R119, R215)

/-- Every logical cluster has arrived, every tree instance fed is complete, and no logical cluster owes a check (R380). -/
def State.closeReady (s : State) (st : StepSt) : Bool :=
  decide (st.phase = .pitches) && s.gridRegions.all st.regionsUp.contains
    && (s.gridRegions.flatMap s.regionSites).all (fun i =>
      decide ((s.cl i).run = .halted) && (s.cl i).stall.isNone && (s.cl i).copyBusy.isNone)
    && (s.sync.contrib.all fun e => decide (e.2 ≤ Tab.get 0 s.sync.treeInst (e.1 / 16384)))
    && s.resil.checks.all (fun x => (s.siteCluster x.checker).isNone && ((x.third.bind s.siteCluster).isNone))

/-- The sum of a count over the logical clusters, clamped (R80). -/
def State.sumCounts (s : State) (f : Cluster → Word) : Nat :=
  min 0xFFFFFFFF (((s.gridRegions.flatMap s.regionSites).map fun i => (f (s.cl i)).toNat).sum)

/-- The precision watch record of a pitch, and whether its alternate is armed. -/
def State.precision (s : State) (st : StepSt) (e : PEnt) (run : PEnt) : List Byte × Bool :=
  let sat := s.sumCounts (·.accSatCnt)
  let net := min 0xFFFFFFFF ((s.gridRegions.map fun r => (s.rg r).netSat.toNat).sum)
  let ovf := s.sumCounts (·.outlierOvf)
  let nan := s.sumCounts (·.scaleNan)
  let spec := s.sumCounts (·.vecSpecial)
  let alt := st.alts.contains st.pitch
  let crossed := decide (run.satLimit < sat + net) || decide (run.ovfLimit < ovf)
  let new := !s.jobs.altSet.contains (st.handle, st.pitch)
  let armed := crossed && !alt && e.policy && e.altPitch != 0xFFFF && !st.reportOnly && (!new || decide (s.jobs.altSet.length < 256))
  let flags := b2n alt + 2 * b2n crossed + 4 * b2n armed + 8 * b2n (nan != 0 || spec != 0)
  (toLe 2 st.pitch ++ [BitVec.ofNat 8 flags, 0] ++ toLe 4 sat ++ toLe 4 net ++ toLe 4 (s.sumCounts (·.shiftUfl))
    ++ toLe 4 (s.sumCounts (·.outliers)) ++ toLe 4 ovf ++ toLe 4 nan ++ toLe 4 spec, armed && new)

/-- Each region's wait before the close, which is a measurement and free (R406). -/
def State.recordWaits (s : State) : State :=
  s.gridRegions.foldl
    (fun s r =>
      let l := (BitVec.ofNat 16 (Config.measure s.freeCtr) :: (s.rg r).waits).take 8
      let mean := (l.map (·.toNat)).sum / l.length
      (s.updRg r fun g => { g with waits := l }).useFree.setReg (Reg.RGN_SLACK r) (BitVec.ofNat 32 mean))
    s

/-- The close of a pitch releases; the next pitch starts, or the step goes on to its checks. POISON is handed over, and the
sticky bit starts the next pitch at 0 in every cluster (R119, R215; DESIGN CHOICE, see the assumption log). A crossing of a
released plan arms nothing that outlives the step (R83, R203). The fetch-ahead engines stop with the last pitch (R163). -/
def State.closePitch (s : State) (st : StepSt) (hr : Nat) (e run : PEnt) : Flow :=
  let h : Hdr := ⟨st.hdr⟩
  let p := s.precision st e run
  match s.physRegion 0 with
  | none => .error (.undef .u2)
  | some r0 =>
    (s.planWrite r0 (h.pwatchOff + 32 * st.pitch) p.1).bind' fun s =>
      let poison := (s.gridRegions.flatMap s.regionSites).any fun i => (s.cl i).poison
      let last := decide (h.pitches ≤ st.pitch + 1)
      let s := s.recordWaits
      let s := { s with
        clusters := Tab.mapVals {} (fun _ c => { c with poison := false, fa := if last then {} else c.fa }) s.clusters
        regions := Tab.mapVals {} (fun _ g => { g with netSat := 0 }) s.regions
        jobs := { s.jobs with altSet := if p.2 && st.old.isNone then s.jobs.altSet ++ [(st.handle, st.pitch)] else s.jobs.altSet } }
      let s := s.updStep fun st =>
        { st with
          poisoned := st.poisoned || poison, regionsUp := [], pitch := st.pitch + 1
          phase := if last then .checks else .pitches }
      s.readHandoffs hr h fun s es =>
        let send (s : State) (dir : Nat) : Flow := match s.stepBind st with
          | some b => s.sendHandoff b h.stretches st.step st.pitch dir (es.filter fun x => x.pitch == st.pitch && x.dir == dir)
          | none => .ok s
        (foldFlow send s [0, 1]).bind' fun s =>
          if last then s.heldSealAll st else (foldFlow State.startRegion s s.gridRegions).bind' fun s => .ok s.handoffWait

def execPitchClose (s : State) : Res :=
  match s.jobs.step with
  | none => .next s
  | some st =>
    if !s.closeReady st then .next s
    else
      match s.physRegion st.hreg with
      | none => undef .u2
      | some hr =>
        Flow.res (s.readPitch hr ⟨st.hdr⟩ st.pitch fun s e =>
          if st.alts.contains st.pitch then s.readPitch hr ⟨st.hdr⟩ e.altPitch fun s run => s.closePitch st hr e run
          else s.closePitch st hr e e)

-- The release (R40, R43, R314, R315)

/-- The region carries job traffic or a check: a logical or RETIRED one, or a reserve that holds a check (R176, R367). -/
def State.carries (s : State) (r : Nat) : Bool :=
  (s.logRegion r).isSome || s.isRetired r || s.resil.checks.any fun x => siteRegion x.checker == r || (x.third.map siteRegion) == some r

/-- A report that makes the fault manager restart the job (R367). The words of a reserve's larders and slice restart nothing
(R141, R159), nor does anything in a reserve that holds no check. -/
def State.restarts (s : State) : ReportKind → Bool
  | .routerLoss _ _ => true
  | .larderUE site _ => (s.logRegion (siteRegion site)).isSome
  | .cellarUE r _ | .forced r _ => (s.logRegion r).isSome
  | .flitUE r _ | .parity r | .transient r => s.carries r
  | .hardWire site port net wire _ => s.wireSpent site port.toNat net.toNat wire.toNat
  | .badSite site => !s.spareFree site
  | .belay _ _ _ | .trip _ | .supplyLoss => true
  | _ => false

/-- Link the step's staged packets of a channel as one item. -/
def State.linkItem (s : State) (a : Nat) (win seq : Word) : State :=
  let q := 16 + a
  let mine := s.strm.staged.filter fun p => p.queue == q
  let sorted := (s.logRegions.flatMap fun l => (List.range 64).filterMap fun i => s.clusterSite (l * 64 + i)).flatMap fun site =>
    mine.filter fun p => p.prod == site
  if mine.isEmpty then s
  else if !s.actOn a then s.count (Reg.GLB_ACTCNT a) 16 8 1
  else
    let all := sorted.flatMap (·.bytes)
    let cut := decide (s.actMax a < all.length)
    let bad := (sorted.foldl (fun (x : Nat × List (Nat × Nat)) p => (x.1 + p.bytes.length, x.2 ++ p.bad.map fun w => (x.1 / 8 + w.1, w.2)))
      (0, [])).2
    let item : ActItem :=
      { win := win, seq := seq, bytes := all.take (s.actMax a), trunc := cut || sorted.any fun p => p.trunc || !p.ended
        pkts := sorted.length, cells := min ((sorted.map pktCells).sum) (s.actMax a / 64), bad := bad }
    let s := if (s.act a).item.isSome then s.count (Reg.GLB_ACTCNT a) 16 8 1 else s
    s.setAct a { s.act a with item := some item }

/-- A report that stops the running step, by a restart or by its failure (R43, R367). -/
def State.stopsStep (s : State) (k : ReportKind) : Bool :=
  match k with
  | .program _ _ | .loadList _ | .redStall _ => true
  | k => s.restarts k

/-- Release the outputs once every check has ended and no report stops the step; a packet not ended is cut here. -/
def execStepRelease (s : State) : Res :=
  match s.jobs.step with
  | none => .next s
  | some st =>
    match (s.ring st.ring).out with
    | none => .next s
    | some o =>
      if st.phase ≠ .checks ∨ !s.resil.checks.isEmpty ∨ s.resil.intake.any s.stopsStep ∨ o.rec_.isSome then .next s
      else
        let win := st.window.getD (s.strm.window - 1)
        let seq := BitVec.ofNat 32 (dF o.desc 4 4)
        let s := if o.internal then s else (List.range 8).foldl (fun s a => s.linkItem a win seq) s
        let s := { s with
          strm := { s.strm with staged := [] } }
        let late := st.window.isSome && !s.reexecuted st.ring o.idx
          && decide (2 ≤ (s.strm.window - win).toNat) && decide ((s.strm.window - win).toNat < 2 ^ 31)
        let status := if st.poisoned then 3 else if late then 5 else if st.replayed then 1 else 0
        let s := (s.setOut st.ring fun o => { o with relAt := some s.now }).updStep fun st => { st with phase := .released }
        .next (s.finish st.ring status 0 0)

-- Copies (R115, R246)

/-- The last write of a copy engine is acknowledged. -/
def execCopyComplete (c : SiteNo) (s : State) : Res :=
  let k := s.cl c
  match k.copyBusy with
  | none => .next s
  | some b =>
    if k.copyHeld then .next s
    else
      let s := s.setCl c { k with copyBusy := none }
      let s := s.unstall (fun i w => i == c.val && (decide (w = .cpwait) || decide (w = .fence))) true
      let s := s.unstall (fun i w => i == c.val && decide (w = .cpstart)) false
      .next (match b with
        | .program => s
        | .ring r => s.finish r 0 0 0)

end Sys2Proof.Machine
end

