-- ==== Sys2Proof/Machine/Repair.lean ====
section
/-! DEFINITION. Repairs that wait for a restart: spare larder rows, spare array rows, wires shifted onto spares, remapped
cellar rows, and sites that turn bad (R23, R24, R121 to R123, R142, R160, R172 to R175, R367). -/

namespace Sys2Proof.Machine

def State.markBad (s : State) (site : Nat) : State :=
  if s.badSite site then s else { s with attic := { s.attic with badSites := s.attic.badSites ++ [site] } }

/-- A router set to bypass: its site serves no endpoint (R178). -/
def State.markBypass (s : State) (site : Nat) : State :=
  if s.attic.bypass.contains site then s else { s with attic := { s.attic with bypass := s.attic.bypass ++ [site] } }

-- Larder rows (R141, R142)

/-- Write a row of a larder with zero. -/
def State.zeroRow (s : State) (site row : Nat) : State :=
  let b := site * larSpan + row * 256
  let e := site * larWords + row * 32
  { s.dropWriteBack site row (row + 1) with larder := Tab.clear b (b + 256) s.larder, larErr := Tab.clear e (e + 32) s.larErr }

/-- Key of a spare of a bank in the maps. -/
def spareKey (site bank i : Nat) : Nat := site * 256 + bank * 16 + i

def State.spareUsed (s : State) (k : Nat) : Bool := tst (Tab.get 0 s.fuses.larMap k) 15 || tst (Tab.get 0 s.attic.larMap k) 15

/-- Map a free spare of the bank onto a hard row, or mark the site bad. -/
def State.spareLarRow (s : State) (site row : Nat) : State :=
  let bank := row / 1024
  match (List.range 16).find? fun i => !s.spareUsed (spareKey site bank i) with
  | some i =>
    let k := spareKey site bank i
    { s with attic := { s.attic with larMap := Tab.set 0 s.attic.larMap k (BitVec.ofNat 32 (row % 1024 + 2 ^ 15)) } }.zeroRow site row
  | none => s.markBad site

-- Array rows (R121, R123)

/-- SKIP fields where nothing is spared. -/
abbrev noSkip : Word := 0x20202020

/-- SKIP word of a site: what the host wrote since the register powered up, else the fuse value, else the attic's. -/
def State.arow (s : State) (site : Nat) : Word :=
  match Tab.get none s.regs (Reg.RGN_AROW site) with
  | some v => v
  | none =>
    let f := Tab.get noSkip s.fuses.skip site
    let a := Tab.get noSkip s.attic.skip site
    (List.range 4).foldl (fun w b => setFld w (8 * b) 6 (if fld f (8 * b) 6 = 32 then fld a (8 * b) 6 else fld f (8 * b) 6)) 0

/-- Take the spare row of a block whose SKIP in force is still 32, or mark the site bad (R123). -/
def State.spareArrayRow (s : State) (site blk row : Nat) : State :=
  let f := fld (Tab.get noSkip s.fuses.skip site) (8 * blk) 6
  let a := Tab.get noSkip s.attic.skip site
  if 32 ≤ f ∧ 32 ≤ fld (s.arow site) (8 * blk) 6 then
    let a_ := Reg.RGN_AROW site
    { s with
      attic := { s.attic with skip := Tab.set noSkip s.attic.skip site (setFld a (8 * blk) 6 row) }
      regs := (Tab.get none s.regs a_).elim s.regs fun v => Tab.set none s.regs a_ (some (setFld v (8 * blk) 6 row)) }
  else s.markBad site

-- What a restart applies

/-- A region to retire: number, cause, forced, SOURCE kind. -/
abbrev Retire := Nat × Nat × Bool × Nat

/-- Shift a group onto its spare; the errors that the receiving router counted for the hard wire do not count against the wire
that stands in for it (R175). -/
def State.shiftWire (s : State) (site port net wire group : Nat) : State :=
  let s := { s with attic := { s.attic with wires := Tab.set 0 s.attic.wires group 1 } }
  match siteBeside site port with
  | none => s
  | some b => s.updRg (siteRegion b) fun g => { g with wireLog := g.wireLog.filter fun e => e.1 != wireAt b (facing port) net wire }

/-- Apply one recorded repair; some retire a region instead. -/
def applyRepair (a : State × List Retire) (k : ReportKind) : State × List Retire :=
  let s := a.1
  match k with
  | .hardLarder site row => (s.spareLarRow site row.toNat, a.2)
  | .hardArray site blk row => (s.spareArrayRow site blk.toNat row.toNat, a.2)
  | .badSite site => (s.markBad site, a.2)
  | .hardCellar r ch rank bank row =>
    let x : CelRow := ⟨ch.toNat, rank.toNat, bank.toNat, row.toNat⟩
    match s.remapRow r x with
    | some t => (t.rewriteRow r x, a.2)
    | none => (s, a.2 ++ [(r.val, 7, true, 1)])
  | .hardWire site port net wire _ =>
    if netWires net.toNat ≤ wire.toNat ∨ (siteBeside site port.toNat).isNone then a
    else
      match wireGroup site port.toNat net.toNat wire.toNat with
      | none => (s.markBypass site, a.2)
      | some g =>
        if Tab.get 0 s.attic.wires g = 0 then ((s.shiftWire site port.toNat net.toNat wire.toNat g).planRetirement (siteRegion site) 6, a.2)
        else (s.markBypass site, a.2 ++ [(siteRegion site, 6, true, 1)])
  | .forced r c => (s, a.2 ++ [(r.val, c.toNat, true, 1)])
  | _ => a

/-- The sites that sweeps found marginal turn bad (R386). -/
def State.applyMarginal (s : State) : State :=
  s.attic.marginal.foldl State.markBad { s with attic := { s.attic with marginal := [] } }

/-- Regions with two bad sites in one column of sites (R24). -/
def State.twoBad (s : State) : List Nat :=
  (List.range 192).filter fun r =>
    !s.isRetired r && (List.range 8).any fun c => decide ((s.goodRows r c).length < 8)

/-- Apply what was recorded since the last restart. -/
def State.applyTodo (s : State) : State × List Retire :=
  let a := s.attic.todo.foldl applyRepair ({ s with attic := { s.attic with todo := [] } }, [])
  (a.1, a.2 ++ a.1.twoBad.map fun r => (r, 3, true, 1))

end Sys2Proof.Machine
end

