-- ==== Sys2Proof/Machine/Resil.lean ====
section
/-! DEFINITION. The fault manager: what each report leads to, restarts and replays, retirements with the column remap,
planned restarts, and the way out of RESTART (R36, R43, R45 to R50, R200, R290 to R293, R329, R352, R359 to R375, R383). -/

namespace Sys2Proof.Machine

/-- SOURCE kind of a report: a region, a slab for a stack that trips, or the module. -/
def reportSource : ReportKind → Nat
  | .trip (.stack _ _) => 2
  | .refLoss | .supplyLoss => 0
  | _ => 1

-- The depot path and replay (R349, R372)

/-- At least one link to the depot that holds the newest valid cairn is up. -/
def State.pathUp (s : State) : Bool :=
  s.resil.cairn.elim false fun c => !(s.upLinks depotLinks c.depot).isEmpty

/-- A descriptor that a replay cannot execute again. -/
def State.noReplay (s : State) (d : BitVec 512) : Bool :=
  match dF d 0 1 with
  | 1 => decide (1 < (s.hdrPeek (planOf d)).stretches)
  | 3 | 4 => dF d 28 1 != 0
  | 5 | 0xA => true
  | _ => false

/-- What a ring has taken from the index recorded at the local snapshot on, in ring order (R372). -/
def State.sinceSnap (s : State) (r : Nat) : List (Word × BitVec 512) :=
  match s.resil.snap with
  | some c => (s.ring r).hist.filter fun e => decide ((e.1 - Tab.get 0 c.ringIdx r).toNat < 2 ^ 31)
  | none => []

/-- The rings of the snapshot allow a replay. -/
def State.canReplay (s : State) : Bool :=
  s.localOk && s.resil.snap.isSome && s.rewindRings.all fun r => (s.sinceSnap r).all fun e => !s.noReplay e.2

-- What lies in the slices, as the headers give it (R168, R206)

def State.validPlans (s : State) : List Nat :=
  (List.range 1024).filter fun n => s.planValid n && (s.hdrPeek n).magic == planMagic

def State.staticAreas (s : State) : List (Nat × Nat × Nat) :=
  s.validPlans.map fun n => (n, (s.hdrPeek n).staticOff, (s.hdrPeek n).staticEnd - (s.hdrPeek n).staticOff)

def State.heldRings (s : State) : List (Nat × Nat × Nat) :=
  (s.validPlans.filter fun n => (s.hdrPeek n).isStream).map fun n =>
    ((s.hdrPeek n).heldBase, (s.hdrPeek n).heldSlots, (s.hdrPeek n).heldSlot)

/-- What a codeword holds of an area that begins at a slice offset: slice offset and bytes. -/
def inCodeword (cw o n : Nat) : Option (Nat × Nat) :=
  let a := max o (cw * 64)
  let b := min (o + n) (cw * 64 + 64)
  if a < b then some (a, b - a) else none

/-- What a codeword holds of static areas: plan, offset in its area, slice offset and bytes. -/
def staticsIn (l : List (Nat × Nat × Nat)) (cw : Nat) : List (Nat × Nat × Nat × Nat) :=
  l.filterMap fun a => (inCodeword cw a.2.1 a.2.2).map fun p => (a.1, p.1 - a.2.1, p.1, p.2)

-- Step 2: retirements and the grid (R45 to R48, R374, R375, R383)

/-- Retire one region of the list, if it still serves; R47 may defer a preventive one. -/
def retireOne (a : State × List Retire) (t : Retire) : State × List Retire :=
  let s := a.1
  let r := t.1
  if s.isRetired r then a
  else if !t.2.2.1 ∧ (s.usableRows (regionX r)).length ≤ s.rowsL then (s.deferRetirement r, a.2)
  else (((s.markRetired r t.2.1 t.2.2.1).abandonIn r).toDark r, a.2 ++ [t])

/-- Exclude a region: a reserve is retired, a logical region too when its column can spare it; else one suspect mark. -/
def excludeOne (a : State × List Retire) (r : Nat) : State × List Retire :=
  let s := a.1
  if (s.logRegion r).isNone ∨ 0 < s.reservesLeft (regionX r) ∨ !(s.preventives (regionX r)).isEmpty then
    retireOne a (r, 13, true, 1)
  else (s.suspect r, a.2)

/-- Pending retirements that take effect now: all in a planned restart, those from suspect marks in any. -/
def State.pendingNow (s : State) (planned : Bool) : List Retire :=
  ((List.range 192).filter fun r => s.resilF r 3 1 == 1 && (planned || s.resilF r 8 4 == 9)).map fun r =>
    (r, s.resilF r 8 4, s.resilF r 8 4 == 9, 1)

/-- What waits for a restart makes of the grid before it is rebuilt: the marks of sites and routers, and the regions to
retire; marginal sites wait for a planned one. The repairs themselves are applied after the known-answer runs (steps 2 and 4
of R368). -/
def State.gridTodo (s : State) (planned : Bool) : State × List Retire :=
  let s := if planned then s.applyMarginal else s
  let a := s.applyTodo
  ({ s with attic := { s.attic with badSites := a.1.attic.badSites, bypass := a.1.attic.bypass } }, a.2)

/-- Retire the regions of a list, then the excluded ones, reserves first. -/
def State.retireAll (s : State) (due : List Retire) (excl : List Nat) : State × List Retire :=
  let isRes (r : Nat) : Bool := (s.logRegion r).isNone
  (excl.filter isRes ++ excl.filter fun r => !isRes r).foldl excludeOne (due.foldl retireOne (s, []))

/-- The retirements of step 2 that are known when a restart begins. -/
def State.retireNow (s : State) (x : RestartSt) : State × List Retire :=
  let t := s.gridTodo x.planned
  t.1.retireAll (x.retire ++ t.2 ++ t.1.pendingNow x.planned) x.excl

/-- What a restart reads or writes of its own: an access that is held holds the restart (R141, R159). -/
def Flow.orStuck (f : Flow) (s : State) : State :=
  let stuck (t : State) : State := { t with resil := { t.resil with restart := t.resil.restart.map fun x => { x with stuck := true } } }
  match f with
  | .ok t => t
  | .error (.held t) => stuck t
  | .error (.undef _) => stuck s

-- Held-input rings (R168, R169, R374)

/-- Bytes of a half slot with FLAGS at place k among them, its MIRROR bit set to a value; without VALID they are zero. -/
def halfAs (k : Nat) (mirror : Bool) (d : List Byte) : List Byte :=
  let f := byteAt d k
  if f.getLsbD 0 then setAt d k ((f &&& 0xFD) ||| (if mirror then 2 else 0)) else List.replicate d.length 0

/-- Logical regions of the same column one row up and one row down, modulo the rows. -/
def State.rowUp (s : State) (l : Nat) : Nat := (l / 16 + 1) % s.rowsL * 16 + l % 16
def State.rowDown (s : State) (l : Nat) : Nat := (l / 16 + s.rowsL - 1) % s.rowsL * 16 + l % 16

/-- Bytes to read before a move: region, offset, length, and where FLAGS lies among them with the MIRROR bit that it is to carry. -/
abbrev Seg := Option Nat × Nat × Nat × Option (Nat × Bool)

/-- The slice that holds the held-input ring of logical region l: its own, or one that it left before a fault held the move. -/
def State.ringHome (s : State) (l : Nat) : Option Nat :=
  ((s.resil.restart.bind fun x => x.homes.find? fun h => h.1 == l).map (·.2)).orElse fun _ => s.physRegion l

/-- A slice can be read in the restart: it is not off, and no word of it was found uncorrectable while it was read. -/
def State.sliceRead (s : State) (r : Nat) : Bool :=
  s.regF (Reg.RGN_CELSTATE r) 0 2 != 0 && !s.resil.restart.elim false fun x => x.unread.contains r

/-- Where the ring of logical region l comes from: its slice, or slot by slot the mirrors of its records and the records of
its mirrors. -/
def State.ringSegs (s : State) (l a : Nat) (q : Nat × Nat × Nat) : List Seg :=
  if s.sliceRead a then [(some a, q.1, q.2.1 * q.2.2, none)]
  else
    let half := q.2.2 / 2
    (List.range q.2.1).flatMap fun j =>
      [(s.ringHome (s.rowUp l), q.1 + j * q.2.2 + half, half, some (23, false)), (s.ringHome (s.rowDown l), q.1 + j * q.2.2, half, some (23, true))]

/-- Read segments one after the other; a region that is not in the grid gives zeros. -/
def State.readSegs : List Seg → List Byte → State → (State → List Byte → Flow) → Flow
  | [], acc, s, k => k s acc
  | (none, _, n, _) :: l, acc, s, k => State.readSegs l (acc ++ List.replicate n 0) s k
  | (some r, o, n, m) :: l, acc, s, k =>
    s.planRead r o n fun s d => State.readSegs l (acc ++ (m.elim d fun b => halfAs b.1 b.2 d)) s k

/-- Read every ring that moves: destination, offset and what is read for it. -/
def State.readRings : List (Nat × Nat × List Seg) → List (Nat × Nat × List Byte) → State →
    (State → List (Nat × Nat × List Byte) → Flow) → Flow
  | [], acc, s, k => k s acc
  | (b, o, l) :: ms, acc, s, k => State.readSegs l [] s fun s d => State.readRings ms (acc ++ [(b, o, d)]) s k

/-- Move the held-input rings of the regions that changed position; `o` is the state before the build. Everything is read
before anything is written, which is what the order of R374 secures. A read that is held leaves every ring where it was. -/
def State.moveHeld (o s : State) (rings : List (Nat × Nat × Nat)) : State :=
  let pairs := s.logRegions.filterMap fun l =>
    match o.ringHome l, s.physRegion l with
    | some a, some b => if a = b then none else some (l, a, b)
    | _, _ => none
  let homes (s : State) (h : List (Nat × Nat)) : State :=
    { s with resil := { s.resil with restart := s.resil.restart.map fun x => { x with homes := h } } }
  let work := pairs.flatMap fun p => rings.map fun q => (p.2.2, q.1, o.ringSegs p.1 p.2.1 q)
  (State.readRings work [] (homes s (pairs.map fun p => (p.1, p.2.1))) fun s ms =>
    let s := homes s []
    let s := pairs.foldl
      (fun s p =>
        (s.updRg p.2.1 fun g => { g with heldSteps := [], heldLog := [], heldLost := [] }).setReg (Reg.RGN_CELHELD p.2.1) 0) s
    let s := pairs.foldl
      (fun s p =>
        let g := o.rg p.2.1
        let s := s.updRg p.2.2 fun y => { y with heldSteps := g.heldSteps, heldLog := g.heldLog, heldLost := g.heldLost }
        s.setReg (Reg.RGN_CELHELD p.2.2) (o.reg (Reg.RGN_CELHELD p.2.1))) s
    foldFlow (fun s (m : Nat × Nat × List Byte) => s.planWrite m.1 m.2.1 m.2.2) s ms).orStuck s

/-- The partner's copies of what a codeword holds of a held-input ring of logical region l, each with its slice offset: of the
first half of a slot the mirror, of the second the record. -/
def State.partnerSegs (s : State) (l cw : Nat) (q : Nat × Nat × Nat) : List (Nat × Seg) :=
  let half := q.2.2 / 2
  (List.range (2 * q.2.1)).filterMap fun i =>
    let h := q.1 + i / 2 * q.2.2 + i % 2 * half
    let mirror := i % 2 == 1
    (inCodeword cw h half).map fun p =>
      let flags := if p.1 ≤ h + 23 ∧ h + 23 < p.1 + p.2 then some (h + 23 - p.1, mirror) else none
      (p.1, if mirror then s.physRegion (s.rowDown l) else s.physRegion (s.rowUp l), if mirror then p.1 - half else p.1 + half, p.2, flags)

/-- The partner's copies of a lost codeword, as far as it lies in held-input rings. -/
def State.lostSegs (s : State) (x : RestartSt) (e : Nat × Nat) : List (Nat × Seg) :=
  (s.logRegion e.1).elim [] fun l => x.rings.flatMap fun q => s.partnerSegs l e.2 q

/-- Held-input records of a remapped row come back from their partners (R159). -/
def State.restoreHeld (s : State) (x : RestartSt) : State :=
  (foldFlow
    (fun s e =>
      foldFlow (fun s (g : Nat × Seg) => State.readSegs [g.2] [] s fun s d => s.planWrite e.1 g.1 d) s (s.lostSegs x e))
    s x.lost).orStuck s

/-- Quiet routers everywhere (R200). -/
def State.allQuiet (s : State) : Bool := s.regions.all fun e => !e.2.heldBulk && !e.2.heldCtl

/-- Step 2: retire, form the columns again, check the routes and move the held-input rings. The answer names the regions
retired. A grid without routes holds the restart (DESIGN CHOICE, see the assumption log). The grid is built once in every
restart (R200), and again for a region that step 3 retires or reinstates. -/
def State.regrid (s : State) (x : RestartSt) (first : Bool) (due : List Retire) (excl : List Nat) : State × List Retire :=
  let a := s.retireAll due excl
  let t := (List.range 16).foldl State.reinstateColumn a.1
  let t := if first || (List.range 192).any fun r => s.isRetired r != t.isRetired r then t.buildGrid else t
  let t := if t.routeFault.isSome then Flow.orStuck (.error (.held t)) t else t
  (if x.supply then t else s.moveHeld t x.rings, a.2)

/-- Step 3: the regions that moved, and those that a disagreement names, run the known-answer set. The answer names the
regions that fail, which are retired in turn (R383; for a region that only moved DEDUCED, see the assumption log). -/
def State.proveRegions (s : State) (moved known : List Nat) : State × List Retire :=
  (moved ++ known.filter fun r => !moved.contains r).foldl
    (fun a r =>
      if a.1.isRetired r then a
      else
        let k := a.1.runKnown r
        if !k.2 then (k.1, a.2 ++ [(r, 8, true, 1)])
        else if known.contains r then (k.1.suspect r, a.2) else (k.1, a.2))
    (s, [])

/-- Steps 2 and 3, again for every region that fails step 3 or that a second suspect mark retires. -/
def State.regridAll (x : RestartSt) : Nat → State → List Retire → List Nat → List Nat → List Retire → State × List Retire
  | 0, s, _, _, _, done => (s, done)
  | n + 1, s, due, excl, known, done =>
    let a := s.regrid x (n = 191) due excl
    let moved := (s.logRegions.filter fun l => s.physRegion l != a.1.physRegion l).filterMap a.1.physRegion
    let k := a.1.proveRegions moved known
    let next := k.2 ++ k.1.pendingNow false
    if next.isEmpty then (k.1, done ++ a.2) else State.regridAll x n k.1 next [] [] (done ++ a.2)

/-- From RESTART on every slice is ACTIVE, but a RETIRED region's (R156). -/
def State.wakeSlices (s : State) : State :=
  (List.range 192).foldl
    (fun s r => if s.regF (Reg.RGN_CELSTATE r) 0 2 = 2 ∧ !s.isRetired r then s.setRegF (Reg.RGN_CELSTATE r) 0 2 1 else s) s

/-- A restart resets a region: it goes DARK from ACTIVE, IDLE and BIVOUAC, and a sweep of it is over (R437). -/
def State.resetRegion (s : State) (r : Nat) : State :=
  if s.clocked r || s.rstate r == stBivouac || (s.rg r).waking || (s.rg r).sweeping then s.toDark r else s

/-- Every region that a restart resets goes DARK, and every slice is ACTIVE (R156, R437). -/
def State.resetRegions (s : State) : State := ((List.range 192).foldl State.resetRegion s).wakeSlices

/-- Steps 2 to 4. Regions that moved lose the local snapshot (R363), but whatever bytes lie in the slice that they take over stay
until the restart writes it (DESIGN CHOICE, see the assumption log). -/
def State.rebuild (s : State) (x : RestartSt) : State :=
  let s := (if x.unreset then s.resetRegions else s).restoreHeld x
  let g := s.gridTodo x.planned
  let a := State.regridAll x 192 g.1 (x.retire ++ g.2 ++ g.1.pendingNow x.planned) x.excl x.known []
  let t := a.1.applyTodo.1
  let moved := s.logRegions.filter fun l => x.supply || s.physRegion l != t.physRegion l
  let t := if moved.isEmpty then t else t.setLocal false
  let t := (moved.filterMap t.physRegion).foldl (fun t r => t.updRg r fun g => { g with cached := false }) t
  let t := a.2.foldl (fun t r => t.postRetired r.1 r.2.2.2 r.2.2.1) t
  let stuck := (t.resil.restart.map (·.stuck)).getD false
  { t with resil := { t.resil with restart := some { x with
    rebuilt := true, stuck := stuck, unreset := false, homes := (t.resil.restart.map (·.homes)).getD [], retire := [], known := [], excl := []
    lost := x.lost.filter fun e => (s.lostSegs x e).isEmpty || !(staticsIn x.statics e.2).isEmpty
    moved := x.moved ++ moved.filter fun l => !x.moved.contains l } } }

-- Step 1 of a restart (R290, R329, R352, R368)

/-- A job ring at the start of a restart. With REWIND clear its descriptor completes ABANDONED. With REWIND set the ring
notes G, the same one in every fold (R291), and goes back to RNG_CAIRNIDX; in a replay it stays and queues what is executed
again: of what it took since the snapshot, up to G, the types that a replay executes, and G's descriptor, if it was taken. A
record at G that was written in this restart is due once more in a fold (R291). Without a cairn the ring ends as after a
supply loss (R413). -/
def State.endRing (x : RestartSt) (fold : Bool) (s : State) (r : Nat) : State :=
  let y := s.ring r
  let rewind := tst (s.reg (Reg.RNG_CTL r)) 8
  if s.ringState r = rsDisabled then s
  else if !rewind || x.noCairn then
    let s := s.finish r 2 0x40 0
    if rewind || (x.supply && x.noCairn) then
      if (s.ring r).out.isSome then s.setRingState r rsStopping else s.setRingState r rsStopped
    else s
  else
    let known := if fold then y.faultIdx.orElse fun _ => y.pastIdx else none
    let g := known.getD (s.recordIdx r)
    let w := if known.isSome then y.faultWindow else (y.out.bind (·.window)).orElse fun _ => if y.faultIdx = some g then y.faultWindow else none
    let written : Bool := y.gAgain || (y.pastIdx.isSome && y.hist.any fun e => e.1 == g)
    let again := fold && written
    let s := s.setRegF (Reg.RNG_STATE r) 3 1 0
    if x.replay then
      let work := (s.sinceSnap r).filter fun e =>
        e.1 == g || ([1, 2, 3, 4].contains (dF e.2 0 1) && decide ((g - e.1).toNat < 2 ^ 31))
      s.updRing r fun y =>
        { y with
          faultIdx := some g, faultWindow := w, pastIdx := none, gAgain := again, halted := false, out := none, replayQ := work
          rewindStopped := false }
    else
      let c := s.reg (Reg.RNG_CAIRNIDX r)
      let s := s.updRing r fun y =>
        { y with
          faultIdx := some g, faultWindow := w, pastIdx := none, gAgain := again, halted := false, out := none, replayQ := []
          rewindStopped := false, fetched := [], fetchIdx := c, fetching := false }
      let mine (h : HostRead) : Bool := match h.why with
        | .descs k => k == r
        | _ => false
      let s := s.setReg (Reg.RNG_DEVIDX r) c
      ({ s with jobs := { s.jobs with reads := s.jobs.reads.filter fun h => !mine h } } : State).stopIfIdle r

/-- The engine of a depot link stops at a packet boundary and raises its epoch; an up link owes an EPACK. The EPOCH packet
follows the link's last one in the BULK class, so no earlier write lands behind it (R340, R347). -/
def State.raiseEpoch (s : State) (l : Nat) : State :=
  let s := s.updLnk l fun k => { k with epoch := k.epoch + 1, txq := [], epackDue := false }
  if s.linkUp l then
    (s.updLnk l fun k => { k with epackDue := true }).send l 2 0 (.depot l ptEpoch 2 0 0 0 (s.lnk l).epoch.toNat [])
  else s

def isLoadRead (h : HostRead) : Bool := match h.why with
  | .load _ _ _ _ => true
  | _ => false

/-- A snapshot being staged or drained is discarded (R35, R200); one that was staged stays the local snapshot. A FENCE that
awaits the drain need wait no longer (R271). -/
def State.stopCairn (s : State) : State :=
  let staging := s.cairnStage = caStaging
  let s := s.setCairnStage caIdle
  State.fenceCheck { s with resil := { s.resil with snap := if staging then none else s.resil.snap.map fun x => { x with carrierRing := none } } }

/-- Grants are withdrawn, rings end or rewind, and the networks, the engines, the checks and the queues start again. No
region holds a grant any longer, so each switches back to a reference that is valid (R430). While a trip is in force the regions
keep their retention and the slices refresh themselves, up to step 2 (R411). -/
def State.withdraw (s : State) (x : RestartSt) (fold : Bool) : State :=
  let s := (s.clk.switching.foldl State.switchBack s).refRestored
  let s := if x.unreset then s else s.resetRegions
  let s := ((List.range 64).foldl (State.endRing x fold) s).stopCairn.resetSync
  let s := s.dropChecks fun _ => true
  let s := { s with
    dev := { s.dev with base := if s.railsOn && !x.supply then .restart else s.dev.base }
    clusters := Tab.mapVals {} (fun _ c => c.reset) s.clusters
    strm := { s.strm with staged := [], packets := [] }
    reqs := []
    hands := []
    jobs := { s.jobs with
      grants := [], queue := [], ahead := [], tickQ := [], step := none, planLast := none
      reads := s.jobs.reads.filter fun h => !isLoadRead h } }
  ((depotLinks.foldl State.raiseEpoch s).slabPools true).dropWaves

/-- What a restart starts from; a second report folds into it (R50, R291). It replays when no region retires, so none moves, and
the other conditions of R372 hold. -/
def State.newRestart (s : State) (planned supply : Bool) (upd : RestartSt → RestartSt) : RestartSt :=
  let base : RestartSt :=
    { planned := planned, replay := false, noCairn := false, began := s.now, retire := [], known := [], excl := [], moved := []
      lost := [], statics := s.staticAreas, rings := s.heldRings, homes := [], unread := [], rebuilt := false, reading := false, left := false, fails := 0
      stopped := false, supply := supply, stuck := false, unreset := false }
  let x := upd (s.resil.restart.getD base)
  let first := (s.resil.restart.map (·.replay)).getD true
  let still := (s.retireNow x).2.isEmpty && x.known.isEmpty && x.homes.isEmpty && x.moved.isEmpty
    && x.lost.all fun e => (staticsIn x.statics e.2).isEmpty
  let replay := !planned && !supply && !x.supply && (!s.pathUp || s.resil.overrun) && still && first && s.canReplay
  { x with
    replay := replay, noCairn := !replay && s.resil.cairn.isNone, rebuilt := false, reading := false, left := false, stuck := false
    supply := x.supply || supply, unreset := s.dev.tripped
    stopped := !replay && s.resil.cairn.isNone && (x.supply || supply || !s.rewindRings.isEmpty) }

/-- RESTART_BEGIN, which tells whether the restart retires a region, and step 1; in a restart that has begun only step 1. -/
def State.beginRestart (s : State) (kind : Nat) (planned supply : Bool) (upd : RestartSt → RestartSt) : State :=
  let x := s.newRestart planned supply upd
  let fold := s.resil.restart.isSome
  let s := if fold then s
    else
      let s := s.count Reg.GLB_RESTARTS 0 32 1
      s.post 0x0403 srcModule
        [(0, (s.reg Reg.GLB_RESTARTS).toNat), (4, kind), (5, b2n (!(s.retireNow x).2.isEmpty) + 2 * b2n x.replay),
          (8, (s.resil.cairn.map fun c => c.step.toNat).getD (2 ^ 64 - 1))]
  { s with resil := { s.resil with restart := some x } }.withdraw x fold

-- Steps 5 and 6: what comes back (R360, R368, R369)

/-- The packets of the image of a logical region with its context areas (R361). -/
def State.imageReads (s : State) (c : Snap) (l : Nat) : List Packet :=
  match s.physRegion l with
  | none => []
  | some r =>
    let lars := (s.regionSites r).map fun site => (1, site, 0, 4 * mib)
    let areas := c.areas.map fun a => (0, r, a.1, a.2 - a.1)
    packets (c.addr + 2 ^ 16 + l * c.e) c.e (fun _ _ => []) (lars ++ areas)

/-- Ask for images of the cairn, as one read-back (R348). -/
def State.readImages (s : State) (c : Snap) (ls : List Nat) : State :=
  s.addPackets .imageRead depotLinks (s.upLinks depotLinks c.depot) (ls.flatMap (s.imageReads c)) none

/-- The depot that static areas come from: that of the cairn, else the one that GLB_CAIRNCFG names. -/
def State.staticDepot (s : State) : Nat := (s.resil.cairn.map (·.depot)).getD s.cairnDepot

/-- Links of a column's fields: they reload the column's static areas while one of them is up (R55). -/
def columnLinks (col : Nat) : List Nat :=
  (((List.range 12).map fun y => linkOf (regionAt col y)).eraseDups)

/-- Up links of the set that reloads static areas of logical column n; without one every link serves. -/
def State.staticLinks (s : State) (n : Nat) : List Nat × List Nat :=
  let mine := s.upLinks (columnLinks n) s.staticDepot
  if mine.isEmpty then (depotLinks, s.upLinks depotLinks s.staticDepot) else (columnLinks n, mine)

/-- Depot address of the static area of a plan in a logical region, 256-byte aligned as every DADDR (R347). -/
def staticBase (n l : Nat) : Nat := Config.staticAddr n l / 256 * 256

/-- The static areas of regions that moved, and what the codewords of remapped rows hold of one; a read begins at a multiple of
256 bytes, and what comes before goes nowhere. -/
def State.readStatics (s : State) (x : RestartSt) : State :=
  let s := x.moved.foldl
    (fun s l =>
      match s.physRegion l with
      | none => s
      | some r =>
        let k := s.staticLinks (l % 16)
        x.statics.foldl
          (fun s a => s.addTransfer .staticRead k.1 k.2 (staticBase a.1 l) a.2.2 (fun _ _ => []) [(0, r, a.2.1, a.2.2)] none) s)
    s
  x.lost.foldl
    (fun s e =>
      match s.logRegion e.1 with
      | some l =>
        let k := s.staticLinks (l % 16)
        (staticsIn x.statics e.2).foldl
          (fun s a =>
            let skip := a.2.1 % 256
            s.addTransfer .staticRead k.1 k.2 (staticBase a.1 l + a.2.1 - skip) (skip + a.2.2.2) (fun _ _ => [])
              [(2, 0, 0, skip), (0, e.1, a.2.2.1, a.2.2.2)] none)
          s
      | none => s)
    s

/-- Copy a logical region back from its staged image (R372). -/
def State.restoreLocal (s : State) (c : Snap) (l : Nat) : Flow :=
  match s.physRegion l with
  | none => .ok s
  | some r =>
    (foldFlow
      (fun s i =>
        match s.siteIn r (i / 8) (i % 8) with
        | some site => s.planRead r (c.stagingOff + i * (4 * mib)) (4 * mib) fun s d => s.larStore site 0 d
        | none => .ok s)
      s (List.range 64)).bind' fun s =>
    foldFlow (fun s (q : Nat × Nat × Nat) => s.planRead r (c.stagingOff + q.1) q.2.2 fun s d => s.planWrite r q.2.1 d)
      s (areaOffsets (256 * mib) c.areas)

/-- The job state that a restart goes back to: none in DEGRADED, where no plan runs, and none without a cairn. -/
def State.restartFrom (s : State) (x : RestartSt) : Option Snap :=
  if !s.columnsOk || x.noCairn then none else if x.replay then s.resil.snap else s.resil.cairn

/-- Something has to come from the static areas of the depots. -/
def RestartSt.wantsStatics (x : RestartSt) : Bool :=
  (!x.moved.isEmpty && !x.statics.isEmpty) || x.lost.any fun e => !(staticsIn x.statics e.2).isEmpty

/-- At least one link to the depot of the static areas is up. -/
def State.staticPath (s : State) : Bool := !(s.upLinks depotLinks s.staticDepot).isEmpty

/-- Step 5 starts once every logical region is awake and the path is up, static areas first; a replay copies from the
staging areas at once. While a held record is overwritten the cairn serves no restart, which waits as for the path (R169). -/
def State.restartReads (s : State) : State :=
  match s.resil.restart with
  | none => s
  | some x =>
    let go (s : State) : State := { s with resil := { s.resil with restart := s.resil.restart.map fun x => { x with reading := true } } }
    if !x.rebuilt || x.reading || x.left || x.stuck || s.dev.tripped || !s.railsOn then s
    else if x.replay then
      match s.restartFrom x with
      | none => go s
      | some c =>
        if !s.gridRegions.all s.clocked then s
        else go ((foldFlow (fun s l => s.restoreLocal c l) s s.logRegions).orStuck s)
    else if x.wantsStatics && s.staticDepot != 0 && !s.staticPath then s
    else
      match s.restartFrom x with
      | none => go (if x.wantsStatics && s.staticDepot != 0 then (s.readStatics x).pumpReqs else s)
      | some c =>
        if !s.gridRegions.all s.clocked || !s.pathUp || s.resil.overrun then s
        else go (((s.readStatics x).readImages c s.logRegions).pumpReqs)

/-- The restart has to wait for the depot path: it reads a cairn back, and the path to it is down (R369, R372). -/
def State.pathWaits (s : State) (x : RestartSt) : Bool := !x.replay && (s.restartFrom x).isSome && !s.pathUp

/-- A replay whose step 2 would retire a region, for what was recorded since it began, is none: the restart goes back to the cairn
(R206, R372). -/
def State.replayEnds (s : State) : State :=
  match s.resil.restart with
  | some x =>
    if x.replay && !x.rebuilt && !x.stuck && !(s.retireNow x).2.isEmpty then s.beginRestart 0 x.planned x.supply id else s
  | none => s

/-- Step 2 waits until every router is quiet, for the rails, until a trip is over, and for the depot path (R200, R369, R411,
R413). Steps 2 to 4 are one step of the model. -/
def State.restartGo (s : State) : State :=
  let s := s.replayEnds
  match s.resil.restart with
  | none => s
  | some x =>
    if x.rebuilt || x.stuck || s.dev.tripped || !s.railsOn || !s.allQuiet || s.pathWaits x then s else (s.rebuild x).restartReads

/-- The path that step 5 needs is up: that of the cairn, and without one that of the static areas. -/
def State.readPath (s : State) (x : RestartSt) : Bool := if (s.restartFrom x).isSome then s.pathUp else s.staticPath

/-- The depot path is up again: the step that waited is repeated (R369). -/
def State.restartRepeat (s : State) : State :=
  match s.resil.restart with
  | none => s
  | some x =>
    if x.left || x.replay || !s.readPath x then s
    else if !x.rebuilt then s.restartGo
    else
      State.restartReads { s with
        reqs := s.reqs.filter fun (q : DepReq) => !q.kind.isRead || q.ring.isSome
        resil := { s.resil with restart := some { x with reading := false, fails := 0 } } }

/-- Region signature of what was restored (R361, R362). -/
def State.liveSig (s : State) (r : Nat) (c : Snap) : DWord :=
  let lars := (List.range 64).flatMap fun i => match s.siteIn r (i / 8) (i % 8) with
    | some site => Tab.getList 0 s.larder (site * larSpan) larSpan
    | none => List.replicate larSpan 0
  let ctx := c.areas.flatMap fun a => Tab.getList 0 s.cellar (r * celSpan + a.1) (a.2 - a.1)
  crcFold 0 (lars ++ ctx ++ List.replicate (c.e - lars.length - ctx.length) 0)

/-- Logical regions whose image does not match RSIG. -/
def State.badImages (s : State) (c : Snap) : List Nat :=
  s.logRegions.filter fun l => (s.physRegion l).elim false fun r => s.liveSig r c != Tab.get 0 c.sigs l

/-- The device leaves RESTART: alternates, STEP, the rings and the device state. The alternate set is the cairn's whole one,
also for a plan whose entry was written since (DESIGN CHOICE, see the assumption log). -/
def State.leave (s : State) (x : RestartSt) : State :=
  let c : Option Snap := s.restartFrom x
  let s := if s.dev.degraded then s.alert alDegraded else s
  let s : State := { s with
    dev := { s.dev with base := if s.dev.degraded then .degraded else .ready }
    jobs := { s.jobs with altSet := (c.map (·.alt)).getD s.jobs.altSet, lastStep := (c.map fun c => c.step - 1).getD s.jobs.lastStep }
    resil := { s.resil with
      restart := some { x with left := true }
      plannedDue := s.resil.plannedDue && s.restartWork
      cairn := s.resil.cairn.map fun c => { c with forPlan := false }
      lastPlanned := if x.planned then some s.now else s.resil.lastPlanned } }
  ((List.range 64).foldl (fun s r => s.fetchMore r) s).restartDone

/-- Step 6, once everything has been read back and checked. -/
def execLeaveRestart (s : State) : Res :=
  match s.resil.restart with
  | none => .next s
  | some x =>
    if !x.reading || x.left || x.stuck || s.dev.tripped || !s.railsOn || s.reqs.any fun q => q.kind.isRead then .next s
    else
      match s.restartFrom x with
      | none => .next (s.leave x)
      | some c =>
        let bad := if x.replay then [] else s.badImages c
        if bad.isEmpty then .next (s.leave x)
        else if !s.pathUp ∨ 2 ≤ x.fails then
          .next { s with resil := { s.resil with restart := some { x with fails := 3 } } }
        else
          let s := (s.readImages c bad).pumpReqs
          .next { s with resil := { s.resil with restart := some { x with fails := x.fails + 1 } } }

-- Reports (R36, R367)

/-- A fault: a restart begins, or the report folds into the one under way. -/
def State.restart (s : State) (k : ReportKind) (upd : RestartSt → RestartSt) : State :=
  (s.beginRestart (reportSource k) false false upd).restartGo

/-- The running RUN_PLAN completes FAILED; nothing restarts (R109, R166, R189). -/
def State.failStep (s : State) (detail : Nat) : State :=
  match s.jobs.step with
  | some st => (s.finish st.ring 0xF detail 0).endStep
  | none => s

/-- A leg of a route, X first and then Y, passes a region. -/
def legPasses (sc sr dc dr r : Nat) : Bool :=
  let within (x a b : Nat) : Bool := decide (min a b ≤ x) && decide (x ≤ max a b)
  (regionY r == sr / 9 && within (regionX r) (sc / 8) (dc / 8)) || (regionX r == dc / 8 && within (regionY r) (sr / 9) (dr / 9))

/-- Bulk flits from one site to another pass a region (R180). -/
def State.crosses (s : State) (a b r : Nat) : Bool :=
  match route (s.listed 0) (siteX a) (siteY a) (siteX b) (siteY b) with
  | none => false
  | some .direct => legPasses (siteX a) (siteY a) (siteX b) (siteY b) r
  | some (.via c row) => legPasses (siteX a) (siteY a) c row r || legPasses c row (siteX b) (siteY b) r

/-- A router of a reserve holds a bulk flit for good: no check goes on whose stream passes the region, and no tile has one whose
stream would. That the flit is one of each such stream is a DESIGN CHOICE (R385; see the assumption log). -/
def State.loseStreams (s : State) (r : Nat) : State :=
  let seed := ((s.jobs.step).map (·.seed.toNat)).getD 0
  let hit (site : Nat) (c : Cluster) : Bool :=
    let lc := s.ownNumber site
    c.tileRec.sampled && (s.checkerOf site lc (belayHash seed c.pitch.toNat lc c.tile)).elim false fun ch => s.crosses site ch r
  let t := s.abandonBy fun a b => s.crosses a b r
  { t with clusters := Tab.mapVals {} (fun site c => { c with tileRec := if hit site c then {} else c.tileRec }) t.clusters }

/-- A flit, parity or transient fault in a region restarts the job. In a reserve that holds no check it does not; a bulk flit held
there may be one of a check stream on its way (R184, R367, R385). -/
def State.regionFault (s : State) (k : ReportKind) (r : Nat) : State :=
  if s.carries r then s.restart k id
  else match k with
  | .flitUE _ net => if net = 0 then s.loseStreams r else s
  | _ => s

/-- A fault in a region's memory: in a logical one it restarts the job, in another the checks there end (R141, R159). -/
def State.wordFault (s : State) (k : ReportKind) (r : Nat) : State :=
  if (s.logRegion r).isSome then s.restart k id else s.abandonIn r

def retireWith (r cause : Nat) (k : ReportKind) (x : RestartSt) : RestartSt :=
  { x with retire := x.retire ++ [(r, cause, true, reportSource k)] }

/-- A forced retirement: a logical region in a restart, a reserve at once. -/
def State.forceRetire (s : State) (k : ReportKind) (r cause : Nat) : State :=
  if s.isRetired r then s
  else if (s.logRegion r).isSome then s.restart k (retireWith r cause k)
  else s.retireReserve r cause (reportSource k) true

/-- An uncorrectable larder word: the second in a row within 24 h makes the row hard, and the row is rewritten with zero. -/
def State.larderFault (s : State) (k : ReportKind) (site word : Nat) : State :=
  let row := word / 32
  let again := (s.cl site).ueLog.any fun e => e.1 == row && decide ((s.now - e.2).toNat < day)
  let s := s.updCl site fun c => { c with ueLog := c.ueLog ++ [(row, s.now)] }
  let s := (if again then s.larHard site row else s).zeroRow site row
  s.wordFault k (siteRegion site)

/-- Write the codewords of a row with zero; a staged image that held one is no longer intact. -/
def State.zeroCelRow (s : State) (r : Nat) (x : CelRow) : State :=
  let s := x.codewords.foldl (fun s cw => s.celPut r (cw * 64) (List.replicate 64 0)) s
  let hit : Bool := s.resil.snap.elim false fun c =>
    x.codewords.any fun cw => decide (c.stagingOff ≤ cw * 64) && decide (cw * 64 < c.stagingOff + c.e)
  if hit then s.setLocal false else s

/-- An uncorrectable cellar codeword: the row is remapped, or the region is retired. The plan headers are read before the row is
rewritten with zero. A word of a slice that the restart under way copies from is a second fault: the slice cannot be read
(R50, R374). -/
def State.cellarFault (s : State) (k : ReportKind) (r cw : Nat) : State :=
  let x := celRow cw
  let statics := s.staticAreas
  let rings := s.heldRings
  let first := s.resil.restart.isNone
  if (s.logRegion r).isNone && s.resil.restart.elim false (fun y => y.stuck && y.homes.any fun h => h.2 == r) then
    s.restart k fun y => { y with unread := y.unread ++ [r] }
  else
    let s := s.dropRowReports r x
    match s.remapRow r x with
    | none => s.forceRetire k r 7
    | some s =>
      let s := s.zeroCelRow r x
      if (s.logRegion r).isSome then
        s.restart k fun y =>
          { y with
            lost := y.lost ++ x.codewords.map fun c => (r, c)
            statics := if first then statics else y.statics
            rings := if first then rings else y.rings }
      else s.abandonIn r

/-- Region whose monitor block makes a report (R36); none of a report of a slab or of the module. -/
def reportRegion : ReportKind → Option Nat
  | .larderUE site _ | .hardLarder site _ | .hardArray site _ _ | .badSite site | .hardWire site _ _ _ _ | .program site _
  | .loadList site => some (siteRegion site)
  | .cellarUE r _ | .flitUE r _ | .routerLoss r _ | .parity r | .transient r | .forced r _ | .precursor r _ | .hardCellar r _ _ _ _
  | .redStall r => some r.val
  | .belay p _ _ => some p.val
  | _ => none

/-- Reports in the intake that one region's monitor block made. -/
def State.reportsOf (s : State) (k : ReportKind) : List ReportKind :=
  if (reportRegion k).isNone then [] else s.resil.intake.filter fun q => reportRegion q == reportRegion k

/-- A region that bring-up finds bad is retired in the attic (R388, R446); the next build of the grid posts it (R375). -/
def State.retireFound (s : State) (r cause kind : Nat) : State :=
  if s.isRetired r then s
  else { s.markRetired r cause true with resil := { s.resil with found := s.resil.found ++ [(r, kind)] } }

/-- REGION_RETIRED of the regions that bring-up retired, once the grid is built without them. -/
def State.postFound (s : State) : State :=
  s.resil.found.foldl (fun s e => s.postRetired e.1 e.2 true) { s with resil := { s.resil with found := [] } }

/-- Retire the regions that cannot present 64 sites, bring preventively retired ones back where a column is short, and
build. -/
def State.bringGrid (s : State) : State :=
  let s := s.twoBad.foldl (fun s r => s.retireFound r 3 1) s
  ((List.range 16).foldl State.reinstateColumn s).buildGrid.postFound

/-- A report in bring-up, which runs no job and no restart (R45; DEDUCED, see the assumption log): what waits for a restart
is recorded, and a region that can no longer run is retired and the grid, once built, is built again without it. What only a
job or a serving region would feel changes nothing. -/
def State.bringReport (s : State) (k : ReportKind) : State :=
  let retire (r cause : Nat) : State :=
    if s.isRetired r then s
    else
      let t := (s.retireFound r cause (reportSource k)).toDark r
      if t.dev.grid then t.bringGrid else t
  match k with
  | .precursor r c => s.planRetirement r c.toNat
  | .forced r c => retire r c.toNat
  | .routerLoss r _ => retire r 3
  | .hardLarder _ _ | .hardCellar _ _ _ _ _ | .hardWire _ _ _ _ _ | .hardArray _ _ _ | .badSite _ => s.todo k
  | .larderUE _ _ | .cellarUE _ _ | .flitUE _ _ | .parity _ | .transient _ | .belay _ _ _ | .program _ _ | .loadList _
  | .redStall _ | .poison _ | .refLoss | .trip _ | .supplyLoss => s

/-- The fault manager acts on a report. Those of one monitor block arrive in the order raised (R36): one behind another of
its region waits, and a new one joins the intake behind them (DESIGN CHOICE, see the assumption log). -/
def execFaultReport (k : ReportKind) (s : State) : Res :=
  let mine := s.reportsOf k
  let known := s.resil.intake.contains k
  if known && mine.any (· != k) && mine.head? != some k then .next s
  else if !known && !mine.isEmpty then .next (s.report k)
  else
  let s := { s with resil := { s.resil with intake := s.resil.intake.erase k } }
  if !s.railsOn && s.resil.restart.isNone then .next (if s.railsUp then s.bringReport k else s)
  else
    .next (match k with
      | .larderUE site w => s.larderFault k site w.toNat
      | .cellarUE r cw => s.cellarFault k r cw.toNat
      | .flitUE r _ => s.regionFault k r
      | .routerLoss r _ => if s.isRetired r then s.restart k id else s.restart k (retireWith r 3 k)
      | .parity r => s.regionFault k r
      | .transient r => s.regionFault k r
      | .forced r c => s.forceRetire k r c.toNat
      | .precursor r c => s.planRetirement r c.toNat
      | .belay p c o =>
        s.restart k fun x =>
          if o = 2 then { x with excl := x.excl ++ [p.val, c.val].filter fun r => !x.excl.contains r }
          else { x with known := x.known ++ [if o = 1 then p.val else c.val] }
      | .program _ _ => s.failStep 0x20
      | .loadList _ => s.failStep 0x21
      | .redStall _ => s.failStep 0x22
      | .poison _ => s
      | .hardLarder _ _ => s.todo k
      | .hardCellar _ _ _ _ _ => s.todo k
      | .hardWire site port net wire _ =>
        if s.wireSpent site port.toNat net.toNat wire.toNat then (s.todo k).restart k id else s.todo k
      | .hardArray _ _ _ => s.todo k
      | .badSite site => if s.spareFree site then s.todo k else (s.todo k).restart k id
      | .refLoss => s
      | .trip _ => s.restart k id
      | .supplyLoss => s.restart k id)

-- Planned restarts (R373)

/-- Begun once the cairn taken for it, or a later one, is valid and nothing is outstanding on a REWIND ring, at most once in
24 h. -/
def execPlannedRestart (s : State) : Res :=
  let idle : Bool := s.rewindRings.all fun r => (s.ring r).out.isNone
  if (s.dev.base ≠ .ready ∧ s.dev.base ≠ .degraded) ∨ s.resil.restart.isSome ∨ !s.planSoon ∨ !idle
      ∨ !s.resil.cairn.elim false (·.forPlan) ∨ s.cairnStage ≠ caIdle then .next s
  else .next (s.beginRestart 0 true false id).restartGo

-- Wakes (R439)

/-- A wake is complete (R439); a region of the running step goes on with R212, a COPY or CAIRN that waited for the region
begins, and a restart that waited for it reads its state back. -/
def execWakeComplete (r : RegionNo) (s : State) : Res :=
  if !(s.rg r).waking then .next s
  else
    let s := s.wakeDone r
    let s := s.updSlab (slabOf r) fun x =>
      { x with reserved := x.reserved.map fun e => if e.1 = r.val then (e.1, e.2.1, s.now) else e }
    let inStep := (s.jobs.step.bind fun st => (s.ring st.ring).out.map fun o => o.regions.contains r.val).getD false
    let f := if inStep then s.joinStep r else .ok s
    Flow.res (f.bind' fun s => (foldFlow State.beginWork s s.jobs.grants).bind' fun s => .ok s.restartReads)

end Sys2Proof.Machine
end

