-- ==== Sys2Proof/Machine/Link.lean ====
section
/-! DEFINITION. Depot links and Sarros ports: training, the peer check, lanes and spares, credits, replay, loss, and the
move of ring traffic to the other port (R283, R331 to R346, R349, R352, R357, R358). -/

namespace Sys2Proof.Machine

-- States (R344) and registers (R358)

abbrev lsOff : Nat := 0
abbrev lsTraining : Nat := 1
abbrev lsUp : Nat := 2
abbrev lsDegraded : Nat := 3
abbrev lsDown : Nat := 4
abbrev lsPeerFail : Nat := 5

def State.linkState (s : State) (l : Nat) : Nat := s.regF (Reg.LNK_STATE l) 0 3
def State.setLinkState (s : State) (l st : Nat) : State := s.setRegF (Reg.LNK_STATE l) 0 3 st

/-- Physical lanes, active lanes and the fewest lanes of a link (R331). -/
def lanesOf (l : Nat) : Nat := if l < 48 then 5 else 10
def activeOf (l : Nat) : Nat := if l < 48 then 4 else 8
def fewestOf (l : Nat) : Nat := activeOf l / 2
/-- Own TYPE and the TYPE accepted (R346). -/
def ownType (l : Nat) : Nat := if l < 48 then 1 else 3
def peerType (l : Nat) : Nat := if l < 48 then 2 else 4

/-- Lanes powered (R331). -/
def State.lanesPowered (s : State) (l : Nat) : Bool := if l < 48 then s.railsUp && !(s.slab (l / 4)).dark else s.aonLive

def countLanes (l : List Nat) : Nat := l.countP (· != 15)

/-- LNK_SPARE: the transmit direction's spares, and the lanes that have failed in either direction. -/
def State.showSpare (s : State) (l : Nat) : State :=
  let k := s.lnk l
  let sp (i : Nat) : Nat := (k.spares[i]?).getD 15
  s.setReg (Reg.LNK_SPARE l) (BitVec.ofNat 32 (sp 0 + 16 * sp 1 + 256 * (k.txFailed ||| k.rxFailed).toNat))

/-- LANES of the slower direction, the lane map and the spares as the transmit direction has them. -/
def State.showLanes (s : State) (l : Nat) : State :=
  let k := s.lnk l
  let map := (List.range 8).foldl (fun w n => setFld w (4 * n) 4 ((k.txLanes[n]?).getD 15)) (0xFFFFFFFF : Word)
  let s := s.setRegF (Reg.LNK_STATE l) 3 4 (min (countLanes k.txLanes) (countLanes k.rxLanes))
  (s.setReg (Reg.LNK_LANEMAP l) map).showSpare l

-- Training (R341, R344, R345)

/-- Enter TRAINING: credits and the peer's fields start again. -/
def State.startTraining (s : State) (l : Nat) : State :=
  let s := (s.setLinkState l lsTraining).setRegF (Reg.LNK_STATE l) 12 8 0
  s.updLnk l fun k =>
    { k with
      ackGroup := 0xFFFF, nakCount := 0, awaitResync := false, aligned := [], swaps := [], sigLost := false
      fecSince := some (k.fecSince.getD s.freeCtr)
      crSync := 0, crControl := 0, crBulk := 0, crStream := 0, owedSync := 0, owedControl := 0, owedBulk := 0, owedStream := 0 }

/-- A link may train: powered, enabled, not held DOWN, and its engine not marked bad (R446). -/
def State.mayTrain (s : State) (l : Nat) : Bool :=
  s.lanesPowered l && tst (s.reg (Reg.LNK_CTL l)) 0 && !(s.lnk l).stayDown && !s.attic.badLinks.contains l

/-- A link in OFF trains; one in DOWN trains at once, then fully; one in PEER_FAIL trains after a loss of signal. -/
def execLinkTraining (l : LinkNo) (s : State) : Res :=
  let st := s.linkState l
  let k := s.lnk l
  let go : Bool := decide (st = lsOff) || (decide (st = lsDown) && decide (k.tries ≤ 1)) || (decide (st = lsPeerFail) && k.sigLost)
  if s.mayTrain l && go then .next (s.startTraining l) else .next s

/-- Every 10 s a link whose saved settings and whose full training have failed trains fully again. -/
def execLinkRetry (l : LinkNo) (s : State) : Res :=
  if s.mayTrain l && s.linkState l == lsDown && decide (2 ≤ (s.lnk l).tries) then .next (s.startTraining l) else .next s

-- Saved settings (R449, R450)

/-- The copy of the settings area that a read takes: the newer one with a valid CRC. -/
def Attic.newer (a : Attic) : Nat := if a.copy1.ok && (!a.copy0.ok || decide (a.copy0.seq < a.copy1.seq)) then 1 else 0

/-- The settings in force: those being written, or those that a read takes. -/
def State.settings (s : State) : Settings :=
  let a := s.attic
  let x := if a.newer = 1 then a.copy1 else a.copy0
  s.dev.saving.getD (if x.ok then x else {})

/-- A save of the settings begins (R450). -/
def State.saveSettings (s : State) (x : Settings) : State := { s with dev := { s.dev with saving := some { x with ok := true } } }

/-- A write of the attic's flash may have erased the block that was erased most often: the highest count grows by the free amount
of the write, 0 or 1, and never falls (R473). -/
def State.erase (s : State) : State :=
  let n := Config.measure s.freeCtr % 2
  let s := s.useFree
  { s with attic := { s.attic with wear := s.attic.wear + n } }

/-- A save of the settings is done: it has written the older copy. -/
def State.endSave (s : State) : State :=
  match s.dev.saving with
  | none => s
  | some x =>
    let s := s.erase
    { s with
      attic := { s.attic with
        copy0 := if s.attic.newer = 1 then { x with seq := s.attic.copy1.seq + 1 } else s.attic.copy0
        copy1 := if s.attic.newer = 1 then s.attic.copy1 else { x with seq := s.attic.copy0.seq + 1 } }
      dev := { s.dev with saving := none } }

/-- Keys of the saved records of a link, of a link group and of a cellar channel. -/
abbrev recLink (l : Nat) : Nat := 3 * l
abbrev recGroup (g : Nat) : Nat := 3 * g + 1
abbrev recCellar (k : Nat) : Nat := 3 * k + 2

/-- A record of the settings in force fails its CRC-32: its unit trains fully (R449). -/
def State.badRecord (s : State) (k : Nat) : Bool := s.settings.bad.contains k

/-- Saved settings of a link. -/
def State.linkSet (s : State) (l : Nat) : Option LinkSet :=
  if s.badRecord (recLink l) then none else Tab.get none s.settings.links l

/-- Whether saved settings may serve: the attic holds them for this PEERID, and neither FULL nor an earlier try asks for
full training. -/
def State.fastOk (s : State) (l : Nat) : Bool :=
  let id := s.pairReg (Reg.LNK_PEERIDLO l) (Reg.LNK_PEERIDHI l)
  !tst (s.reg (Reg.LNK_CTL l)) 1 && (s.lnk l).tries == 0 && (s.linkSet l).elim false fun x => x.peer == id

/-- The equaliser words of a full training are measured (R345). -/
def State.measureEq (s : State) (l : Nat) : State :=
  (List.range (lanesOf l)).foldl (fun s i => s.useFree.setReg (Reg.LNK_EQ l i) (BitVec.ofNat 32 (Config.measure s.freeCtr % 2 ^ 18))) s

/-- A full training that succeeds rewrites the saved settings of the link (R345, R449). -/
def State.saveLink (s : State) (l : Nat) (rxSpares : List Nat) : State :=
  let k := s.lnk l
  let x : LinkSet :=
    ⟨s.pairReg (Reg.LNK_PEERIDLO l) (Reg.LNK_PEERIDHI l), (List.range (lanesOf l)).map fun i => s.reg (Reg.LNK_EQ l i),
      k.txLanes, k.rxLanes, k.spares, rxSpares⟩
  let y := s.settings
  s.saveSettings { y with links := Tab.set none y.links l (some x), bad := y.bad.filter (· != recLink l) }

def State.loadLink (s : State) (l : Nat) : State :=
  let eq := ((s.linkSet l).map (·.eq)).getD []
  (List.range (lanesOf l)).foldl (fun s i => s.setReg (Reg.LNK_EQ l i) ((eq[i]?).getD 0)) s

/-- First CREDIT flits of both ends: each buffer of R336 whole. -/
def LinkSt.fullCredits (k : LinkSt) (l : Nat) : LinkSt :=
  if l < 48 then { k with crSync := 64, crControl := 512, crBulk := 4096, crStream := 0 }
  else { k with crSync := 64, crControl := 256, crBulk := 4096, crStream := 4096 }

/-- What follows when a port comes up: the writes and reads that waited, with the 1 ms before, and after them the shadow words
that changed (R282, R283). Ring traffic moves to it only when the ring port has lost its link. -/
def State.portUp (s : State) (l : Nat) : State :=
  if l < 48 then s
  else if s.ringPort = some (l - 48) then (List.range 64).foldl State.shadow s.resendRing
  else if s.ringPort.isNone && s.jobs.portGone then
    let s := s.setRegF Reg.GLB_RINGSTAT 0 1 ((l - 48 + s.regF Reg.GLB_RINGCFG 16 1) % 2)
    (List.range 64).foldl State.shadow s.resendRing
  else s

/-- Training fails: DOWN, with one try more. -/
def State.trainFail (s : State) (l : Nat) : State :=
  ((s.setLinkState l lsDown).setRegF (Reg.LNK_STATE l) 3 4 0).updLnk l fun k => { k with tries := k.tries + 1 }

/-- The lanes that have not failed, by ascending measured error ratio: the order that the ends measured comes first (R341). -/
def goodLanes (l : Nat) (best : BitVec 40) (failed : BitVec 10) : List Nat :=
  ((List.range 10).map (fun i => (best >>> (4 * i)).toNat % 16) ++ List.range (lanesOf l)).foldl
    (fun acc i => if acc.contains i || decide (lanesOf l ≤ i) || failed.getLsbD i then acc else acc ++ [i]) []

/-- This training is a full one. -/
def State.isFull (s : State) (l : Nat) (full : Bool) : Bool := full || !s.fastOk l

/-- Mark the lanes of either direction that failed: a full training tries every lane again, a fast one adds to the marks (R341,
R343). -/
def State.markLanes (s : State) (l : Nat) (full : Bool) (m : LaneTest) : State :=
  let old (x : BitVec 10) : BitVec 10 := if s.isFull l full then 0 else x
  (s.updLnk l fun k => { k with txFailed := old k.txFailed ||| m.txFailed, rxFailed := old k.rxFailed ||| m.rxFailed }).showSpare l

/-- A CREDIT flit: ACK, and the credits owed (R335, R336). -/
def State.sendCredit (s : State) (l : Nat) : State :=
  let k := s.lnk l
  (s.onLine l (.flit l 1 [(s.rxGroup l).toNat, k.owedSync, k.owedControl, k.owedBulk, k.owedStream])).updLnk l fun k =>
    { k with owedSync := 0, owedControl := 0, owedBulk := 0, owedStream := 0 }

/-- Training ends: groups count from 0, and each end gives its buffers' credits with the first CREDIT flit (R334, R345). -/
def State.firstGroups (s : State) (l : Nat) : State :=
  let raw := s.clk.raw
  let first := ({} : LinkSt).fullCredits l
  (s.updLnk l fun k =>
    { k.fullCredits l with
      txBase := 0, rxBase := 0, txSince := raw, rxSince := raw, replay := []
      owedSync := first.crSync, owedControl := first.crControl, owedBulk := first.crBulk, owedStream := first.crStream }).sendCredit l

/-- Training measures the lanes, and each end makes the best lanes of its direction active and the next best spare (R341). The
two directions choose apart (R343); too few lanes in either fail the training. -/
def State.trained (s : State) (l : Nat) (full : Bool) (rtt : Word) (m : LaneTest) : State :=
  let full := s.isFull l full
  let was := s.pathUp
  let saved := if full then none else s.linkSet l
  let s := s.markLanes l full m
  let tx := (goodLanes l m.txBest (s.lnk l).txFailed).filter fun i => saved.elim true fun x => (x.tx ++ x.spares).contains i
  let rx := (goodLanes l m.rxBest (s.lnk l).rxFailed).filter fun i => saved.elim true fun x => (x.rx ++ x.rxSpares).contains i
  let n := min (activeOf l) (min tx.length rx.length)
  if n < fewestOf l then s.trainFail l
  else
    let s := s.updLnk l fun k =>
      { k with txLanes := tx.take (activeOf l), rxLanes := rx.take (activeOf l), spares := tx.drop (activeOf l), tries := 0, excluded := false }
    let s := if full then (s.measureEq l).saveLink l (rx.drop (activeOf l)) else s.loadLink l
    let s := s.setLinkState l (if n = activeOf l then lsUp else lsDegraded)
    let s := (s.setRegF (Reg.LNK_STATE l) 11 1 (b2n !full)).setReg (Reg.LNK_RTT l) rtt
    let s := ((s.firstGroups l).showLanes l).post 0x0601 (srcLink l)
      [(0, n), (1, if l < 48 then s.depotOf l else 0), (2, b2n full)]
    let s := (State.drainLink l (s.lnk l).txq.length (s.portUp l)).pumpReqs.pumpHands
    if was then s else s.restartRepeat

/-- Training ends; its peer check has passed. -/
def execLinkUp (l : LinkNo) (full : Bool) (rtt : Word) (lanes : LaneTest) (s : State) : Res :=
  if s.linkState l = lsTraining ∧ s.regF (Reg.LNK_STATE l) 12 8 = peerType l then .next (s.trained l full rtt lanes)
  else .next s

-- The peer check (R346)

def State.peerFail (s : State) (l type reason : Nat) (id : DWord) : State :=
  ((s.setLinkState l lsPeerFail).updLnk l fun k => { k with tries := 0 }).post 0x0605 (srcLink l)
    [(0, ownType l), (1, type), (2, reason), (8, id.toNat)]

/-- Another trained link reports the same DEPOT number with a different PEERID. -/
def State.depotClash (s : State) (l depot : Nat) (id : DWord) : Bool :=
  decide (l < 48) && depotLinks.any fun m =>
    m != l && s.linkUp m && s.depotOf m == depot && s.pairReg (Reg.LNK_PEERIDLO m) (Reg.LNK_PEERIDHI m) != id

def State.setPeer (s : State) (l type depot : Nat) (id : DWord) : State :=
  ((s.setRegF (Reg.LNK_STATE l) 12 8 type).setRegF (Reg.LNK_STATE l) 7 4 (if l < 48 then depot else 0)).setPair
    (Reg.LNK_PEERIDLO l) (Reg.LNK_PEERIDHI l) id

/-- The PEER flit of the module (R335, R346). -/
def State.sendPeer (s : State) (l : Nat) : State := s.emit (.flit l 4 [ownType l, 0, 1, lanesOf l, s.fuses.serial.toNat])

/-- A PEER flit in training: the exchange of step 5, in which the module sends its own, and the check. -/
def execPeer (l : LinkNo) (type depot _format _lanes : Byte) (peerid : DWord) (s : State) : Res :=
  if s.linkState l ≠ lsTraining then .next s
  else
    let s := (s.sendPeer l).setPeer l type.toNat depot.toNat peerid
    let ok : Bool := decide (type.toNat = peerType l) && (decide (48 ≤ l.val) || (decide (1 ≤ depot.toNat) && decide (depot.toNat ≤ 15)))
    if !ok then .next (s.peerFail l type.toNat 0 peerid)
    else if s.depotClash l depot.toNat peerid then .next (s.peerFail l type.toNat 1 peerid)
    else .next s

-- Loss (R283, R339, R343, R349, R352, R357)

/-- Ring traffic moves to the other port, when that one is trained (R283). -/
def State.portLost (s : State) (l : Nat) : State :=
  if l < 48 ∨ s.ringPortNo ≠ l - 48 ∨ !s.linkUp (if l = 48 then 49 else 48) then s
  else (s.setRegF Reg.GLB_RINGSTAT 0 1 (1 - s.regF Reg.GLB_RINGSTAT 0 1)).resendRing

/-- A handoff packet whose acknowledgement is out, with the links of its binding (R349, R350). -/
def State.handOf (s : State) (l : Nat) (o : Out) : Option HandPkt :=
  match o with
  | .handoff _ ptype _ _ _ _ _ _ jobtag _ _ _ d =>
    let b := s.jobs.binds.findSome? fun e => e.2.filter fun b => b.jobtag == jobtag
    let pool := if ptype = ptHsent then 0 else if ptype = ptHdata then 2 else 1
    some (match b with
      | some b => b.pkt pool d.length o
      | none => ⟨depotLinks, s.depotOf l, pool, d.length, o⟩)
  | _ => none

/-- An HPULL, which is outstanding until its answer comes. -/
def Out.isPull : Out → Bool
  | .handoff _ ptype _ _ _ _ _ _ _ _ _ _ _ => ptype == ptHpull
  | _ => false

/-- Handoff packets outstanding on a link: those of groups without ACK, and those that wait for credits. The pulls are found in
the step that sent them. -/
def State.lostHands (s : State) (l : Nat) : List HandPkt :=
  let k := s.lnk l
  let ack := groupNear (s.txCount l) k.ackGroup
  (((k.replay.filter fun e => decide (ack < (e.1 : Int))).map (·.2) ++ k.txq.map (·.2.2)).filter fun o => !o.isPull).filterMap (s.handOf l)

/-- The parts of actuation frames that still wait on a Sarros port go out on the other one; where that is down too the frames are
lost (R318). -/
def State.moveFrames (s : State) (q : Nat) (l : List Out) : State :=
  l.foldl
    (fun s o => match o with
      | .frag _ a off last d =>
        if s.linkUp (portLink q) then s.send (portLink q) 3 d.length (.frag q a off last d)
        else if last then s.count (Reg.GLB_ACTCNT a) 24 8 1 else s
      | _ => s) s

/-- A link leaves UP or DEGRADED for DOWN. It owes no EPACK any more, and no set uses it before it has trained again; what was
outstanding on it goes out on the others. -/
def State.linkDown (s : State) (l reason : Nat) : State :=
  let lost := s.lostHands l
  let waiting := (s.lnk l).txq.map (·.2.2)
  let s := if 48 ≤ l ∧ s.ringPort = some (l - 48) then s.ringLost else s
  let s := ((s.setLinkState l lsDown).setRegF (Reg.LNK_STATE l) 3 4 0).post 0x0602 (srcLink l) [(0, reason)]
  let s := s.updLnk l fun k =>
    { k with
      txq := [], replay := [], swaps := [], inFrame := false, epackDue := false, excluded := true, tries := 0
      crSync := 0, crControl := 0, crBulk := 0, crStream := 0 }
  if l < 48 then (({ s with hands := s.hands ++ lost }.resend l).pumpHands.pullLost l).handoffWait
  else (s.moveFrames (49 - l) waiting).portLost l

/-- A link that is up goes DOWN; a training fails; PEER_FAIL notes the loss of signal. -/
def execLinkLost (l : LinkNo) (reason : Byte) (s : State) : Res :=
  if s.linkUp l then .next (s.linkDown l reason.toNat)
  else if s.linkState l = lsTraining then .next (s.trainFail l)
  else if s.linkState l = lsPeerFail then .next (s.updLnk l fun k => { k with sigLost := true })
  else .next s

/-- A write of RETRAIN; a link in DEGRADED retrains fully (R344). -/
def execRetrain (_p : PortNo) (l : LinkNo) (s : State) : Res :=
  if !s.reach (Reg.LNK_CMD l) then .next s
  else
    let tries := b2n (s.linkState l == lsDegraded)
    let s := if s.linkUp l then s.linkDown l 4 else s
    let s := s.updLnk l fun k => { k with stayDown := false, tries := tries }
    if s.linkState l ≠ lsOff ∧ s.mayTrain l then .next (s.startTraining l) else .next s

/-- A write of DOWN: the link stays DOWN until RETRAIN. -/
def execLnkDown (_p : PortNo) (l : LinkNo) (s : State) : Res :=
  if !s.reach (Reg.LNK_CMD l) || s.linkState l == lsOff then .next s
  else
    let s := if s.linkUp l then s.linkDown l 4 else s.setLinkState l lsDown
    .next (s.updLnk l fun k => { k with stayDown := true })

/-- A write of CLRPEER. -/
def execClrpeer (_p : PortNo) (l : LinkNo) (s : State) : Res :=
  if s.reach (Reg.LNK_CMD l) && s.linkState l == lsPeerFail && s.mayTrain l then .next (s.startTraining l) else .next s

-- Lanes in service (R342, R343)

/-- The lanes of a direction, 0 transmit and 1 receive. -/
def LinkSt.lanes (k : LinkSt) (dir : Nat) : List Nat := if dir = 0 then k.txLanes else k.rxLanes

/-- The same once every announced swap is in force. -/
def LinkSt.planned (k : LinkSt) (dir : Nat) : List Nat :=
  (k.swaps.filter fun w => w.1 == dir).foldl (fun l w => setAt l w.2.1 w.2.2.1) (k.lanes dir)

/-- A direction lost a lane without a spare: DEGRADED, or DOWN below the fewest. -/
def State.laneGone (s : State) (l lanes dir : Nat) : State :=
  if lanes < fewestOf l then (s.showLanes l).linkDown l 2
  else ((s.setLinkState l lsDegraded).showLanes l).post 0x0604 (srcLink l) [(0, lanes), (2, dir)]

/-- A lane of a direction of a link has failed. -/
def State.markLane (s : State) (l dir physical : Nat) : State :=
  let m := BitVec.ofNat 10 (2 ^ physical)
  (s.updLnk l fun k => if dir = 0 then { k with txFailed := k.txFailed ||| m } else { k with rxFailed := k.rxFailed ||| m }).showSpare l

/-- From group G on, both ends carry a logical lane on another physical lane, or on none (R342, R343). -/
def State.swapLane (s : State) (l : Nat) (w : Nat × Nat × Nat × Nat) : State :=
  let k := s.lnk l
  match (k.lanes w.1)[w.2.1]? with
  | none => s
  | some old =>
    if !s.linkUp l then s
    else
      let new := setAt (k.lanes w.1) w.2.1 w.2.2.1
      let s := (s.markLane l w.1 old).updLnk l fun k => if w.1 = 0 then { k with txLanes := new } else { k with rxLanes := new }
      if w.2.2.1 = 15 then s.laneGone l (countLanes new) w.1
      else (s.showLanes l).post 0x0603 (srcLink l) [(0, old), (1, w.2.2.1), (2, w.1)]

/-- Swaps of a link whose group has come take effect. -/
def State.dueSwaps (s : State) (l : Nat) : State :=
  let due (w : Nat × Nat × Nat × Nat) : Bool := decide (w.2.2.2 ≤ if w.1 = 0 then s.txCount l else s.rxCount l)
  let k := s.lnk l
  (k.swaps.filter due).foldl (fun s w => s.swapLane l w) (s.updLnk l fun k => { k with swaps := k.swaps.filter fun w => !due w })

abbrev opIdentity : Nat := 1
abbrev opAttest : Nat := 2
abbrev opFwWrite : Nat := 3
abbrev opFwCommit : Nat := 4
abbrev opFwActivate : Nat := 5
abbrev opLogRead : Nat := 6
abbrev opRecordRead : Nat := 7

/-- The response, with LASTOP and LASTSTATUS. -/
def State.mgtReply (s : State) (p tid op status : Nat) (d : List Byte) : State :=
  let s := (s.setRegF Reg.MGT_MBSTAT 8 8 op).setRegF Reg.MGT_MBSTAT 16 8 status
  s.send (portLink p) 1 d.length (.mgt p tid op status d)

/-- No mailbox operation is in progress any more. -/
def State.mbFree (s : State) : State :=
  let s := s.setRegF Reg.MGT_MBSTAT 0 1 0
  { s with mgmt := { s.mgmt with busy := none } }

/-- The attic writes under way go on: a save of the settings is done, and an image is written once its time has passed, which is
about 40 s. The response then goes out, and in recovery mode the image runs (R450, R453, R454). -/
def State.atticWrites (s : State) : State :=
  let s := s.endSave
  match s.dev.flashing with
  | none => s
  | some w =>
    if s.clk.raw.toNat < w.until_.toNat then s
    else
      let s : State := { s with attic := { s.attic with image := w.image }, dev := { s.dev with flashing := none } }
      let s := s.erase.mbFree.mgtReply w.port w.tid opFwCommit 0 []
      if w.runs && s.mgmt.recovery then { s with dev := { s.dev with next := some .fwVerified } } else s

/-- What a reference count brings with an empty queue: the counter, the groups that it completes, and the writes of the attic
(R342, R431, R450, R454). In OFF the counter does not run. -/
def State.passCount (s : State) : State :=
  if s.dev.base = .off then s else
  ((s.links.filter fun e => !e.2.swaps.isEmpty).foldl (fun s e => s.dueSwaps e.1) s.refCount).atticWrites

/-- A lane of the transmit direction fails: LSWAP names a group 64 ahead, and the spare, or the removal, for it. -/
def execLaneFailure (l : LinkNo) (physical : BitVec 4) (s : State) : Res :=
  let n := physical.toNat
  if !s.linkUp l || decide (lanesOf l ≤ n) then .next s
  else
    let k := s.lnk l
    let s := s.markLane l 0 n
    match (k.planned 0).idxOf? n with
    | none => .next ((s.updLnk l fun k => { k with spares := k.spares.filter (· != n) }).showLanes l)
    | some i =>
      let a := k.spares.headD 15
      let g := s.txCount l + 64
      let s := s.onLine l (.flit l 5 [i, a, g % 65536])
      .next ((s.updLnk l fun k => { k with swaps := k.swaps ++ [(0, i, a, g)], spares := k.spares.drop 1 }).showLanes l)

/-- The peer announces a swap of a receive lane, from its group G on. -/
def execLswap (l : LinkNo) (logical physical : BitVec 4) (group : BitVec 16) (s : State) : Res :=
  if !s.linkIn l then .next s
  else
    let g := (groupNear (s.rxCount l) group).toNat
    .next ((s.updLnk l fun k => { k with swaps := k.swaps ++ [(1, logical.toNat, physical.toNat, g)] }).dueSwaps l)

-- Credits and replay (R334 to R336, R339)

/-- A CREDIT flit. -/
def execCredit (l : LinkNo) (ack sync control bulk strm : BitVec 16) (s : State) : Res :=
  if !s.linkIn l then .next s
  else
    let s := s.updLnk l fun k =>
      { k with
        nakCount := if ack = k.ackGroup then k.nakCount else 0, ackGroup := ack
        crSync := k.crSync + sync.toNat, crControl := k.crControl + control.toNat, crBulk := k.crBulk + bulk.toNat
        crStream := if l.val < 48 then k.crStream else k.crStream + strm.toNat }
    .next (State.drainLink l (s.lnk l).txq.length s)

/-- A CREDIT flit goes out, at least every 64 groups. -/
def execCreditDue (l : LinkNo) (s : State) : Res := .next (if s.linkUp l then s.sendCredit l else s)

/-- The last 256 groups sent are held. -/
def State.holdsGroup (s : State) (l : Nat) (g : BitVec 16) : Bool :=
  let n := groupNear (s.txCount l) g
  decide (0 ≤ n) && decide (n ≤ s.txCount l) && decide ((s.txCount l : Int) ≤ n + 256)

/-- RESYNC, and everything from a group on goes out again: groups count on from there (R339). -/
def State.replayFrom (s : State) (l : Nat) (group : BitVec 16) : State :=
  let n := (groupNear (s.txCount l) group).toNat
  let s := s.emit (.flit l 6 [group.toNat])
  let s := (((s.lnk l).replay.filter fun e => decide (n ≤ e.1)).map (·.2)).foldl State.emit s
  s.updLnk l fun k => { k with txBase := n, txSince := s.clk.raw }

/-- A NAK: RESYNC and replay; a group no longer held, or one that 8 NAKs name without progress, takes the link DOWN. -/
def execNak (l : LinkNo) (group : BitVec 16) (s : State) : Res :=
  if !s.linkIn l then .next s
  else
    let k := s.lnk l
    let n := if k.nakCount ≠ 0 ∧ k.nakGroup = group then k.nakCount + 1 else 1
    if !s.holdsGroup l group || decide (8 ≤ n) then .next (s.linkDown l 1)
    else
      let s := (s.count (Reg.LNK_REPLAY l) 0 32 1).updLnk l fun k => { k with nakCount := n, nakGroup := group }
      .next (s.replayFrom l group)

/-- Groups before this one are good, and good groups count on from here. -/
def State.rxFrom (s : State) (l : Nat) (group : BitVec 16) : State :=
  let n := (groupNear (s.rxCount l) group).toNat
  s.updLnk l fun k => { k with rxBase := n, rxSince := s.clk.raw }

/-- An uncorrectable codeword, or a packet that fails its CRC-32: NAK, and nothing is taken in until RESYNC. In training a
PEER flit in that group comes again. -/
def execUncorrectableCodeword (l : LinkNo) (group : BitVec 16) (crc : Bool) (s : State) : Res :=
  if !s.linkIn l then .next s
  else
    let s := (s.count (if crc then Reg.LNK_CRCERR l else Reg.LNK_FECUE l) 0 32 1).rxFrom l group
    let s := s.updLnk l fun k => { k with awaitResync := true }
    .next (s.onLine l (.flit l 2 [group.toNat]))

def execResync (l : LinkNo) (group : BitVec 16) (s : State) : Res :=
  if s.linkUp l && (s.lnk l).awaitResync then .next ((s.rxFrom l group).updLnk l fun k => { k with awaitResync := false })
  else .next s

/-- An ALIGN flit of a logical lane; once every lane in use has shown the group, the lanes are deskewed and the group is good. -/
def execAlign (l : LinkNo) (logical : BitVec 4) (group : BitVec 16) (_physical : BitVec 4) (s : State) : Res :=
  if !(s.linkIn l || s.linkState l == lsTraining) then .next s
  else
    let s := s.updLnk l fun k => { k with aligned := Tab.set 0 k.aligned logical.toNat (group + 1) }
    let k := s.lnk l
    let all : Bool := (k.rxLanes.zipIdx.filter fun p => p.1 != 15).all fun p => Tab.get 0 k.aligned p.2 == group + 1
    .next (if all && s.linkUp l then s.rxFrom l (group + 1) else s)

/-- The ALIGN flits of a group, slot by slot: ten to a lane in use (R333 to R335). -/
def LinkSt.alignFlits (k : LinkSt) (l : Nat) (g : BitVec 16) : List Out :=
  (k.txLanes.zipIdx.filter fun p => p.1 != 15).flatMap fun p => List.replicate 10 (.flit l 3 [p.2, g.toNat, p.1])

/-- A group whose number is a multiple of 4,096 goes out as an alignment group. -/
def execAlignmentGroup (l : LinkNo) (s : State) : Res :=
  if s.linkUp l ∧ (s.txGroup l).toNat % 4096 = 0 then .next (((s.lnk l).alignFlits l (s.txGroup l)).foldl State.emit s)
  else .next s

end Sys2Proof.Machine
end

