-- ==== Sys2Proof/Machine/Fabric.lean ====
section
/-! DEFINITION. Errors and losses of the networks: corrected and uncorrectable flits, hard wires, router domains that lose
power, reduction stalls and regions that do not quiesce (R175 to R179, R184, R189, R200, R201). -/

namespace Sys2Proof.Machine

/-- A reduction unit of the region has held a waiting flit for 2^26 cycles. -/
def execReductionStall (r : RegionNo) (s : State) : Res :=
  if !(s.rg r).bulkUp then .next s
  else .next ((s.count (Reg.RGN_NETREDST r) 0 16 1).report (.redStall r))

/-- Record a hard wire, named by the router that drives it; one without a spare left is a cause of forced retirement. -/
def State.hardWireAt (s : State) (site port : Nat) (net : BitVec 2) (wire : BitVec 10) (ue : Bool) : State :=
  match siteBeside site port with
  | none => s
  | some b =>
    let k : ReportKind := .hardWire (Fin.ofNat 13824 b) net (BitVec.ofNat 2 (facing port)) wire ue
    let s := s.todo k
    if s.wireSpent b (facing port) net.toNat wire.toNat then s.report k else s

/-- A receiving router corrects and counts a flit, or holds an uncorrectable one for good and reports it. The third
corrected error of a wire within 24 h, and any uncorrectable one, makes the wire hard. A number past the link's wires (R171)
names none. -/
def execNetworkFlitError (c : SiteNo) (net port : BitVec 2) (wire : BitVec 10) (uncorrectable : Bool) (s : State) : Res :=
  let r := siteRegion c
  let n := net.toNat
  if netWires n ≤ wire.toNat ∨ !s.netUp r n ∨ (s.fuses.bypass.contains c.val || s.attic.bypass.contains c.val) ∨ (siteBeside c port.toNat).isNone then
    .next s
  else if uncorrectable then
    let s := (s.count (Reg.RGN_NETUE r) 0 16 1).setRegF (Reg.RGN_NETUE r) 16 2 n
    let s := s.updRg r fun g => if n = 0 then { g with heldBulk := true } else { g with heldCtl := true }
    .next ((s.hardWireAt c port.toNat net wire true).report (.flitUE (Fin.ofNat 192 r) net))
  else
    let s := (s.count (Reg.RGN_NETCE r) 0 16 1).setRegF (Reg.RGN_NETCE r) 16 2 n
    let w := wireAt c port.toNat n wire.toNat
    let log := (s.rg r).wireLog.filter fun (e : Nat × DWord) => decide ((s.now - e.2).toNat < day)
    let s := s.updRg r fun g => { g with wireLog := log ++ [(w, s.now)] }
    .next (if 2 ≤ log.countP fun e => e.1 == w then s.hardWireAt c port.toNat net wire false else s)

/-- A router domain loses power: its routers fail to bypass, and the flits it held are lost (R178, R179). With the second
one the region's reference loop stops (R421). -/
def State.domainLost (s : State) (r : Nat) (ctl : Bool) : State :=
  let s := s.updRg r fun g => if ctl then { g with ctlUp := false, heldCtl := false } else { g with bulkUp := false, heldBulk := false }
  let s := if ctl then s
    else { s with sync := { s.sync with msgs := s.sync.msgs.filter fun m => !decide (s.msgRegion m = some r) } }
  if (s.rg r).bulkUp || (s.rg r).ctlUp then s else s.setRegF (Reg.RGN_PSTATE r) 3 1 0

def State.loseDomain (s : State) (r : Nat) (ctl : Bool) : State :=
  if s.netUp r (b2n ctl) then (s.domainLost r ctl).report (.routerLoss (Fin.ofNat 192 r) ctl) else s

def execRouterDomainLoss (r : RegionNo) (ctl : Bool) (s : State) : Res := .next (s.loseDomain r ctl)

/-- A region is not quiet within 100 µs of a restart: its router domains are reset, and what they hold is discarded. -/
def execQuiesceTimeout (r : RegionNo) (s : State) : Res :=
  if s.resil.restart.elim true fun x => x.rebuilt then .next s
  else .next (s.updRg r fun g => { g with heldBulk := false, heldCtl := false }).restartGo

end Sys2Proof.Machine
end

