-- ==== Sys2Proof/Machine/Power.lean ====
section
/-! DEFINITION. Supplies, phases, shorts and cracks, the two levels of the governor with the admission of wakes, ceilings
of heat, the trip, and what falls with a rail or a slab (R393 to R417, R441, R448). -/

namespace Sys2Proof.Machine

-- The rails fall (R156, R162, R397, R414, R441)

/-- The attic after a loss of power: a save under way leaves its copy with a bad CRC (R450), and an image that was being written
is bad (R454); it reads as one without a MAGIC (DESIGN CHOICE, see the assumption log). -/
def State.cutWrites (s : State) : Attic :=
  let cut (older : Bool) (x : Settings) : Settings := if s.dev.saving.isSome && older then { x with ok := false } else x
  { s.attic with
    copy0 := cut (s.attic.newer == 1) s.attic.copy0, copy1 := cut (s.attic.newer != 1) s.attic.copy1
    image := if s.dev.flashing.isSome then {} else s.attic.image }

/-- The always-on domain has no source: what is held only on the module is lost. The fuses, the attic and the inputs stay, and
work in the attic that waits for a planned restart is still due (R373). -/
def State.deviceOff (s : State) : State :=
  { State.reset with
    resil := { State.reset.resil with plannedDue := s.restartWork }
    fuses := s.fuses, attic := s.cutWrites, out := s.out, freeCtr := s.freeCtr, pending := s.pending
    dev := { State.reset.dev with base := .off, next := none, v48 := s.dev.v48, v48Held := s.dev.v48Held, v12 := s.dev.v12 } }

/-- The converter of slab 0 or of slab 1 runs, so the backup feed does. -/
def State.backupFeed (s : State) : Bool := [0, 1].any fun sl => tst (s.reg (Reg.SLB_CONV sl)) 8

/-- No source is left once the backup feed has stopped as well. -/
def State.feedCheck (s : State) : State := if s.dev.backup && !s.backupFeed then s.deviceOff else s

/-- A depot link loses its power. -/
def State.linkOff (s : State) (l : Nat) : State :=
  ((if s.linkUp l then s.linkDown l 0 else s).setLinkState l lsOff).updLnk l fun k => { k with tries := 0, fecSince := none }

def State.clearRegs (s : State) (lo n : Nat) : State := { s with regs := Tab.clear lo (lo + n) s.regs }

/-- The registers of a slab's powered-down domains go back to their Reset column (R16). The monitor blocks and the
slab's supply registers lie in the always-on domain. -/
def State.slabRegs (s : State) (sl : Nat) : State :=
  let s := (slabRegions sl).foldl (fun s r => s.clearRegs (Reg.rgnBase r) 0xE000) s
  let s : State := { s with conflicts := s.conflicts.filter fun e => slabOf (siteRegion (e.1 / 16)) != sl }
  let s := (s.clearRegs (Reg.slbBase sl) 0x20000).clearRegs (Reg.slbBase sl + 0x30000) 0xD0000
  (List.range 4).foldl
    (fun s f => (s.clearRegs (Reg.lnkBase (sl * 4 + f)) 0x1000).updLnk (sl * 4 + f) fun k => { k with fecSince := none }) s

/-- The converter of a slab stops: its regions and slices lose everything. -/
def State.slabOff (s : State) (sl : Nat) : State :=
  let s := (slabRegions sl).foldl (fun s r =>
    (((s.railsOff r).setRegF (Reg.RGN_NETSTATE r) 2 1 0).setRegF (Reg.RGN_PWR r) 4 4 0).setRegF (Reg.RGN_CURR r) 0 8 0) s
  let s := ((s.setRegF (Reg.SLB_CONV sl) 8 1 0).setRegF (Reg.SLB_CONV sl) 0 8 0).setReg (Reg.SLB_BUDGET sl) 0
  let s := s.updSlab sl fun x => { x with order := [], amps := [], reserved := [], waves := [], hotFields := 0 }
  let mine (p : QPkt) : Bool := (slabQueue p.queue).elim false fun q => q.1 == sl
  { s with strm := { s.strm with packets := s.strm.packets.filter fun p => !mine p } }.slabRegs sl

/-- Every rail but VAON falls, and the device is in AON. -/
def State.dropRails (s : State) : State :=
  let s := (depotLinks.foldl State.linkOff s.stopCairn).setLocal false
  let s := (List.range 12).foldl State.slabOff s
  { s with dev := { s.dev with base := .aon, pGood := false } }.refRestored.feedCheck

-- A bring-up begins (R288, R359, R365, R391, R392, R417, R443)

/-- The counts since bring-up start again. -/
def State.countersAnew (s : State) : State :=
  let s := (s.setReg Reg.GLB_RESTARTS 0).setReg Reg.GLB_TRIPS 0
  (List.range 192).foldl (fun s r => (s.setReg (Reg.RGN_KA r) 0).setRegF (Reg.RGN_PSTATE r) 16 16 0) s

/-- What counts from a bring-up on starts again: its stage reports wait for the event ring, no plan has run, and the cairns are
numbered from 0. In a bring-up that a pending restart waits for, its cairns stand (R413; DEDUCED, see the assumption log). -/
def State.newBringup (s : State) : State :=
  let s := s.countersAnew
  if s.resil.restart.isSome then s
  else { s with
    regions := Tab.mapVals {} (fun _ g => { g with heldLost := [] }) s.regions
    jobs := { s.jobs with everOn := s.ringState 128 != rsDisabled, cairnSet := [] }
    resil := { s.resil with nextNum := 0 } }

-- Supplies (R396, R397, R413, R414, R448)

def State.setV48 (s : State) (v : BitVec 16) : State := s.setRegF Reg.GLB_VIN 0 16 v.toNat
def State.setV12 (s : State) (v : BitVec 16) : State := s.setRegF Reg.GLB_VIN 16 16 v.toNat

/-- Bring-up has begun RAILS_UP or waits for it. -/
def State.inBringup (s : State) : Bool := s.dev.next.isSome && decide (2 ≤ stageAt s.dev.next)

/-- The input leaves its range during bring-up: the rails fall, and RAILS_UP waits for the input. -/
def State.bringupStops (s : State) : State :=
  let s := if s.railsUp then s.dropRails else s
  if s.dev.base = .off then s else { s with dev := { s.dev with next := some .railsUp } }

/-- The 48 V input is between 38 V and 63 V; outside 40 to 60 V it posts SUPPLY_LOW. -/
def execSupplyLow (v48 : BitVec 16) (s : State) : Res :=
  let v := v48.toNat
  if s.dev.base = .off ∨ v < 3800 ∨ 6300 < v then .next s
  else
    let ok := decide (4000 ≤ v) && decide (v ≤ 6000)
    let was := s.dev.v48
    let s := { s with dev := { s.dev with v48 := ok, v48Held := ok && s.dev.v48Held } }.setV48 v48
    if ok || !was then .next s
    else
      let s := s.post 0x0101 srcModule [(0, v)]
      .next (if s.inBringup then s.bringupStops else s)

/-- Loss of the 48 V input: the restart's step 1, then the rails. In bring-up the rails fall and it starts again. The input reads
below 38 V or above 63 V, and by how much is free (R413, R417). -/
def execSupplyLost (above : Bool) (s : State) : Res :=
  let v := if above then 6301 + Config.measure s.freeCtr % 59235 else Config.measure s.freeCtr % 3800
  let s := { s with dev := { s.dev with v48 := false, v48Held := false } }
  let s := if s.dev.base = .off then s else s.useFree.setV48 (BitVec.ofNat 16 v)
  if s.railsOn then
    let s := (s.post 0x0102 srcModule [(0, b2n above)]).alert alSupply
    let s := s.beginRestart 0 false true id
    .next { s with dev := { s.dev with outageFrom := some s.now, next := none } }.dropRails
  else if s.dev.base = .aon ∧ s.inBringup then .next s.bringupStops
  else .next s

/-- The 48 V input has been in range for 100 ms: RAILS_UP may begin, and a restart that waits for it goes on. -/
def execSupplyRestored (v48 : BitVec 16) (s : State) : Res :=
  let v := v48.toNat
  if v < 4000 ∨ 6000 < v then .next s
  else
    let s := { s with dev := { s.dev with v48 := true, v48Held := true } }
    if s.dev.base = .off then .next s
    else
      let s := s.setV48 v48
      match s.dev.outageFrom with
      | some t =>
        let s := s.post 0x0103 srcModule [(0, (s.now - t).toNat)]
        .next { s.newBringup with dev := { s.dev with outageFrom := none, next := some .railsUp } }
      | none => .next s

/-- The standby input below 11.0 V: the backup feed carries on, or the device enters OFF. -/
def execStandbyLost (v12 : BitVec 16) (s : State) : Res :=
  let v := v12.toNat
  let s := { s with dev := { s.dev with v12 := decide (1140 ≤ v) && decide (v ≤ 1260) } }
  if s.dev.base = .off then .next s
  else
    let s := s.setV12 v12
    if 1100 ≤ v ∨ s.dev.backup then .next s
    else if s.backupFeed then
      .next ((({ s with dev := { s.dev with backup := true } }).post 0x0104 srcModule [(0, v)]).alert alStandby)
    else .next s.deviceOff

/-- The standby input in range: it feeds the always-on domain again, and a device in OFF begins AON_UP. -/
def execStandbyRestored (v12 : BitVec 16) (s : State) : Res :=
  let v := v12.toNat
  if v < 1140 ∨ 1260 < v then .next s
  else
    let s := { s with dev := { s.dev with v12 := true } }
    if s.dev.base = .off then .next ({ s with dev := { s.dev with base := .aon, next := some .aonUp } }.setV12 v12)
    else
      let s := s.setV12 v12
      if s.dev.backup then .next (({ s with dev := { s.dev with backup := false } }).post 0x0105 srcModule []) else .next s

-- Phases, shorts and cracks (R399 to R401)

/-- VCORE phases of a region that are not lost. -/
def State.goodPhases (s : State) (r : Nat) : Nat := 15 - Tab.get 0 s.attic.phases r % 16

/-- ILIM in A: 30 for each phase, up to 90, and three quarters of that under a suspect bump group. Where the quarter is no
whole number its rounding is free (DESIGN CHOICE, see the assumption log). -/
def State.setIlim (s : State) (r phases : Nat) : State :=
  let amps := min 90 (30 * phases)
  if fld (Tab.get 0 s.attic.bump r) 4 1 = 0 then s.setRegF (Reg.RGN_CURR r) 8 8 amps
  else if amps % 4 = 0 then s.setRegF (Reg.RGN_CURR r) 8 8 (amps * 3 / 4)
  else s.useFree.setRegF (Reg.RGN_CURR r) 8 8 (amps * 3 / 4 + Config.measure s.freeCtr % 2)

/-- Phases in service, with the limits that follow from them. One phase or none names no rate ceiling, and it stays as it
is (DESIGN CHOICE, see the assumption log). -/
def State.setPhases (s : State) (r mask : Nat) : State :=
  let n := ones 4 (BitVec.ofNat 4 mask)
  let s := s.setRegF (Reg.RGN_PWR r) 4 4 mask
  let s := if n < 2 then s else s.setRegF (Reg.RGN_RATE r) 5 5 (if n = 2 then 12 else 16)
  (s.setIlim r n).clipRate r

/-- The array and core switches of a region open. -/
def State.openSwitches (s : State) (r : Nat) : State := if s.clocked r || (s.rg r).waking then s.toBivouac r else s

/-- A cause of forced retirement found by the power chain: a logical region through the fault intake, any other at once. -/
def State.forceCause (s : State) (r : Nat) (cause : BitVec 4) : State :=
  if (s.logRegion r).isSome then s.report (.forced (Fin.ofNat 192 r) cause) else s.retireReserve r cause.toNat 1 true

/-- A precursor: a logical region through the fault intake, a reserve at once without a restart. Before the first grid
build no region is a reserve yet, and the retirement waits for a planned restart or is deferred (R45, R47; DEDUCED, see the
assumption log). -/
def State.preventCause (s : State) (r : Nat) (cause : BitVec 4) : State :=
  if (s.logRegion r).isSome then s.report (.precursor (Fin.ofNat 192 r) cause)
  else if s.dev.grid then s.retireReserve r cause.toNat 1 false
  else s.planRetirement r cause.toNat

def execPhaseLost (r : RegionNo) (ph : BitVec 2) (s : State) : Res :=
  let m := s.regF (Reg.RGN_PWR r) 4 4
  if !s.railsUp || !m.testBit ph.toNat then .next s
  else
    let m := m - 2 ^ ph.toNat
    let lost := Tab.get 0 s.attic.phases r ||| 2 ^ ph.toNat
    let s := { s with attic := { s.attic with phases := Tab.set 0 s.attic.phases r lost } }
    let left := ones 4 (BitVec.ofNat 4 m)
    let s := (s.setPhases r m).post 0x0408 (srcRegion r) [(0, ph.toNat), (1, left)]
    if 3 ≤ left then .next s
    else if left = 2 then .next (s.preventCause r 4)
    else
      let s := (s.openSwitches r).forceCause r 4
      .next (if left = 0 then (s.loseDomain r false).loseDomain r true else s)

/-- A shorted region: its switches open, and where the current persists its phases and with them its routers go. -/
def execRegionShort (r : RegionNo) (ns : Word) (persists : Bool) (s : State) : Res :=
  if !s.railsUp then .next s
  else
    let s := ((s.openSwitches r).setRegF (Reg.RGN_PWR r) 8 1 1).post 0x0409 (srcRegion r) [(0, ns.toNat)]
    let s := s.forceCause r 5
    .next (if persists then
      let s := { s with attic := { s.attic with phases := Tab.set 0 s.attic.phases r 15 } }.setPhases r 0
      (s.loseDomain r false).loseDomain r true
    else s)

/-- A suspect bump group derates ILIM and plans a retirement; a second one is recorded and changes nothing further. -/
def execCrackSuspect (r : RegionNo) (group : BitVec 4) (excessUv : Word) (s : State) : Res :=
  let w := Tab.get 0 s.attic.bump r
  let e : Nat × Nat := (r.val, group.toNat)
  if !s.railsUp || decide (excessUv.toNat ≤ 8000) then .next s
  else if fld w 4 1 = 1 then
    if fld w 0 4 = group.toNat ∨ s.attic.bumpGroups.contains e then .next s
    else .next { s with attic := { s.attic with bumpGroups := s.attic.bumpGroups ++ [e] } }
  else
    let w := setFld (setFld (setFld w 0 4 group.toNat) 4 1 1) 8 8 (min 255 (excessUv.toNat / 1000))
    let s := { s with attic := { s.attic with bump := Tab.set 0 s.attic.bump r w } }
    let s := (s.setIlim r (s.phasesIn r)).post 0x0407 (srcRegion r) [(0, group.toNat), (4, excessUv.toNat)]
    .next (if s.isRetired r then s else s.report (.precursor r 11))

-- Frame converters (R415)

/-- A read of host memory that a LOAD of the ring made. -/
def HostRead.loadOf (h : HostRead) (n : Nat) : Bool := match h.why with
  | .load r _ _ _ => r == n
  | _ => false

/-- A COPY of a ring ends: its engine is free, and programs that wait for the engine go on. -/
def State.dropCopy (s : State) (n : Nat) : State :=
  let mine := (s.clusters.filter fun e => e.2.copyBusy == some (.ring n)).map (·.1)
  let s := mine.foldl (fun s i => s.updCl i fun c => { c with copyBusy := none, copyHeld := false }) s
  s.unstall (fun i w => mine.contains i && decide (w = .cpstart)) false

/-- Descriptors that end with a slab: every outstanding RUN_PLAN and CAIRN, and any other whose grant holds a region of it.
Their grants are withdrawn, and what they started elsewhere ends (R33). -/
def State.slabFails (s : State) (sl : Nat) : State :=
  ((List.range 64).foldl
    (fun s n =>
      match (s.ring n).out with
      | none => s
      | some o =>
        let t := typeOf o
        if t = 1 ∨ t = 5 ∨ (o.prog = .granted ∧ o.regions.any fun r => slabOf r == sl) then
          let s := s.finish n 0xF 0x24 0
          let s : State := { s with
            reqs := s.reqs.filter fun (q : DepReq) => q.ring != some n
            jobs := { s.jobs with
              grants := s.jobs.grants.filter (· != n)
              reads := s.jobs.reads.filter fun h => !h.loadOf n } }
          let s := s.dropCopy n
          let s := if t = 9 then (o.regions.filter fun r => slabOf r != sl && (s.rg r).sweeping).foldl (fun s r => (s.sweepEnd r).orStuck s) s else s
          if t = 1 ∧ (s.jobs.step.map (·.ring)) = some n then s.endStep else s
        else s)
    s).dropWaves

/-- A slab is lost (R49, R415): its columns cannot form their logical rows, and the device enters DEGRADED for good. -/
def State.darkenSlab (s : State) (sl : Nat) : State :=
  let s := s.post 0x0107 (srcSlab sl) [(0, ones 8 (BitVec.ofNat 8 (s.regF (Reg.SLB_CONV sl) 0 8)))]
  let s : State := { s with attic := { s.attic with
    deadConvs := if s.attic.deadConvs.contains sl then s.attic.deadConvs else s.attic.deadConvs ++ [sl] } }
  let s := ((s.slabFails sl).stopCairn).setLocal false
  let s := (List.range 4).foldl (fun s f => if s.linkUp (sl * 4 + f) then s.linkDown (sl * 4 + f) 0 else s) s
  let s := ((s.slabOff sl).updSlab sl fun x => { x with dark := true }).refRestored
  let s := (List.range 4).foldl (fun s f => s.setLinkState (sl * 4 + f) lsDown) s
  let enters := s.dev.base == DevBase.ready
  let s := { s with dev := { s.dev with degraded := true, base := if enters then DevBase.degraded else s.dev.base } }
  let s := s.dropChecks fun x => slabOf (siteRegion x.checker) == sl
  (if enters then s.alert alDegraded else s).feedCheck

def State.convRuns (s : State) (sl : Nat) : Bool := tst (s.reg (Reg.SLB_CONV sl)) 8

/-- A converter loses a phase; with the second one the slab is lost. -/
def execConverterPhase (sl : SlabNo) (ph : BitVec 3) (s : State) : Res :=
  let m := s.regF (Reg.SLB_CONV sl) 0 8
  if !s.convRuns sl || !m.testBit ph.toNat then .next s
  else
    let m := m - 2 ^ ph.toNat
    let lost := Tab.get 0 s.attic.convPhases sl ||| 2 ^ ph.toNat
    let s := { s with attic := { s.attic with convPhases := Tab.set 0 s.attic.convPhases sl lost } }
    let left := ones 8 (BitVec.ofNat 8 m)
    let s := (s.setRegF (Reg.SLB_CONV sl) 0 8 m).post 0x0106 (srcSlab sl) [(0, ph.toNat), (1, left)]
    .next (if left ≤ 6 then s.darkenSlab sl else s)

def execConverterLost (sl : SlabNo) (s : State) : Res := .next (if s.convRuns sl then s.darkenSlab sl else s)

-- The module level (R405 to R407, R416)

/-- Insert a region into a list ordered by slack, largest first; equal slacks stay in ascending number (DESIGN CHOICE). -/
def insertBySlack (slack : Nat → Nat) (r : Nat) : List Nat → List Nat
  | [] => [r]
  | q :: qs => if slack r ≤ slack q then q :: insertBySlack slack r qs else r :: q :: qs

def State.slackOf (s : State) (r : Nat) : Nat := s.regF (Reg.RGN_SLACK r) 0 16

/-- Granted regions of a slab in order of slack, largest first. -/
def State.slackOrder (s : State) (sl : Nat) : List Nat :=
  ((slabRegions sl).filter s.regionGranted).foldl (fun l r => insertBySlack s.slackOf r l) []

/-- Current of a region at its ceiling, times 720,720, the least common multiple of the rates. -/
def State.demand (s : State) (r : Nat) : Nat :=
  if s.rate r = 0 then 0 else s.regF (Reg.RGN_CURR r) 0 8 * s.ceil r * (720720 / s.rate r)

def State.slabDemand (s : State) (sl : Nat) : Nat := ((slabRegions sl).map fun r => if s.regionGranted r then s.demand r else 0).sum

/-- Budget of a slab in A, rounded down. Where no granted region draws current the shares are 0 / 0 and the budget is
free within the slab limit (DESIGN CHOICE, see the assumption log). -/
def State.slabBudget (s : State) (sl pin pcore mv : Nat) : Nat :=
  let total := ((List.range 12).map s.slabDemand).sum
  let core : Int := 98 * (s.regF Reg.GLB_PWRCAP 0 8 : Int) - ((pin : Int) - pcore)
  if total = 0 ∨ mv = 0 then Config.measure s.freeCtr % 1251
  else min 1250 (core.toNat * 1000 * s.slabDemand sl / (mv * total) + s.reservedAmps sl)

def execModuleGovernorInterval (pin pcore mvcore : BitVec 16) (s : State) : Res :=
  let s := if s.dev.base = .off then s else
    ({ s.useFree with dev := { s.dev with energy := s.dev.energy ++ [s.freeCtr] } }.setRegF Reg.GLB_PWRIN 0 16 pin.toNat).setRegF
      Reg.GLB_PWRIN 16 16 pcore.toNat
  if !s.railsOn then .next (s.setRegF Reg.GLB_PWRSTAT 0 1 0)
  else
    let t := s
    let s := (List.range 12).foldl
      (fun s sl =>
        let b := { t with freeCtr := s.freeCtr }.slabBudget sl pin.toNat pcore.toNat mvcore.toNat
        (s.useFree.setRegF (Reg.SLB_BUDGET sl) 0 12 b).updSlab sl fun x => { x with order := t.slackOrder sl })
      s
    let binding : Bool := (List.range 12).any fun sl => (s.slab sl).lowered
    let s := (List.range 12).foldl (fun s sl => s.updSlab sl fun x => { x with lowered := false }) s
    let s := s.setRegF Reg.GLB_PWRSTAT 0 1 (b2n binding)
    let early : Bool := s.clk.capPost.elim false fun x => decide ((s.now - x).toNat < second)
    if !binding || early then .next s
    else
      .next ({ s with clk := { s.clk with capPost := some s.now } }.post 0x0108 srcModule
        [(0, s.regF Reg.GLB_PWRCAP 0 8), (2, pin.toNat / 10)])

-- The slab level: wakes (R402 to R404)

/-- Reservations lapse 10 µs after their region is ACTIVE; one whose wake was given up lapses as well. -/
def State.lapse (s : State) (sl : Nat) : State :=
  let keep (e : Nat × Nat × DWord) : Bool :=
    (s.rg e.1).waking || (s.clocked e.1 && decide ((s.now - e.2.2).toNat < 10 * micro))
  s.updSlab sl fun x => { x with reserved := x.reserved.filter keep }

/-- Reservation of a region's wake. -/
def State.needs (s : State) (r : Nat) : Nat := if s.regionGranted r then reserveGrant else reserveOther

/-- Test one wake request at a boundary. The region would be the fifth to ramp, lacks headroom, or has a hot neighbour and
has not waited yet; else it is admitted. -/
def State.admitWake (s : State) (r : Nat) : State :=
  let sl := slabOf r
  match (s.rg r).wakeReq with
  | none => s
  | some q =>
    let wait (s : State) : State := s.updRg r fun g => { g with wakeReq := some { q with deferred := true } }
    if s.clocked r || (s.rg r).waking || s.isRetired r then s.updRg r fun g => { g with wakeReq := none }
    else if s.headroom sl < (s.needs r : Int) then wait (s.count (Reg.SLB_WAKEDEF sl) 16 16 1)
    else if 4 ≤ s.ramping sl then wait s
    else if s.hotNeighbour r && !q.deferred then wait (s.count (Reg.SLB_WAKEDEF sl) 0 16 1)
    else (s.reserve sl r (s.needs r)).wakeStart r

/-- What the first wave of a grant needs once it has waited for 100 µs and still lacks room (R403, R404). -/
def State.waveNeed (s : State) (sl : Nat) : Nat :=
  match (s.slab sl).waves with
  | w :: _ => if 100 * micro ≤ (s.now - (s.slab sl).wavesSince).toNat ∧ s.waveRoom sl < (w.1 * w.2.length : Nat) then w.1 * w.2.length else 0
  | [] => 0

/-- Headroom that requests pending for 100 µs still lack. -/
def State.forcedNeed (s : State) (sl : Nat) : Nat :=
  ((slabRegions sl).map fun r =>
    match (s.rg r).wakeReq with
    | some q => if 100 * micro ≤ (s.now - q.since).toNat ∧ s.headroom sl < (s.needs r : Int) then s.needs r else 0
    | none => 0).sum

-- The slab level: rates (R407, R423)

/-- Current per sixteenth of rate, times 720,720. -/
def State.stepAmps (s : State) (r : Nat) : Nat := s.regF (Reg.RGN_CURR r) 0 8 * (720720 / s.rate r)

/-- One sixteenth off the rates, largest slack first, until the current fits. -/
def State.lowerRates (limit : Int) : List Nat → Int → State → State
  | [], _, s => s
  | r :: rs, i, s =>
    if 8 < s.rate r then
      let i := i - s.stepAmps r
      let s := ((s.setRate r (s.rate r - 1)).count (Reg.RGN_THROT r) 16 16 1)
      if i ≤ limit then s else State.lowerRates limit rs i s
    else if i ≤ limit then s
    else State.lowerRates limit rs i s

/-- One sixteenth onto the rates, smallest slack first, where it fits below 97 % of the budget. -/
def State.raiseRates (limit : Int) : List Nat → Int → State → State
  | [], _, s => s
  | r :: rs, i, s =>
    if s.rate r < s.topRate r ∧ (i + s.stepAmps r) * 100 ≤ limit * 97 then
      State.raiseRates limit rs (i + s.stepAmps r) (s.setRate r (s.rate r + 1))
    else State.raiseRates limit rs i s

/-- CAPPED of a region follows from its rate. -/
def State.setCapped (s : State) (granted : List Nat) (r : Nat) : State :=
  s.setRegF (Reg.RGN_RATE r) 15 1 (b2n (granted.contains r && s.clocked r && decide (s.rate r < s.ceil r)))

/-- The governor of a slab at the end of its 10 µs interval. -/
def State.slabRates (s : State) (sl : Nat) : State :=
  let order := (s.slab sl).order.filter fun r => s.clocked r && s.regionGranted r && decide (8 ≤ s.rate r)
  let budget : Int := s.regF (Reg.SLB_BUDGET sl) 0 12
  let need := s.forcedNeed sl
  let limit : Int := if need = 0 then budget else min budget (budget - s.reservedAmps sl - need)
  let limit : Int := if s.waveNeed sl = 0 then limit else min limit (1250 - s.reservedAmps sl - s.waveNeed sl)
  let i : Int := s.regF (Reg.SLB_BUDGET sl) 16 12 * 720720
  let t :=
    if limit * 720720 < i then State.lowerRates (limit * 720720) order i s
    else if i * 100 < limit * 720720 * 97 then State.raiseRates (limit * 720720) order.reverse i s
    else s
  let low : Bool := decide (budget < 1250) && order.any fun r => decide (t.rate r < s.rate r)
  let t := t.updSlab sl fun x => { x with lowered := x.lowered || low }
  let t := (slabRegions sl).foldl State.clipRate t
  (slabRegions sl).foldl (fun t r => t.setCapped order r) t

/-- Every 10 µs: the currents of the interval, the waves and wakes, then the rates. -/
def execSlabGovernorInterval (sl : SlabNo) (amps : List (BitVec 8)) (s : State) : Res :=
  if !s.railsOn || (s.slab sl).dark then .next s
  else
    let a (i : Nat) : Nat := ((amps[i]?).map (·.toNat)).getD 0
    let s := (slabRegions sl).zipIdx.foldl (fun s p => s.setRegF (Reg.RGN_CURR p.1) 0 8 (a p.2)) s
    let all := (List.range 16).map a
    let s := (s.setRegF (Reg.SLB_BUDGET sl) 16 12 (min 4095 all.sum)).updSlab sl fun x => { x with amps := all }
    let s := s.lapse sl
    let s := if s.dev.tripped then s
      else (slabRegions sl).foldl State.admitWake (s.retryWaves sl)
    .next (s.slabRates sl)

-- Heat (R409 to R412). The sensors, their monitors and the comparators of the trip run from the always-on domain (R28), so
-- they act with the rails down as well.

/-- A reading of a region's hottest junction sensor. -/
def State.readTemp (s : State) (r t : Nat) : State :=
  (s.setRegF (Reg.RGN_TEMP r) 0 8 t).setRegF (Reg.RGN_TEMP r) 8 8 (max t (s.regF (Reg.RGN_TEMP r) 8 8))

/-- Lower a thermal ceiling by 1/16; at 8/16 a region is throttled no further. -/
def State.lowerThermal (s : State) (r : Nat) : State :=
  let c := s.thCeil r
  if c ≤ 8 then s
  else
    let s := (s.setRegF (Reg.RGN_RATE r) 10 5 (c - 1)).count (Reg.RGN_THROT r) 0 16 1
    let s := if c = 16 then
        (s.updRg r fun g => { g with throtSince := s.now }).post 0x0201 (srcRegion r) [(0, s.regF (Reg.RGN_TEMP r) 0 8)]
      else s
    s.clipRate r

/-- The hottest of a slab's regions that a lower ceiling would cool; the lowest number among equals (DESIGN CHOICE). -/
def State.hottest (s : State) (sl : Nat) : Option Nat :=
  ((slabRegions sl).filter fun r => decide (95 ≤ s.regF (Reg.RGN_TEMP r) 0 8) && decide (8 < s.thCeil r)).foldl
    (fun (b : Option Nat) r =>
      match b with
      | some q => if s.regF (Reg.RGN_TEMP q) 0 8 < s.regF (Reg.RGN_TEMP r) 0 8 then some r else b
      | none => some r)
    none

def execThermalCeilingLower (sl : SlabNo) (temps : List (BitVec 8)) (s : State) : Res :=
  if !s.aonLive then .next s
  else
    let s := (slabRegions sl).zipIdx.foldl (fun s p => (temps[p.2]?).elim s fun t => s.readTemp p.1 t.toNat) s
    .next ((s.hottest sl).elim s s.lowerThermal)

def execThermalCeilingRaise (r : RegionNo) (temp : BitVec 8) (s : State) : Res :=
  if !s.aonLive then .next s
  else
    let s := s.readTemp r temp.toNat
    let c := s.thCeil r
    if 92 < temp.toNat ∨ 16 ≤ c then .next s
    else
      let s := s.setRegF (Reg.RGN_RATE r) 10 5 (c + 1)
      .next (if c = 15 then s.post 0x0202 (srcRegion r) [(0, min (2 ^ 32 - 1) ((s.now - (s.rg r).throtSince).toNat / micro))] else s)

/-- A stack's reading every 100 µs: from 95 °C until it reads below 92 °C the ceilings of its field come down. -/
def execStackHot (sl : SlabNo) (f : BitVec 2) (temp : BitVec 8) (s : State) : Res :=
  if !s.aonLive then .next s
  else
    let t := temp.toNat
    let s := s.setRegF (Reg.SLB_STACKT sl) (8 * f.toNat) 8 t
    let was := (s.slab sl).hotFields.getLsbD f.toNat
    let hot := decide (95 ≤ t) || (was && decide (92 ≤ t))
    let s := s.updSlab sl fun x =>
      { x with hotFields := (x.hotFields &&& ~~~((1 : BitVec 4) <<< f.toNat)) ||| (BitVec.ofNat 4 (b2n hot) <<< f.toNat) }
    let s := if hot && !was then s.post 0x0204 (srcSlab sl) [(0, f.toNat), (1, t)] else s
    .next (if hot then (fieldRegions sl f.toNat).foldl State.lowerThermal s else s)

/-- A trip: every array and core switch opens, every slice refreshes itself, and the trip output is asserted. -/
def execThermalTrip (from_ : TripSrc) (temp : BitVec 8) (s : State) : Res :=
  let t := temp.toNat
  let read (s : State) : State := match from_ with
    | .junction r => s.readTemp r t
    | .stack sl f => s.setRegF (Reg.SLB_STACKT sl) (8 * f.toNat) 8 t
  let trips : Bool := match from_ with
    | .junction _ => decide (115 ≤ t)
    | .stack _ _ => decide (105 ≤ t)
  if !s.aonLive then .next s
  else if !trips || s.dev.tripped then .next (read s)
  else
    let s := (List.range 192).foldl
      (fun s r =>
        let s := s.openSwitches r
        if s.regF (Reg.RGN_CELSTATE r) 0 2 = 0 then s else s.setRegF (Reg.RGN_CELSTATE r) 0 2 2)
      (read s)
    let s := { s with dev := { s.dev with tripped := true, nTrip := true } }.setReg Reg.GLB_TRIPS (s.reg Reg.GLB_TRIPS + 1)
    let s := match from_ with
      | .junction r => s.post 0x0203 (srcRegion r) [(0, t)]
      | .stack sl f => s.post 0x0203 (srcSlab sl) [(0, t), (1, f.toNat)]
    .next ((s.alert alTrip).report (.trip from_))

/-- Every sensor reads below 85 °C: the trip is over, and the restart goes on. -/
def execTripRelease (maxTemp : BitVec 8) (s : State) : Res :=
  if !s.dev.tripped || decide (85 ≤ maxTemp.toNat) then .next s
  else .next { s with dev := { s.dev with tripped := false, nTrip := false } }.restartGo

/-- An inlet reading in units of 0.1 °C; one outside 20 to 40 °C posts COOLANT_RANGE once per excursion. -/
def execCoolantRange (inlet : BitVec 16) (s : State) : Res :=
  if s.dev.base = .off then .next s
  else
    let bad := decide (inlet.toInt < 200) || decide (400 < inlet.toInt)
    let was := s.dev.coolBad
    let s := { s with dev := { s.dev with coolBad := bad } }.setRegF Reg.GLB_COOLANT 0 16 inlet.toNat
    .next (if bad && !was then s.post 0x0205 srcModule [(0, inlet.toNat)] else s)

end Sys2Proof.Machine
end

