-- ==== Sys2Proof/Machine/Watch.lean ====
section
/-! DEFINITION. The watch units: arming, the capture window, samples, minimum, maximum, count and bins; and the pins TIMEIN and
CADENCE_IN, whose pulses sample the time offset (R308 to R311, R433, R456 to R458). -/

namespace Sys2Proof.Machine

-- Units and kinds (R456)

/-- What a unit watches. -/
inductive WatchScope where
  | global
  | slab (s : Nat)
  | link (l : Nat)
  | region (r : Nat)
  deriving DecidableEq, Repr

def watchScope (u : Nat) : WatchScope :=
  if u < 16 then .global
  else if u < 112 then .slab ((u - 16) / 8)
  else if u < 208 then .link ((u - 112) / 2)
  else .region ((u - 208) / 4)

/-- The kinds that each scope offers. -/
def watchKinds : WatchScope → List Nat
  | .global => [0x03, 0x07, 0x0B, 0x0C]
  | .slab _ => [0x01, 0x02, 0x03, 0x07]
  | .link _ => [0x08]
  | .region _ => [0x01, 0x02, 0x03, 0x04, 0x05, 0x06, 0x0A]

abbrev wsIdle : Nat := 0
abbrev wsArmed : Nat := 1
abbrev wsCapturing : Nat := 2
abbrev wsDone : Nat := 3

def State.watchState (s : State) (u : Nat) : Nat := s.regF (Reg.MGT_WCTL u) 2 2
def State.setWatchState (s : State) (u st : Nat) : State := s.setRegF (Reg.MGT_WCTL u) 2 2 st
def State.watchKind (s : State) (u : Nat) : Nat := s.regF (Reg.MGT_WSRC u) 0 8

/-- Setup registers of a unit are written while it is IDLE or DONE. -/
def State.watchStopped (s : State) (u : Nat) : Bool := s.watchState u == wsIdle || s.watchState u == wsDone

-- The window (R458)

/-- A higher rank than watch capture uses the region's clock, so the capture waits. -/
def State.watchHeld (s : State) (u : Nat) : Bool :=
  match watchScope u with
  | .region r => watchClocked (s.watchKind u) && !s.regionGranted r && (s.usedByCheck r || (s.rg r).scrubWin || (s.rg r).waking)
  | _ => false

def State.watchFrom (s : State) (u : Nat) : DWord := s.pairReg (Reg.MGT_WSTARTLO u) (Reg.MGT_WSTARTHI u)
def State.watchTo (s : State) (u : Nat) : DWord := s.pairReg (Reg.MGT_WENDLO u) (Reg.MGT_WENDHI u)

/-- The counter has reached START. Without a grant a clocked kind claims the clock of its region, which then runs if the region
was in BIVOUAC; in any other state without a clock the unit finds nothing to sample (DEDUCED, see the assumption log). -/
def State.watchBegin (s : State) (u : Nat) : State :=
  if s.watchState u = wsArmed ∧ (s.watchFrom u).toNat ≤ s.now.toNat ∧ !s.watchHeld u then
    let s := s.setWatchState u wsCapturing
    match watchScope u with
    | .region r => if s.watchClaim r u ∧ s.rstate r = stBivouac then s.clockUp r else s
    | _ => s
  else s

/-- Results of a unit: MIN, MAX, COUNT, UNDER and the 32 bins. -/
def watchResults (u : Nat) : List Nat :=
  [Reg.MGT_WMIN u, Reg.MGT_WMAX u, Reg.MGT_WCOUNT u, Reg.MGT_WUNDER u] ++ (List.range 32).map (Reg.MGT_WBIN u)

/-- A write of ARM. A window that is empty ends at once. -/
def execWctlArm (_p : PortNo) (u : WatchNo) (s : State) : Res :=
  if !s.reach (Reg.MGT_WCTL u) || !s.watchStopped u then .next s
  else
    let s : State := { s with mgmt := { s.mgmt with watchLast := Tab.set none s.mgmt.watchLast u none } }
    let s := (watchResults u).foldl (fun s a => s.setReg a 0) s
    let bad := !(watchKinds (watchScope u)).contains (s.watchKind u)
    let s := ((s.setWatchState u wsArmed).setRegF (Reg.MGT_WCTL u) 4 1 0).setRegF (Reg.MGT_WCTL u) 5 1 (b2n bad)
    .next (if (s.watchTo u).toNat ≤ (s.watchFrom u).toNat then s.setWatchState u wsDone else s.watchBegin u)

/-- A write of STOP ends the capture. -/
def execWctlStop (_p : PortNo) (u : WatchNo) (s : State) : Res :=
  if s.reach (Reg.MGT_WCTL u) && !s.watchStopped u then .next (s.setWatchState u wsDone) else .next s

def execWatchStart (u : WatchNo) (s : State) : Res := .next (s.watchBegin u)

def execWatchEnd (u : WatchNo) (s : State) : Res :=
  if s.watchState u = wsCapturing ∧ (s.watchTo u).toNat ≤ s.now.toNat then .next (s.setWatchState u wsDone) else .next s

-- Samples (R457)

/-- The bin of a sample x = v − BASE of width w. -/
def watchBin (log : Bool) (x : Int) (w : Nat) : Nat :=
  let w := max 1 w
  if x < 0 then 0
  else if !log then min 31 (x.toNat / w)
  else if x.toNat < w then 0
  else min 31 (1 + Nat.log2 (x.toNat / w))

/-- A unit takes samples: it captures, END is not reached, its kind is offered, and its region's endpoints are not in reset and,
for a clocked kind, have their clock. -/
def State.watchTakes (s : State) (u : Nat) : Bool :=
  s.watchState u == wsCapturing && !tst (s.reg (Reg.MGT_WCTL u)) 5 && decide (s.now.toNat < (s.watchTo u).toNat)
    && match watchScope u with
      | .region r => !(s.devState == 5 && s.rstate r == stDark) && (!watchClocked (s.watchKind u) || s.clocked r)
      | _ => true

/-- Kinds that are sampled every PERIOD counts; a PERIOD of 0 acts as 1. -/
def watchLevel (kind : Nat) : Bool := [1, 2, 3, 6, 7, 12].contains kind

/-- A unit that samples a level is due. -/
def State.watchDue (s : State) (u : Nat) : Bool :=
  !watchLevel (s.watchKind u) || (Tab.get none s.mgmt.watchLast u).elim true fun t =>
    decide (max 1 (s.regF (Reg.MGT_WSRC u) 17 15) ≤ (s.now - t).toNat)

/-- The value of a sample: what the state holds of the coolant inlet, a queue's cells and the input power, else what the sensor
or the event brings (DEDUCED, see the assumption log). -/
def State.watchValue (s : State) (u : Nat) (v : Word) : Word :=
  let index := s.regF (Reg.MGT_WSRC u) 8 8
  match watchScope u, s.watchKind u with
  | .global, 0x03 => BitVec.ofInt 32 (BitVec.ofNat 16 (s.regF Reg.GLB_COOLANT 0 16)).toInt
  | .global, 0x07 => BitVec.ofNat 32 (fld (s.queueCount index) 0 17)
  | .slab sl, 0x07 => BitVec.ofNat 32 (fld (s.queueCount (0x1000 + sl * 256 + index)) 0 17)
  | .global, 0x0C => BitVec.ofNat 32 (s.regF Reg.GLB_PWRIN 0 16)
  | _, _ => v

/-- A sample updates MIN, MAX and COUNT and adds 1 to one bin. The first one at or after START finds the capture begun. -/
def State.watchTake (s : State) (u : Nat) (v : Word) : State :=
  let s := s.watchBegin u
  if !s.watchTakes u || !s.watchDue u then s
  else
    let first := s.reg (Reg.MGT_WCOUNT u) == 0
    let keep (a : Nat) (p : Int → Int → Bool) (s : State) : State := if first || p v.toInt (s.reg a).toInt then s.setReg a v else s
    let s := keep (Reg.MGT_WMAX u) (fun x y => decide (y < x)) (keep (Reg.MGT_WMIN u) (fun x y => decide (x < y)) s)
    let x : Int := v.toInt - (s.reg (Reg.MGT_WBASE u)).toInt
    let bin := watchBin (tst (s.reg (Reg.MGT_WSRC u)) 16) x (s.reg (Reg.MGT_WWIDTH u)).toNat
    let s := (s.count (Reg.MGT_WCOUNT u) 0 32 1).count (Reg.MGT_WBIN u bin) 0 32 1
    let s := if watchLevel (s.watchKind u) then { s with mgmt := { s.mgmt with watchLast := Tab.set none s.mgmt.watchLast u (some s.now) } } else s
    if x < 0 then s.count (Reg.MGT_WUNDER u) 0 32 1 else s

/-- A sample of a unit. The time offset is sampled by the machine itself, at each pulse. -/
def execWatchSample (u : WatchNo) (v : Word) (s : State) : Res :=
  .next (if s.watchKind u = 0x0B then s.watchBegin u else s.watchTake u (s.watchValue u v))

-- The pins (R308 to R311, R433)

/-- A time pulse, and a sample of the offset in every unit that watches it, where one was computed. -/
def State.pulse (s : State) : State :=
  let t := s.timePulse
  if t.clk.beacons.length < s.clk.beacons.length then
    ((List.range 16).filter fun u => t.watchKind u == 0x0B).foldl (fun t u => t.watchTake u (t.reg Reg.GLB_TIMEOFS)) t
  else t

/-- A rising edge on TIMEIN, taken unless CADENCE_IN carries the pulse. -/
def execTimeinEdge (s : State) : Res := .next (if s.alias_ then s else s.pulse)

/-- A rising edge on CADENCE_IN (R308 to R311): a time pulse while the pin carries it; else a tick of the pin cadence
in force, or its first tick once it is armed; ignored and counted within 1 ms of the last tick. The edge is captured within
±1 count (R486). -/
def execCadenceInEdge (s : State) : Res :=
  if s.dev.base = .off then .next s
  else if s.alias_ then .next s.pulse
  else
    let t := s.captured
    let far := decide (milli ≤ t.toNat - s.strm.lastTick.toNat)
    let s := match s.strm.newCad with
      | some (c, a) => if c.pin && decide (a.toNat ≤ t.toNat) && far then s.adopt c else s
      | none => s
    let s := s.useFree
    if !((s.strm.cad.map (·.pin)).getD false) then .next s
    else if !far then .next (s.count Reg.GLB_CADIGN 0 32 1)
    else .next (({ s with strm := { s.strm with fallback := false } }).tick t true false false)

end Sys2Proof.Machine
end

