-- ==== Sys2Proof/Machine/Host.lean ====
section
/-! DEFINITION. Host accesses: the values that registers show, reads with their side effects, writes under the access
codes and the setup rule, the point table, the apertures, and the packets MRD and MWR (R14 to R17, R30, R146, R152, R179,
R354 to R356, R462 to R467). -/

namespace Sys2Proof.Machine

-- Maps that fuses, attic and host share (R122, R147, R178, R201)

/-- Bit b is 1 when SKIPb comes from the fuses: firmware has set none in service. A value that the host wrote counts as
neither, and the bit stays what it was (DESIGN CHOICE, see the assumption log). Before FUSES_READ it reads 0 (R16). -/
def State.arowSrc (s : State) (site : Nat) : Nat :=
  if s.dev.fuses then
    ((List.range 4).map fun b => if fld (Tab.get noSkip s.attic.skip site) (8 * b) 6 = 32 then 2 ^ b else 0).sum
  else 0

/-- Key of the spare that RGN_LARSPSEL selects. -/
def State.spareSel (s : State) (site : Nat) : Nat :=
  spareKey site (s.regF (Reg.RGN_LARSPSEL site) 0 4) (s.regF (Reg.RGN_LARSPSEL site) 4 4)

def State.larSpare (s : State) (site : Nat) : Word :=
  let f := Tab.get 0 s.fuses.larMap (s.spareSel site)
  if tst f 15 then setFld (f &&& 0x83FF) 16 1 1 else Tab.get 0 s.attic.larMap (s.spareSel site) &&& 0x83FF

/-- Bypassed routers of 32 sites of a region. -/
def State.bypassBits (l : List Nat) (r k : Nat) : Nat :=
  ((List.range 32).map fun i => if 32 * k + i < 72 ∧ l.contains (r * 72 + 32 * k + i) then 2 ^ i else 0).sum

/-- Spare groups in use on links that a region drives. -/
def State.spareWires (s : State) (r : Nat) : Nat :=
  s.attic.wires.countP fun e => decide (e.1 / 1024 / 72 = r) && e.2 != 0

-- The fault record (R451)

def pairNats (t : Tab Word) : List Nat := t.flatMap fun e => [e.1, e.2.toNat]

/-- What the defect and fault record holds: marks, spare maps, remaps, retirements, suspect marks, deferrals. -/
def State.recordMarks (s : State) : List (List Nat) :=
  let a := s.attic
  [a.badSites, a.retired.flatMap fun e => [e.1, e.2], a.retiredOrder, a.conflicts, pairNats a.skip, pairNats a.larMap, a.bypass,
    pairNats a.celMap, pairNats a.wires, a.suspects.flatMap fun e => [e.1, e.2.toNat], pairNats a.resil, pairNats a.sweep,
    pairNats a.bump, a.phases.flatMap fun e => [e.1, e.2], a.convPhases.flatMap fun e => [e.1, e.2], a.deadConvs, a.guard, a.marginal,
    a.bumpGroups.flatMap fun e => [e.1, e.2]]

def State.recordBytes (s : State) : List Byte := Config.faultRecord s.recordMarks

-- What the registers show (R16, R17)

def bit (b : Bool) (i : Nat) : Nat := if b then 2 ^ i else 0

def w32 (n : Nat) : Word := BitVec.ofNat 32 n

/-- The cadence that GLB_CADPERIOD and GLB_CADPHASE report. -/
def State.cadence (s : State) : Option Cadence := s.strm.cad.orElse fun _ => s.strm.newCad.map (·.1)

def State.cadPhase (s : State) : DWord := match s.cadence with
  | some c => c.phase
  | none => 0

/-- BOUND and RING of a channel. -/
def boundBits : Option Nat → Nat
  | some r => 4 + r * 8
  | none => 0

/-- PENDING of a pool. -/
def State.poolValue (s : State) (a : Nat) : Word :=
  setFld (s.reg a) 2 1 (b2n (s.regF a 0 1 != s.regF a 1 1))

/-- AON_UP has run, so the sensors of the always-on domain have been read; until then their registers read their Reset
column (R16). -/
def State.sensed (s : State) : Bool := s.dev.base != .off && s.dev.next != some .aonUp

/-- Whether a register shows a measurement, which is free (DESIGN CHOICE, see the assumption log). -/
def isMeasured (a : Nat) : Bool := a == Reg.GLB_REFMON || a == Reg.GLB_COOLANT

/-- The measurement of the next read, 0 before there is one. -/
def State.measured (s : State) : Nat := if s.sensed then Config.measure s.freeCtr else 0

/-- GLB_REFMON.PPM in 0.1 ppm, as it is measured (R419, R442): within ±500 ppm while REFCLK is valid; in the window of 40 µs after
its loss beyond that, or 0 without an edge to measure; then free, since REFCLK may be back before it is valid (DESIGN CHOICE, see
the assumption log). -/
def State.refOffset (s : State) : Nat :=
  let m := s.measured
  let fresh := s.clk.lostAt.elim false fun t => decide ((s.now - t).toNat < 40 * micro)
  let v : Int := if s.dev.refOk then (m % 10001 : Nat) - 5000
    else if !fresh then (m % 65536 : Nat) - 32768
    else if s.clk.refOut then (if m % 2 = 0 then 5001 + (m / 2 % 27767 : Nat) else -5001 - (m / 2 % 27768 : Nat))
    else 0
  (BitVec.ofInt 16 (if s.sensed then v else 0)).toNat

/-- Input energy since AON_UP in J: what the intervals metered, which is free and only grows (R417). -/
def State.joules (s : State) : Nat := (s.dev.energy.map Config.measure).sum

/-- GLB registers that are not simply held. GLB_TIMEHI and GLB_ENERGYHI show what a LO read latched, 0 before one. -/
def State.glbValue (s : State) (o : Nat) : Word :=
  let f (w : Word) : Word := if s.dev.fuses then w else 0
  if o = Reg.GLB_GRADE then f (w32 (s.fuses.grade.toNat + s.fuses.revision.toNat * 256 + s.rowsL * 65536))
  else if o = Reg.GLB_SERIALLO then f (s.fuses.serial.setWidth 32)
  else if o = Reg.GLB_SERIALHI then f ((s.fuses.serial >>> 32).setWidth 32)
  else if o = Reg.GLB_BOOTCFG then s.attic.bootcfg
  else if o = Reg.GLB_FWVER then s.mgmt.version
  else if o = Reg.GLB_SECURE then
    w32 (s.mgmt.svn + (if s.dev.fuses then s.fuses.k * 256 else 0) + bit s.dev.debug 16 + bit s.mgmt.recovery 17)
  else if o = Reg.GLB_CADPERIOD then w32 ((s.cadence.map (·.period)).getD 0)
  else if o = Reg.GLB_CADSTAT then
    w32 (b2n ((s.cadence.map (·.pin)).getD false) + bit s.strm.fallback 1 + bit s.alias_ 2 + bit s.cadence.isSome 3)
  else if o = Reg.GLB_CADPHASELO then (s.cadPhase).setWidth 32
  else if o = Reg.GLB_CADPHASEHI then (s.cadPhase >>> 32).setWidth 32
  else if o = Reg.GLB_WINDOW then s.strm.window
  else if 0x2100 ≤ o ∧ o < 0x2200 ∧ o % 16 = 4 then s.reg o ||| w32 (boundBits (s.ingRing ((o - 0x2100) / 16)))
  else if 0x2200 ≤ o ∧ o < 0x2280 ∧ o % 16 = 4 then s.reg o ||| w32 (boundBits (s.actRing ((o - 0x2200) / 16)))
  else if 0x2300 ≤ o ∧ o < 0x2490 ∧ o % 16 = 4 then s.queueCount ((o - 0x2300) / 16)
  else if o = Reg.GLB_SPOOL then s.poolValue o
  else if o = Reg.GLB_CAIRNSTAT then setFld (s.reg o) 5 1 (b2n s.pathUp)
  else if o = Reg.GLB_PWRSTAT then
    let waits := (s.resil.restart.map (·.supply)).getD false && !s.dev.v48Held
    let hot := (List.range 192).any fun r => decide (s.thCeil r < 16)
    w32 (s.regF o 0 1 + bit s.dev.backup 1 + bit s.dev.v48 2 + bit s.dev.v12 3 + bit waits 4 + bit hot 5 + bit s.dev.tripped 6)
  else if o = Reg.GLB_COOLANT then setFld (s.reg o) 16 16 s.measured
  else if o = Reg.GLB_ENERGYLO then w32 s.joules
  else if o = Reg.GLB_ENERGYHI then 0
  else if o = Reg.GLB_TIMELO then s.now.setWidth 32
  else if o = Reg.GLB_TIMEHI then 0
  else if o = Reg.GLB_TIMESTAT then
    w32 (b2n s.dev.refOk + bit s.clk.onHold 1 + bit s.clk.drift 2 + bit (s.clk.slew != 0) 3 + bit s.clk.aligned 4)
  else if o = Reg.GLB_REFMON then setFld (s.reg o) 0 16 s.refOffset
  else if o = Reg.GLB_DEVSTATE then w32 s.devState
  else s.reg o

def State.slbValue (s : State) (sl o : Nat) : Word :=
  let a := Reg.slbBase sl + o
  if o = 0x20010 then
    w32 ((if s.dev.fuses then sl + sl % 4 * 16 + sl / 4 * 64 else 0) + bit (s.slab sl).dark 8)
  else if o = 0x40000 then s.poolValue a
  else if 0x41000 ≤ o ∧ o < 0x42000 ∧ o % 16 = 4 then s.queueCount (0x1000 + sl * 256 + (o - 0x41000) / 16)
  else if 0x80000 ≤ o ∧ o < 0x90000 then Tab.get 0 s.attic.celMap ((sl * 4 + (o - 0x80000) / 0x4000) * 4096 + (o - 0x80000) % 0x4000 / 4)
  else s.reg a

/-- VSET in mV, with the guard band of a raised one, within 800 mV (R395). -/
def State.vsetValue (s : State) (r : Nat) : Nat :=
  let g := s.resilF r 2 1 == 1
  min 800 (Tab.get 0 s.fuses.vset r + (if g then 20 else 0)) + bit g 10

def State.rgnValue (s : State) (r o : Nat) : Word :=
  let a := Reg.rgnBase r + o
  let f (w : Word) : Word := if s.dev.fuses then w else 0
  if 0x8000 ≤ o ∧ o < 0x8240 then
    let site := r * 72 + (o - 0x8000) / 8
    if o % 8 = 0 then f (s.arow site) else w32 (s.arowSrc site)
  else if 0x9000 ≤ o ∧ o < 0xB400 then
    let site := r * 72 + (o - 0x9000) / 0x80
    let k := (o - 0x9000) % 0x80
    if k = 0x20 then f (s.larSpare site) else if 0x40 ≤ k then w32 (s.conflictCount site ((k - 0x40) / 4))
    else if k = 0x14 then setFld (s.reg a) 0 14 ((s.scrubRow site (s.regF a 0 14)).getD (s.regF a 0 14)) else s.reg a
  else if a = Reg.RGN_SCRUBINT r then if (s.rg r).scrubWin then setFld (s.reg a) 0 5 10 else s.reg a
  else if a = Reg.RGN_CELSTATE r then
    let t := s.regF (Reg.SLB_STACKT (slabOf r)) (8 * fieldOf r) 8
    setFld (s.reg a) 3 1 (b2n (s.regF a 0 2 == 1 && decide (85 < t)))
  else if a = Reg.RGN_CELREMAP r then w32 (min 8191 (s.remapCount r) + bit (decide (1024 < s.remapCount r)) 13)
  else if a = Reg.RGN_NETSTATE r then
    let g := s.rg r
    w32 (b2n g.bulkUp + bit g.ctlUp 1 + bit (tst (s.reg a) 2) 2 + bit (s.quiet r) 3 + bit (s.attAlt r) 4)
  else if a = Reg.RGN_NETBYP0 r then w32 (State.bypassBits (s.fuses.bypass ++ s.attic.bypass) r 0)
  else if a = Reg.RGN_NETBYP1 r then w32 (State.bypassBits (s.fuses.bypass ++ s.attic.bypass) r 1)
  else if a = Reg.RGN_NETBYP2 r then w32 (State.bypassBits (s.fuses.bypass ++ s.attic.bypass) r 2)
  else if a = Reg.RGN_NETSPARE r then w32 (min 255 (s.spareWires r) + bit (decide (0 < s.spareWires r)) 8)
  else if a = Reg.RGN_RESIL r then f (setFld (Tab.get 0 s.attic.resil r) 0 2 (min 3 (s.marks r)))
  else if a = Reg.RGN_SWEEP r then f (Tab.get 0 s.attic.sweep r)
  else if a = Reg.RGN_ID r then
    w32 ((if s.dev.fuses then r + regionX r * 256 + regionY r * 4096 else 0) + (s.logRegion r).getD 255 * 65536)
  else if a = Reg.RGN_VSET r then f (w32 (s.vsetValue r))
  else if a = Reg.RGN_BUMP r then f (Tab.get 0 s.attic.bump r)
  else s.reg a

/-- Equaliser settings: what training or the host put in force, else the attic's. -/
def State.eqValue (s : State) (l o : Nat) : Word :=
  match Tab.get none s.regs (Reg.lnkBase l + o) with
  | some v => v
  | none => (((s.linkSet l).map (·.eq)).getD [])[(o - 0x40) / 4]?.getD 0

/-- LNK_FECCE: corrected codewords since the last read, saturating; 0 while none has come (R358). -/
def State.correctedCodewords (s : State) (l : Nat) : Nat :=
  ((s.lnk l).fecSince.elim 0 fun n => min (2 ^ 32 - 1) (Config.correctedCodewords n l))

def State.mgtValue (s : State) (o : Nat) : Word :=
  if o = 0x4 then w32 s.mgmt.fill
  else if o = 0x8 then setFld (setFld (s.reg (Reg.mgtBase + o)) 0 1 (b2n (s.dev.saving.isSome || s.dev.flashing.isSome))) 16 16
      (min 65535 (max s.attic.wear (s.attic.log.length / 2 ^ 23) / 1000))
  else if o = 0xC then w32 (s.attic.log.length % 2 ^ 23 + min 511 (s.attic.log.length / 2 ^ 23) * 2 ^ 23)
  else if o = 0x10 then w32 (if s.sensed then min (2 ^ 24 - 1) s.recordBytes.length else 0)
  else s.reg (Reg.mgtBase + o)

/-- One word of the point table (R296). -/
def State.pointWord (s : State) (o : Nat) : Word :=
  w32 ((Tab.get 0 s.points (o / 16)).toNat / 2 ^ (32 * (o % 16 / 4)))

/-- What the word at a host address holds; reserved offsets read 0 (R463). NOCRING is 1 while the job ring is enabled and
its completion ring is DISABLED; for a job ring that is DISABLED it reads its Reset column (R254; DESIGN CHOICE, see the
assumption log). -/
def State.regLive (s : State) (a : Nat) : Word :=
  match blockOf a with
  | some (.ptb, o) => s.pointWord o
  | some (b, o) =>
    if (regDef a).isNone then 0
    else
      match b with
      | .glb => s.glbValue o
      | .rng n =>
        if o = 0x10 ∧ n < 64 then
          setFld (s.reg a) 4 1 (b2n (s.ringState n != rsDisabled && s.ringState (64 + n) == rsDisabled))
        else s.reg a
      | .slb sl => s.slbValue sl o
      | .rgn r => s.rgnValue r o
      | .lnk l => if 0x40 ≤ o then s.eqValue l o else if o = 0x1C then w32 (s.correctedCodewords l) else s.reg a
      | .mgt => s.mgtValue o
      | _ => 0
  | none => 0

/-- What a read of the word at a host address shows to port p: a HI register shows what the port's last read of its LO
register latched (R466). -/
def State.regValue (s : State) (p a : Nat) : Word :=
  if latchLo (a - 4) then (Tab.get none s.latches (latchKey p (a - 4))).getD (s.regLive a) else s.regLive a

/-- The site and bank of a conflict counter (R147). -/
def conflictKey (a : Nat) : Option Nat :=
  match blockOf a with
  | some (.rgn r, o) =>
    if 0x9000 ≤ o ∧ o < 0xB400 ∧ 0x40 ≤ (o - 0x9000) % 0x80 then
      some ((r * 72 + (o - 0x9000) / 0x80) * 16 + ((o - 0x9000) % 0x80 - 0x40) / 4)
    else none
  | _ => none

/-- A read of LNK_FECCE counts anew from here, while the link receives codewords. -/
def State.clearFec (s : State) (a : Nat) : State := match blockOf a with
  | some (.lnk l, 0x1C) =>
    let on := s.linkUp l || s.linkState l == lsTraining
    s.useFree.updLnk l fun k => { k with fecSince := if on then some s.freeCtr else none }
  | _ => s

/-- The high half that a read of a LO register latches. -/
def State.hiLive (s : State) (a : Nat) : Word :=
  if a = Reg.GLB_TIMELO then (s.now >>> 32).setWidth 32
  else if a = Reg.GLB_ENERGYLO then w32 (s.joules / 2 ^ 32)
  else s.regLive (a + 4)

/-- What a read leaves: RC fields clear, a LO register latches its HI partner for the port, and a measurement is used. -/
def State.afterRead (s : State) (p a : Nat) : State :=
  let rc := ((regDef a).getD {}).rc
  let s := if latchLo a then { s with latches := Tab.set none s.latches (latchKey p a) (some (s.hiLive a)) } else s
  let s := if isMeasured a then s.useFree else s
  let s := match conflictKey a with
    | some k => { s with conflicts := s.conflicts.filter fun e => e.1 != k }
    | none => s
  let s := s.clearFec a
  if rc = 0 then s else s.setReg a (s.reg a &&& ~~~rc)

/-- Read n words from a host address, in ascending order (R464). -/
def State.readWords (p : Nat) : Nat → Nat → State → List Byte → State × List Byte
  | 0, _, s, acc => (s, acc)
  | n + 1, a, s, acc => State.readWords p n (a + 4) (s.afterRead p a) (acc ++ toLe 4 (s.regValue p a).toNat)

-- Reach (R30, R356, R464, R465)

/-- Reserved span of a block (R462). -/
def blockSize : Block → Nat
  | .glb => 0x10000
  | .rng _ => 0x4000
  | .ptb => 0x200000
  | .slb _ => 0x100000
  | .rgn _ => 0x10000
  | .lnk _ => 0x1000
  | .mgt => 0x100000
  | .lar => 0x1000000000
  | .cel => 0x80000000000

def isAperture : Block → Bool
  | .lar | .cel => true
  | _ => false

/-- Offset within the block of R462; the ring records are one block. -/
def blockOffset (b : Block) (o : Nat) : Nat := match b with
  | .rng n => n * 0x40 + o
  | _ => o

/-- An access that a register block takes (R464). -/
def fits (a n : Nat) (b : Block) (o : Nat) : Bool :=
  decide (a % 4 = 0) && decide (n % 4 = 0) && decide (0 < n) && decide (n ≤ 4096) && decide (blockOffset b o + n ≤ blockSize b)

/-- Accesses that the boot ROM serves before FW_VERIFIED: those inside the ranges of R356. -/
def bootBlock (b : Block) (o n : Nat) : Bool := match b with
  | .glb => decide (o + n ≤ 0x28)
  | .mgt => decide (o + n ≤ 0x1000)
  | .lnk l => decide (48 ≤ l)
  | _ => false

/-- CPL STATUS of an access: 0 served at least in part, 1 all-ones, 2 unsupported. -/
def State.access (s : State) (a n : Nat) : Nat :=
  match blockOf a with
  | none => 2
  | some (b, o) =>
    if !s.dev.fwOk && !bootBlock b o n then 2
    else if isAperture b then (if 0 < n ∧ n ≤ 4096 then 0 else 2)
    else if !fits a n b o then 2
    else if s.reach a || s.reach (a + n - 4) then 0
    else 1

/-- Bytes of a register access up to the edge of a range of R465 that another domain holds. -/
def domainLen (a n : Nat) : Nat :=
  let cut (e o : Nat) : Nat := if o < e ∧ e < o + n then e - o else n
  match blockOf a with
  | some (.rgn _, o) => cut 0xE000 o
  | some (.slb _, o) => min (cut 0x20000 o) (cut 0x30000 o)
  | _ => n

-- The apertures (R146, R152, R464)

/-- What a piece of an aperture access meets; `held` is an endpoint of region r held in reset. -/
inductive Piece where
  | larder (site addr : Nat)
  | held (r : Nat)
  | cellar (r off : Nat)
  /-- Outside the grid, and a bank group that is off. -/
  | ones
  | off
  | down
  | outside
  deriving DecidableEq, Repr

/-- Bytes up to the end of a larder's bank group or of a slice. -/
def pieceLen (a n : Nat) : Nat :=
  if a < 0x5000000000 then min n (2 ^ 20 - a % 2 ^ 20) else min n (celSpan - a % celSpan)

/-- The unit behind an aperture address. Outside the grid, and in a bank group that is off, a read gives all ones and a
write is discarded; what is powered down follows R30. In RESTART the endpoints of a region that it has reset take in and
discard what comes until the region wakes (R22, R177); an awake one is served (R502). What runs past the last position lies
outside every block (R463). -/
def State.piece (s : State) (a : Nat) : Piece :=
  if (blockOf a).isNone then .outside
  else if !s.railsOn then .down
  else if a < 0x5000000000 then
    let n := (a - Reg.larAperture) / larSpan
    let o := (a - Reg.larAperture) % larSpan
    match (if n < s.nClusters then s.clusterSite n else none) with
    | none => .ones
    | some site =>
      let r := siteRegion site
      if !(s.rg r).bulkUp then .down
      else if s.rstate r = stDark then (if s.devState = 5 then .held r else .down)
      else if s.groupIsOn site (o / 2 ^ 20) then .larder site o
      else .off
  else
    let n := (a - Reg.celAperture) / celSpan
    match (if n < 16 * s.rowsL then s.physRegion n else none) with
    | none => .ones
    | some r =>
      if !(s.rg r).bulkUp || s.regF (Reg.RGN_CELSTATE r) 0 2 == 0 then .down else .cellar r ((a - Reg.celAperture) % celSpan)

/-- Flits that an endpoint held in reset takes in and discards: RGN_NETDISC counts them (R177). -/
def State.discardFlits (s : State) (r n : Nat) : State := s.count (Reg.RGN_NETDISC r) 0 32 n

/-- An access to a region in BIVOUAC lifts its powered groups out of retention. An access that no powered group serves lifts
none (DESIGN CHOICE, see the assumption log). -/
def State.lift (s : State) (r : Nat) : State :=
  if s.rstate r = stBivouac then
    ((s.setSwitches r false false true).setRetention r false).updRg r fun g => { g with aperAt := some s.now }
  else s

/-- Send a part of a read's answer; the last one unless the caller says otherwise. -/
def State.answer (s : State) (p tid st off : Nat) (d : List Byte) (last : Bool := true) : State :=
  s.send (portLink p) 2 d.length (.cpl p tid st off last d)

def onesBytes (n : Nat) : List Byte := List.replicate n 0xFF

/-- Read an aperture piece by piece. The part of an access that meets an uncorrectable word is held: it brings no answer, and
neither does a part behind it, since the parts of an answer go out in ascending offset (R355); but a part in the next larder or
slice is an access of its own, and is made (R464). An endpoint in reset answers all ones with the RESET status, which a CPL shows
as STATUS 1 (DESIGN CHOICE, see the assumption log). -/
def State.readAperture (p tid : Nat) : Nat → Bool → Nat → Nat → Nat → State → State
  | 0, _, _, _, _, s => s
  | fuel + 1, mute, a, off, n, s =>
    if n = 0 then s
    else
      let k := pieceLen a n
      let say (s : State) (st : Nat) (d : List Byte) (last : Bool) : State := if mute then s else s.answer p tid st off d last
      let go (s : State) (st : Nat) (d : List Byte) : State :=
        State.readAperture p tid fuel mute (a + k) (off + k) (n - k) (say s st d (decide (n ≤ k)))
      let held (s : State) : State :=
        if (a + k) % larSpan = 0 then State.readAperture p tid fuel true (a + k) (off + k) (n - k) s else s
      match s.piece a with
      | .ones | .off => go s 0 (onesBytes k)
      | .outside => say s 2 [] true
      | .down => go s 1 (onesBytes k)
      | .held r => go (s.discardFlits r 1) 1 (onesBytes k)
      | .larder site o =>
        match (s.lift (siteRegion site)).larRead site o k with
        | (s, none) => held s
        | (s, some d) => go s 0 d
      | .cellar r o =>
        match s.celRead r o k with
        | (s, none) => held s
        | (s, some d) => go s 0 d

/-- Write an aperture piece by piece; a held part keeps no part in the next larder or slice from being written (R464). During RUN a write inside the grid is U9 (R502), but for what is powered down, whose
case R30 keeps defined. -/
def State.writeAperture : Nat → Nat → List Byte → State → Res
  | 0, _, _, s => .next s
  | fuel + 1, a, d, s =>
    if d.isEmpty then .next s
    else
      let k := pieceLen a d.length
      let go (s : State) : Res := State.writeAperture fuel (a + k) (d.drop k) s
      let held (s : State) : Res := if (a + k) % larSpan = 0 then go s else .next s
      match s.piece a with
      | .ones | .down => go s
      | .off => if s.devState = 3 then undef .u9 else go s
      | .outside => .next s
      | .held r => go (s.discardFlits r ((k + 63) / 64))
      | .larder site o =>
        if s.devState = 3 then undef .u9
        else
          match (s.lift (siteRegion site)).larWrite site o (d.take k) with
          | (s, false) => held s
          | (s, true) => go s
      | .cellar r o =>
        if s.devState = 3 then undef .u9
        else
          match s.celWrite r o (d.take k) with
          | (s, false) => held s
          | (s, true) => go s

-- Writes (R14, R15, R302, R463)

/-- A setup register is written while its unit is stopped; anything else is U5 (R15). -/
def State.setupWrite (s : State) (stopped : Bool) (a : Nat) (v : Word) : Res :=
  if stopped then .next (s.writeRw a v) else undef .u5

/-- Every ring is DISABLED or STOPPED (R253). -/
def State.ringsStopped (s : State) : Bool :=
  (List.range 129).all fun n => s.ringState n == rsDisabled || s.ringState n == rsStopped

/-- RGN_AROW and RGN_LARSPMAP are written in DARK, RESERVE and RETIRED, and while clusters are held in reset (R122). -/
def State.rowsStopped (s : State) (r : Nat) : Bool :=
  s.rstate r == stDark || s.rstate r == stReserve || s.rstate r == stRetired || s.devState == 5

/-- A write that retargets a reserve is U12; elsewhere the unit must be stopped. -/
def State.mapWrite (s : State) (r : Nat) (same stopped : Bool) (t : State) : Res :=
  if s.rstate r = stReserve ∧ !same then undef .u12 else if stopped then .next t else undef .u5

/-- A write to RGN_NETBYPk: the unit is stopped until the grid rebuild of a restart is done; a write that clears a bit of
the fuses is ignored (R201). -/
def State.bypassWrite (s : State) (r k : Nat) (v : Word) : Res :=
  let m := if k = 2 then v &&& 0xFF else v
  let fuse := w32 (State.bypassBits s.fuses.bypass r k)
  let now := w32 (State.bypassBits (s.fuses.bypass ++ s.attic.bypass) r k)
  let rebuilds := s.devState == 5 && (s.resil.restart.map fun x => !x.rebuilt).getD false
  if fuse &&& ~~~m ≠ 0 then .next s
  else
    let mine (i : Nat) : Bool := decide (i / 72 = r) && decide (i % 72 / 32 = k)
    let new := ((List.range 32).filter fun i => tst m i && !tst fuse i).map fun i => r * 72 + 32 * k + i
    s.mapWrite r (m == now) rebuilds
      { s with attic := { s.attic with bypass := s.attic.bypass.filter (fun i => !mine i) ++ new } }

/-- A write to the larder registers of a site. -/
def State.larRegWrite (s : State) (p : PortNo) (site : SiteNo) (k : Nat) (v : Word) : Res :=
  let _ := p
  if k = 0 then .next (s.setReg (Reg.RGN_LARPWR site) (s.reg (Reg.RGN_LARPWR site) &&& ~~~(v &&& 0xF000)))
  else if k = 0x18 then execLarinjArm site v s
  else if k = 0x1C then .next (s.writeRw (Reg.RGN_LARSPSEL site) v)
  else if k = 0x20 then
    let key := s.spareSel site
    if tst (Tab.get 0 s.fuses.larMap key) 15 then .next s
    else
      let r := siteRegion site
      s.mapWrite r (s.larSpare site == (v &&& 0x83FF)) (s.rowsStopped r)
        { s with attic := { s.attic with larMap := Tab.set 0 s.attic.larMap key (v &&& 0x83FF) } }
  else .next s

def State.rgnWrite (s : State) (p : PortNo) (r : RegionNo) (o : Nat) (v : Word) : Res :=
  let a := Reg.rgnBase r + o
  if 0x8000 ≤ o ∧ o < 0x8240 then
    if o % 8 ≠ 0 then .next s
    else
      let site := r * 72 + (o - 0x8000) / 8
      let w := v &&& 0x3F3F3F3F
      s.mapWrite r (s.arow site == w) (s.rowsStopped r) { s with regs := Tab.set none s.regs a (some w) }
  else if 0x9000 ≤ o ∧ o < 0xB400 then s.larRegWrite p (Fin.ofNat 13824 (r * 72 + (o - 0x9000) / 0x80)) ((o - 0x9000) % 0x80) v
  else if a = Reg.RGN_CELINJ r then s.setupWrite (s.injStopped r) a v
  else if a = Reg.RGN_CELINJSYM r then execCelinjsymArm r v s
  else if a = Reg.RGN_NETBYP0 r then s.bypassWrite r 0 v
  else if a = Reg.RGN_NETBYP1 r then s.bypassWrite r 1 v
  else if a = Reg.RGN_NETBYP2 r then s.bypassWrite r 2 v
  else .next (s.writeRw a v)

/-- READY with nothing outstanding: the rails fall, and the device enters AON (R441). -/
def execShutdown (_p : PortNo) (s : State) : Res :=
  if !s.reach Reg.GLB_DEVCMD || s.devState != 2 || (List.range 64).any fun n => (s.ring n).out.isSome then .next s
  else .next { s with dev := { s.dev with next := none } }.dropRails

/-- In AON, while no bring-up runs: bring-up starts at RAILS_UP (R441, R448). -/
def execBringup (_p : PortNo) (s : State) : Res :=
  if !s.reach Reg.GLB_DEVCMD || s.dev.base != .aon || s.dev.next.isSome then .next s
  else .next { s.newBringup with dev := { s.dev with next := some .railsUp, retried := false, retryDue := false } }

def State.glbWrite (s : State) (p : PortNo) (o : Nat) (v : Word) : Res :=
  if o = Reg.GLB_BOOTCFG then .next { s with attic := { s.attic with bootcfg := v &&& 7 } }
  else if o = Reg.GLB_RINGCFG then execGlbRingcfgWrite p v s
  else if 0x400 ≤ o ∧ o < 0x410 then s.setupWrite s.ringsStopped o v
  else if o = Reg.GLB_PTCMT then execPtcmtGo p v s
  else if 0x2100 ≤ o ∧ o < 0x2200 then
    let c := (o - 0x2100) / 16 % 16
    if o % 16 = 0 then s.setupWrite (!s.ingOn c) o v
    else if o % 16 = 4 then execIngestEnable p (Fin.ofNat 16 c) v s
    else .next s
  else if 0x2200 ≤ o ∧ o < 0x2280 then
    let c := (o - 0x2200) / 16 % 8
    if o % 16 = 0 then s.setupWrite (!s.actOn c) o v
    else if o % 16 = 4 then execActuationEnable p (Fin.ofNat 8 c) v s
    else .next s
  else if 0x2300 ≤ o ∧ o < 0x2490 then
    if o % 16 = 0 then execFlush p (BitVec.ofNat 16 ((o - 0x2300) / 16)) v s else .next s
  else if o = Reg.GLB_SPOOL then execPoolModeRequest p 0 v s
  else if 0x3000 ≤ o ∧ o < 0x3010 then s.setupWrite (s.cairnStage == caIdle && s.devState != 5) o v
  else if o = Reg.GLB_TIMECFG then execGlbTimecfgWrite p v s
  else if o = Reg.GLB_DEVCMD then
    if tst v 0 ∧ s.devState = 2 then execShutdown p s else if tst v 1 then execBringup p s else .next s
  else if 0xC000 ≤ o then execGlbPlandirWrite p (Fin.ofNat 1024 ((o - 0xC000) / 16)) (BitVec.ofNat 2 (o % 16 / 4)) v s
  else .next (s.writeRw o v)

/-- A write in a ring's block. A W1S command bit acts at once and reads 0 after: it is stored nowhere, here and in LNK_CMD,
GLB_DEVCMD, MGT_WCTL and GLB_PTCMT. STOP and RESUME both 1 carry out STOP only (DESIGN CHOICES, see the assumption log). -/
def State.rngWrite (s : State) (p : PortNo) (n : Fin 129) (o : Nat) (v : Word) : Res :=
  if o = 0x8 then if tst v 31 then execRngEnable p n v s else execRngDisable p n v s
  else if o = 0xC then if tst v 0 then execRngStop p n s else if tst v 1 then execRngResume p n s else .next s
  else if o ≤ 0x4 ∨ (0x1C ≤ o ∧ o ≤ 0x24) then
    s.setupWrite (s.ringState n == rsDisabled || s.ringState n == rsStopped) (Reg.rngBase n + o) v
  else .next s

def State.slbWrite (s : State) (p : PortNo) (sl : SlabNo) (o : Nat) (v : Word) : Res :=
  if o = 0x40000 then execPoolModeRequest p (Fin.ofNat 13 (sl + 1)) v s
  else if 0x41000 ≤ o ∧ o < 0x42000 ∧ o % 16 = 0 then execFlush p (BitVec.ofNat 16 (0x1000 + sl * 256 + (o - 0x41000) / 16)) v s
  else .next s

/-- Run one write after another, if the first leaves a state. -/
def thenDo (r : Res) (f : State → Res) : Res := match r with
  | .next s => f s
  | x => x

/-- A write to a link block; ENABLE 0 puts a stopped link into OFF (R344). -/
def State.lnkWrite (s : State) (p : PortNo) (l : LinkNo) (o : Nat) (v : Word) : Res :=
  let st := s.linkState l
  let stopped := st == lsOff || st == lsDown || st == lsPeerFail
  if o = 0 then
    thenDo (s.setupWrite stopped (Reg.LNK_CTL l) v) fun s =>
      .next (if tst v 0 then s else (s.setLinkState l lsOff).updLnk l fun k => { k with tries := 0 })
  else if o = 4 then
    let a := if tst v 1 then execLnkDown p l s else .next s
    let b := thenDo a fun s => if tst v 0 then execRetrain p l s else .next s
    thenDo b fun s => if tst v 2 then execClrpeer p l s else .next s
  else if 0x40 ≤ o ∧ o < 0x68 then
    if stopped then .next { s with regs := Tab.set none s.regs (Reg.lnkBase l + o) (some (v &&& 0x3FFFF)) } else undef .u5
  else .next s

def State.mgtWrite (s : State) (p : PortNo) (o : Nat) (v : Word) : Res :=
  if o < 0x10000 then .next s
  else
    let u : WatchNo := Fin.ofNat 976 ((o - 0x10000) / 0x100)
    if o % 0x100 = 0 then
      let a := if tst v 1 then execWctlStop p u s else .next s
      thenDo a fun s => if tst v 0 then execWctlArm p u s else .next s
    else if o % 0x100 < 0x20 then s.setupWrite (s.watchStopped u) (Reg.mgtBase + o) v
    else .next s

/-- A direct write to one word of a point-table entry: U11 when the entry's DEST, or the one being written, names an
enabled channel (R302, R504). -/
def State.pointWrite (s : State) (o : Nat) (v : Word) : Res :=
  let i := o / 16
  let k := o % 16 / 4
  let old := Tab.get 0 s.points i
  let new := ((old &&& ~~~(BitVec.ofNat 128 (0xFFFFFFFF * 2 ^ (32 * k)))) ||| BitVec.ofNat 128 (v.toNat * 2 ^ (32 * k))) &&& pointMask
  if s.ingOn (PtEnt.mk old).ch || s.ingOn (PtEnt.mk new).ch then undef .u11
  else .next { s with points := Tab.set 0 s.points i new }

/-- Write one word at a host address that is reachable; reserved offsets and RO fields ignore it (R463). -/
def State.writeReg (s : State) (p : PortNo) (a : Nat) (v : Word) : Res :=
  match blockOf a with
  | some (.ptb, o) => s.pointWrite o v
  | some (b, o) =>
    if (regDef a).isNone then .next s
    else
      match b with
      | .glb => s.glbWrite p o v
      | .rng n => s.rngWrite p (Fin.ofNat 129 n) o v
      | .slb sl => s.slbWrite p (Fin.ofNat 12 sl) o v
      | .rgn r => s.rgnWrite p (Fin.ofNat 192 r) o v
      | .lnk l => s.lnkWrite p (Fin.ofNat 50 l) o v
      | .mgt => s.mgtWrite p o v
      | _ => .next s
  | none => .next s

def State.writeWord (s : State) (p : PortNo) (a : Nat) (v : Word) : Res :=
  thenDo (s.writeReg p a v) fun s => .next (s.unlatch p a)

/-- Write words from a host address, in ascending order (R464); those whose domain is down are discarded (R30, R465). -/
def State.writeWords (p : PortNo) : Nat → Nat → List Byte → State → Res
  | 0, _, _, s => .next s
  | n + 1, a, d, s =>
    thenDo (if s.reach a then s.writeWord p a (w32 (ofLe (d.take 4))) else .next s) fun s =>
      State.writeWords p n (a + 4) (d.drop 4) s

-- The commands

/-- Read a register block part by part, one for each domain that holds some of it (R355, R465). -/
def State.readBlock (p tid : Nat) : Nat → Nat → Nat → Nat → State → State
  | 0, _, _, _, s => s
  | fuel + 1, a, off, n, s =>
    if n = 0 then s
    else
      let k := domainLen a n
      let s :=
        if s.reach a then
          let x := State.readWords p (k / 4) a s []
          x.1.answer p tid 0 off x.2
        else s.answer p tid 1 off (onesBytes k)
      State.readBlock p tid fuel (a + k) (off + k) (n - k) s

/-- A host read: answered with CPL parts in ascending offset (R354, R355). -/
def execMrd (p : PortNo) (addr : BitVec 44) (bytes : BitVec 13) (tid : Word) (s : State) : Res :=
  if !s.linkIn (portLink p) then .next s
  else
    let s := s.received (portLink p) 2 0
    let a := addr.toNat
    let n := bytes.toNat
    let t := tid.toNat
    match s.access a n with
    | 0 =>
      if (blockOf a).elim false fun b => isAperture b.1 then .next (State.readAperture p t (n + 1) false a 0 n s)
      else .next (State.readBlock p t 2 a 0 n s)
    | 1 => .next (s.answer p t 1 0 (onesBytes n))
    | _ => .next (s.answer p t 2 0 [])

/-- A posted host write; one that is not served is discarded. -/
def execMwr (p : PortNo) (addr : BitVec 44) (data : List Byte) (s : State) : Res :=
  if !s.linkIn (portLink p) then .next s
  else
    let s := s.received (portLink p) 2 data.length
    let a := addr.toNat
    if s.access a data.length ≠ 0 then .next s
    else if (blockOf a).elim false fun b => isAperture b.1 then State.writeAperture (data.length + 1) a data s
    else State.writeWords p (data.length / 4) a data s

/-- A write of one register, under its access codes and the rows that registers with rows of their own have. -/
def execRegisterWrite (p : PortNo) (addr : BitVec 44) (v : Word) (s : State) : Res :=
  let a := addr.toNat
  if s.access a 4 ≠ 0 || (blockOf a).elim false fun b => isAperture b.1 then .next s else s.writeWord p a v

/-- A read of one register, answered as an MRD of 4 bytes is. -/
def State.readOne (s : State) (p : PortNo) (a : Nat) (tid : Word) : State :=
  match s.access a 4 with
  | 0 => (s.afterRead p a).answer p tid.toNat 0 0 (toLe 4 (s.regValue p a).toNat)
  | 1 => s.answer p tid.toNat 1 0 (onesBytes 4)
  | _ => s.answer p tid.toNat 2 0 []

/-- A read of a register with RC fields returns them and clears them (R14, R466). -/
def execRcRead (p : PortNo) (addr : BitVec 44) (tid : Word) (s : State) : Res :=
  if !s.linkIn (portLink p) || ((regDef addr.toNat).getD {}).rc == 0 then .next s else .next (s.readOne p addr.toNat tid)

/-- A read of a LO register latches its HI partner for the port (R466). -/
def execLatchingLoRead (p : PortNo) (addr : BitVec 44) (tid : Word) (s : State) : Res :=
  if !s.linkIn (portLink p) || !latchLo addr.toNat then .next s else .next (s.readOne p addr.toNat tid)

/-- A host access whose flit a router domain lost in service, or that a quiescence discarded, completes with all ones
(R179, R200). The access itself had no other effect. -/
def execHostAccessTimeout (p : PortNo) (tid : Word) (bytes : BitVec 13) (s : State) : Res :=
  let lost : Bool := (List.range 192).any fun r => !(s.rg r).bulkUp || !(s.rg r).ctlUp
  if !s.railsOn || !(lost || s.resil.restart.isSome) || bytes.toNat = 0 || 4096 < bytes.toNat then .next s
  else .next (s.answer p tid.toNat 1 0 (onesBytes bytes.toNat))

end Sys2Proof.Machine
end

