-- ==== Sys2Proof/Machine/Bringup.lean ====
section
/-! DEFINITION. Bring-up: the stages in their order with their reports, the firmware check, the stage failures with the
retry, and saved training settings (R180, R345, R376, R388, R444 to R453). -/

namespace Sys2Proof.Machine

-- Reports and failures (R445, R446)

/-- A stage's report: GLB_STAGE, its duration, the attic log and event 0x07ss. -/
def State.stageReport (s : State) (code : Nat) (us : Word) (unit : BitVec 16) (reason : Nat) : State :=
  let s := s.setReg Reg.GLB_STAGE (w32 (code + unit.toNat * 256 + reason * 2 ^ 24))
  let s := s.setReg Reg.GLB_STAGETIME us
  s.post (0x0700 + code) srcModule [(0, code), (2, unit.toNat), (4, us.toNat)]

/-- The stages that follow the one reported. -/
def State.goStage (s : State) (n : Option StageNo) : State := { s with dev := { s.dev with next := n } }

/-- A stage after FW_VERIFIED fails: the rails fall, and AUTORETRY retries once. -/
def State.stageFail (s : State) (code : Nat) (us : Word) (unit : BitVec 16) (reason : Nat) : State :=
  let s := ((s.stageReport (code + 128) us unit reason).alert alStage).dropRails
  if s.dev.base = .off then s
  else
    let again := tst s.attic.bootcfg 2 && !s.dev.retried
    { s with dev := { s.dev with next := none, retryDue := again } }

/-- Add the duration of a stage to the time since RAILS_UP began, report it, and go on. -/
def State.stageDone (s : State) (code : Nat) (us : Word) (unit : BitVec 16) (next : StageNo) : State :=
  ({ s with dev := { s.dev with railsUs := s.dev.railsUs + us.toNat } }.stageReport code us unit 0).goStage (some next)

/-- A stage may report: it is the next one and the device is in AON. -/
def State.atStage (s : State) (n : StageNo) : Bool := s.dev.base == .aon && s.dev.next == some n

/-- A stage from CLOCKS_LOCKED onward may report only with REFCLK valid (R448). -/
def State.atClocked (s : State) (n : StageNo) : Bool := s.atStage n && s.dev.refOk

-- Training (R345, R449, R450)

/-- Every unit trains fully: FULLTRAIN, or a retry (R446, R449). -/
def State.fullTrain (s : State) : Bool := tst s.attic.bootcfg 0 || s.dev.retried

/-- Train one link in a stage: the peer check of R346 and the outcome. -/
def State.bringLink (s : State) (t : Trained) : State :=
  let l := t.link.val
  if !s.mayTrain l || s.linkState l == lsPeerFail || s.linkUp l then s
  else
    let s := s.startTraining l
    if !t.ok then s.trainFail l
    else
      let s := (s.sendPeer l).setPeer l (peerType l) t.depot.toNat t.peerid
      if l < 48 ∧ t.depot = 0 then s.peerFail l (peerType l) 0 t.peerid
      else if s.depotClash l t.depot.toNat t.peerid then s.peerFail l (peerType l) 1 t.peerid
      else s.trained l (t.full || s.fullTrain) t.rtt t.lanes

/-- Train a stage's links in order. -/
def State.bringLinks (s : State) (ts : List Trained) : State := ts.foldl State.bringLink s

/-- The last link of a stage that stays down, by its training, its lanes or its peer (R446, R461). -/
def State.linkFailing (s : State) (ts : List Trained) : BitVec 16 :=
  ((ts.filter fun t => s.mayTrain t.link && !(s.bringLinks ts).linkUp t.link).getLast?).elim srcModule fun t => srcLink t.link

/-- MGT_ATTIC.SETCOPY: the copy of the settings that this bring-up reads. -/
def State.readSettings (s : State) : State := s.setRegF Reg.MGT_ATTIC 1 1 s.attic.newer

-- The always-on domain (R444, R459, R460)

/-- AON_UP: self-test, the Sarros ports in order, SMBus with its straps, and the test access port; UNIT names a port that did
not train. A failure leaves the device in reset with nALERT asserted and nothing but the SMBus STAGE command, at the straps
sampled. -/
def execAonUp (us : Word) (ok : Bool) (ports : List Trained) (s : State) : Res :=
  if !s.atStage .aonUp then .next s
  else
    let s := { s.useFree with dev := { s.dev with smbStraps := Config.smbStraps s.freeCtr } }
    if !ok then .next (((s.stageReport 0x90 us srcModule 0).alert alStage).goStage none)
    else
      let s : State := { s with
        dev := { s.dev with
          tap := .idcode, debug := false, challenge := Config.challenge s.freeCtr, next := some .fwVerified, v12 := true, energy := [] }
        clk := { s.clk with onHold := !s.dev.refOk, drift := !s.dev.refOk } }
      let port (p : Nat) : List Trained := (ports.filter fun t => t.link.val == p).take 1
      let both := port 48 ++ port 49
      let s := s.useFree.readSettings
      .next ((s.bringLinks both).stageReport 0x10 us (s.linkFailing both) 0)

-- Firmware (R452, R453)

/-- The little-endian field of a table of bytes. -/
def tabLe (t : Tab Byte) (o n : Nat) : Nat := ofLe (Tab.getList 0 t o n)

/-- The first check of R452 that an image fails, against the key hash, a number with the most significant byte first, and K of
the fuses. -/
def FwImage.reject (x : FwImage) (keyHash : BitVec 384) (k : Nat) : Option Nat :=
  let t := x.bytes
  let len := tabLe t 12 4
  if tabLe t 0 4 ≠ 0x4E4C4657 ∨ tabLe t 4 2 ≠ 1 then some 1
  else if len < 1 ∨ 16776192 < len ∨ sha384 (Tab.getList 0 t 1024 len) ≠ Tab.getList 0 t 16 48 then some 2
  else if ofBe (sha384 (Tab.getList 0 t 64 97)) ≠ keyHash.toNat then some 3
  else if !ecdsaOk (Tab.getList 0 t 64 97) (Tab.getList 0 t 0 256) (Tab.getList 0 t 256 96) then some 4
  else if tabLe t 6 1 < k then some 5
  else none

/-- FW_VERIFIED: the attic's image runs, or the device enters recovery mode. -/
def execFwVerified (us : Word) (s : State) : Res :=
  if !s.atStage .fwVerified then .next s
  else
    let x := s.attic.image
    match x.reject s.fuses.keyHash s.fuses.k with
    | some why =>
      let s := ((s.stageReport 0x98 us srcModule why).alert alStage).goStage none
      .next { s with dev := { s.dev with fwOk := false }, mgmt := { s.mgmt with recovery := true, version := 0, svn := 0 } }
    | none =>
      let s := s.stageReport 0x18 us srcModule 0
      let hold := tst s.attic.bootcfg 1
      .next { s with
        dev := { s.dev with fwOk := true, next := if hold then none else some .railsUp }
        mgmt := { s.mgmt with
          recovery := false, version := BitVec.ofNat 32 (tabLe x.bytes 8 4), svn := tabLe x.bytes 6 1, running := x
          commitFlag := decide (tabLe x.bytes 7 1 % 2 = 1) } }

-- The rails and the clocks (R415, R427, R440, R444, R487)

/-- The converter of a slab starts: its regulators, its routers and its pool. -/
def State.slabStart (s : State) (sl : Nat) : State :=
  let ph := 255 - Tab.get 0 s.attic.convPhases sl % 256
  let s := (s.setRegF (Reg.SLB_CONV sl) 0 8 ph).setRegF (Reg.SLB_CONV sl) 8 1 1
  let s := s.updSlab sl fun x => { x with dark := false }
  (slabRegions sl).foldl
    (fun s r =>
      let m := s.goodPhases r
      (s.setPhases r m).updRg r fun g => { g with bulkUp := m != 0, ctlUp := m != 0, heldBulk := false, heldCtl := false })
    s

/-- Apply what a stage found in a unit; what cannot be spared retires its region. -/
def State.applyFound (s : State) (k : ReportKind) : State :=
  let a := applyRepair (s, []) k
  a.2.foldl (fun s t => s.retireFound t.1 t.2.1 1) a.1

/-- The regulator of a region does not come up: the region is bad, and neither router domain has power (R446). -/
def State.regulatorFails (s : State) (r : Nat) : State :=
  ((s.retireFound r 2 1).setPhases r 0).updRg r fun g => { g with bulkUp := false, ctlUp := false }

/-- The PLL of a region does not lock: the region is bad, and its bulk routers, which that PLL clocks, are off (R171, R446; that they
are switched off is a DESIGN CHOICE, see the assumption log). -/
def State.pllFails (s : State) (r : Nat) : State := (s.retireFound r 2 1).updRg r fun g => { g with bulkUp := false }

/-- A converter that does not start is lost for good. -/
def State.slabMissing (s : State) (sl : Nat) : State :=
  let s : State := { s with
    attic := { s.attic with deadConvs := if s.attic.deadConvs.contains sl then s.attic.deadConvs else s.attic.deadConvs ++ [sl] }
    dev := { s.dev with degraded := true } }
  let s := s.updSlab sl fun x => { x with dark := true }
  (List.range 4).foldl (fun s f => s.setLinkState (sl * 4 + f) lsDown) s

/-- RAILS_UP: not before the 48 V input has been in range for 100 ms, and after a reset not before every sensor reads below
85 °C (R487). A converter that does not start and a region whose regulator does not come up are marked, and UNIT names the last. -/
def execRailsUp (us : Word) (found : RailsFound) (maxTemp : BitVec 8) (s : State) : Res :=
  if !s.atStage .railsUp || !s.dev.v48Held || (s.dev.afterReset && decide (85 ≤ maxTemp.toNat)) then .next s
  else
    let starts (sl : Nat) : Bool := found.convs.getLsbD sl && !s.attic.deadConvs.contains sl
    let s : State := { s with dev := { s.dev with railsUs := 0, afterReset := false } }
    let s := s.readSettings
    match (List.range 12).filter starts with
    | [] => .next (s.stageFail 0x20 us srcModule 0x16)
    | up =>
      let missing := (List.range 12).filter fun sl => !starts sl
      let s := missing.foldl State.slabMissing (up.foldl State.slabStart s)
      let bad := found.bad.filter fun r => starts (slabOf r)
      let s := bad.foldl (fun s r => s.regulatorFails r) s
      let s : State := { s with dev := { s.dev with pGood := true } }
      let unit := (bad.getLast?).elim ((missing.getLast?).elim srcModule srcSlab) fun r => srcRegion r
      .next ((s.slabPools true).stageDone 0x20 us unit .fusesRead)

def execFusesRead (us : Word) (ok : Bool) (s : State) : Res :=
  if !s.atStage .fusesRead then .next s
  else if !ok then .next (s.stageFail 0x28 us srcModule 0x14)
  else .next ({ s with dev := { s.dev with fuses := true } }.stageDone 0x28 us srcModule .clocksLocked)

/-- CLOCKS_LOCKED fails where REFCLK is not valid within 2 s, or the control clock does not lock. The reference loop of
every region with a router domain on runs from here (R421), but that of a region whose PLL does not lock, and every crossing is
aligned (R427). -/
def execClocksLocked (us : Word) (found : ClocksFound) (s : State) : Res :=
  if !s.atStage .clocksLocked then .next s
  else if !found.ok then .next (s.stageFail 0x30 us srcModule 0x15)
  else if !s.dev.refOk then .next s
  else
    let s := (List.range 192).foldl
      (fun s r =>
        let s := if (s.rg r).owed = 0 then s else s.updRg r fun g => { g with owed := 0 }
        if ((s.rg r).bulkUp || (s.rg r).ctlUp) && !(found.bad.any fun q => q.val == r) then s.setRegF (Reg.RGN_PSTATE r) 3 1 1 else s) s
    let s := found.bad.foldl (fun s r => s.pllFails r) s
    let s := { s with clk := { s.clk with walkBase := [] } }
    .next (s.stageDone 0x30 us ((found.bad.getLast?).elim srcModule fun r => srcRegion r) .seamsTrained)

-- The networks, the cellar and the larders (R142, R160, R175)

/-- SEAMS_TRAINED: each hard wire takes its spare; the assignments of the attic stand. The groups without saved settings for this
module, those whose record fails its CRC, and those that fail their fast check, train fully and are saved. -/
def execSeamsTrained (us : Word) (found : SeamsFound) (s : State) : Res :=
  if !s.atClocked .seamsTrained then .next s
  else
    let y := s.settings
    let full := s.fullTrain || (y.seams.map (·.1)) != some s.fuses.serial
    let s := found.hard.foldl (fun s w => s.applyFound (.hardWire w.1 w.2.1 w.2.2.1 w.2.2.2 true)) s
    let s := (List.range 192).foldl (fun s r => if (s.rg r).bulkUp then s.setRegF (Reg.RGN_NETSTATE r) 2 1 1 else s) s
    let key (g : SiteNo × BitVec 2 × BitVec 2) : Nat := g.1.val * 16 + g.2.1.toNat * 4 + g.2.2.toNat
    let slow := found.slow.map key ++ y.bad.filterMap fun k => if k % 3 = 1 then some (k / 3) else none
    let bad := y.bad.filter fun k => k % 3 != 1
    let n := s.freeCtr
    let s :=
      if full then s.useFree.saveSettings { y with seams := some (s.fuses.serial, n), groups := [], bad := bad }
      else if slow.isEmpty then s
      else s.useFree.saveSettings { y with groups := slow.foldl (fun t g => Tab.set 0 t g (n + 1)) y.groups, bad := bad }
    let unit := (found.hard.getLast?).elim srcModule fun w => srcRegion (siteRegion w.1)
    .next (s.stageDone 0x38 us unit .cellarTrained)

/-- Whether the saved settings of a cellar channel serve: valid, for this module, and within 20 °C of the stack's temperature. -/
def State.cellarServes (s : State) (k : Nat) : Bool :=
  let r := k / 8
  let now := s.regF (Reg.SLB_STACKT (slabOf r)) (8 * fieldOf r) 8
  !s.badRecord (recCellar k) && (Tab.get none s.settings.cellar k).elim false fun e => e.1 == s.fuses.serial && decide (e.2.1 ≤ now + 20) && decide (now ≤ e.2.1 + 20)

/-- CELLAR_TRAINED: the slices are ready under the attic's remaps; a region whose slice does not train is bad. A channel whose
saved settings do not serve, or fail their fast check, trains fully and is saved. -/
def execCellarTrained (us : Word) (found : CellarFound) (s : State) : Res :=
  if !s.atClocked .cellarTrained then .next s
  else
    let ready (r : Nat) : Bool := (s.rg r).bulkUp && !found.failed.any fun q => q.val == r
    let full (k : Nat) : Bool :=
      ready (k / 8) && (s.fullTrain || !s.cellarServes k || found.slow.any fun c => c.1.val * 8 + c.2.toNat == k)
    let temp (r : Nat) : Nat := s.regF (Reg.SLB_STACKT (slabOf r)) (8 * fieldOf r) 8
    let record (k : Nat) : Option (DWord × Nat × Nat) :=
      if full k then some (s.fuses.serial, temp (k / 8), s.freeCtr) else Tab.get none s.settings.cellar k
    let t := found.failed.foldl (fun s r => s.retireFound r 7 1) s
    let t := ((List.range 192).filter ready).foldl
      (fun s r => ((s.setRegF (Reg.RGN_CELSTATE r) 0 2 1).setRegF (Reg.RGN_CELSTATE r) 2 1 1).updRg r fun g => { g with sliceAt := s.now }) t
    let t :=
      if (List.range 1536).any full then
        t.useFree.saveSettings { s.settings with
          cellar := (List.range 1536).filterMap fun k => (record k).map fun e => (k, some e)
          bad := s.settings.bad.filter fun k => !(k % 3 == 2 && full (k / 3)) }
      else t
    .next (t.stageDone 0x40 us ((found.failed.getLast?).elim srcModule fun r => srcRegion r) .larderChecked)

/-- A site that the test found bad while the fuses mark it good is posted once, at its first detection (R388). -/
def State.conflict (s : State) (site : Nat) : State :=
  if s.fuses.badSites.contains site || s.attic.conflicts.contains site then s
  else
    { s with attic := { s.attic with conflicts := s.attic.conflicts ++ [site] } }.post 0x0406 (srcRegion (siteRegion site)) [(0, site)]

/-- Conflicts of the sites marked since the marks `was`. -/
def State.postConflicts (s : State) (was : List Nat) : State :=
  (s.attic.badSites.filter fun i => !was.contains i).foldl State.conflict s

/-- LARDER_CHECKED: spare rows are mapped over the rows that fail the march test. -/
def execLarderChecked (us : Word) (badRows : List (SiteNo × BitVec 14)) (s : State) : Res :=
  if !s.atClocked .larderChecked then .next s
  else
    let was := s.attic.badSites
    let s := (badRows.foldl (fun s w => s.applyFound (.hardLarder w.1 w.2)) s).postConflicts was
    .next (s.stageDone 0x48 us ((badRows.getLast?).elim srcModule fun w => srcRegion (siteRegion w.1)) .gridBuilt)

-- The grid and the known-answer set (R25, R27, R48, R180, R388, R447)

/-- The region in which a repair marks a unit. -/
def repairRegion : ReportKind → Option Nat
  | .hardLarder site _ | .hardArray site _ _ | .badSite site | .hardWire site _ _ _ _ => some (siteRegion site)
  | .hardCellar r _ _ _ _ | .forced r _ => some r
  | _ => none

/-- GRID_BUILT: repairs recorded and not yet applied are applied with it. UNIT names the region of the last unit that it marks: the
last that the build retires, else that of the last repair. A
failure names the network as index 0 bulk, 1 control or 2 sync of SOURCE kind 0 (DESIGN CHOICE, see the assumption log). -/
def execGridBuilt (us : Word) (s : State) : Res :=
  if !s.atClocked .gridBuilt then .next s
  else
    let a := s.applyTodo
    let t := (a.2.foldl (fun s t => s.retireFound t.1 t.2.1 1) a.1).bringGrid
    let new := ((List.range 192).filter fun r => !s.isRetired r && t.isRetired r).getLast?
    let unit := (new.orElse fun _ => (s.attic.todo.filterMap repairRegion).getLast?).elim srcModule fun r => srcRegion r
    .next (match t.routeFault with
      | none => t.stageDone 0x50 us unit .knownAnswer
      | some net => t.stageFail 0x50 us (src 0 net) 0x11)

/-- Sites that a run of the known-answer set names, and what it finds in some regions. -/
def kaNamed (f : KaFound) : List Nat := f.sites.map (·.val) ++ f.rows.map (·.1.val) ++ f.larRows.map (·.1.val)
def kaWithin (f : KaFound) (rs : List Nat) : KaFound :=
  let here (i : SiteNo) : Bool := rs.contains (siteRegion i)
  { sites := f.sites.filter here, rows := f.rows.filter fun w => here w.1, larRows := f.larRows.filter fun w => here w.1 }

/-- The set runs on some regions: their counts, and the marks of what fails. A copy or fetch-ahead engine and a tree hub that
fails its kernel is found as the site it stands in (DEDUCED, see the assumption log). -/
def State.kaRun (s : State) (f : KaFound) (rs : List Nat) : State :=
  let bad := (kaNamed f).map siteRegion
  let t := rs.foldl
    (fun s r =>
      let s := s.count (Reg.RGN_KA r) 0 16 1
      if bad.contains r then s.count (Reg.RGN_KA r) 16 16 1 else s) s
  let t := f.sites.foldl (fun t i => t.markBad i.val) t
  let t := f.rows.foldl (fun t w => t.applyFound (.hardArray w.1 w.2.1 w.2.2)) t
  (f.larRows.foldl (fun t w => t.applyFound (.hardLarder w.1 w.2)) t).postConflicts s.attic.badSites

/-- Rounds of the set: where a failure changes the grid it is built again, and the regions that moved run the set again. The answer
says whether the rounds sufficed, and the last unit marked. -/
def State.kaRounds : Nat → List KaFound → State → List Nat → BitVec 16 → State × Bool × BitVec 16
  | 0, _, s, _, unit => (s, false, unit)
  | n + 1, fs, s, rs, unit =>
    let f := kaWithin (fs.headD {}) rs
    let t := s.kaRun f rs
    let unit := ((kaNamed f).getLast?).elim unit fun i => srcRegion (siteRegion i)
    let t := if t.attic.badSites = s.attic.badSites ∧ t.attic.retired = s.attic.retired then t else t.bringGrid
    let moved := (s.logRegions.filter fun l => s.physRegion l != t.physRegion l).filterMap t.physRegion
    if moved.isEmpty then (t, true, unit) else State.kaRounds n fs.tail t moved unit

/-- KNOWN_ANSWER: every region that is not RETIRED runs the set, in at most four rounds. A depot-link engine and the stream unit's
conversion path that fail are marked, and the crypto engine fails the stage. -/
def execKnownAnswer (us : Word) (first : KaFound) (later : List KaFound) (links : List LinkNo) (streamOk cryptoOk : Bool) (s : State) :
    Res :=
  if !s.atClocked .knownAnswer then .next s
  else
    match State.kaRounds 4 (first :: later) s ((List.range 192).filter fun r => !s.isRetired r) srcModule with
    | (t, enough, unit) =>
      let engines : List Nat := (links.map fun l => l.val).filter fun l => decide (l < 48) && (t.attic.badLinks.all fun m => m != l)
      let unit := (engines.getLast?).elim unit srcLink
      let t : State := { t with
        attic := { t.attic with badLinks := t.attic.badLinks ++ engines, badStream := t.attic.badStream || !streamOk }
        dev := { t.dev with crypto := cryptoOk } }
      if !cryptoOk then .next (t.stageFail 0x58 us unit 0x13)
      else if !enough then .next (t.stageFail 0x58 us unit 0x12)
      else .next (t.stageDone 0x58 us unit .linksTrained)

/-- LINKS_TRAINED: the depot links train in their order; one whose engine is marked bad stays DOWN. -/
def execLinksTrained (us : Word) (outcomes : List Trained) (s : State) : Res :=
  if !s.atClocked .linksTrained then .next s
  else
    let ts := outcomes.filter fun t => decide (t.link.val < 48)
    let s := (s.attic.badLinks.filter s.lanesPowered).foldl (fun s l => s.setLinkState l lsDown) s
    .next ((s.bringLinks ts).stageDone 0x60 us (s.linkFailing ts) .ready)

-- The end of bring-up (R413, R440, R446, R449, R452)

/-- READY, or DEGRADED where a column or a slab is lost; a restart that a supply loss left pending goes on. -/
def execReady (us : Word) (s : State) : Res :=
  if !s.atClocked .ready then .next s
  else
    let total := s.dev.railsUs + us.toNat
    let s := s.stageReport 0x70 us srcModule 0
    let s := s.setReg Reg.GLB_BOOTTIME (w32 (min (2 ^ 32 - 1) (total / 1000)))
    let lost := s.dev.degraded || s.lostCols != 0
    let pending := s.resil.restart.isSome
    let s : State := { s with
      attic := { s.attic with bootcfg := setFld s.attic.bootcfg 0 1 0 }
      fuses := { s.fuses with k := if s.mgmt.commitFlag then max s.fuses.k s.mgmt.svn else s.fuses.k }
      dev := { s.dev with
        next := none, retried := false, retryDue := false, degraded := lost
        base := if pending then .restart else if lost then .degraded else .ready } }
    let s := if lost then s.alert alDegraded else s
    .next (if pending then s.restartGo else s.slabPools false)

/-- Ten seconds after a stage failure bring-up retries once, with full training. -/
def execAutoretry (s : State) : Res :=
  if s.dev.base = .aon ∧ s.dev.retryDue ∧ s.dev.next.isNone then
    .next { s with dev := { s.dev with next := some .railsUp, retried := true, retryDue := false } }
  else .next s

end Sys2Proof.Machine
end

