-- ==== Sys2Proof/Machine/Mailbox.lean ====
section
/-! DEFINITION. The management mailbox: identity, attestation, firmware images, and reads of the attic's log and record
(R451 to R455). -/

namespace Sys2Proof.Machine

-- Requests and responses (R454)

/-- Size of the staging buffer, of the log and of the record. -/
abbrev stagingSize : Nat := 2 ^ 24
abbrev logSize : Nat := 2 ^ 23

/-- An image transfer of the other port, or the attic write of an image, is under way. -/
def State.mbBusy (s : State) (p : Nat) : Bool := s.dev.flashing.isSome || s.mgmt.busy.elim false fun b => b.1 != p

/-- An image transfer begins or goes on: BUSY. -/
def State.mbHold (s : State) (p tid : Nat) : State :=
  let s := s.setRegF Reg.MGT_MBSTAT 0 1 1
  { s with mgmt := { s.mgmt with busy := some (p, tid) } }

/-- Serve an operation of a port: before AON_UP, and from a port that is down, there is none; an image transfer of the other
port, and the attic write of an image, leave the mailbox busy (DESIGN CHOICE, see the assumption log). -/
def State.mailbox (s : State) (p : PortNo) (tid : Word) (op bytes : Nat) (f : State → State) : Res :=
  if !s.aonLive || !s.linkIn (portLink p) then .next s
  else
    let s := s.received (portLink p) 1 bytes
    if s.mbBusy p then .next (s.send (portLink p) 1 0 (.mgt p tid.toNat op 1 []))
    else .next (f (s.setRegF Reg.MGT_MBSTAT 1 1 p.val))

-- Identity and attestation (R454, R455)

/-- Serial, grade, revision, VERSION, SVN and K. -/
def State.identity (s : State) : List Byte :=
  toLe 8 s.fuses.serial.toNat ++ [s.fuses.grade, s.fuses.revision] ++ toLe 4 s.mgmt.version.toNat
    ++ [BitVec.ofNat 8 s.mgmt.svn, BitVec.ofNat 8 s.fuses.k]

def execGetIdentity (p : PortNo) (tid : Word) (s : State) : Res :=
  s.mailbox p tid opIdentity 0 fun s => s.mgtReply p tid.toNat opIdentity 0 (s.identity ++ Config.certificate s.fuses.serial)

/-- Contents of the configuration record: POLICY in force with each plan's alternate set and report-only mark (R470), the cairn
configuration, the cadence, stream bindings, RNG_CTL of every ring, and the plan directory. -/
def State.configParts (s : State) : List (List Nat) :=
  let regs (l : List Nat) : List Nat := l.map fun a => (s.reg a).toNat
  [regs [Reg.GLB_POLICY, Reg.GLB_POLCAIRN, Reg.GLB_POLSWEEP, Reg.GLB_PWRCAP] ++ s.jobs.altSet.flatMap (fun e => [e.1, e.2]) ++ s.jobs.reportOnly,
   regs [Reg.GLB_CAIRNCFG, Reg.GLB_CAIRNBASELO, Reg.GLB_CAIRNBASEHI, Reg.GLB_CAIRNSLOT],
   s.cadence.elim [] fun c => [b2n c.pin, c.period, c.phase.toNat],
   (List.range 64).flatMap fun n => [(s.ring n).ingest.toNat, (s.ring n).actuate.toNat],
   regs ((List.range 129).map Reg.RNG_CTL),
   regs ((List.range 1024).flatMap fun n => [Reg.GLB_PLANDIR_CTL n, Reg.GLB_PLANDIR_OFFLO n, Reg.GLB_PLANDIR_OFFHI n])]

/-- Contents of the defect map. -/
def State.defectParts (s : State) : List (List Nat) :=
  let all (p : Nat → Bool) (n : Nat) : List Nat := (List.range n).filter p
  [all (fun i => s.fuses.badSites.contains i || s.attic.badSites.contains i) 13824, all s.isRetired 192, all s.isReserve 192,
   pairNats s.fuses.skip ++ pairNats s.attic.skip, pairNats s.fuses.larMap ++ pairNats s.attic.larMap, pairNats s.attic.celMap,
   all s.bypassList.contains 13824, pairNats s.attic.wires, s.attic.phases.flatMap fun e => [e.1, e.2],
   s.attic.convPhases.flatMap fun e => [e.1, e.2]]

/-- The bytes of an image, header and body. -/
def FwImage.all (x : FwImage) : List Byte := Tab.getList 0 x.bytes 0 (1024 + tabLe x.bytes 12 4)

/-- Bytes 0 to 255 of an attestation report. -/
def State.attestBody (s : State) (nonce : BitVec 256) : List Byte :=
  toLe 4 0x4E4C4152 ++ toLe 2 1 ++ [s.fuses.grade, s.fuses.revision] ++ toLe 8 s.fuses.serial.toNat ++ toLe 32 nonce.toNat
    ++ toLe 8 s.now.toNat ++ sha384 s.mgmt.running.all
    ++ [BitVec.ofNat 8 s.mgmt.svn, BitVec.ofNat 8 s.fuses.k, BitVec.ofNat 8 s.devState,
        BitVec.ofNat 8 (b2n s.dev.debug + 2 * b2n s.clk.drift), BitVec.ofNat 8 (s.regF Reg.GLB_STAGE 0 8),
        BitVec.ofNat 8 ((List.range 192).countP s.isRetired), 0, 0]
    ++ sha384 (Config.configRecord s.configParts) ++ sha384 (Config.defectMap s.defectParts) ++ List.replicate 48 0

/-- From FW_VERIFIED: the report of R455, signed with the identity key. -/
def execAttest (p : PortNo) (tid : Word) (nonce : BitVec 256) (s : State) : Res :=
  s.mailbox p tid opAttest 32 fun s =>
    if !s.dev.fwOk then s.mgtReply p tid.toNat opAttest 3 []
    else
      let d := s.attestBody nonce
      s.mgtReply p tid.toNat opAttest 0 (d ++ toBe 96 (Config.ecdsaSign s.fuses.serial d).toNat)

-- Firmware images (R452 to R454)

/-- Up to 4,096 bytes at an offset of the staging buffer. -/
def execFwWrite (p : PortNo) (tid : Word) (addr : DWord) (data : List Byte) (s : State) : Res :=
  s.mailbox p tid opFwWrite data.length fun s =>
    let e := addr.toNat + data.length
    if stagingSize < e then s.mgtReply p tid.toNat opFwWrite 2 []
    else
      let s := s.mbHold p tid.toNat
      { s with mgmt := { s.mgmt with
        staging := Tab.setList 0 s.mgmt.staging addr.toNat data, fill := max s.mgmt.fill e } }.mgtReply p tid.toNat opFwWrite 0 []

/-- The check of R452, whose refusal is the answer, and the attic write, which takes about 40 s (DESIGN CHOICE, see the assumption
log). The answer to an image that passes comes at its end; in recovery mode the image then runs, and FW_VERIFIED reports. -/
def execFwCommit (p : PortNo) (tid : Word) (s : State) : Res :=
  s.mailbox p tid opFwCommit 0 fun s =>
    let x : FwImage := { bytes := s.mgmt.staging, len := s.mgmt.fill }
    let s : State := { s with mgmt := { s.mgmt with fill := 0 } }
    match x.reject s.fuses.keyHash s.fuses.k with
    | some why => s.mbFree.mgtReply p tid.toNat opFwCommit why []
    | none =>
      let s := s.mbHold p tid.toNat
      let t := s.clk.raw.toNat + 36 * second + Config.measure s.freeCtr % (8 * second + 1)
      { s.useFree with dev := { s.dev with flashing := some ⟨x, p.val, tid.toNat, BitVec.ofNat 64 t, s.mgmt.recovery⟩ } }

/-- In AON and in recovery mode: the controller restarts from FW_VERIFIED. The stream, the counter, the point table, the plan
directory and the ring setup are kept. -/
def execFwActivate (p : PortNo) (tid : Word) (s : State) : Res :=
  s.mailbox p tid opFwActivate 0 fun s =>
    if s.dev.base ≠ .aon then s.mgtReply p tid.toNat opFwActivate 3 []
    else
      let s := s.mgtReply p tid.toNat opFwActivate 0 []
      let s := if s.railsUp then s.dropRails else s
      if s.dev.base = .off then s
      else { s.newBringup with dev := { s.dev with fwOk := false, next := some .fwVerified } }

-- The attic (R451, R454)

/-- A byte of the circular log: the newest one written at an offset, or a blank byte of the flash. -/
def State.logByte (s : State) (o : Nat) : Byte :=
  let n := s.attic.log.length
  if o < n then (s.attic.log[o + logSize * ((n - 1 - o) / logSize)]?).getD 0 else Config.blankByte s.freeCtr o

/-- A byte of the defect and fault record. -/
def State.recordByte (s : State) (o : Nat) : Byte := (s.recordBytes[o]?).getD (Config.blankByte s.freeCtr o)

/-- Read bytes of an area of the attic, from FW_VERIFIED; a range outside the area is a bad operation (DESIGN CHOICE). -/
def State.atticRead (s : State) (p tid op : Nat) (addr n : Nat) (byte : Nat → Byte) : State :=
  if !s.dev.fwOk then s.mgtReply p tid op 3 []
  else if logSize < addr + n then s.mgtReply p tid op 2 []
  else s.useFree.mgtReply p tid op 0 ((List.range n).map fun i => byte (addr + i))

def execLogRead (p : PortNo) (tid : Word) (addr : DWord) (bytes : BitVec 13) (s : State) : Res :=
  s.mailbox p tid opLogRead 0 fun s => s.atticRead p tid.toNat opLogRead addr.toNat bytes.toNat s.logByte

def execRecordRead (p : PortNo) (tid : Word) (addr : DWord) (bytes : BitVec 13) (s : State) : Res :=
  s.mailbox p tid opRecordRead 0 fun s => s.atticRead p tid.toNat opRecordRead addr.toNat bytes.toNat s.recordByte

/-- An image transfer that receives no packet for 10 s is abandoned; the staging buffer stays. The attic write of an image is
none. -/
def execMailboxTimeout (s : State) : Res :=
  .next (if s.mgmt.busy.isSome && s.dev.flashing.isNone then s.mbFree else s)

end Sys2Proof.Machine
end

