-- ==== Sys2Proof/Machine/Scalar.lean ====
section
/-! DEFINITION. The scalar instructions of the Klonal core: classes 0x0 to 0x5 (R111 to R113). -/

namespace Sys2Proof.Machine

-- Classes 0x0 and 0x1 (R112)

/-- A scalar ALU operation of a site's core: rd = f a b; an op code that class 0x1 does not have is a program fault. -/
def alu (site : SiteNo) (rd ra : BitVec 4) (b : AluB) (immOk zext : Bool) (f : Word → Word → Word) (s : State) : Res :=
  s.core site fun c =>
    if isImmB b && !immOk then s.stop site
    else s.fin site (c.setS rd (f (c.s ra) (c.aluB zext b)))

def clz32 (a : Word) : Word := BitVec.ofNat 32 (((List.range 32).find? fun i => a.getLsbD (31 - i)).getD 32)

def execAdd (c : SiteNo) (rd ra : BitVec 4) (b : AluB) (s : State) : Res := alu c rd ra b true false (fun a b => a + b) s
def execSub (c : SiteNo) (rd ra : BitVec 4) (b : AluB) (s : State) : Res := alu c rd ra b false false (fun a b => a - b) s
def execAnd (c : SiteNo) (rd ra : BitVec 4) (b : AluB) (s : State) : Res := alu c rd ra b true true (fun a b => a &&& b) s
def execOr (c : SiteNo) (rd ra : BitVec 4) (b : AluB) (s : State) : Res := alu c rd ra b true true (fun a b => a ||| b) s
def execXor (c : SiteNo) (rd ra : BitVec 4) (b : AluB) (s : State) : Res := alu c rd ra b true true (fun a b => a ^^^ b) s
/-- Shifts use operand bits [4:0]. -/
def execSll (c : SiteNo) (rd ra : BitVec 4) (b : AluB) (s : State) : Res :=
  alu c rd ra b true false (fun a b => a <<< (b.toNat % 32)) s
def execSrl (c : SiteNo) (rd ra : BitVec 4) (b : AluB) (s : State) : Res :=
  alu c rd ra b true false (fun a b => a >>> (b.toNat % 32)) s
def execSra (c : SiteNo) (rd ra : BitVec 4) (b : AluB) (s : State) : Res :=
  alu c rd ra b true false (fun a b => a.sshiftRight (b.toNat % 32)) s
def execSlt (c : SiteNo) (rd ra : BitVec 4) (b : AluB) (s : State) : Res :=
  alu c rd ra b true false (fun a b => if a.slt b then 1 else 0) s
def execSltu (c : SiteNo) (rd ra : BitVec 4) (b : AluB) (s : State) : Res :=
  alu c rd ra b true false (fun a b => if a.ult b then 1 else 0) s
def execMul (c : SiteNo) (rd ra : BitVec 4) (b : AluB) (s : State) : Res := alu c rd ra b false false (fun a b => a * b) s
def execMulh (c : SiteNo) (rd ra : BitVec 4) (b : AluB) (s : State) : Res :=
  alu c rd ra b false false (fun a b => BitVec.ofInt 32 (a.toInt * b.toInt / 2 ^ 32)) s
def execMin (c : SiteNo) (rd ra : BitVec 4) (b : AluB) (s : State) : Res :=
  alu c rd ra b true false (fun a b => if a.slt b then a else b) s
def execMax (c : SiteNo) (rd ra : BitVec 4) (b : AluB) (s : State) : Res :=
  alu c rd ra b true false (fun a b => if a.slt b then b else a) s
def execClz (c : SiteNo) (rd ra : BitVec 4) (b : AluB) (s : State) : Res := alu c rd ra b false false (fun a _ => clz32 a) s
def execPopc (c : SiteNo) (rd ra : BitVec 4) (b : AluB) (s : State) : Res :=
  alu c rd ra b false false (fun a _ => BitVec.ofNat 32 (ones 32 a)) s

/-- rd = imm[19:0] << 12 (R111). -/
def execLui (c : SiteNo) (rd : BitVec 4) (imm : BitVec 20) (s : State) : Res :=
  s.core c fun k => s.fin c (k.setS rd (imm.setWidth 32 <<< 12))

-- Class 0x3 (R113): the data store ignores address bits [1:0] for LW and SW

def execLw (c : SiteNo) (rd ra : BitVec 4) (imm : BitVec 16) (s : State) : Res :=
  s.core c fun k =>
    s.fin c (k.setS rd (BitVec.ofNat 32 (ofLe (Tab.getList 0 k.data (k.dataAddr ra imm / 4 * 4) 4))))

def execSw (c : SiteNo) (rd ra : BitVec 4) (imm : BitVec 16) (s : State) : Res :=
  s.core c fun k =>
    s.fin c { k with data := Tab.setList 0 k.data (k.dataAddr ra imm / 4 * 4) (toLe 4 (k.s rd).toNat) }

def execLbu (c : SiteNo) (rd ra : BitVec 4) (imm : BitVec 16) (s : State) : Res :=
  s.core c fun k => s.fin c (k.setS rd ((Tab.get (0 : Byte) k.data (k.dataAddr ra imm)).setWidth 32))

def execSb (c : SiteNo) (rd ra : BitVec 4) (imm : BitVec 16) (s : State) : Res :=
  s.core c fun k => s.fin c { k with data := Tab.set 0 k.data (k.dataAddr ra imm) ((k.s rd).setWidth 8) }

/-- LDL loads the register in the sb field from handle h at byte offset sa. -/
def execLdl (c : SiteNo) (h : BitVec 6) (sa sb : BitVec 4) (s : State) : Res :=
  s.core c fun k =>
    s.handleRead c h (k.s sa).toNat 4 fun s' d => s'.fin c ((s'.cl c).setS sb (BitVec.ofNat 32 (ofLe d)))

def execStl (c : SiteNo) (h : BitVec 6) (sa sb : BitVec 4) (s : State) : Res :=
  s.core c fun k => s.handleWrite c h (k.s sa).toNat (toLe 4 (k.s sb).toNat) fun s' => s'.fin c (s'.cl c)

-- Classes 0x4 and 0x5

/-- Take a branch or jump: 2 cycles; out of an active body it is a program fault (R107, R109). -/
def State.taken (s : State) (site : Nat) (c : Cluster) (target : Word) : Res :=
  if c.leavesBody target then s.stop site
  else .next (s.setCl site { c with pc := target, cyc := c.cyc + 2 })

/-- A conditional branch; offsets count instructions from the branch (R110). -/
def branch (site : SiteNo) (ra rb : BitVec 4) (off : BitVec 16) (cond : Word → Word → Bool) (s : State) : Res :=
  s.core site fun c =>
    if cond (c.s ra) (c.s rb) then s.taken site c (c.pc + off.signExtend 32 <<< 2) else s.fin site c

def execBranchEq (c : SiteNo) (ra rb : BitVec 4) (off : BitVec 16) (s : State) : Res := branch c ra rb off (fun a b => a == b) s
def execBranchNe (c : SiteNo) (ra rb : BitVec 4) (off : BitVec 16) (s : State) : Res := branch c ra rb off (fun a b => a != b) s
def execBranchLt (c : SiteNo) (ra rb : BitVec 4) (off : BitVec 16) (s : State) : Res := branch c ra rb off (fun a b => a.slt b) s
def execBranchGe (c : SiteNo) (ra rb : BitVec 4) (off : BitVec 16) (s : State) : Res := branch c ra rb off (fun a b => !a.slt b) s
def execBranchLtu (c : SiteNo) (ra rb : BitVec 4) (off : BitVec 16) (s : State) : Res := branch c ra rb off (fun a b => a.ult b) s
def execBranchGeu (c : SiteNo) (ra rb : BitVec 4) (off : BitVec 16) (s : State) : Res := branch c ra rb off (fun a b => !a.ult b) s

def execJal (c : SiteNo) (rd : BitVec 4) (off : BitVec 20) (s : State) : Res :=
  s.core c fun k => s.taken c (k.setS rd (k.pc + 4)) (k.pc + off.signExtend 32 <<< 2)

def execJalr (c : SiteNo) (rd ra : BitVec 4) (imm : BitVec 16) (s : State) : Res :=
  s.core c fun k => s.taken c (k.setS rd (k.pc + 4)) ((k.s ra + imm.signExtend 32) &&& ~~~3)

/-- LOOP n: the next len instructions run as often as ra says. An active loop number, a length of 0 and a body that
ends after the body around it are program faults (R109, R113). -/
def execLoop (c : SiteNo) (n : BitVec 2) (ra : BitVec 4) (len : BitVec 12) (s : State) : Res :=
  s.core c fun k =>
    let start := k.pc + 4
    let stop := start + len.setWidth 32 <<< 2
    let outside := match k.loops with
      | [] => false
      | l :: _ => decide ((l.stop - l.start).toNat < (stop - l.start).toNat)
    if decide (len = 0) || (k.loops.any fun l => l.num == n) || outside then s.stop c
    else if k.s ra = 0 then .next (s.setCl c (k.goto stop 1))
    else .next (s.setCl c { k with pc := start, cyc := k.cyc + 1, loops := ⟨n, start, stop, k.s ra⟩ :: k.loops })

/-- WAITC stalls for imm cycles; the cycle count passes them. -/
def execWaitc (c : SiteNo) (imm : BitVec 16) (s : State) : Res :=
  s.core c fun k => s.fin c { k with cyc := k.cyc + imm.setWidth 64 }

/-- HALT ends the core's work for the pitch (R108). -/
def execHalt (c : SiteNo) (s : State) : Res := s.core c fun k => .next (s.setCl c { k with run := .halted, cyc := k.cyc + 1 })

end Sys2Proof.Machine
end

