-- ==== Sys2Proof/Machine/Sideband.lean ====
section
/-! DEFINITION. The sideband: SMBus commands with their packet error code, alerts, the reset input, and the test access port
(R459, R460, R485 to R487). -/

namespace Sys2Proof.Machine

-- SMBus (R459)

/-- The packet error code of SMBus 3.1: CRC-8 with the polynomial x^8 + x^2 + x + 1. -/
def pecBit (c : Byte) : Byte := if c.getLsbD 7 then (c <<< 1) ^^^ 0x07 else c <<< 1

def pecByte (c b : Byte) : Byte :=
  let x := c ^^^ b
  pecBit (pecBit (pecBit (pecBit (pecBit (pecBit (pecBit (pecBit x)))))))

def pec (l : List Byte) : Byte := l.foldl pecByte 0

/-- The 7-bit address: 0x58 and the straps. -/
def State.smbAddr (s : State) : Nat := 0x58 + s.dev.smbStraps.toNat

/-- The reply to a read of a command, with its packet error code over both halves of the transfer. -/
def State.smbReply (s : State) (cmd : Nat) (d : List Byte) : State :=
  let head : List Byte := [BitVec.ofNat 8 (2 * s.smbAddr), BitVec.ofNat 8 cmd, BitVec.ofNat 8 (2 * s.smbAddr + 1)]
  s.emit (.smbus (d ++ [pec (head ++ d)]))

/-- The byte count in front of a block read. -/
def block (d : List Byte) : List Byte := BitVec.ofNat 8 d.length :: d

/-- A read command, answered once AON_UP has run. -/
def State.smbRead (s : State) (cmd : Nat) (d : List Byte) : Res := .next (if s.aonLive then s.smbReply cmd d else s)

/-- STAGE answers after a failed AON_UP as well. -/
def execStage (s : State) : Res :=
  .next (if s.dev.base == .off || s.dev.next == some .aonUp then s
    else s.smbReply 0x01 [BitVec.ofNat 8 (s.regF Reg.GLB_STAGE 0 8)])

def execState (s : State) : Res := s.smbRead 0x02 [BitVec.ofNat 8 s.devState]

/-- Hottest junction over the regions. -/
def State.hottestJunction (s : State) : Nat := (List.range 192).foldl (fun m r => max m (s.regF (Reg.RGN_TEMP r) 0 8)) 0

def execTemp (s : State) : Res := s.smbRead 0x03 [BitVec.ofNat 8 s.hottestJunction]

/-- Input power in units of 10 W; the rounding of a part of a unit is free (DESIGN CHOICE, see the assumption log). -/
def State.tensOfWatts (s : State) : Nat :=
  let w := s.regF Reg.GLB_PWRIN 0 16
  w / 10 + (if w % 10 = 0 then 0 else Config.measure s.freeCtr % 2)

def execPin (s : State) : Res := if s.aonLive then .next (s.useFree.smbReply 0x04 (toLe 2 s.tensOfWatts)) else .next s

def execVin (s : State) : Res := s.smbRead 0x05 (block (toLe 4 (s.reg Reg.GLB_VIN).toNat))

/-- Serial, grade byte, revision letter, SVN and K. -/
def State.smbIdent (s : State) : List Byte :=
  toLe 8 s.fuses.serial.toNat ++ [s.fuses.grade, s.fuses.revision, BitVec.ofNat 8 s.mgmt.svn, BitVec.ofNat 8 s.fuses.k]

def execIdent (s : State) : Res := s.smbRead 0x10 (block s.smbIdent)

/-- A read of ALERT_STATUS clears it and releases nALERT. -/
def execAlertStatus (s : State) : Res :=
  if !s.aonLive then .next s
  else
    let s' := s.smbReply 0x20 (toLe 2 s.dev.alerts.toNat)
    .next { s' with dev := { s'.dev with alerts := 0, nAlert := false } }

/-- ALERT_MASK, read or written. -/
def execAlertMask (w : Option (BitVec 16)) (s : State) : Res :=
  match w with
  | some m => if s.aonLive then .next { s with dev := { s.dev with alertMask := m &&& 0x7F } } else .next s
  | none => s.smbRead 0x21 (toLe 2 s.dev.alertMask.toNat)

/-- The Alert Response Address is answered with the device's address while nALERT is asserted. -/
def execAlertResponse (s : State) : Res :=
  let a : Byte := BitVec.ofNat 8 (2 * s.smbAddr)
  .next (if s.aonLive && s.dev.nAlert then s.emit (.smbus [a, pec [0x19, a]]) else s)

-- Reset (R459, R486, R487)

/-- 25 AONCLK periods low reset what OFF resets; the release starts AON_UP, while the standby input carries the
always-on domain. -/
def execNreset (lowPeriods : Nat) (s : State) : Res :=
  if lowPeriods < 25 ∨ s.dev.base = .off then .next s
  else
    let t := s.deviceOff
    let t := { t with dev := { t.dev with afterReset := true } }
    if s.dev.backup then .next t
    else .next { t with dev := { t.dev with base := .aon, next := some .aonUp } }

-- The test access port (R460, R485)

/-- Position of a revision letter in the order of R2, as IDCODE codes it. -/
def revisionCode (l : Byte) : Nat :=
  match ("ABCDEFGHJKLMNPQ".toList.map fun c => c.toNat).idxOf? l.toNat with
  | some i => i
  | none => 15

/-- The IDCODE register; bit 0 is 1 in IEEE 1149.1. -/
def State.idcode (s : State) : Word :=
  let part := if s.fuses.grade = 0x0A then 0x0C1A else 0x0C1B
  BitVec.ofNat 32 (revisionCode s.fuses.revision * 2 ^ 28 + part * 2 ^ 12 + Config.jep106.toNat * 2 + 1)

/-- A private load or EXTEST takes effect in AON with debug unlocked only. -/
def State.tapOpen (s : State) : Bool := s.dev.debug && s.dev.base == .aon

def State.setTap (s : State) (i : TapInstr) : State := { s with dev := { s.dev with tap := i } }

/-- What a scan of the register that an instruction selects brings out: the IDCODE, the 0 that BYPASS captures, or the boundary-scan
register, which captures the pins. The register of DEBUG_UNLOCK is not published. -/
def State.scanOut (s : State) (i : TapInstr) : State :=
  let s := s.setTap i
  match i with
  | .idcode => s.emit (.tdo (toLe 4 s.idcode.toNat))
  | .bypass => s.emit (.tdo [0])
  | .samplePreload | .extest =>
    let d := Config.scanPins s.freeCtr
    { s.useFree with dev := { s.dev with scan := d } }.emit (.tdo d)
  | .debugUnlock | .unpublished _ => s

/-- Load an instruction. EXTEST and unpublished instructions act as BYPASS unless the port is open; an unpublished one then
has no effect that the manual gives. DEBUG_UNLOCK loads in any state, since it carries the unlock. -/
def execTapInstructionLoad (i : TapInstr) (s : State) : Res :=
  if !s.aonLive then .next s
  else
    match i with
    | .unpublished _ => if s.tapOpen then .refused .privateTapInstruction else .next (s.scanOut .bypass)
    | .extest => .next (s.scanOut (if s.tapOpen then .extest else .bypass))
    | i => .next (s.scanOut i)

/-- A genuine signature of the challenge unlocks debug until the next AON_UP. -/
def execDebugUnlock (signature : BitVec 768) (s : State) : Res :=
  if !s.aonLive then .next s
  else
    let s := s.setTap .debugUnlock
    .next (if Config.debugSigOk s.dev.challenge signature then { s with dev := { s.dev with debug := true } } else s)

/-- nTRST puts the port back to IDCODE. -/
def execTestReset (s : State) : Res := .next (if s.dev.base = .off then s else s.setTap .idcode)

end Sys2Proof.Machine
end

