-- ==== Sys2Proof/Machine/Dispatch.lean ====
section
/-! DEFINITION. What each command does: one arm per constructor, each a direct call of its meaning. -/

namespace Sys2Proof.Machine

def exec (i : Instr) (s : State) : Host.Outcome State Fault Refusal :=
  match i with
  | .add c rd ra b => Sys2Proof.Machine.execAdd c rd ra b s
  | .sub c rd ra b => Sys2Proof.Machine.execSub c rd ra b s
  | .and c rd ra b => Sys2Proof.Machine.execAnd c rd ra b s
  | .or c rd ra b => Sys2Proof.Machine.execOr c rd ra b s
  | .xor c rd ra b => Sys2Proof.Machine.execXor c rd ra b s
  | .sll c rd ra b => Sys2Proof.Machine.execSll c rd ra b s
  | .srl c rd ra b => Sys2Proof.Machine.execSrl c rd ra b s
  | .sra c rd ra b => Sys2Proof.Machine.execSra c rd ra b s
  | .slt c rd ra b => Sys2Proof.Machine.execSlt c rd ra b s
  | .sltu c rd ra b => Sys2Proof.Machine.execSltu c rd ra b s
  | .mul c rd ra b => Sys2Proof.Machine.execMul c rd ra b s
  | .mulh c rd ra b => Sys2Proof.Machine.execMulh c rd ra b s
  | .min c rd ra b => Sys2Proof.Machine.execMin c rd ra b s
  | .max c rd ra b => Sys2Proof.Machine.execMax c rd ra b s
  | .clz c rd ra b => Sys2Proof.Machine.execClz c rd ra b s
  | .popc c rd ra b => Sys2Proof.Machine.execPopc c rd ra b s
  | .lui c rd imm => Sys2Proof.Machine.execLui c rd imm s
  | .lw c rd ra imm => Sys2Proof.Machine.execLw c rd ra imm s
  | .sw c rd ra imm => Sys2Proof.Machine.execSw c rd ra imm s
  | .lbu c rd ra imm => Sys2Proof.Machine.execLbu c rd ra imm s
  | .sb c rd ra imm => Sys2Proof.Machine.execSb c rd ra imm s
  | .ldl c h sa sb => Sys2Proof.Machine.execLdl c h sa sb s
  | .stl c h sa sb => Sys2Proof.Machine.execStl c h sa sb s
  | .branchEq c ra rb off => Sys2Proof.Machine.execBranchEq c ra rb off s
  | .branchNe c ra rb off => Sys2Proof.Machine.execBranchNe c ra rb off s
  | .branchLt c ra rb off => Sys2Proof.Machine.execBranchLt c ra rb off s
  | .branchGe c ra rb off => Sys2Proof.Machine.execBranchGe c ra rb off s
  | .branchLtu c ra rb off => Sys2Proof.Machine.execBranchLtu c ra rb off s
  | .branchGeu c ra rb off => Sys2Proof.Machine.execBranchGeu c ra rb off s
  | .jal c rd off => Sys2Proof.Machine.execJal c rd off s
  | .jalr c rd ra imm => Sys2Proof.Machine.execJalr c rd ra imm s
  | .loop c n ra len => Sys2Proof.Machine.execLoop c n ra len s
  | .waitc c imm => Sys2Proof.Machine.execWaitc c imm s
  | .halt c => Sys2Proof.Machine.execHalt c s
  | .wload c h sa wfmt => Sys2Proof.Machine.execWload c h sa wfmt s
  | .wrow c h sa sb wfmt => Sys2Proof.Machine.execWrow c h sa sb wfmt s
  | .wscale c h sa => Sys2Proof.Machine.execWscale c h sa s
  | .wswap c => Sys2Proof.Machine.execWswap c s
  | .pass c h sa aw e add => Sys2Proof.Machine.execPass c h sa aw e add s
  | .accrd c e g clr sig => Sys2Proof.Machine.execAccrd c e g clr sig s
  | .accst c h sa sb clr sig => Sys2Proof.Machine.execAccst c h sa sb clr sig s
  | .accld c h sa sb => Sys2Proof.Machine.execAccld c h sa sb s
  | .accnr c e t clr sig => Sys2Proof.Machine.execAccnr c e t clr sig s
  | .accclr c e => Sys2Proof.Machine.execAccclr c e s
  | .fadd c vd va vb t => Sys2Proof.Machine.execFadd c vd va vb t s
  | .fsub c vd va vb t => Sys2Proof.Machine.execFsub c vd va vb t s
  | .fmul c vd va vb t => Sys2Proof.Machine.execFmul c vd va vb t s
  | .ffma c vd va vb vc t => Sys2Proof.Machine.execFfma c vd va vb vc t s
  | .fmax c vd va vb t => Sys2Proof.Machine.execFmax c vd va vb t s
  | .fmin c vd va vb t => Sys2Proof.Machine.execFmin c vd va vb t s
  | .fabs c vd va t => Sys2Proof.Machine.execFabs c vd va t s
  | .fneg c vd va t => Sys2Proof.Machine.execFneg c vd va t s
  | .fcmplt c vd va vb t => Sys2Proof.Machine.execFcmplt c vd va vb t s
  | .fsel c vd va vb vc t => Sys2Proof.Machine.execFsel c vd va vb vc t s
  | .fscale c vd va vb t => Sys2Proof.Machine.execFscale c vd va vb t s
  | .i2f c vd va t => Sys2Proof.Machine.execI2f c vd va t s
  | .f2i48 c vd va vb t => Sys2Proof.Machine.execF2i48 c vd va vb t s
  | .i48f c vd va t => Sys2Proof.Machine.execI48f c vd va t s
  | .iadd c vd va vb t => Sys2Proof.Machine.execIadd c vd va vb t s
  | .sqrt c vd va t => Sys2Proof.Machine.execSqrt c vd va t s
  | .recip c vd va t => Sys2Proof.Machine.execRecip c vd va t s
  | .rsqrt c vd va t => Sys2Proof.Machine.execRsqrt c vd va t s
  | .exp2 c vd va t => Sys2Proof.Machine.execExp2 c vd va t s
  | .log2 c vd va t => Sys2Proof.Machine.execLog2 c vd va t s
  | .tanh c vd va t => Sys2Proof.Machine.execTanh c vd va t s
  | .sigmoid c vd va t => Sys2Proof.Machine.execSigmoid c vd va t s
  | .erf c vd va t => Sys2Proof.Machine.execErf c vd va t s
  | .vred c vd va t => Sys2Proof.Machine.execVred c vd va t s
  | .vredmax c vd va t => Sys2Proof.Machine.execVredmax c vd va t s
  | .vld c vd h sa => Sys2Proof.Machine.execVld c vd h sa s
  | .vst c vd h sa => Sys2Proof.Machine.execVst c vd h sa s
  | .vrq c va h sa aw outl => Sys2Proof.Machine.execVrq c va h sa aw outl s
  | .vnr c va t => Sys2Proof.Machine.execVnr c va t s
  | .fastart c h => Sys2Proof.Machine.execFastart c h s
  | .fawait c sa => Sys2Proof.Machine.execFawait c sa s
  | .fafree c => Sys2Proof.Machine.execFafree c s
  | .cpstart c h sa => Sys2Proof.Machine.execCpstart c h sa s
  | .cpwait c => Sys2Proof.Machine.execCpwait c s
  | .hset c h sa sb => Sys2Proof.Machine.execHset c h sa sb s
  | .hown c h sa => Sys2Proof.Machine.execHown c h sa s
  | .hrel c h => Sys2Proof.Machine.execHrel c h s
  | .hget c h sb sel => Sys2Proof.Machine.execHget c h sb sel s
  | .bar c b => Sys2Proof.Machine.execBar c b s
  | .bara c b => Sys2Proof.Machine.execBara c b s
  | .barw c b => Sys2Proof.Machine.execBarw c b s
  | .efset c f => Sys2Proof.Machine.execEfset c f s
  | .efclr c f => Sys2Proof.Machine.execEfclr c f s
  | .efwait c f v => Sys2Proof.Machine.execEfwait c f v s
  | .time c sb hi => Sys2Proof.Machine.execTime c sb hi s
  | .qbind c sa wr => Sys2Proof.Machine.execQbind c sa wr s
  | .qrd c h sa sb => Sys2Proof.Machine.execQrd c h sa sb s
  | .qwr c h sa sb last => Sys2Proof.Machine.execQwr c h sa sb last s
  | .qdrop c => Sys2Proof.Machine.execQdrop c s
  | .qcnt c sb => Sys2Proof.Machine.execQcnt c sb s
  | .csrr c rd csr => Sys2Proof.Machine.execCsrr c rd csr s
  | .csrw c csr ra => Sys2Proof.Machine.execCsrw c csr ra s
  | .fault c imm => Sys2Proof.Machine.execFault c imm s
  | .fence c => Sys2Proof.Machine.execFence c s
  | .scrubVisit c => Sys2Proof.Machine.execScrubVisit c s
  | .scrubWriteBack c => Sys2Proof.Machine.execScrubWriteBack c s
  | .scrubWindow r => Sys2Proof.Machine.execScrubWindow r s
  | .retentionReturn r => Sys2Proof.Machine.execRetentionReturn r s
  | .larinjArm c v => Sys2Proof.Machine.execLarinjArm c v s
  | .cellarRefresh r ch rank bank idle => Sys2Proof.Machine.execCellarRefresh r ch rank bank idle s
  | .patrolVisit r => Sys2Proof.Machine.execPatrolVisit r s
  | .selfRefreshEntry r => Sys2Proof.Machine.execSelfRefreshEntry r s
  | .rowRemap r ch rank bank row => Sys2Proof.Machine.execRowRemap r ch rank bank row s
  | .celinjsymArm r v => Sys2Proof.Machine.execCelinjsymArm r v s
  | .pitchFilled c => Sys2Proof.Machine.execPitchFilled c s
  | .loadListFault c => Sys2Proof.Machine.execLoadListFault c s
  | .reductionStall r => Sys2Proof.Machine.execReductionStall r s
  | .treeNodeForward t n => Sys2Proof.Machine.execTreeNodeForward t n s
  | .treeInstanceComplete t => Sys2Proof.Machine.execTreeInstanceComplete t s
  | .barrierRelease b => Sys2Proof.Machine.execBarrierRelease b s
  | .timeBeacon => Sys2Proof.Machine.execTimeBeacon s
  | .networkFlitError c net port wire uncorrectable => Sys2Proof.Machine.execNetworkFlitError c net port wire uncorrectable s
  | .routerDomainLoss r ctl => Sys2Proof.Machine.execRouterDomainLoss r ctl s
  | .hostAccessTimeout p tid bytes => Sys2Proof.Machine.execHostAccessTimeout p tid bytes s
  | .quiesceTimeout r => Sys2Proof.Machine.execQuiesceTimeout r s
  | .glbPlandirWrite p n k v => Sys2Proof.Machine.execGlbPlandirWrite p n k v s
  | .pitchClose => Sys2Proof.Machine.execPitchClose s
  | .handoffTagWritten entry => Sys2Proof.Machine.execHandoffTagWritten entry s
  | .runPlan => Sys2Proof.Machine.execRunPlan s
  | .copy => Sys2Proof.Machine.execCopy s
  | .load => Sys2Proof.Machine.execLoad s
  | .store => Sys2Proof.Machine.execStore s
  | .cairn => Sys2Proof.Machine.execCairn s
  | .fenceDescriptor => Sys2Proof.Machine.execFenceDescriptor s
  | .bindStream => Sys2Proof.Machine.execBindStream s
  | .policy => Sys2Proof.Machine.execPolicy s
  | .sweep => Sys2Proof.Machine.execSweep s
  | .handoff => Sys2Proof.Machine.execHandoff s
  | .nop => Sys2Proof.Machine.execNop s
  | .grant => Sys2Proof.Machine.execGrant s
  | .stepRelease => Sys2Proof.Machine.execStepRelease s
  | .completionRecordWrite ring energy => Sys2Proof.Machine.execCompletionRecordWrite ring energy s
  | .eventRecordWrite => Sys2Proof.Machine.execEventRecordWrite s
  | .nudge p ring => Sys2Proof.Machine.execNudge p ring s
  | .backstopPoll => Sys2Proof.Machine.execBackstopPoll s
  | .rngEnable p n v => Sys2Proof.Machine.execRngEnable p n v s
  | .rngDisable p n v => Sys2Proof.Machine.execRngDisable p n v s
  | .rngStop p n => Sys2Proof.Machine.execRngStop p n s
  | .rngResume p n => Sys2Proof.Machine.execRngResume p n s
  | .glbRingcfgWrite p v => Sys2Proof.Machine.execGlbRingcfgWrite p v s
  | .stream p skind recs => Sys2Proof.Machine.execStream p skind recs s
  | .cadenceTick => Sys2Proof.Machine.execCadenceTick s
  | .cadenceInEdge => Sys2Proof.Machine.execCadenceInEdge s
  | .pinFallbackTick => Sys2Proof.Machine.execPinFallbackTick s
  | .windowFree win => Sys2Proof.Machine.execWindowFree win s
  | .ptcmtGo p v => Sys2Proof.Machine.execPtcmtGo p v s
  | .ingestEnable p ch v => Sys2Proof.Machine.execIngestEnable p ch v s
  | .actuationEnable p a v => Sys2Proof.Machine.execActuationEnable p a v s
  | .flush p q v => Sys2Proof.Machine.execFlush p q v s
  | .poolModeRequest p pool v => Sys2Proof.Machine.execPoolModeRequest p pool v s
  | .poolModeChange pool => Sys2Proof.Machine.execPoolModeChange pool s
  | .timePacket p lo hi => Sys2Proof.Machine.execTimePacket p lo hi s
  | .timeinEdge => Sys2Proof.Machine.execTimeinEdge s
  | .timeSlewStep => Sys2Proof.Machine.execTimeSlewStep s
  | .glbTimecfgWrite p v => Sys2Proof.Machine.execGlbTimecfgWrite p v s
  | .refLost outOfRange => Sys2Proof.Machine.execRefLost outOfRange s
  | .refclkValid => Sys2Proof.Machine.execRefclkValid s
  | .droopStretch r => Sys2Proof.Machine.execDroopStretch r s
  | .moduleGovernorInterval pin pcore mvcore => Sys2Proof.Machine.execModuleGovernorInterval pin pcore mvcore s
  | .slabGovernorInterval sl amps => Sys2Proof.Machine.execSlabGovernorInterval sl amps s
  | .wakeRequest r why => Sys2Proof.Machine.execWakeRequest r why s
  | .wakeComplete r => Sys2Proof.Machine.execWakeComplete r s
  | .regionIdleEntry r => Sys2Proof.Machine.execRegionIdleEntry r s
  | .bivouacEntry r => Sys2Proof.Machine.execBivouacEntry r s
  | .darkAfter r => Sys2Proof.Machine.execDarkAfter r s
  | .thermalCeilingLower sl temps => Sys2Proof.Machine.execThermalCeilingLower sl temps s
  | .thermalCeilingRaise r temp => Sys2Proof.Machine.execThermalCeilingRaise r temp s
  | .stackHot sl f temp => Sys2Proof.Machine.execStackHot sl f temp s
  | .thermalTrip src temp => Sys2Proof.Machine.execThermalTrip src temp s
  | .tripRelease maxTemp => Sys2Proof.Machine.execTripRelease maxTemp s
  | .coolantRange inlet => Sys2Proof.Machine.execCoolantRange inlet s
  | .supplyLow v48 => Sys2Proof.Machine.execSupplyLow v48 s
  | .supplyLost above => Sys2Proof.Machine.execSupplyLost above s
  | .supplyRestored v48 => Sys2Proof.Machine.execSupplyRestored v48 s
  | .standbyLost v12 => Sys2Proof.Machine.execStandbyLost v12 s
  | .standbyRestored v12 => Sys2Proof.Machine.execStandbyRestored v12 s
  | .phaseLost r ph => Sys2Proof.Machine.execPhaseLost r ph s
  | .regionShort r ns persists => Sys2Proof.Machine.execRegionShort r ns persists s
  | .crackSuspect r group excessUv => Sys2Proof.Machine.execCrackSuspect r group excessUv s
  | .converterPhase sl ph => Sys2Proof.Machine.execConverterPhase sl ph s
  | .converterLost sl => Sys2Proof.Machine.execConverterLost sl s
  | .faultReport k => Sys2Proof.Machine.execFaultReport k s
  | .leaveRestart => Sys2Proof.Machine.execLeaveRestart s
  | .plannedRestart => Sys2Proof.Machine.execPlannedRestart s
  | .snapshotStaged => Sys2Proof.Machine.execSnapshotStaged s
  | .checkReplay slot => Sys2Proof.Machine.execCheckReplay slot s
  | .thirdReplay slot => Sys2Proof.Machine.execThirdReplay slot s
  | .scheduledSweep => Sys2Proof.Machine.execScheduledSweep s
  | .credit l ack sync control bulk strm => Sys2Proof.Machine.execCredit l ack sync control bulk strm s
  | .creditDue l => Sys2Proof.Machine.execCreditDue l s
  | .nak l group => Sys2Proof.Machine.execNak l group s
  | .resync l group => Sys2Proof.Machine.execResync l group s
  | .align l logical group physical => Sys2Proof.Machine.execAlign l logical group physical s
  | .alignmentGroup l => Sys2Proof.Machine.execAlignmentGroup l s
  | .peer l type depot format lanes peerid => Sys2Proof.Machine.execPeer l type depot format lanes peerid s
  | .lswap l logical physical group => Sys2Proof.Machine.execLswap l logical physical group s
  | .laneFailure l physical => Sys2Proof.Machine.execLaneFailure l physical s
  | .linkTraining l => Sys2Proof.Machine.execLinkTraining l s
  | .linkUp l full rtt lanes => Sys2Proof.Machine.execLinkUp l full rtt lanes s
  | .linkLost l reason => Sys2Proof.Machine.execLinkLost l reason s
  | .linkRetry l => Sys2Proof.Machine.execLinkRetry l s
  | .retrain p l => Sys2Proof.Machine.execRetrain p l s
  | .lnkDown p l => Sys2Proof.Machine.execLnkDown p l s
  | .clrpeer p l => Sys2Proof.Machine.execClrpeer p l s
  | .requestTimeout l tid => Sys2Proof.Machine.execRequestTimeout l tid s
  | .rddata l tid epoch status data => Sys2Proof.Machine.execRddata l tid epoch status data s
  | .wrack l tid epoch status => Sys2Proof.Machine.execWrack l tid epoch status s
  | .epack l epoch => Sys2Proof.Machine.execEpack l epoch s
  | .derr l tid status => Sys2Proof.Machine.execDerr l tid status s
  | .hdata l epoch jobtag step pitch sfrom sto daddr data => Sys2Proof.Machine.execHdata l epoch jobtag step pitch sfrom sto daddr data s
  | .hend l epoch jobtag step pitch sfrom sto bytes crc => Sys2Proof.Machine.execHend l epoch jobtag step pitch sfrom sto bytes crc s
  | .unknownPtype l head => Sys2Proof.Machine.execUnknownPtype l head s
  | .mrd p addr bytes tid => Sys2Proof.Machine.execMrd p addr bytes tid s
  | .mwr p addr data => Sys2Proof.Machine.execMwr p addr data s
  | .cpl p tid status off data => Sys2Proof.Machine.execCpl p tid status off data s
  | .registerWrite p addr v => Sys2Proof.Machine.execRegisterWrite p addr v s
  | .rcRead p addr tid => Sys2Proof.Machine.execRcRead p addr tid s
  | .latchingLoRead p addr tid => Sys2Proof.Machine.execLatchingLoRead p addr tid s
  | .shutdown p => Sys2Proof.Machine.execShutdown p s
  | .bringup p => Sys2Proof.Machine.execBringup p s
  | .aonUp us ok ports => Sys2Proof.Machine.execAonUp us ok ports s
  | .fwVerified us => Sys2Proof.Machine.execFwVerified us s
  | .railsUp us found maxTemp => Sys2Proof.Machine.execRailsUp us found maxTemp s
  | .fusesRead us ok => Sys2Proof.Machine.execFusesRead us ok s
  | .clocksLocked us found => Sys2Proof.Machine.execClocksLocked us found s
  | .seamsTrained us found => Sys2Proof.Machine.execSeamsTrained us found s
  | .cellarTrained us found => Sys2Proof.Machine.execCellarTrained us found s
  | .larderChecked us badRows => Sys2Proof.Machine.execLarderChecked us badRows s
  | .gridBuilt us => Sys2Proof.Machine.execGridBuilt us s
  | .knownAnswer us first later links streamOk cryptoOk => Sys2Proof.Machine.execKnownAnswer us first later links streamOk cryptoOk s
  | .linksTrained us outcomes => Sys2Proof.Machine.execLinksTrained us outcomes s
  | .ready us => Sys2Proof.Machine.execReady us s
  | .autoretry => Sys2Proof.Machine.execAutoretry s
  | .getIdentity p tid => Sys2Proof.Machine.execGetIdentity p tid s
  | .attest p tid nonce => Sys2Proof.Machine.execAttest p tid nonce s
  | .fwWrite p tid addr data => Sys2Proof.Machine.execFwWrite p tid addr data s
  | .fwCommit p tid => Sys2Proof.Machine.execFwCommit p tid s
  | .fwActivate p tid => Sys2Proof.Machine.execFwActivate p tid s
  | .logRead p tid addr bytes => Sys2Proof.Machine.execLogRead p tid addr bytes s
  | .recordRead p tid addr bytes => Sys2Proof.Machine.execRecordRead p tid addr bytes s
  | .mailboxTimeout => Sys2Proof.Machine.execMailboxTimeout s
  | .wctlArm p u => Sys2Proof.Machine.execWctlArm p u s
  | .wctlStop p u => Sys2Proof.Machine.execWctlStop p u s
  | .watchStart u => Sys2Proof.Machine.execWatchStart u s
  | .watchEnd u => Sys2Proof.Machine.execWatchEnd u s
  | .watchSample u v => Sys2Proof.Machine.execWatchSample u v s
  | .stage => Sys2Proof.Machine.execStage s
  | .state => Sys2Proof.Machine.execState s
  | .temp => Sys2Proof.Machine.execTemp s
  | .pin => Sys2Proof.Machine.execPin s
  | .vin => Sys2Proof.Machine.execVin s
  | .ident => Sys2Proof.Machine.execIdent s
  | .alertStatus => Sys2Proof.Machine.execAlertStatus s
  | .alertMask w => Sys2Proof.Machine.execAlertMask w s
  | .alertResponse => Sys2Proof.Machine.execAlertResponse s
  | .nreset lowPeriods => Sys2Proof.Machine.execNreset lowPeriods s
  | .debugUnlock signature => Sys2Proof.Machine.execDebugUnlock signature s
  | .tapInstructionLoad ti => Sys2Proof.Machine.execTapInstructionLoad ti s
  | .uncorrectableCodeword l group crc => Sys2Proof.Machine.execUncorrectableCodeword l group crc s
  | .stretchRepayment r => Sys2Proof.Machine.execStretchRepayment r s
  | .copyComplete c => Sys2Proof.Machine.execCopyComplete c s
  | .sweepFinished r found notHot => Sys2Proof.Machine.execSweepFinished r found notHot s
  | .undefinedInstruction c w => Sys2Proof.Machine.execUndefinedInstruction c w s
  | .descriptorTypeRefused => Sys2Proof.Machine.execDescriptorTypeRefused s
  | .testReset => Sys2Proof.Machine.execTestReset s

end Sys2Proof.Machine
end

