-- ==== Sys2Proof/WellFormed.lean ====
section
/-! DEFINITION. The commands that a packet, a flit or a table of the manual can carry: sizes that the operand types
do not bound. -/

namespace Sys2Proof

/-- A data packet carries 1 to 4,096 bytes (R347, R354, R464). -/
def okData (d : List Byte) : Bool := decide (1 ≤ d.length) && decide (d.length ≤ 4096)

/-- The well-formed commands. -/
def Instr.wf : Instr → Bool
  | .stream _ skind recs => skind != 0 || (decide (1 ≤ recs.length) && decide (recs.length ≤ 512))
  | .mrd _ _ bytes _ => decide (1 ≤ bytes.toNat) && decide (bytes.toNat ≤ 4096)
  | .mwr _ _ data => okData data
  | .cpl _ _ _ _ data => decide (data.length ≤ 4096)
  | .rddata _ _ _ _ data => decide (data.length ≤ 4096)
  | .hdata _ _ _ _ _ _ _ _ data => decide (data.length ≤ 4096)
  | .fwWrite _ _ _ data => okData data
  | .logRead _ _ _ bytes => decide (bytes.toNat ≤ 4096)
  | .recordRead _ _ _ bytes => decide (bytes.toNat ≤ 4096)
  | .slabGovernorInterval _ amps => decide (amps.length = 16)
  | .thermalCeilingLower _ temps => decide (temps.length = 16)
  | _ => true

end Sys2Proof
end

