-- ==== Sys2Proof/Safety.lean ====
section
/-! DEFINITION. What claims are stated in terms of: canonical memory and tables, a safe step, which commands a core
issues, and what two states share. -/

namespace Sys2Proof.Machine

-- Canonical form

/-- The memories hold their canonical form: larder bytes and their stored errors, cellar bytes and theirs. -/
def Memory.wf (s : State) : Bool :=
  Tab.wf 0 s.larder && Tab.wf 0 s.larErr && Tab.wf 0 s.cellar && Tab.wf 0 s.celErr

/-- A cluster's scalar registers hold their canonical form. -/
def Cluster.canon (c : Cluster) : Bool := Tab.wf 0 c.sreg

/-- Memories, host registers, clusters, regions, slabs, links and rings hold their canonical form. -/
def State.canon (s : State) : Bool :=
  Memory.wf s && Tab.wf none s.regs && Tab.wf {} s.clusters && (s.clusters.all fun e => e.2.canon) && Tab.wf {} s.regions
    && Tab.wf {} s.slabs && Tab.wf {} s.links && Tab.wf {} s.jobs.rings

-- Runs

/-- A step that ends in a next state. -/
def State.safe (s : State) : Prop := ∃ t, step s = .next t

-- What two states share

/-- Every byte of memory reads the same: of every larder, and of every slice. -/
def SameBytes (s t : State) : Prop :=
  (∀ site a, t.larByte site a = s.larByte site a) ∧ (∀ r a, t.celByte r a = s.celByte r a)

/-- Nothing differs but the clusters and the reports in the fault intake. -/
def OnlyClusters (s t : State) : Prop :=
  { t with clusters := s.clusters, resil := { t.resil with intake := s.resil.intake } } = s

/-- What is fixed at manufacture is the same, and the anti-rollback counter has not fallen (R451). -/
def SameFuses (s t : State) : Prop := { t.fuses with k := s.fuses.k } = s.fuses ∧ s.fuses.k ≤ t.fuses.k

/-- The log of t continues the log of s (R451). -/
def LogGrows (s t : State) : Prop := ∃ l, t.attic.log = s.attic.log ++ l

/-- What a state t that follows an undefined case in s may still be relied on for (R493). The model ends a run at the case, with a
fault that names it; whoever continues one chooses among such states. The identity area is no part of State, so nothing changes it;
and that a trip, a short, a lost phase and a tick still act is what their commands do in every state with the always-on domain live:
no field of State disables one. -/
structure AfterCase (s t : State) : Prop where
  /-- No fuse is blown, and the firmware area is as it was, with a write of it that was under way. -/
  fuses : t.fuses = s.fuses
  image : t.attic.image = s.attic.image ∧ t.dev.flashing = s.dev.flashing
  debug : t.dev.debug = true → s.dev.debug = true
  /-- The domain in which the trip, the protections and the stream unit act stays live, and what they have cut off stays off. -/
  live : s.aonLive = true → t.aonLive = true
  trip : s.dev.tripped = true → t.dev.tripped = true
  phases : ∀ r b, (Tab.get 0 s.attic.phases r).testBit b = true → (Tab.get 0 t.attic.phases r).testBit b = true
  converters : (∀ sl b, (Tab.get 0 s.attic.convPhases sl).testBit b = true → (Tab.get 0 t.attic.convPhases sl).testBit b = true)
    ∧ s.attic.deadConvs ⊆ t.attic.deadConvs
  /-- The counter is neither stepped back nor stopped, and its reference count goes on. -/
  counter : s.now.toNat ≤ t.now.toNat ∧ t.clk.raw = s.clk.raw ∧ t.clk.slew = s.clk.slew ∧ t.clk.hold = s.clk.hold
  /-- The stream unit ticks, seals the windows and holds over as before; what its items hold is any value. -/
  ticks : t.strm.cad = s.strm.cad ∧ t.strm.newCad = s.strm.newCad ∧ t.strm.lastTick = s.strm.lastTick ∧ t.strm.fallback = s.strm.fallback
  windows : t.strm.window = s.strm.window ∧ t.strm.slots = s.strm.slots
  channels : ∀ a, t.actOn a = s.actOn a

end Sys2Proof.Machine

namespace Sys2Proof

/-- The site whose core issues a command: the instructions of classes 0x0 to 0xD, and a word that no class defines. -/
def Instr.core : Instr → Option SiteNo
  | .add c _ _ _ | .sub c _ _ _ | .and c _ _ _ | .or c _ _ _ | .xor c _ _ _ | .sll c _ _ _ | .srl c _ _ _ => some c
  | .sra c _ _ _ | .slt c _ _ _ | .sltu c _ _ _ | .mul c _ _ _ | .mulh c _ _ _ | .min c _ _ _ | .max c _ _ _ => some c
  | .clz c _ _ _ | .popc c _ _ _ | .lui c _ _ | .lw c _ _ _ | .sw c _ _ _ | .lbu c _ _ _ | .sb c _ _ _ => some c
  | .ldl c _ _ _ | .stl c _ _ _ | .branchEq c _ _ _ | .branchNe c _ _ _ | .branchLt c _ _ _ | .branchGe c _ _ _ => some c
  | .branchLtu c _ _ _ | .branchGeu c _ _ _ | .jal c _ _ | .jalr c _ _ _ | .loop c _ _ _ | .waitc c _ | .halt c => some c
  | .wload c _ _ _ | .wrow c _ _ _ _ | .wscale c _ _ | .wswap c | .pass c _ _ _ _ _ | .accrd c _ _ _ _ => some c
  | .accst c _ _ _ _ _ | .accld c _ _ _ | .accnr c _ _ _ _ | .accclr c _ | .fadd c _ _ _ _ | .fsub c _ _ _ _ => some c
  | .fmul c _ _ _ _ | .ffma c _ _ _ _ _ | .fmax c _ _ _ _ | .fmin c _ _ _ _ | .fabs c _ _ _ | .fneg c _ _ _ => some c
  | .fcmplt c _ _ _ _ | .fsel c _ _ _ _ _ | .fscale c _ _ _ _ | .i2f c _ _ _ | .f2i48 c _ _ _ _ | .i48f c _ _ _ => some c
  | .iadd c _ _ _ _ | .sqrt c _ _ _ | .recip c _ _ _ | .rsqrt c _ _ _ | .exp2 c _ _ _ | .log2 c _ _ _ => some c
  | .tanh c _ _ _ | .sigmoid c _ _ _ | .erf c _ _ _ | .vred c _ _ _ | .vredmax c _ _ _ | .vld c _ _ _ => some c
  | .vst c _ _ _ | .vrq c _ _ _ _ _ | .vnr c _ _ | .fastart c _ | .fawait c _ | .fafree c | .cpstart c _ _ => some c
  | .cpwait c | .hset c _ _ _ | .hown c _ _ | .hrel c _ | .hget c _ _ _ | .bar c _ | .bara c _ | .barw c _ => some c
  | .efset c _ | .efclr c _ | .efwait c _ _ | .time c _ _ | .qbind c _ _ | .qrd c _ _ _ | .qwr c _ _ _ _ => some c
  | .qdrop c | .qcnt c _ | .csrr c _ _ | .csrw c _ _ | .fault c _ | .fence c | .undefinedInstruction c _ => some c
  | _ => none

/-- Commands that store to no larder and no slice, whatever the state. Commands that read memory through the error code,
that may restart a job, or that power something down are left out. -/
def Instr.storesNothing : Instr → Bool
  | .add _ _ _ _ | .sub _ _ _ _ | .and _ _ _ _ | .or _ _ _ _ | .xor _ _ _ _ | .sll _ _ _ _ | .srl _ _ _ _ => true
  | .sra _ _ _ _ | .slt _ _ _ _ | .sltu _ _ _ _ | .mul _ _ _ _ | .mulh _ _ _ _ | .min _ _ _ _ | .max _ _ _ _ => true
  | .clz _ _ _ _ | .popc _ _ _ _ | .lui _ _ _ | .lw _ _ _ _ | .sw _ _ _ _ | .lbu _ _ _ _ | .sb _ _ _ _ => true
  | .branchEq _ _ _ _ | .branchNe _ _ _ _ | .branchLt _ _ _ _ | .branchGe _ _ _ _ | .branchLtu _ _ _ _ => true
  | .branchGeu _ _ _ _ | .jal _ _ _ | .jalr _ _ _ _ | .loop _ _ _ _ | .waitc _ _ | .halt _ => true
  | .wswap _ | .accrd _ _ _ _ _ | .accclr _ _ | .fadd _ _ _ _ _ | .fsub _ _ _ _ _ | .fmul _ _ _ _ _ => true
  | .ffma _ _ _ _ _ _ | .fmax _ _ _ _ _ | .fmin _ _ _ _ _ | .fabs _ _ _ _ | .fneg _ _ _ _ | .fcmplt _ _ _ _ _ => true
  | .fsel _ _ _ _ _ _ | .fscale _ _ _ _ _ | .i2f _ _ _ _ | .f2i48 _ _ _ _ _ | .i48f _ _ _ _ | .iadd _ _ _ _ _ => true
  | .sqrt _ _ _ _ | .recip _ _ _ _ | .rsqrt _ _ _ _ | .exp2 _ _ _ _ | .log2 _ _ _ _ | .tanh _ _ _ _ => true
  | .sigmoid _ _ _ _ | .erf _ _ _ _ | .vred _ _ _ _ | .vredmax _ _ _ _ => true
  | .bar _ _ | .bara _ _ | .barw _ _ | .efset _ _ | .efclr _ _ | .efwait _ _ _ | .time _ _ _ => true
  | .reductionStall _ | .treeNodeForward _ _ | .barrierRelease _ | .timeBeacon | .networkFlitError _ _ _ _ _ => true
  | .routerDomainLoss _ _ | .hostAccessTimeout _ _ _ => true
  | .stream _ _ _ | .cadenceTick | .cadenceInEdge | .pinFallbackTick | .windowFree _ | .ptcmtGo _ _ => true
  | .ingestEnable _ _ _ | .actuationEnable _ _ _ | .flush _ _ _ | .poolModeRequest _ _ _ | .poolModeChange _ => true
  | .timePacket _ _ _ => true
  | .timeinEdge | .timeSlewStep | .glbTimecfgWrite _ _ | .refLost _ | .refclkValid | .droopStretch _ => true
  | .stretchRepayment _ => true
  | .moduleGovernorInterval _ _ _ | .slabGovernorInterval _ _ | .wakeRequest _ _ | .regionIdleEntry _ => true
  | .bivouacEntry _ | .thermalCeilingLower _ _ | .thermalCeilingRaise _ _ | .stackHot _ _ _ => true
  | .thermalTrip _ _ | .coolantRange _ | .crackSuspect _ _ _ => true
  | .credit _ _ _ _ _ _ | .creditDue _ | .nak _ _ | .resync _ _ | .align _ _ _ _ | .alignmentGroup _ => true
  | .peer _ _ _ _ _ _ | .lswap _ _ _ _ | .laneFailure _ _ | .linkTraining _ | .linkLost _ _ | .linkRetry _ => true
  | .retrain _ _ | .lnkDown _ _ | .clrpeer _ _ | .requestTimeout _ _ | .uncorrectableCodeword _ _ _ => true
  | .unknownPtype _ _ => true
  | .nudge _ _ | .rcRead _ _ _ | .latchingLoRead _ _ _ | .getIdentity _ _ | .attest _ _ _ | .fwWrite _ _ _ _ => true
  | .fwCommit _ _ | .logRead _ _ _ _ | .recordRead _ _ _ _ | .mailboxTimeout => true
  | .wctlArm _ _ | .wctlStop _ _ | .watchStart _ | .watchEnd _ | .watchSample _ _ | .stage | .state | .temp => true
  | .pin | .vin | .ident | .alertStatus | .alertMask _ | .alertResponse | .debugUnlock _ => true
  | .tapInstructionLoad _ | .testReset | .autoretry => true
  | _ => false

/-- The front command, if a core issues it, is what that core's program store holds at its PC (R106, R110). -/
def Machine.State.followsProgram (s : Machine.State) : Prop :=
  ∀ i l c, s.pending = i :: l → i.core = some c →
    i = (s.fetched c).getD (.undefinedInstruction c (s.cl c).fetchWord)

end Sys2Proof
end

