-- ==== Sys2Proof/Certificates/Slice0/Obligations.lean ====
section
/-! DEFINITION. The statements for the provers, family by family. Unless a statement says otherwise it holds for every
state, and an equation `exec i s = .next t` says what changes (all that t writes) and that nothing else does. -/

open Sys2Proof Sys2Proof.Machine

/-- A step runs the command at the front of the queue. For every command c and state s, a step of s with c in front of
a queue is exec of c on s with the rest of the queue. Commands are taken first in, first out. -/
def Obligations.StepTakesFrontCommand : Prop :=
  ∀ (c : Instr) (rest : List Instr) (s : State),
    step { s with pending := c :: rest } = exec c { s with pending := rest }

/-- An empty queue makes a step one reference count (DESIGN CHOICE, log entry 8), and a core that does not run issues
nothing. With an empty queue a step advances the reference count by one, and the time counter by one unless a backward
slew holds it; while no link has a lane swap announced and no write of the attic is under way, nothing else changes
but the count of holds left. In OFF nothing changes. That the empty queue stands for a tick is the model's choice. For
every instruction that a core issues (classes 0x0 to 0xD, and a word that no class defines): unless the core is
running a pitch, waits for nothing and its region is ACTIVE or IDLE, the command changes nothing (log entry 11, a
DESIGN CHOICE). -/
def Obligations.IdleQueueAndIdleCores : Prop :=
  (∀ s : State, s.pending = [] → s.dev.base = .off → step s = .next s)
  ∧ (∀ s : State, s.pending = [] → s.dev.base ≠ .off → (∀ e ∈ s.links, e.2.swaps = []) → s.dev.saving = none → s.dev.flashing = none →
    ∃ t, step s = .next t ∧ t.clk.raw = s.clk.raw + 1
      ∧ t.clk.counter = (if s.clk.hold = 0 then s.clk.counter + 1 else s.clk.counter)
      ∧ t.clk.hold = s.clk.hold - 1
      ∧ { t with clk := { t.clk with raw := s.clk.raw, counter := s.clk.counter, hold := s.clk.hold } } = s)
  ∧ ∀ (i : Instr) (c : SiteNo) (s : State), i.core = some c → s.coreReady c = false → exec i s = .next s

/-- What the module holds right after reset. At reset every host register reads its Reset column (where the manual
gives none, the value that log entry 3 names), no byte of a larder or slice is set (log entry 4, a DESIGN CHOICE: what
nothing has written reads 0), no core runs, no stream, job or link traffic is under way, the device is in AON with
AON_UP as the stage that runs next, and no command waits. Memories, host registers and the tables of units are in
canonical form: the base of the invariant that every step keeps. -/
def Obligations.ResetReadsResetColumns : Prop :=
  let s := State.reset
  (∀ a, s.reg a = regReset a) ∧ (∀ site a, s.larByte site a = 0) ∧ (∀ r a, s.celByte r a = 0)
    ∧ (∀ site, (s.cl site).run = .held) ∧ s.jobs.grants = [] ∧ s.jobs.step = none ∧ s.reqs = [] ∧ s.strm.wins = []
    ∧ s.dev.base = .aon ∧ s.dev.next = some .aonUp ∧ s.devState = 1 ∧ s.out = [] ∧ s.pending = [] ∧ s.canon = true

/-- Every step keeps memories, registers and every table of units in canonical form. For every state whose larder and
cellar contents, stored error patterns, host registers, clusters and their scalar registers, regions, slabs, links and
rings are in canonical form, and every next state of a step, whatever command is in front: the next state is in
canonical form. So equal contents are equal data after any run. -/
def Obligations.StepKeepsCanonicalForm : Prop :=
  ∀ s t : State, s.canon = true → step s = .next t → t.canon = true

/-- No command touches the queue of waiting commands. Whatever command runs, if it ends in a next state, then the
commands that were waiting are those that wait after it, in the same order. -/
def Obligations.CommandsLeaveTheQueue : Prop :=
  ∀ (i : Instr) (s t : State), exec i s = .next t → t.pending = s.pending

/-- No command changes what the fuses hold but the anti-rollback counter, which never falls, or rewrites the attic's
log. Whatever command runs, if it ends in a next state, then grade, revision, serial number, key hash, bad-unit marks,
spare maps and trims of the fuses are as before, and the number of anti-rollback fuses blown has not fallen. The log
bytes written so far are still there in order, followed by what the command adds. -/
def Obligations.FusesAndLogAreKept : Prop :=
  ∀ (i : Instr) (s t : State), exec i s = .next t → SameFuses s t ∧ LogGrows s t

/-- Commands that store nothing leave every byte of every larder and slice as it was. For each command of the list
Instr.storesNothing (scalar and vector-lane instructions, waits, flags and barriers, stream, cadence, time, governor,
heat, link-layer, mailbox reads, watch and sideband commands, register reads): if it ends in a next state, then every
byte of memory reads as before. A forced restart, a power-down and the commands that store are not in the list; their
statements say what they write. -/
def Obligations.QuietCommandsKeepMemory : Prop :=
  ∀ (i : Instr) (s t : State), i.storesNothing = true → exec i s = .next t → SameBytes s t

/-- Each scalar ALU instruction and LUI completes with the result of R112 in rd, and changes nothing else but the step
of PC. On a core that issues, each operation of classes 0x0 and 0x1 and LUI ends in the state in which rd holds the
result, PC and cycles have stepped, and nothing else has changed. The results are given as numbers: wrapping sums,
products by their 64-bit value, shifts by powers of two, comparisons of signed or unsigned values, CLZ by its bounds,
POPC by counting. SUB, MUL, MULH, CLZ and POPC with an immediate are program faults. -/
def Obligations.ScalarAluWritesRd : Prop :=
  ∀ (s : State) (c : SiteNo) (rd ra : BitVec 4) (b : AluB) (imm : BitVec 20), s.coreReady c = true →
    let k := s.cl c
    let x := k.s ra
    let y := k.aluB false b
    let z := k.aluB true b
    let sh := y.toNat % 32
    let put (v : Word) : Res := .next (s.setCl c (k.setS rd v).advance)
    let reg (v : Word) : Res := if isImmB b then .next (s.progFault c 0) else put v
    exec (.add c rd ra b) s = put (BitVec.ofNat 32 (x.toNat + y.toNat))
    ∧ exec (.sub c rd ra b) s = reg (BitVec.ofInt 32 (x.toInt - y.toInt))
    ∧ exec (.and c rd ra b) s = put (x &&& z)
    ∧ exec (.or c rd ra b) s = put (x ||| z)
    ∧ exec (.xor c rd ra b) s = put (x ^^^ z)
    ∧ exec (.sll c rd ra b) s = put (BitVec.ofNat 32 (x.toNat * 2 ^ sh))
    ∧ exec (.srl c rd ra b) s = put (BitVec.ofNat 32 (x.toNat / 2 ^ sh))
    ∧ exec (.sra c rd ra b) s = put (BitVec.ofInt 32 (x.toInt / 2 ^ sh))
    ∧ exec (.slt c rd ra b) s = put (if x.toInt < y.toInt then 1 else 0)
    ∧ exec (.sltu c rd ra b) s = put (if x.toNat < y.toNat then 1 else 0)
    ∧ exec (.mul c rd ra b) s = reg (BitVec.ofNat 32 (x.toNat * y.toNat))
    ∧ exec (.mulh c rd ra b) s = reg (((x.signExtend 64 * y.signExtend 64) >>> 32).setWidth 32)
    ∧ exec (.min c rd ra b) s = put (BitVec.ofInt 32 (min x.toInt y.toInt))
    ∧ exec (.max c rd ra b) s = put (BitVec.ofInt 32 (max x.toInt y.toInt))
    ∧ (∃ n : Nat, exec (.clz c rd ra b) s = reg (BitVec.ofNat 32 n) ∧ n ≤ 32 ∧ x.toNat < 2 ^ (32 - n)
        ∧ (n < 32 → 2 ^ (31 - n) ≤ x.toNat))
    ∧ exec (.popc c rd ra b) s = reg (BitVec.ofNat 32 ((List.range 32).countP fun i => x.toNat.testBit i))
    ∧ exec (.lui c rd imm) s = put (BitVec.ofNat 32 (imm.toNat * 4096))

/-- A scalar register reads what was written to it; s0 reads 0 and discards writes. In a cluster whose scalar
registers are in canonical form, after a write of v to rd, register r reads v if r is rd and not s0, reads 0 if r is
s0, and reads as before otherwise. A write to s0 changes nothing. A cluster of a canonical state is put back and read
as it was put, and every other cluster reads as before. -/
def Obligations.ScalarRegistersReadBack : Prop :=
  (∀ (k : Cluster) (rd r : BitVec 4) (v : Word), k.canon = true →
    (k.setS rd v).s r = (if r = 0 then 0 else if r = rd then v else k.s r) ∧ k.setS 0 v = k)
  ∧ ∀ (s : State) (site other : Nat) (k : Cluster), s.canon = true →
      (s.setCl site k).cl other = if other = site then k else s.cl other

/-- After an instruction in order, PC goes on or runs the innermost loop body again. An instruction in order costs one
cycle. Outside every active body, or before the end of the innermost one, PC advances by 4 and no loop changes. At the
end of the innermost body PC returns to its start while more than one run is left, with one run fewer; on its last run
that loop ends and the same is asked of the body around it at the same address. No other part of the cluster changes.
-/
def Obligations.PcStepsThroughLoops : Prop :=
  ∀ k : Cluster,
    { k.advance with pc := k.pc, loops := k.loops, cyc := k.cyc } = k ∧ k.advance.cyc = k.cyc + 1
    ∧ (k.loops = [] → k.advance.pc = k.pc + 4 ∧ k.advance.loops = [])
    ∧ ∀ l ls, k.loops = l :: ls →
        (k.pc + 4 ≠ l.stop → k.advance.pc = k.pc + 4 ∧ k.advance.loops = k.loops)
        ∧ (k.pc + 4 = l.stop → 1 < l.left.toNat →
            k.advance.pc = l.start ∧ k.advance.loops = { l with left := l.left - 1 } :: ls)
        ∧ (k.pc + 4 = l.stop → l.left.toNat ≤ 1 → k.advance = { k with loops := ls }.advance)

/-- LW, SW, LBU and SB move words and bytes of the data store and nothing else. On a core that issues, LW and LBU
write rd and SW and SB write the data store; addresses wrap modulo 8 KiB and bits [1:0] are ignored for words; words
are little-endian. Nothing but the cluster changes, so every byte of larder and cellar stays. -/
def Obligations.DataStoreAccesses : Prop :=
  ∀ (s : State) (c : SiteNo) (rd ra : BitVec 4) (imm : BitVec 16), s.coreReady c = true →
    let k := s.cl c
    let a := (k.s ra + imm.signExtend 32).toNat % 8192
    let w := a / 4 * 4
    exec (.lw c rd ra imm) s = .next (s.setCl c (k.setS rd (BitVec.ofNat 32 (ofLe (Tab.getList 0 k.data w 4)))).advance)
    ∧ exec (.sw c rd ra imm) s
        = .next (s.setCl c { k with data := Tab.setList 0 k.data w (toLe 4 (k.s rd).toNat) }.advance)
    ∧ exec (.lbu c rd ra imm) s = .next (s.setCl c (k.setS rd ((Tab.get (0 : Byte) k.data a).setWidth 32)).advance)
    ∧ exec (.sb c rd ra imm) s = .next (s.setCl c { k with data := Tab.set 0 k.data a ((k.s rd).setWidth 8) }.advance)

/-- Branches and jumps go to their targets, or fault when they leave an active loop body. On a core that issues, a
conditional branch whose condition fails steps in order; one whose condition holds, and every JAL and JALR, costs 2
cycles and sets PC to its target, JAL and JALR with PC + 4 in rd. Offsets count instructions from the branch; JALR
clears bits [1:0]. A target outside the body of an active loop is a program fault with nothing written. -/
def Obligations.BranchesAndJumps : Prop :=
  ∀ (s : State) (c : SiteNo) (rd ra rb : BitVec 4) (off : BitVec 16) (off20 : BitVec 20), s.coreReady c = true →
    let k := s.cl c
    let x := k.s ra
    let y := k.s rb
    let inside (p : Word) : Prop := ∀ l ls, k.loops = l :: ls → (p - l.start).toNat < (l.stop - l.start).toNat
    let go (k' : Cluster) (p : Word) (t : Res) : Prop :=
      (inside p → t = .next (s.setCl c { k' with pc := p, cyc := k.cyc + 2 })) ∧ (¬ inside p → t = .next (s.progFault c 0))
    let br (cond : Prop) (t : Res) : Prop :=
      (cond → go k (k.pc + BitVec.ofInt 32 (4 * off.toInt)) t) ∧ (¬ cond → t = .next (s.setCl c k.advance))
    br (x = y) (exec (.branchEq c ra rb off) s) ∧ br (x ≠ y) (exec (.branchNe c ra rb off) s)
    ∧ br (x.toInt < y.toInt) (exec (.branchLt c ra rb off) s) ∧ br (y.toInt ≤ x.toInt) (exec (.branchGe c ra rb off) s)
    ∧ br (x.toNat < y.toNat) (exec (.branchLtu c ra rb off) s) ∧ br (y.toNat ≤ x.toNat) (exec (.branchGeu c ra rb off) s)
    ∧ go (k.setS rd (k.pc + 4)) (k.pc + BitVec.ofInt 32 (4 * off20.toInt)) (exec (.jal c rd off20) s)
    ∧ go (k.setS rd (k.pc + 4)) (BitVec.ofNat 32 ((x + off.signExtend 32).toNat / 4 * 4)) (exec (.jalr c rd ra off) s)

/-- LOOP, WAITC, HALT, FAULT and an undefined instruction word. On a core that issues: LOOP of a free loop number with
a body of at least one instruction that ends no later than the body around it enters its body with the count of ra, or
skips it for a count of 0; any other LOOP is a program fault. WAITC passes its cycles and steps. HALT ends the core's
work. FAULT and a word that no class defines stop the core and report a program fault, with the immediate of FAULT and
0 otherwise. -/
def Obligations.LoopsWaitsAndFaults : Prop :=
  ∀ (s : State) (c : SiteNo) (n : BitVec 2) (ra : BitVec 4) (len : BitVec 12) (imm : BitVec 16) (w : Word),
    s.coreReady c = true →
    let k := s.cl c
    let start := k.pc + 4
    let stop := start + BitVec.ofNat 32 (4 * len.toNat)
    let ok : Prop := len ≠ 0 ∧ (∀ l ∈ k.loops, l.num ≠ n)
      ∧ ∀ l ls, k.loops = l :: ls → (stop - l.start).toNat ≤ (l.stop - l.start).toNat
    (ok → k.s ra = 0 → exec (.loop c n ra len) s = .next (s.setCl c (k.goto stop 1)))
    ∧ (ok → k.s ra ≠ 0 → exec (.loop c n ra len) s
        = .next (s.setCl c { k with pc := start, cyc := k.cyc + 1, loops := ⟨n, start, stop, k.s ra⟩ :: k.loops }))
    ∧ (¬ ok → exec (.loop c n ra len) s = .next (s.progFault c 0))
    ∧ exec (.waitc c imm) s = .next (s.setCl c { k with cyc := k.cyc + BitVec.ofNat 64 imm.toNat }.advance)
    ∧ exec (.halt c) s = .next (s.setCl c { k with run := .halted, cyc := k.cyc + 1 })
    ∧ exec (.fault c imm) s = .next (s.progFault c imm)
    ∧ (definedOp w = false → exec (.undefinedInstruction c w) s = .next (s.progFault c 0))

/-- A program fault stops the core and reports once, and changes nothing else. After a program fault the core of the
site is stopped, the intake holds one more report, which names the site and the immediate, and everything else is as
before: every byte of memory, every host register, the other clusters, jobs and stream. -/
def Obligations.ProgramFaultStopsAndReports : Prop :=
  ∀ (s : State) (c : SiteNo) (imm : BitVec 16),
    let t := s.progFault c imm
    t.resil.intake = s.resil.intake ++ [.program c imm] ∧ t.clusters = Tab.set {} s.clusters c { s.cl c with run := .stopped }
    ∧ OnlyClusters s t ∧ SameBytes s t ∧ ∀ a, t.reg a = s.reg a

/-- Where an access through a handle goes, and which undefined case it is otherwise. The first part: an access of n
bytes at an offset of a released entry is U4; one past the end of a valid entry's buffer, or through an entry whose
buffer passes the end of the larder, is U1; one through a remote entry whose home is no cluster of the grid is U2; any
other goes to the entry's address plus the offset in the larder of its home, which is the own site for a local entry,
unless the home is another cluster and a router without power stands at an end or a turn of the way there or back,
where it is lost. A flit reaches another site when the bulk routers of both regions have power and, between regions,
those at which the route of the last grid build turns (log entry 159). The second part: on a core that issues, every
instruction that reads or writes a larder through a handle ends in that undefined case when the access is one, and
stalls on the held access when it is lost, with nothing else changed but, for a QRD, what the pool counts of a
poisoned word. For QWR and for QRD of a slab queue the access is that of the bytes still to move; the QRD of an ingest
queue is in QueuePortInstructions, and FASTART, which reads its list through its engine, in EngineInstructions. -/
def Obligations.HandlesBoundEveryAccess : Prop :=
  (∀ (s : State) (site : Nat) (h : BitVec 6) (off n : Nat),
    let e := Tab.get 0 (s.cl site).handles h.toNat
    let len := e.toNat / 2 ^ 22 % 2 ^ 23
    let addr := e.toNat % 2 ^ 22
    let fits : Prop := e.getLsbD 62 = true ∧ off + n ≤ len ∧ addr + len ≤ 2 ^ 22
    let powered (x : Nat) : Bool := (s.rg (siteRegion x)).bulkUp
    let turnsUp (a b : Nat) : Prop := ∃ p, route (s.listed 0) (siteX a) (siteY a) (siteX b) (siteY b) = some p
      ∧ ∀ t ∈ turns (siteX a) (siteY a) (siteX b) (siteY b) p, (s.rg (t.2 / 9 * 16 + t.1 / 8)).bulkUp = true
    let goes (a b : Nat) : Prop := powered a = true ∧ powered b = true ∧ (siteRegion a = siteRegion b ∨ turnsUp a b)
    (e.getLsbD 62 = false → s.handleAt site h off n = .undef .u4)
    ∧ (e.getLsbD 62 = true → len < off + n ∨ 2 ^ 22 < addr + len → s.handleAt site h off n = .undef .u1)
    ∧ (fits → e.getLsbD 59 = false → s.handleAt site h off n = .at_ site (addr + off))
    ∧ (fits → e.getLsbD 59 = true →
        match s.clusterSite (e.toNat / 2 ^ 45 % 2 ^ 14) with
          | some t =>
            (t = site ∨ (goes site t ∧ goes t site) → s.handleAt site h off n = .at_ t (addr + off))
            ∧ (t ≠ site → ¬ (goes site t ∧ goes t site) → s.handleAt site h off n = .lost)
          | none => s.handleAt site h off n = .undef .u2))
  ∧ ∀ (s : State) (c : SiteNo) (h : BitVec 6) (sa sb : BitVec 4) (v : BitVec 5) (wfmt : BitVec 3) (aw : BitVec 2)
      (e : BitVec 6) (f1 f2 : Bool) (u : UCase), s.coreReady c = true →
      let k := s.cl c
      let ends (x : State) (i : Instr) (off n : Nat) : Prop :=
        (x.handleAt c h off n = .undef u → exec i s = .fault (.undefinedCase u))
        ∧ (x.handleAt c h off n = .lost → exec i s = .next (x.setCl c { x.cl c with stall := some .heldAccess }))
      let stops (i : Instr) (n : Nat) : Prop := ends s i (k.s sa).toNat n
      stops (.ldl c h sa sb) 4 ∧ stops (.stl c h sa sb) 4
      ∧ (wfmt.toNat < 5 → stops (.wload c h sa wfmt) (128 * rowBytes wfmt.toNat + 1024)
          ∧ stops (.wrow c h sa sb wfmt) (rowBytes wfmt.toNat))
      ∧ stops (.wscale c h sa) 1024 ∧ stops (.pass c h sa aw e f1) (4 * recBytes aw.toNat)
      ∧ stops (.accst c h sa sb f1 f2) (k.image ((k.s sb).toNat % 64)).length ∧ stops (.accld c h sa sb) 1088
      ∧ stops (.vld c v h sa) 256 ∧ stops (.vst c v h sa) ((k.v v.toNat).flatMap fun w => toLe 4 w.toNat).length
      ∧ stops (.vrq c v h sa aw f1) (k.vrqRecs v aw.toNat f1).bytes.length
      ∧ (k.copyBusy = none → stops (.cpstart c h sa) 64)
      ∧ (∀ q, k.wrQueue = some q → ends s (.qwr c h sa sb f1) ((k.s sa).toNat + k.wrPart) ((k.s sb).toNat - k.wrPart))
      ∧ ∀ q slab j p i, k.rdQueue = some q → slabQueue q.toNat = some (slab, j) → s.currentPkt c q.toNat = some (p, i) →
          let d := (p.bytes.drop p.pos).take ((k.s sb).toNat - k.rdPart.1)
          d ≠ [] → ends (s.poolRead (slab + 1) q.toNat (badIn p.bad p.pos d.length)).1 (.qrd c h sa sb)
            ((k.s sa).toNat + k.rdPart.1) d.length

/-- LDL, WLOAD, WROW, WSCALE, PASS, ACCLD and VLD take what the larder delivers, or are held by an uncorrectable word.
On a core that issues, through an entry that allows the access: when the larder delivers the bytes, each instruction
ends with them in its destination (register, shadow plane, row, scales, accumulator entry, vector register) and steps;
the shadow plane also keeps where its record lay, and the rows written since (R381); when a word is uncorrectable the
core stalls on the held access and nothing else is written. Vector and array instructions of a sampled tile are
recorded. A WFMT of 5 to 7 is a program fault. -/
def Obligations.LarderReadersComplete : Prop :=
  ∀ (s : State) (c : SiteNo) (h : BitVec 6) (sa sb : BitVec 4) (vd : BitVec 5) (wfmt : BitVec 3) (aw : BitVec 2)
    (e : BitVec 6) (add : Bool), s.coreReady c = true →
    let k := s.cl c
    let x := k.s sa
    let y := k.s sb
    let readsAt (i : Instr) (n : Nat) (put : Nat → Nat → Cluster → List Byte → Cluster) : Prop :=
      ∀ t a, s.handleAt c h x.toNat n = .at_ t a →
        (∀ s' d, s.larRead t a n = (s', some d) → exec i s = .next (s'.setCl c (put t a (s'.cl c) d).advance))
        ∧ (∀ s', s.larRead t a n = (s', none) → exec i s = .next (s'.setCl c { s'.cl c with stall := some .heldAccess }))
    let reads (i : Instr) (n : Nat) (put : Cluster → List Byte → Cluster) : Prop := readsAt i n fun _ _ => put
    reads (.ldl c h sa sb) 4 (fun k d => k.setS sb (BitVec.ofNat 32 (ofLe d)))
    ∧ (wfmt.toNat < 5 →
        readsAt (.wload c h sa wfmt) (128 * rowBytes wfmt.toNat + 1024)
            (fun t a k d =>
              let k := k.loadPlane wfmt.toNat d
              { k with shadow := { k.shadow with src := some (t, a, wfmt.toNat) } }.record (.wload c h sa wfmt) [x] d)
        ∧ reads (.wrow c h sa sb wfmt) (rowBytes wfmt.toNat)
            (fun k d => (k.loadRow wfmt.toNat (y.toNat % 128) d).record (.wrow c h sa sb wfmt) [x, y] d))
    ∧ (5 ≤ wfmt.toNat → exec (.wload c h sa wfmt) s = .next (s.progFault c 0)
        ∧ exec (.wrow c h sa sb wfmt) s = .next (s.progFault c 0))
    ∧ reads (.wscale c h sa) 1024 (fun k d => (k.loadScale d).record (.wscale c h sa) [x] d)
    ∧ reads (.pass c h sa aw e add) (4 * recBytes aw.toNat)
        (fun k d => (k.pass aw.toNat e.toNat add d).record (.pass c h sa aw e add) [x] d)
    ∧ reads (.accld c h sa sb) 1088 (fun k d => (k.loadImage (y.toNat % 64) d).record (.accld c h sa sb) [x, y] d)
    ∧ reads (.vld c vd h sa) 256 (fun k d => (k.setV vd.toNat (wordsOf 64 d)).record (.vld c vd h sa) [x] d)

/-- STL, ACCST, VST and VRQ write their bytes to the larder, or are held by an uncorrectable word. On a core that
issues, through an entry that allows the access: when the write is made, STL has stored its register, ACCST the image
of the entry with the readout that follows, VST the 64 lanes little-endian, VRQ its two records with their counts, and
the instruction steps; when a word that must be read first is uncorrectable the core stalls on the held access. -/
def Obligations.LarderWritersComplete : Prop :=
  ∀ (s : State) (c : SiteNo) (h : BitVec 6) (sa sb : BitVec 4) (v : BitVec 5) (aw : BitVec 2) (clr sig outl : Bool),
    s.coreReady c = true →
    let k := s.cl c
    let x := k.s sa
    let e := (k.s sb).toNat % 64
    let r := k.vrqRecs v aw.toNat outl
    let writes (i : Instr) (d : List Byte) (put : Cluster → Cluster) : Prop :=
      ∀ t a, s.handleAt c h x.toNat d.length = .at_ t a →
        (∀ s', s.larWrite t a d = (s', true) → exec i s = .next (s'.setCl c (put (s'.cl c)).advance))
        ∧ (∀ s', s.larWrite t a d = (s', false) → exec i s = .next (s'.setCl c { s'.cl c with stall := some .heldAccess }))
    writes (.stl c h sa sb) (toLe 4 (k.s sb).toNat) id
    ∧ writes (.accst c h sa sb clr sig) (k.image e)
        (fun k' => (k'.readout e clr sig).record (.accst c h sa sb clr sig) [x, k.s sb] [])
    ∧ writes (.vst c v h sa) ((k.v v.toNat).flatMap fun w => toLe 4 w.toNat) (fun k' => k'.record (.vst c v h sa) [x] [])
    ∧ writes (.vrq c v h sa aw outl) r.bytes (fun k' => (k'.countRq r).record (.vrq c v h sa aw outl) [x] [])

/-- A larder write stores its bytes, and every other byte of every larder and slice reads as before. In a canonical
state, for a write that lies inside a larder, touches powered groups only and no word with a stored error: it is made,
every byte of its range reads the data written, and every other byte of that larder, of every other larder and of
every slice reads as before. This is the memory frame of STL, ACCST, VST and VRQ, whose address and data
LarderWritersComplete gives. -/
def Obligations.LarderStoreTouchesItsBytesOnly : Prop :=
  ∀ (s : State) (site addr : Nat) (d : List Byte), s.canon = true → addr + d.length ≤ larSpan →
    (∀ g ∈ groupsOf addr d.length, s.groupIsOn site g = true) → s.larErrs site (addr / 8 * 8) (d.length + 14) = [] →
    (s.larWrite site addr d).2 = true
    ∧ ∀ t, (s.larWrite site addr d).1 = t →
        (∀ r a, t.celByte r a = s.celByte r a)
        ∧ ∀ site' a, a < larSpan → t.larByte site' a =
            if site' = site ∧ addr ≤ a ∧ a < addr + d.length then d.getD (a - addr) 0 else s.larByte site' a

/-- A read of one larder word with a single-bit error delivers the corrected data, counts, records the address and
queues a write-back. In a canonical state, for a read that touches powered groups only, where exactly one word of the
range holds a stored error, of one bit: the read delivers the bytes as they were written, the site's RGN_LARCE count
is one more (saturating), RGN_LARCEADDR holds the word's address, the word is queued for write-back as it was
delivered (log entry 136), and no report has reached the fault intake. The model has no latencies, so that none is
added is not a clause. -/
def Obligations.CorrectedLarderRead : Prop :=
  ∀ (s : State) (site addr n w : Nat) (p : BitVec 72), s.canon = true → w < larWords →
    (∀ g ∈ groupsOf addr n, s.groupIsOn site g = true) → s.larErrs site addr n = [(w, p)] → ones 72 p = 1 →
    ∃ t, s.larRead site addr n = (t, some ((List.range n).map fun i => s.larByte site (addr + i)))
      ∧ t.regF (Reg.RGN_LARCE site) 0 16 = min 65535 (s.regF (Reg.RGN_LARCE site) 0 16 + 1)
      ∧ t.reg (Reg.RGN_LARCEADDR site) = BitVec.ofNat 32 (8 * w)
      ∧ t.clusters = Tab.set {} s.clusters site { s.cl site with
          writeBack := ((s.cl site).writeBack.filter fun e => e.1 != w) ++ [(w, 0)] }
      ∧ t.resil.intake = s.resil.intake ∧ SameBytes s t

/-- A larder read without stored errors delivers what was written and changes nothing but conflict counts; one with a
double-bit error is held and reported. In a canonical state and with its groups powered, a read of words without
stored errors delivers the bytes as written and changes nothing but the conflict counts of the banks (what arbitration
adds to them is free, log entry 5). If exactly one word of the range holds an error, of two bits, nothing is
delivered, the word is reported to the fault intake and counted, and every byte reads as before. -/
def Obligations.LarderReadsDeliverOrHold : Prop :=
  ∀ (s : State) (site addr n : Nat), s.canon = true → (∀ g ∈ groupsOf addr n, s.groupIsOn site g = true) →
    (s.larErrs site addr n = [] →
      ∃ t, s.larRead site addr n = (t, some ((List.range n).map fun i => s.larByte site (addr + i)))
        ∧ { t with conflicts := s.conflicts, freeCtr := s.freeCtr } = s)
    ∧ ∀ w p, s.larErrs site addr n = [(w, p)] → ones 72 p = 2 →
      ∃ t, s.larRead site addr n = (t, none)
        ∧ t.resil.intake = s.resil.intake ++ [.larderUE (Fin.ofNat 13824 site) (BitVec.ofNat 19 w)]
        ∧ t.regF (Reg.RGN_LARUE site) 0 16 = min 65535 (s.regF (Reg.RGN_LARUE site) 0 16 + 1) ∧ SameBytes s t

/-- An access to a bank group that is off powers it on with zeroed contents and sets WOKE. In a canonical state, after
the wake that an access causes, every group that the access touches is on. A group that was off reads zero in every
byte and has its WOKE bit set; a byte of a group that was on, or of another site, reads as before, and no slice byte
changes. -/
def Obligations.GroupsWakeOnAccess : Prop :=
  ∀ (s : State) (site addr n : Nat), s.canon = true → addr + n ≤ larSpan →
    let t := s.wakeGroups site addr n
    (∀ g ∈ groupsOf addr n, t.groupIsOn site g = true)
    ∧ (∀ g ∈ groupsOf addr n, s.groupIsOn site g = false →
        tst (t.reg (Reg.RGN_LARPWR site)) (12 + g) = true ∧ ∀ a, a / 2 ^ 20 = g → t.larByte site a = 0)
    ∧ (∀ a, a < larSpan → (a / 2 ^ 20 ∉ groupsOf addr n ∨ s.groupIsOn site (a / 2 ^ 20) = true) →
        t.larByte site a = s.larByte site a)
    ∧ (∀ site' a, site' ≠ site → a < larSpan → t.larByte site' a = s.larByte site' a)
    ∧ ∀ r a, t.celByte r a = s.celByte r a

/-- WSWAP, ACCRD and ACCCLR complete inside the cluster. On a core that issues: WSWAP exchanges the planes; ACCRD
copies the entry's columns to the four vector registers of its group, folds the entry image into SIG when its SIG bit
is set, and with CLR adds the saturated and NaN columns to the counts and clears the entry; ACCCLR clears an entry
without counting. Each steps and changes nothing outside the cluster. -/
def Obligations.AccumulatorInstructions : Prop :=
  ∀ (s : State) (c : SiteNo) (e : BitVec 6) (g : BitVec 3) (clr sig : Bool), s.coreReady c = true →
    let k := s.cl c
    let copied := { k with vreg := Tab.setList 0 k.vreg (256 * g.toNat) (k.entry e.toNat) }
    let folded := if sig then { copied with sig := crcFold k.sig (k.image e.toNat) } else copied
    let zero (x : Cluster) := x.setEntry e.toNat (List.replicate 256 0) 0 0
    let cleared := if clr then
        zero ((folded.addSat (ones 256 (Tab.get 0 k.accSat e.toNat))).addNan (ones 256 (Tab.get 0 k.accNan e.toNat)))
      else folded
    exec (.wswap c) s
      = .next (s.setCl c ({ k with active := k.shadow, shadow := k.active }.record (.wswap c) [] []).advance)
    ∧ exec (.accrd c e g clr sig) s = .next (s.setCl c (cleared.record (.accrd c e g clr sig) [] []).advance)
    ∧ exec (.accclr c e) s = .next (s.setCl c ((zero k).record (.accclr c e) [] []).advance)

/-- Weights load as their signed values, and a block sum is the exact sum of products, with outliers in place of
elements. A row record of a format (WFMT 0 to 4) holds 256 weights, and weight i is the signed value of its field:
bytes for W8, nibbles for W4, the low three bits of a nibble for W3, two bits for W2, lower index in lower bits; for
W1 a set bit is 1 and a clear bit is −1. For an activation record of 32 elements, every column of the block sum is the
sum over the 32 rows of weight times element, an outlier position counting 0, plus the sum over the outliers of weight
times outlier value; outlier positions lie within the block. In A1 sign mode it is twice that sum less the column's
stored sum of weights. -/
def Obligations.WeightsAndBlockSumsAreExact : Prop :=
  (∀ (d : List Byte),
    let bits (i n : Nat) : BitVec n := BitVec.ofNat n (ofLe d / 2 ^ i)
    (d.length = 32 → rowWeights 0 d = (List.range 256).map fun i => if bits i 1 = 1 then (1 : Byte) else 0xFF)
    ∧ (d.length = 64 → rowWeights 1 d = (List.range 256).map fun i => (bits (2 * i) 2).signExtend 8)
    ∧ (d.length = 128 → rowWeights 2 d = (List.range 256).map fun i => (bits (4 * i) 3).signExtend 8)
    ∧ (d.length = 128 → rowWeights 3 d = (List.range 256).map fun i => (bits (4 * i) 4).signExtend 8)
    ∧ (d.length = 256 → rowWeights 4 d = d))
  ∧ ∀ (p : Plane) (b col : Nat) (a : ActRec), b < 4 → col < 256 → Tab.wf 0 p.w = true → a.elems.length = 32 →
    (∀ o ∈ a.outl, o.1 < 32) →
    let w (i : Nat) : Int := (Tab.get 0 p.w ((32 * b + i) * 256 + col)).toInt
    let x (i : Nat) : Int := if a.outl.any (fun o => o.1 == i) then 0 else a.elems.getD i 0
    let exact := ((List.range 32).map fun i => w i * x i).sum + (a.outl.map fun o => w o.1 * o.2).sum
    (blockSum p b false a)[col]? = some exact
    ∧ ∃ sw : BitVec 13, (Tab.getList 0 p.sumW (b * 256) 256)[col]? = some sw
        ∧ (blockSum p b true a)[col]? = some (2 * exact - sw.toInt)

/-- A term that is shifted down is the nearest integer, ties to even; one shifted up is clamped to 32 bits. The first
part: the rounded quotient differs from the exact one by at most half a unit, and is even where it differs by exactly
half. The second part gives the term of a block sum for scale bytes that are no NaN: with a shift d from 0 up it is
the product with a power of two clamped to 32 bits, and SAT is reported exactly when the clamp changes it; with d from
−31 to −1 it is that rounded quotient; below it is 0. A term that is 0 while the sum is not counts as a shift
underflow. A scale byte of 0xFF gives 0 with NaN and no other count. F never exceeds 508. A column takes a term by
adding it: a clamped term counts as a saturation, NaN sets the column's NaN bit, and an underflow counts one. -/
def Obligations.TermsRoundToNearestEven : Prop :=
  (∀ (v : Int) (k : Nat), 0 < k →
    2 * (divRne v k * 2 ^ k - v).natAbs ≤ 2 ^ k ∧ (2 * (divRne v k * 2 ^ k - v).natAbs = 2 ^ k → divRne v k % 2 = 0))
  ∧ (∀ (f : Nat) (ew ea : Byte) (v : Int),
      let d : Int := ew.toNat + ea.toNat - f
      let t := blockTerm f ew ea v
      (ew = 0xFF ∨ ea = 0xFF → t.t = 0 ∧ t.nan = true ∧ t.sat = false ∧ t.ufl = false)
      ∧ (ew ≠ 0xFF → ea ≠ 0xFF → t.nan = false
          ∧ (0 ≤ d → t.t = max (-2 ^ 31) (min (2 ^ 31 - 1) (v * 2 ^ d.toNat))
              ∧ (t.sat = true ↔ (v * 2 ^ d.toNat < -2 ^ 31 ∨ 2 ^ 31 - 1 < v * 2 ^ d.toNat)))
          ∧ (-31 ≤ d → d < 0 → t.t = divRne v (-d).toNat ∧ t.sat = false)
          ∧ (d < -31 → t.t = 0 ∧ t.sat = false)
          ∧ (t.ufl = true ↔ t.t = 0 ∧ v ≠ 0)))
  ∧ (∀ k : Cluster, k.f ≤ 508)
  ∧ ∀ (a : ColAcc) (t : Term),
      (a.add t).v = max (-2 ^ 31) (min (2 ^ 31 - 1) (a.v + t.t))
      ∧ ((a.add t).sat = true ↔ a.sat = true ∨ t.sat = true ∨ a.v + t.t < -2 ^ 31 ∨ 2 ^ 31 - 1 < a.v + t.t)
      ∧ ((a.add t).nan = true ↔ a.nan = true ∨ t.nan = true)
      ∧ (a.add t).ufl = a.ufl + (if t.ufl then 1 else 0)

/-- The vector instructions that work lane by lane complete inside the cluster, or are program faults. On a core that
issues, each instruction with a good T field ends with vd holding the operation of every lane in the operand type of
T, NaNs and infinities made from finite inputs counted, and nothing changed outside the cluster. A T of 2 or 3 is a
program fault, except for F2I48, I48F and IADD, which ignore T; an F2I48 with vd = v31 and an I48F with va = v31 are
program faults. A sampled tile records the instruction. -/
def Obligations.VectorLaneInstructions : Prop :=
  ∀ (s : State) (c : SiteNo) (vd va vb vc : BitVec 5) (t : BitVec 2), s.coreReady c = true →
    let k := s.cl c
    let ends (bad : Bool) (i : Instr) (k' : Cluster) : Prop :=
      exec i s = .next (if bad then s.progFault c 0 else s.setCl c (k'.record i [] []).advance)
    let b := decide (t.toNat ≥ 2)
    ends b (.fadd c vd va vb t) (k.lane2 t vd va vb fAdd) ∧ ends b (.fsub c vd va vb t) (k.lane2 t vd va vb fSub)
    ∧ ends b (.fmul c vd va vb t) (k.lane2 t vd va vb fMul) ∧ ends b (.ffma c vd va vb vc t) (k.lane3 t vd va vb vc fFma)
    ∧ ends b (.fmax c vd va vb t) (k.lane2 t vd va vb fMax) ∧ ends b (.fmin c vd va vb t) (k.lane2 t vd va vb fMin)
    ∧ ends b (.fabs c vd va t) (k.lane1 t vd va fAbs) ∧ ends b (.fneg c vd va t) (k.lane1 t vd va fNeg)
    ∧ ends b (.fcmplt c vd va vb t) (k.fcmplt t vd va vb) ∧ ends b (.fsel c vd va vb vc t) (k.fsel t vd va vb vc)
    ∧ ends b (.fscale c vd va vb t) (k.fscale t vd va vb) ∧ ends b (.i2f c vd va t) (k.i2f t vd va)
    ∧ ends (vd == 31) (.f2i48 c vd va vb t) (k.f2i48 vd va vb) ∧ ends (va == 31) (.i48f c vd va t) (k.i48f vd va)
    ∧ ends false (.iadd c vd va vb t) (k.iadd vd va vb) ∧ ends b (.sqrt c vd va t) (k.lane1 t vd va fSqrt)
    ∧ ends b (.recip c vd va t) (k.lane1 t vd va fRecip) ∧ ends b (.rsqrt c vd va t) (k.lane1 t vd va fRsqrt)
    ∧ ends b (.exp2 c vd va t) (k.lane1 t vd va fExp2) ∧ ends b (.log2 c vd va t) (k.lane1 t vd va fLog2)
    ∧ ends b (.tanh c vd va t) (k.lane1 t vd va fTanh) ∧ ends b (.sigmoid c vd va t) (k.lane1 t vd va fSigmoid)
    ∧ ends b (.erf c vd va t) (k.lane1 t vd va fErf) ∧ ends b (.vred c vd va t) (k.vreduce t vd va fAdd)
    ∧ ends b (.vredmax c vd va t) (k.vreduce t vd va fMax)

/-- Laws of the lane arithmetic: canonical NaNs, symmetric operations, order of zeros, exact small integers. FADD,
FMUL, FMAX and FMIN do not depend on the order of their operands. Whenever FADD, FSUB, FMUL, FMAX, FMIN, FABS or FNEG
gives a NaN it is 0x7FC0_0000. FMAX and FMIN order −0 below +0. FSUB of a number and itself is +0 when it is finite.
An integer of at most 24 bits converts to binary32 and back to 48 bits unchanged; a NaN converts to 0 and infinities
to the ends of the 48-bit range. -/
def Obligations.FloatArithmeticLaws : Prop :=
  (∀ x y : Word, fAdd x y = fAdd y x ∧ fMul x y = fMul y x ∧ fMax x y = fMax y x ∧ fMin x y = fMin y x)
  ∧ (∀ x y : Word, ∀ r ∈ [fAdd x y, fSub x y, fMul x y, fMax x y, fMin x y, fAbs x, fNeg x],
      isNan32 r = true → r = 0x7FC00000)
  ∧ fMax 0x80000000 0 = 0 ∧ fMin 0x80000000 0 = 0x80000000 ∧ fMax 0 0x80000000 = 0 ∧ fMin 0 0x80000000 = 0x80000000
  ∧ (∀ x : Word, finite32 x = true → fSub x x = 0)
  ∧ (∀ v : Int, -2 ^ 24 ≤ v → v ≤ 2 ^ 24 → toInt48 (intToF v) 0 = v)
  ∧ (∀ (x : Word) (k : Int), isNan32 x = true → toInt48 x k = 0)
  ∧ ∀ k : Int, toInt48 0x7F800000 k = 2 ^ 47 - 1 ∧ toInt48 0xFF800000 k = -2 ^ 47

/-- A requantised block is one record of its format. The record that VRQ forms of 32 values has the length of its
format's block record (12, 16, 24 or 40 bytes for A1, A2, A4 and A8), carries at most two outliers, none in A1 and A8
or with OUTL clear, and its count byte says how many. -/
def Obligations.RequantisedRecordsAreWellFormed : Prop :=
  ∀ (aw : Nat) (outl sgn : Bool) (sc : Byte) (xs : List Word), aw < 4 → xs.length = 32 →
    let r := requant aw outl sgn sc xs
    r.bytes.length = 4 * 2 ^ aw + 8 ∧ r.outliers ≤ 2 ∧ (aw = 0 ∨ aw = 3 ∨ outl = false → r.outliers = 0)
    ∧ r.bytes[4 * 2 ^ aw + 1]? = some (BitVec.ofNat 8 r.outliers)

/-- The sum of a tree's contributions does not depend on the order in which they arrive. Adding the same vectors in
any order gives the same vector, and element j of it is the wrapping 64-bit sum of the elements j of those long enough
to have one. -/
def Obligations.ReductionSumsIgnoreOrder : Prop :=
  ∀ (l l' : List (List DWord)), List.Perm l l' →
    l.foldl addVec [] = l'.foldl addVec []
    ∧ ∀ (j : Nat) (x : DWord), (l.foldl addVec [])[j]? = some x → x = ((l.filterMap fun (v : List DWord) => v[j]?).foldl (· + ·) 0)

/-- FASTART, FAWAIT, FAFREE, CPSTART, CPWAIT and FENCE complete, or stall for what they wait for. On a core that
issues: FASTART (its empty list for length 0 and the copy of the handle table: log entry 12, DEDUCED) stalls behind an
unfinished list and is U4 on a released entry; with no list unfinished, a buffer of length 0 starts the engine on an
empty list and one of 1 to 63 bytes is U1. Of a longer buffer the header is read from the engine's own larder: the
engine starts with its own copy of the handle table, the header's ENTRIES, PITCHES, CREDITS and SETH0 to SETH3, and
nothing filled or freed; then it reads the first entry, if there is one (a list without entries has none, one whose
buffer ends before the entry is U1, an entry whose PITCH is not below PITCHES ends the list). A header or an entry
with an uncorrectable word holds the engine, and the core steps all the same. FAWAIT steps when the engine has filled
the pitch named and stalls otherwise. FAFREE frees the oldest filled pitch if there is one. CPSTART stalls while the
copy engine is busy; otherwise, when the 64 bytes at h + sa are delivered, the COPY they describe is run with the
engine busy for the program, and the core steps; a COPY that meets an uncorrectable word is held, and the core still
steps; an undefined case of the COPY is that of the instruction. CPWAIT steps while the copy engine is idle and FENCE
while no COPY of the program runs; each stalls otherwise. That FENCE does not wait for fills is log entry 135 (DESIGN
CHOICE). -/
def Obligations.EngineInstructions : Prop :=
  ∀ (s : State) (c : SiteNo) (h : BitVec 6) (sa : BitVec 4), s.coreReady c = true →
    let k := s.cl c
    let q := (k.s sa).toNat
    let v := Tab.get 0 k.handles h.toNat
    let len := v.toNat / 2 ^ 22 % 2 ^ 23
    let ends (k' : Cluster) : Res := .next (s.setCl c k'.advance)
    let stalls (w : Stall) : Res := .next (s.setCl c { k with stall := some w })
    let list := v.toNat % 2 ^ 22
    let free : Prop := s.moreEntries c = false ∧ v.getLsbD 62 = true
    let steps (x : State) : Res := .next (x.setCl c (x.cl c).advance)
    let engine (x : State) (fa : FetchAhead) : State := x.setCl c { x.cl c with fa := { fa with handles := (x.cl c).handles } }
    (free → len = 0 → exec (.fastart c h) s = ends { k with fa := { running := true, listAddr := list } })
    ∧ (∀ x, free → 64 ≤ len → s.larRead c list 64 = (x, none) → exec (.fastart c h) s
        = steps (engine x { running := true, listAddr := list, listLen := len, held := true }))
    ∧ (∀ x b, s.canon = true → free → 64 ≤ len → s.larRead c list 64 = (x, some b) →
        let y := engine x { running := true, listAddr := list, listLen := len, entries := min 131071 (leAt b 0 4)
                            pitches := leAt b 4 2, credits := if leAt b 6 1 % 8 = 0 then 1 else min 4 (leAt b 6 1 % 8)
                            sets := (List.range 4).map fun j => leAt b (8 + j) 1 % 64 }
        let first (z : State) (held : Bool) (e : Option (List Byte)) : State :=
          z.setCl c { z.cl c with fa := { (z.cl c).fa with held := held, cur := e } }
        (leAt b 0 4 = 0 → exec (.fastart c h) s = steps (first y false none))
        ∧ (leAt b 0 4 ≠ 0 → len < 96 → exec (.fastart c h) s = .fault (.undefinedCase .u1))
        ∧ (leAt b 0 4 ≠ 0 → 96 ≤ len → ∀ z, y.larRead c (list + 64) 32 = (z, none) →
            exec (.fastart c h) s = steps (first z true none))
        ∧ (leAt b 0 4 ≠ 0 → 96 ≤ len → ∀ z e, y.larRead c (list + 64) 32 = (z, some e) →
            exec (.fastart c h) s = steps (first z (z.cl c).fa.held (if (z.cl c).fa.pitches ≤ leAt e 0 2 then none else some e))))
    ∧ (s.moreEntries c = true → exec (.fastart c h) s = stalls .fastart)
    ∧ (s.moreEntries c = false → v.getLsbD 62 = false → exec (.fastart c h) s = .fault (.undefinedCase .u4))
    ∧ (s.moreEntries c = false → v.getLsbD 62 = true → 0 < len → len < 64 → exec (.fastart c h) s = .fault (.undefinedCase .u1))
    ∧ (q < k.fa.filled → exec (.fawait c sa) s = ends k)
    ∧ (k.fa.filled ≤ q → exec (.fawait c sa) s = stalls (.fawait q))
    ∧ (k.fa.freed < k.fa.filled → exec (.fafree c) s = ends { k with fa := { k.fa with freed := k.fa.freed + 1 } })
    ∧ (k.fa.filled ≤ k.fa.freed → exec (.fafree c) s = ends k)
    ∧ (k.copyBusy = none → exec (.cpwait c) s = ends k ∧ exec (.fence c) s = ends k)
    ∧ (k.copyBusy = some .program → exec (.cpwait c) s = stalls .cpwait ∧ exec (.fence c) s = stalls .fence)
    ∧ (∀ r, k.copyBusy = some (.ring r) → exec (.cpwait c) s = stalls .cpwait ∧ exec (.fence c) s = ends k)
    ∧ (k.copyBusy.isSome = true → exec (.cpstart c h sa) s = .next (s.setCl c { k with stall := some .cpstart }))
    ∧ ∀ t a s' d, k.copyBusy = none → s.handleAt c h (k.s sa).toNat 64 = .at_ t a → s.larRead t a 64 = (s', some d) →
      let busy := s'.setCl c { s'.cl c with copyBusy := some .program, copyHeld := false }
      (∀ x, busy.copyRun c d = .ok x → exec (.cpstart c h sa) s = steps x)
      ∧ (∀ x, busy.copyRun c d = .error (.held x) →
          exec (.cpstart c h sa) s = steps (x.setCl c { x.cl c with copyHeld := true }))
      ∧ ∀ u, busy.copyRun c d = .error (.undef u) → exec (.cpstart c h sa) s = .fault (.undefinedCase u)

/-- What a COPY moves: every element of the destination once, from the source index the mode gives, or padding. Of
sizes D, every index below them is listed exactly once, in ascending linear order. An element lies at the nibble
address of R229, a 4-bit one with NIBHI; a transposed source is read with its first two indices exchanged. In PLAIN
and GATHER modes every index of the destination is taken exactly once (in ascending order; transposed in tiles of
512/e indices of d0 and d1, each tile's indices together, for an element width e that R231 can declare). It takes the
logical source element at its index less the offsets when that lies inside the logical source in all four dimensions,
in GATHER mode with the index tensor's value along GDIM; else the padding when PADEN is set, else nothing. A
destination with a zero size gets nothing. In the SCATTER modes every logical source index is taken exactly once, in
ascending order (log entry 124, DEDUCED); it goes to its own index plus the offsets, with the index tensor's value
along GDIM, and is dropped when that falls outside the destination in another dimension, its source unread (log entry
176, a DESIGN CHOICE). Padding is written with PADVAL. -/
def Obligations.CopyPlacesElements : Prop :=
  ∀ (d : CopyD) (v : CopyV) (idx : List Nat),
    let size (k : Nat) : Nat :=
      ixGet (if d.trans then (v.src.d1, v.src.d0, v.src.d2, v.src.d3) else (v.src.d0, v.src.d1, v.src.d2, v.src.d3)) k
    let sizes : Ix := (size 0, size 1, size 2, size 3)
    let dims : Ix := (v.dst.d0, v.dst.d1, v.dst.d2, v.dst.d3)
    let less (j : Ix) : Ix := (j.1 - v.ofs.1, j.2.1 - v.ofs.2.1, j.2.2.1 - v.ofs.2.2.1, j.2.2.2 - v.ofs.2.2.2)
    let plus (i : Ix) : Ix := (i.1 + v.ofs.1, i.2.1 + v.ofs.2.1, i.2.2.1 + v.ofs.2.2.1, i.2.2.2 + v.ofs.2.2.2)
    let linear (D j : Ix) : Nat := j.1 + D.1 * (j.2.1 + D.2.1 * (j.2.2.1 + D.2.2.1 * j.2.2.2))
    let inBody (j : Ix) (k : Nat) : Prop := ixGet v.ofs k ≤ ixGet j k ∧ ixGet j k < ixGet v.ofs k + size k
    let T := 128 / d.e
    let taken := (copyTiles d v).flatten
    (∀ D j : Ix, j ∈ ixAll D ↔ ∀ k < 4, ixGet j k < ixGet D k)
    ∧ (∀ D : Ix, (ixAll D).Pairwise fun a b => linear D a < linear D b)
    ∧ (∀ (w : TView) (e i0 i1 i2 i3 : Nat), 4 * w.nib e (i0, i1, i2, i3)
        = 8 * (w.loc % 2 ^ 35) + (if e = 1 then 4 * (w.loc / 2 ^ 35 % 2) else 0) + 4 * e * (i0 + i1 * w.t1 + i2 * w.t2 + i3 * w.t3))
    ∧ (∀ i : Ix, v.srcNib d i = v.src.nib d.e (if d.trans then (i.2.1, i.1, i.2.2.1, i.2.2.2) else i))
    ∧ (d.mode = 0 → ∀ j : Ix,
        ((∀ k < 4, inBody j k) → bodyOf d v idx j = some (less j)) ∧ ((¬ ∀ k < 4, inBody j k) → bodyOf d v idx j = none))
    ∧ (d.mode = 1 → d.g < 4 → (∀ k < 4, size k ≠ 0) → ∀ (j : Ix) (x : Nat), idx[ixGet j d.g]? = some x →
        ((∀ k < 4, k ≠ d.g → inBody j k) → bodyOf d v idx j = some (ixSet (less j) d.g x))
        ∧ ((¬ ∀ k < 4, k ≠ d.g → inBody j k) → bodyOf d v idx j = none))
    ∧ (2 ≤ d.mode → d.g < 4 → ∀ (i : Ix) (x : Nat), idx[ixGet i d.g]? = some x →
        let j := ixSet (plus i) d.g x
        ((∀ k < 4, k ≠ d.g → ixGet j k < ixGet dims k) → scatterTo d v idx i = some j)
        ∧ ((¬ ∀ k < 4, k ≠ d.g → ixGet j k < ixGet dims k) → scatterTo d v idx i = none))
    ∧ (d.e ∈ [1, 2, 4, 8, 16] →
        taken.Nodup ∧ (∀ j, j ∈ taken ↔ ∀ k < 4, ixGet j k < ixGet dims k)
        ∧ (d.trans = false → taken = ixAll dims)
        ∧ (d.trans = true → ∀ t ∈ copyTiles d v, t ≠ [] ∧ ∀ a ∈ t, ∀ b, b ∈ t ↔
            (a.1 / T = b.1 / T ∧ a.2.1 / T = b.2.1 / T ∧ a.2.2 = b.2.2 ∧ ∀ k < 4, ixGet b k < ixGet dims k)))
    ∧ (d.mode ≤ 1 → copyMoves d v idx = taken.filterMap fun j =>
        match bodyOf d v idx j with
        | some i => some (v.dst.nib d.e j, some (v.srcNib d i))
        | none => if d.paden then some (v.dst.nib d.e j, none) else none)
    ∧ (2 ≤ d.mode → copyMoves d v idx = (ixAll sizes).filterMap fun i =>
        (scatterTo d v idx i).map fun j => (v.dst.nib d.e j, some (v.srcNib d i)))
    ∧ (d.mode ≤ 1 → d.e ∈ [1, 2, 4, 8, 16] → (∃ k < 4, ixGet dims k = 0) → copyMoves d v idx = [])
    ∧ ∀ (a : Nat) (w : Bool) (ms : List Move) (vs : List Nat),
        placed d.pad ((a, none, w) :: ms) vs = (a, d.pad) :: placed d.pad ms vs

/-- HSET, HOWN, HREL and HGET keep the handle table as R131 to R133 say. On a core that issues: HSET of a buffer
inside the larder writes an entry that reads back as valid with that address, length and the cluster's own number as
home, local and near when the buffer lies in the lower half, far otherwise; one that passes the end is U1; one of
length 0 is a valid empty entry (log entry 108, a DESIGN CHOICE). HOWN keeps address and length and sets the home,
remote unless it is the cluster itself; of a released entry it is U4 and of a cluster outside the grid U2. HREL
releases. HGET writes the field selected, 0 of a released entry. Parity of every written entry is even, and each
instruction changes only its entry or register and steps. -/
def Obligations.HandleInstructions : Prop :=
  (∀ (addr len home : Nat) (remote : Bool), addr < 2 ^ 22 → len < 2 ^ 23 → home < 2 ^ 14 →
    let v := mkHandle addr len home remote
    v.toNat % 2 ^ 22 = addr ∧ v.toNat / 2 ^ 22 % 2 ^ 23 = len ∧ v.toNat / 2 ^ 45 % 2 ^ 14 = home
    ∧ v.getLsbD 59 = remote ∧ v.getLsbD 62 = true ∧ ones 64 v % 2 = 0
    ∧ v.toNat / 2 ^ 60 % 4 = (if remote then 2 else if addr + len ≤ 2 ^ 21 then 0 else 1))
  ∧ ∀ (s : State) (c : SiteNo) (h : BitVec 6) (sa sb : BitVec 4) (sel : BitVec 2), s.coreReady c = true →
    let k := s.cl c
    let own := (s.siteCluster c).getD 0
    let a := (k.s sa).toNat % 2 ^ 22
    let n := (k.s sb).toNat % 2 ^ 23
    let m := (k.s sa).toNat % 2 ^ 14
    let v := Tab.get 0 k.handles h.toNat
    let valid := v.getLsbD 62
    let entry (x : DWord) : Res := .next (s.setCl c { k with handles := Tab.set 0 k.handles h.toNat x }.advance)
    (a + n ≤ 2 ^ 22 → exec (.hset c h sa sb) s = entry (mkHandle a n own false))
    ∧ (2 ^ 22 < a + n → exec (.hset c h sa sb) s = .fault (.undefinedCase .u1))
    ∧ (valid = true → m < s.nClusters → exec (.hown c h sa) s
        = entry (mkHandle (v.toNat % 2 ^ 22) (v.toNat / 2 ^ 22 % 2 ^ 23) m (m != own)))
    ∧ (valid = false → exec (.hown c h sa) s = .fault (.undefinedCase .u4))
    ∧ (valid = true → s.nClusters ≤ m → exec (.hown c h sa) s = .fault (.undefinedCase .u2))
    ∧ exec (.hrel c h) s = entry 0
    ∧ exec (.hget c h sb sel) s = .next (s.setCl c (k.setS sb (BitVec.ofNat 32 (if valid = false then 0 else
        [v.toNat % 2 ^ 22, v.toNat / 2 ^ 22 % 2 ^ 23, v.toNat / 2 ^ 45 % 2 ^ 14, v.toNat / 2 ^ 60 % 4].getD sel.toNat 0))).advance)

/-- BAR, BARA, BARW, EFSET, EFCLR, EFWAIT and TIME complete, or stall for their event. On a core that issues, for a
barrier whose entry is good: a member that is not two phases ahead arrives, stalling on the phase for BAR and stepping
for BARA; a member two phases ahead stalls with its arrival held; a cluster that is no member steps with nothing
changed. The arrival travels by the hub of its region and that of its row, in the middle column, to the root in the
middle row; where a router without power stands in the way it is lost, and its phase is noted as one that does not
release. BARW steps when the phase last arrived at has released or it never arrived, and stalls otherwise. A bad entry
is U2. EFSET and EFCLR set the flag at its home, the hub of the region at lx = 8, ly = L div 2, release the cores that
wait for that value, and step; where the way to the home is cut, nothing is set. EFWAIT steps when the flag has its
value and stalls otherwise. A cluster knows phases and flags as the roots and homes hold them, unless a broadcast has
missed its region, which then knows what it last heard (log entry 159). TIME writes the region's count and latches its
high half, or writes the latched half. -/
def Obligations.BarrierAndFlagInstructions : Prop :=
  ∀ (s : State) (c : SiteNo) (b : BitVec 5) (f : BitVec 6) (v : Bool) (sb : BitVec 4), s.coreReady c = true →
    let k := s.cl c
    let n := b.toNat
    let heard := s.syncAt (siteRegion c)
    let known := Tab.get 0 heard.barPhase n
    let ends (k' : Cluster) : Res := .next (s.setCl c k'.advance)
    let stalls (x : State) (w : Stall) : Res := .next (x.setCl c { x.cl c with stall := some w })
    ((∀ e ∈ s.sync.cut, e.1 ≠ siteRegion c) → heard = ⟨s.sync.flags, s.sync.barPhase, s.sync.treeInst⟩)
    ∧ (∀ x l, s.sync.cut = (siteRegion c, x) :: l → heard = x)
    ∧ (s.barSet n = none → ∀ i ∈ [Instr.bar c b, .bara c b, .barw c b], exec i s = .fault (.undefinedCase .u2))
    ∧ (∀ m lc, s.barSet n = some m → s.siteCluster c = some lc →
        let a := s.arrived n lc
        let mid := (m.lx0 + m.lx1) / 2
        let hub (l : Nat) : Option Nat := s.clusterSite (l * 64 + 36)
        let way := s.path 2 c [hub (lc / 64), hub (lc / 1024 * 16 + mid), hub ((m.ly0 + m.ly1) / 2 * 16 + mid)]
        let lost := Tab.get 0 s.sync.barLost n
        let x := { s with sync := { s.sync with
          arrivals := Tab.set 0 s.sync.arrivals (n * 16384 + lc) (a + 1)
          barLost := if way then s.sync.barLost else Tab.set 0 s.sync.barLost n (if lost = 0 then a + 1 else min lost (a + 1)) } }
        (m.has lc = true → a < known + 2 → exec (.bar c b) s = stalls x (.barRelease n a)
            ∧ exec (.bara c b) s = .next (x.setCl c k.advance))
        ∧ (m.has lc = true → known + 2 ≤ a →
            exec (.bar c b) s = stalls s (.barArrive n a) ∧ exec (.bara c b) s = stalls s (.barArrive n a))
        ∧ (m.has lc = false → exec (.bar c b) s = ends k ∧ exec (.bara c b) s = ends k)
        ∧ (a ≤ known → exec (.barw c b) s = ends k)
        ∧ (known < a → exec (.barw c b) s = stalls s (.barRelease n (a - 1))))
    ∧ (∀ m, s.barSet n = some m → s.siteCluster c = none → ∀ i ∈ [Instr.bar c b, .bara c b, .barw c b], exec i s = ends k)
    ∧ (let way := s.path 2 c [s.clusterSite ((s.rowsL / 2 * 16 + 8) * 64 + 36)]
       let x := s.setFlag f.toNat true
       let y := s.setFlag f.toNat false
       (way = true → exec (.efset c f) s = .next (x.setCl c (x.cl c).advance)
          ∧ exec (.efclr c f) s = .next (y.setCl c (y.cl c).advance))
       ∧ (way = false → exec (.efset c f) s = ends k ∧ exec (.efclr c f) s = ends k)
       ∧ (∀ g < 64, x.sync.flags.getLsbD g = (decide (g = f.toNat) || s.sync.flags.getLsbD g)
           ∧ y.sync.flags.getLsbD g = (decide (g ≠ f.toNat) && s.sync.flags.getLsbD g)))
    ∧ (heard.flags.getLsbD f.toNat = v → exec (.efwait c f v) s = ends k)
    ∧ (heard.flags.getLsbD f.toNat ≠ v → exec (.efwait c f v) s = stalls s (.efwait f.toNat v))
    ∧ (let t := s.regionTime (siteRegion c)
       exec (.time c sb false) s = ends ({ k with timeHi := BitVec.ofNat 32 (t.toNat / 2 ^ 32) }.setS sb (BitVec.ofNat 32 t.toNat)))
    ∧ exec (.time c sb true) s = ends (k.setS sb k.timeHi)

/-- CSRR and CSRW read and write the control registers of R120. On a core that issues, CSRR writes each register's
value to rd and steps; CYCLO also latches its high half, with the cycles lost to stalls free (log entry 5); an
unlisted register reads 0. CSRW writes F, the A1 mode bit, the A1 scale and the low half of SIG in their bits, clears
POISON when bit 2 of the value is set, and ignores every register that is read-only or unlisted; a write of SIGHI with
no work tile left writes the high half. -/
def Obligations.ControlRegisterInstructions : Prop :=
  ∀ (s : State) (c : SiteNo) (rd ra : BitVec 4) (csr : BitVec 12), s.coreReady c = true →
    let k := s.cl c
    let x := k.s ra
    let ends (k' : Cluster) : Res := .next (s.setCl c k'.advance)
    let reads (n : BitVec 12) (v : Word) : Prop := exec (.csrr c rd n) s = ends (k.setS rd v)
    reads 0x000 (BitVec.ofNat 32 ((s.siteCluster c).getD 0)) ∧ reads 0x001 k.pitch ∧ reads 0x003 k.cycHi
    ∧ (∃ v : DWord, exec (.csrr c rd 0x002) s
        = .next (s.useFree.setCl c ({ k with cyc := v, cycHi := (v >>> 32).setWidth 32 }.setS rd (v.setWidth 32)).advance))
    ∧ reads 0x010 (k.accexp.setWidth 32) ∧ reads 0x011 (BitVec.ofNat 32 (b2n k.a1sign + 2 * b2n k.check + 4 * b2n k.poison))
    ∧ reads 0x012 (k.a1scale.setWidth 32) ∧ reads 0x020 (k.sig.setWidth 32) ∧ reads 0x021 ((k.sig >>> 32).setWidth 32)
    ∧ reads 0x030 k.accSatCnt ∧ reads 0x031 k.shiftUfl ∧ reads 0x032 k.outliers ∧ reads 0x033 k.outlierOvf
    ∧ reads 0x034 k.scaleNan ∧ reads 0x035 k.vecSpecial ∧ reads 0x040 (k.qstat.setWidth 32)
    ∧ reads 0x041 (BitVec.ofNat 32 (b2n (s.moreEntries c) + 2 * ((k.fa.filled - k.fa.freed) % 8)))
    ∧ reads 0x042 (BitVec.ofNat 32 (b2n k.copyBusy.isSome))
    ∧ (csr.toNat ∉ [0, 1, 2, 3, 0x10, 0x11, 0x12, 0x20, 0x21, 0x30, 0x31, 0x32, 0x33, 0x34, 0x35, 0x40, 0x41, 0x42] → reads csr 0)
    ∧ exec (.csrw c 0x010 ra) s = ends { k with accexp := x.setWidth 9 }
    ∧ exec (.csrw c 0x011 ra) s = ends { k with a1sign := x.getLsbD 0, poison := k.poison && !x.getLsbD 2 }
    ∧ exec (.csrw c 0x012 ra) s = ends { k with a1scale := x.setWidth 8 }
    ∧ exec (.csrw c 0x020 ra) s = ends { k with sig := (k.sig >>> 32 <<< 32) ||| x.setWidth 64 }
    ∧ (k.tiles ≤ k.tile →
        exec (.csrw c 0x021 ra) s = ends { k with sig := (k.sig &&& 0xFFFFFFFF) ||| (x.setWidth 64 <<< 32) })
    ∧ (csr.toNat ∉ [0x10, 0x11, 0x12, 0x20, 0x21] → exec (.csrw c csr ra) s = ends k)

/-- ACCNR and VNR send their values into a tree, stall two instances ahead, or are discarded and counted. On a core
that issues, for a good tree entry: a member that is at most one instance ahead sends its values, sign-extended and
cut to the tree's width (the elements past it count nowhere: log entry 164, a DESIGN CHOICE), to its region hub, where
they wait unless a router without power loses them (log entry 159), counts the contribution, and the instruction
completes, with the readout of ACCRD for ACCNR; a member two instances ahead stalls; a cluster that is no member has
its flits counted in RGN_NETDISC of its own region (log entry 114, a DESIGN CHOICE) and completes. A bad entry is U2;
a VNR with va = v31 is a program fault. -/
def Obligations.TreeContributions : Prop :=
  ∀ (s : State) (c : SiteNo) (e : BitVec 6) (va : BitVec 5) (t : BitVec 8) (clr sig : Bool), s.coreReady c = true →
    (s.tree t.toNat = none → exec (.accnr c e t clr sig) s = .fault (.undefinedCase .u2)
      ∧ (va ≠ 31 → exec (.vnr c va t) s = .fault (.undefinedCase .u2)))
    ∧ exec (.vnr c 31 t) s = .next (s.progFault c 0)
    ∧ ∀ x, s.tree t.toNat = some x →
    let k := s.cl c
    let lc := (s.siteCluster c).getD 16383
    let n := Tab.get 0 s.sync.contrib (t.toNat * 16384 + lc)
    let sent (vals : List Int) : State := { s with sync := { s.sync with
      contrib := Tab.set 0 s.sync.contrib (t.toNat * 16384 + lc) (n + 1)
      msgs := if s.path 0 c [s.clusterSite (lc / 64 * 64 + 36)] then
          s.sync.msgs ++ [⟨t.toNat, n, 1, lc / 64, lc % 64, (vals.take x.width).map (BitVec.ofInt 64)⟩]
        else s.sync.msgs } }
    let member := x.m.has lc
    let vals := (k.entry e.toNat).map (·.toInt)
    let accnr (y : State) : Res :=
      .next (y.setCl c (((y.cl c).readout e.toNat clr sig).record (.accnr c e t clr sig) [] []).advance)
    let vnr (y : State) : Res := .next (y.setCl c ((y.cl c).record (.vnr c va t) [] []).advance)
    let discard (m : Nat) := s.count (Reg.RGN_NETDISC (siteRegion c)) 0 32 m
    let ahead := Tab.get 0 (s.syncAt (siteRegion c)).treeInst t.toNat + 2 ≤ n
    (member = true → ¬ ahead → exec (.accnr c e t clr sig) s = accnr (sent vals))
    ∧ (member = true → ¬ ahead → va ≠ 31 → exec (.vnr c va t) s = vnr (sent (k.pair va)))
    ∧ (member = true → ahead → exec (.accnr c e t clr sig) s = .next (s.setCl c { k with stall := some (.tree t.toNat) })
        ∧ (va ≠ 31 → exec (.vnr c va t) s = .next (s.setCl c { k with stall := some (.tree t.toNat) })))
    ∧ (member = false → exec (.accnr c e t clr sig) s = accnr (discard (vals.length / 8))
        ∧ (va ≠ 31 → exec (.vnr c va t) s = vnr (discard ((k.pair va).length / 8))))

/-- QBIND, QRD, QWR, QDROP and QCNT complete on bound ports, stall, or are program faults. On a core that issues:
QBIND binds a port to a queue of R319, with a window to be read from its start (log entry 160), and is U2 for any
other number. Through a port that is not bound, QRD, QWR, QDROP and QCNT are program faults. QRD of a slab queue
stalls when no packet is visible; else it writes the bytes at hand through its handle, passes them in the packet or
takes the packet out, and steps with QSTAT set, or stalls for the rest with what it has noted (log entry 166). QRD of
an ingest queue in a stream step delivers the next bytes of the window's packet, with END at its end, adds them to the
region's record, and steps; after END, or of a window freed or flushed, it delivers none. QWR reads its bytes and adds
to the packet under way what the slab pool has cells for, stalling with the rest, or all to the staged packets of an
actuation queue (log entry 26, a DESIGN CHOICE, where no cell is left); of a packet that was cut it discards them, up
to the packet's end; on any other queue it only steps. QRD of an ingest queue outside a stream step reports END, and
of a queue without a reader END and TRUNC, with no bytes. QDROP takes the packet that the reader has begun out of a
slab queue, with none begun only steps (log entry 33, DEDUCED), on an ingest queue ends the window for the step, and
on any other only steps. QCNT writes the count register of the bound queue. -/
def Obligations.QueuePortInstructions : Prop :=
  ∀ (s : State) (c : SiteNo) (h : BitVec 6) (sa sb : BitVec 4) (last : Bool), s.coreReady c = true →
    let k := s.cl c
    let q : BitVec 16 := (k.s sa).setWidth 16
    let off := (k.s sa).toNat
    let n := (k.s sb).toNat
    let ends (x : State) (k' : Cluster) : Res := .next (x.setCl c k'.advance)
    let waits (x : State) (k' : Cluster) (w : Stall) : Res := .next (x.setCl c { k' with stall := some w })
    let status (k' : Cluster) (end_ trunc poison : Bool) : Cluster :=
      { k' with qstat := BitVec.ofNat 3 (b2n end_ + 2 * b2n trunc + 4 * b2n poison), poison := k'.poison || poison }
    (queueOk q.toNat = true → exec (.qbind c sa true) s = ends s { k with wrQueue := some q }
        ∧ exec (.qbind c sa false) s = ends s { k with rdQueue := some q, rdPos := 0, rdEnded := false })
    ∧ (queueOk q.toNat = false → ∀ w, exec (.qbind c sa w) s = .fault (.undefinedCase .u2))
    ∧ (k.rdQueue = none → ∀ i ∈ [Instr.qrd c h sa sb, .qdrop c, .qcnt c sb], exec i s = .next (s.progFault c 0))
    ∧ (k.wrQueue = none → exec (.qwr c h sa sb last) s = .next (s.progFault c 0))
    ∧ (∀ rq slab j, k.rdQueue = some rq → slabQueue rq.toNat = some (slab, j) →
        (s.currentPkt c rq.toNat = none → exec (.qrd c h sa sb) s = waits s k .qrd)
        ∧ ∀ p i, s.currentPkt c rq.toNat = some (p, i) →
          let d := (p.bytes.drop p.pos).take (n - k.rdPart.1)
          let full : Prop := p.ended = true ∨ n ≤ k.rdPart.1 + d.length
          let done := p.ended && decide (p.bytes.length ≤ p.pos + d.length)
          let r := s.poolRead (slab + 1) rq.toNat (badIn p.bad p.pos d.length)
          let bad := k.rdPart.2 || r.2
          let moved (x : State) : State :=
            let y := x.setPackets (if done then x.strm.packets.eraseIdx i
              else setAt x.strm.packets i { p with reader := some c.val, pos := p.pos + d.length })
            if done = true ∨ d ≠ [] then y.wakeWriters slab else y
          let result (x : State) : Prop :=
            let y := moved x
            let z := y.setCl c { y.cl c with rdPart := (k.rdPart.1 + d.length, bad) }
            (full → exec (.qrd c h sa sb) s = ends y { status (y.cl c) done (done && p.trunc) bad with rdPart := (0, false) })
            ∧ (¬ full → exec (.qrd c h sa sb) s = waits z (z.cl c) .qrd)
          (d = [] → result r.1)
          ∧ ∀ t a s' ok, d ≠ [] → r.1.handleAt c h (off + k.rdPart.1) d.length = .at_ t a → r.1.larWrite t a d = (s', ok) →
              (ok = true → result s') ∧ (ok = false → exec (.qrd c h sa sb) s = waits s' (s'.cl c) .heldAccess))
    ∧ (∀ rq st win, k.rdQueue = some rq → slabQueue rq.toNat = none → rq.toNat < 0x10 → s.jobs.step = some st →
        st.window = some win → st.reexec = false →
        let none_ (trunc : Bool) : Prop :=
          let x := s.setCl c (status k true trunc false)
          exec (.qrd c h sa sb) s = ends x { x.cl c with rdEnded := true }
        ((s.strm.wins.find? fun w => w.num == win) = none → none_ true)
        ∧ ∀ w, (s.strm.wins.find? fun w => w.num == win) = some w →
          (rq.toNat ∈ w.cut → none_ true)
          ∧ (rq.toNat ∉ w.cut → k.rdEnded = true → none_ false)
          ∧ (rq.toNat ∉ w.cut → k.rdEnded = false →
              let pkt := ((w.packets.find? fun p => p.1 == rq.toNat).map (·.2)).getD (s.emptyPacket rq.toNat w)
              let d := (pkt.drop k.rdPos).take n
              let done := decide (pkt.length ≤ k.rdPos + d.length)
              let r := s.poolRead 0 rq.toNat (badIn ((w.bad.filter fun b => b.1 == rq.toNat).map (·.2)) k.rdPos d.length)
              let result (x : State) : Prop :=
                let y := x.setCl c (status (x.cl c) done false r.2)
                let z := y.setCl c { y.cl c with rdPos := (y.cl c).rdPos + d.length, rdEnded := done }
                ∀ u, z.heldAppend c w d (b2n done + 4 * b2n r.2) = .ok u → exec (.qrd c h sa sb) s = ends u (u.cl c)
              (d = [] → result r.1)
              ∧ ∀ t a s', d ≠ [] → r.1.handleAt c h off d.length = .at_ t a → r.1.larWrite t a d = (s', true) → result s'))
    ∧ (∀ wq t a s' d, k.wrQueue = some wq → s.handleAt c h (off + k.wrPart) (n - k.wrPart) = .at_ t a →
        s.larRead t a (n - k.wrPart) = (s', some d) →
        (wq.toNat ∈ k.wrDrop → exec (.qwr c h sa sb last) s = ends s'
          { s'.cl c with wrPart := 0, wrDrop := if last then k.wrDrop.filter (· != wq.toNat) else k.wrDrop })
        ∧ (∀ slab j, wq.toNat ∉ k.wrDrop → slabQueue wq.toNat = some (slab, j) →
          let begun := ((openAt s'.strm.packets wq.toNat c).map fun p => p.1.bytes.length).getD 0
          let room := 64 * (16384 - s'.poolCells (slab + 1)) + ((begun + 63) / 64 * 64 - begun)
          (d.length ≤ room → let x := s'.writeSlab c wq.toNat d last
            exec (.qwr c h sa sb last) s = ends x { x.cl c with wrPart := 0 })
          ∧ (room < d.length → let x := s'.writeSlab c wq.toNat (d.take room) false
              let y := x.setCl c { x.cl c with wrPart := (x.cl c).wrPart + room }
              exec (.qwr c h sa sb last) s = waits y (y.cl c) .qwr))
        ∧ (wq.toNat ∉ k.wrDrop → slabQueue wq.toNat = none → 0x10 ≤ wq.toNat → wq.toNat < 0x18 →
          exec (.qwr c h sa sb last) s = ends (s'.writeStaged c wq.toNat d last) (s'.cl c))
        ∧ (wq.toNat ∉ k.wrDrop → slabQueue wq.toNat = none → wq.toNat < 0x10 ∨ 0x18 ≤ wq.toNat →
          exec (.qwr c h sa sb last) s = ends s' (s'.cl c)))
    ∧ (∀ rq, k.rdQueue = some rq → slabQueue rq.toNat = none → rq.toNat < 0x10 →
        exec (.qdrop c) s = ends s { k with rdEnded := true })
    ∧ (∀ rq, k.rdQueue = some rq → slabQueue rq.toNat = none → 0x10 ≤ rq.toNat → exec (.qdrop c) s = ends s k)
    ∧ (∀ rq slab j, k.rdQueue = some rq → slabQueue rq.toNat = some (slab, j) →
        match s.strm.packets.zipIdx.find? (fun p => p.1.queue == rq.toNat && p.1.reader == some c.val) with
        | none => exec (.qdrop c) s = ends s k
        | some (p, i) =>
          let x := ((s.setPackets (s.strm.packets.eraseIdx i)).cutProducers [p]).wakeWriters slab
          exec (.qdrop c) s = ends x (x.cl c))
    ∧ (∀ rq, k.rdQueue = some rq → slabQueue rq.toNat = none →
        (0x10 ≤ rq.toNat → exec (.qrd c h sa sb) s = ends s { k with qstat := 3 })
        ∧ (rq.toNat < 0x10 → (∀ st, s.jobs.step = some st → st.window = none) →
            exec (.qrd c h sa sb) s = ends s { k with qstat := 1 }))
    ∧ ∀ rq, k.rdQueue = some rq → exec (.qcnt c sb) s = ends s (k.setS sb (s.queueCount rq.toNat))

/-- Scrub visits, write-backs, scrub windows, retention and injection complete. A visit where the scrub engines work
(a logical region clocked, a reserve that runs checks) checks the next powered row and moves the pointer past it; at
row 16,383, or where no powered row follows, a pass ends. Where the next powered row lies before the pointer the pass
ends first. A write-back, in a region that is clocked, rewrites the queued words of the first queued row and takes
them from the queue. A scrub window opens, with the region clocked and out of retention, for a logical region that no
grant and no check holds, does not wake or sweep, has not completed a pass in 9 minutes and has scrub enabled, where
it is in BIVOUAC, or its clock is claimed by a watch capture while no restart and no cairn staging holds the grid; a
capture there ends. The groups of a region in BIVOUAC return to retention 20 µs after its last aperture access. A
write of RGN_LARINJ while the unit is stopped keeps its fields and, with ARM set and the group on, inverts the
selected bits; while it is not stopped it is U5. The end of a pass where no powered row follows is log entry 137, the
clock of a window entry 112 and the rewritten word entry 136. -/
def Obligations.LarderUpkeepCommands : Prop :=
  ∀ (s : State) (c : SiteNo) (r : RegionNo) (v : Word),
    let site := c.val
    let rc := siteRegion site
    let n := s.regF (Reg.RGN_LARSCRUB site) 0 14
    (s.scrubs rc = true → tst (s.reg (Reg.RGN_SCRUBINT rc)) 31 = false → ∀ row, s.scrubRow site n = some row →
      (n ≤ row → row = 16383 ∨ s.scrubRow site (row + 1) = none ∨ (∃ m ≤ row, s.scrubRow site (row + 1) = some m) →
        exec (.scrubVisit c) s = .next ((s.scrubCheck site row).passEnd site))
      ∧ (n ≤ row → row ≠ 16383 → (∃ m > row, (s.scrubCheck site row).scrubRow site (row + 1) = some m) →
        exec (.scrubVisit c) s = .next ((s.scrubCheck site row).setRegF (Reg.RGN_LARSCRUB site) 0 14 (row + 1)))
      ∧ (row < n → exec (.scrubVisit c) s
          = .next (if (s.passEnd site).scrubs rc then (s.passEnd site).visitRow site row else s.passEnd site)))
    ∧ (∀ w ws, (s.cl site).writeBack = w :: ws → s.clocked rc = true →
      exec (.scrubWriteBack c) s = .next (((w :: ws).filter fun x => x.1 / 32 == w.1 / 32).foldl (fun s x => s.rewriteWord site x)
        (s.setCl site { s.cl site with writeBack := ws.filter fun x => x.1 / 32 != w.1 / 32 })))
    ∧ ((s.logRegion r).isSome = true →
      s.rstate r = stBivouac ∨ (s.clocked r = true ∧ s.devState ≠ 5 ∧ s.cairnStage ≠ caStaging) → s.regionGranted r = false → (s.rg r).waking = false →
      (∀ x ∈ s.resil.checks, siteRegion x.checker ≠ r.val ∧ x.third.map siteRegion ≠ some r.val) →
      (s.rg r).sweeping = false → (s.rg r).scrubWin = false →
      s.passedRecently r = false → tst (s.reg (Reg.RGN_SCRUBINT r)) 31 = false →
      ∃ t, exec (.scrubWindow r) s = .next t ∧ t = (s.preemptWatch r).openWindow r ∧ (t.rg r).scrubWin = true
        ∧ SameBytes s t ∧ t.clusters = s.clusters)
    ∧ (∀ t0, (s.rg r).aperAt = some t0 → s.rstate r = stBivouac → 2000 ≤ (s.now - t0).toNat →
      exec (.retentionReturn r) s = .next ((((s.setSwitches r false true false).setRetention r true)).updRg r fun g => { g with aperAt := none }))
    ∧ (s.railsOn = true → (s.rg rc).ctlUp = true →
      (s.injStopped rc = false → exec (.larinjArm c v) s = .fault (.undefinedCase .u5))
      ∧ (s.injStopped rc = true →
        let a := s.setReg (Reg.RGN_LARINJ site) (v &&& 0x7FFFFFF)
        exec (.larinjArm c v) s
          = .next (if tst v 27 && a.groupIsOn site (fld v 0 19 / 2 ^ 17) then a.larInject site v else a)))

/-- Refresh, patrol, self-refresh, row remap and injection complete. A refresh due on an ACTIVE slice is issued when
the bank is idle or eight have been postponed, else postponed, and nothing else changes. A patrol visit of a trained
slice that is on checks one 256-byte unit of every channel and moves the pointer on, wrapping with one more pass
counted. A slice of an unclocked region without a request for 10 µs goes from ACTIVE to SELF_REFRESH. A hard row is
remapped and copied when a spare of its bank is left, and retires the region otherwise. A write of RGN_CELINJSYM while
the unit is stopped keeps its fields and, with ARM set, inverts the selected symbols; while it is not stopped it is
U5. -/
def Obligations.CellarUpkeepCommands : Prop :=
  ∀ (s : State) (r : RegionNo) (ch : BitVec 3) (rank : BitVec 2) (bank : BitVec 5) (row : BitVec 15) (idle : Bool) (v : Word),
    let st := s.regF (Reg.RGN_CELSTATE r) 0 2
    let key := rank.toNat * 256 + ch.toNat * 32 + bank.toNat
    let p := Tab.get 0 (s.rg r).postponed key
    let put (x : Nat) : Res := .next (s.setRg r { s.rg r with postponed := Tab.set 0 (s.rg r).postponed key x })
    let u := s.regF (Reg.RGN_CELPATPTR r) 0 24
    let x : CelRow := ⟨ch.toNat, rank.toNat, bank.toNat, row.toNat⟩
    (st = 1 → idle = true ∨ 8 ≤ p → exec (.cellarRefresh r ch rank bank idle) s = put 0)
    ∧ (st = 1 → idle = false → p < 8 → exec (.cellarRefresh r ch rank bank idle) s = put (p + 1))
    ∧ (st ≠ 0 → s.rstate r ≠ stRetired → tst (s.reg (Reg.RGN_CELPATROL r)) 31 = false → u + 1 < 2 ^ 24 →
        exec (.patrolVisit r) s = .next (((List.range 8).foldl (fun s ch => s.patrolUnit r ch u) s).setRegF
          (Reg.RGN_CELPATPTR r) 0 24 (u + 1)))
    ∧ (st ≠ 0 → s.rstate r ≠ stRetired → tst (s.reg (Reg.RGN_CELPATROL r)) 31 = false → u + 1 = 2 ^ 24 →
        let a := ((List.range 8).foldl (fun s ch => s.patrolUnit r ch u) s).setRegF (Reg.RGN_CELPATPTR r) 0 24 0
        let b := a.setRegF (Reg.RGN_CELPATPTR r) 24 8 (a.regF (Reg.RGN_CELPATPTR r) 24 8 + 1)
        exec (.patrolVisit r) s
          = .next (b.setRg r { b.rg r with patLast := (b.rg r).patNow, patNow := [], ueLog := [] }))
    ∧ (st = 1 → s.rstate r ∈ [stDark, stReserve, stRetired] → s.devState ≠ 5 → 1000 ≤ (s.now - (s.rg r).sliceAt).toNat →
        exec (.selfRefreshEntry r) s = .next (s.setRegF (Reg.RGN_CELSTATE r) 0 2 2))
    ∧ (st ≠ 0 → .hardCellar r ch rank bank row ∈ s.attic.todo → exec (.rowRemap r ch rank bank row) s = .next (match s.remapRow r x with
        | some t => t.rewriteRow r x
        | none => s.report (.forced r 7)))
    ∧ (s.railsOn = true → (s.rg r).ctlUp = true →
        (s.injStopped r = false → exec (.celinjsymArm r v) s = .fault (.undefinedCase .u5))
        ∧ (s.injStopped r = true →
          let a := s.setReg (Reg.RGN_CELINJSYM r) (v &&& 0xFF)
          exec (.celinjsymArm r v) s = .next (if tst v 8 then a.celInject r v else a)))

/-- A slice write stores its bytes, and every other byte of every slice and larder reads as before. In a canonical
state, for a write inside a slice that touches no codeword with a stored error: it is made, every byte of its range
reads the data written, and every other byte of that slice, of every other slice and of every larder reads as before.
A read of those bytes then delivers them. -/
def Obligations.CellarStoreTouchesItsBytesOnly : Prop :=
  ∀ (s : State) (r off : Nat) (d : List Byte), s.canon = true → off + d.length ≤ celSpan →
    s.celErrs r (off / 64 * 64) (d.length + 126) = [] →
    (s.celWrite r off d).2 = true
    ∧ ∀ t, (s.celWrite r off d).1 = t →
        (∀ site a, t.larByte site a = s.larByte site a)
        ∧ (∀ r' a, a < celSpan → t.celByte r' a =
            if r' = r ∧ off ≤ a ∧ a < off + d.length then d.getD (a - off) 0 else s.celByte r' a)
        ∧ (t.celRead r off d.length).2 = some d

/-- The cellar code delivers codewords with one bad symbol corrected and holds those with two. For a read of a range
in which exactly one codeword holds a stored error: with one bad symbol the bytes are delivered as they were written;
with two, nothing is delivered, and the codeword is reported to the fault intake. No byte of any slice or larder
changes either way. -/
def Obligations.SymbolCodeCorrectsOneDetectsTwo : Prop :=
  ∀ (s : State) (r off n cw : Nat) (p : BitVec 544), 0 < n → s.celErrs r off n = [(cw, p)] →
    (p ≠ 0 → (∀ i < 68, p.toNat / 2 ^ (8 * i) % 256 ≠ 0 → ∀ j < 68, p.toNat / 2 ^ (8 * j) % 256 ≠ 0 → i = j) →
      ∃ t, s.celRead r off n = (t, some ((List.range n).map fun i => s.celByte r (off + i))) ∧ SameBytes s t
        ∧ t.resil.intake = s.resil.intake)
    ∧ ((∃ i < 68, ∃ j < i, p.toNat / 2 ^ (8 * i) % 256 ≠ 0 ∧ p.toNat / 2 ^ (8 * j) % 256 ≠ 0
          ∧ ∀ m < 68, p.toNat / 2 ^ (8 * m) % 256 ≠ 0 → m = i ∨ m = j) →
      ∃ t, s.celRead r off n = (t, none) ∧ SameBytes s t
        ∧ t.resil.intake = s.resil.intake ++ [.cellarUE (Fin.ofNat 192 r) (BitVec.ofNat 29 cw)])

/-- Fills, load-list faults, copy completions, reduction stalls and the nodes of a tree. PITCH_FILLED of a running
engine that is not held, with a pitch left and a credit, writes the pitch's entries, counts it filled, and lets FAWAIT
of it go on; if the read of the entry after them holds the engine, the pitch is not counted. LOAD_LIST_FAULT of a core
that waits in FAWAIT for a pitch that the list lacks, or with the engine stopped, is reported once. COPY_COMPLETE of a
COPY that is not held idles the engine, releases CPWAIT, FENCE and CPSTART, and completes a ring's descriptor.
REDUCTION_STALL counts and reports. A node of a tree with all its inputs in forwards their sum to the next level and
drops them; the sum arrives where every router of its route is up (else it is lost, log entry 159); the root with
every row in completes the instance at its destination. -/
def Obligations.EngineAndTreeEvents : Prop :=
  ∀ (s : State) (c : SiteNo) (r : RegionNo) (t : BitVec 8) (nd : TreeNode) (x : Tree) (i : Nat),
    let k := s.cl c
    let wakeOnly (y : State) (p : Stall → Bool) (adv : Bool) := y.unstall (fun j w => j == c.val && p w) adv
    (k.fa.running = true → k.fa.held = false → s.clocked (siteRegion c) = true → k.fa.filled < k.fa.pitches →
      k.fa.filled - k.fa.freed < k.fa.credits → ∀ y, State.fillPitch c k.fa.filled (k.fa.entries - k.fa.next) s = .ok y →
        let z := wakeOnly (y.setCl c { y.cl c with fa := { (y.cl c).fa with filled := (y.cl c).fa.filled + 1 } })
          (fun w => decide (w = .fawait k.fa.filled)) true
        ((y.cl c).fa.held = true → exec (.pitchFilled c) s = .next y)
        ∧ ((y.cl c).fa.held = false → exec (.pitchFilled c) s
          = .next (if z.moreEntries c then z else wakeOnly z (fun w => decide (w = .fastart)) false)))
    ∧ (∀ q, k.run = .running → k.stall = some (.fawait q) → (k.fa.running = false ∨ k.fa.pitches ≤ q ∨ k.fa.freed + k.fa.credits ≤ q) →
        .loadList c ∉ s.resil.intake → exec (.loadListFault c) s = .next (s.report (.loadList c)))
    ∧ (k.copyHeld = false →
        let z := wakeOnly (wakeOnly (s.setCl c { k with copyBusy := none })
          (fun w => decide (w = .cpwait) || decide (w = .fence)) true) (fun w => decide (w = .cpstart)) false
        (k.copyBusy = some .program → exec (.copyComplete c) s = .next z)
        ∧ ∀ n, k.copyBusy = some (.ring n) → exec (.copyComplete c) s = .next (z.finish n 0 0 0))
    ∧ ((s.rg r).bulkUp = true →
        exec (.reductionStall r) s = .next ((s.count (Reg.RGN_NETREDST r) 0 16 1).report (.redStall r)))
    ∧ (s.tree t.toNat = some x → (i = Tab.get 0 s.sync.treeInst t.toNat ∨
          (i = Tab.get 0 s.sync.treeInst t.toNat + 1
            ∧ (s.nodeMsgs t.toNat (x.node nd).1 (x.node nd).2.1 (i - 1)).length ≠ (x.node nd).2.2)) →
        let level := (x.node nd).1
        let node := (x.node nd).2.1
        let ms := s.nodeMsgs t.toNat level node i
        ms.length = (x.node nd).2.2 →
        let sum : TreeMsg :=
          if level = 1 then ⟨t.toNat, i, 2, node / 16, node % 16, ms.foldl (fun a m => addVec a m.vals) []⟩
          else ⟨t.toNat, i, 3, 0, node, ms.foldl (fun a m => addVec a m.vals) []⟩
        let goes := (s.nodeSite x level node).elim true fun a => s.path 0 a [s.nodeSite x sum.level sum.node]
        exec (.treeNodeForward t nd) s = .next { s with sync := { s.sync with
          msgs := (s.sync.msgs.filter fun m => !ms.contains m) ++ (if goes then [sum] else []) } })
    ∧ ∀ site y, s.tree t.toNat = some x → s.clusterSite x.dest = some site → i = Tab.get 0 s.sync.treeInst t.toNat →
        let ms := s.nodeMsgs t.toNat 3 0 i
        ms.length = x.m.ly1 + 1 - x.m.ly0 →
        s.completeTree t.toNat x site i (ms.foldl (fun a m => addVec a m.vals) []) = .ok y →
        exec (.treeInstanceComplete t) s = .next y ∧ Tab.get 0 y.sync.treeInst t.toNat = i + 1

/-- A barrier phase releases exactly when every member has arrived, and lets its waiters go on. For a good barrier
entry: when every member of the grid has arrived at the current phase and no arrival of it or of a phase before was
lost, BARRIER_RELEASE releases it, the count of released phases is one more, and no core of a region that the release
reaches waits any longer for it; when some member has not arrived, or an arrival was lost at an unpowered router (log
entry 159), the command changes nothing. In either case no arrival is added or taken away and no byte of memory
changes. -/
def Obligations.BarriersReleaseWhenAllArrived : Prop :=
  ∀ (s : State) (b : BitVec 5) (m : CSet), s.canon = true → s.barSet b.toNat = some m →
    let n := s.released b.toNat
    let lost := Tab.get 0 s.sync.barLost b.toNat
    (lost = 0 ∨ n + 1 < lost → (∀ lc < s.nClusters, m.has lc = true → n < s.arrived b.toNat lc) →
      ∃ t, exec (.barrierRelease b) s = .next t ∧ t.released b.toNat = n + 1
        ∧ (∀ site, t.isCut (siteRegion site) = false → (t.cl site).stall ≠ some (.barRelease b.toNat n))
        ∧ t.sync.arrivals = s.sync.arrivals ∧ SameBytes s t)
    ∧ ((lost ≠ 0 ∧ lost ≤ n + 1) ∨ (∃ lc, lc < s.nClusters ∧ m.has lc = true ∧ s.arrived b.toNat lc ≤ n) → exec (.barrierRelease b) s = .next s)

/-- A time beacon brings every region within two counts of the counter, and no region's time runs backward. A beacon
is sent with the time counter. In a canonical state, the count of a region whose control domain is up is then within
two counts of the counter, or holds at what it showed before, whichever is later; a region whose control domain is
down is unchanged. The error within those two counts is free; the last two counts before the counter wraps are left
out. No byte of memory and no cluster changes. -/
def Obligations.TimeBeaconsSetRegionTime : Prop :=
  ∀ s : State, s.canon = true →
    ∃ t, exec .timeBeacon s = .next t ∧ t.out = s.out ++ [.beacon s.clk.counter] ∧ SameBytes s t ∧ t.clusters = s.clusters
      ∧ ∀ r < 192,
        ((s.rg r).ctlUp = true → s.now.toNat + 2 < 2 ^ 64 →
          ∃ e : Int, -2 ≤ e ∧ e ≤ 2 ∧ ((t.regionTime r).toNat : Int) = max ((s.regionTime r).toNat : Int) (s.now.toNat + e))
        ∧ ((s.rg r).ctlUp = false → t.rg r = s.rg r)

/-- Flit errors, lost router domains, timed-out host accesses and regions that do not quiesce. At a router that is up
and not bypassed, with a neighbour at the port and a wire of the link (640, 96 or 32 by network): a corrected flit is
counted with its network and its wire, and the third of a wire in 24 hours makes the wire hard; an uncorrectable one
is counted, held in the domain's routers, its wire is hard, and it is reported. A router domain that is up and loses
power is down, holds nothing (a bulk domain drops the contributions and sums waiting in the region), and is reported;
its sibling stays, and when that is down too the region's reference loop has lost its lock (log entry 130; the naming
of a hard wire is entry 64, a lost host access entry 125). HOST_ACCESS_TIMEOUT, while a router domain is down or a
restart runs, answers the access with all ones. QUIESCE_TIMEOUT of a restart that has not rebuilt discards what the
region's routers hold and lets the restart go on. -/
def Obligations.NetworkFaultEvents : Prop :=
  ∀ (s : State) (c : SiteNo) (net port : BitVec 2) (wire : BitVec 10) (r : RegionNo) (ctl : Bool) (p : PortNo) (tid : Word)
    (bytes : BitVec 13),
    let rc := siteRegion c
    let n := net.toNat
    (wire.toNat < [640, 96, 32].getD n 0 → s.netUp rc n = true → s.fuses.bypass.contains c.val = false → s.attic.bypass.contains c.val = false →
      (siteBeside c port.toNat).isSome = true →
      (let a := ((s.count (Reg.RGN_NETUE rc) 0 16 1).setRegF (Reg.RGN_NETUE rc) 16 2 n).updRg rc fun g =>
          if n = 0 then { g with heldBulk := true } else { g with heldCtl := true }
       exec (.networkFlitError c net port wire true) s
        = .next ((a.hardWireAt c port.toNat net wire true).report (.flitUE (Fin.ofNat 192 rc) net)))
      ∧ (let a := (s.count (Reg.RGN_NETCE rc) 0 16 1).setRegF (Reg.RGN_NETCE rc) 16 2 n
         let w := wireAt c port.toNat n wire.toNat
         let log := (a.rg rc).wireLog.filter fun e => decide ((s.now - e.2).toNat < day)
         let b := a.updRg rc fun g => { g with wireLog := log ++ [(w, s.now)] }
         exec (.networkFlitError c net port wire false) s
          = .next (if 2 ≤ log.countP (fun e => e.1 == w) then b.hardWireAt c port.toNat net wire false else b)))
    ∧ (s.canon = true → s.netUp r (b2n ctl) = true →
        ∃ t, exec (.routerDomainLoss r ctl) s = .next t ∧ t.netUp r (b2n ctl) = false
          ∧ t.netUp r (b2n (!ctl)) = s.netUp r (b2n (!ctl)) ∧ t.resil.intake = s.resil.intake ++ [.routerLoss r ctl]
          ∧ SameBytes s t ∧ t.clusters = s.clusters
          ∧ t.sync = { s.sync with msgs := s.sync.msgs.filter fun m => ctl || decide (s.msgRegion m ≠ some r.val) }
          ∧ (s.netUp r (b2n (!ctl)) = true → t.regs = s.regs)
          ∧ (s.netUp r (b2n (!ctl)) = false → tst (t.reg (Reg.RGN_PSTATE r)) 3 = false))
    ∧ (s.railsOn = true → ((∃ q < 192, (s.rg q).bulkUp = false ∨ (s.rg q).ctlUp = false) ∨ s.resil.restart.isSome = true) →
        1 ≤ bytes.toNat → bytes.toNat ≤ 4096 →
        exec (.hostAccessTimeout p tid bytes) s = .next (s.answer p tid.toNat 1 0 (List.replicate bytes.toNat 0xFF)))
    ∧ ∀ x, s.resil.restart = some x → x.rebuilt = false →
        exec (.quiesceTimeout r) s = .next (s.updRg r fun g => { g with heldBulk := false, heldCtl := false }).restartGo

/-- Every descriptor type is taken with its own effect, or completes with the status of the check that fails. When the
job engine may take descriptor d of ring n (not one of a stopped rewind), with a the state after taking it: NOP
completes DONE; an unknown TYPE completes with status 6, detail 1; LOAD, STORE, COPY, CAIRN and HANDOFF join the grant
queue with their regions and links; RUN_PLAN with a good header joins it or is held for a tick; SWEEP of free regions
starts and of a held one completes HELD; FENCE records what it awaits; BIND_STREAM replaces the binding of its ring.
An invalid plan handle completes with status 7, detail 0x10. POLICY completes too unless it names an invalid plan; its
effect is in PolicyGroupsApply. The UNIT 0xFFFF of a LOAD is log entry 162, what else names no unit of a COPY entry
176. The regions that a ring COPY claims are log entry 140, the whole grid of a CAIRN entry 53. -/
def Obligations.DescriptorsTaken : Prop :=
  ∀ (s : State) (n : Nat) (i : Word) (d : BitVec 512), s.takeRing = some n → s.nextDesc n = some (i, d) →
    let a := s.takeOut n i d
    let ty := dF d 0 1
    let p := dF d 2 2
    let e := a.planEnt p
    ((a.ring n).rewindStopped && (a.ring n).faultIdx.isSome) = false →
    (ty = 0xB → exec .nop s = .next (a.finish n 0 0 0))
    ∧ (ty = 0 ∨ 0xB < ty → exec .descriptorTypeRefused s = .next (a.finish n 6 1 0))
    ∧ (∀ u, a.peerUnit d = some u →
        (ty = 3 → exec .load s = .next (a.enqueue n [u.region] (transferLinks d)))
        ∧ (ty = 4 → exec .store s = .next (a.enqueue n [u.region] (transferLinks d))))
    ∧ (a.peerUnit d = none → (ty = 3 → exec .load s = .fault (.undefinedCase .u2))
        ∧ (ty = 4 → exec .store s = .fault (.undefinedCase .u2)))
    ∧ (∀ site bu su du, ty = 2 → a.clusterSite (dF d 10 2 % 2 ^ 14) = some site → a.locUnit site (copyD (dBytes d)).block = some bu →
        (copyD (dBytes d)).mode = 0 →
        let v := copyV (a.unitPeek bu ((copyD (dBytes d)).block % 2 ^ 35 / 32 * 32) 96)
        a.locUnit site v.src.loc = some su → a.locUnit site v.dst.loc = some du →
        exec .copy s = .next (a.enqueue n ([siteRegion site, bu.region, su.region, du.region].eraseDups) []))
    ∧ (a.planValid p = false → (ty = 1 → exec .runPlan s = .next (a.finish n 7 0x10 0))
        ∧ (ty = 5 → exec .cairn s = .next (a.finish n 7 0x10 0)) ∧ (ty = 0xA → exec .handoff s = .next (a.finish n 7 0x10 0)))
    ∧ (a.planValid p = true → (ty = 5 → a.columnsOk = true → exec .cairn s = .next (a.enqueue n a.gridRegions []))
        ∧ (ty = 0xA → exec .handoff s = .next (a.enqueue n [] (linksOf (dF d 40 6)))))
    ∧ (∀ r b x, ty = 1 → a.planValid p = true → a.columnsOk = true → a.physRegion e.hreg = some r → e.off + 256 ≤ celSpan →
        a.celRead r e.off 256 = (b, some x) → Hdr.magic ⟨x⟩ = planMagic → Hdr.format ⟨x⟩ = 1 →
        Hdr.grade ⟨x⟩ = b.fuses.grade.toNat → Hdr.lgy ⟨x⟩ = b.rowsL → Hdr.isStream ⟨x⟩ = (b.ring n).bound → b.columnsOk = true →
        Hdr.pitches ⟨x⟩ ≠ 0 →
        exec .runPlan s = .next ((b.setOut n fun o =>
          { o with
            hreg := e.hreg, hoff := e.off, belay := b.regF Reg.GLB_POLICY 0 3, noRaise := tst (b.reg Reg.GLB_POLICY) 9
            cairnInt := (b.reg Reg.GLB_POLCAIRN).toNat, reportOnly := b.jobs.reportOnly.contains p
            alts := (b.jobs.altSet.filter fun z => z.1 == p).map (·.2) }).planTaken n))
    ∧ (let rs := (List.range 192).filter fun r => (dF d 8 24).testBit r && !a.isRetired r
       (ty = 9 → rs.any a.sweepHeld = true → exec .sweep s = .next (a.finish n 4 0x30 0))
       ∧ ∀ b, ty = 9 → rs.any a.sweepHeld = false → foldFlow State.sweepStart a rs = .ok b →
          let c := b.setOut n fun o =>
            { o with prog := .granted, hadGrant := true, tStart := b.now, regions := rs, marginRetire := b.regF Reg.GLB_POLICY 8 1 == 1 }
          let g : State := { c with
            jobs := { c.jobs with grants := c.jobs.grants ++ [n] }, resil := { c.resil with winSwept := [], idleWin := false } }
          exec .sweep s = .next (if rs.any fun r => (g.rg r).sweeping then g else g.finish n 0 0 0))
    ∧ (ty = 8 → (dF d 8 4).testBit 5 = false ∨ a.planValid p = true → ∃ t, exec .policy s = .next t ∧ SameBytes s t)
    ∧ (let wait := (List.range 64).filterMap fun q =>
        if (dF d 8 8).testBit q && q != n then (a.ring q).out.map fun o => (q, o.idx) else none
       ty = 6 → exec .fenceDescriptor s
        = .next (a.setOut n fun o => { o with waitFor := wait, drain := dF d 16 1 % 2 == 1 }).fenceCheck)
    ∧ (let ing := BitVec.ofNat 16 (dF d 8 2)
       let act := BitVec.ofNat 8 (dF d 10 1)
       ty = 7 → dF d 11 1 = 0 → (∀ q < 64, q ≠ n → (a.ring q).ingest &&& ing = 0 ∧ (a.ring q).actuate &&& act = 0) →
        exec .bindStream s = .next ((a.setRing n { a.ring n with ingest := ing, actuate := act }).finish n 0 0 0))

/-- POLICY sets exactly the groups that VALID names, with the cap clamped to 4.8 to 12.0 kW. When a POLICY that names
no invalid plan is taken from a canonical state: the power cap, the cairn interval, the sweep interval, MARGIN_RETIRE
and NO_RAISE take the descriptor's fields when VALID names their group and stay otherwise, the cap never leaving 48 to
120 in 0.1 kW when named; a plan's alternate set is cleared only when asked, and REPORT_ONLY is forced for the plan or
lifted when VALID names the group of the plan, no other plan's changing; the descriptor completes DONE, and no byte of
memory changes. The state it completes in is given whole, by groups; one that names an invalid plan completes with
status 7, detail 0x10. -/
def Obligations.PolicyGroupsApply : Prop :=
  (∀ (s : State) (n : Nat) (i : Word) (d : BitVec 512), s.canon = true → s.takeRing = some n → s.nextDesc n = some (i, d) →
      let a := s.takeOut n i d
      let v := dF d 8 4
      let p := dF d 2 2
      let bits := dF d 13 1
      dF d 0 1 = 8 → ((a.ring n).rewindStopped && (a.ring n).faultIdx.isSome) = false →
      (v.testBit 5 = true → a.planValid p = true) →
      ∃ t, exec .policy s = .next t
        ∧ t.regF Reg.GLB_PWRCAP 0 8 = (if v.testBit 1 then max 48 (min 120 (dF d 14 2)) else a.regF Reg.GLB_PWRCAP 0 8)
        ∧ t.reg Reg.GLB_POLCAIRN = (if v.testBit 2 then BitVec.ofNat 32 (dF d 16 4) else a.reg Reg.GLB_POLCAIRN)
        ∧ t.reg Reg.GLB_POLSWEEP = (if v.testBit 3 then BitVec.ofNat 32 (dF d 20 4) else a.reg Reg.GLB_POLSWEEP)
        ∧ t.regF Reg.GLB_POLICY 8 1 = (if v.testBit 4 then bits % 2 else a.regF Reg.GLB_POLICY 8 1)
        ∧ t.regF Reg.GLB_POLICY 9 1 = (if v.testBit 6 then bits / 8 % 2 else a.regF Reg.GLB_POLICY 9 1)
        ∧ t.jobs.altSet = (if v.testBit 5 && bits / 2 % 2 == 1 then a.jobs.altSet.filter fun z => z.1 != p else a.jobs.altSet)
        ∧ (∀ q, q ∈ t.jobs.reportOnly ↔ if v.testBit 5 = true ∧ q = p then bits / 4 % 2 = 1 else q ∈ a.jobs.reportOnly)
        ∧ (∀ o, (a.ring n).out = some o → ∃ c, (t.ring n).out = some { o with rec_ := some ⟨0, 0, 0, c⟩ })
        ∧ SameBytes s t)
  ∧ ∀ (s : State) (n : Nat) (i : Word) (d : BitVec 512), s.takeRing = some n → s.nextDesc n = some (i, d) → dF d 0 1 = 8 →
    let a := s.takeOut n i d
    let v := dF d 8 4
    let put (k : Nat) (f : State → State) (x : State) : State := if v.testBit k then f x else x
    let rate (x : State) : State := x.setRaised x.raisedLeft
    let plan (x : State) : State :=
      { x with jobs := { x.jobs with
        altSet := if dF d 13 1 / 2 % 2 = 1 then x.jobs.altSet.filter fun z => z.1 != dF d 2 2 else x.jobs.altSet
        reportOnly := x.jobs.reportOnly.filter (· != dF d 2 2) ++ (if dF d 13 1 / 4 % 2 = 1 then [dF d 2 2] else []) } }
    ((a.ring n).rewindStopped && (a.ring n).faultIdx.isSome) = false →
    ((v.testBit 5 = true → a.planValid (dF d 2 2) = true) → exec .policy s = .next (State.finish
      (put 5 plan (put 6 (·.setRegF Reg.GLB_POLICY 9 1 (dF d 13 1 / 8 % 2))
        (put 4 (·.setRegF Reg.GLB_POLICY 8 1 (dF d 13 1 % 2))
          (put 3 (·.setReg Reg.GLB_POLSWEEP (BitVec.ofNat 32 (dF d 20 4)))
            (put 2 (·.setReg Reg.GLB_POLCAIRN (BitVec.ofNat 32 (dF d 16 4)))
              (put 1 (·.setRegF Reg.GLB_PWRCAP 0 8 (max 48 (min 120 (dF d 14 2))))
                (put 0 rate (put 0 (·.setRegF Reg.GLB_POLICY 0 3 (if dF d 12 1 ≤ 5 then dF d 12 1 else 3)) a))))))))
      n 0 0 0))
    ∧ (v.testBit 5 = true → a.planValid (dF d 2 2) = false → exec .policy s = .next (a.finish n 7 0x10 0))

/-- The job gate grants no request that meets a grant in force, but a sweep's, or passes an older one that it meets.
When the gate picks the request of ring n: no granted descriptor that is not a SWEEP shares a region or a link with
it, and every request before it in the order of the queue either has no outstanding descriptor, or is a stream
RUN_PLAN that waits for the end of a restart (R43), or shares no region and no link with it. The order is the tick-
held RUN_PLANs first, then the queue. -/
def Obligations.GrantsNeverOverlap : Prop :=
  ∀ (s : State) (n : Nat) (o : Outst), s.grantable (s.jobs.ahead ++ s.jobs.queue) [] [] = some n → (s.ring n).out = some o →
    (∀ g ∈ s.jobs.grants, ∀ x, (s.ring g).out = some x → typeOf x ≠ 9 →
      (∀ r ∈ x.regions, r ∉ o.regions) ∧ ∀ l ∈ x.links, l ∉ o.links)
    ∧ ∃ before after, s.jobs.ahead ++ s.jobs.queue = before ++ n :: after
      ∧ ∀ q ∈ before, ∀ x, (s.ring q).out = some x → s.afterRewind q x = false → (∀ r ∈ x.regions, r ∉ o.regions) ∧ ∀ l ∈ x.links, l ∉ o.links

/-- Plan directory writes, grants, pitch closes, handoff tags and step releases complete. A write to the directory
entry of a plan, where the block is reachable, releases the plan: it leaves the alternate, report-only and cairn sets,
its binding is dropped and it is stale, and the step and every taken RUN_PLAN of that plan keep what it had. GRANT in
READY or DEGRADED gives the request that the gate picks its grant: a HANDOFF ends LINK_DOWN without a link to its
depot, else binds its plan and sends the depot a write without data, whose acknowledgement completes it (log entry
19); a LOAD that is empty or whose bytes fit its unit, with no sweep in the way, is granted with no byte of memory
touched. PITCH_CLOSE with every cluster in, no check owed and the pitch's own entry in force closes the pitch; the
last pitch, with its table entry and watch record in the slices without stored errors and no handoff or held input,
ends in a state where the step goes on to its checks, the clusters' poison is handed over and cleared (log entry 107),
every fetch-ahead engine is stopped, and no byte has changed but those of the watch record. HANDOFF_TAG_WRITTEN marks
a checked tag done and starts the regions that waited. STEP_RELEASE of a step whose checks have ended and which no
report restarts or fails completes its descriptor with the status of R280, empties the staged packets and marks the
step released; no byte of memory changes. -/
def Obligations.StepsAdvance : Prop :=
  ∀ (s : State) (p : PortNo) (n : Fin 1024) (k : BitVec 2) (v : Word) (entry : Fin 256),
    (s.reach (Reg.GLB_PLANDIR_CTL n) = true → k ≠ 1 →
      let aged := (List.range 64).foldl (fun s r => s.agePlan n r) s
      let kept := aged.updStep fun st => if st.handle = n.val ∧ st.old.isNone then { st with old := some (aged.bindOf n) } else st
      let w := (kept.writeRw (Reg.GLB_PLANDIR_CTL n + 4 * k.toNat) v).unlatch p (Reg.GLB_PLANDIR_CTL n + 4 * k.toNat)
      exec (.glbPlandirWrite p n k v) s = .next { w with jobs := { w.jobs with
        altSet := w.jobs.altSet.filter fun a => a.1 != n.val, reportOnly := w.jobs.reportOnly.filter (· != n.val)
        cairnSet := w.jobs.cairnSet.filter (· != n.val), binds := Tab.set none w.jobs.binds n none
        planStale := if w.jobs.planStale.contains n.val then w.jobs.planStale else w.jobs.planStale ++ [n.val] } })
    ∧ (∀ q o t, s.dev.base = .ready ∨ s.dev.base = .degraded → s.dev.tripped = false →
        s.grantable (s.jobs.ahead ++ s.jobs.queue) [] [] = some q → (s.ring q).out = some o → s.grantOne q o = .ok t →
        exec .grant s = .next t)
    ∧ (∀ q o, s.dev.base = .ready ∨ s.dev.base = .degraded → s.dev.tripped = false →
        s.grantable (s.jobs.ahead ++ s.jobs.queue) [] [] = some q → (s.ring q).out = some o →
        (dF o.desc 0 1 = 0xA → o.regions = [] →
          let g := s.setOut q fun o => { o with prog := .granted, hadGrant := true, tStart := s.now }
          let g : State := { g with
            jobs := { g.jobs with
              grants := g.jobs.grants ++ [q], queue := g.jobs.queue.filter (· != q), ahead := g.jobs.ahead.filter (· != q) }
            resil := { g.resil with winSwept := [], idleWin := false } }
          let up := g.upLinks (linksOf (dF o.desc 40 6)) (dF o.desc 9 1 % 16)
          (up = [] → exec .grant s = .next (g.finish q 8 0x50 0))
          ∧ (up ≠ [] → exec .grant s = .next (g.grantHandoff q o.desc)))
        ∧ (∀ u, dF o.desc 0 1 = 3 → s.peerUnit o.desc = some u →
            transferLen o.desc = 0 ∨ transferOff o.desc + transferLen o.desc ≤ u.span →
            o.regions = [u.region] → (s.rg u.region).sweeping = false →
            (∀ g ∈ s.jobs.grants, ∀ x, (s.ring g).out = some x → dF x.desc 0 1 ≠ 9) →
            ∃ t, exec .grant s = .next t ∧ t.jobs.grants = s.jobs.grants ++ [q] ∧ SameBytes s t))
    ∧ (∀ st hr b x t, s.jobs.step = some st → s.closeReady st = true → s.physRegion st.hreg = some hr →
        let h : Hdr := ⟨st.hdr⟩
        st.pitch < h.pitches + h.alts → h.pitchTab + 32 * st.pitch + 32 ≤ celSpan →
        s.celRead hr (h.pitchTab + 32 * st.pitch) 32 = (b, some x) → st.alts.contains st.pitch = false →
        b.closePitch st hr ⟨x⟩ ⟨x⟩ = .ok t → exec .pitchClose s = .next t)
    ∧ (∀ st hr r0, s.canon = true → s.jobs.step = some st → s.closeReady st = true → s.physRegion st.hreg = some hr →
        s.physRegion 0 = some r0 →
        let h : Hdr := ⟨st.hdr⟩
        let entry := h.pitchTab + 32 * st.pitch
        let watch := h.pwatchOff + 32 * st.pitch
        h.pitches = st.pitch + 1 → h.handoffs = 0 → h.handoffTab ≤ celSpan → st.alts.contains st.pitch = false → st.heldSlot = [] →
        entry + 32 ≤ celSpan → s.celErrs hr entry 32 = [] → watch + 32 ≤ celSpan → s.celErrs r0 (watch / 64 * 64) 158 = [] →
        ∃ t, exec .pitchClose s = .next t
          ∧ t.jobs.step = some { st with
              poisoned := st.poisoned || (s.gridRegions.flatMap s.regionSites).any fun i => (s.cl i).poison
              regionsUp := [], pitch := st.pitch + 1, phase := .checks }
          ∧ (∀ site, (t.cl site).poison = false ∧ (t.cl site).fa = {})
          ∧ (∀ site a, t.larByte site a = s.larByte site a)
          ∧ ∀ r a, a < celSpan → (r ≠ r0 ∨ a < watch ∨ watch + 32 ≤ a) → t.celByte r a = s.celByte r a)
    ∧ (∀ st x t, s.jobs.step = some st → st.inbound.find? (fun x => x.entries.contains entry.val && x.checked && !x.done) = some x →
        let a := s.setInbound { x with done := true }
        let rs := ((a.ring st.ring).out.map (·.regions)).getD []
        foldFlow State.startRegion a (rs.filter fun r => a.clocked r && st.phase == .pitches) = .ok t →
        exec (.handoffTagWritten entry) s = .next t)
    ∧ ∀ st o, s.canon = true → s.jobs.step = some st → (s.ring st.ring).out = some o → st.phase = .checks → s.resil.checks = [] →
        s.resil.intake.any s.stopsStep = false → o.rec_ = none →
        let win := st.window.getD (s.strm.window - 1)
        let late := st.window.isSome && !s.reexecuted st.ring o.idx
          && decide (2 ≤ (s.strm.window - win).toNat) && decide ((s.strm.window - win).toNat < 2 ^ 31)
        let status := if st.poisoned then 3 else if late then 5 else if st.replayed then 1 else 0
        let checks := min st.sampled (2 ^ 24 - 1) + min st.disagree 15 * 2 ^ 24
        ∃ t, exec .stepRelease s = .next t ∧ t.strm.staged = [] ∧ t.jobs.step = some { st with phase := .released }
          ∧ (t.ring st.ring).out = some { o with relAt := some s.now, rec_ := some ⟨status, 0, 0, checks⟩ }
          ∧ SameBytes s t ∧ t.clusters = s.clusters

/-- Records, doorbells, polls and ring commands complete. A completion record of a ring whose completion ring runs,
with space and a port, is written and the ring goes on; without space the record waits and the consumer index is read,
and a record of a restart waits for RESTART_BEGIN to be written. The oldest event is written on the same terms. NUDGE,
on a port that takes packets in, returns its credit and reads the doorbell word of a RUNNING ring once, is remembered
while a read of it is in flight, and is counted for any other ring. The backstop poll reads all doorbell words, and
the consumer words that records wait for. ENABLE of a DISABLED ring clears and runs it (the first one of the event
ring releases the events held), and of a STOPPED one writes the fields; DISABLE clears it, and no window is held for
it any more (log entry 157); either is U5 while the ring runs or stops, and DISABLE with a descriptor outstanding is
U10. STOP and RESUME change the state of a RUNNING and a STOPPED ring, and their bits are stored nowhere (log entry
171, a DESIGN CHOICE). GLB_RINGCFG is written while no ring runs, else U5. -/
def Obligations.RingsServed : Prop :=
  ∀ (s : State) (p : PortNo) (n : Fin 129) (v : Word) (ring : RingNo) (energy : Word) (num : BitVec 8),
    let st := s.ringState n
    let q := num.toNat
    let r := ring.val
    (∀ o c, (s.ring r).out = some o → o.rec_ = some c → o.internal = false → s.ringState (64 + r) = rsRunning →
      s.ringPort.isSome = true →
      (s.bracketWaits r o c = true → exec (.completionRecordWrite ring energy) s = .next s)
      ∧ (s.bracketWaits r o c = false → s.hasSpace (64 + r) = false →
          exec (.completionRecordWrite ring energy) s = .next (s.waitSpace (64 + r)))
      ∧ (s.bracketWaits r o c = false → s.hasSpace (64 + r) = true → s.jobs.step = none →
        let a := ((s.postReplayed r o).putCompletion r o c energy).returnGrant r (c.status == 2 || c.status == 0xF)
        let b := (a.updRing r fun x => { x with out := none, done := o.idx + 1, underrun := false }).countPlan o
        exec (.completionRecordWrite ring energy) s
          = .next (((((b.shadow r).rewindStep r o.idx c.status).stopIfIdle r).fenceWakes r o.idx).restartDone.fetchMore r)))
    ∧ (∀ e es, s.jobs.events = e :: es → s.ringState 128 = rsRunning → s.ringPort.isSome = true →
      (s.hasSpace 128 = false → exec .eventRecordWrite s = .next (s.waitSpace 128))
      ∧ (s.hasSpace 128 = true → exec .eventRecordWrite s
          = .next ({ s with jobs := { s.jobs with events := es, loss := false } }.putRecord 128 4 (eventBytes e s.jobs.loss)
              (s.regF (Reg.RNG_CTL 128) 6 2 != 0))))
    ∧ (s.linkIn (48 + p.val) = false → exec (.nudge p num) s = .next s)
    ∧ (s.linkIn (48 + p.val) = true →
      let a := s.updLnk (48 + p.val) fun k => k.owe 0 1
      a.reach Reg.GLB_NUDGEIGN = true →
        (q < 64 → a.ringState q = rsRunning → a.wordRead q = false → exec (.nudge p num) s = .next (a.readDoorbell q))
        ∧ (q < 64 → a.ringState q = rsRunning → a.wordRead q = true →
            exec (.nudge p num) s = .next (a.setRing q { a.ring q with nudgeAgain := true }))
        ∧ ((64 ≤ q ∨ a.ringState q ≠ rsRunning) → exec (.nudge p num) s = .next (a.count Reg.GLB_NUDGEIGN 0 16 1)))
    ∧ (s.reach Reg.GLB_RINGCFG = true → (∃ q < 64, s.ringState q = rsRunning) →
      exec .backstopPoll s = .next (((List.range 65).map (64 + ·)).foldl
        (fun s n => if s.regF (Reg.RNG_STATE n) 2 1 = 1 then s.readSpace n else s)
        (s.ringRead (s.doorbellAddr 0) 256 (.poll ((List.range 64).filter fun q => s.ringState q == rsRunning)))))
    ∧ (s.reach (Reg.RNG_CTL n) = true →
      (st ∈ [rsRunning, rsStopping] → exec (.rngEnable p n v) s = .fault (.undefinedCase .u5)
          ∧ exec (.rngDisable p n v) s = .fault (.undefinedCase .u5))
      ∧ (st = rsStopped → exec (.rngEnable p n v) s = .next (s.writeRw (Reg.RNG_CTL n) (v ||| 0x80000000)))
      ∧ (st = rsDisabled →
          let a := ((s.writeRw (Reg.RNG_CTL n) (v ||| 0x80000000)).clearRing n).setReg (Reg.RNG_STATE n) 1
          (n.val < 128 ∨ a.jobs.everOn = true → exec (.rngEnable p n v) s = .next a)
          ∧ (n.val = 128 → a.jobs.everOn = false → exec (.rngEnable p n v) s
              = .next { a with jobs := { a.jobs with everOn := true, events := a.jobs.events ++ a.jobs.held, held := [] } }))
      ∧ (st ∈ [rsDisabled, rsStopped] → n.val < 128 → (s.ring (n.val % 64)).out.isSome = true →
          exec (.rngDisable p n v) s = .fault (.undefinedCase .u10))
      ∧ (st ∈ [rsDisabled, rsStopped] → (128 ≤ n.val ∨ (s.ring (n.val % 64)).out = none) →
          let a := ((s.writeRw (Reg.RNG_CTL n) (v &&& 0x7FFFFFFF)).clearRing n).setReg (Reg.RNG_STATE n) 0
          (64 ≤ n.val → exec (.rngDisable p n v) s = .next a)
          ∧ (n.val < 64 → exec (.rngDisable p n v) s = .next (State.restartDone { a with strm := { a.strm with
              wins := a.strm.wins.map fun w => w.drop fun h => h.1 == n.val } }))))
    ∧ (s.reach (Reg.RNG_CMD n) = true →
      (st = rsRunning → exec (.rngStop p n) s = .next ((s.setRingState n rsStopping).stopIfIdle n))
      ∧ (st = rsStopped → exec (.rngResume p n) s = .next ((s.setRingState n rsRunning).fetchMore n)))
    ∧ (s.reach Reg.GLB_RINGCFG = true →
      ((∀ q < 129, s.ringState q ≠ rsRunning ∧ s.ringState q ≠ rsStopping) →
          exec (.glbRingcfgWrite p v) s = .next (let a := (s.writeRw Reg.GLB_RINGCFG v).setReg Reg.GLB_RINGSTAT 0
            { a with jobs := { a.jobs with portGone := false } }))
      ∧ ((∃ q < 129, s.ringState q = rsRunning ∨ s.ringState q = rsStopping) →
          exec (.glbRingcfgWrite p v) s = .fault (.undefinedCase .u5)))

/-- Sites of a region carry its logical rows, and logical cluster numbers name them. The site at column c (0 to 7) and
row p (0 to 8) of region r has number r × 72 + p × 8 + c, below 13,824, from which region, column and row come back.
The rows of a column that carry logical rows are its good sites in ascending order, 8 of them: with no bad site all
but p = 8, with one bad site all good ones; with more, every good one, fewer than 8. Logical row n of column c is the
n-th of them. Cluster (ly × 16 + lx) × 64 + row × 8 + col is that site of the physical region of logical region ly ×
16 + lx. Numbers run from 0 to 11,263 in grade 0x0B and from 0 to 10,239 in grade 0x0A; no other number names a site.
-/
def Obligations.ClusterNumbersNameSites : Prop :=
  ∀ s : State,
    (∀ r c p, r < 192 → c < 8 → p < 9 →
      siteAt r c p = r * 72 + p * 8 + c ∧ siteAt r c p < 13824 ∧ siteRegion (siteAt r c p) = r ∧ siteCol (siteAt r c p) = c
      ∧ siteRow (siteAt r c p) = p)
    ∧ (∀ r c, let good := (List.range 9).filter fun p => !s.badSite (siteAt r c p)
        (good.length = 9 → s.goodRows r c = List.range 8) ∧ (good.length ≤ 8 → s.goodRows r c = good))
    ∧ (∀ r row c, c < 8 → s.siteIn r row c = ((s.goodRows r c)[row]?).map fun p => r * 72 + p * 8 + c)
    ∧ (∀ lx ly row col, lx < 16 → row < 8 → col < 8 →
        s.clusterSite ((ly * 16 + lx) * 64 + row * 8 + col)
          = ((s.physRegion (ly * 16 + lx)).bind fun r => s.siteIn r row col))
    ∧ (s.fuses.grade = 0x0B → s.nClusters = 11264) ∧ (s.fuses.grade = 0x0A → s.nClusters = 10240)
    ∧ ∀ n, s.nClusters ≤ n → s.clusterSite n = none

/-- Point records, window frees, staged entries, enables, flushes and pool modes complete with the effects of their
rules. A STREAM packet of another SKIND only returns its credits; one of SKIND 0 takes its records in order. The entry
of a record is the committed one from the count of the tick on. A record that no valid entry matches counts as a miss;
one for a disabled channel, or that does not convert, counts as a drop of its channel; else the slot takes the
converted value and the open window, or keeps the value for the next window when the count that closes the open one
has been reached; a slot past SLOTS is case U2. WINDOW_FREE ends the holds of a window whose step has its record
written, and frees the packets on the queues of their rings. GO stages the entry unless BUSY. An enable takes effect
when the cells allow it, with every slot of the channel forgotten or the actuation channel empty, and is refused
otherwise; writing ENABLE 0 disables. A flush is done at once: flushing an ingest queue drops its packets of every
window, and cores that wait on the queue go on. A pool mode follows REQ while the pool is empty. The staged words
taken at GO are log entry 32, each ring freeing its own packets of a window entry 122. -/
def Obligations.StreamCommands : Prop :=
  ∀ (s : State) (p : PortNo) (v : Word) (id raw : Word) (skind : Byte) (recs : List (BitVec 24 × Word)) (win : Word)
    (ch : Fin 16) (ac : Fin 8) (q : BitVec 16) (pool : Fin 13),
    let got := s.received (portLink p) 3 (8 * recs.length)
    let e := s.pointNow (id.toNat % 131072)
    let a := Reg.GLB_INGCTL ch
    let b := Reg.GLB_ACTCTL ac
    let keep := s.setReg b (s.reg b &&& ~~~(v &&& 0x600))
    (s.linkIn (portLink p) = true →
      (skind ≠ 0 → exec (.stream p skind recs) s = .next got)
      ∧ ∀ t, foldFlow (fun s r => s.pointRecord r.1.toNat r.2) got recs = .ok t → exec (.stream p 0 recs) s = .next t)
    ∧ (e.valid = false ∨ e.id ≠ id.toNat → s.pointRecord id.toNat raw = .ok (s.count Reg.GLB_STRMISS 0 32 1))
    ∧ (e.valid = true → e.id = id.toNat →
        (s.ingOn e.ch = false → s.pointRecord id.toNat raw = .ok (s.ingestDrop e.ch))
        ∧ (s.ingOn e.ch = true →
            (s.ingSlots e.ch ≤ e.slot → s.pointRecord id.toNat raw = .error (.undef .u2))
            ∧ (e.slot < s.ingSlots e.ch →
                (e.convert raw (s.ingElem e.ch) = none → s.pointRecord id.toNat raw = .ok (s.ingestDrop e.ch))
                ∧ ∀ x, e.convert raw (s.ingElem e.ch) = some x →
                    s.pointRecord id.toNat raw = .ok { s with strm := { s.strm with
                      slots := Tab.set {} s.strm.slots (slotKey e.ch e.slot) (if s.tickReached = true
                        then { Tab.get {} s.strm.slots (slotKey e.ch e.slot) with early := some x }
                        else ⟨x, s.strm.window, true, none⟩) } })))
    ∧ exec (.windowFree win) s = .next { s with strm := { s.strm with
        wins := s.strm.wins.map fun w =>
          if w.num = win then
            let gone (c : Nat) : Bool := w.holds.any fun h => h.2.2 && h.2.1.getLsbD c
            { w with
              holds := w.holds.filter fun h => !h.2.2, packets := w.packets.filter fun x => !gone x.1
              cut := w.cut ++ (w.packets.map (·.1)).filter fun c => gone c && !w.cut.contains c }
          else w } }
    ∧ (s.reach Reg.GLB_PTCMT = true →
        let w := s.writeRw Reg.GLB_PTCMT v
        (tst v 31 = false ∨ s.strm.commit.isSome = true → exec (.ptcmtGo p v) s = .next w)
        ∧ (tst v 31 = true → s.strm.commit = none →
            exec (.ptcmtGo p v) s = .next { w.setRegF Reg.GLB_PTCMT 30 1 1 with strm := { s.strm with
              commit := some (fld v 0 17, BitVec.ofNat 128 (ofLe ((List.range 4).flatMap fun k =>
                toLe 4 (w.reg (Reg.GLB_PTSTG k)).toNat))) } }))
    ∧ (s.reach a = true →
        (tst v 0 = false → exec (.ingestEnable p ch v) s = .next (s.setRegF a 0 1 0))
        ∧ (tst v 0 = true → s.ingOn ch = true → exec (.ingestEnable p ch v) s = .next s)
        ∧ (tst v 0 = true → s.ingOn ch = false →
            (65536 < s.reservedCells + s.ingCells ch →
              exec (.ingestEnable p ch v) s = .next ((s.setRegF a 0 1 0).setRegF a 1 1 1))
            ∧ (s.reservedCells + s.ingCells ch ≤ 65536 →
                let t := (s.setRegF a 0 1 1).setRegF a 1 1 0
                let forget (k : Nat) (x : SlotSt) : SlotSt := if k / 131072 = ch.val then { x with ever := false } else x
                exec (.ingestEnable p ch v) s
                  = .next { t with strm := { t.strm with slots := Tab.mapVals {} forget t.strm.slots } })))
    ∧ (s.reach b = true →
        (tst v 0 = false →
          exec (.actuationEnable p ac v) s = .next ((keep.setRegF b 0 1 0).setAct ac { keep.act ac with item := none }))
        ∧ (tst v 0 = true → keep.actOn ac = true → exec (.actuationEnable p ac v) s = .next keep)
        ∧ (tst v 0 = true → keep.actOn ac = false →
            (65536 < keep.reservedCells + keep.actCells ac →
              exec (.actuationEnable p ac v) s = .next ((keep.setRegF b 0 1 0).setRegF b 1 1 1))
            ∧ (keep.reservedCells + keep.actCells ac ≤ 65536 →
                exec (.actuationEnable p ac v) s = .next (((keep.setRegF b 0 1 1).setRegF b 1 1 0).setAct ac {}))))
    ∧ (∀ c, qctlReg q.toNat = some c → s.reach c = true →
        (tst v 16 = false → exec (.flush p q v) s = .next (s.writeRw c v))
        ∧ (tst v 16 = true → exec (.flush p q v) s = .next (((s.writeRw c v).flushQueue q.toNat).wakeFlushed q.toNat)))
    ∧ (q.toNat < 16 → ∀ w ∈ (s.flushQueue q.toNat).strm.wins, ∀ x ∈ w.packets, x.1 ≠ q.toNat)
    ∧ (s.reach (poolReg pool) = true → exec (.poolModeRequest p pool v) s = .next ((s.writeRw (poolReg pool) v).poolChange pool))
    ∧ (s.regF (poolReg pool) 0 1 ≠ s.regF (poolReg pool) 1 1 → s.poolCells pool = 0 →
        exec (.poolModeChange pool) s = .next (s.setRegF (poolReg pool) 0 1 (s.regF (poolReg pool) 1 1)))

/-- A tick closes the open window with a packet for each enabled channel, and each slot's value follows the seal
table. In a canonical state, a scheduled tick whose count is reached, an accepted edge of the pin cadence at least 1
ms after the last tick, and the fallback tick of a pin cadence that is due, each: close the open window, at the
present count or at the one captured for the edge within 1 of it, with one packet for every enabled ingest channel in
ascending order, free the closed windows that no step holds, open the next window, apply a committed point entry,
release every held RUN_PLAN, and change no byte of memory and no cluster. An edge within 1 ms is counted and ignored
(the captured count as the tick's and as the base of the 1 ms is log entry 29), and an edge of a pin that carries the
time pulse is a time pulse. A slot holds its last accepted value while that is fresh or STALE is 0, else FALLBACK,
counted stale when STALE is at least 1; a slot that no valid entry names is 0. -/
def Obligations.TicksCloseWindows : Prop :=
  (∀ s : State, s.canon = true → s.dev.base ≠ .off →
    let closed (at_ : DWord) (t : State) : Prop := t.strm.window = s.strm.window + 1 ∧ t.strm.lastTick = at_
      ∧ (∃ w, t.strm.wins = (s.strm.wins.filter fun x => !x.holds.isEmpty) ++ [w] ∧ w.num = s.strm.window ∧ w.tick = at_
          ∧ w.holds = [] ∧ w.used = false ∧ w.packets.map (·.1) = (List.range 16).filter s.ingOn)
      ∧ t.strm.commit = none
      ∧ t.points = s.strm.commit.elim s.points (fun x => Tab.set 0 s.points x.1 (x.2 &&& pointMask))
      ∧ t.jobs.tickQ = [] ∧ SameBytes s t ∧ t.clusters = s.clusters
    (∀ n c new, s.nextTick = some (n, c, new) → n ≤ s.now.toNat → ∃ t, exec .cadenceTick s = .next t ∧ closed s.now t)
    ∧ (s.nextTick = none → exec .cadenceTick s = .next s)
    ∧ (∀ n c new, s.pinDue = some (n, c, new) → n ≤ 16 * s.now.toNat →
        ∃ t, exec .pinFallbackTick s = .next t ∧ closed s.now t)
    ∧ (s.pinDue = none → exec .pinFallbackTick s = .next s)
    ∧ (s.alias_ = true → exec .cadenceInEdge s = .next s.pulse)
    ∧ (s.alias_ = false → s.strm.newCad = none →
        (s.captured - s.now + 1).toNat ≤ 2
        ∧ (∀ c, s.strm.cad = some c → c.pin = true → milli ≤ s.captured.toNat - s.strm.lastTick.toNat →
            ∃ t, exec .cadenceInEdge s = .next t ∧ closed s.captured t)
        ∧ (∀ c, s.strm.cad = some c → c.pin = true → s.captured.toNat - s.strm.lastTick.toNat < milli →
            exec .cadenceInEdge s = .next (s.useFree.count Reg.GLB_CADIGN 0 32 1))
        ∧ ((∀ c, s.strm.cad = some c → c.pin = false) → exec .cadenceInEdge s = .next s.useFree)))
  ∧ ∀ (n : Word) (elem : Nat) (e : PtEnt) (x : SlotSt),
      (e.valid = false → sealSlot n elem e x = (0, false))
      ∧ (e.valid = true →
          (x.ever = true → (e.stale = 0 ∨ (n - x.last).toNat < e.stale) → sealSlot n elem e x = (x.val, false))
          ∧ (x.ever = true → 1 ≤ e.stale → e.stale ≤ (n - x.last).toNat →
              sealSlot n elem e x = (toElem elem (bf16In e.fallback), true))
          ∧ (x.ever = false → 1 ≤ e.stale → sealSlot n elem e x = (toElem elem (bf16In e.fallback), true))
          ∧ (x.ever = false → e.stale = 0 → sealSlot n elem e x = (toElem elem (bf16In e.fallback), false)))

/-- Time packets, edges, slews, the pulse source, loss and return of the reference, stretches. TIME puts its header
flit in front of the queue of 16 beacons. An edge of TIMEIN is ignored while CADENCE_IN carries the pulse; else,
enabled and 10 ms after the last, it takes the newest beacon (host time in bytes 20 to 27, sequence in bytes 28 to 31)
and empties the queue, notes its sequence, aligns the counter, and slews by the offset against the count captured
within 1, or steps the counter at once by an offset above 100,000 while STEPOK is set; with no beacon it counts a
miss. That the queue is emptied is log entry 30. A slew step adds a count or holds one. TPSRC 1 is not applied while
CADENCE_IN is the cadence source: HELD is set; a write of TPSRC 0 clears HELD. Loss of REFCLK puts the time source on
holdover with DRIFT set and every clocked region at 8/16, and is reported; its return is noted, and the regions with a
grant switch back later. A stretch is counted and owed, and a repayment makes one less owed, with no crossing stalled
while no crossing to a running neighbour has walked more than six half periods (log entries 36 and 38). -/
def Obligations.TimeAndReferenceCommands : Prop :=
  ∀ (s : State) (p : PortNo) (lo hi : BitVec 256) (v : Word) (oor : Bool) (r : RegionNo), s.canon = true →
    (s.linkIn (portLink p) = true →
      exec (.timePacket p lo hi) s = .next { s.received (portLink p) 0 0 with
        clk := { s.clk with beacons := ((hi ++ lo) :: s.clk.beacons).take 16 } })
    ∧ (s.alias_ = true → exec .timeinEdge s = .next s)
    ∧ (s.alias_ = false → s.dev.base ≠ .off → tst (s.reg Reg.GLB_TIMECFG) 0 = true →
        (∀ x, s.clk.lastEdge = some x → 10 * milli ≤ (s.clk.raw - x).toNat) →
        (s.clk.beacons = [] → exec .timeinEdge s
          = .next ({ s with clk := { s.clk with lastEdge := some s.clk.raw } }.count Reg.GLB_TIMEMISS 0 32 1))
        ∧ ∀ cell l, s.clk.beacons = cell :: l →
            let h : BitVec 64 := BitVec.ofNat 64 (cell.toNat / 2 ^ 160)
            let q : BitVec 32 := BitVec.ofNat 32 (cell.toNat / 2 ^ 224)
            ∃ t e, exec .timeinEdge s = .next t ∧ (e = 0 ∨ e = 1 ∨ e = (-1 : BitVec 64))
              ∧ (let d := (h - (s.now + e)).toInt
                 if tst (s.reg Reg.GLB_TIMECFG) 2 = true ∧ 100000 < d
                 then t.clk.slew = 0 ∧ t.clk.counter = s.clk.counter + BitVec.ofInt 64 d
                 else t.clk.slew = d ∧ t.clk.counter = s.clk.counter)
              ∧ t.clk.lastEdge = some s.clk.raw
              ∧ t.clk.beacons = [] ∧ t.clk.aligned = true ∧ t.reg Reg.GLB_TIMESEQ = q
              ∧ t.reg Reg.GLB_TIMEOFS = BitVec.ofInt 32 (max (-2 ^ 31) (min (2 ^ 31 - 1) (h - (s.now + e)).toInt)))
    ∧ (0 < s.clk.slew → exec .timeSlewStep s
        = .next { s with clk := { s.clk with counter := s.clk.counter + 1, slew := s.clk.slew - 1 } })
    ∧ (s.clk.slew < 0 → exec .timeSlewStep s
        = .next { s with clk := { s.clk with hold := s.clk.hold + 1, slew := s.clk.slew + 1 } })
    ∧ (s.clk.slew = 0 → exec .timeSlewStep s = .next s)
    ∧ (s.reach Reg.GLB_TIMECFG = true →
        ∃ t, exec (.glbTimecfgWrite p v) s = .next t
          ∧ (tst v 1 = true → s.pinSource = true → t.alias_ = false ∧ t.regF Reg.GLB_TIMECFG 3 1 = 1)
          ∧ (tst v 1 = true → s.pinSource = false → t.alias_ = true ∧ t.regF Reg.GLB_TIMECFG 3 1 = s.regF Reg.GLB_TIMECFG 3 1)
          ∧ (tst v 1 = false → t.alias_ = false ∧ t.regF Reg.GLB_TIMECFG 3 1 = 0)
          ∧ tst (t.reg Reg.GLB_TIMECFG) 0 = tst v 0 ∧ tst (t.reg Reg.GLB_TIMECFG) 2 = tst v 2
          ∧ { t with regs := s.regs } = s)
    ∧ (s.dev.base ≠ .off → s.dev.refOk = true →
        ∃ t, exec (.refLost oor) s = .next t ∧ t.dev.refOk = false ∧ t.clk.onHold = true ∧ t.clk.drift = true
          ∧ (∀ q < 192, s.clocked q = true → t.rate q = 8) ∧ (∀ q < 192, t.rstate q = s.rstate q)
          ∧ t.resil.intake = s.resil.intake ++ [.refLoss] ∧ t.clusters = s.clusters)
    ∧ (s.dev.base ≠ .off → s.dev.refOk = false →
        ∃ t, exec .refclkValid s = .next t ∧ t.dev.refOk = true ∧ t.clk.onHold = false ∧ t.clusters = s.clusters
          ∧ t.clk.switching
              = ((List.range 192).filter fun q => tst (s.reg (Reg.RGN_PSTATE q)) 5).filter s.regionGranted)
    ∧ (s.railsUp = true → s.refLoop r = true → (∀ q ∈ neighbours r, s.walk r q.2 + 1 ≤ 6 ∨ s.refLoop q.2 = false) →
        exec (.droopStretch r) s
          = .next ((s.count (Reg.RGN_CLKSTR r) 0 16 1).updRg r fun g => { g with owed := g.owed + 1 }))
    ∧ (s.refLoop r = true → 0 < (s.rg r).owed → (∀ q ∈ neighbours r, s.walk q.2 r + 1 ≤ 6 ∨ s.refLoop q.2 = false) →
        exec (.stretchRepayment r) s = .next (s.updRg r fun g => { g with owed := g.owed - 1 }))

/-- The governor's two levels, wakes, and the ways into IDLE, BIVOUAC and DARK. At a module interval the input powers
are noted, every slab gets a budget of at most 1,250 A and its granted regions in order of slack. At a slab interval
the 16 currents are noted. A wake is asked for once when its cause wants it, and its completion makes the region
ACTIVE with its wake count one more and its crossings re-centred. A region with a core running and every running core
stalled enters IDLE. A clocked region without a grant, check, scrub window, watch capture, snapshot or restart, whose
larders' requesters are done, enters BIVOUAC and keeps its larders. A region in BIVOUAC whose time is up, or that is
an unused reserve, goes DARK: its groups are off, and of its clusters only the scrub records stay (log entry 18).
While the rails are down a slab interval changes nothing, and a module interval clears BINDING and, outside OFF, notes
the input powers and adds its free share of energy to the count (log entry 5). -/
def Obligations.GovernorAndSleepCommands : Prop :=
  ∀ (s : State) (pin pcore mv : BitVec 16) (sl : SlabNo) (amps : List (BitVec 8)) (r : RegionNo) (why : WakeFor), s.canon = true →
    (s.railsOn = true → ∃ t, exec (.moduleGovernorInterval pin pcore mv) s = .next t
      ∧ t.regF Reg.GLB_PWRIN 0 16 = pin.toNat ∧ t.regF Reg.GLB_PWRIN 16 16 = pcore.toNat
      ∧ (∀ n < 12, (t.slab n).order = s.slackOrder n ∧ (t.slab n).lowered = false ∧ t.regF (Reg.SLB_BUDGET n) 0 12 ≤ 1250)
      ∧ t.clusters = s.clusters)
    ∧ (s.railsOn = true → (s.slab sl).dark = false → amps.length = 16 →
        ∃ t, exec (.slabGovernorInterval sl amps) s = .next t ∧ (t.slab sl).amps = amps.map (·.toNat)
          ∧ (∀ (i q : Nat) (x : BitVec 8), (slabRegions sl)[i]? = some q → amps[i]? = some x → t.regF (Reg.RGN_CURR q) 0 8 = x.toNat))
    ∧ (s.railsOn = false → exec (.slabGovernorInterval sl amps) s = .next s
        ∧ exec (.moduleGovernorInterval pin pcore mv) s = .next ((if s.dev.base = .off then s else
            ({ s with freeCtr := s.freeCtr + 1, dev := { s.dev with energy := s.dev.energy ++ [s.freeCtr] } }.setRegF Reg.GLB_PWRIN 0 16
              pin.toNat).setRegF Reg.GLB_PWRIN 16 16 pcore.toNat).setRegF Reg.GLB_PWRSTAT 0 1 0))
    ∧ (s.railsOn = true → s.dev.tripped = false → s.isRetired r = false → s.clocked r = false → (s.rg r).waking = false →
        (s.rg r).wakeReq = none →
        (match why with
          | .check => ∃ x ∈ s.resil.checks, siteRegion x.checker = r.val ∨ x.third.map siteRegion = some r.val
          | .sweep => (s.rg r).sweeping = true
          | .restart => s.resil.restart.isSome = true) →
        exec (.wakeRequest r why) s = .next (s.updRg r fun g => { g with wakeReq := some ⟨why, s.now, false⟩ }))
    ∧ ((s.rg r).waking = true → s.jobs.step = none → s.jobs.grants = [] → s.resil.restart = none →
        ∃ t, exec (.wakeComplete r) s = .next t ∧ t.rstate r = stActive ∧ (t.rg r).waking = false ∧ (∀ q ∈ neighbours r, t.walk r q.2 = 0)
          ∧ t.regF (Reg.RGN_PSTATE r) 16 16 = (s.regF (Reg.RGN_PSTATE r) 16 16 + 1) % 65536)
    ∧ (s.rstate r = stActive → (∃ i ∈ s.regionSites r, (s.cl i).run = .running) →
        (∀ i ∈ s.regionSites r, (s.cl i).run = .running → (s.cl i).stall.isSome = true) →
        exec (.regionIdleEntry r) s = .next (s.setRstate r stIdle))
    ∧ (s.clocked r = true → s.regionGranted r = false → s.usedByCheck r = false → s.cairnStage ≠ caStaging → s.devState ≠ 5 →
        (s.rg r).scrubWin = false → s.watchClaims r = false →
        (∀ site, siteRegion site = r → site < 13824 → (s.cl site).copyBusy = none ∧ (s.cl site).writeBack = []) →
        ∃ t, exec (.bivouacEntry r) s = .next t ∧ t.rstate r = stBivouac ∧ t.rate r = 0 ∧ t.clusters = s.clusters
          ∧ (∀ site g, siteRegion site = r → site < 13824 → g < 4 → t.groupIsOn site g = s.groupIsOn site g))
    ∧ (s.rstate r = stBivouac → s.regionGranted r = false → s.usedByCheck r = false → (s.rg r).waking = false →
        (if (s.logRegion r).isSome then s.regF Reg.GLB_SLEEPCFG 0 16 ≠ 0
            ∧ s.regF Reg.GLB_SLEEPCFG 0 16 * milli ≤ (s.now - (s.rg r).bivSince).toNat
          else s.isReserve r = true) →
        ∃ t, exec (.darkAfter r) s = .next t ∧ t.rstate r = (if s.isRetired r then stRetired else stDark)
          ∧ (∀ site, siteRegion site = r → site < 13824 → (∀ g < 4, t.groupIsOn site g = false) ∧ t.cl site
              = { passAt := (s.cl site).passAt, corrNow := (s.cl site).corrNow, corrLast := (s.cl site).corrLast, ueLog := (s.cl site).ueLog }))

/-- Ceilings fall and rise by one, a trip stops every region, and its release starts it again. From AON_UP on: a
slab's reading is noted, and lowers by 1/16 the thermal ceiling of one region, a hottest of those of the slab that
read 95 °C or more and are above 8/16; without such a region it lowers none. A reading of at most 92 °C raises a
lowered ceiling by 1/16. A stack that reads 95 °C or more lowers the ceilings of its field that are above 8/16 by
1/16; one below 92 °C lowers none. A junction at 115 °C or a stack at 105 °C that is no trip already clocks no region
any more, asserts the trip, counts it and reports it. The release while every sensor is below 85 °C ends the trip. A
coolant reading in range is noted; the first one out of range is posted. -/
def Obligations.HeatCommands : Prop :=
  ∀ (s : State) (sl : SlabNo) (temps : List (BitVec 8)) (r : RegionNo) (temp : BitVec 8) (f : BitVec 2) (src : TripSrc)
    (inlet : BitVec 16), s.canon = true →
    let read := (slabRegions sl).zipIdx.foldl (fun s p => (temps[p.2]?).elim s fun t => s.readTemp p.1 t.toNat) s
    (s.aonLive = true →
      let temp (q : Nat) : Nat := read.regF (Reg.RGN_TEMP q) 0 8
      let hot (q : Nat) : Prop := q ∈ slabRegions sl ∧ 95 ≤ temp q ∧ 8 < s.thCeil q
      ∃ t, exec (.thermalCeilingLower sl temps) s = .next t
        ∧ (∀ (i q : Nat) (x : BitVec 8), (slabRegions sl)[i]? = some q → temps[i]? = some x →
            temp q = x.toNat ∧ t.regF (Reg.RGN_TEMP q) 0 8 = x.toNat)
        ∧ ((∀ q, ¬ hot q) → ∀ q < 192, t.thCeil q = s.thCeil q)
        ∧ ((∃ q, hot q) → ∃ h, hot h ∧ (∀ q, hot q → temp q ≤ temp h)
            ∧ ∀ q < 192, t.thCeil q = if q = h then s.thCeil q - 1 else s.thCeil q))
    ∧ (s.aonLive = true → temp.toNat ≤ 92 → s.thCeil r < 16 →
        ∃ t, exec (.thermalCeilingRaise r temp) s = .next t ∧ t.thCeil r = s.thCeil r + 1 ∧ t.regF (Reg.RGN_TEMP r) 0 8 = temp.toNat
          ∧ ∀ q < 192, q ≠ r → t.thCeil q = s.thCeil q)
    ∧ (s.aonLive = true →
        ∃ t, exec (.stackHot sl f temp) s = .next t ∧ t.regF (Reg.SLB_STACKT sl) (8 * f.toNat) 8 = temp.toNat
          ∧ (temp.toNat < 92 → ∀ q < 192, t.thCeil q = s.thCeil q)
          ∧ (95 ≤ temp.toNat → ∀ q < 192, t.thCeil q
              = if q ∈ fieldRegions sl f.toNat ∧ 8 < s.thCeil q then s.thCeil q - 1 else s.thCeil q))
    ∧ (s.aonLive = true → s.dev.tripped = false →
        (match src with
          | .junction _ => 115 ≤ temp.toNat
          | .stack _ _ => 105 ≤ temp.toNat) →
        ∃ t, exec (.thermalTrip src temp) s = .next t ∧ t.dev.tripped = true ∧ t.dev.nTrip = true
          ∧ (∀ q < 192, t.clocked q = false ∧ (t.rg q).waking = false) ∧ t.resil.intake = s.resil.intake ++ [.trip src]
          ∧ t.reg Reg.GLB_TRIPS = s.reg Reg.GLB_TRIPS + 1)
    ∧ (s.dev.tripped = true → temp.toNat < 85 →
        exec (.tripRelease temp) s = .next { s with dev := { s.dev with tripped := false, nTrip := false } }.restartGo)
    ∧ (s.dev.base ≠ .off →
        let bad := inlet.toInt < 200 ∨ 400 < inlet.toInt
        let note (b : Bool) := { s with dev := { s.dev with coolBad := b } }.setRegF Reg.GLB_COOLANT 0 16 inlet.toNat
        (¬ bad → exec (.coolantRange inlet) s = .next (note false))
        ∧ (bad → s.dev.coolBad = false → exec (.coolantRange inlet) s = .next ((note true).post 0x0205 srcModule [(0, inlet.toNat)]))
        ∧ (bad → s.dev.coolBad = true → exec (.coolantRange inlet) s = .next (note true)))

/-- What supplies, VCORE phases, shorts, suspect bumps and frame converters do when they fail and return. An input
reading in range is noted; one outside 40 V to 60 V but not past 38 V or 63 V is posted once. A loss of the 48 V input
in service leaves the device in AON with a restart begun and the outage noted; before the rails it is noted only. The
input then reads below 38 V or above 63 V, by how much is free (log entry 165). The input's return posts the outage
and, in a new bring-up, lets RAILS_UP begin. A standby input lost while a converter feeds the always-on domain is
posted; without one the device is OFF; from OFF its return starts AON_UP. A lost VCORE phase sets the region's limits;
with 2 left it is a precursor, with fewer the switches open and the region is retired. A short opens the switches and
retires the region, and a persisting one takes its routers. A suspect bump group derates the region; a second one is
recorded. A converter keeps going on 7 phases; with 6, or on its loss, the slab goes dark and the device is DEGRADED.
The routers lost with the last phase and the converter remembered are log entry 84. -/
def Obligations.SupplyAndPhaseCommands : Prop :=
  ∀ (s : State) (v : BitVec 16) (above : Bool) (r : RegionNo) (ph : BitVec 2) (ns ex : Word) (g : BitVec 4) (sl : SlabNo) (cph : BitVec 3),
    s.canon = true →
    let n := v.toNat
    let m := s.regF (Reg.RGN_PWR r) 4 4
    let left := ones 4 (BitVec.ofNat 4 (m - 2 ^ ph.toNat))
    let lose (x : Nat) : State := { s with attic := { s.attic with phases := Tab.set 0 s.attic.phases r x } }
    let lost := ((lose (Tab.get 0 s.attic.phases r ||| 2 ^ ph.toNat)).setPhases r (m - 2 ^ ph.toNat)).post 0x0408 (srcRegion r)
      [(0, ph.toNat), (1, left)]
    let short := ((s.openSwitches r).setRegF (Reg.RGN_PWR r) 8 1 1).post 0x0409 (srcRegion r) [(0, ns.toNat)]
    let w := Tab.get 0 s.attic.bump r
    let bumped := setFld (setFld (setFld w 0 4 g.toNat) 4 1 1) 8 8 (min 255 (ex.toNat / 1000))
    let crack := (({ s with attic := { s.attic with bump := Tab.set 0 s.attic.bump r bumped } }.setIlim r (s.phasesIn r))).post
      0x0407 (srcRegion r) [(0, g.toNat), (4, ex.toNat)]
    let cm := s.regF (Reg.SLB_CONV sl) 0 8
    let cleft := ones 8 (BitVec.ofNat 8 (cm - 2 ^ cph.toNat))
    let darkens (i : Instr) : Prop := ∃ t, exec i s = .next t ∧ (t.slab sl).dark = true ∧ t.dev.degraded = true
      ∧ t.convRuns sl = false ∧ (s.dev.base = .ready → t.dev.base = .degraded) ∧ sl.val ∈ t.attic.deadConvs
    (s.dev.base ≠ .off → 4000 ≤ n → n ≤ 6000 →
      exec (.supplyLow v) s = .next ({ s with dev := { s.dev with v48 := true } }.setV48 v))
    ∧ (s.dev.base ≠ .off → 3800 ≤ n → n ≤ 6300 → n < 4000 ∨ 6000 < n → s.dev.v48 = true → s.inBringup = false →
        exec (.supplyLow v) s
          = .next (({ s with dev := { s.dev with v48 := false, v48Held := false } }.setV48 v).post 0x0101 srcModule [(0, n)]))
    ∧ (s.railsOn = true → s.dev.backup = false →
        ∃ t, exec (.supplyLost above) s = .next t ∧ t.dev.base = .aon ∧ t.dev.v48 = false ∧ t.dev.v48Held = false ∧ t.dev.outageFrom = some s.now
          ∧ t.resil.restart.isSome = true ∧ t.dev.pGood = false ∧ t.dev.next = none
          ∧ (if above then 6300 < t.regF Reg.GLB_VIN 0 16 else t.regF Reg.GLB_VIN 0 16 < 3800))
    ∧ (s.railsOn = false → (s.dev.base ≠ .aon ∨ s.inBringup = false) →
        let lost := { s with dev := { s.dev with v48 := false, v48Held := false } }
        (s.dev.base = .off → exec (.supplyLost above) s = .next lost)
        ∧ (s.dev.base ≠ .off → ∃ u : BitVec 16, (if above then 6300 < u.toNat else u.toNat < 3800)
            ∧ exec (.supplyLost above) s = .next ({ lost with freeCtr := s.freeCtr + 1 }.setV48 u)))
    ∧ (s.dev.base ≠ .off → 4000 ≤ n → n ≤ 6000 →
        let on := { s with dev := { s.dev with v48 := true, v48Held := true } }.setV48 v
        (s.dev.outageFrom = none → exec (.supplyRestored v) s = .next on)
        ∧ ∀ x, s.dev.outageFrom = some x →
            let t := on.post 0x0103 srcModule [(0, (s.now - x).toNat)]
            exec (.supplyRestored v) s = .next { t.newBringup with dev := { t.dev with outageFrom := none, next := some .railsUp } })
    ∧ (s.dev.base ≠ .off →
        let t := { s with dev := { s.dev with v12 := decide (1140 ≤ n) && decide (n ≤ 1260) } }.setV12 v
        (1100 ≤ n ∨ s.dev.backup = true → exec (.standbyLost v) s = .next t)
        ∧ (n < 1100 → s.dev.backup = false → s.backupFeed = false → exec (.standbyLost v) s = .next t.deviceOff)
        ∧ (n < 1100 → s.dev.backup = false → s.backupFeed = true →
            exec (.standbyLost v) s
              = .next (({ t with dev := { t.dev with backup := true } }.post 0x0104 srcModule [(0, n)]).alert alStandby)))
    ∧ (1140 ≤ n → n ≤ 1260 →
        let on := { s with dev := { s.dev with v12 := true } }
        (s.dev.base = .off →
          exec (.standbyRestored v) s = .next ({ on with dev := { on.dev with base := .aon, next := some .aonUp } }.setV12 v))
        ∧ (s.dev.base ≠ .off → s.dev.backup = false → exec (.standbyRestored v) s = .next (on.setV12 v))
        ∧ (s.dev.base ≠ .off → s.dev.backup = true → exec (.standbyRestored v) s
            = .next ({ on.setV12 v with dev := { on.dev with backup := false } }.post 0x0105 srcModule [])))
    ∧ (s.railsUp = true → m.testBit ph.toNat = true →
        (3 ≤ left → exec (.phaseLost r ph) s = .next lost)
        ∧ (left = 2 → exec (.phaseLost r ph) s = .next (lost.preventCause r 4))
        ∧ (left = 1 → exec (.phaseLost r ph) s = .next ((lost.openSwitches r).forceCause r 4))
        ∧ (left = 0 → exec (.phaseLost r ph) s
            = .next ((((lost.openSwitches r).forceCause r 4).loseDomain r false).loseDomain r true)))
    ∧ (s.railsUp = true →
        let t := short.forceCause r 5
        exec (.regionShort r ns false) s = .next t
        ∧ exec (.regionShort r ns true) s
            = .next ((({ t with attic := { t.attic with phases := Tab.set 0 t.attic.phases r 15 } }.setPhases r 0).loseDomain r
                false).loseDomain r true))
    ∧ (s.railsUp = true → 8000 < ex.toNat → fld w 4 1 = 0 →
        exec (.crackSuspect r g ex) s = .next (if s.isRetired r then crack else crack.report (.precursor r 11)))
    ∧ (s.railsUp = true → 8000 < ex.toNat → fld w 4 1 = 1 → fld w 0 4 ≠ g.toNat → (r.val, g.toNat) ∉ s.attic.bumpGroups →
        exec (.crackSuspect r g ex) s
          = .next { s with attic := { s.attic with bumpGroups := s.attic.bumpGroups ++ [(r.val, g.toNat)] } })
    ∧ (s.convRuns sl = true → cm.testBit cph.toNat = true →
        (6 < cleft →
          let t : State := { s with attic := { s.attic with
            convPhases := Tab.set 0 s.attic.convPhases sl (Tab.get 0 s.attic.convPhases sl ||| 2 ^ cph.toNat) } }
          exec (.converterPhase sl cph) s = .next ((t.setRegF (Reg.SLB_CONV sl) 0 8 (cm - 2 ^ cph.toNat)).post 0x0106 (srcSlab sl)
            [(0, cph.toNat), (1, cleft)]))
        ∧ (cleft ≤ 6 → s.dev.backup = false → darkens (.converterPhase sl cph)))
    ∧ (s.convRuns sl = true → s.dev.backup = false → darkens (.converterLost sl))

/-- Fault reports, planned restarts, the way out of a restart, staged snapshots, replays of checks, sweeps. Reports of
one region's monitor block are acted on in the order raised (the way it is kept is the model's choice, log entry 113):
one behind another of its region waits, and a new one joins the intake behind them. A report that is acted on leaves
the intake: a program fault or load-list fault fails the running step, a repair is recorded, a precursor plans a
retirement, a report of a poison or of the reference does no more; a transient in a region that carries job traffic or
a check (logical, RETIRED, or a reserve that holds a check) leaves a restart under way, in any other region it does no
more. With the rails down and no restart, the report is only dropped; in bring-up it is recorded or retires its region
(log entry 142). A planned restart begins when one is due, none in 24 h, a cairn taken for it or after it is valid and
nothing is outstanding on the rewinding rings. RESTART ends when everything asked for has come and the images match. A
staged snapshot is drained, or kept when no depot is set. A replay that agrees ends its check; a checker that differs
asks a third, or is arbitrated; the third decides outcome 0, 1 or 2. A scheduled sweep, in READY or DEGRADED, starts
on free regions with a supply that its round has not visited, up to 8 in one idle window (from a step's record to the
next grant, no staging) and one in a slab, outside an idle window on reserves only; a sweep finished with no failing
site ends, and its round has visited the region (log entry 52). -/
def Obligations.ResilienceCommands : Prop :=
  ∀ (s : State) (k : ReportKind) (r : RegionNo) (c : BitVec 4) (slot : BitVec 16) (cool : Bool),
    let s' := { s with resil := { s.resil with intake := s.resil.intake.erase k } }
    let on := s.railsOn = true ∨ s.resil.restart.isSome = true
    let mine := s.reportsOf k
    let acted := s.resil.intake.contains k = false ∧ mine = [] ∨ s.resil.intake.contains k = true ∧ ((∀ q ∈ mine, q = k) ∨ mine.head? = some k)
    (s.resil.intake.contains k = true → mine.head? ≠ some k → (∃ q ∈ mine, q ≠ k) → exec (.faultReport k) s = .next s)
    ∧ (s.resil.intake.contains k = false → mine ≠ [] → exec (.faultReport k) s = .next (s.report k))
    ∧ (acted → s.railsOn = false → s.resil.restart = none →
        exec (.faultReport k) s = .next (if s.railsUp then s'.bringReport k else s'))
    ∧ (acted → on → (∀ site f, k = .program site f → exec (.faultReport k) s = .next (s'.failStep 0x20))
        ∧ (∀ site, k = .loadList site → exec (.faultReport k) s = .next (s'.failStep 0x21))
        ∧ (k = .redStall r → exec (.faultReport k) s = .next (s'.failStep 0x22))
        ∧ (k = .refLoss → exec (.faultReport k) s = .next s') ∧ (∀ q, k = .poison q → exec (.faultReport k) s = .next s')
        ∧ (k = .precursor r c → exec (.faultReport k) s = .next (s'.planRetirement r c.toNat))
        ∧ (∀ site row, k = .hardLarder site row → exec (.faultReport k) s = .next (s'.todo k))
        ∧ (k = .transient r → s.carries r = true →
            ∃ t, exec (.faultReport k) s = .next t ∧ t.resil.restart.isSome = true)
        ∧ (k = .transient r → s.carries r = false → exec (.faultReport k) s = .next s'))
    ∧ (s.dev.base = .ready ∨ s.dev.base = .degraded → s.resil.restart = none → s.resil.plannedDue = true →
        (∃ m, s.resil.cairn = some m ∧ m.forPlan = true) → s.cairnStage = caIdle → (∀ t, s.resil.lastPlanned = some t → day ≤ (s.now - t).toNat) →
        (∀ n ∈ s.rewindRings, (s.ring n).out = none) →
        exec .plannedRestart s = .next (s.beginRestart 0 true false id).restartGo)
    ∧ (∀ x, s.resil.restart = some x → x.reading = true → x.left = false → x.stuck = false → s.dev.tripped = false → s.railsOn = true →
        (∀ q ∈ s.reqs, q.kind.isRead = false) →
        (∀ m, s.restartFrom x = some m → x.replay = true ∨ s.badImages m = []) → exec .leaveRestart s = .next (s.leave x))
    ∧ (∀ x, s.resil.snap = some x → s.cairnStage = caStaging → x.carrierRing = none →
        let u := { s.setLocal true with resil := { s.resil with snap := some x } }
        (u.cairnDepot = 0 → exec .snapshotStaged s = .next u.discardDrain)
        ∧ (u.cairnDepot ≠ 0 → ∀ t, u.startDrain x = .ok t → exec .snapshotStaged s = .next t))
    ∧ (∀ x, s.checkNo slot = some x → x.sigC = none → s.canCheck x.checker = true →
        (s.rg (siteRegion x.checker)).sweeping = false →
        let c := s.preemptWatch (siteRegion x.checker)
        let t := (c.replayOn x.checker x).1
        let sig := (c.replayOn x.checker x).2
        (sig = x.sig → exec (.checkReplay slot) s = .next (t.checkEnds x))
        ∧ (sig ≠ x.sig → (∀ d, t.thirdOf x.primary x.checker x.checker = some d →
              exec (.checkReplay slot) s = .next (t.setCheck { x with sigC := some sig, third := some d }))
            ∧ (t.thirdOf x.primary x.checker x.checker = none → exec (.checkReplay slot) s = .next (t.arbitrate x 2))))
    ∧ (∀ x a d, s.checkNo slot = some x → x.sigC = some a → x.third = some d → s.canCheck d = true →
        ∀ c, s.checkClaims d = .ok c →
        let t := (c.replayOn d x).1
        let sig := (c.replayOn d x).2
        exec (.thirdReplay slot) s = .next (t.arbitrate x (if sig = x.sig then 0 else if sig = a then 1 else 2)))
    ∧ (let n := (s.reg Reg.GLB_POLSWEEP).toNat
        let idle : Bool := s.resil.idleWin && s.cairnStage != caStaging
        s.dev.base = .ready ∨ s.dev.base = .degraded → n ≠ 0 → (s.resil.swept ≠ [] ∨ n * 60 * second ≤ (s.now - s.resil.lastSweep).toNat) →
        let before := if idle then s.resil.winSwept else []
        let rs := (sweepPick (fun q => !s.isRetired q && !(s.slab (slabOf q)).dark && !s.resil.swept.contains q && !s.sweepHeld q
            && (idle || s.isReserve q))
          (List.range 192) before).drop before.length
        rs.length ≤ 8 ∧ ∀ u, foldFlow State.sweepStart s rs = .ok u →
          exec .scheduledSweep s = .next (if idle then
            { u with resil := { u.resil with winSwept := u.resil.winSwept ++ rs.filter fun q => (u.rg q).sweeping } } else u))
    ∧ (s.jobs.grants = [] → (s.rg r).sweeping = true → s.clocked r = true → s.isRetired r = false →
        let w := Tab.get 0 s.attic.sweep r
        let y := setFld (setFld (setFld w 0 4 0) 4 1 (b2n cool)) 16 16 (fld w 16 16 + 1)
        let x : State := { s with attic := { s.attic with sweep := Tab.set 0 s.attic.sweep r y } }
        ∀ t, ((x.count (Reg.RGN_KA r) 0 16 4).count (Reg.RGN_KA r) 16 16 0).sweepEnd r = .ok t →
          exec (.sweepFinished r {} cool) s = .next (t.noteSwept [r]))

/-- Training, the peer check, lanes, credits and replay of every depot link and Sarros port. In a canonical state: a
link that may train enters TRAINING, from OFF, from DOWN at once or after 10 s, from PEER_FAIL by CLRPEER or after a
loss of signal, and by RETRAIN, also from UP or DEGRADED (from DEGRADED with a full training); in training the module
answers a PEER flit with its own (log entry 103), and one whose TYPE or DEPOT is wrong ends in PEER_FAIL, a good one
is noted; training marks the lanes that failed in each direction, and with enough lanes both ways it makes the best
ones of each active and brings the link UP with every lane or DEGRADED with fewer; with too few either way it ends
DOWN. A link that is up goes DOWN on a loss or a command. CREDIT adds credits; CREDIT_DUE sends ACK and what is owed.
A NAK of a held group is counted and answered with RESYNC and everything held from that group on, which stays in
order; one of a group not held, or an eighth without progress, takes the link DOWN. An uncorrectable group is counted,
answered with NAK, and nothing is taken in until RESYNC. A failing transmit lane is announced, with a spare or with
15, for the group 64 ahead; the announced swap is in force from that group on, on either side, and a lane without a
spare leaves the link DEGRADED or DOWN. An alignment group sends ten ALIGN flits on every lane in use. The order of
lanes is log entry 66, the group of a swap entry 67. -/
def Obligations.LinkCommands : Prop :=
  ∀ (s : State) (p : PortNo) (l : LinkNo) (full : Bool) (rtt : Word) (lt : LaneTest)
    (reason ty dep fmt nl : Byte) (id : DWord) (ack sy co bu st group : BitVec 16) (lane phys : BitVec 4) (crc : Bool), s.canon = true →
    let k := s.lnk l
    let trains (i : Instr) : Prop := ∃ t, exec i s = .next t ∧ t.linkState l = lsTraining ∧ (t.lnk l).txq = (s.lnk l).txq
    let down (i : Instr) : Prop := ∃ t, exec i s = .next t ∧ t.linkState l = lsDown
    (s.mayTrain l = true →
      (s.linkState l = lsOff ∨ (s.linkState l = lsDown ∧ k.tries ≤ 1) ∨ (s.linkState l = lsPeerFail ∧ k.sigLost = true) →
        trains (.linkTraining l))
      ∧ (s.linkState l = lsDown → 2 ≤ k.tries → trains (.linkRetry l))
      ∧ (s.reach (Reg.LNK_CMD l) = true → s.linkState l = lsPeerFail → trains (.clrpeer p l))
      ∧ (s.reach (Reg.LNK_CMD l) = true → s.linkState l = lsDown ∨ s.linkState l = lsPeerFail → trains (.retrain p l)))
    ∧ (s.reach (Reg.LNK_CMD l) = true → s.linkUp l = true → s.lanesPowered l = true → tst (s.reg (Reg.LNK_CTL l)) 0 = true →
        s.attic.badLinks.contains l.val = false →
        ∃ t, exec (.retrain p l) s = .next t ∧ t.linkState l = lsTraining ∧ (t.lnk l).txq = []
          ∧ (s.linkState l = lsDegraded → t.isFull l full = true))
    ∧ (s.linkState l = lsTraining →
        let x := (s.emit (.flit l 4 [ownType l, 0, 1, lanesOf l, s.fuses.serial.toNat])).setPeer l ty.toNat dep.toNat id
        let good := ty.toNat = peerType l ∧ (48 ≤ l.val ∨ (1 ≤ dep.toNat ∧ dep.toNat ≤ 15))
        (¬ good → exec (.peer l ty dep fmt nl id) s = .next (x.peerFail l ty.toNat 0 id))
        ∧ (good → x.depotClash l dep.toNat id = true → exec (.peer l ty dep fmt nl id) s = .next (x.peerFail l ty.toNat 1 id))
        ∧ (good → x.depotClash l dep.toNat id = false → exec (.peer l ty dep fmt nl id) s = .next x))
    ∧ (s.linkState l = lsTraining → s.regF (Reg.LNK_STATE l) 12 8 = peerType l →
        let old (x : BitVec 10) : BitVec 10 := if s.isFull l full then 0 else x
        let tx := goodLanes l lt.txBest (old k.txFailed ||| lt.txFailed)
        let rx := goodLanes l lt.rxBest (old k.rxFailed ||| lt.rxFailed)
        let n := min (activeOf l) (min tx.length rx.length)
        ∃ t, exec (.linkUp l full rtt lt) s = .next t
          ∧ (t.lnk l).txFailed = old k.txFailed ||| lt.txFailed ∧ (t.lnk l).rxFailed = old k.rxFailed ||| lt.rxFailed
          ∧ (fewestOf l ≤ n →
              t.linkState l = (if n = activeOf l then lsUp else lsDegraded) ∧ (t.lnk l).txLanes = tx.take (activeOf l)
              ∧ (t.lnk l).rxLanes = rx.take (activeOf l) ∧ t.reg (Reg.LNK_RTT l) = rtt)
          ∧ (n < fewestOf l → t.linkState l = lsDown ∧ (t.lnk l).tries = k.tries + 1))
    ∧ (s.linkUp l = true → down (.linkLost l reason) ∧ (s.reach (Reg.LNK_CMD l) = true → down (.lnkDown p l)))
    ∧ (s.linkIn l = true →
        let c := s.updLnk l fun k => { k with
          nakCount := if ack = k.ackGroup then k.nakCount else 0, ackGroup := ack
          crSync := k.crSync + sy.toNat, crControl := k.crControl + co.toNat, crBulk := k.crBulk + bu.toNat
          crStream := if l.val < 48 then k.crStream else k.crStream + st.toNat }
        exec (.credit l ack sy co bu st) s = .next (State.drainLink l (c.lnk l).txq.length c)
        ∧ (k.txq = [] → exec (.credit l ack sy co bu st) s = .next c))
    ∧ (s.linkUp l = true → exec (.creditDue l) s
        = .next ((s.onLine l (.flit l 1 [(s.rxGroup l).toNat, k.owedSync, k.owedControl, k.owedBulk, k.owedStream])).updLnk l fun k =>
            { k with owedSync := 0, owedControl := 0, owedBulk := 0, owedStream := 0 }))
    ∧ (s.linkIn l = true →
        (s.holdsGroup l group = true → k.nakCount < 7 ∨ k.nakGroup ≠ group →
          let n := (groupNear (s.txCount l) group).toNat
          ∃ t, exec (.nak l group) s = .next t ∧ t.reg (Reg.LNK_REPLAY l) = (s.count (Reg.LNK_REPLAY l) 0 32 1).reg (Reg.LNK_REPLAY l)
            ∧ t.out = s.out ++ .flit l 6 [group.toNat] :: ((k.replay.filter fun e => decide (n ≤ e.1)).map (·.2))
            ∧ t.lnk l = { k with nakCount := if k.nakGroup = group then k.nakCount + 1 else 1, nakGroup := group, txBase := n, txSince := s.clk.raw })
        ∧ (s.holdsGroup l group = false ∨ (k.nakGroup = group ∧ 7 ≤ k.nakCount) → down (.nak l group))
        ∧ exec (.uncorrectableCodeword l group crc) s
            = .next ((((s.count (if crc then Reg.LNK_CRCERR l else Reg.LNK_FECUE l) 0 32 1).rxFrom l group).updLnk l fun k =>
                { k with awaitResync := true }).onLine l (.flit l 2 [group.toNat])))
    ∧ (s.linkUp l = true → k.awaitResync = true → exec (.resync l group) s
        = .next ((s.rxFrom l group).updLnk l fun k => { k with awaitResync := false }))
    ∧ (s.linkIn l = true ∨ s.linkState l = lsTraining →
        let a := Tab.set 0 k.aligned lane.toNat (group + 1)
        let u := s.updLnk l fun k => { k with aligned := a }
        let all := ∀ q ∈ k.rxLanes.zipIdx, q.1 ≠ 15 → Tab.get 0 a q.2 = group + 1
        (s.linkUp l = true → all → exec (.align l lane group phys) s = .next (u.rxFrom l (group + 1)))
        ∧ (s.linkUp l = false ∨ ¬ all → exec (.align l lane group phys) s = .next u))
    ∧ (s.linkUp l = true →
        ((s.txGroup l).toNat % 4096 = 0 → ∃ t, exec (.alignmentGroup l) s = .next t ∧ t.links = s.links
          ∧ t.out = s.out ++ (k.txLanes.zipIdx.filter fun x => x.1 != 15).flatMap fun x =>
              List.replicate 10 (.flit l 3 [x.2, (s.txGroup l).toNat, x.1]))
        ∧ ((s.txGroup l).toNat % 4096 ≠ 0 → exec (.alignmentGroup l) s = .next s))
    ∧ (s.linkUp l = true → phys.toNat < lanesOf l → ∃ t, exec (.laneFailure l phys) s = .next t
        ∧ t.linkState l = s.linkState l ∧ (t.lnk l).txLanes = k.txLanes ∧ (t.lnk l).txFailed = k.txFailed ||| BitVec.ofNat 10 (2 ^ phys.toNat)
        ∧ (t.lnk l).rxFailed = k.rxFailed
        ∧ ((k.planned 0).idxOf? phys.toNat = none → (t.lnk l).spares = k.spares.filter (· != phys.toNat) ∧ t.out = s.out)
        ∧ ∀ i, (k.planned 0).idxOf? phys.toNat = some i → (t.lnk l).spares = k.spares.drop 1
            ∧ t.out = s.out ++ [.flit l 5 [i, k.spares.headD 15, (s.txCount l + 64) % 65536]]
            ∧ (t.lnk l).swaps = k.swaps ++ [(0, i, k.spares.headD 15, s.txCount l + 64)])
    ∧ (s.linkUp l = true → ∀ i old a g, k.swaps = [(0, i, a, g)] → k.txLanes[i]? = some old → g ≤ s.txCount l →
        let t := s.dueSwaps l
        (t.lnk l).txLanes = setAt k.txLanes i a ∧ (t.lnk l).swaps = []
        ∧ (a ≠ 15 → t.linkState l = s.linkState l)
        ∧ (a = 15 → t.linkState l = if countLanes (setAt k.txLanes i 15) < fewestOf l then lsDown else lsDegraded))
    ∧ (s.linkIn l = true → k.swaps = [] → ∀ old, k.rxLanes[lane.toNat]? = some old →
        let g := (groupNear (s.rxCount l) group).toNat
        ∃ t, exec (.lswap l lane phys group) s = .next t
          ∧ (s.rxCount l < g → (t.lnk l).rxLanes = k.rxLanes ∧ (t.lnk l).swaps = [(1, lane.toNat, phys.toNat, g)] ∧ t.regs = s.regs)
          ∧ (g ≤ s.rxCount l → (t.lnk l).rxLanes = setAt k.rxLanes lane.toNat phys.toNat
              ∧ (phys ≠ 15 → t.linkState l = s.linkState l)
              ∧ (phys = 15 → t.linkState l
                  = if countLanes (setAt k.rxLanes lane.toNat 15) < fewestOf l then lsDown else lsDegraded)))

/-- Depot packets and host accesses do what their fields say, and every read of a register is answered. On a link that
takes packets in: read data of a request in the current epoch lies in the places that the request names and ends it;
an acknowledgement ends a write; a refused packet or pull is sent again, up to three times; EPACK of the current epoch
ends the wait; a handoff part that no tag awaits, and one of an older epoch, is dropped, an awaited one is stored in
the entries of its tag in the order of the table (log entry 161) and counted, and the end mark checked; an unknown
PTYPE is counted and gives its pool's credits back. After a request or pull unanswered, all that is out on its link is
sent again (log entry 16 for a refused one, entry 123 for the credits of an unknown PTYPE). A read of registers
answers part by part (log entry 82), one for each domain that holds some of them: their values with what the read
leaves where they can be reached; one of an unreachable block answers all ones, an unsupported one STATUS 2. A write
goes word by word (one of GLB_SLEEPCFG leaves its RW bits), or into an aperture; one not served is discarded. A write
of one register leaves its RW bits (GLB_SLEEPCFG, RGN_SCRUBINT), acts as the command that the register has of its own,
is U5 for a setup register of a ring or link that runs, and does nothing at a reserved offset. SHUTDOWN of an idle
READY device drops the rails; BRINGUP in AON starts the counts of a bring-up and RAILS_UP; a retry that is due does so
once. -/
def Obligations.DepotAndHostPackets : Prop :=
  ∀ (s : State) (p : PortNo) (l : LinkNo) (tid v off : Word) (epoch st pt : Byte) (d : List Byte) (addr : BitVec 44) (n : BitVec 13)
    (jt step : DWord) (pi : BitVec 16) (sf sto : Byte) (da : DWord) (bytes crc : Word) (tag : BitVec 2) (df : BitVec 7),
    let back (pool k : Nat) := s.received l pool k
    let a := addr.toNat
    let hp := s.received (portLink p) 2 0
    let hw := s.received (portLink p) 2 d.length
    (s.linkIn l = true →
      (∀ q, (back 2 d.length).findReq tid true = some q → (back 2 d.length).sameEpoch l epoch = true →
        (∀ t, (back 2 d.length).storeParts (d.take q.len) q.parts = .ok t →
          exec (.rddata l tid epoch 0 d) s = .next (t.reqDone q))
        ∧ (st ≠ 0 → exec (.rddata l tid epoch st d) s = .next ((back 2 d.length).refused q)))
      ∧ ((back 2 d.length).findReq tid true = none → exec (.rddata l tid epoch st d) s = .next (back 2 d.length))
      ∧ (∀ q, (back 1 0).findReq tid false = some q → (back 1 0).sameEpoch l epoch = true →
          exec (.wrack l tid epoch 0) s = .next ((back 1 0).reqDone q)
          ∧ (st ≠ 0 → exec (.wrack l tid epoch st) s = .next ((back 1 0).refused q)))
      ∧ (∀ q, ((back 1 0).reqs.find? fun q => q.tid == tid.toNat && q.sent) = some q →
          exec (.derr l tid st) s = .next ((back 1 0).refused q))
      ∧ (((back 1 0).reqs.find? fun q => q.tid == tid.toNat && q.sent) = none →
          exec (.derr l tid st) s = .next ((back 1 0).pullAgain l tid.toNat))
      ∧ ((back 1 0).sameEpoch l epoch = true →
          exec (.epack l epoch) s = .next ((back 1 0).updLnk l fun k => { k with epackDue := false }).pumpReqs.pumpHands)
      ∧ ((back 2 d.length).awaited jt step pi.toNat sf.toNat sto.toNat = none →
          exec (.hdata l epoch jt step pi sf sto da d) s = .next (back 2 d.length))
      ∧ (∀ x b, (back 2 d.length).awaited jt step pi.toNat sf.toNat sto.toNat = some (x, b) →
          (back 2 d.length).sameEpoch l epoch = true →
          let places := (back 2 d.length).tagPlaces x da.toNat d.length
          ((∃ q ∈ places, q.1 = 3) → exec (.hdata l epoch jt step pi sf sto da d) s = .fault (.undefinedCase .u2))
          ∧ ((∀ q ∈ places, q.1 ≠ 3) → ∀ t, (back 2 d.length).storeParts d places = .ok t →
            exec (.hdata l epoch jt step pi sf sto da d) s = .next (t.checkTag { x with got := x.got + d.length } b)))
      ∧ (∀ x b, (back 0 0).awaited jt step pi.toNat sf.toNat sto.toNat = some (x, b) → (back 0 0).sameEpoch l epoch = true →
          exec (.hend l epoch jt step pi sf sto bytes crc) s
            = .next ((back 0 0).checkTag { x with total := some (bytes.toNat, crc) } b))
      ∧ (knownPtype l pt.toNat = false → tag ≠ 0 → exec (.unknownPtype l ⟨pt, tag, df⟩) s
          = .next ((back (tag.toNat - 1) (64 * df.toNat)).count (Reg.LNK_CRCERR l) 0 32 1))
      ∧ (knownPtype l pt.toNat = true ∨ tag = 0 → exec (.unknownPtype l ⟨pt, tag, df⟩) s = .next s))
    ∧ (let out := (∃ q ∈ s.reqs, q.tid = tid.toNat ∧ q.link = l.val ∧ q.sent = true) ∨ ∃ q ∈ s.pullsOn l, q.tid = tid.toNat
       (out → exec (.requestTimeout l tid) s = .next ((s.resend l).pullLost l)) ∧ (¬ out → exec (.requestTimeout l tid) s = .next s))
    ∧ (s.linkIn (portLink p) = true →
        let plain := (blockOf a).elim false (fun b => isAperture b.1) = false
        (hp.access a n.toNat = 0 → plain →
          exec (.mrd p addr n tid) s = .next (State.readBlock p tid.toNat 2 a 0 n.toNat hp))
        ∧ (hp.access a n.toNat = 0 → plain → n ≠ 0 → domainLen a n.toNat = n.toNat → hp.reach a = true →
          exec (.mrd p addr n tid) s = .next ((State.readWords p (n.toNat / 4) a hp []).1.answer p tid.toNat 0 0
            (State.readWords p (n.toNat / 4) a hp []).2))
        ∧ (hp.access a n.toNat = 0 → ¬ plain →
            exec (.mrd p addr n tid) s = .next (State.readAperture p tid.toNat (n.toNat + 1) false a 0 n.toNat hp))
        ∧ (hp.access a n.toNat = 1 → exec (.mrd p addr n tid) s = .next (hp.answer p tid.toNat 1 0 (List.replicate n.toNat 0xFF)))
        ∧ (2 ≤ hp.access a n.toNat → exec (.mrd p addr n tid) s = .next (hp.answer p tid.toNat 2 0 []))
        ∧ (hw.access a d.length ≠ 0 → exec (.mwr p addr d) s = .next hw)
        ∧ (hw.access a d.length = 0 → plain → ∀ t, State.writeWords p (d.length / 4) a d hw = .next t →
            exec (.mwr p addr d) s = .next t)
        ∧ (hw.access a d.length = 0 → ¬ plain → exec (.mwr p addr d) s = State.writeAperture (d.length + 1) a d hw)
        ∧ (a = Reg.GLB_SLEEPCFG → d.length = 4 → hw.access a 4 = 0 →
            exec (.mwr p addr d) s = .next (hw.writeRw a (BitVec.ofNat 32 (ofLe d))))
        ∧ ((s.jobs.reads.find? fun x => x.tid == tid.toNat && x.sent && x.port == p.val) = none →
            exec (.cpl p tid st off d) s = .next hw)
        ∧ (∀ x, (s.jobs.reads.find? fun x => x.tid == tid.toNat && x.sent && x.port == p.val) = some x →
            off.toNat = x.got.length → x.got.length + d.length < x.len →
            exec (.cpl p tid 0 off d) s = .next { hw with jobs := { hw.jobs with
              reads := s.jobs.reads.map fun y => if y.tid = x.tid then { y with got := x.got ++ d } else y } })
        ∧ (((regDef a).getD {}).rc ≠ 0 → exec (.rcRead p addr tid) s = .next (s.readOne p a tid))
        ∧ (latchLo a = true → exec (.latchingLoRead p addr tid) s = .next (s.readOne p a tid)))
    ∧ (s.access a 4 = 0 → a = Reg.GLB_SLEEPCFG →
        ∃ t, exec (.registerWrite p addr v) s = .next t ∧ { t with regs := s.regs } = s
          ∧ (s.canon = true → t.reg a &&& ((regDef a).getD {}).rw = v &&& ((regDef a).getD {}).rw ∧ ∀ b, b ≠ a → t.reg b = s.reg b))
    ∧ (s.access a 4 = 0 →
        (a = Reg.GLB_TIMECFG → exec (.registerWrite p addr v) s = exec (.glbTimecfgWrite p v) s)
        ∧ (a = Reg.GLB_RINGCFG → exec (.registerWrite p addr v) s = exec (.glbRingcfgWrite p v) s)
        ∧ (a = Reg.GLB_PTCMT → exec (.registerWrite p addr v) s = exec (.ptcmtGo p v) s)
        ∧ (∀ k : Fin 129, a = Reg.RNG_CTL k →
            exec (.registerWrite p addr v) s = exec (if tst v 31 then .rngEnable p k v else .rngDisable p k v) s)
        ∧ (∀ k : Fin 129, a = Reg.RNG_BASELO k → (s.ringState k ∈ [rsDisabled, rsStopped] →
              exec (.registerWrite p addr v) s = .next (s.writeRw a v))
            ∧ (s.ringState k ∈ [rsRunning, rsStopping] → exec (.registerWrite p addr v) s = .fault (.undefinedCase .u5)))
        ∧ (a = Reg.LNK_CTL l → s.linkState l ∈ [lsTraining, lsUp, lsDegraded] →
            exec (.registerWrite p addr v) s = .fault (.undefinedCase .u5))
        ∧ (∀ q : RegionNo, a = Reg.RGN_SCRUBINT q → exec (.registerWrite p addr v) s = .next (s.writeRw a v))
        ∧ (regDef a = none → (∀ o, blockOf a ≠ some (.ptb, o)) → exec (.registerWrite p addr v) s = .next s))
    ∧ (s.access a 4 ≠ 0 → exec (.registerWrite p addr v) s = .next s)
    ∧ (s.reach Reg.GLB_DEVCMD = true →
        (s.devState = 2 → (∀ k < 64, (s.ring k).out = none) →
          exec (.shutdown p) s = .next { s with dev := { s.dev with next := none } }.dropRails)
        ∧ (s.dev.base = .aon → s.dev.next = none →
            exec (.bringup p) s = .next { s.newBringup with dev := { s.dev with next := some .railsUp, retried := false, retryDue := false } }))
    ∧ (s.dev.base = .aon → s.dev.retryDue = true → s.dev.next = none →
        exec .autoretry s = .next { s with dev := { s.dev with next := some .railsUp, retried := true, retryDue := false } })

/-- Each stage of bring-up that succeeds reports its code and makes the following stage next; failures go where R446
says. In a canonical state with the device in AON: AON_UP, FW_VERIFIED (which with HOLDAON leaves none next),
RAILS_UP, FUSES_READ, CLOCKS_LOCKED, SEAMS_TRAINED, CELLAR_TRAINED, LARDER_CHECKED, GRID_BUILT, KNOWN_ANSWER and
LINKS_TRAINED, run in their turn with what they wait for, leave GLB_STAGE at their code and the following stage next.
KNOWN_ANSWER goes on only where four rounds of the set suffice and the crypto engine passes. READY ends bring-up in
READY, or in DEGRADED where a column or slab is lost, with the anti-rollback counter at least the image's SVN when its
flag says so. A failed AON_UP or image check ends bring-up with its failure code and nALERT's cause; a later failure
drops the rails and, with AUTORETRY and no retry yet, asks for one. A stage out of turn, or one that needs the
reference while it is not valid, changes nothing. Which unit a stage names and what a failing regulator or PLL takes
are log entries 93, 101 and 167. -/
def Obligations.BringupStagesFollowEachOther : Prop :=
  ∀ (s : State) (us : Word) (ports outs : List Trained) (convs : BitVec 12) (tmp : BitVec 8)
    (seams : SeamsFound) (slices : CellarFound) (rows : List (SiteNo × BitVec 14)) (first : KaFound) (later : List KaFound)
    (engines : List LinkNo) (streamOk : Bool) (bad : List RegionNo), s.canon = true →
    let turn (n : StageNo) : Prop := s.dev.base = .aon ∧ s.dev.next = some n
    let lead (i : Instr) (code : Nat) (n : StageNo) : Prop :=
      ∃ t, exec i s = .next t ∧ t.dev.next = some n ∧ t.dev.base = .aon ∧ t.regF Reg.GLB_STAGE 0 8 = code
    let fails (i : Instr) (code : Nat) : Prop := ∃ t, exec i s = .next t ∧ t.dev.next = none
      ∧ t.regF Reg.GLB_STAGE 0 8 = code ∧ t.dev.alerts.getLsbD 0 = true
    let drops (i : Instr) : Prop := s.dev.backup = false → ∃ t, exec i s = .next t ∧ t.dev.next = none ∧ t.dev.base = .aon
      ∧ t.dev.pGood = false ∧ t.dev.retryDue = (tst s.attic.bootcfg 2 && !s.dev.retried)
    let built := (let a := s.applyTodo
      (a.2.foldl (fun s t => s.retireFound t.1 t.2.1 1) a.1).bringGrid)
    let enough := (State.kaRounds 4 (first :: later) s ((List.range 192).filter fun r => !s.isRetired r) srcModule).2.1
    (turn .aonUp → lead (.aonUp us true ports) 0x10 .fwVerified ∧ fails (.aonUp us false ports) 0x90)
    ∧ (turn .fwVerified →
        (s.attic.image.reject s.fuses.keyHash s.fuses.k = none → tst s.attic.bootcfg 1 = false →
          lead (.fwVerified us) 0x18 .railsUp)
        ∧ (s.attic.image.reject s.fuses.keyHash s.fuses.k = none → tst s.attic.bootcfg 1 = true →
          ∃ t, exec (.fwVerified us) s = .next t ∧ t.dev.next = none ∧ t.dev.base = .aon ∧ t.dev.fwOk = true
            ∧ t.regF Reg.GLB_STAGE 0 8 = 0x18)
        ∧ ∀ why, s.attic.image.reject s.fuses.keyHash s.fuses.k = some why → fails (.fwVerified us) 0x98)
    ∧ (turn .railsUp → s.dev.v48Held = true → s.dev.afterReset = false ∨ tmp.toNat < 85 →
        ((∃ n < 12, convs.getLsbD n = true ∧ n ∉ s.attic.deadConvs) → lead (.railsUp us ⟨convs, bad⟩ tmp) 0x20 .fusesRead)
        ∧ ((∀ n < 12, convs.getLsbD n = false ∨ n ∈ s.attic.deadConvs) → drops (.railsUp us ⟨convs, bad⟩ tmp)))
    ∧ (turn .railsUp → s.dev.v48Held = false ∨ (s.dev.afterReset = true ∧ 85 ≤ tmp.toNat) → exec (.railsUp us ⟨convs, bad⟩ tmp) s = .next s)
    ∧ (turn .fusesRead → lead (.fusesRead us true) 0x28 .clocksLocked ∧ drops (.fusesRead us false))
    ∧ (turn .clocksLocked → (s.dev.refOk = true → lead (.clocksLocked us ⟨true, bad⟩) 0x30 .seamsTrained) ∧ drops (.clocksLocked us ⟨false, bad⟩))
    ∧ (s.dev.refOk = true →
        (turn .seamsTrained → lead (.seamsTrained us seams) 0x38 .cellarTrained)
        ∧ (turn .cellarTrained → lead (.cellarTrained us slices) 0x40 .larderChecked)
        ∧ (turn .larderChecked → lead (.larderChecked us rows) 0x48 .gridBuilt)
        ∧ (turn .gridBuilt → (built.routeFault = none → lead (.gridBuilt us) 0x50 .knownAnswer)
            ∧ (built.routeFault.isSome = true → drops (.gridBuilt us)))
        ∧ (turn .knownAnswer → ∀ crypto : Bool,
            ((enough && crypto) = true → lead (.knownAnswer us first later engines streamOk crypto) 0x58 .linksTrained)
            ∧ ((enough && crypto) = false → drops (.knownAnswer us first later engines streamOk crypto)))
        ∧ (turn .linksTrained → lead (.linksTrained us outs) 0x60 .ready)
        ∧ (turn .ready → s.resil.restart = none → ∃ t, exec (.ready us) s = .next t ∧ t.dev.next = none
            ∧ t.dev.base = (if s.dev.degraded = true ∨ s.lostCols ≠ 0 then .degraded else .ready)
            ∧ t.regF Reg.GLB_STAGE 0 8 = 0x70 ∧ tst t.attic.bootcfg 0 = false
            ∧ t.fuses.k = (if s.mgmt.commitFlag = true then max s.fuses.k s.mgmt.svn else s.fuses.k)))
    ∧ ∀ ok crypto : Bool,
      let still (i : Instr) : Prop := exec i s = .next s
      (¬ turn .aonUp → still (.aonUp us ok ports)) ∧ (¬ turn .fwVerified → still (.fwVerified us))
      ∧ (¬ turn .railsUp → still (.railsUp us ⟨convs, bad⟩ tmp)) ∧ (¬ turn .fusesRead → still (.fusesRead us ok))
      ∧ (¬ turn .clocksLocked → still (.clocksLocked us ⟨ok, bad⟩)) ∧ (turn .clocksLocked → s.dev.refOk = false → still (.clocksLocked us ⟨true, bad⟩))
      ∧ (¬ turn .seamsTrained ∨ s.dev.refOk = false → still (.seamsTrained us seams))
      ∧ (¬ turn .cellarTrained ∨ s.dev.refOk = false → still (.cellarTrained us slices))
      ∧ (¬ turn .larderChecked ∨ s.dev.refOk = false → still (.larderChecked us rows))
      ∧ (¬ turn .gridBuilt ∨ s.dev.refOk = false → still (.gridBuilt us))
      ∧ (¬ turn .knownAnswer ∨ s.dev.refOk = false → still (.knownAnswer us first later engines streamOk crypto))
      ∧ (¬ turn .linksTrained ∨ s.dev.refOk = false → still (.linksTrained us outs))
      ∧ (¬ turn .ready ∨ s.dev.refOk = false → still (.ready us))

/-- Mailbox, watch units, SMBus, reset input and test access port answer and act as their rules say. From AON_UP on,
on a port that takes packets in, with no image transfer of the other port and no attic write of an image: identity,
attestation, log and record reads are answered, from FW_VERIFIED where the rule says so, else status 3; FW_WRITE puts
the bytes into the staging buffer and holds the mailbox; FW_COMMIT checks the image, and one that passes is written
within 36 to 44 s (log entry 85), when the image changes and the mailbox is free; FW_ACTIVATE is refused outside AON.
While the other port transfers an image, or one is written, an operation is answered busy. ARM clears a stopped unit's
results (its bit is stored nowhere: log entry 171); a capture starts when the counter reaches START, ends at END or by
STOP, and each sample that is due counts in one bin and moves MIN and MAX. SMBus reads (their forms are log entry 88)
are answered once the always-on domain is up; a read of ALERT_STATUS clears the causes and nALERT. RESET of 25 periods
resets all but fuses and attic, where only a write under way is cut, and starts AON_UP. A TAP load selects its
instruction and scans its register (log entry 89); EXTEST and unpublished ones act as BYPASS unless debug is unlocked
in AON, where an unpublished one stops the run: the manual gives it no effect. -/
def Obligations.ManagementCommands : Prop :=
  ∀ (s : State) (p : PortNo) (tid x0 : Word) (nonce : BitVec 256) (addr : DWord) (d : List Byte) (n : BitVec 13) (u : WatchNo)
    (m : BitVec 16) (low : Nat) (sg : BitVec 768) (ti : TapInstr) (x : BitVec 8),
    let open' (k : Nat) := (s.received (portLink p) 1 k).setRegF Reg.MGT_MBSTAT 1 1 p.val
    let mine := s.dev.flashing = none ∧ ∀ b, s.mgmt.busy = some b → b.1 = p.val
    let o := open' 0
    (s.aonLive = true → s.linkIn (portLink p) = true → mine →
      exec (.getIdentity p tid) s = .next (o.mgtReply p tid.toNat opIdentity 0 (o.identity ++ Config.certificate s.fuses.serial))
      ∧ exec (.attest p tid nonce) s = .next (if s.dev.fwOk then (open' 32).mgtReply p tid.toNat opAttest 0
            ((open' 32).attestBody nonce ++ toBe 96 (Config.ecdsaSign s.fuses.serial ((open' 32).attestBody nonce)).toNat)
          else (open' 32).mgtReply p tid.toNat opAttest 3 [])
      ∧ (addr.toNat + d.length ≤ stagingSize → ∃ t, exec (.fwWrite p tid addr d) s = .next t
          ∧ t.mgmt.staging = Tab.setList 0 s.mgmt.staging addr.toNat d ∧ t.mgmt.fill = max s.mgmt.fill (addr.toNat + d.length)
          ∧ t.mgmt.busy = some (p.val, tid.toNat) ∧ t.attic = s.attic)
      ∧ (∃ t, exec (.fwCommit p tid) s = .next t ∧ t.mgmt.fill = 0 ∧ t.attic = s.attic
          ∧ (match (FwImage.mk s.mgmt.staging s.mgmt.fill).reject s.fuses.keyHash s.fuses.k with
            | some _ => t.mgmt.busy = none ∧ t.dev = s.dev
            | none => t.mgmt.busy = some (p.val, tid.toNat) ∧ ∃ w, t.dev.flashing = some w
                ∧ w.image = FwImage.mk s.mgmt.staging s.mgmt.fill ∧ w.port = p.val ∧ w.tid = tid.toNat
                ∧ 36 * second ≤ (w.until_ - s.clk.raw).toNat ∧ (w.until_ - s.clk.raw).toNat ≤ 44 * second))
      ∧ (s.dev.base ≠ .aon → exec (.fwActivate p tid) s = .next (o.mgtReply p tid.toNat opFwActivate 3 []))
      ∧ (s.dev.base = .aon → s.railsUp = false → ∃ t, exec (.fwActivate p tid) s = .next t
          ∧ t.dev.next = some .fwVerified ∧ t.strm = s.strm ∧ t.points = s.points ∧ t.clk = s.clk)
      ∧ (s.dev.fwOk = false → exec (.logRead p tid addr n) s = .next (o.mgtReply p tid.toNat opLogRead 3 [])
          ∧ exec (.recordRead p tid addr n) s = .next (o.mgtReply p tid.toNat opRecordRead 3 []))
      ∧ (s.dev.fwOk = true → addr.toNat + n.toNat ≤ logSize →
          exec (.logRead p tid addr n) s = .next (o.useFree.mgtReply p tid.toNat opLogRead 0
            ((List.range n.toNat).map fun i => o.logByte (addr.toNat + i)))
          ∧ exec (.recordRead p tid addr n) s = .next (o.useFree.mgtReply p tid.toNat opRecordRead 0
            ((List.range n.toNat).map fun i => o.recordByte (addr.toNat + i)))))
    ∧ (s.aonLive = true → s.linkIn (portLink p) = true →
        s.dev.flashing.isSome = true ∨ (∃ b, s.mgmt.busy = some b ∧ b.1 ≠ p.val) →
        exec (.getIdentity p tid) s = .next ((s.received (portLink p) 1 0).send (portLink p) 1 0 (.mgt p tid.toNat opIdentity 1 [])))
    ∧ (s.mgmt.busy.isSome = true → exec .mailboxTimeout s = .next (if s.dev.flashing.isNone then s.mbFree else s))
    ∧ (∀ w, s.dev.flashing = some w → w.until_.toNat ≤ s.clk.raw.toNat →
        s.atticWrites.attic.image = w.image ∧ s.atticWrites.mgmt.busy = none ∧ s.atticWrites.dev.flashing = none)
    ∧ (s.canon = true →
        let v := s.watchValue u x0
        (s.reach (Reg.MGT_WCTL u) = true → s.watchStopped u = true → ∃ t, exec (.wctlArm p u) s = .next t
          ∧ (∀ a ∈ watchResults u, t.reg a = 0) ∧ (t.watchState u ≠ wsIdle)
          ∧ t.regF (Reg.MGT_WCTL u) 5 1 = b2n (!(watchKinds (watchScope u)).contains (s.watchKind u)))
        ∧ (s.watchTakes u = true → s.watchDue u = false ∨ s.watchKind u = 0x0B → exec (.watchSample u x0) s = .next s)
        ∧ (s.reach (Reg.MGT_WCTL u) = true → s.watchStopped u = false →
            exec (.wctlStop p u) s = .next (s.setWatchState u wsDone))
        ∧ (s.watchState u = wsArmed → (s.watchFrom u).toNat ≤ s.now.toNat → s.watchHeld u = false →
            let a := s.setWatchState u wsCapturing
            exec (.watchStart u) s = .next (match watchScope u with
              | .region r => if a.watchClaim r u = true ∧ a.rstate r = stBivouac then a.clockUp r else a
              | _ => a))
        ∧ (s.watchState u = wsCapturing → (s.watchTo u).toNat ≤ s.now.toNat →
            exec (.watchEnd u) s = .next (s.setWatchState u wsDone))
        ∧ (s.watchTakes u = true → s.watchDue u = true → s.watchKind u ≠ 0x0B → ∃ t, exec (.watchSample u x0) s = .next t
            ∧ (t.reg (Reg.MGT_WCOUNT u)).toNat = min (2 ^ 32 - 1) ((s.reg (Reg.MGT_WCOUNT u)).toNat + 1)
            ∧ (s.reg (Reg.MGT_WCOUNT u) = 0 → t.reg (Reg.MGT_WMIN u) = v ∧ t.reg (Reg.MGT_WMAX u) = v)
            ∧ (s.reg (Reg.MGT_WCOUNT u) ≠ 0 →
                (t.reg (Reg.MGT_WMIN u)).toInt = min v.toInt (s.reg (Reg.MGT_WMIN u)).toInt
                ∧ (t.reg (Reg.MGT_WMAX u)).toInt = max v.toInt (s.reg (Reg.MGT_WMAX u)).toInt)
            ∧ ∃ b < 32, (∀ i < 32, t.reg (Reg.MGT_WBIN u i)
                  = if i = b then BitVec.ofNat 32 (min (2 ^ 32 - 1) ((s.reg (Reg.MGT_WBIN u i)).toNat + 1)) else s.reg (Reg.MGT_WBIN u i))
                ∧ (v.toInt < (s.reg (Reg.MGT_WBASE u)).toInt → b = 0)))
    ∧ (s.aonLive = true →
        exec .stage s = .next (s.smbReply 0x01 [BitVec.ofNat 8 (s.regF Reg.GLB_STAGE 0 8)])
        ∧ exec .state s = .next (s.smbReply 0x02 [BitVec.ofNat 8 s.devState])
        ∧ exec .temp s = .next (s.smbReply 0x03 [BitVec.ofNat 8 s.hottestJunction])
        ∧ (∃ w, (w = s.regF Reg.GLB_PWRIN 0 16 / 10 ∨ w = s.regF Reg.GLB_PWRIN 0 16 / 10 + 1)
            ∧ exec .pin s = .next (s.useFree.smbReply 0x04 (toLe 2 w)))
        ∧ exec .vin s = .next (s.smbReply 0x05 (block (toLe 4 (s.reg Reg.GLB_VIN).toNat)))
        ∧ exec .ident s = .next (s.smbReply 0x10 (block s.smbIdent))
        ∧ (∃ t, exec .alertStatus s = .next t ∧ t.dev.alerts = 0 ∧ t.dev.nAlert = false
            ∧ t.out = (s.smbReply 0x20 (toLe 2 s.dev.alerts.toNat)).out)
        ∧ exec (.alertMask none) s = .next (s.smbReply 0x21 (toLe 2 s.dev.alertMask.toNat))
        ∧ exec (.alertMask (some m)) s = .next { s with dev := { s.dev with alertMask := m &&& 0x7F } }
        ∧ (s.dev.nAlert = false → exec .alertResponse s = .next s)
        ∧ (s.dev.nAlert = true → exec .alertResponse s = .next (s.emit (.smbus [BitVec.ofNat 8 (2 * s.smbAddr),
            pec [0x19, BitVec.ofNat 8 (2 * s.smbAddr)]])))
        ∧ (∃ t, exec (.debugUnlock sg) s = .next t ∧ t.dev.tap = .debugUnlock
            ∧ t.dev.debug = (s.dev.debug || Config.debugSigOk s.dev.challenge sg))
        ∧ (s.tapOpen = true → exec (.tapInstructionLoad .extest) s = .next (s.scanOut .extest)
            ∧ exec (.tapInstructionLoad (.unpublished x)) s = .refused .privateTapInstruction)
        ∧ (s.tapOpen = false → exec (.tapInstructionLoad .extest) s = .next (s.scanOut .bypass)
            ∧ exec (.tapInstructionLoad (.unpublished x)) s = .next (s.scanOut .bypass))
        ∧ (ti ≠ .extest → (∀ y, ti ≠ .unpublished y) → exec (.tapInstructionLoad ti) s = .next (s.scanOut ti))
        ∧ (s.scanOut ti).dev.tap = ti ∧ (s.scanOut .idcode).out = s.out ++ [.tdo (toLe 4 s.idcode.toNat)]
        ∧ (s.scanOut .bypass).out = s.out ++ [.tdo [0]])
    ∧ (s.dev.base ≠ .off → exec .testReset s = .next (s.setTap .idcode))
    ∧ (25 ≤ low → s.dev.base ≠ .off → s.dev.backup = false →
        ∃ t, exec (.nreset low) s = .next t ∧ t.dev.base = .aon ∧ t.dev.next = some .aonUp ∧ t.fuses = s.fuses ∧ t.attic = s.cutWrites
          ∧ (s.dev.saving = none → s.dev.flashing = none → t.attic = s.attic)
          ∧ t.regs = [] ∧ t.larder = [] ∧ t.cellar = [] ∧ t.strm = {} ∧ t.jobs = {})
    ∧ (low < 25 → exec (.nreset low) s = .next s)
end

