-- ==== Sys2Proof/Laws/State.lean ====
section
/-! SUPPORT. What each update of one part of the state leaves in every field. -/

namespace Sys2Proof.Machine.State

variable (s : State)

-- setReg

@[simp] theorem setReg_fuses (a : Nat) (v : Word) : (s.setReg a v).fuses = s.fuses := rfl
@[simp] theorem setReg_attic (a : Nat) (v : Word) : (s.setReg a v).attic = s.attic := rfl
@[simp] theorem setReg_dev (a : Nat) (v : Word) : (s.setReg a v).dev = s.dev := rfl
@[simp] theorem setReg_clk (a : Nat) (v : Word) : (s.setReg a v).clk = s.clk := rfl
theorem setReg_regs (a : Nat) (v : Word) : (s.setReg a v).regs = (Tab.set none s.regs a (if v = regReset a then none else some v)) := rfl
@[simp] theorem setReg_latches (a : Nat) (v : Word) : (s.setReg a v).latches = s.latches := rfl
@[simp] theorem setReg_larder (a : Nat) (v : Word) : (s.setReg a v).larder = s.larder := rfl
@[simp] theorem setReg_larErr (a : Nat) (v : Word) : (s.setReg a v).larErr = s.larErr := rfl
@[simp] theorem setReg_cellar (a : Nat) (v : Word) : (s.setReg a v).cellar = s.cellar := rfl
@[simp] theorem setReg_celErr (a : Nat) (v : Word) : (s.setReg a v).celErr = s.celErr := rfl
@[simp] theorem setReg_conflicts (a : Nat) (v : Word) : (s.setReg a v).conflicts = s.conflicts := rfl
@[simp] theorem setReg_clusters (a : Nat) (v : Word) : (s.setReg a v).clusters = s.clusters := rfl
@[simp] theorem setReg_regions (a : Nat) (v : Word) : (s.setReg a v).regions = s.regions := rfl
@[simp] theorem setReg_slabs (a : Nat) (v : Word) : (s.setReg a v).slabs = s.slabs := rfl
@[simp] theorem setReg_links (a : Nat) (v : Word) : (s.setReg a v).links = s.links := rfl
@[simp] theorem setReg_sync (a : Nat) (v : Word) : (s.setReg a v).sync = s.sync := rfl
@[simp] theorem setReg_jobs (a : Nat) (v : Word) : (s.setReg a v).jobs = s.jobs := rfl
@[simp] theorem setReg_points (a : Nat) (v : Word) : (s.setReg a v).points = s.points := rfl
@[simp] theorem setReg_strm (a : Nat) (v : Word) : (s.setReg a v).strm = s.strm := rfl
@[simp] theorem setReg_reqs (a : Nat) (v : Word) : (s.setReg a v).reqs = s.reqs := rfl
@[simp] theorem setReg_hands (a : Nat) (v : Word) : (s.setReg a v).hands = s.hands := rfl
@[simp] theorem setReg_resil (a : Nat) (v : Word) : (s.setReg a v).resil = s.resil := rfl
@[simp] theorem setReg_mgmt (a : Nat) (v : Word) : (s.setReg a v).mgmt = s.mgmt := rfl
@[simp] theorem setReg_out (a : Nat) (v : Word) : (s.setReg a v).out = s.out := rfl
@[simp] theorem setReg_freeCtr (a : Nat) (v : Word) : (s.setReg a v).freeCtr = s.freeCtr := rfl
@[simp] theorem setReg_pending (a : Nat) (v : Word) : (s.setReg a v).pending = s.pending := rfl

-- setRegF

@[simp] theorem setRegF_fuses (a lo len v : Nat) : (s.setRegF a lo len v).fuses = s.fuses := rfl
@[simp] theorem setRegF_attic (a lo len v : Nat) : (s.setRegF a lo len v).attic = s.attic := rfl
@[simp] theorem setRegF_dev (a lo len v : Nat) : (s.setRegF a lo len v).dev = s.dev := rfl
@[simp] theorem setRegF_clk (a lo len v : Nat) : (s.setRegF a lo len v).clk = s.clk := rfl
@[simp] theorem setRegF_latches (a lo len v : Nat) : (s.setRegF a lo len v).latches = s.latches := rfl
@[simp] theorem setRegF_larder (a lo len v : Nat) : (s.setRegF a lo len v).larder = s.larder := rfl
@[simp] theorem setRegF_larErr (a lo len v : Nat) : (s.setRegF a lo len v).larErr = s.larErr := rfl
@[simp] theorem setRegF_cellar (a lo len v : Nat) : (s.setRegF a lo len v).cellar = s.cellar := rfl
@[simp] theorem setRegF_celErr (a lo len v : Nat) : (s.setRegF a lo len v).celErr = s.celErr := rfl
@[simp] theorem setRegF_conflicts (a lo len v : Nat) : (s.setRegF a lo len v).conflicts = s.conflicts := rfl
@[simp] theorem setRegF_clusters (a lo len v : Nat) : (s.setRegF a lo len v).clusters = s.clusters := rfl
@[simp] theorem setRegF_regions (a lo len v : Nat) : (s.setRegF a lo len v).regions = s.regions := rfl
@[simp] theorem setRegF_slabs (a lo len v : Nat) : (s.setRegF a lo len v).slabs = s.slabs := rfl
@[simp] theorem setRegF_links (a lo len v : Nat) : (s.setRegF a lo len v).links = s.links := rfl
@[simp] theorem setRegF_sync (a lo len v : Nat) : (s.setRegF a lo len v).sync = s.sync := rfl
@[simp] theorem setRegF_jobs (a lo len v : Nat) : (s.setRegF a lo len v).jobs = s.jobs := rfl
@[simp] theorem setRegF_points (a lo len v : Nat) : (s.setRegF a lo len v).points = s.points := rfl
@[simp] theorem setRegF_strm (a lo len v : Nat) : (s.setRegF a lo len v).strm = s.strm := rfl
@[simp] theorem setRegF_reqs (a lo len v : Nat) : (s.setRegF a lo len v).reqs = s.reqs := rfl
@[simp] theorem setRegF_hands (a lo len v : Nat) : (s.setRegF a lo len v).hands = s.hands := rfl
@[simp] theorem setRegF_resil (a lo len v : Nat) : (s.setRegF a lo len v).resil = s.resil := rfl
@[simp] theorem setRegF_mgmt (a lo len v : Nat) : (s.setRegF a lo len v).mgmt = s.mgmt := rfl
@[simp] theorem setRegF_out (a lo len v : Nat) : (s.setRegF a lo len v).out = s.out := rfl
@[simp] theorem setRegF_freeCtr (a lo len v : Nat) : (s.setRegF a lo len v).freeCtr = s.freeCtr := rfl
@[simp] theorem setRegF_pending (a lo len v : Nat) : (s.setRegF a lo len v).pending = s.pending := rfl

-- count

@[simp] theorem count_fuses (a lo len d : Nat) : (s.count a lo len d).fuses = s.fuses := rfl
@[simp] theorem count_attic (a lo len d : Nat) : (s.count a lo len d).attic = s.attic := rfl
@[simp] theorem count_dev (a lo len d : Nat) : (s.count a lo len d).dev = s.dev := rfl
@[simp] theorem count_clk (a lo len d : Nat) : (s.count a lo len d).clk = s.clk := rfl
@[simp] theorem count_latches (a lo len d : Nat) : (s.count a lo len d).latches = s.latches := rfl
@[simp] theorem count_larder (a lo len d : Nat) : (s.count a lo len d).larder = s.larder := rfl
@[simp] theorem count_larErr (a lo len d : Nat) : (s.count a lo len d).larErr = s.larErr := rfl
@[simp] theorem count_cellar (a lo len d : Nat) : (s.count a lo len d).cellar = s.cellar := rfl
@[simp] theorem count_celErr (a lo len d : Nat) : (s.count a lo len d).celErr = s.celErr := rfl
@[simp] theorem count_conflicts (a lo len d : Nat) : (s.count a lo len d).conflicts = s.conflicts := rfl
@[simp] theorem count_clusters (a lo len d : Nat) : (s.count a lo len d).clusters = s.clusters := rfl
@[simp] theorem count_regions (a lo len d : Nat) : (s.count a lo len d).regions = s.regions := rfl
@[simp] theorem count_slabs (a lo len d : Nat) : (s.count a lo len d).slabs = s.slabs := rfl
@[simp] theorem count_links (a lo len d : Nat) : (s.count a lo len d).links = s.links := rfl
@[simp] theorem count_sync (a lo len d : Nat) : (s.count a lo len d).sync = s.sync := rfl
@[simp] theorem count_jobs (a lo len d : Nat) : (s.count a lo len d).jobs = s.jobs := rfl
@[simp] theorem count_points (a lo len d : Nat) : (s.count a lo len d).points = s.points := rfl
@[simp] theorem count_strm (a lo len d : Nat) : (s.count a lo len d).strm = s.strm := rfl
@[simp] theorem count_reqs (a lo len d : Nat) : (s.count a lo len d).reqs = s.reqs := rfl
@[simp] theorem count_hands (a lo len d : Nat) : (s.count a lo len d).hands = s.hands := rfl
@[simp] theorem count_resil (a lo len d : Nat) : (s.count a lo len d).resil = s.resil := rfl
@[simp] theorem count_mgmt (a lo len d : Nat) : (s.count a lo len d).mgmt = s.mgmt := rfl
@[simp] theorem count_out (a lo len d : Nat) : (s.count a lo len d).out = s.out := rfl
@[simp] theorem count_freeCtr (a lo len d : Nat) : (s.count a lo len d).freeCtr = s.freeCtr := rfl
@[simp] theorem count_pending (a lo len d : Nat) : (s.count a lo len d).pending = s.pending := rfl

-- setCl

@[simp] theorem setCl_fuses (i : Nat) (x : Cluster) : (s.setCl i x).fuses = s.fuses := rfl
@[simp] theorem setCl_attic (i : Nat) (x : Cluster) : (s.setCl i x).attic = s.attic := rfl
@[simp] theorem setCl_dev (i : Nat) (x : Cluster) : (s.setCl i x).dev = s.dev := rfl
@[simp] theorem setCl_clk (i : Nat) (x : Cluster) : (s.setCl i x).clk = s.clk := rfl
@[simp] theorem setCl_regs (i : Nat) (x : Cluster) : (s.setCl i x).regs = s.regs := rfl
@[simp] theorem setCl_latches (i : Nat) (x : Cluster) : (s.setCl i x).latches = s.latches := rfl
@[simp] theorem setCl_larder (i : Nat) (x : Cluster) : (s.setCl i x).larder = s.larder := rfl
@[simp] theorem setCl_larErr (i : Nat) (x : Cluster) : (s.setCl i x).larErr = s.larErr := rfl
@[simp] theorem setCl_cellar (i : Nat) (x : Cluster) : (s.setCl i x).cellar = s.cellar := rfl
@[simp] theorem setCl_celErr (i : Nat) (x : Cluster) : (s.setCl i x).celErr = s.celErr := rfl
@[simp] theorem setCl_conflicts (i : Nat) (x : Cluster) : (s.setCl i x).conflicts = s.conflicts := rfl
theorem setCl_clusters (i : Nat) (x : Cluster) : (s.setCl i x).clusters = (Tab.set {} s.clusters i x) := rfl
@[simp] theorem setCl_regions (i : Nat) (x : Cluster) : (s.setCl i x).regions = s.regions := rfl
@[simp] theorem setCl_slabs (i : Nat) (x : Cluster) : (s.setCl i x).slabs = s.slabs := rfl
@[simp] theorem setCl_links (i : Nat) (x : Cluster) : (s.setCl i x).links = s.links := rfl
@[simp] theorem setCl_sync (i : Nat) (x : Cluster) : (s.setCl i x).sync = s.sync := rfl
@[simp] theorem setCl_jobs (i : Nat) (x : Cluster) : (s.setCl i x).jobs = s.jobs := rfl
@[simp] theorem setCl_points (i : Nat) (x : Cluster) : (s.setCl i x).points = s.points := rfl
@[simp] theorem setCl_strm (i : Nat) (x : Cluster) : (s.setCl i x).strm = s.strm := rfl
@[simp] theorem setCl_reqs (i : Nat) (x : Cluster) : (s.setCl i x).reqs = s.reqs := rfl
@[simp] theorem setCl_hands (i : Nat) (x : Cluster) : (s.setCl i x).hands = s.hands := rfl
@[simp] theorem setCl_resil (i : Nat) (x : Cluster) : (s.setCl i x).resil = s.resil := rfl
@[simp] theorem setCl_mgmt (i : Nat) (x : Cluster) : (s.setCl i x).mgmt = s.mgmt := rfl
@[simp] theorem setCl_out (i : Nat) (x : Cluster) : (s.setCl i x).out = s.out := rfl
@[simp] theorem setCl_freeCtr (i : Nat) (x : Cluster) : (s.setCl i x).freeCtr = s.freeCtr := rfl
@[simp] theorem setCl_pending (i : Nat) (x : Cluster) : (s.setCl i x).pending = s.pending := rfl

-- setRg

@[simp] theorem setRg_fuses (i : Nat) (x : RegionSt) : (s.setRg i x).fuses = s.fuses := rfl
@[simp] theorem setRg_attic (i : Nat) (x : RegionSt) : (s.setRg i x).attic = s.attic := rfl
@[simp] theorem setRg_dev (i : Nat) (x : RegionSt) : (s.setRg i x).dev = s.dev := rfl
@[simp] theorem setRg_clk (i : Nat) (x : RegionSt) : (s.setRg i x).clk = s.clk := rfl
@[simp] theorem setRg_regs (i : Nat) (x : RegionSt) : (s.setRg i x).regs = s.regs := rfl
@[simp] theorem setRg_latches (i : Nat) (x : RegionSt) : (s.setRg i x).latches = s.latches := rfl
@[simp] theorem setRg_larder (i : Nat) (x : RegionSt) : (s.setRg i x).larder = s.larder := rfl
@[simp] theorem setRg_larErr (i : Nat) (x : RegionSt) : (s.setRg i x).larErr = s.larErr := rfl
@[simp] theorem setRg_cellar (i : Nat) (x : RegionSt) : (s.setRg i x).cellar = s.cellar := rfl
@[simp] theorem setRg_celErr (i : Nat) (x : RegionSt) : (s.setRg i x).celErr = s.celErr := rfl
@[simp] theorem setRg_conflicts (i : Nat) (x : RegionSt) : (s.setRg i x).conflicts = s.conflicts := rfl
@[simp] theorem setRg_clusters (i : Nat) (x : RegionSt) : (s.setRg i x).clusters = s.clusters := rfl
theorem setRg_regions (i : Nat) (x : RegionSt) : (s.setRg i x).regions = (Tab.set {} s.regions i x) := rfl
@[simp] theorem setRg_slabs (i : Nat) (x : RegionSt) : (s.setRg i x).slabs = s.slabs := rfl
@[simp] theorem setRg_links (i : Nat) (x : RegionSt) : (s.setRg i x).links = s.links := rfl
@[simp] theorem setRg_sync (i : Nat) (x : RegionSt) : (s.setRg i x).sync = s.sync := rfl
@[simp] theorem setRg_jobs (i : Nat) (x : RegionSt) : (s.setRg i x).jobs = s.jobs := rfl
@[simp] theorem setRg_points (i : Nat) (x : RegionSt) : (s.setRg i x).points = s.points := rfl
@[simp] theorem setRg_strm (i : Nat) (x : RegionSt) : (s.setRg i x).strm = s.strm := rfl
@[simp] theorem setRg_reqs (i : Nat) (x : RegionSt) : (s.setRg i x).reqs = s.reqs := rfl
@[simp] theorem setRg_hands (i : Nat) (x : RegionSt) : (s.setRg i x).hands = s.hands := rfl
@[simp] theorem setRg_resil (i : Nat) (x : RegionSt) : (s.setRg i x).resil = s.resil := rfl
@[simp] theorem setRg_mgmt (i : Nat) (x : RegionSt) : (s.setRg i x).mgmt = s.mgmt := rfl
@[simp] theorem setRg_out (i : Nat) (x : RegionSt) : (s.setRg i x).out = s.out := rfl
@[simp] theorem setRg_freeCtr (i : Nat) (x : RegionSt) : (s.setRg i x).freeCtr = s.freeCtr := rfl
@[simp] theorem setRg_pending (i : Nat) (x : RegionSt) : (s.setRg i x).pending = s.pending := rfl

-- setSlab

@[simp] theorem setSlab_fuses (i : Nat) (x : SlabSt) : (s.setSlab i x).fuses = s.fuses := rfl
@[simp] theorem setSlab_attic (i : Nat) (x : SlabSt) : (s.setSlab i x).attic = s.attic := rfl
@[simp] theorem setSlab_dev (i : Nat) (x : SlabSt) : (s.setSlab i x).dev = s.dev := rfl
@[simp] theorem setSlab_clk (i : Nat) (x : SlabSt) : (s.setSlab i x).clk = s.clk := rfl
@[simp] theorem setSlab_regs (i : Nat) (x : SlabSt) : (s.setSlab i x).regs = s.regs := rfl
@[simp] theorem setSlab_latches (i : Nat) (x : SlabSt) : (s.setSlab i x).latches = s.latches := rfl
@[simp] theorem setSlab_larder (i : Nat) (x : SlabSt) : (s.setSlab i x).larder = s.larder := rfl
@[simp] theorem setSlab_larErr (i : Nat) (x : SlabSt) : (s.setSlab i x).larErr = s.larErr := rfl
@[simp] theorem setSlab_cellar (i : Nat) (x : SlabSt) : (s.setSlab i x).cellar = s.cellar := rfl
@[simp] theorem setSlab_celErr (i : Nat) (x : SlabSt) : (s.setSlab i x).celErr = s.celErr := rfl
@[simp] theorem setSlab_conflicts (i : Nat) (x : SlabSt) : (s.setSlab i x).conflicts = s.conflicts := rfl
@[simp] theorem setSlab_clusters (i : Nat) (x : SlabSt) : (s.setSlab i x).clusters = s.clusters := rfl
@[simp] theorem setSlab_regions (i : Nat) (x : SlabSt) : (s.setSlab i x).regions = s.regions := rfl
theorem setSlab_slabs (i : Nat) (x : SlabSt) : (s.setSlab i x).slabs = (Tab.set {} s.slabs i x) := rfl
@[simp] theorem setSlab_links (i : Nat) (x : SlabSt) : (s.setSlab i x).links = s.links := rfl
@[simp] theorem setSlab_sync (i : Nat) (x : SlabSt) : (s.setSlab i x).sync = s.sync := rfl
@[simp] theorem setSlab_jobs (i : Nat) (x : SlabSt) : (s.setSlab i x).jobs = s.jobs := rfl
@[simp] theorem setSlab_points (i : Nat) (x : SlabSt) : (s.setSlab i x).points = s.points := rfl
@[simp] theorem setSlab_strm (i : Nat) (x : SlabSt) : (s.setSlab i x).strm = s.strm := rfl
@[simp] theorem setSlab_reqs (i : Nat) (x : SlabSt) : (s.setSlab i x).reqs = s.reqs := rfl
@[simp] theorem setSlab_hands (i : Nat) (x : SlabSt) : (s.setSlab i x).hands = s.hands := rfl
@[simp] theorem setSlab_resil (i : Nat) (x : SlabSt) : (s.setSlab i x).resil = s.resil := rfl
@[simp] theorem setSlab_mgmt (i : Nat) (x : SlabSt) : (s.setSlab i x).mgmt = s.mgmt := rfl
@[simp] theorem setSlab_out (i : Nat) (x : SlabSt) : (s.setSlab i x).out = s.out := rfl
@[simp] theorem setSlab_freeCtr (i : Nat) (x : SlabSt) : (s.setSlab i x).freeCtr = s.freeCtr := rfl
@[simp] theorem setSlab_pending (i : Nat) (x : SlabSt) : (s.setSlab i x).pending = s.pending := rfl

-- setLnk

@[simp] theorem setLnk_fuses (i : Nat) (x : LinkSt) : (s.setLnk i x).fuses = s.fuses := rfl
@[simp] theorem setLnk_attic (i : Nat) (x : LinkSt) : (s.setLnk i x).attic = s.attic := rfl
@[simp] theorem setLnk_dev (i : Nat) (x : LinkSt) : (s.setLnk i x).dev = s.dev := rfl
@[simp] theorem setLnk_clk (i : Nat) (x : LinkSt) : (s.setLnk i x).clk = s.clk := rfl
@[simp] theorem setLnk_regs (i : Nat) (x : LinkSt) : (s.setLnk i x).regs = s.regs := rfl
@[simp] theorem setLnk_latches (i : Nat) (x : LinkSt) : (s.setLnk i x).latches = s.latches := rfl
@[simp] theorem setLnk_larder (i : Nat) (x : LinkSt) : (s.setLnk i x).larder = s.larder := rfl
@[simp] theorem setLnk_larErr (i : Nat) (x : LinkSt) : (s.setLnk i x).larErr = s.larErr := rfl
@[simp] theorem setLnk_cellar (i : Nat) (x : LinkSt) : (s.setLnk i x).cellar = s.cellar := rfl
@[simp] theorem setLnk_celErr (i : Nat) (x : LinkSt) : (s.setLnk i x).celErr = s.celErr := rfl
@[simp] theorem setLnk_conflicts (i : Nat) (x : LinkSt) : (s.setLnk i x).conflicts = s.conflicts := rfl
@[simp] theorem setLnk_clusters (i : Nat) (x : LinkSt) : (s.setLnk i x).clusters = s.clusters := rfl
@[simp] theorem setLnk_regions (i : Nat) (x : LinkSt) : (s.setLnk i x).regions = s.regions := rfl
@[simp] theorem setLnk_slabs (i : Nat) (x : LinkSt) : (s.setLnk i x).slabs = s.slabs := rfl
theorem setLnk_links (i : Nat) (x : LinkSt) : (s.setLnk i x).links = (Tab.set {} s.links i x) := rfl
@[simp] theorem setLnk_sync (i : Nat) (x : LinkSt) : (s.setLnk i x).sync = s.sync := rfl
@[simp] theorem setLnk_jobs (i : Nat) (x : LinkSt) : (s.setLnk i x).jobs = s.jobs := rfl
@[simp] theorem setLnk_points (i : Nat) (x : LinkSt) : (s.setLnk i x).points = s.points := rfl
@[simp] theorem setLnk_strm (i : Nat) (x : LinkSt) : (s.setLnk i x).strm = s.strm := rfl
@[simp] theorem setLnk_reqs (i : Nat) (x : LinkSt) : (s.setLnk i x).reqs = s.reqs := rfl
@[simp] theorem setLnk_hands (i : Nat) (x : LinkSt) : (s.setLnk i x).hands = s.hands := rfl
@[simp] theorem setLnk_resil (i : Nat) (x : LinkSt) : (s.setLnk i x).resil = s.resil := rfl
@[simp] theorem setLnk_mgmt (i : Nat) (x : LinkSt) : (s.setLnk i x).mgmt = s.mgmt := rfl
@[simp] theorem setLnk_out (i : Nat) (x : LinkSt) : (s.setLnk i x).out = s.out := rfl
@[simp] theorem setLnk_freeCtr (i : Nat) (x : LinkSt) : (s.setLnk i x).freeCtr = s.freeCtr := rfl
@[simp] theorem setLnk_pending (i : Nat) (x : LinkSt) : (s.setLnk i x).pending = s.pending := rfl

-- setRing

@[simp] theorem setRing_fuses (i : Nat) (x : RingSt) : (s.setRing i x).fuses = s.fuses := rfl
@[simp] theorem setRing_attic (i : Nat) (x : RingSt) : (s.setRing i x).attic = s.attic := rfl
@[simp] theorem setRing_dev (i : Nat) (x : RingSt) : (s.setRing i x).dev = s.dev := rfl
@[simp] theorem setRing_clk (i : Nat) (x : RingSt) : (s.setRing i x).clk = s.clk := rfl
@[simp] theorem setRing_regs (i : Nat) (x : RingSt) : (s.setRing i x).regs = s.regs := rfl
@[simp] theorem setRing_latches (i : Nat) (x : RingSt) : (s.setRing i x).latches = s.latches := rfl
@[simp] theorem setRing_larder (i : Nat) (x : RingSt) : (s.setRing i x).larder = s.larder := rfl
@[simp] theorem setRing_larErr (i : Nat) (x : RingSt) : (s.setRing i x).larErr = s.larErr := rfl
@[simp] theorem setRing_cellar (i : Nat) (x : RingSt) : (s.setRing i x).cellar = s.cellar := rfl
@[simp] theorem setRing_celErr (i : Nat) (x : RingSt) : (s.setRing i x).celErr = s.celErr := rfl
@[simp] theorem setRing_conflicts (i : Nat) (x : RingSt) : (s.setRing i x).conflicts = s.conflicts := rfl
@[simp] theorem setRing_clusters (i : Nat) (x : RingSt) : (s.setRing i x).clusters = s.clusters := rfl
@[simp] theorem setRing_regions (i : Nat) (x : RingSt) : (s.setRing i x).regions = s.regions := rfl
@[simp] theorem setRing_slabs (i : Nat) (x : RingSt) : (s.setRing i x).slabs = s.slabs := rfl
@[simp] theorem setRing_links (i : Nat) (x : RingSt) : (s.setRing i x).links = s.links := rfl
@[simp] theorem setRing_sync (i : Nat) (x : RingSt) : (s.setRing i x).sync = s.sync := rfl
theorem setRing_jobs (i : Nat) (x : RingSt) : (s.setRing i x).jobs = { s.jobs with rings := Tab.set {} s.jobs.rings i x } := rfl
@[simp] theorem setRing_points (i : Nat) (x : RingSt) : (s.setRing i x).points = s.points := rfl
@[simp] theorem setRing_strm (i : Nat) (x : RingSt) : (s.setRing i x).strm = s.strm := rfl
@[simp] theorem setRing_reqs (i : Nat) (x : RingSt) : (s.setRing i x).reqs = s.reqs := rfl
@[simp] theorem setRing_hands (i : Nat) (x : RingSt) : (s.setRing i x).hands = s.hands := rfl
@[simp] theorem setRing_resil (i : Nat) (x : RingSt) : (s.setRing i x).resil = s.resil := rfl
@[simp] theorem setRing_mgmt (i : Nat) (x : RingSt) : (s.setRing i x).mgmt = s.mgmt := rfl
@[simp] theorem setRing_out (i : Nat) (x : RingSt) : (s.setRing i x).out = s.out := rfl
@[simp] theorem setRing_freeCtr (i : Nat) (x : RingSt) : (s.setRing i x).freeCtr = s.freeCtr := rfl
@[simp] theorem setRing_pending (i : Nat) (x : RingSt) : (s.setRing i x).pending = s.pending := rfl

-- useFree

@[simp] theorem useFree_fuses : (s.useFree).fuses = s.fuses := rfl
@[simp] theorem useFree_attic : (s.useFree).attic = s.attic := rfl
@[simp] theorem useFree_dev : (s.useFree).dev = s.dev := rfl
@[simp] theorem useFree_clk : (s.useFree).clk = s.clk := rfl
@[simp] theorem useFree_regs : (s.useFree).regs = s.regs := rfl
@[simp] theorem useFree_latches : (s.useFree).latches = s.latches := rfl
@[simp] theorem useFree_larder : (s.useFree).larder = s.larder := rfl
@[simp] theorem useFree_larErr : (s.useFree).larErr = s.larErr := rfl
@[simp] theorem useFree_cellar : (s.useFree).cellar = s.cellar := rfl
@[simp] theorem useFree_celErr : (s.useFree).celErr = s.celErr := rfl
@[simp] theorem useFree_clusters : (s.useFree).clusters = s.clusters := rfl
@[simp] theorem useFree_regions : (s.useFree).regions = s.regions := rfl
@[simp] theorem useFree_slabs : (s.useFree).slabs = s.slabs := rfl
@[simp] theorem useFree_links : (s.useFree).links = s.links := rfl
@[simp] theorem useFree_sync : (s.useFree).sync = s.sync := rfl
@[simp] theorem useFree_jobs : (s.useFree).jobs = s.jobs := rfl
@[simp] theorem useFree_points : (s.useFree).points = s.points := rfl
@[simp] theorem useFree_strm : (s.useFree).strm = s.strm := rfl
@[simp] theorem useFree_reqs : (s.useFree).reqs = s.reqs := rfl
@[simp] theorem useFree_resil : (s.useFree).resil = s.resil := rfl
@[simp] theorem useFree_mgmt : (s.useFree).mgmt = s.mgmt := rfl
@[simp] theorem useFree_out : (s.useFree).out = s.out := rfl
theorem useFree_freeCtr : (s.useFree).freeCtr = (s.freeCtr + 1) := rfl
@[simp] theorem useFree_pending : (s.useFree).pending = s.pending := rfl

-- emit

@[simp] theorem emit_fuses (o : Out) : (s.emit o).fuses = s.fuses := rfl
@[simp] theorem emit_attic (o : Out) : (s.emit o).attic = s.attic := rfl
@[simp] theorem emit_dev (o : Out) : (s.emit o).dev = s.dev := rfl
@[simp] theorem emit_clk (o : Out) : (s.emit o).clk = s.clk := rfl
@[simp] theorem emit_regs (o : Out) : (s.emit o).regs = s.regs := rfl
@[simp] theorem emit_latches (o : Out) : (s.emit o).latches = s.latches := rfl
@[simp] theorem emit_larder (o : Out) : (s.emit o).larder = s.larder := rfl
@[simp] theorem emit_larErr (o : Out) : (s.emit o).larErr = s.larErr := rfl
@[simp] theorem emit_cellar (o : Out) : (s.emit o).cellar = s.cellar := rfl
@[simp] theorem emit_celErr (o : Out) : (s.emit o).celErr = s.celErr := rfl
@[simp] theorem emit_conflicts (o : Out) : (s.emit o).conflicts = s.conflicts := rfl
@[simp] theorem emit_clusters (o : Out) : (s.emit o).clusters = s.clusters := rfl
@[simp] theorem emit_regions (o : Out) : (s.emit o).regions = s.regions := rfl
@[simp] theorem emit_slabs (o : Out) : (s.emit o).slabs = s.slabs := rfl
@[simp] theorem emit_links (o : Out) : (s.emit o).links = s.links := rfl
@[simp] theorem emit_sync (o : Out) : (s.emit o).sync = s.sync := rfl
@[simp] theorem emit_jobs (o : Out) : (s.emit o).jobs = s.jobs := rfl
@[simp] theorem emit_points (o : Out) : (s.emit o).points = s.points := rfl
@[simp] theorem emit_strm (o : Out) : (s.emit o).strm = s.strm := rfl
@[simp] theorem emit_reqs (o : Out) : (s.emit o).reqs = s.reqs := rfl
@[simp] theorem emit_hands (o : Out) : (s.emit o).hands = s.hands := rfl
@[simp] theorem emit_resil (o : Out) : (s.emit o).resil = s.resil := rfl
@[simp] theorem emit_mgmt (o : Out) : (s.emit o).mgmt = s.mgmt := rfl
theorem emit_out (o : Out) : (s.emit o).out = (s.out ++ [o]) := rfl
@[simp] theorem emit_freeCtr (o : Out) : (s.emit o).freeCtr = s.freeCtr := rfl
@[simp] theorem emit_pending (o : Out) : (s.emit o).pending = s.pending := rfl

-- report

@[simp] theorem report_fuses (k : ReportKind) : (s.report k).fuses = s.fuses := rfl
@[simp] theorem report_attic (k : ReportKind) : (s.report k).attic = s.attic := rfl
@[simp] theorem report_dev (k : ReportKind) : (s.report k).dev = s.dev := rfl
@[simp] theorem report_clk (k : ReportKind) : (s.report k).clk = s.clk := rfl
@[simp] theorem report_regs (k : ReportKind) : (s.report k).regs = s.regs := rfl
@[simp] theorem report_latches (k : ReportKind) : (s.report k).latches = s.latches := rfl
@[simp] theorem report_larder (k : ReportKind) : (s.report k).larder = s.larder := rfl
@[simp] theorem report_larErr (k : ReportKind) : (s.report k).larErr = s.larErr := rfl
@[simp] theorem report_cellar (k : ReportKind) : (s.report k).cellar = s.cellar := rfl
@[simp] theorem report_celErr (k : ReportKind) : (s.report k).celErr = s.celErr := rfl
@[simp] theorem report_conflicts (k : ReportKind) : (s.report k).conflicts = s.conflicts := rfl
@[simp] theorem report_clusters (k : ReportKind) : (s.report k).clusters = s.clusters := rfl
@[simp] theorem report_regions (k : ReportKind) : (s.report k).regions = s.regions := rfl
@[simp] theorem report_slabs (k : ReportKind) : (s.report k).slabs = s.slabs := rfl
@[simp] theorem report_links (k : ReportKind) : (s.report k).links = s.links := rfl
@[simp] theorem report_sync (k : ReportKind) : (s.report k).sync = s.sync := rfl
@[simp] theorem report_jobs (k : ReportKind) : (s.report k).jobs = s.jobs := rfl
@[simp] theorem report_points (k : ReportKind) : (s.report k).points = s.points := rfl
@[simp] theorem report_strm (k : ReportKind) : (s.report k).strm = s.strm := rfl
@[simp] theorem report_reqs (k : ReportKind) : (s.report k).reqs = s.reqs := rfl
@[simp] theorem report_hands (k : ReportKind) : (s.report k).hands = s.hands := rfl
theorem report_resil (k : ReportKind) : (s.report k).resil = { s.resil with intake := s.resil.intake ++ [k] } := rfl
@[simp] theorem report_mgmt (k : ReportKind) : (s.report k).mgmt = s.mgmt := rfl
@[simp] theorem report_out (k : ReportKind) : (s.report k).out = s.out := rfl
@[simp] theorem report_freeCtr (k : ReportKind) : (s.report k).freeCtr = s.freeCtr := rfl
@[simp] theorem report_pending (k : ReportKind) : (s.report k).pending = s.pending := rfl

-- Updates by a function

theorem updCl_eq (i : Nat) (f : Cluster → Cluster) : s.updCl i f = s.setCl i (f (s.cl i)) := rfl
theorem updRg_eq (i : Nat) (f : RegionSt → RegionSt) : s.updRg i f = s.setRg i (f (s.rg i)) := rfl
theorem updSlab_eq (i : Nat) (f : SlabSt → SlabSt) : s.updSlab i f = s.setSlab i (f (s.slab i)) := rfl
theorem updLnk_eq (i : Nat) (f : LinkSt → LinkSt) : s.updLnk i f = s.setLnk i (f (s.lnk i)) := rfl
theorem updRing_eq (i : Nat) (f : RingSt → RingSt) : s.updRing i f = s.setRing i (f (s.ring i)) := rfl

end Sys2Proof.Machine.State
end

