-- ==== Sys2Proof/Laws/Tab.lean ====
section
/-! SUPPORT. Sparse tables: reads after writes, and that every operation keeps the canonical form. -/

namespace Sys2Proof.Tab

variable {α : Type} [DecidableEq α] {d : α}

-- Canonical tables

theorem wfFrom_cons {k j : Nat} {v : α} {t : Tab α} :
    wfFrom d k ((j, v) :: t) = true ↔ k ≤ j ∧ v ≠ d ∧ wfFrom d (j + 1) t = true := by
  simp [wfFrom, and_assoc]

theorem wfFrom_mono {t : Tab α} {k k' : Nat} (h : wfFrom d k t = true) (hk : k' ≤ k) : wfFrom d k' t = true := by
  cases t with
  | nil => rfl
  | cons e t => obtain ⟨j, v⟩ := e; rw [wfFrom_cons] at *; exact ⟨by omega, h.2.1, h.2.2⟩

theorem get_below {t : Tab α} {k j : Nat} (h : wfFrom d k t = true) (hj : j < k) : get d t j = d := by
  cases t with
  | nil => rfl
  | cons e t =>
    obtain ⟨i, v⟩ := e
    have := (wfFrom_cons.1 h).1
    simp [get, show i ≠ j by omega, show j < i by omega]

omit [DecidableEq α] in
@[simp] theorem get_nil (k : Nat) : get d ([] : Tab α) k = d := rfl

-- Writing one entry

theorem wfFrom_consNe {t : Tab α} {k j : Nat} {v : α} (h : wfFrom d (j + 1) t = true) (hj : k ≤ j) :
    wfFrom d k (consNe d j v t) = true := by
  unfold consNe
  split
  · exact wfFrom_mono h (by omega)
  · rename_i hv; exact wfFrom_cons.2 ⟨hj, hv, h⟩

theorem get_consNe {t : Tab α} {k i : Nat} {v : α} (h : wfFrom d (k + 1) t = true) :
    get d (consNe d k v t) i = if i = k then v else get d t i := by
  unfold consNe
  split
  · rename_i hv
    by_cases hi : i = k
    · subst hi; rw [if_pos rfl, get_below h (by omega), hv]
    · rw [if_neg hi]
  · by_cases hi : i = k
    · subst hi; simp [get]
    · by_cases hk : i < k
      · rw [if_neg hi, get_below h (by omega)]; simp [get, hk]; omega
      · simp [get, show ¬ k = i by omega, show ¬ i < k by omega, hi]

theorem wfFrom_set {t : Tab α} {m k : Nat} {v : α} (h : wfFrom d m t = true) (hk : m ≤ k) :
    wfFrom d m (set d t k v) = true := by
  induction t generalizing m with
  | nil => exact wfFrom_consNe rfl hk
  | cons e t ih =>
    obtain ⟨j, w⟩ := e
    have ⟨h1, h2, h3⟩ := wfFrom_cons.1 h
    simp only [set]
    split
    · subst j; exact wfFrom_consNe h3 hk
    · split
      · exact wfFrom_consNe (wfFrom_cons.2 ⟨by omega, h2, h3⟩) hk
      · exact wfFrom_cons.2 ⟨h1, h2, ih h3 (by omega)⟩

/-- Writing an entry keeps the canonical form. -/
theorem wf_set {t : Tab α} {k : Nat} {v : α} (h : wf d t = true) : wf d (set d t k v) = true := wfFrom_set h (Nat.zero_le _)

theorem get_set_from {t : Tab α} {m k i : Nat} {v : α} (h : wfFrom d m t = true) :
    get d (set d t k v) i = if i = k then v else get d t i := by
  induction t generalizing m with
  | nil => simpa [set] using get_consNe (t := []) (d := d) (k := k) (i := i) (v := v) rfl
  | cons e t ih =>
    obtain ⟨j, w⟩ := e
    have ⟨_, h2, h3⟩ := wfFrom_cons.1 h
    simp only [set]
    split
    · subst j
      rw [get_consNe h3]
      by_cases hi : i = k
      · simp [hi]
      · by_cases hk : i < k
        · rw [if_neg hi, if_neg hi, get_below h3 (by omega)]; simp [get, hk]; omega
        · simp [hi, get, show ¬ k = i by omega, show ¬ i < k by omega]
    · split
      · exact get_consNe (wfFrom_cons.2 ⟨by omega, h2, h3⟩)
      · by_cases hj : j = i
        · subst j; simp [get, show ¬ i = k by omega]
        · by_cases hl : i < j
          · simp [get, hj, hl, show ¬ i = k by omega]
          · simp [get, hj, hl, ih h3]

/-- A read after a write: the entry written at its key, every other entry as before. -/
theorem get_set {t : Tab α} {k i : Nat} {v : α} (h : wf d t = true) :
    get d (set d t k v) i = if i = k then v else get d t i := get_set_from h

theorem wf_nil : wf d ([] : Tab α) = true := rfl

-- Whole tables

theorem wfFrom_mapVals {t : Tab α} {m : Nat} (f : Nat → α → α) (h : wfFrom d m t = true) : wfFrom d m (mapVals d f t) = true := by
  induction t generalizing m with
  | nil => rfl
  | cons e t ih =>
    obtain ⟨j, w⟩ := e
    have ⟨h1, _, h3⟩ := wfFrom_cons.1 h
    exact wfFrom_consNe (ih h3) h1

theorem wf_mapVals {t : Tab α} (f : Nat → α → α) (h : wf d t = true) : wf d (mapVals d f t) = true := wfFrom_mapVals f h

theorem get_mapVals_from {t : Tab α} {m i : Nat} {f : Nat → α → α} (h : wfFrom d m t = true) (hf : f i d = d) :
    get d (mapVals d f t) i = f i (get d t i) := by
  induction t generalizing m with
  | nil => simp [mapVals, hf]
  | cons e t ih =>
    obtain ⟨j, w⟩ := e
    have ⟨_, _, h3⟩ := wfFrom_cons.1 h
    simp only [mapVals]
    rw [get_consNe (wfFrom_mapVals f h3)]
    by_cases hi : i = j
    · subst hi; simp [get]
    · by_cases hl : i < j
      · rw [if_neg hi, get_below (wfFrom_mapVals f h3) (by omega)]; simp [get, hl]; simp [show ¬ j = i by omega, hf]
      · rw [if_neg hi, ih h3]; simp [get, show ¬ j = i by omega, hl]

/-- A mapped table reads as the map of what it read, where the map keeps the default. -/
theorem get_mapVals {t : Tab α} {i : Nat} {f : Nat → α → α} (h : wf d t = true) (hf : f i d = d) :
    get d (mapVals d f t) i = f i (get d t i) := get_mapVals_from h hf

theorem wfFrom_filter {t : Tab α} {m : Nat} (p : Nat × α → Bool) (h : wfFrom d m t = true) : wfFrom d m (t.filter p) = true := by
  induction t generalizing m with
  | nil => rfl
  | cons e t ih =>
    obtain ⟨j, w⟩ := e
    have ⟨h1, h2, h3⟩ := wfFrom_cons.1 h
    by_cases hp : p (j, w)
    · rw [List.filter_cons_of_pos hp]; exact wfFrom_cons.2 ⟨h1, h2, ih h3⟩
    · rw [List.filter_cons_of_neg hp]; exact wfFrom_mono (ih h3) (by omega)

omit [DecidableEq α] in
theorem clear_eq_filter (lo hi : Nat) (t : Tab α) : clear lo hi t = t.filter fun e => !(decide (lo ≤ e.1) && decide (e.1 < hi)) := by
  induction t with
  | nil => rfl
  | cons e t ih =>
    obtain ⟨j, w⟩ := e
    by_cases h : lo ≤ j ∧ j < hi
    · simp only [clear, if_pos h, ih]; rw [List.filter_cons_of_neg (by simp [h])]
    · simp only [clear, if_neg h, ih]; rw [List.filter_cons_of_pos (by simp only [Bool.not_eq_true', Bool.and_eq_false_iff, decide_eq_false_iff_not]; omega)]

theorem wf_filter {t : Tab α} (p : Nat × α → Bool) (h : wf d t = true) : wf d (t.filter p) = true := wfFrom_filter p h

theorem wf_clear {t : Tab α} (lo hi : Nat) (h : wf d t = true) : wf d (clear lo hi t) = true := by
  rw [clear_eq_filter]; exact wfFrom_filter _ h

theorem get_filter_from {t : Tab α} {m i : Nat} {p : Nat × α → Bool} (q : Nat → Bool) (hq : ∀ e, p e = q e.1)
    (h : wfFrom d m t = true) : get d (t.filter p) i = if q i then get d t i else d := by
  induction t generalizing m with
  | nil => simp
  | cons e t ih =>
    obtain ⟨j, w⟩ := e
    have ⟨_, _, h3⟩ := wfFrom_cons.1 h
    by_cases hi : j = i
    · subst hi
      by_cases hp : q j
      · rw [List.filter_cons_of_pos (by rw [hq]; exact hp)]; simp [get, hp]
      · rw [List.filter_cons_of_neg (by rw [hq]; exact hp), ih h3]; simp [hp]
    · by_cases hl : i < j
      · have hb := get_below (d := d) (wfFrom_filter p h) (j := i)
        by_cases hp : q j
        · rw [List.filter_cons_of_pos (by rw [hq]; exact hp)]; simp [get, hi, hl]
        · rw [List.filter_cons_of_neg (by rw [hq]; exact hp), get_below (wfFrom_filter p h3) (by omega)]; simp [get, hi, hl]
      · by_cases hp : q j
        · rw [List.filter_cons_of_pos (by rw [hq]; exact hp)]; simp [get, hi, hl, ih h3]
        · rw [List.filter_cons_of_neg (by rw [hq]; exact hp), ih h3]; simp [get, hi, hl]

/-- A cleared range reads as the default, and every other key as before. -/
theorem get_clear {t : Tab α} {lo hi i : Nat} (h : wf d t = true) :
    get d (clear lo hi t) i = if lo ≤ i ∧ i < hi then d else get d t i := by
  rw [clear_eq_filter, get_filter_from (fun j => !(decide (lo ≤ j) && decide (j < hi))) (fun _ => rfl) h]
  by_cases hc : lo ≤ i ∧ i < hi
  · simp [hc]
  · simp only [if_neg hc]; rw [if_pos]; simp only [Bool.not_eq_true', Bool.and_eq_false_iff, decide_eq_false_iff_not]; omega

-- Runs of entries

theorem wfFrom_ofList (k : Nat) (vs : List α) : wfFrom d k (ofList d k vs) = true := by
  induction vs generalizing k with
  | nil => rfl
  | cons v vs ih => exact wfFrom_consNe (ih (k + 1)) (Nat.le_refl k)

theorem get_ofList (k i : Nat) (vs : List α) : get d (ofList d k vs) i = if k ≤ i then (vs[i - k]?).getD d else d := by
  induction vs generalizing k with
  | nil => simp [ofList]
  | cons v vs ih =>
    simp only [ofList]
    rw [get_consNe (wfFrom_ofList (k + 1) vs), ih]
    by_cases hi : i = k
    · subst hi; simp
    · by_cases hk : k ≤ i
      · have : i - k = (i - (k + 1)) + 1 := by omega
        simp [hi, hk, show k + 1 ≤ i by omega, this]
      · simp [hi, hk, show ¬ k + 1 ≤ i by omega]

theorem keys_ofList (k : Nat) (vs : List α) : ∀ e ∈ ofList d k vs, k ≤ e.1 ∧ e.1 < k + vs.length := by
  induction vs generalizing k with
  | nil => simp [ofList]
  | cons v vs ih =>
    intro e he
    simp only [ofList, consNe] at he
    have hlen : (v :: vs).length = vs.length + 1 := rfl
    split at he
    · have := ih (k + 1) e he; omega
    · rcases List.mem_cons.1 he with rfl | he
      · simp only; omega
      · have := ih (k + 1) e he; omega

/-- Canonical tables joined where the keys of the first are below those of the second. -/
theorem wfFrom_append {t u : Tab α} {m n : Nat} (ht : wfFrom d m t = true) (hu : wfFrom d n u = true)
    (hb : ∀ e ∈ t, e.1 < n) (hm : m ≤ n) : wfFrom d m (t ++ u) = true := by
  induction t generalizing m with
  | nil => exact wfFrom_mono hu hm
  | cons e t ih =>
    obtain ⟨j, w⟩ := e
    have ⟨h1, h2, h3⟩ := wfFrom_cons.1 ht
    have hj := hb (j, w) List.mem_cons_self
    exact wfFrom_cons.2 ⟨h1, h2, ih h3 (fun e he => hb e (List.mem_cons_of_mem _ he)) hj⟩

theorem get_append {t u : Tab α} {m i n : Nat} (ht : wfFrom d m t = true) (hu : wfFrom d n u = true)
    (hb : ∀ e ∈ t, e.1 < n) : get d (t ++ u) i = if i < n then get d t i else get d u i := by
  induction t generalizing m with
  | nil =>
    by_cases hi : i < n
    · simp [hi, get_below hu hi]
    · simp [hi]
  | cons e t ih =>
    obtain ⟨j, w⟩ := e
    have ⟨_, _, h3⟩ := wfFrom_cons.1 ht
    have hj : j < n := hb (j, w) List.mem_cons_self
    have ih := ih h3 (fun e he => hb e (List.mem_cons_of_mem _ he))
    simp only [List.cons_append, get]
    by_cases hi : j = i
    · simp [hi, show i < n by omega]
    · by_cases hl : i < j
      · simp [hi, hl, show i < n by omega]
      · simp [hi, hl, ih]

theorem wfFrom_drop {t : Tab α} {m lo : Nat} (h : wfFrom d m t = true) :
    wfFrom d lo (t.filter fun e => decide (lo ≤ e.1)) = true := by
  induction t generalizing m with
  | nil => rfl
  | cons e t ih =>
    obtain ⟨j, w⟩ := e
    have ⟨_, h2, h3⟩ := wfFrom_cons.1 h
    by_cases hl : lo ≤ j
    · rw [List.filter_cons_of_pos (by simpa using hl)]
      exact wfFrom_cons.2 ⟨hl, h2, wfFrom_filter _ h3⟩
    · rw [List.filter_cons_of_neg (by simpa using hl)]; exact ih h3

/-- Writing a run of entries keeps the canonical form. -/
theorem wf_setList {t : Tab α} {k : Nat} {vs : List α} (h : wf d t = true) : wf d (setList d t k vs) = true := by
  have hmid : wfFrom d k (ofList d k vs ++ t.filter fun e => decide (k + vs.length ≤ e.1)) = true :=
    wfFrom_append (wfFrom_ofList k vs) (wfFrom_drop h) (fun e he => (keys_ofList k vs e he).2) (by omega)
  unfold setList
  rw [List.append_assoc]
  exact wfFrom_append (wfFrom_filter _ h) hmid (fun e he => by simpa using (List.mem_filter.1 he).2) (Nat.zero_le _)

/-- A read after a write of a run: an entry of the run within it, every other entry as before. -/
theorem get_setList {t : Tab α} {k i : Nat} {vs : List α} (h : wf d t = true) :
    get d (setList d t k vs) i = if k ≤ i ∧ i < k + vs.length then (vs[i - k]?).getD d else get d t i := by
  have hd := wfFrom_drop (lo := k + vs.length) h
  have hmid : wfFrom d k (ofList d k vs ++ t.filter fun e => decide (k + vs.length ≤ e.1)) = true :=
    wfFrom_append (wfFrom_ofList k vs) hd (fun e he => (keys_ofList k vs e he).2) (by omega)
  unfold setList
  rw [List.append_assoc, get_append (wfFrom_filter _ h) hmid (fun e he => by simpa using (List.mem_filter.1 he).2),
    get_append (wfFrom_ofList k vs) hd (fun e he => (keys_ofList k vs e he).2),
    get_filter_from (fun j => decide (j < k)) (fun _ => rfl) h,
    get_filter_from (fun j => decide (k + vs.length ≤ j)) (fun _ => rfl) h, get_ofList]
  by_cases h1 : i < k
  · simp [h1, show ¬ k ≤ i by omega]
  · by_cases h2 : i < k + vs.length
    · simp [h1, h2, show k ≤ i by omega]
    · simp [h1, h2, show k + vs.length ≤ i by omega]

omit [DecidableEq α] in
theorem length_walk (n k : Nat) (t : Tab α) : (walk d n k t).length = n := by
  induction n generalizing k t with
  | zero => rfl
  | succ n ih =>
    cases t with
    | nil => simp [walk, ih]
    | cons e t => obtain ⟨j, v⟩ := e; simp only [walk]; split <;> simp [ih]

theorem walk_eq {n k : Nat} {t : Tab α} (h : wfFrom d k t = true) : walk d n k t = (List.range n).map fun i => get d t (k + i) := by
  induction n generalizing k t with
  | zero => rfl
  | succ n ih =>
    rw [List.range_succ_eq_map, List.map_cons, List.map_map]
    cases t with
    | nil => simp only [walk, get_nil, ih (k := k + 1) (t := []) rfl]; rfl
    | cons e t =>
      obtain ⟨j, v⟩ := e
      have ⟨h1, h2, h3⟩ := wfFrom_cons.1 h
      simp only [walk]
      split
      · subst j
        rw [ih h3]
        congr 1
        · simp [get]
        · apply List.map_congr_left
          intro i _
          simp [get, show k + 1 + i = k + (i + 1) by omega]
      · rename_i hj
        rw [ih (k := k + 1) (t := (j, v) :: t) (wfFrom_cons.2 ⟨by omega, h2, h3⟩)]
        congr 1
        · rw [get_below (k := k + 1) (wfFrom_cons.2 ⟨by omega, h2, h3⟩) (by omega)]
        · apply List.map_congr_left
          intro i _
          simp [show k + 1 + i = k + (i + 1) by omega]

theorem dropWhile_wf {t : Tab α} {m k : Nat} (h : wfFrom d m t = true) :
    wfFrom d k (t.dropWhile fun e => decide (e.1 < k)) = true ∧
      ∀ i, k ≤ i → get d (t.dropWhile fun e => decide (e.1 < k)) i = get d t i := by
  induction t generalizing m with
  | nil => exact ⟨rfl, fun _ _ => rfl⟩
  | cons e t ih =>
    obtain ⟨j, v⟩ := e
    have ⟨_, h2, h3⟩ := wfFrom_cons.1 h
    by_cases hj : j < k
    · rw [List.dropWhile_cons_of_pos (by simpa using hj)]
      refine ⟨(ih h3).1, fun i hi => ?_⟩
      rw [(ih h3).2 i hi]
      simp [get, show ¬ j = i by omega, show ¬ i < j by omega]
    · rw [List.dropWhile_cons_of_neg (by simpa using hj)]
      exact ⟨wfFrom_cons.2 ⟨by omega, h2, h3⟩, fun _ _ => rfl⟩

/-- A read of a run of entries reads each of them. -/
theorem getList_eq {t : Tab α} {k n : Nat} (h : wf d t = true) : getList d t k n = (List.range n).map fun i => get d t (k + i) := by
  have hw := dropWhile_wf (k := k) h
  unfold getList
  rw [walk_eq hw.1]
  exact List.map_congr_left fun i _ => hw.2 _ (by omega)

omit [DecidableEq α] in
@[simp] theorem length_getList (t : Tab α) (k n : Nat) : (getList d t k n).length = n := length_walk _ _ _

/-- Canonical tables that read alike are equal. -/
theorem ext_from {t u : Tab α} {m : Nat} (ht : wfFrom d m t = true) (hu : wfFrom d m u = true)
    (h : ∀ i, get d t i = get d u i) : t = u := by
  induction t generalizing m u with
  | nil =>
    cases u with
    | nil => rfl
    | cons e u =>
      obtain ⟨j, w⟩ := e
      have := h j
      simp [get] at this
      exact absurd this.symm (wfFrom_cons.1 hu).2.1
  | cons e t ih =>
    obtain ⟨j, v⟩ := e
    have ⟨h1, h2, h3⟩ := wfFrom_cons.1 ht
    cases u with
    | nil =>
      have := h j
      simp [get] at this
      exact absurd this h2
    | cons e' u =>
      obtain ⟨i, w⟩ := e'
      have ⟨g1, g2, g3⟩ := wfFrom_cons.1 hu
      have hij : j = i := by
        rcases Nat.lt_trichotomy j i with hl | he | hl
        · have := h j; simp [get, hl, show ¬ i = j by omega] at this; exact absurd this h2
        · exact he
        · have := h i; simp [get, hl, show ¬ j = i by omega] at this; exact absurd this.symm g2
      subst hij
      have hvw : v = w := by simpa [get] using h j
      subst hvw
      have : t = u := by
        refine ih h3 g3 fun k => ?_
        by_cases hk : k ≤ j
        · rw [get_below h3 (by omega), get_below g3 (by omega)]
        · have := h k
          simpa [get, show ¬ j = k by omega, show ¬ k < j by omega] using this
      rw [this]

theorem ext {t u : Tab α} (ht : wf d t = true) (hu : wf d u = true) (h : ∀ i, get d t i = get d u i) : t = u :=
  ext_from ht hu h

end Sys2Proof.Tab
end

