-- ==== Sys2Proof/Laws/Ops.lean ====
section
/-! SUPPORT. Reads after writes of registers and of the units held by number, folds, and the canonical form of a state. -/

namespace Sys2Proof.Machine

-- Folds

/-- What no step of a fold changes is the same after it. -/
theorem foldl_keeps {α β γ : Type} (g : β → γ) (f : β → α → β) (h : ∀ s x, g (f s x) = g s) (l : List α) (s : β) :
    g (l.foldl f s) = g s := by
  induction l generalizing s with
  | nil => rfl
  | cons x l ih => rw [List.foldl_cons, ih, h]

/-- What every step of a fold over its list keeps holds after it. -/
theorem foldl_inv {α β : Type} (P : β → Prop) (f : β → α → β) {l : List α} {s : β}
    (h : ∀ s x, x ∈ l → P s → P (f s x)) (hs : P s) : P (l.foldl f s) := by
  induction l generalizing s with
  | nil => exact hs
  | cons x l ih =>
    exact ih (fun s y hy => h s y (List.mem_cons_of_mem _ hy)) (h s x List.mem_cons_self hs)

-- The canonical form

/-- What `State.canon` says, part by part. -/
structure Canon (s : State) : Prop where
  larder : Tab.wf 0 s.larder = true
  larErr : Tab.wf 0 s.larErr = true
  cellar : Tab.wf 0 s.cellar = true
  celErr : Tab.wf 0 s.celErr = true
  regs : Tab.wf none s.regs = true
  clusters : Tab.wf {} s.clusters = true
  sregs : ∀ e ∈ s.clusters, e.2.canon = true
  regions : Tab.wf {} s.regions = true
  slabs : Tab.wf {} s.slabs = true
  links : Tab.wf {} s.links = true
  rings : Tab.wf {} s.jobs.rings = true

/-- The Bool of the state and its parts say the same. -/
theorem canon_iff {s : State} : s.canon = true ↔ Canon s := by
  simp only [State.canon, Memory.wf, Bool.and_eq_true, List.all_eq_true, and_assoc]
  refine ⟨fun h => ?_, fun c => ?_⟩
  · exact
      { larder := h.1, larErr := h.2.1, cellar := h.2.2.1, celErr := h.2.2.2.1, regs := h.2.2.2.2.1
        clusters := h.2.2.2.2.2.1, sregs := h.2.2.2.2.2.2.1, regions := h.2.2.2.2.2.2.2.1
        slabs := h.2.2.2.2.2.2.2.2.1, links := h.2.2.2.2.2.2.2.2.2.1, rings := h.2.2.2.2.2.2.2.2.2.2 }
  · refine .intro c.larder (.intro c.larErr (.intro c.cellar (.intro c.celErr (.intro c.regs (.intro c.clusters ?_)))))
    exact .intro c.sregs (.intro c.regions (.intro c.slabs (.intro c.links c.rings)))

theorem reset_canon : Canon State.reset := canon_iff.1 (by decide)

-- Registers

theorem reg_setReg {s : State} (h : Tab.wf none s.regs = true) (a b : Nat) (v : Word) :
    (s.setReg a v).reg b = if b = a then v else s.reg b := by
  unfold State.reg
  rw [State.setReg_regs, Tab.get_set h]
  by_cases hb : b = a
  · subst hb
    by_cases hv : v = regReset b <;> simp [hv]
  · simp [hb]

theorem wf_setReg {s : State} (h : Tab.wf none s.regs = true) (a : Nat) (v : Word) :
    Tab.wf none (s.setReg a v).regs = true := by rw [State.setReg_regs]; exact Tab.wf_set h

theorem reg_setRegF {s : State} (h : Tab.wf none s.regs = true) (a b lo len v : Nat) :
    (s.setRegF a lo len v).reg b = if b = a then setFld (s.reg a) lo len v else s.reg b := reg_setReg h a b _

theorem wf_setRegF {s : State} (h : Tab.wf none s.regs = true) (a lo len v : Nat) :
    Tab.wf none (s.setRegF a lo len v).regs = true := wf_setReg h a _

theorem testBit_fld (w : Word) (lo len i : Nat) : (fld w lo len).testBit i = (decide (i < len) && w.getLsbD (lo + i)) := by
  unfold fld
  rw [Nat.testBit_mod_two_pow, Nat.testBit_shiftRight]; rfl

theorem getLsbD_setFld (w : Word) (lo len v i : Nat) :
    (setFld w lo len v).getLsbD i
      = if lo ≤ i ∧ i < lo + len ∧ i < 32 then v.testBit (i - lo) else w.getLsbD i := by
  unfold setFld
  rw [BitVec.getLsbD_or, BitVec.getLsbD_and, BitVec.getLsbD_not, BitVec.getLsbD_ofNat, BitVec.getLsbD_ofNat,
    Nat.testBit_shiftLeft, Nat.testBit_shiftLeft, Nat.testBit_two_pow_sub_one, Nat.testBit_mod_two_pow]
  by_cases h32 : i < 32
  · by_cases h1 : lo ≤ i
    · by_cases h2 : i < lo + len
      · simp [h32, h1, h2, show i - lo < len by omega]
      · simp [h32, h1, h2, show ¬ i - lo < len by omega]
    · simp [h32, h1]
  · have : w.getLsbD i = false := BitVec.getLsbD_of_ge w i (by omega)
    simp [h32, this]

/-- A field of a word of which another field is written. -/
theorem fld_setFld_other {w : Word} {lo len lo' len' v : Nat} (h : lo' + len' ≤ lo ∨ lo + len ≤ lo') :
    fld (setFld w lo len v) lo' len' = fld w lo' len' := by
  apply Nat.eq_of_testBit_eq
  intro i
  rw [testBit_fld, testBit_fld, getLsbD_setFld]
  by_cases hi : i < len'
  · rw [if_neg (by omega)]
  · simp [hi]

/-- The field of a word that was just written. -/
theorem fld_setFld_same {w : Word} {lo len v : Nat} (h : lo + len ≤ 32) : fld (setFld w lo len v) lo len = v % 2 ^ len := by
  apply Nat.eq_of_testBit_eq
  intro i
  rw [testBit_fld, getLsbD_setFld, Nat.testBit_mod_two_pow]
  by_cases hi : i < len
  · rw [if_pos (by omega), Nat.add_sub_cancel_left]
  · simp [hi]

theorem tst_setFld (w : Word) (lo len v i : Nat) :
    tst (setFld w lo len v) i = if lo ≤ i ∧ i < lo + len ∧ i < 32 then v.testBit (i - lo) else tst w i := getLsbD_setFld w lo len v i

theorem fld_lt (w : Word) (lo len : Nat) : fld w lo len < 2 ^ len := Nat.mod_lt _ (Nat.two_pow_pos len)

theorem regF_setRegF_same {s : State} (h : Tab.wf none s.regs = true) (a : Nat) {lo len v : Nat} (hl : lo + len ≤ 32) :
    (s.setRegF a lo len v).regF a lo len = v % 2 ^ len := by
  unfold State.regF; rw [reg_setRegF h, if_pos rfl, fld_setFld_same hl]

theorem regF_setRegF_other {s : State} (h : Tab.wf none s.regs = true) {a b lo len lo' len' v : Nat}
    (hd : b ≠ a ∨ lo' + len' ≤ lo ∨ lo + len ≤ lo') : (s.setRegF a lo len v).regF b lo' len' = s.regF b lo' len' := by
  unfold State.regF; rw [reg_setRegF h]
  by_cases hb : b = a
  · subst hb; rw [if_pos rfl, fld_setFld_other (by rcases hd with hd | hd; exact absurd rfl hd; exact hd)]
  · rw [if_neg hb]

-- Units by number

theorem cl_setCl {s : State} (h : Tab.wf {} s.clusters = true) (i j : Nat) (c : Cluster) :
    (s.setCl i c).cl j = if j = i then c else s.cl j := Tab.get_set h
theorem rg_setRg {s : State} (h : Tab.wf {} s.regions = true) (i j : Nat) (x : RegionSt) :
    (s.setRg i x).rg j = if j = i then x else s.rg j := Tab.get_set h
theorem slab_setSlab {s : State} (h : Tab.wf {} s.slabs = true) (i j : Nat) (x : SlabSt) :
    (s.setSlab i x).slab j = if j = i then x else s.slab j := Tab.get_set h
theorem lnk_setLnk {s : State} (h : Tab.wf {} s.links = true) (i j : Nat) (x : LinkSt) :
    (s.setLnk i x).lnk j = if j = i then x else s.lnk j := Tab.get_set h
theorem ring_setRing {s : State} (h : Tab.wf {} s.jobs.rings = true) (i j : Nat) (x : RingSt) :
    (s.setRing i x).ring j = if j = i then x else s.ring j := Tab.get_set h

end Sys2Proof.Machine
end

