-- ==== Sys2Proof/Laws/Frame.lean ====
section
/-! SUPPORT. Frames: which parts of the state an operation may change. Every frame says as well that the queue of
waiting commands is as it was, that the fuses but the counter are, that the log continues, and that a canonical state
stays canonical. -/

namespace Sys2Proof.Machine

-- One proof after the other: together they would take a thread each, and with it a stack.
set_option Elab.async false

/-- The parts of the state that a frame names. -/
inductive Part where
  | fuses | attic | dev | clk | regs | latches | larder | larErr | cellar | celErr | conflicts | clusters | regions | slabs | links | sync | jobs
  | points | strm | reqs | hands | resil | mgmt | out | freeCtr
  deriving DecidableEq, Repr

/-- Every part. -/
def Part.all : List Part :=
  [.fuses, .attic, .dev, .clk, .regs, .latches, .larder, .larErr, .cellar, .celErr, .conflicts, .clusters, .regions, .slabs, .links, .sync, .jobs,
    .points, .strm, .reqs, .hands, .resil, .mgmt, .out, .freeCtr]

/-- A part reads the same in two states. -/
def Part.same : Part → State → State → Prop
  | .fuses, s, t => t.fuses = s.fuses
  | .attic, s, t => t.attic = s.attic
  | .dev, s, t => t.dev = s.dev
  | .clk, s, t => t.clk = s.clk
  | .regs, s, t => t.regs = s.regs
  | .latches, s, t => t.latches = s.latches
  | .larder, s, t => t.larder = s.larder
  | .larErr, s, t => t.larErr = s.larErr
  | .cellar, s, t => t.cellar = s.cellar
  | .celErr, s, t => t.celErr = s.celErr
  | .conflicts, s, t => t.conflicts = s.conflicts
  | .clusters, s, t => t.clusters = s.clusters
  | .regions, s, t => t.regions = s.regions
  | .slabs, s, t => t.slabs = s.slabs
  | .links, s, t => t.links = s.links
  | .sync, s, t => t.sync = s.sync
  | .jobs, s, t => t.jobs = s.jobs
  | .points, s, t => t.points = s.points
  | .strm, s, t => t.strm = s.strm
  | .reqs, s, t => t.reqs = s.reqs
  | .hands, s, t => t.hands = s.hands
  | .resil, s, t => t.resil = s.resil
  | .mgmt, s, t => t.mgmt = s.mgmt
  | .out, s, t => t.out = s.out
  | .freeCtr, s, t => t.freeCtr = s.freeCtr

/-- From s to t nothing changes but the parts of P. -/
structure Frame (P : List Part) (s t : State) : Prop where
  pending : t.pending = s.pending
  fuses : SameFuses s t
  log : LogGrows s t
  canon : Canon s → Canon t
  part : ∀ p, p ∉ P → p.same s t

variable {P Q : List Part} {s t u : State}

theorem Frame.refl (s : State) : Frame P s s :=
  ⟨rfl, ⟨rfl, Nat.le_refl _⟩, ⟨[], (List.append_nil _).symm⟩, id, fun p _ => by cases p <;> rfl⟩

theorem Part.same_trans {p : Part} (h : p.same s t) (h' : p.same t u) : p.same s u := by
  cases p <;> exact Eq.trans h' h

theorem SameFuses.trans (h : SameFuses s t) (h' : SameFuses t u) : SameFuses s u := by
  obtain ⟨a, b⟩ := h; obtain ⟨c, d⟩ := h'
  refine ⟨?_, Nat.le_trans b d⟩
  rw [← a]; rw [← c]

theorem LogGrows.trans (h : LogGrows s t) (h' : LogGrows t u) : LogGrows s u := by
  obtain ⟨a, ha⟩ := h; obtain ⟨b, hb⟩ := h'
  exact ⟨a ++ b, by rw [hb, ha, List.append_assoc]⟩

theorem Frame.trans (h : Frame P s t) (h' : Frame P t u) : Frame P s u :=
  ⟨h'.pending.trans h.pending, h.fuses.trans h'.fuses, h.log.trans h'.log, fun c => h'.canon (h.canon c),
    fun p hp => Part.same_trans (h.part p hp) (h'.part p hp)⟩

theorem Frame.mono (h : Frame Q s t) (hq : Q ⊆ P) : Frame P s t :=
  ⟨h.pending, h.fuses, h.log, h.canon, fun p hp => h.part p fun hm => hp (hq hm)⟩

/-- An operation after others. -/
theorem Frame.step (h : Frame P s t) (h' : Frame Q t u) (hq : Q ⊆ P) : Frame P s u := h.trans (h'.mono hq)

/-- What holds of any state that the frame allows holds of this one. -/
theorem Frame.cut {K : State → Prop} (x : State) (h : Frame P s x) (hk : ∀ y, Frame P s y → K y) : K x := hk x h

theorem Frame.foldl {α : Type} {f : State → α → State} {l : List α} (h : Frame P s t) (hf : ∀ y x, Frame P s y → Frame P s (f y x)) :
    Frame P s (l.foldl f t) := foldl_inv (Frame P s) f (fun y x _ hy => hf y x hy) h

theorem Frame.foldl_mem {α : Type} {f : State → α → State} {l : List α} (h : Frame P s t) (hf : ∀ y, ∀ x ∈ l, Frame P s y → Frame P s (f y x)) :
    Frame P s (l.foldl f t) := foldl_inv (Frame P s) f (fun y x hx hy => hf y x hx hy) h

-- Clusters whose registers are canonical

theorem mem_set {α : Type} [DecidableEq α] {d : α} {t : Tab α} {k : Nat} {v : α} : ∀ e ∈ Tab.set d t k v, e ∈ t ∨ e.2 = v := by
  induction t with
  | nil => intro e he; unfold Tab.set Tab.consNe at he; split at he <;> simp at he; exact .inr (by rw [he])
  | cons x t ih =>
    obtain ⟨j, w⟩ := x
    intro e he
    unfold Tab.set Tab.consNe at he
    split at he
    · split at he
      · exact .inl (List.mem_cons_of_mem _ he)
      · rcases List.mem_cons.1 he with h | h
        · exact .inr (by rw [h])
        · exact .inl (List.mem_cons_of_mem _ h)
    · split at he
      · split at he
        · exact .inl he
        · rcases List.mem_cons.1 he with h | h
          · exact .inr (by rw [h])
          · exact .inl h
      · rcases List.mem_cons.1 he with h | h
        · exact .inl (by rw [h]; exact List.mem_cons_self)
        · rcases ih e h with h | h
          · exact .inl (List.mem_cons_of_mem _ h)
          · exact .inr h

theorem canon_set {t : Tab Cluster} {k : Nat} {c : Cluster} (h : ∀ e ∈ t, e.2.canon = true) (hc : c.canon = true) :
    ∀ e ∈ Tab.set {} t k c, e.2.canon = true := by
  intro e he
  rcases mem_set e he with hm | hm
  · exact h e hm
  · rw [hm]; exact hc

theorem mem_mapVals {α : Type} [DecidableEq α] {d : α} {f : Nat → α → α} {t : Tab α} :
    ∀ e ∈ Tab.mapVals d f t, ∃ x ∈ t, e.2 = f x.1 x.2 := by
  induction t with
  | nil => intro e he; cases he
  | cons x t ih =>
    obtain ⟨j, w⟩ := x
    intro e he
    unfold Tab.mapVals Tab.consNe at he
    split at he
    · obtain ⟨x, hx, h⟩ := ih e he; exact ⟨x, List.mem_cons_of_mem _ hx, h⟩
    · rcases List.mem_cons.1 he with h | h
      · exact ⟨(j, w), List.mem_cons_self, by rw [h]⟩
      · obtain ⟨x, hx, h⟩ := ih e h; exact ⟨x, List.mem_cons_of_mem _ hx, h⟩

theorem canon_mapVals {t : Tab Cluster} {f : Nat → Cluster → Cluster} (hf : ∀ i c, c.canon = true → (f i c).canon = true)
    (h : ∀ e ∈ t, e.2.canon = true) : ∀ e ∈ Tab.mapVals {} f t, e.2.canon = true := by
  intro e he
  obtain ⟨x, hx, h'⟩ := mem_mapVals e he
  rw [h']; exact hf _ _ (h x hx)

theorem get_all {α : Type} {d : α} {p : α → Prop} {t : Tab α} (hd : p d) (h : ∀ e ∈ t, p e.2) (k : Nat) : p (Tab.get d t k) := by
  induction t with
  | nil => exact hd
  | cons x t ih =>
    obtain ⟨j, w⟩ := x
    unfold Tab.get
    split
    · exact h _ List.mem_cons_self
    · split
      · exact hd
      · exact ih fun e he => h e (List.mem_cons_of_mem _ he)

theorem Cluster.canon_of {c d : Cluster} (h : d.sreg = c.sreg) (hc : c.canon = true) : d.canon = true := by
  unfold Cluster.canon; rw [h]; exact hc

theorem Cluster.setS_canon {c : Cluster} (r : BitVec 4) (v : Word) (h : c.canon = true) : (c.setS r v).canon = true := by
  unfold Cluster.setS
  split
  · exact h
  · exact Tab.wf_set h

theorem cl_canon {s : State} (h : Canon s) (i : Nat) : (s.cl i).canon = true := get_all (p := fun c : Cluster => c.canon = true) rfl h.sregs i

theorem Frame.cl_canon (h : Frame P s t) (hs : Canon s) (i : Nat) : (t.cl i).canon = true := Sys2Proof.Machine.cl_canon (h.canon hs) i

/-- A part that is as in s, or that P names. -/
def Keeps (P : List Part) (p : Part) {α : Type} (x y : α) : Prop := x = y ∨ p ∈ P

theorem Keeps.of {p : Part} {α : Type} {x y : α} (h : Keeps P p x y) (hp : p ∉ P) : x = y := h.resolve_right hp

theorem Keeps.same {p : Part} {α : Type} {x y : α} (h : x = y) : Keeps P p x y := Or.inl h
theorem Keeps.named {p : Part} {α : Type} {x y : α} (h : p ∈ P) : Keeps P p x y := Or.inr h

/-- A record update: what it does not name is as before, and what it names keeps its canonical form. -/
theorem Frame.upd {x0 x1 x2 x3 x4 x5 x6 x7 x8 x9 x10 x11 x12 x13 x14 x15 x16 x17 x18 x19 x20 x21 x22 x23 x24 pd} (h : Frame P s t) (hpd : pd = t.pending)
    (k0 : Keeps P .fuses x0 t.fuses := by first | with_reducible exact Keeps.same rfl | exact Keeps.named (by decide))
    (k1 : Keeps P .attic x1 t.attic := by first | with_reducible exact Keeps.same rfl | exact Keeps.named (by decide))
    (k2 : Keeps P .dev x2 t.dev := by first | with_reducible exact Keeps.same rfl | exact Keeps.named (by decide))
    (k3 : Keeps P .clk x3 t.clk := by first | with_reducible exact Keeps.same rfl | exact Keeps.named (by decide))
    (k4 : Keeps P .regs x4 t.regs := by first | with_reducible exact Keeps.same rfl | exact Keeps.named (by decide))
    (k5 : Keeps P .latches x5 t.latches := by first | with_reducible exact Keeps.same rfl | exact Keeps.named (by decide))
    (k6 : Keeps P .larder x6 t.larder := by first | with_reducible exact Keeps.same rfl | exact Keeps.named (by decide))
    (k7 : Keeps P .larErr x7 t.larErr := by first | with_reducible exact Keeps.same rfl | exact Keeps.named (by decide))
    (k8 : Keeps P .cellar x8 t.cellar := by first | with_reducible exact Keeps.same rfl | exact Keeps.named (by decide))
    (k9 : Keeps P .celErr x9 t.celErr := by first | with_reducible exact Keeps.same rfl | exact Keeps.named (by decide))
    (k10 : Keeps P .conflicts x10 t.conflicts := by first | with_reducible exact Keeps.same rfl | exact Keeps.named (by decide))
    (k11 : Keeps P .clusters x11 t.clusters := by first | with_reducible exact Keeps.same rfl | exact Keeps.named (by decide))
    (k12 : Keeps P .regions x12 t.regions := by first | with_reducible exact Keeps.same rfl | exact Keeps.named (by decide))
    (k13 : Keeps P .slabs x13 t.slabs := by first | with_reducible exact Keeps.same rfl | exact Keeps.named (by decide))
    (k14 : Keeps P .links x14 t.links := by first | with_reducible exact Keeps.same rfl | exact Keeps.named (by decide))
    (k15 : Keeps P .sync x15 t.sync := by first | with_reducible exact Keeps.same rfl | exact Keeps.named (by decide))
    (k16 : Keeps P .jobs x16 t.jobs := by first | with_reducible exact Keeps.same rfl | exact Keeps.named (by decide))
    (k17 : Keeps P .points x17 t.points := by first | with_reducible exact Keeps.same rfl | exact Keeps.named (by decide))
    (k18 : Keeps P .strm x18 t.strm := by first | with_reducible exact Keeps.same rfl | exact Keeps.named (by decide))
    (k19 : Keeps P .reqs x19 t.reqs := by first | with_reducible exact Keeps.same rfl | exact Keeps.named (by decide))
    (k20 : Keeps P .hands x20 t.hands := by first | with_reducible exact Keeps.same rfl | exact Keeps.named (by decide))
    (k21 : Keeps P .resil x21 t.resil := by first | with_reducible exact Keeps.same rfl | exact Keeps.named (by decide))
    (k22 : Keeps P .mgmt x22 t.mgmt := by first | with_reducible exact Keeps.same rfl | exact Keeps.named (by decide))
    (k23 : Keeps P .out x23 t.out := by first | with_reducible exact Keeps.same rfl | exact Keeps.named (by decide))
    (k24 : Keeps P .freeCtr x24 t.freeCtr := by first | with_reducible exact Keeps.same rfl | exact Keeps.named (by decide))
    (wfz : { x0 with k := t.fuses.k } = t.fuses ∧ t.fuses.k ≤ x0.k := by first | exact ⟨rfl, Nat.le_refl _⟩ | exact ⟨rfl, by dsimp only; split <;> omega⟩)
    (wat : ∃ l, x1.log = t.attic.log ++ l := by
      first | exact ⟨[], (List.append_nil _).symm⟩ | exact ⟨_, rfl⟩ | (split <;> exact ⟨[], (List.append_nil _).symm⟩))
    (wrg : Canon s → Tab.wf none t.regs = true → Tab.wf none x4 = true := by
      first
        | with_reducible exact fun _ => id
        | (intro c h
           (try with_reducible first
            | refine Tab.wf_set ?_ | refine Tab.wf_clear _ _ ?_ | refine Tab.wf_setList ?_ | refine Tab.wf_mapVals _ ?_ | refine Tab.wf_filter _ ?_)
           (try dsimp only)
           first | with_reducible exact h | with_reducible exact c.regs | exact (Frame.canon (by assumption) c).regs | exact rfl))
    (wld : Canon s → Tab.wf 0 t.larder = true → Tab.wf 0 x6 = true := by
      first
        | with_reducible exact fun _ => id
        | (intro c h
           (try with_reducible first
            | refine Tab.wf_set ?_ | refine Tab.wf_clear _ _ ?_ | refine Tab.wf_setList ?_ | refine Tab.wf_mapVals _ ?_ | refine Tab.wf_filter _ ?_)
           (try dsimp only)
           first | with_reducible exact h | with_reducible exact c.larder | exact (Frame.canon (by assumption) c).larder | exact rfl))
    (wle : Canon s → Tab.wf 0 t.larErr = true → Tab.wf 0 x7 = true := by
      first
        | with_reducible exact fun _ => id
        | (intro c h
           (try with_reducible first
            | refine Tab.wf_set ?_ | refine Tab.wf_clear _ _ ?_ | refine Tab.wf_setList ?_ | refine Tab.wf_mapVals _ ?_ | refine Tab.wf_filter _ ?_)
           (try dsimp only)
           first | with_reducible exact h | with_reducible exact c.larErr | exact (Frame.canon (by assumption) c).larErr | exact rfl))
    (wcl : Canon s → Tab.wf 0 t.cellar = true → Tab.wf 0 x8 = true := by
      first
        | with_reducible exact fun _ => id
        | (intro c h
           (try with_reducible first
            | refine Tab.wf_set ?_ | refine Tab.wf_clear _ _ ?_ | refine Tab.wf_setList ?_ | refine Tab.wf_mapVals _ ?_ | refine Tab.wf_filter _ ?_)
           (try dsimp only)
           first | with_reducible exact h | with_reducible exact c.cellar | exact (Frame.canon (by assumption) c).cellar | exact rfl))
    (wce : Canon s → Tab.wf 0 t.celErr = true → Tab.wf 0 x9 = true := by
      first
        | with_reducible exact fun _ => id
        | (intro c h
           (try with_reducible first
            | refine Tab.wf_set ?_ | refine Tab.wf_clear _ _ ?_ | refine Tab.wf_setList ?_ | refine Tab.wf_mapVals _ ?_ | refine Tab.wf_filter _ ?_)
           (try dsimp only)
           first | with_reducible exact h | with_reducible exact c.celErr | exact (Frame.canon (by assumption) c).celErr | exact rfl))
    (wcs : Canon s → Tab.wf {} t.clusters = true → Tab.wf {} x11 = true := by
      first
        | with_reducible exact fun _ => id
        | (intro c h
           (try with_reducible first
            | refine Tab.wf_set ?_ | refine Tab.wf_clear _ _ ?_ | refine Tab.wf_setList ?_ | refine Tab.wf_mapVals _ ?_ | refine Tab.wf_filter _ ?_)
           (try dsimp only)
           first | with_reducible exact h | with_reducible exact c.clusters | exact (Frame.canon (by assumption) c).clusters | exact rfl))
    (wcc : Canon s → Canon t → ∀ e ∈ x11, e.2.canon = true := by
      first
        | with_reducible exact fun _ => Canon.sregs
        | (intro _ h; exact canon_mapVals (fun _ _ h => Cluster.canon_of rfl h) h.sregs)
        | (intro _ h; exact canon_mapVals (fun _ _ _ => rfl) h.sregs)
        | (intro c _; exact (Frame.canon (by assumption) c).sregs)
        | (intro c _; exact canon_mapVals (fun _ _ h => Cluster.canon_of rfl h) (Frame.canon (by assumption) c).sregs))
    (wrs : Canon s → Tab.wf {} t.regions = true → Tab.wf {} x12 = true := by
      first
        | with_reducible exact fun _ => id
        | (intro c h
           (try with_reducible first
            | refine Tab.wf_set ?_ | refine Tab.wf_clear _ _ ?_ | refine Tab.wf_setList ?_ | refine Tab.wf_mapVals _ ?_ | refine Tab.wf_filter _ ?_)
           (try dsimp only)
           first | with_reducible exact h | with_reducible exact c.regions | exact (Frame.canon (by assumption) c).regions | exact rfl))
    (wsl : Canon s → Tab.wf {} t.slabs = true → Tab.wf {} x13 = true := by
      first
        | with_reducible exact fun _ => id
        | (intro c h
           (try with_reducible first
            | refine Tab.wf_set ?_ | refine Tab.wf_clear _ _ ?_ | refine Tab.wf_setList ?_ | refine Tab.wf_mapVals _ ?_ | refine Tab.wf_filter _ ?_)
           (try dsimp only)
           first | with_reducible exact h | with_reducible exact c.slabs | exact (Frame.canon (by assumption) c).slabs | exact rfl))
    (wls : Canon s → Tab.wf {} t.links = true → Tab.wf {} x14 = true := by
      first
        | with_reducible exact fun _ => id
        | (intro c h
           (try with_reducible first
            | refine Tab.wf_set ?_ | refine Tab.wf_clear _ _ ?_ | refine Tab.wf_setList ?_ | refine Tab.wf_mapVals _ ?_ | refine Tab.wf_filter _ ?_)
           (try dsimp only)
           first | with_reducible exact h | with_reducible exact c.links | exact (Frame.canon (by assumption) c).links | exact rfl))
    (wjb : Canon s → Tab.wf {} t.jobs.rings = true → Tab.wf {} x16.rings = true := by
      first
        | with_reducible exact fun _ => id
        | (intro c h
           (try with_reducible first
            | refine Tab.wf_set ?_ | refine Tab.wf_clear _ _ ?_ | refine Tab.wf_setList ?_ | refine Tab.wf_mapVals _ ?_ | refine Tab.wf_filter _ ?_)
           (try dsimp only)
           first | with_reducible exact h | with_reducible exact c.rings | exact (Frame.canon (by assumption) c).rings | exact rfl)) :
    Frame P s ⟨x0, x1, x2, x3, x4, x5, x6, x7, x8, x9, x10, x11, x12, x13, x14, x15, x16, x17, x18, x19, x20, x21, x22, x23, x24, pd⟩ :=
  { pending := hpd.trans h.pending
    fuses := h.fuses.trans wfz
    log := h.log.trans wat
    canon := fun c =>
      have k := h.canon c
      ⟨wld c k.larder, wle c k.larErr, wcl c k.cellar, wce c k.celErr, wrg c k.regs, wcs c k.clusters, wcc c k, wrs c k.regions,
        wsl c k.slabs, wls c k.links, wjb c k.rings⟩
    part := fun p hp => Part.same_trans (h.part p hp) (by
      cases p
      exacts [k0.of hp, k1.of hp, k2.of hp, k3.of hp, k4.of hp, k5.of hp, k6.of hp, k7.of hp, k8.of hp, k9.of hp, k10.of hp, k11.of hp, k12.of hp, k13.of hp, k14.of hp, k15.of hp, k16.of hp, k17.of hp, k18.of hp, k19.of hp, k20.of hp, k21.of hp, k22.of hp, k23.of hp, k24.of hp]) }

-- What is not a state alone: a state with an answer, a state or none, a flow, an outcome

/-- The state of a pair is framed. -/
def FrameP {α : Type} (P : List Part) (s : State) (x : State × α) : Prop := Frame P s x.1

/-- A state that may be absent is framed. -/
def FrameO (P : List Part) (s : State) (o : Option State) : Prop := ∀ t, o = some t → Frame P s t

/-- Every state in which a flow ends, held or not, is framed. -/
def FrameF (P : List Part) (s : State) (f : Flow) : Prop := ∀ t, f = .ok t ∨ f = .error (.held t) → Frame P s t

/-- The states in which reading bytes one after another ends are framed. -/
def FrameE {α : Type} (P : List Part) (s : State) (f : Except Stop (State × α)) : Prop :=
  ∀ t, (∃ a, f = .ok (t, a)) ∨ f = .error (.held t) → Frame P s t

/-- A next state is framed. -/
def FrameR (P : List Part) (s : State) (r : Res) : Prop := ∀ t, r = .next t → Frame P s t

theorem FrameP.pair {α : Type} {a : α} (h : Frame P s t) : FrameP P s (t, a) := h
theorem FrameP.fst {α : Type} {x : State × α} (h : FrameP P s x) : Frame P s x.1 := h
theorem FrameP.of_eq {α : Type} {x : State × α} {a : α} (h : FrameP P s x) (e : x = (t, a)) : Frame P s t := by rw [e] at h; exact h
theorem FrameO.some (h : Frame P s t) : FrameO P s (some t) := by rintro u ⟨⟩; exact h
theorem FrameO.none : FrameO P s none := by rintro u ⟨⟩
theorem FrameO.of_eq {o : Option State} (h : FrameO P s o) (e : o = Option.some t) : Frame P s t := h t e
theorem FrameF.ok (h : Frame P s t) : FrameF P s (.ok t) := by rintro u (⟨⟨⟩⟩ | ⟨⟨⟩⟩); exact h
theorem FrameF.held (h : Frame P s t) : FrameF P s (.error (.held t)) := by rintro u (⟨⟨⟩⟩ | ⟨⟨⟩⟩); exact h
theorem FrameF.undef {c : UCase} : FrameF P s (.error (.undef c)) := by rintro u (⟨⟨⟩⟩ | ⟨⟨⟩⟩)
theorem FrameF.of_ok {f : Flow} (h : FrameF P s f) (e : f = .ok t) : Frame P s t := h t (.inl e)
theorem FrameF.of_held {f : Flow} (h : FrameF P s f) (e : f = .error (.held t)) : Frame P s t := h t (.inr e)
theorem FrameF.of_eq {f g : Flow} (h : FrameF P s f) (e : f = g) : FrameF P s g := e ▸ h
theorem FrameE.of_ok {α : Type} {f : Except Stop (State × α)} {a : α} (h : FrameE P s f) (e : f = .ok (t, a)) : Frame P s t :=
  h t (.inl ⟨a, e⟩)
theorem FrameE.of_held {α : Type} {f : Except Stop (State × α)} (h : FrameE P s f) (e : f = .error (.held t)) : Frame P s t := h t (.inr e)
theorem FrameE.of_error {α : Type} {f : Except Stop (State × α)} {x : Stop} (h : FrameE P s f) (e : f = .error x) :
    FrameF P s (.error x) := by
  rintro t (⟨⟨⟩⟩ | ⟨⟨⟩⟩)
  exact h.of_held e
theorem FrameR.next (h : Frame P s t) : FrameR P s (.next t) := by rintro u ⟨⟩; exact h
theorem FrameR.fault {f : Fault} : FrameR P s (.fault f) := by intro t h; injection h
theorem FrameR.refused {f : Refusal} : FrameR P s (.refused f) := by intro t h; injection h
theorem FrameR.undef {c : UCase} : FrameR P s (undef c) := FrameR.fault
theorem FrameR.of_eq {r : Res} (h : FrameR P s r) (e : r = .next t) : Frame P s t := h t e

theorem FrameP.step {α : Type} {x : State × α} (h : Frame P s t) (h' : FrameP Q t x) (hq : Q ⊆ P) : FrameP P s x := Frame.step h h' hq

theorem FrameO.step {o : Option State} (h : Frame P s t) (h' : FrameO Q t o) (hq : Q ⊆ P) : FrameO P s o :=
  fun u hu => Frame.step h (h' u hu) hq

theorem FrameF.step {f : Flow} (h : Frame P s t) (h' : FrameF Q t f) (hq : Q ⊆ P) : FrameF P s f :=
  fun u hu => Frame.step h (h' u hu) hq

theorem FrameE.step {α : Type} {f : Except Stop (State × α)} (h : Frame P s t) (h' : FrameE Q t f) (hq : Q ⊆ P) : FrameE P s f :=
  fun u hu => Frame.step h (h' u hu) hq

theorem FrameR.step {r : Res} (h : Frame P s t) (h' : FrameR Q t r) (hq : Q ⊆ P) : FrameR P s r :=
  fun u hu => Frame.step h (h' u hu) hq

theorem FrameR.flow {f : Flow} (h : FrameF P s f) : FrameR P s f.res := by
  match f with
  | .ok u => exact FrameR.next (h u (.inl rfl))
  | .error (.held u) => exact FrameR.next (h u (.inr rfl))
  | .error (.undef c) => exact FrameR.undef

-- Choices

theorem Frame.ite {c : Prop} [Decidable c] {u : State} (h : c → Frame P s t) (h' : ¬ c → Frame P s u) : Frame P s (if c then t else u) := by
  split
  exacts [h ‹_›, h' ‹_›]

theorem FrameP.ite {α : Type} {c : Prop} [Decidable c] {x y : State × α} (h : c → FrameP P s x) (h' : ¬ c → FrameP P s y) :
    FrameP P s (if c then x else y) := by
  split
  exacts [h ‹_›, h' ‹_›]

theorem FrameO.ite {c : Prop} [Decidable c] {x y : Option State} (h : c → FrameO P s x) (h' : ¬ c → FrameO P s y) :
    FrameO P s (if c then x else y) := by
  split
  exacts [h ‹_›, h' ‹_›]

theorem FrameF.ite {c : Prop} [Decidable c] {x y : Flow} (h : c → FrameF P s x) (h' : ¬ c → FrameF P s y) :
    FrameF P s (if c then x else y) := by
  split
  exacts [h ‹_›, h' ‹_›]

theorem FrameR.ite {c : Prop} [Decidable c] {x y : Res} (h : c → FrameR P s x) (h' : ¬ c → FrameR P s y) :
    FrameR P s (if c then x else y) := by
  split
  exacts [h ‹_›, h' ‹_›]

theorem Frame.elim {α : Type} {o : Option α} {f : α → State} (h : Frame P s t) (hf : ∀ x, Frame P s (f x)) : Frame P s (o.elim t f) := by
  cases o
  · exact h
  · exact hf _

theorem FrameF.elim {α : Type} {o : Option α} {x : Flow} {f : α → Flow} (h : FrameF P s x) (hf : ∀ x, FrameF P s (f x)) :
    FrameF P s (o.elim x f) := by
  cases o
  · exact h
  · exact hf _

theorem FrameR.elim {α : Type} {o : Option α} {x : Res} {f : α → Res} (h : FrameR P s x) (hf : ∀ x, FrameR P s (f x)) :
    FrameR P s (o.elim x f) := by
  cases o
  · exact h
  · exact hf _

-- One after another

theorem FrameF.bind {f : Flow} {k : State → Flow} (h : FrameF P s f) (hk : ∀ u, Frame P s u → FrameF P s (k u)) :
    FrameF P s (f.bind' k) := by
  match f with
  | .ok u => exact hk u (h u (.inl rfl))
  | .error (.held u) => exact FrameF.held (h u (.inr rfl))
  | .error (.undef _) => exact FrameF.undef

theorem FrameF.fold {α : Type} {f : State → α → Flow} {l : List α} (h : Frame P s t) (hf : ∀ y x, Frame P s y → FrameF P s (f y x)) :
    FrameF P s (foldFlow f t l) := by
  induction l generalizing t with
  | nil => exact FrameF.ok h
  | cons x l ih => exact FrameF.bind (hf t x h) fun u hu => ih hu

theorem FrameP.foldl {α β : Type} {f : State × β → α → State × β} {l : List α} {a : State × β} (h : FrameP P s a)
    (hf : ∀ y x, FrameP P s y → FrameP P s (f y x)) : FrameP P s (l.foldl f a) :=
  foldl_inv (FrameP P s) f (fun y x _ hy => hf y x hy) h

-- Parts of the state by number

theorem State.setReg_frame (s : State) (a : Nat) (v : Word) : Frame [.regs] s (s.setReg a v) := by
  unfold State.setReg; exact Frame.upd (Frame.refl s) rfl

/-- A cluster stored after other operations is canonical when the state before them was. -/
theorem State.setCl_frameC {i : Nat} {c : Cluster} (h : Frame P s t) (hp : [.clusters] ⊆ P) (hc : Canon s → c.canon = true) :
    Frame P s (t.setCl i c) := by
  unfold State.setCl
  exact Frame.upd h rfl (k11 := Keeps.named (hp List.mem_cons_self)) (wcc := fun hs h => canon_set h.sregs (hc hs))

theorem State.setCl_frame (s : State) (i : Nat) (c : Cluster) (hc : Canon s → c.canon = true) : Frame [.clusters] s (s.setCl i c) :=
  State.setCl_frameC (Frame.refl s) (List.Subset.refl _) hc

theorem State.updCl_frame (s : State) (i : Nat) (f : Cluster → Cluster) (hf : ∀ c, c.canon = true → (f c).canon = true) :
    Frame [.clusters] s (s.updCl i f) := s.setCl_frame i _ fun h => hf _ (cl_canon h i)

/-- An update that leaves the scalar registers alone. -/
theorem State.updCl_same (s : State) (i : Nat) (f : Cluster → Cluster) (hf : ∀ c, (f c).sreg = c.sreg) : Frame [.clusters] s (s.updCl i f) :=
  s.updCl_frame i f fun c hc => Cluster.canon_of (hf c) hc

theorem State.setRg_frame (s : State) (r : Nat) (x : RegionSt) : Frame [.regions] s (s.setRg r x) := by
  unfold State.setRg; exact Frame.upd (Frame.refl s) rfl

theorem State.setSlab_frame (s : State) (n : Nat) (x : SlabSt) : Frame [.slabs] s (s.setSlab n x) := by
  unfold State.setSlab; exact Frame.upd (Frame.refl s) rfl

theorem State.setLnk_frame (s : State) (l : Nat) (x : LinkSt) : Frame [.links] s (s.setLnk l x) := by
  unfold State.setLnk; exact Frame.upd (Frame.refl s) rfl

theorem State.setRing_frame (s : State) (n : Nat) (x : RingSt) : Frame [.jobs] s (s.setRing n x) := by
  unfold State.setRing; exact Frame.upd (Frame.refl s) rfl

end Sys2Proof.Machine
end

