-- ==== Sys2Proof/Laws/FrameMemory.lean ====
section
/-! SUPPORT. Frames of the shared operations of memory, larders, the cellar and plans: what each may change, whatever it answers. -/

namespace Sys2Proof.Machine

-- One proof after the other: together they would take a thread each, and with it a stack.
set_option Elab.async false

-- Ops

theorem State.setRegF_frame (s : State) (a : Nat) (lo : Nat) (len : Nat) (v : Nat) :
    Frame [.regs] s (State.setRegF s a lo len v) := by
  unfold State.setRegF
  exact (State.setReg_frame _ _ _).mono (by decide)

theorem State.count_frame (s : State) (a : Nat) (lo : Nat) (len : Nat) (d : Nat) :
    Frame [.regs] s (State.count s a lo len d) := by
  unfold State.count
  exact (State.setRegF_frame _ _ _ _ _).mono (by decide)

theorem State.updRg_frame (s : State) (r : Nat) (f : RegionSt → RegionSt) :
    Frame [.regions] s (State.updRg s r f) := by
  unfold State.updRg
  exact (State.setRg_frame _ _ _).mono (by decide)

theorem State.updSlab_frame (s : State) (n : Nat) (f : SlabSt → SlabSt) :
    Frame [.slabs] s (State.updSlab s n f) := by
  unfold State.updSlab
  exact (State.setSlab_frame _ _ _).mono (by decide)

theorem State.updLnk_frame (s : State) (l : Nat) (f : LinkSt → LinkSt) :
    Frame [.links] s (State.updLnk s l f) := by
  unfold State.updLnk
  exact (State.setLnk_frame _ _ _).mono (by decide)

theorem State.updRing_frame (s : State) (n : Nat) (f : RingSt → RingSt) :
    Frame [.jobs] s (State.updRing s n f) := by
  unfold State.updRing
  exact (State.setRing_frame _ _ _).mono (by decide)

theorem State.useFree_frame (s : State) :
    Frame [.freeCtr] s (State.useFree s) := by
  unfold State.useFree
  refine Frame.upd ?_ rfl
  exact Frame.refl _

theorem State.emit_frame (s : State) (o : Out) :
    Frame [.out] s (State.emit s o) := by
  unfold State.emit
  refine Frame.upd ?_ rfl
  exact Frame.refl _

theorem State.refCount_frame (s : State) :
    Frame [.clk] s (State.refCount s) := by
  unfold State.refCount
  refine Frame.upd ?_ rfl
  exact Frame.refl _

theorem State.setRstate_frame (s : State) (r : Nat) (st : Nat) :
    Frame [.regs] s (State.setRstate s r st) := by
  unfold State.setRstate
  exact (State.setRegF_frame _ _ _ _ _).mono (by decide)

theorem State.logEvent_frame (s : State) (code : Nat) (source : BitVec 16) (time : DWord) (data : BitVec 128) :
    Frame [.attic] s (State.logEvent s code source time data) := by
  unfold State.logEvent
  refine Frame.ite (fun _ => ?_) fun _ => ?_
  · refine Frame.upd ?_ rfl
    exact Frame.refl _
  · exact Frame.refl _

theorem State.postAt_frame (s : State) (code : Nat) (source : BitVec 16) (time : DWord) (data : BitVec 128) :
    Frame [.attic, .regs, .jobs] s (State.postAt s code source time data) := by
  unfold State.postAt
  extract_lets +onlyGivenNames x0
  subst x0
  extract_lets +onlyGivenNames x1
  have h2 : Frame [.attic, .regs, .jobs] s x1 := by
    subst x1
    exact (State.logEvent_frame _ _ _ _ _).mono (by decide)
  clear_value x1
  refine Frame.ite (fun _ => ?_) fun _ => ?_
  · extract_lets +onlyGivenNames x3
    clear_value x3
    refine Frame.ite (fun _ => ?_) fun _ => ?_
    · exact h2
    · refine Frame.ite (fun _ => ?_) fun _ => ?_
      · refine Frame.step ?_ (State.count_frame _ _ _ _ _) (by decide)
        refine Frame.upd ?_ rfl
        exact h2
      · refine Frame.upd ?_ rfl
        exact h2
  · refine Frame.ite (fun _ => ?_) fun _ => ?_
    · refine Frame.upd ?_ rfl
      exact h2
    · exact h2

theorem State.post_frame (s : State) (code : Nat) (source : BitVec 16) (data : List (Nat × Nat)) :
    Frame [.attic, .regs, .jobs] s (State.post s code source data) := by
  unfold State.post
  exact (State.postAt_frame _ _ _ _ _).mono (by decide)

theorem State.postCoal_frame (s : State) (code : Nat) (source : BitVec 16) (n : Nat) (data : Nat → List (Nat × Nat)) :
    Frame [.attic, .regs, .jobs] s (State.postCoal s code source n data) := by
  unfold State.postCoal
  extract_lets +onlyGivenNames x0
  clear_value x0
  extract_lets +onlyGivenNames x1
  subst x1
  split
  · refine Frame.ite (fun _ => ?_) fun _ => ?_
    · beta_reduce
      refine Frame.upd ?_ rfl
      exact Frame.refl _
    · beta_reduce
      refine Frame.upd ?_ rfl
      exact (State.post_frame _ _ _ _).mono (by decide)
  · beta_reduce
    refine Frame.upd ?_ rfl
    exact (State.post_frame _ _ _ _).mono (by decide)

theorem State.report_frame (s : State) (k : ReportKind) :
    Frame [.resil] s (State.report s k) := by
  unfold State.report
  refine Frame.upd ?_ rfl
  exact Frame.refl _

theorem State.recordRepair_frame (s : State) (k : ReportKind) :
    Frame [.attic] s (State.recordRepair s k) := by
  unfold State.recordRepair
  refine Frame.ite (fun _ => ?_) fun _ => ?_
  · exact Frame.refl _
  · refine Frame.upd ?_ rfl
    exact Frame.refl _

theorem State.todo_frame (s : State) (k : ReportKind) :
    Frame [.attic, .resil] s (State.todo s k) := by
  unfold State.todo
  refine Frame.ite (fun _ => ?_) fun _ => ?_
  · exact Frame.refl _
  · extract_lets +onlyGivenNames x0
    have h1 : Frame [.attic, .resil] s x0 := by
      subst x0
      exact (State.recordRepair_frame _ _).mono (by decide)
    clear_value x0
    refine Frame.upd ?_ rfl
    exact h1

-- Larder

theorem State.dropWriteBack_frame (s : State) (site : Nat) (lo : Nat) (hi : Nat) :
    Frame [.clusters] s (State.dropWriteBack s site lo hi) := by
  unfold State.dropWriteBack
  extract_lets +onlyGivenNames x0
  subst x0
  refine Frame.ite (fun _ => ?_) fun _ => ?_
  · refine Frame.step ?_ (State.updCl_same _ _ _ fun _ => rfl) (by decide)
    exact Frame.refl _
  · exact Frame.refl _

theorem State.groupOn_frame (s : State) (site : Nat) (g : Nat) :
    Frame [.regs, .larder, .larErr, .clusters] s (State.groupOn s site g) := by
  unfold State.groupOn
  extract_lets +onlyGivenNames x0
  clear_value x0
  extract_lets +onlyGivenNames x1
  clear_value x1
  extract_lets +onlyGivenNames x2
  have h3 : Frame [.regs, .larder, .larErr, .clusters] s x2 := by
    subst x2
    exact (State.dropWriteBack_frame _ _ _ _).mono (by decide)
  clear_value x2
  extract_lets +onlyGivenNames x4
  have h5 : Frame [.regs, .larder, .larErr, .clusters] s x4 := by
    subst x4
    refine Frame.step ?_ (State.setRegF_frame _ _ _ _ _) (by decide)
    refine Frame.step ?_ (State.setRegF_frame _ _ _ _ _) (by decide)
    exact h3
  clear_value x4
  refine Frame.upd ?_ rfl
  exact h5

theorem State.groupOff_frame (s : State) (site : Nat) (g : Nat) :
    Frame [.regs, .larder, .larErr, .clusters] s (State.groupOff s site g) := by
  unfold State.groupOff
  extract_lets +onlyGivenNames x0
  clear_value x0
  extract_lets +onlyGivenNames x1
  clear_value x1
  extract_lets +onlyGivenNames x2
  have h3 : Frame [.regs, .larder, .larErr, .clusters] s x2 := by
    subst x2
    exact (State.dropWriteBack_frame _ _ _ _).mono (by decide)
  clear_value x2
  extract_lets +onlyGivenNames x4
  have h5 : Frame [.regs, .larder, .larErr, .clusters] s x4 := by
    subst x4
    refine Frame.step ?_ (State.setRegF_frame _ _ _ _ _) (by decide)
    refine Frame.step ?_ (State.setRegF_frame _ _ _ _ _) (by decide)
    refine Frame.step ?_ (State.setRegF_frame _ _ _ _ _) (by decide)
    exact h3
  clear_value x4
  refine Frame.upd ?_ rfl
  exact h5

theorem State.wakeGroups_frame (s : State) (site : Nat) (addr : Nat) (n : Nat) :
    Frame [.regs, .larder, .larErr, .clusters] s (State.wakeGroups s site addr n) := by
  unfold State.wakeGroups
  refine Frame.foldl ?_ ?_
  · exact Frame.refl _
  · intro x0 x1 h2
    refine Frame.ite (fun _ => ?_) fun _ => ?_
    · exact h2
    · refine Frame.step ?_ (State.setRegF_frame _ _ _ _ _) (by decide)
      refine Frame.step ?_ (State.groupOn_frame _ _ _) (by decide)
      exact h2

theorem State.contend_frame (s : State) (site : Nat) (addr : Nat) (n : Nat) :
    Frame [.conflicts, .freeCtr] s (State.contend s site addr n) := by
  unfold State.contend
  refine Frame.upd ?_ rfl
  exact Frame.refl _

theorem State.larCorrected_frame (s : State) (site : Nat) (w : Nat) (x : BitVec 64) (scrub : Bool) :
    Frame [.regs, .clusters] s (State.larCorrected s site w x scrub) := by
  unfold State.larCorrected
  extract_lets +onlyGivenNames x0
  have h1 : Frame [.regs, .clusters] s x0 := by
    subst x0
    exact (State.count_frame _ _ _ _ _).mono (by decide)
  clear_value x0
  extract_lets +onlyGivenNames x2
  have h3 : Frame [.regs, .clusters] s x2 := by
    subst x2
    refine Frame.step ?_ (State.setRegF_frame _ _ _ _ _) (by decide)
    exact h1
  clear_value x2
  extract_lets +onlyGivenNames x4
  have h5 : Frame [.regs, .clusters] s x4 := by
    subst x4
    refine Frame.step ?_ (State.setReg_frame _ _ _) (by decide)
    exact h3
  clear_value x4
  refine Frame.step ?_ (State.updCl_same _ _ _ fun _ => rfl) (by decide)
  exact h5

theorem State.larUncorrectable_frame (s : State) (site : Nat) (w : Nat) (scrub : Bool) :
    Frame [.regs, .resil] s (State.larUncorrectable s site w scrub) := by
  unfold State.larUncorrectable
  extract_lets +onlyGivenNames x0
  have h1 : Frame [.regs, .resil] s x0 := by
    subst x0
    exact (State.count_frame _ _ _ _ _).mono (by decide)
  clear_value x0
  extract_lets +onlyGivenNames x2
  have h3 : Frame [.regs, .resil] s x2 := by
    subst x2
    refine Frame.step ?_ (State.setRegF_frame _ _ _ _ _) (by decide)
    exact h1
  clear_value x2
  extract_lets +onlyGivenNames x4
  have h5 : Frame [.regs, .resil] s x4 := by
    subst x4
    refine Frame.step ?_ (State.setReg_frame _ _ _) (by decide)
    exact h3
  clear_value x4
  refine Frame.step ?_ (State.report_frame _ _) (by decide)
  exact h5

theorem State.larCheck_frame (s : State) (site : Nat) (addr : Nat) (n : Nat) (scrub : Bool) :
    FrameP [.regs, .clusters, .resil] s (State.larCheck s site addr n scrub) := by
  unfold State.larCheck
  refine FrameP.foldl ?_ ?_
  · refine FrameP.pair ?_
    exact Frame.refl _
  · intro x0 x1 h2
    split
    · refine FrameP.pair ?_
      refine Frame.step ?_ (State.larUncorrectable_frame _ _ _ _) (by decide)
      refine FrameP.fst ?_
      exact h2
    · refine FrameP.pair ?_
      refine Frame.ite (fun _ => ?_) fun _ => ?_
      · refine Frame.step ?_ (State.larCorrected_frame _ _ _ _ _) (by decide)
        refine FrameP.fst ?_
        exact h2
      · refine FrameP.fst ?_
        exact h2

theorem State.larRead_frame (s : State) (site : Nat) (addr : Nat) (n : Nat) :
    FrameP [.regs, .larder, .larErr, .conflicts, .clusters, .resil, .freeCtr] s (State.larRead s site addr n) := by
  unfold State.larRead
  extract_lets +onlyGivenNames x0
  have h1 : Frame [.regs, .larder, .larErr, .conflicts, .clusters, .resil, .freeCtr] s x0 := by
    subst x0
    refine Frame.step ?_ (State.contend_frame _ _ _ _) (by decide)
    exact (State.wakeGroups_frame _ _ _ _).mono (by decide)
  clear_value x0
  extract_lets +onlyGivenNames x2
  have h3 : FrameP [.regs, .larder, .larErr, .conflicts, .clusters, .resil, .freeCtr] s x2 := by
    subst x2
    refine FrameP.step ?_ (State.larCheck_frame _ _ _ _ _) (by decide)
    exact h1
  clear_value x2
  refine FrameP.pair ?_
  refine FrameP.fst ?_
  exact h3

theorem State.larPut_frame (s : State) (site : Nat) (addr : Nat) (data : List Byte) :
    Frame [.larder, .larErr, .clusters] s (State.larPut s site addr data) := by
  unfold State.larPut
  extract_lets +onlyGivenNames x0
  clear_value x0
  refine Frame.ite (fun _ => ?_) fun _ => ?_
  · exact Frame.refl _
  · extract_lets +onlyGivenNames x1
    clear_value x1
    extract_lets +onlyGivenNames x2
    have h3 : Frame [.larder, .larErr, .clusters] s x2 := by
      subst x2
      exact (State.dropWriteBack_frame _ _ _ _).mono (by decide)
    clear_value x2
    refine Frame.upd ?_ rfl
    exact h3

theorem State.larEdges_frame (s : State) (site : Nat) (ws : List Nat) :
    FrameP [.regs, .clusters, .resil] s (State.larEdges s site ws) := by
  unfold State.larEdges
  refine FrameP.foldl ?_ ?_
  · refine FrameP.pair ?_
    exact Frame.refl _
  · intro x0 x1 h2
    extract_lets +onlyGivenNames x3
    have h4 : FrameP [.regs, .clusters, .resil] s x3 := by
      subst x3
      refine FrameP.step ?_ (State.larCheck_frame _ _ _ _ _) (by decide)
      refine FrameP.fst ?_
      exact h2
    clear_value x3
    refine FrameP.pair ?_
    refine FrameP.fst ?_
    exact h4

theorem State.larMend_frame (s : State) (site : Nat) (e : Nat × BitVec 64) :
    Frame [.larder, .larErr, .clusters] s (State.larMend s site e) := by
  unfold State.larMend
  exact (State.larPut_frame _ _ _ _).mono (by decide)

theorem State.larWriteRow_frame (s : State) (site : Nat) (addr : Nat) (data : List Byte) :
    FrameP [.regs, .larder, .larErr, .conflicts, .clusters, .resil, .freeCtr] s (State.larWriteRow s site addr data) := by
  unfold State.larWriteRow
  extract_lets +onlyGivenNames x0
  have h1 : Frame [.regs, .larder, .larErr, .conflicts, .clusters, .resil, .freeCtr] s x0 := by
    subst x0
    refine Frame.step ?_ (State.contend_frame _ _ _ _) (by decide)
    exact (State.wakeGroups_frame _ _ _ _).mono (by decide)
  clear_value x0
  split
  · rename_i h2
    have h3 := (State.larEdges_frame _ _ _).of_eq h2
    refine FrameP.pair ?_
    refine Frame.step ?_ h3 (by decide)
    exact h1
  · rename_i h4
    have h5 := (State.larEdges_frame _ _ _).of_eq h4
    refine FrameP.pair ?_
    refine Frame.step ?_ (State.larPut_frame _ _ _ _) (by decide)
    refine Frame.foldl ?_ ?_
    · refine Frame.step ?_ h5 (by decide)
      exact h1
    · intro x6 x7 h8
      refine Frame.step ?_ (State.larMend_frame _ _ _) (by decide)
      exact h8

theorem State.larWriteRows_frame (site : Nat) (n : Nat) (addr : Nat) (data : List Byte) (s : State) :
    FrameP [.regs, .larder, .larErr, .conflicts, .clusters, .resil, .freeCtr] s (State.larWriteRows site n addr data s) := by
  induction n generalizing s addr data with
  | zero =>
    rw [State.larWriteRows]
    refine FrameP.pair ?_
    exact Frame.refl _
  | succ n ih =>
    rw [State.larWriteRows]
    refine FrameP.ite (fun _ => ?_) fun _ => ?_
    · refine FrameP.pair ?_
      exact Frame.refl _
    · extract_lets +onlyGivenNames x0
      clear_value x0
      split
      · rename_i h1
        have h2 := (State.larWriteRow_frame _ _ _ _).of_eq h1
        refine FrameP.pair ?_
        exact h2
      · rename_i h3
        have h4 := (State.larWriteRow_frame _ _ _ _).of_eq h3
        refine FrameP.step ?_ (ih _ _ _) (by decide)
        exact h4

theorem State.larWrite_frame (s : State) (site : Nat) (addr : Nat) (data : List Byte) :
    FrameP [.regs, .larder, .larErr, .conflicts, .clusters, .resil, .freeCtr] s (State.larWrite s site addr data) := by
  unfold State.larWrite
  refine FrameP.step ?_ (State.larWriteRows_frame _ _ _ _ _) (by decide)
  exact Frame.refl _

-- Operands

theorem State.fin_frameC {P : List Part} {s0 : State} {s : State}{site : Nat}{c : Cluster} (hs : Frame P s0 s) (hq : [.clusters] ⊆ P) (hc : Canon s0 → c.canon = true) :
    FrameR P s0 (State.fin s site c) := by
  unfold State.fin
  refine FrameR.next ?_
  refine State.setCl_frameC ?_ (List.Subset.trans (by decide) hq) ?_
  · exact hs
  · intro h0
    exact hc h0

theorem State.progFault_frame (s : State) (site : Nat) (imm : BitVec 16) :
    Frame [.clusters, .resil] s (State.progFault s site imm) := by
  unfold State.progFault
  refine Frame.step ?_ (State.report_frame _ _) (by decide)
  refine Frame.step ?_ (State.updCl_same _ _ _ fun _ => rfl) (by decide)
  exact Frame.refl _

theorem State.stop_frame (s : State) (site : Nat) :
    FrameR [.clusters, .resil] s (State.stop s site) := by
  unfold State.stop
  refine FrameR.next ?_
  exact (State.progFault_frame _ _ _).mono (by decide)

theorem State.stallCore_frame (s : State) (site : Nat) (w : Stall) :
    Frame [.clusters] s (State.stallCore s site w) := by
  unfold State.stallCore
  refine Frame.step ?_ (State.updCl_same _ _ _ fun _ => rfl) (by decide)
  exact Frame.refl _

-- Cellar

theorem State.celTouch_frame (s : State) (r : Nat) :
    Frame [.regs, .regions] s (State.celTouch s r) := by
  unfold State.celTouch
  extract_lets +onlyGivenNames x0
  have h1 : Frame [.regs, .regions] s x0 := by
    subst x0
    exact (State.updRg_frame _ _ _).mono (by decide)
  clear_value x0
  refine Frame.ite (fun _ => ?_) fun _ => ?_
  · refine Frame.step ?_ (State.setRegF_frame _ _ _ _ _) (by decide)
    exact h1
  · exact h1

theorem State.celHard_frame (s : State) (r : Nat) (x : CelRow) :
    Frame [.attic, .resil] s (State.celHard s r x) := by
  unfold State.celHard
  exact (State.todo_frame _ _).mono (by decide)

theorem State.celCorrected_frame (s : State) (r : Nat) (cw : Nat) (patrol : Bool) :
    Frame [.attic, .regs, .regions, .resil] s (State.celCorrected s r cw patrol) := by
  unfold State.celCorrected
  extract_lets +onlyGivenNames x0
  have h1 : Frame [.attic, .regs, .regions, .resil] s x0 := by
    subst x0
    exact (State.count_frame _ _ _ _ _).mono (by decide)
  clear_value x0
  extract_lets +onlyGivenNames x2
  have h3 : Frame [.attic, .regs, .regions, .resil] s x2 := by
    subst x2
    refine Frame.step ?_ (State.setRegF_frame _ _ _ _ _) (by decide)
    exact h1
  clear_value x2
  extract_lets +onlyGivenNames x4
  have h5 : Frame [.attic, .regs, .regions, .resil] s x4 := by
    subst x4
    refine Frame.step ?_ (State.setReg_frame _ _ _) (by decide)
    exact h3
  clear_value x4
  extract_lets +onlyGivenNames x6
  clear_value x6
  extract_lets +onlyGivenNames x7
  have h8 : Frame [.attic, .regs, .regions, .resil] s x7 := by
    subst x7
    refine Frame.step ?_ (State.updRg_frame _ _ _) (by decide)
    exact h5
  clear_value x7
  refine Frame.ite (fun _ => ?_) fun _ => ?_
  · refine Frame.step ?_ (State.celHard_frame _ _ _) (by decide)
    exact h8
  · exact h8

theorem State.celUncorrectable_frame (s : State) (r : Nat) (cw : Nat) (patrol : Bool) :
    Frame [.regs, .regions, .resil] s (State.celUncorrectable s r cw patrol) := by
  unfold State.celUncorrectable
  extract_lets +onlyGivenNames x0
  have h1 : Frame [.regs, .regions, .resil] s x0 := by
    subst x0
    exact (State.count_frame _ _ _ _ _).mono (by decide)
  clear_value x0
  extract_lets +onlyGivenNames x2
  have h3 : Frame [.regs, .regions, .resil] s x2 := by
    subst x2
    refine Frame.step ?_ (State.setRegF_frame _ _ _ _ _) (by decide)
    exact h1
  clear_value x2
  extract_lets +onlyGivenNames x4
  have h5 : Frame [.regs, .regions, .resil] s x4 := by
    subst x4
    refine Frame.step ?_ (State.setReg_frame _ _ _) (by decide)
    exact h3
  clear_value x4
  extract_lets +onlyGivenNames x6
  subst x6
  extract_lets +onlyGivenNames x7
  have h8 : Frame [.regs, .regions, .resil] s x7 := by
    subst x7
    refine Frame.step ?_ (State.updRg_frame _ _ _) (by decide)
    exact h5
  clear_value x7
  refine Frame.step ?_ (State.report_frame _ _) (by decide)
  exact h8

theorem State.celCheck_frame (s : State) (r : Nat) (off : Nat) (n : Nat) (patrol : Bool) :
    FrameP [.attic, .regs, .regions, .resil] s (State.celCheck s r off n patrol) := by
  unfold State.celCheck
  refine FrameP.foldl ?_ ?_
  · refine FrameP.pair ?_
    exact Frame.refl _
  · intro x0 x1 h2
    split
    · refine FrameP.pair ?_
      refine Frame.step ?_ (State.celUncorrectable_frame _ _ _ _) (by decide)
      refine FrameP.fst ?_
      exact h2
    · refine FrameP.pair ?_
      refine Frame.ite (fun _ => ?_) fun _ => ?_
      · refine Frame.step ?_ (State.celCorrected_frame _ _ _ _) (by decide)
        refine FrameP.fst ?_
        exact h2
      · refine FrameP.fst ?_
        exact h2

theorem State.celRead_frame (s : State) (r : Nat) (off : Nat) (n : Nat) :
    FrameP [.attic, .regs, .regions, .resil] s (State.celRead s r off n) := by
  unfold State.celRead
  extract_lets +onlyGivenNames x0
  have h1 : Frame [.attic, .regs, .regions, .resil] s x0 := by
    subst x0
    refine Frame.ite (fun _ => ?_) fun _ => ?_
    · exact Frame.refl _
    · exact (State.celTouch_frame _ _).mono (by decide)
  clear_value x0
  extract_lets +onlyGivenNames x2
  have h3 : FrameP [.attic, .regs, .regions, .resil] s x2 := by
    subst x2
    refine FrameP.step ?_ (State.celCheck_frame _ _ _ _ _) (by decide)
    exact h1
  clear_value x2
  refine FrameP.pair ?_
  refine FrameP.fst ?_
  exact h3

theorem State.celPut_frame (s : State) (r : Nat) (off : Nat) (d : List Byte) :
    Frame [.cellar, .celErr] s (State.celPut s r off d) := by
  unfold State.celPut
  refine Frame.ite (fun _ => ?_) fun _ => ?_
  · exact Frame.refl _
  · refine Frame.upd ?_ rfl
    exact Frame.refl _

theorem State.celEdgeCheck_frame (s : State) (r : Nat) (ws : List Nat) :
    FrameP [.attic, .regs, .regions, .resil] s (State.celEdgeCheck s r ws) := by
  unfold State.celEdgeCheck
  refine FrameP.foldl ?_ ?_
  · refine FrameP.pair ?_
    exact Frame.refl _
  · intro x0 x1 h2
    extract_lets +onlyGivenNames x3
    have h4 : FrameP [.attic, .regs, .regions, .resil] s x3 := by
      subst x3
      refine FrameP.step ?_ (State.celCheck_frame _ _ _ _ _) (by decide)
      refine FrameP.fst ?_
      exact h2
    clear_value x3
    refine FrameP.pair ?_
    refine FrameP.fst ?_
    exact h4

theorem State.celMend_frame (s : State) (r : Nat) (e : Nat × BitVec 512) :
    Frame [.cellar, .celErr] s (State.celMend s r e) := by
  unfold State.celMend
  exact (State.celPut_frame _ _ _ _).mono (by decide)

theorem State.celWrite_frame (s : State) (r : Nat) (off : Nat) (d : List Byte) :
    FrameP [.attic, .regs, .cellar, .celErr, .regions, .resil] s (State.celWrite s r off d) := by
  unfold State.celWrite
  extract_lets +onlyGivenNames x0
  have h1 : Frame [.attic, .regs, .cellar, .celErr, .regions, .resil] s x0 := by
    subst x0
    refine Frame.ite (fun _ => ?_) fun _ => ?_
    · exact Frame.refl _
    · exact (State.celTouch_frame _ _).mono (by decide)
  clear_value x0
  split
  · rename_i h2
    have h3 := (State.celEdgeCheck_frame _ _ _).of_eq h2
    refine FrameP.pair ?_
    refine Frame.step ?_ h3 (by decide)
    exact h1
  · rename_i h4
    have h5 := (State.celEdgeCheck_frame _ _ _).of_eq h4
    refine FrameP.pair ?_
    refine Frame.step ?_ (State.celPut_frame _ _ _ _) (by decide)
    refine Frame.foldl ?_ ?_
    · refine Frame.step ?_ h5 (by decide)
      exact h1
    · intro x6 x7 h8
      refine Frame.step ?_ (State.celMend_frame _ _ _) (by decide)
      exact h8

theorem State.celLose_frame (s : State) (r : Nat) :
    Frame [.cellar, .celErr] s (State.celLose s r) := by
  unfold State.celLose
  refine Frame.upd ?_ rfl
  exact Frame.refl _

theorem State.patrolUnit_frame (s : State) (r : Nat) (ch : Nat) (unit : Nat) :
    Frame [.attic, .regs, .cellar, .celErr, .regions, .resil] s (State.patrolUnit s r ch unit) := by
  unfold State.patrolUnit
  refine Frame.foldl ?_ ?_
  · exact Frame.refl _
  · intro x0 x1 h2
    split
    · refine Frame.step ?_ (State.celUncorrectable_frame _ _ _ _) (by decide)
      exact h2
    · exact h2
    · extract_lets +onlyGivenNames x3
      have h4 : Frame [.attic, .regs, .cellar, .celErr, .regions, .resil] s x3 := by
        subst x3
        refine Frame.step ?_ (State.celCorrected_frame _ _ _ _) (by decide)
        exact h2
      clear_value x3
      extract_lets +onlyGivenNames x5
      clear_value x5
      extract_lets +onlyGivenNames x6
      have h7 : Frame [.attic, .regs, .cellar, .celErr, .regions, .resil] s x6 := by
        subst x6
        refine Frame.ite (fun _ => ?_) fun _ => ?_
        · refine Frame.step ?_ (State.celHard_frame _ _ _) (by decide)
          exact h4
        · exact h4
      clear_value x6
      extract_lets +onlyGivenNames x8
      have h9 : Frame [.attic, .regs, .cellar, .celErr, .regions, .resil] s x8 := by
        subst x8
        refine Frame.step ?_ (State.updRg_frame _ _ _) (by decide)
        exact h7
      clear_value x8
      refine Frame.step ?_ (State.celMend_frame _ _ _) (by decide)
      exact h9

theorem State.mapRow_frame (s : State) (r : Nat) (x : CelRow) (i : Nat) (spare : Nat) :
    Frame [.attic, .regions] s (State.mapRow s r x i spare) := by
  unfold State.mapRow
  extract_lets +onlyGivenNames x0
  subst x0
  refine Frame.step ?_ (State.updRg_frame _ _ _) (by decide)
  refine Frame.upd ?_ rfl
  exact Frame.refl _

theorem State.dropRowReports_frame (s : State) (r : Nat) (x : CelRow) :
    Frame [.resil] s (State.dropRowReports s r x) := by
  unfold State.dropRowReports
  refine Frame.upd ?_ rfl
  exact Frame.refl _

theorem State.reportFill_frame (s : State) (r : Nat) :
    Frame [.resil] s (State.reportFill s r) := by
  unfold State.reportFill
  refine Frame.ite (fun _ => ?_) fun _ => ?_
  · exact (State.report_frame _ _).mono (by decide)
  · exact Frame.refl _

theorem State.remapRow_frame (s : State) (r : Nat) (x : CelRow) :
    FrameO [.attic, .regions, .resil] s (State.remapRow s r x) := by
  unfold State.remapRow
  extract_lets +onlyGivenNames x0
  clear_value x0
  extract_lets +onlyGivenNames x1
  clear_value x1
  extract_lets +onlyGivenNames x2
  clear_value x2
  extract_lets +onlyGivenNames x3
  clear_value x3
  extract_lets +onlyGivenNames x4
  clear_value x4
  split
  · refine FrameO.ite (fun _ => ?_) fun _ => ?_
    · exact FrameO.none
    · refine FrameO.some ?_
      refine Frame.step ?_ (State.reportFill_frame _ _) (by decide)
      exact (State.mapRow_frame _ _ _ _ _).mono (by decide)
  · exact FrameO.none

theorem State.rewriteRow_frame (s : State) (r : Nat) (x : CelRow) :
    Frame [.cellar, .celErr] s (State.rewriteRow s r x) := by
  unfold State.rewriteRow
  refine Frame.foldl ?_ ?_
  · exact Frame.refl _
  · intro x0 x1 h2
    split
    · refine Frame.ite (fun _ => ?_) fun _ => ?_
      · exact h2
      · refine Frame.step ?_ (State.celMend_frame _ _ _) (by decide)
        exact h2
    · exact h2

theorem State.celInject_frame (s : State) (r : Nat) (v : Word) :
    Frame [.celErr] s (State.celInject s r v) := by
  unfold State.celInject
  extract_lets +onlyGivenNames x0
  clear_value x0
  extract_lets +onlyGivenNames x1
  clear_value x1
  extract_lets +onlyGivenNames x2
  subst x2
  extract_lets +onlyGivenNames x3
  clear_value x3
  refine Frame.upd ?_ rfl
  exact Frame.refl _

theorem execCelinjsymArm_frame (r : RegionNo) (v : Word) (s : State) :
    FrameR [.regs, .celErr] s (execCelinjsymArm r v s) := by
  unfold execCelinjsymArm
  refine FrameR.ite (fun _ => ?_) fun _ => ?_
  · refine FrameR.next ?_
    exact Frame.refl _
  · refine FrameR.ite (fun _ => ?_) fun _ => ?_
    · exact FrameR.undef
    · extract_lets +onlyGivenNames x0
      have h1 : Frame [.regs, .celErr] s x0 := by
        subst x0
        exact (State.setReg_frame _ _ _).mono (by decide)
      clear_value x0
      refine FrameR.next ?_
      refine Frame.ite (fun _ => ?_) fun _ => ?_
      · refine Frame.step ?_ (State.celInject_frame _ _ _) (by decide)
        exact h1
      · exact h1

-- Scrub

theorem State.larHard_frame (s : State) (site : Nat) (row : Nat) :
    Frame [.attic, .resil] s (State.larHard s site row) := by
  unfold State.larHard
  exact (State.todo_frame _ _).mono (by decide)

theorem State.scrubCheck_frame (s : State) (site : Nat) (row : Nat) :
    Frame [.attic, .regs, .conflicts, .clusters, .resil, .freeCtr] s (State.scrubCheck s site row) := by
  unfold State.scrubCheck
  refine Frame.foldl ?_ ?_
  · exact (State.contend_frame _ _ _ _).mono (by decide)
  · intro x0 x1 h2
    split
    · refine Frame.step ?_ (State.larUncorrectable_frame _ _ _ _) (by decide)
      exact h2
    · exact h2
    · extract_lets +onlyGivenNames x3
      have h4 : Frame [.attic, .regs, .conflicts, .clusters, .resil, .freeCtr] s x3 := by
        subst x3
        refine Frame.step ?_ (State.larCorrected_frame _ _ _ _ _) (by decide)
        exact h2
      clear_value x3
      extract_lets +onlyGivenNames x5
      clear_value x5
      extract_lets +onlyGivenNames x6
      have h7 : Frame [.attic, .regs, .conflicts, .clusters, .resil, .freeCtr] s x6 := by
        subst x6
        refine Frame.ite (fun _ => ?_) fun _ => ?_
        · refine Frame.step ?_ (State.larHard_frame _ _ _) (by decide)
          exact h4
        · exact h4
      clear_value x6
      refine Frame.step ?_ (State.updCl_same _ _ _ fun _ => rfl) (by decide)
      exact h7

theorem State.setRetention_frame (s : State) (r : Nat) (on : Bool) :
    Frame [.regs] s (State.setRetention s r on) := by
  unfold State.setRetention
  refine Frame.foldl ?_ ?_
  · exact Frame.refl _
  · intro x0 x1 h2
    extract_lets +onlyGivenNames x3
    clear_value x3
    refine Frame.ite (fun _ => ?_) fun _ => ?_
    · exact h2
    · refine Frame.step ?_ (State.setRegF_frame _ _ _ _ _) (by decide)
      exact h2

theorem State.setSwitches_frame (s : State) (r : Nat) (closed : Bool) (retn : Bool) (sram : Bool) :
    Frame [.regs] s (State.setSwitches s r closed retn sram) := by
  unfold State.setSwitches
  refine Frame.step ?_ (State.setRegF_frame _ _ _ _ _) (by decide)
  refine Frame.step ?_ (State.setRegF_frame _ _ _ _ _) (by decide)
  exact (State.setRegF_frame _ _ _ _ _).mono (by decide)

theorem State.toBivouac_frame (s : State) (r : Nat) :
    Frame [.regs, .regions] s (State.toBivouac s r) := by
  unfold State.toBivouac
  extract_lets +onlyGivenNames x0
  have h1 : Frame [.regs, .regions] s x0 := by
    subst x0
    refine Frame.step ?_ (State.setRegF_frame _ _ _ _ _) (by decide)
    exact (State.setRstate_frame _ _ _).mono (by decide)
  clear_value x0
  extract_lets +onlyGivenNames x2
  have h3 : Frame [.regs, .regions] s x2 := by
    subst x2
    refine Frame.step ?_ (State.setRegF_frame _ _ _ _ _) (by decide)
    refine Frame.step ?_ (State.setRegF_frame _ _ _ _ _) (by decide)
    exact h1
  clear_value x2
  extract_lets +onlyGivenNames x4
  have h5 : Frame [.regs, .regions] s x4 := by
    subst x4
    refine Frame.step ?_ (State.setRetention_frame _ _ _) (by decide)
    refine Frame.step ?_ (State.setSwitches_frame _ _ _ _ _) (by decide)
    exact h3
  clear_value x4
  refine Frame.step ?_ (State.updRg_frame _ _ _) (by decide)
  exact h5

theorem State.clockUp_frame (s : State) (r : Nat) :
    Frame [.regs] s (State.clockUp s r) := by
  unfold State.clockUp
  refine Frame.ite (fun _ => ?_) fun _ => ?_
  · exact Frame.refl _
  · extract_lets +onlyGivenNames x0
    have h1 : Frame [.regs] s x0 := by
      subst x0
      refine Frame.step ?_ (State.setRegF_frame _ _ _ _ _) (by decide)
      refine Frame.step ?_ (State.setRegF_frame _ _ _ _ _) (by decide)
      exact (State.setRstate_frame _ _ _).mono (by decide)
    clear_value x0
    refine Frame.step ?_ (State.setRetention_frame _ _ _) (by decide)
    refine Frame.step ?_ (State.setSwitches_frame _ _ _ _ _) (by decide)
    exact h1

theorem State.openWindow_frame (s : State) (r : Nat) :
    Frame [.regs, .regions] s (State.openWindow s r) := by
  unfold State.openWindow
  refine Frame.step ?_ (State.updRg_frame _ _ _) (by decide)
  exact (State.clockUp_frame _ _).mono (by decide)

theorem State.closeWindow_frame (s : State) (r : Nat) :
    Frame [.regs, .regions] s (State.closeWindow s r) := by
  unfold State.closeWindow
  extract_lets +onlyGivenNames x0
  have h1 : Frame [.regs, .regions] s x0 := by
    subst x0
    exact (State.updRg_frame _ _ _).mono (by decide)
  clear_value x0
  refine Frame.ite (fun _ => ?_) fun _ => ?_
  · refine Frame.ite (fun _ => ?_) fun _ => ?_
    · refine Frame.step ?_ (State.toBivouac_frame _ _) (by decide)
      exact h1
    · exact h1
  · exact Frame.refl _

theorem State.passEnd_frame (s : State) (site : Nat) :
    Frame [.regs, .clusters, .regions] s (State.passEnd s site) := by
  unfold State.passEnd
  extract_lets +onlyGivenNames x0
  clear_value x0
  extract_lets +onlyGivenNames x1
  clear_value x1
  extract_lets +onlyGivenNames x2
  have h3 : Frame [.regs, .clusters, .regions] s x2 := by
    subst x2
    refine Frame.step ?_ (State.setRegF_frame _ _ _ _ _) (by decide)
    exact (State.setRegF_frame _ _ _ _ _).mono (by decide)
  clear_value x2
  extract_lets +onlyGivenNames x4
  have h5 : Frame [.regs, .clusters, .regions] s x4 := by
    subst x4
    refine Frame.step ?_ (State.updCl_same _ _ _ fun _ => rfl) (by decide)
    exact h3
  clear_value x4
  refine Frame.ite (fun _ => ?_) fun _ => ?_
  · refine Frame.step ?_ (State.closeWindow_frame _ _) (by decide)
    exact h5
  · exact h5

theorem State.visitRow_frame (s : State) (site : Nat) (row : Nat) :
    Frame [.attic, .regs, .conflicts, .clusters, .regions, .resil, .freeCtr] s (State.visitRow s site row) := by
  unfold State.visitRow
  extract_lets +onlyGivenNames x0
  have h1 : Frame [.attic, .regs, .conflicts, .clusters, .regions, .resil, .freeCtr] s x0 := by
    subst x0
    exact (State.scrubCheck_frame _ _ _).mono (by decide)
  clear_value x0
  extract_lets +onlyGivenNames x2
  clear_value x2
  refine Frame.ite (fun _ => ?_) fun _ => ?_
  · refine Frame.step ?_ (State.setRegF_frame _ _ _ _ _) (by decide)
    exact h1
  · refine Frame.step ?_ (State.passEnd_frame _ _) (by decide)
    exact h1

theorem State.rewriteWord_frame (s : State) (site : Nat) (e : Nat × BitVec 64) :
    Frame [.larder, .larErr] s (State.rewriteWord s site e) := by
  unfold State.rewriteWord
  refine Frame.upd ?_ rfl
  exact Frame.refl _

theorem State.preemptWatch_frame (s : State) (r : Nat) :
    Frame [.regs] s (State.preemptWatch s r) := by
  unfold State.preemptWatch
  refine Frame.foldl ?_ ?_
  · exact Frame.refl _
  · intro x0 x1 h2
    refine Frame.ite (fun _ => ?_) fun _ => ?_
    · refine Frame.step ?_ (State.setRegF_frame _ _ _ _ _) (by decide)
      refine Frame.step ?_ (State.setRegF_frame _ _ _ _ _) (by decide)
      exact h2
    · exact h2

theorem State.larInject_frame (s : State) (site : Nat) (v : Word) :
    Frame [.larErr] s (State.larInject s site v) := by
  unfold State.larInject
  extract_lets +onlyGivenNames x0
  clear_value x0
  extract_lets +onlyGivenNames x1
  clear_value x1
  extract_lets +onlyGivenNames x2
  subst x2
  extract_lets +onlyGivenNames x3
  clear_value x3
  refine Frame.upd ?_ rfl
  exact Frame.refl _

theorem execLarinjArm_frame (c : SiteNo) (v : Word) (s : State) :
    FrameR [.regs, .larErr] s (execLarinjArm c v s) := by
  unfold execLarinjArm
  extract_lets +onlyGivenNames x0
  clear_value x0
  refine FrameR.ite (fun _ => ?_) fun _ => ?_
  · refine FrameR.next ?_
    exact Frame.refl _
  · refine FrameR.ite (fun _ => ?_) fun _ => ?_
    · exact FrameR.undef
    · extract_lets +onlyGivenNames x1
      have h2 : Frame [.regs, .larErr] s x1 := by
        subst x1
        exact (State.setReg_frame _ _ _).mono (by decide)
      clear_value x1
      refine FrameR.next ?_
      refine Frame.ite (fun _ => ?_) fun _ => ?_
      · refine Frame.step ?_ (State.larInject_frame _ _ _) (by decide)
        exact h2
      · exact h2

-- Plan

theorem State.planWrite_frame (s : State) (r : Nat) (off : Nat) (d : List Byte) :
    FrameF [.attic, .regs, .cellar, .celErr, .regions, .resil] s (State.planWrite s r off d) := by
  unfold State.planWrite
  refine FrameF.ite (fun _ => ?_) fun _ => ?_
  · exact FrameF.undef
  · split
    · rename_i h0
      have h1 := (State.celWrite_frame _ _ _ _).of_eq h0
      refine FrameF.ok ?_
      exact h1
    · rename_i h2
      have h3 := (State.celWrite_frame _ _ _ _).of_eq h2
      refine FrameF.held ?_
      exact h3

theorem State.larStore_frame (s : State) (site : Nat) (addr : Nat) (d : List Byte) :
    FrameF [.regs, .larder, .larErr, .conflicts, .clusters, .resil, .freeCtr] s (State.larStore s site addr d) := by
  unfold State.larStore
  refine FrameF.ite (fun _ => ?_) fun _ => ?_
  · exact FrameF.undef
  · split
    · rename_i h0
      have h1 := (State.larWrite_frame _ _ _ _).of_eq h0
      refine FrameF.ok ?_
      exact h1
    · rename_i h2
      have h3 := (State.larWrite_frame _ _ _ _).of_eq h2
      refine FrameF.held ?_
      exact h3

theorem State.readPrograms_frameK {P : List Part} {s0 : State} {hr : Nat} {h : Hdr} {l : List (List Byte)} {i : Nat} {t : Tab (Option (List Word))} {s : State} {k : State → Tab (Option (List Word)) → Flow}
    (hs : Frame P s0 s) (hq : [.attic, .regs, .regions, .resil] ⊆ P) (hk : ∀ u x, Frame P s0 u → FrameF P s0 (k u x)) :
    FrameF P s0 (State.readPrograms hr h l i t s k) := by
  induction l generalizing i t s with
  | nil => exact hk _ _ hs
  | cons a l ih =>
    rw [State.readPrograms]
    unfold State.readProgram
    extract_lets +onlyGivenNames x0
    clear_value x0
    refine FrameF.ite (fun _ => ?_) fun _ => ?_
    · beta_reduce
      refine ih ?_
      exact hs
    · unfold State.planRead
      refine FrameF.ite (fun _ => ?_) fun _ => ?_
      · exact FrameF.undef
      · split
        · rename_i h1
          have h2 := (State.celRead_frame _ _ _ _).of_eq h1
          beta_reduce
          refine ih ?_
          refine Frame.step ?_ h2 (List.Subset.trans (by decide) hq)
          exact hs
        · rename_i h3
          have h4 := (State.celRead_frame _ _ _ _).of_eq h3
          refine FrameF.held ?_
          refine Frame.step ?_ h4 (List.Subset.trans (by decide) hq)
          exact hs

theorem State.cachePrograms_frame (s : State) (hr : Nat) (h : Hdr) (rs : List Nat) :
    FrameF [.attic, .regs, .regions, .resil] s (State.cachePrograms s hr h rs) := by
  unfold State.cachePrograms
  unfold State.planRead
  refine FrameF.ite (fun _ => ?_) fun _ => ?_
  · exact FrameF.undef
  · split
    · rename_i h0
      have h1 := (State.celRead_frame _ _ _ _).of_eq h0
      beta_reduce
      refine State.readPrograms_frameK ?_ (by decide) ?_
      · exact h1
      · intro x2 x3 h4
        refine FrameF.ok ?_
        refine Frame.foldl ?_ ?_
        · exact h4
        · intro x5 x6 h7
          refine Frame.step ?_ (State.updRg_frame _ _ _) (by decide)
          exact h7
    · rename_i h8
      have h9 := (State.celRead_frame _ _ _ _).of_eq h8
      refine FrameF.held ?_
      exact h9

theorem State.loadProgram_frame (s : State) (h : Hdr) (site : Nat) (idx : Nat) :
    FrameF [.clusters] s (State.loadProgram s h site idx) := by
  unfold State.loadProgram
  refine FrameF.ite (fun _ => ?_) fun _ => ?_
  · exact FrameF.undef
  · split
    · exact FrameF.undef
    · refine FrameF.ok ?_
      refine Frame.step ?_ (State.updCl_same _ _ _ fun _ => rfl) (by decide)
      exact Frame.refl _

theorem State.openTile_frame (s : State) (site : Nat) :
    Frame [.regs, .larder, .larErr, .conflicts, .clusters, .resil, .freeCtr] s (State.openTile s site) := by
  unfold State.openTile
  extract_lets +onlyGivenNames x0
  subst x0
  split
  · exact Frame.refl _
  · refine Frame.ite (fun _ => ?_) fun _ => ?_
    · exact Frame.refl _
    · extract_lets +onlyGivenNames x1
      subst x1
      refine Frame.ite (fun _ => ?_) fun _ => ?_
      · beta_reduce
        refine Frame.step ?_ (State.updCl_same _ _ _ fun _ => rfl) (by decide)
        exact Frame.refl _
      · split
        · rename_i h2
          have h3 := (State.larRead_frame _ _ _ _).of_eq h2
          refine Frame.step ?_ (State.updCl_same _ _ _ fun _ => rfl) (by decide)
          exact h3
        · rename_i h4
          have h5 := (State.larRead_frame _ _ _ _).of_eq h4
          beta_reduce
          refine Frame.step ?_ (State.updCl_same _ _ _ fun _ => rfl) (by decide)
          exact h5

theorem State.startCluster_frame (s : State) (h : Hdr) (p : Nat) (e : PEnt) (seed : Nat) (recs : List (List Byte)) (lc : Nat) (site : Nat) :
    FrameF [.regs, .larder, .larErr, .conflicts, .clusters, .resil, .freeCtr] s (State.startCluster s h p e seed recs lc site) := by
  unfold State.startCluster
  extract_lets +onlyGivenNames x0
  subst x0
  split
  · refine FrameF.ok ?_
    refine Frame.step ?_ (State.updCl_same _ _ _ fun _ => rfl) (by decide)
    exact Frame.refl _
  · extract_lets +onlyGivenNames x1
    clear_value x1
    extract_lets +onlyGivenNames x2
    have h3 : FrameF [.regs, .larder, .larErr, .conflicts, .clusters, .resil, .freeCtr] s x2 := by
      subst x2
      refine FrameF.ite (fun _ => ?_) fun _ => ?_
      · refine FrameF.ok ?_
        exact Frame.refl _
      · refine FrameF.step ?_ (State.loadProgram_frame _ _ _ _) (by decide)
        exact Frame.refl _
    clear_value x2
    refine FrameF.bind ?_ ?_
    · exact h3
    · intro x4 h5
      refine FrameF.ok ?_
      refine Frame.step ?_ (State.openTile_frame _ _) (by decide)
      refine Frame.step ?_ (State.updCl_same _ _ _ fun _ => rfl) (by decide)
      exact h5

theorem State.startPitch_frame (s : State) (hr : Nat) (h : Hdr) (p : Nat) (entry : Nat) (seed : Nat) (r : Nat) :
    FrameF [.attic, .regs, .larder, .larErr, .conflicts, .clusters, .regions, .resil, .freeCtr] s (State.startPitch s hr h p entry seed r) := by
  unfold State.startPitch
  split
  · refine FrameF.ok ?_
    exact Frame.refl _
  · unfold State.readPitch
    refine FrameF.ite (fun _ => ?_) fun _ => ?_
    · exact FrameF.undef
    · unfold State.planRead
      refine FrameF.ite (fun _ => ?_) fun _ => ?_
      · exact FrameF.undef
      · split
        · rename_i h0
          have h1 := (State.celRead_frame _ _ _ _).of_eq h0
          beta_reduce
          refine FrameF.ite (fun _ => ?_) fun _ => ?_
          · exact FrameF.undef
          · refine FrameF.ite (fun _ => ?_) fun _ => ?_
            · exact FrameF.undef
            · split
              · rename_i h2
                have h3 := (State.celRead_frame _ _ _ _).of_eq h2
                extract_lets +onlyGivenNames x4
                clear_value x4
                refine FrameF.fold ?_ ?_
                · refine Frame.step ?_ h3 (by decide)
                  refine Frame.step ?_ h1 (by decide)
                  exact Frame.refl _
                · intro x5 x6 h7
                  split
                  · refine FrameF.step ?_ (State.startCluster_frame _ _ _ _ _ _ _ _) (by decide)
                    exact h7
                  · refine FrameF.ok ?_
                    exact h7
              · rename_i h8
                have h9 := (State.celRead_frame _ _ _ _).of_eq h8
                refine FrameF.held ?_
                refine Frame.step ?_ h9 (by decide)
                refine Frame.step ?_ h1 (by decide)
                exact Frame.refl _
        · rename_i h10
          have h11 := (State.celRead_frame _ _ _ _).of_eq h10
          refine FrameF.held ?_
          refine Frame.step ?_ h11 (by decide)
          exact Frame.refl _

theorem State.updFa_frame (s : State) (site : Nat) (f : FetchAhead → FetchAhead) :
    Frame [.clusters] s (State.updFa s site f) := by
  unfold State.updFa
  refine Frame.step ?_ (State.updCl_same _ _ _ fun _ => rfl) (by decide)
  exact Frame.refl _

theorem State.takeEntry_frame (s : State) (site : Nat) (p : Nat) :
    FrameF [.regs, .larder, .larErr, .conflicts, .clusters, .resil, .freeCtr] s (State.takeEntry s site p) := by
  unfold State.takeEntry
  extract_lets +onlyGivenNames x0
  subst x0
  refine FrameF.ite (fun _ => ?_) fun _ => ?_
  · refine FrameF.ok ?_
    exact (State.updFa_frame _ _ _).mono (by decide)
  · refine FrameF.ite (fun _ => ?_) fun _ => ?_
    · exact FrameF.undef
    · split
      · rename_i h1
        have h2 := (State.larRead_frame _ _ _ _).of_eq h1
        refine FrameF.ok ?_
        refine Frame.step ?_ (State.updFa_frame _ _ _) (by decide)
        exact h2
      · rename_i h3
        have h4 := (State.larRead_frame _ _ _ _).of_eq h3
        refine FrameF.ok ?_
        refine Frame.step ?_ (State.updFa_frame _ _ _) (by decide)
        exact h4

theorem State.startEngine_frame (s : State) (site : Nat) (addr : Nat) (len : Nat) :
    FrameF [.regs, .larder, .larErr, .conflicts, .clusters, .resil, .freeCtr] s (State.startEngine s site addr len) := by
  unfold State.startEngine
  refine FrameF.ite (fun _ => ?_) fun _ => ?_
  · refine FrameF.ok ?_
    exact (State.updFa_frame _ _ _).mono (by decide)
  · refine FrameF.ite (fun _ => ?_) fun _ => ?_
    · exact FrameF.undef
    · extract_lets +onlyGivenNames x0
      subst x0
      extract_lets +onlyGivenNames x1
      subst x1
      split
      · rename_i h2
        have h3 := (State.larRead_frame _ _ _ _).of_eq h2
        refine FrameF.ok ?_
        beta_reduce
        refine Frame.step ?_ (State.updCl_same _ _ _ fun _ => rfl) (by decide)
        exact h3
      · rename_i h4
        have h5 := (State.larRead_frame _ _ _ _).of_eq h4
        extract_lets +onlyGivenNames x6
        clear_value x6
        refine FrameF.step ?_ (State.takeEntry_frame _ _ _) (by decide)
        beta_reduce
        refine Frame.step ?_ (State.updCl_same _ _ _ fun _ => rfl) (by decide)
        exact h5

theorem State.stopEngine_frame (s : State) (site : Nat) :
    Frame [.clusters] s (State.stopEngine s site) := by
  unfold State.stopEngine
  exact (State.updFa_frame _ _ _).mono (by decide)

theorem State.applyMask_frame (s : State) (site : Nat) (mask : Nat) :
    Frame [.regs, .larder, .larErr, .clusters] s (State.applyMask s site mask) := by
  unfold State.applyMask
  refine Frame.foldl ?_ ?_
  · exact Frame.refl _
  · intro x0 x1 h2
    refine Frame.ite (fun _ => ?_) fun _ => ?_
    · refine Frame.ite (fun _ => ?_) fun _ => ?_
      · exact h2
      · refine Frame.step ?_ (State.groupOn_frame _ _ _) (by decide)
        exact h2
    · refine Frame.ite (fun _ => ?_) fun _ => ?_
      · refine Frame.step ?_ (State.groupOff_frame _ _ _) (by decide)
        exact h2
      · exact h2

theorem State.loadPresets_frame (s : State) (hr : Nat) (h : Hdr) (site : Nat) (reload : Bool) (idx : Nat) :
    FrameF [.attic, .regs, .clusters, .regions, .resil] s (State.loadPresets s hr h site reload idx) := by
  unfold State.loadPresets
  refine FrameF.ite (fun _ => ?_) fun _ => ?_
  · refine FrameF.ok ?_
    exact Frame.refl _
  · refine FrameF.ite (fun _ => ?_) fun _ => ?_
    · exact FrameF.undef
    · unfold State.planRead
      refine FrameF.ite (fun _ => ?_) fun _ => ?_
      · exact FrameF.undef
      · split
        · rename_i h0
          have h1 := (State.celRead_frame _ _ _ _).of_eq h0
          beta_reduce
          extract_lets +onlyGivenNames x2
          clear_value x2
          refine FrameF.ite (fun _ => ?_) fun _ => ?_
          · exact FrameF.undef
          · refine FrameF.ok ?_
            refine Frame.step ?_ (State.updCl_same _ _ _ fun _ => rfl) (by decide)
            refine Frame.step ?_ h1 (by decide)
            exact Frame.refl _
        · rename_i h3
          have h4 := (State.celRead_frame _ _ _ _).of_eq h3
          refine FrameF.held ?_
          refine Frame.step ?_ h4 (by decide)
          exact Frame.refl _

theorem State.wakePresets_frame (s : State) (hr : Nat) (h : Hdr) (reload : Bool) (recs : List (List Byte)) (lc : Nat) (site : Nat) :
    FrameF [.attic, .regs, .clusters, .regions, .resil] s (State.wakePresets s hr h reload recs lc site) := by
  unfold State.wakePresets
  split
  · refine FrameF.step ?_ (State.loadPresets_frame _ _ _ _ _ _) (by decide)
    exact Frame.refl _
  · refine FrameF.ok ?_
    refine Frame.ite (fun _ => ?_) fun _ => ?_
    · refine Frame.step ?_ (State.updCl_same _ _ _ fun _ => rfl) (by decide)
      exact Frame.refl _
    · exact Frame.refl _

theorem State.wakeCluster_frame (s : State) (hr : Nat) (h : Hdr) (reload : Bool) (recs : List (List Byte)) (r : Nat) (lc : Nat) (site : Nat) :
    FrameF [.attic, .regs, .larder, .larErr, .conflicts, .clusters, .regions, .resil, .freeCtr] s (State.wakeCluster s hr h reload recs r lc site) := by
  unfold State.wakeCluster
  extract_lets +onlyGivenNames x0
  clear_value x0
  refine FrameF.bind ?_ ?_
  · refine FrameF.step ?_ (State.wakePresets_frame _ _ _ _ _ _ _) (by decide)
    exact Frame.refl _
  · intro x1 h2
    extract_lets +onlyGivenNames x3
    have h4 : Frame [.attic, .regs, .larder, .larErr, .conflicts, .clusters, .regions, .resil, .freeCtr] s x3 := by
      subst x3
      refine Frame.step ?_ (State.applyMask_frame _ _ _) (by decide)
      exact h2
    clear_value x3
    extract_lets +onlyGivenNames x5
    have h6 : Frame [.attic, .regs, .larder, .larErr, .conflicts, .clusters, .regions, .resil, .freeCtr] s x5 := by
      subst x5
      refine Frame.step ?_ (State.updCl_same _ _ _ fun _ => rfl) (by decide)
      exact h4
    clear_value x5
    unfold State.planRead
    refine FrameF.ite (fun _ => ?_) fun _ => ?_
    · exact FrameF.undef
    · split
      · rename_i h7
        have h8 := (State.celRead_frame _ _ _ _).of_eq h7
        beta_reduce
        refine FrameF.bind ?_ ?_
        · refine FrameF.step ?_ (State.larStore_frame _ _ _ _) (by decide)
          refine Frame.step ?_ h8 (by decide)
          exact h6
        · intro x9 h10
          refine FrameF.ok ?_
          refine Frame.step ?_ (State.updCl_same _ _ _ fun _ => rfl) (by decide)
          exact h10
      · rename_i h11
        have h12 := (State.celRead_frame _ _ _ _).of_eq h11
        refine FrameF.held ?_
        refine Frame.step ?_ h12 (by decide)
        exact h6

theorem State.wakeRegion_frame (s : State) (hr : Nat) (h : Hdr) (reload : Bool) (r : Nat) :
    FrameF [.attic, .regs, .larder, .larErr, .conflicts, .clusters, .regions, .resil, .freeCtr] s (State.wakeRegion s hr h reload r) := by
  unfold State.wakeRegion
  split
  · refine FrameF.ok ?_
    exact Frame.refl _
  · unfold State.planRead
    refine FrameF.ite (fun _ => ?_) fun _ => ?_
    · exact FrameF.undef
    · split
      · rename_i h0
        have h1 := (State.celRead_frame _ _ _ _).of_eq h0
        beta_reduce
        extract_lets +onlyGivenNames x2
        clear_value x2
        refine FrameF.bind ?_ ?_
        · refine FrameF.fold ?_ ?_
          · refine Frame.step ?_ h1 (by decide)
            exact Frame.refl _
          · intro x3 x4 h5
            split
            · refine FrameF.step ?_ (State.wakeCluster_frame _ _ _ _ _ _ _ _) (by decide)
              exact h5
            · refine FrameF.ok ?_
              exact h5
        · intro x6 h7
          refine FrameF.ok ?_
          refine Frame.step ?_ (State.updRg_frame _ _ _) (by decide)
          exact h7
      · rename_i h8
        have h9 := (State.celRead_frame _ _ _ _).of_eq h8
        refine FrameF.held ?_
        refine Frame.step ?_ h9 (by decide)
        exact Frame.refl _

theorem State.startEngines_frame (s : State) (h : Hdr) :
    FrameF [.regs, .larder, .larErr, .conflicts, .clusters, .resil, .freeCtr] s (State.startEngines s h) := by
  unfold State.startEngines
  refine FrameF.fold ?_ ?_
  · exact Frame.refl _
  · intro x0 x1 h2
    refine FrameF.step ?_ (State.startEngine_frame _ _ _ _) (by decide)
    exact h2

theorem State.loadTables_frame (s : State) (hr : Nat) (h : Hdr) :
    FrameF [.attic, .regs, .regions, .sync, .resil] s (State.loadTables s hr h) := by
  unfold State.loadTables
  unfold State.planRead
  refine FrameF.ite (fun _ => ?_) fun _ => ?_
  · exact FrameF.undef
  · split
    · rename_i h0
      have h1 := (State.celRead_frame _ _ _ _).of_eq h0
      beta_reduce
      refine FrameF.ite (fun _ => ?_) fun _ => ?_
      · exact FrameF.undef
      · split
        · rename_i h2
          have h3 := (State.celRead_frame _ _ _ _).of_eq h2
          refine FrameF.ok ?_
          refine Frame.upd ?_ rfl
          refine Frame.step ?_ h3 (by decide)
          refine Frame.step ?_ h1 (by decide)
          exact Frame.refl _
        · rename_i h4
          have h5 := (State.celRead_frame _ _ _ _).of_eq h4
          refine FrameF.held ?_
          refine Frame.step ?_ h5 (by decide)
          refine Frame.step ?_ h1 (by decide)
          exact Frame.refl _
    · rename_i h6
      have h7 := (State.celRead_frame _ _ _ _).of_eq h6
      refine FrameF.held ?_
      refine Frame.step ?_ h7 (by decide)
      exact Frame.refl _

theorem State.resetSync_frame (s : State) :
    Frame [.sync] s (State.resetSync s) := by
  unfold State.resetSync
  refine Frame.upd ?_ rfl
  exact Frame.refl _

end Sys2Proof.Machine
end

