-- ==== Sys2Proof/Laws/FrameSend.lean ====
section
/-! SUPPORT. Frames of the shared operations of packets, rings, the cairn and the depots: what each may change, whatever it answers. -/

namespace Sys2Proof.Machine

-- One proof after the other: together they would take a thread each, and with it a stack.
set_option Elab.async false

-- Send

theorem State.onLine_frame (s : State) (l : Nat) (o : Out) :
    Frame [.links, .out] s (State.onLine s l o) := by
  unfold State.onLine
  extract_lets +onlyGivenNames x0
  clear_value x0
  refine Frame.step ?_ (State.emit_frame _ _) (by decide)
  exact (State.updLnk_frame _ _ _).mono (by decide)

theorem State.drainLink_frame (l : Nat) (n : Nat) (s : State) :
    Frame [.links, .out] s (State.drainLink l n s) := by
  induction n generalizing s with
  | zero =>
    rw [State.drainLink]
    exact Frame.refl _
  | succ n ih =>
    rw [State.drainLink]
    refine Frame.ite (fun _ => ?_) fun _ => ?_
    · exact Frame.refl _
    · split
      · exact Frame.refl _
      · refine Frame.step ?_ (ih _) (by decide)
        refine Frame.step ?_ (State.onLine_frame _ _ _) (by decide)
        exact (State.updLnk_frame _ _ _).mono (by decide)

theorem State.send_frame (s : State) (l : Nat) (pool : Nat) (n : Nat) (o : Out) :
    Frame [.links, .out] s (State.send s l pool n o) := by
  unfold State.send
  extract_lets +onlyGivenNames x0
  have h1 : Frame [.links, .out] s x0 := by
    subst x0
    exact (State.updLnk_frame _ _ _).mono (by decide)
  clear_value x0
  refine Frame.step ?_ (State.drainLink_frame _ _ _) (by decide)
  exact h1

theorem State.received_frame (s : State) (l : Nat) (pool : Nat) (n : Nat) :
    Frame [.links] s (State.received s l pool n) := by
  unfold State.received
  exact (State.updLnk_frame _ _ _).mono (by decide)

theorem State.putHost_frame (s : State) (w : HostWr) :
    Frame [.links, .jobs, .out] s (State.putHost s w) := by
  unfold State.putHost
  split
  · refine Frame.step ?_ (State.send_frame _ _ _ _ _) (by decide)
    refine Frame.upd ?_ rfl
    exact Frame.refl _
  · refine Frame.upd ?_ rfl
    exact Frame.refl _

theorem State.hostWrite_frame (s : State) (addr : DWord) (last : Bool) (d : List Byte) :
    Frame [.links, .jobs, .out] s (State.hostWrite s addr last d) := by
  unfold State.hostWrite
  exact (State.putHost_frame _ _).mono (by decide)

theorem State.ringWrite_frame (s : State) (addr : DWord) (d : List Byte) :
    Frame [.links, .jobs, .out] s (State.ringWrite s addr d) := by
  unfold State.ringWrite
  exact (State.putHost_frame _ _).mono (by decide)

theorem State.ringLost_frame (s : State) :
    Frame [.jobs] s (State.ringLost s) := by
  unfold State.ringLost
  extract_lets +onlyGivenNames x0
  clear_value x0
  extract_lets +onlyGivenNames x1
  clear_value x1
  extract_lets +onlyGivenNames x2
  clear_value x2
  extract_lets +onlyGivenNames x3
  clear_value x3
  extract_lets +onlyGivenNames x4
  clear_value x4
  refine Frame.upd ?_ rfl
  exact Frame.refl _

theorem State.pumpReads_frame (s : State) :
    Frame [.links, .jobs, .out] s (State.pumpReads s) := by
  unfold State.pumpReads
  split
  · exact Frame.refl _
  · extract_lets +onlyGivenNames x0
    clear_value x0
    extract_lets +onlyGivenNames x1
    clear_value x1
    extract_lets +onlyGivenNames x2
    subst x2
    extract_lets +onlyGivenNames x3
    subst x3
    extract_lets +onlyGivenNames x4
    have h5 : Frame [.links, .jobs, .out] s x4 := by
      subst x4
      refine Frame.upd ?_ rfl
      exact Frame.refl _
    clear_value x4
    refine Frame.foldl ?_ ?_
    · exact h5
    · intro x6 x7 h8
      refine Frame.step ?_ (State.send_frame _ _ _ _ _) (by decide)
      exact h8

theorem State.ringRead_frame (s : State) (addr : DWord) (len : Nat) (why : ReadFor) :
    Frame [.links, .jobs, .out] s (State.ringRead s addr len why) := by
  unfold State.ringRead
  refine Frame.step ?_ (State.pumpReads_frame _) (by decide)
  refine Frame.upd ?_ rfl
  exact Frame.refl _

theorem State.resendRing_frame (s : State) :
    Frame [.links, .jobs, .out] s (State.resendRing s) := by
  unfold State.resendRing
  extract_lets +onlyGivenNames x0
  clear_value x0
  extract_lets +onlyGivenNames x1
  subst x1
  extract_lets +onlyGivenNames x2
  subst x2
  extract_lets +onlyGivenNames x3
  have h4 : Frame [.links, .jobs, .out] s x3 := by
    subst x3
    refine Frame.upd ?_ rfl
    exact Frame.refl _
  clear_value x3
  refine Frame.step ?_ (State.pumpReads_frame _) (by decide)
  refine Frame.foldl ?_ ?_
  · exact h4
  · intro x5 x6 h7
    refine Frame.step ?_ (State.putHost_frame _ _) (by decide)
    exact h7

theorem State.writeRw_frame (s : State) (a : Nat) (v : Word) :
    Frame [.regs] s (State.writeRw s a v) := by
  unfold State.writeRw
  extract_lets +onlyGivenNames x0
  clear_value x0
  exact (State.setReg_frame _ _ _).mono (by decide)

theorem State.unlatch_frame (s : State) (p : Nat) (a : Nat) :
    Frame [.latches] s (State.unlatch s p a) := by
  unfold State.unlatch
  refine Frame.ite (fun _ => ?_) fun _ => ?_
  · refine Frame.upd ?_ rfl
    exact Frame.refl _
  · exact Frame.refl _

-- Ring

theorem State.setRingState_frame (s : State) (n : Nat) (st : Nat) :
    Frame [.regs] s (State.setRingState s n st) := by
  unfold State.setRingState
  exact (State.setRegF_frame _ _ _ _ _).mono (by decide)

theorem State.setPair_frame (s : State) (lo : Nat) (hi : Nat) (v : DWord) :
    Frame [.regs] s (State.setPair s lo hi v) := by
  unfold State.setPair
  refine Frame.step ?_ (State.setReg_frame _ _ _) (by decide)
  exact (State.setReg_frame _ _ _).mono (by decide)

theorem State.finish_frame (s : State) (r : Nat) (status : Nat) (detail : Nat) (flags : Nat) :
    Frame [.regs, .jobs] s (State.finish s r status detail flags) := by
  unfold State.finish
  extract_lets +onlyGivenNames x0
  clear_value x0
  extract_lets +onlyGivenNames x1
  clear_value x1
  extract_lets +onlyGivenNames x2
  have h3 : Frame [.regs, .jobs] s x2 := by
    subst x2
    exact (State.updRing_frame _ _ _).mono (by decide)
  clear_value x2
  extract_lets +onlyGivenNames x4
  have h5 : Frame [.regs, .jobs] s x4 := by
    subst x4
    refine Frame.step ?_ (State.setRegF_frame _ _ _ _ _) (by decide)
    exact h3
  clear_value x4
  refine Frame.upd ?_ rfl
  exact h5

theorem State.fetchMore_frame (s : State) (r : Nat) :
    Frame [.links, .jobs, .out] s (State.fetchMore s r) := by
  unfold State.fetchMore
  extract_lets +onlyGivenNames x0
  subst x0
  extract_lets +onlyGivenNames x1
  clear_value x1
  extract_lets +onlyGivenNames x2
  clear_value x2
  refine Frame.ite (fun _ => ?_) fun _ => ?_
  · exact Frame.refl _
  · refine Frame.step ?_ (State.ringRead_frame _ _ _ _) (by decide)
    exact (State.updRing_frame _ _ _).mono (by decide)

theorem State.readDoorbell_frame (s : State) (r : Nat) :
    Frame [.links, .jobs, .out] s (State.readDoorbell s r) := by
  unfold State.readDoorbell
  refine Frame.step ?_ (State.ringRead_frame _ _ _ _) (by decide)
  exact (State.updRing_frame _ _ _).mono (by decide)

theorem State.wordBack_frame (s : State) (r : Nat) :
    Frame [.links, .jobs, .out] s (State.wordBack s r) := by
  unfold State.wordBack
  refine Frame.ite (fun _ => ?_) fun _ => ?_
  · exact (State.readDoorbell_frame _ _).mono (by decide)
  · exact Frame.refl _

theorem State.doorbellValue_frame (s : State) (r : Nat) (v : Word) :
    FrameF [.regs, .links, .jobs, .out] s (State.doorbellValue s r v) := by
  unfold State.doorbellValue
  refine FrameF.ite (fun _ => ?_) fun _ => ?_
  · refine FrameF.ok ?_
    exact Frame.refl _
  · refine FrameF.ite (fun _ => ?_) fun _ => ?_
    · exact FrameF.undef
    · refine FrameF.ok ?_
      refine Frame.step ?_ (State.fetchMore_frame _ _) (by decide)
      exact (State.setReg_frame _ _ _).mono (by decide)

theorem State.readSpace_frame (s : State) (n : Nat) :
    Frame [.links, .jobs, .out] s (State.readSpace s n) := by
  unfold State.readSpace
  refine Frame.ite (fun _ => ?_) fun _ => ?_
  · exact Frame.refl _
  · refine Frame.step ?_ (State.ringRead_frame _ _ _ _) (by decide)
    exact (State.updRing_frame _ _ _).mono (by decide)

theorem State.nudge_frame (s : State) (r : Nat) :
    Frame [.regs, .links, .jobs, .out] s (State.nudge s r) := by
  unfold State.nudge
  refine Frame.ite (fun _ => ?_) fun _ => ?_
  · exact Frame.refl _
  · refine Frame.ite (fun _ => ?_) fun _ => ?_
    · exact (State.count_frame _ _ _ _ _).mono (by decide)
    · refine Frame.ite (fun _ => ?_) fun _ => ?_
      · exact (State.updRing_frame _ _ _).mono (by decide)
      · exact (State.readDoorbell_frame _ _).mono (by decide)

theorem State.putRecord_frame (s : State) (n : Nat) (fb : Nat) (d : List Byte) (notify : Bool) :
    Frame [.regs, .links, .jobs, .out] s (State.putRecord s n fb d notify) := by
  unfold State.putRecord
  extract_lets +onlyGivenNames x0
  clear_value x0
  extract_lets +onlyGivenNames x1
  clear_value x1
  extract_lets +onlyGivenNames x2
  clear_value x2
  extract_lets +onlyGivenNames x3
  have h4 : Frame [.regs, .links, .jobs, .out] s x3 := by
    subst x3
    refine Frame.step ?_ (State.ringWrite_frame _ _ _) (by decide)
    exact (State.ringWrite_frame _ _ _).mono (by decide)
  clear_value x3
  extract_lets +onlyGivenNames x5
  have h6 : Frame [.regs, .links, .jobs, .out] s x5 := by
    subst x5
    refine Frame.step ?_ (State.setRegF_frame _ _ _ _ _) (by decide)
    refine Frame.step ?_ (State.setReg_frame _ _ _) (by decide)
    exact h4
  clear_value x5
  refine Frame.ite (fun _ => ?_) fun _ => ?_
  · refine Frame.step ?_ (State.ringWrite_frame _ _ _) (by decide)
    exact h6
  · exact h6

theorem State.waitSpace_frame (s : State) (n : Nat) :
    Frame [.regs, .links, .jobs, .out] s (State.waitSpace s n) := by
  unfold State.waitSpace
  refine Frame.step ?_ (State.readSpace_frame _ _) (by decide)
  exact (State.setRegF_frame _ _ _ _ _).mono (by decide)

theorem State.clearRing_frame (s : State) (n : Nat) :
    Frame [.regs, .jobs] s (State.clearRing s n) := by
  unfold State.clearRing
  extract_lets +onlyGivenNames x0
  have h1 : Frame [.regs, .jobs] s x0 := by
    subst x0
    exact (State.updRing_frame _ _ _).mono (by decide)
  clear_value x0
  extract_lets +onlyGivenNames x2
  subst x2
  extract_lets +onlyGivenNames x3
  subst x3
  extract_lets +onlyGivenNames x4
  subst x4
  extract_lets +onlyGivenNames x5
  have h6 : Frame [.regs, .jobs] s x5 := by
    subst x5
    refine Frame.upd ?_ rfl
    exact h1
  clear_value x5
  refine Frame.step ?_ (State.setReg_frame _ _ _) (by decide)
  refine Frame.step ?_ (State.setReg_frame _ _ _) (by decide)
  refine Frame.step ?_ (State.setReg_frame _ _ _) (by decide)
  exact h6

theorem execRngEnable_frame (_p : PortNo) (n : Fin 129) (v : Word) (s : State) :
    FrameR [.regs, .jobs] s (execRngEnable _p n v s) := by
  unfold execRngEnable
  refine FrameR.ite (fun _ => ?_) fun _ => ?_
  · refine FrameR.next ?_
    exact Frame.refl _
  · extract_lets +onlyGivenNames x0
    clear_value x0
    refine FrameR.ite (fun _ => ?_) fun _ => ?_
    · exact FrameR.undef
    · extract_lets +onlyGivenNames x1
      have h2 : Frame [.regs, .jobs] s x1 := by
        subst x1
        exact (State.writeRw_frame _ _ _).mono (by decide)
      clear_value x1
      refine FrameR.ite (fun _ => ?_) fun _ => ?_
      · refine FrameR.next ?_
        exact h2
      · extract_lets +onlyGivenNames x3
        have h4 : Frame [.regs, .jobs] s x3 := by
          subst x3
          refine Frame.step ?_ (State.setReg_frame _ _ _) (by decide)
          refine Frame.step ?_ (State.clearRing_frame _ _) (by decide)
          exact h2
        clear_value x3
        refine FrameR.ite (fun _ => ?_) fun _ => ?_
        · refine FrameR.next ?_
          refine Frame.upd ?_ rfl
          exact h4
        · refine FrameR.next ?_
          exact h4

theorem State.stopIfIdle_frame (s : State) (n : Nat) :
    Frame [.regs] s (State.stopIfIdle s n) := by
  unfold State.stopIfIdle
  refine Frame.ite (fun _ => ?_) fun _ => ?_
  · exact (State.setRingState_frame _ _ _).mono (by decide)
  · exact Frame.refl _

theorem execRngStop_frame (_p : PortNo) (n : Fin 129) (s : State) :
    FrameR [.regs] s (execRngStop _p n s) := by
  unfold execRngStop
  refine FrameR.ite (fun _ => ?_) fun _ => ?_
  · refine FrameR.next ?_
    exact Frame.refl _
  · refine FrameR.next ?_
    refine Frame.step ?_ (State.stopIfIdle_frame _ _) (by decide)
    exact (State.setRingState_frame _ _ _).mono (by decide)

theorem execRngResume_frame (_p : PortNo) (n : Fin 129) (s : State) :
    FrameR [.regs, .links, .jobs, .out] s (execRngResume _p n s) := by
  unfold execRngResume
  refine FrameR.ite (fun _ => ?_) fun _ => ?_
  · refine FrameR.next ?_
    exact Frame.refl _
  · refine FrameR.next ?_
    refine Frame.step ?_ (State.fetchMore_frame _ _) (by decide)
    exact (State.setRingState_frame _ _ _).mono (by decide)

theorem execGlbRingcfgWrite_frame (_p : PortNo) (v : Word) (s : State) :
    FrameR [.regs, .jobs] s (execGlbRingcfgWrite _p v s) := by
  unfold execGlbRingcfgWrite
  refine FrameR.ite (fun _ => ?_) fun _ => ?_
  · refine FrameR.next ?_
    exact Frame.refl _
  · refine FrameR.ite (fun _ => ?_) fun _ => ?_
    · exact FrameR.undef
    · extract_lets +onlyGivenNames x0
      have h1 : Frame [.regs, .jobs] s x0 := by
        subst x0
        refine Frame.step ?_ (State.setReg_frame _ _ _) (by decide)
        exact (State.writeRw_frame _ _ _).mono (by decide)
      clear_value x0
      refine FrameR.next ?_
      refine Frame.upd ?_ rfl
      exact h1

theorem State.deliver_frame (s : State) (x : HostRead) :
    FrameF [.attic, .regs, .larder, .larErr, .cellar, .celErr, .conflicts, .clusters, .regions, .links, .jobs, .resil, .out, .freeCtr] s (State.deliver s x) := by
  unfold State.deliver
  split
  · refine FrameF.bind ?_ ?_
    · refine FrameF.step ?_ (State.doorbellValue_frame _ _ _) (by decide)
      exact Frame.refl _
    · intro x0 h1
      refine FrameF.ok ?_
      refine Frame.step ?_ (State.wordBack_frame _ _) (by decide)
      exact h1
  · refine FrameF.bind ?_ ?_
    · refine FrameF.fold ?_ ?_
      · exact Frame.refl _
      · intro x2 x3 h4
        refine FrameF.step ?_ (State.doorbellValue_frame _ _ _) (by decide)
        exact h4
    · intro x5 h6
      refine FrameF.ok ?_
      refine Frame.foldl ?_ ?_
      · exact h6
      · intro x7 x8 h9
        refine Frame.step ?_ (State.wordBack_frame _ _) (by decide)
        exact h9
  · extract_lets +onlyGivenNames x10
    clear_value x10
    refine FrameF.ok ?_
    refine Frame.step ?_ (State.fetchMore_frame _ _) (by decide)
    exact (State.updRing_frame _ _ _).mono (by decide)
  · refine FrameF.ok ?_
    refine Frame.step ?_ (State.updRing_frame _ _ _) (by decide)
    exact (State.setReg_frame _ _ _).mono (by decide)
  · extract_lets +onlyGivenNames x11
    have h12 : FrameF [.attic, .regs, .larder, .larErr, .cellar, .celErr, .conflicts, .clusters, .regions, .links, .jobs, .resil, .out, .freeCtr] s x11 := by
      subst x11
      refine FrameF.ite (fun _ => ?_) fun _ => ?_
      · refine FrameF.step ?_ (State.larStore_frame _ _ _ _) (by decide)
        exact Frame.refl _
      · refine FrameF.step ?_ (State.planWrite_frame _ _ _ _) (by decide)
        exact Frame.refl _
    clear_value x11
    refine FrameF.bind ?_ ?_
    · exact h12
    · intro x13 h14
      extract_lets +onlyGivenNames x15
      clear_value x15
      refine FrameF.ok ?_
      refine Frame.ite (fun _ => ?_) fun _ => ?_
      · exact h14
      · refine Frame.step ?_ (State.finish_frame _ _ _ _ _) (by decide)
        exact h14

-- Cairn

theorem State.sendReq_frame (s : State) (q : DepReq) :
    Frame [.links, .out] s (State.sendReq s q) := by
  unfold State.sendReq
  extract_lets +onlyGivenNames x0
  clear_value x0
  refine Frame.ite (fun _ => ?_) fun _ => ?_
  · exact (State.send_frame _ _ _ _ _).mono (by decide)
  · exact (State.send_frame _ _ _ _ _).mono (by decide)

theorem State.pumpReqs_frame (s : State) :
    Frame [.links, .reqs, .out] s (State.pumpReqs s) := by
  unfold State.pumpReqs
  refine Frame.ite (fun _ => ?_) fun _ => ?_
  · exact Frame.refl _
  · refine Frame.foldl ?_ ?_
    · exact Frame.refl _
    · intro x0 x1 h2
      refine Frame.ite (fun _ => ?_) fun _ => ?_
      · exact h2
      · refine Frame.ite (fun _ => ?_) fun _ => ?_
        · exact h2
        · extract_lets +onlyGivenNames x3
          subst x3
          refine Frame.step ?_ (State.sendReq_frame _ _) (by decide)
          refine Frame.upd ?_ rfl
          exact h2

theorem State.addPackets_frame (s : State) (kind : ReqKind) (set : List Nat) (up : List Nat) (ps : List Packet) (ring : Option Nat) :
    Frame [.jobs, .reqs] s (State.addPackets s kind set up ps ring) := by
  unfold State.addPackets
  extract_lets +onlyGivenNames x0
  subst x0
  refine Frame.upd ?_ rfl
  exact Frame.refl _

theorem State.addTransfer_frame (s : State) (kind : ReqKind) (set : List Nat) (up : List Nat) (daddr : Nat) (n : Nat) (data : Nat → Nat → List Byte) (parts : List (Nat × Nat × Nat × Nat)) (ring : Option Nat) :
    Frame [.jobs, .reqs] s (State.addTransfer s kind set up daddr n data parts ring) := by
  unfold State.addTransfer
  exact (State.addPackets_frame _ _ _ _ _ _).mono (by decide)

theorem State.updStep_frame (s : State) (f : StepSt → StepSt) :
    Frame [.jobs] s (State.updStep s f) := by
  unfold State.updStep
  refine Frame.upd ?_ rfl
  exact Frame.refl _

theorem State.noteLink_frame (s : State) (o : Out) (l : Nat) :
    Frame [.jobs] s (State.noteLink s o l) := by
  unfold State.noteLink
  split
  · refine Frame.ite (fun _ => ?_) fun _ => ?_
    · exact (State.updStep_frame _ _).mono (by decide)
    · exact Frame.refl _
  · exact Frame.refl _

theorem State.sendHand_frame (s : State) (j : Nat) (x : HandPkt) :
    Frame [.links, .jobs, .hands, .out] s (State.sendHand s j x) := by
  unfold State.sendHand
  extract_lets +onlyGivenNames x0
  clear_value x0
  split
  · refine Frame.step ?_ (State.send_frame _ _ _ _ _) (by decide)
    exact (State.noteLink_frame _ _ _).mono (by decide)
  · refine Frame.upd ?_ rfl
    exact Frame.refl _

theorem State.pumpHands_frame (s : State) :
    Frame [.links, .jobs, .hands, .out] s (State.pumpHands s) := by
  unfold State.pumpHands
  refine Frame.ite (fun _ => ?_) fun _ => ?_
  · exact Frame.refl _
  · refine Frame.foldl ?_ ?_
    · refine Frame.upd ?_ rfl
      exact Frame.refl _
    · intro x0 x1 h2
      refine Frame.step ?_ (State.sendHand_frame _ _ _) (by decide)
      exact h2

theorem State.readAreas_frameK {P : List Part} {s0 : State} {l : List HEnt} {acc : List Byte} {s : State} {k : State → List Byte → Flow}
    (hs : Frame P s0 s) (hq : [.attic, .regs, .regions, .resil] ⊆ P) (hk : ∀ u x, Frame P s0 u → FrameF P s0 (k u x)) :
    FrameF P s0 (State.readAreas l acc s k) := by
  induction l generalizing acc s with
  | nil => exact hk _ _ hs
  | cons a l ih =>
    rw [State.readAreas]
    split
    · exact FrameF.undef
    · unfold State.planRead
      refine FrameF.ite (fun _ => ?_) fun _ => ?_
      · exact FrameF.undef
      · split
        · rename_i h0
          have h1 := (State.celRead_frame _ _ _ _).of_eq h0
          beta_reduce
          refine ih ?_
          refine Frame.step ?_ h1 (List.Subset.trans (by decide) hq)
          exact hs
        · rename_i h2
          have h3 := (State.celRead_frame _ _ _ _).of_eq h2
          refine FrameF.held ?_
          refine Frame.step ?_ h3 (List.Subset.trans (by decide) hq)
          exact hs

theorem State.sendHandoff_frame (s : State) (b : HandBind) (stretches : Nat) (step : DWord) (pitch : Nat) (dir : Nat) (es : List HEnt) :
    FrameF [.attic, .regs, .regions, .links, .jobs, .hands, .resil, .out] s (State.sendHandoff s b stretches step pitch dir es) := by
  unfold State.sendHandoff
  split
  · refine FrameF.ok ?_
    exact Frame.refl _
  · refine FrameF.ok ?_
    exact Frame.refl _
  · refine State.readAreas_frameK ?_ (by decide) ?_
    · exact Frame.refl _
    · intro x0 x1 h2
      extract_lets +onlyGivenNames x3
      clear_value x3
      extract_lets +onlyGivenNames x4
      clear_value x4
      extract_lets +onlyGivenNames x5
      have h6 : Frame [.attic, .regs, .regions, .links, .jobs, .hands, .resil, .out] s x5 := by
        subst x5
        refine Frame.foldl ?_ ?_
        · exact h2
        · intro x7 x8 h9
          extract_lets +onlyGivenNames x10
          clear_value x10
          refine Frame.step ?_ (State.sendHand_frame _ _ _) (by decide)
          exact h9
      clear_value x5
      extract_lets +onlyGivenNames x11
      subst x11
      extract_lets +onlyGivenNames x12
      have h13 : Frame [.attic, .regs, .regions, .links, .jobs, .hands, .resil, .out] s x12 := by
        subst x12
        refine Frame.upd ?_ rfl
        exact h6
      clear_value x12
      refine FrameF.ok ?_
      refine Frame.step ?_ (State.sendHand_frame _ _ _) (by decide)
      exact h13

theorem State.sendHpull_frame (s : State) (b : HandBind) (x : Inbound) :
    Frame [.links, .jobs, .hands, .out] s (State.sendHpull s b x) := by
  unfold State.sendHpull
  extract_lets +onlyGivenNames x0
  clear_value x0
  extract_lets +onlyGivenNames x1
  clear_value x1
  extract_lets +onlyGivenNames x2
  clear_value x2
  extract_lets +onlyGivenNames x3
  clear_value x3
  extract_lets +onlyGivenNames x4
  clear_value x4
  exact (State.sendHand_frame _ _ _).mono (by decide)

theorem State.copyLarder_frame (s : State) (site : Nat) (r : Nat) (dst : Nat) :
    FrameF [.attic, .regs, .larder, .larErr, .cellar, .celErr, .conflicts, .clusters, .regions, .resil, .freeCtr] s (State.copyLarder s site r dst) := by
  unfold State.copyLarder
  refine FrameF.fold ?_ ?_
  · exact Frame.refl _
  · intro x0 x1 h2
    refine FrameF.ite (fun _ => ?_) fun _ => ?_
    · split
      · rename_i h3
        have h4 := (State.larRead_frame _ _ _ _).of_eq h3
        refine FrameF.step ?_ (State.planWrite_frame _ _ _ _) (by decide)
        refine Frame.step ?_ h4 (by decide)
        exact h2
      · rename_i h5
        have h6 := (State.larRead_frame _ _ _ _).of_eq h5
        refine FrameF.held ?_
        refine Frame.step ?_ h6 (by decide)
        exact h2
    · refine FrameF.step ?_ (State.planWrite_frame _ _ _ _) (by decide)
      exact h2

theorem State.copyRegion_frame (s : State) (lreg : Nat) (r : Nat) (staging : Nat) (e : Nat) (areas : List (Nat × Nat)) :
    FrameF [.attic, .regs, .larder, .larErr, .cellar, .celErr, .conflicts, .clusters, .regions, .resil, .freeCtr] s (State.copyRegion s lreg r staging e areas) := by
  unfold State.copyRegion
  extract_lets +onlyGivenNames x0
  clear_value x0
  refine FrameF.bind ?_ ?_
  · refine FrameF.fold ?_ ?_
    · exact Frame.refl _
    · intro x1 x2 h3
      split
      · refine FrameF.step ?_ (State.copyLarder_frame _ _ _ _) (by decide)
        exact h3
      · refine FrameF.ok ?_
        exact h3
  · intro x4 h5
    refine FrameF.bind ?_ ?_
    · refine FrameF.fold ?_ ?_
      · exact h5
      · intro x6 x7 h8
        unfold State.planRead
        refine FrameF.ite (fun _ => ?_) fun _ => ?_
        · exact FrameF.undef
        · split
          · rename_i h9
            have h10 := (State.celRead_frame _ _ _ _).of_eq h9
            beta_reduce
            refine FrameF.step ?_ (State.planWrite_frame _ _ _ _) (by decide)
            refine Frame.step ?_ h10 (by decide)
            exact h8
          · rename_i h11
            have h12 := (State.celRead_frame _ _ _ _).of_eq h11
            refine FrameF.held ?_
            refine Frame.step ?_ h12 (by decide)
            exact h8
    · intro x13 h14
      refine FrameF.step ?_ (State.planWrite_frame _ _ _ _) (by decide)
      exact h14

theorem State.setCairnStage_frame (s : State) (v : Nat) :
    Frame [.regs] s (State.setCairnStage s v) := by
  unfold State.setCairnStage
  exact (State.setRegF_frame _ _ _ _ _).mono (by decide)

theorem State.setLocal_frame (s : State) (v : Bool) :
    Frame [.regs] s (State.setLocal s v) := by
  unfold State.setLocal
  exact (State.setRegF_frame _ _ _ _ _).mono (by decide)

theorem State.snapshot_frame (s : State) (h : Hdr) (carrier : Nat) (ring : Option Nat) :
    FrameF [.attic, .regs, .larder, .larErr, .cellar, .celErr, .conflicts, .clusters, .regions, .jobs, .resil, .freeCtr] s (State.snapshot s h carrier ring) := by
  unfold State.snapshot
  extract_lets +onlyGivenNames x0
  clear_value x0
  extract_lets +onlyGivenNames x1
  clear_value x1
  refine FrameF.ite (fun _ => ?_) fun _ => ?_
  · exact FrameF.undef
  · extract_lets +onlyGivenNames x2
    have h3 : Frame [.attic, .regs, .larder, .larErr, .cellar, .celErr, .conflicts, .clusters, .regions, .jobs, .resil, .freeCtr] s x2 := by
      subst x2
      refine Frame.step ?_ (State.setCairnStage_frame _ _) (by decide)
      exact (State.setLocal_frame _ _).mono (by decide)
    clear_value x2
    extract_lets +onlyGivenNames x4
    clear_value x4
    refine FrameF.bind ?_ ?_
    · refine FrameF.fold ?_ ?_
      · exact h3
      · intro x5 x6 h7
        split
        · refine FrameF.step ?_ (State.copyRegion_frame _ _ _ _ _ _) (by decide)
          exact h7
        · refine FrameF.ok ?_
          exact h7
    · intro x8 h9
      extract_lets +onlyGivenNames x10
      subst x10
      extract_lets +onlyGivenNames x11
      subst x11
      refine FrameF.ok ?_
      refine Frame.upd ?_ rfl
      exact h9

theorem State.fenceCheck_frame (s : State) :
    Frame [.regs, .jobs] s (State.fenceCheck s) := by
  unfold State.fenceCheck
  refine Frame.foldl ?_ ?_
  · exact Frame.refl _
  · intro x0 x1 h2
    split
    · refine Frame.ite (fun _ => ?_) fun _ => ?_
      · refine Frame.step ?_ (State.finish_frame _ _ _ _ _) (by decide)
        exact h2
      · exact h2
    · exact h2

theorem State.discardDrain_frame (s : State) :
    Frame [.regs, .jobs, .reqs, .resil] s (State.discardDrain s) := by
  unfold State.discardDrain
  extract_lets +onlyGivenNames x0
  have h1 : Frame [.regs, .jobs, .reqs, .resil] s x0 := by
    subst x0
    exact (State.setCairnStage_frame _ _).mono (by decide)
  clear_value x0
  extract_lets +onlyGivenNames x2
  have h3 : Frame [.regs, .jobs, .reqs, .resil] s x2 := by
    subst x2
    refine Frame.upd ?_ rfl
    exact h1
  clear_value x2
  split
  · extract_lets +onlyGivenNames x4
    subst x4
    extract_lets +onlyGivenNames x5
    have h6 : Frame [.regs, .jobs, .reqs, .resil] s x5 := by
      subst x5
      refine Frame.upd ?_ rfl
      exact h3
    clear_value x5
    refine Frame.step ?_ (State.fenceCheck_frame _) (by decide)
    split
    · refine Frame.step ?_ (State.finish_frame _ _ _ _ _) (by decide)
      exact h6
    · exact h6
  · refine Frame.step ?_ (State.fenceCheck_frame _) (by decide)
    exact h3

theorem State.imagePackets_frameK {P : List Part} {s0 : State} {x : Snap} {base : Nat} {l : List Nat} {acc : List Packet} {s : State} {k : State → List Packet → Flow}
    (hs : Frame P s0 s) (hq : [.attic, .regs, .regions, .resil] ⊆ P) (hk : ∀ u x, Frame P s0 u → FrameF P s0 (k u x)) :
    FrameF P s0 (State.imagePackets x base l acc s k) := by
  induction l generalizing acc s with
  | nil => exact hk _ _ hs
  | cons a l ih =>
    rw [State.imagePackets]
    split
    · refine ih ?_
      exact hs
    · unfold State.planRead
      refine FrameF.ite (fun _ => ?_) fun _ => ?_
      · exact FrameF.undef
      · split
        · rename_i h0
          have h1 := (State.celRead_frame _ _ _ _).of_eq h0
          beta_reduce
          refine ih ?_
          refine Frame.step ?_ h1 (List.Subset.trans (by decide) hq)
          exact hs
        · rename_i h2
          have h3 := (State.celRead_frame _ _ _ _).of_eq h2
          refine FrameF.held ?_
          refine Frame.step ?_ h3 (List.Subset.trans (by decide) hq)
          exact hs

theorem State.startDrain_frame (s : State) (x : Snap) :
    FrameF [.attic, .regs, .regions, .links, .jobs, .reqs, .resil, .out] s (State.startDrain s x) := by
  unfold State.startDrain
  extract_lets +onlyGivenNames x0
  clear_value x0
  refine FrameF.ite (fun _ => ?_) fun _ => ?_
  · exact FrameF.undef
  · refine FrameF.ite (fun _ => ?_) fun _ => ?_
    · refine FrameF.ok ?_
      exact (State.discardDrain_frame _).mono (by decide)
    · refine State.imagePackets_frameK ?_ (by decide) ?_
      · exact (State.setCairnStage_frame _ _).mono (by decide)
      · intro x1 x2 h3
        refine FrameF.ok ?_
        refine Frame.step ?_ (State.pumpReqs_frame _) (by decide)
        refine Frame.step ?_ (State.addPackets_frame _ _ _ _ _ _) (by decide)
        exact h3

theorem State.drainNext_frame (s : State) :
    Frame [.regs, .links, .jobs, .reqs, .resil, .out] s (State.drainNext s) := by
  unfold State.drainNext
  split
  · refine Frame.ite (fun _ => ?_) fun _ => ?_
    · split
      · exact (State.discardDrain_frame _).mono (by decide)
      · refine Frame.step ?_ (State.pumpReqs_frame _) (by decide)
        exact (State.addTransfer_frame _ _ _ _ _ _ _ _ _).mono (by decide)
    · exact Frame.refl _
  · exact Frame.refl _

theorem State.shadow_frame (s : State) (r : Nat) :
    Frame [.links, .jobs, .out] s (State.shadow s r) := by
  unfold State.shadow
  extract_lets +onlyGivenNames x0
  clear_value x0
  refine Frame.ite (fun _ => ?_) fun _ => ?_
  · exact Frame.refl _
  · refine Frame.step ?_ (State.ringWrite_frame _ _ _) (by decide)
    exact (State.updRing_frame _ _ _).mono (by decide)

theorem State.cairnValid_frame (s : State) :
    Frame [.regs, .regions, .links, .jobs, .hands, .resil, .out] s (State.cairnValid s) := by
  unfold State.cairnValid
  split
  · exact Frame.refl _
  · extract_lets +onlyGivenNames x0
    subst x0
    extract_lets +onlyGivenNames x1
    have h2 : Frame [.regs, .regions, .links, .jobs, .hands, .resil, .out] s x1 := by
      subst x1
      refine Frame.upd ?_ rfl
      exact Frame.refl _
    clear_value x1
    extract_lets +onlyGivenNames x3
    have h4 : Frame [.regs, .regions, .links, .jobs, .hands, .resil, .out] s x3 := by
      subst x3
      refine Frame.step ?_ (State.setRegF_frame _ _ _ _ _) (by decide)
      refine Frame.step ?_ (State.setRegF_frame _ _ _ _ _) (by decide)
      refine Frame.step ?_ (State.setCairnStage_frame _ _) (by decide)
      exact h2
    clear_value x3
    extract_lets +onlyGivenNames x5
    have h6 : Frame [.regs, .regions, .links, .jobs, .hands, .resil, .out] s x5 := by
      subst x5
      refine Frame.step ?_ (State.setPair_frame _ _ _ _) (by decide)
      refine Frame.step ?_ (State.setReg_frame _ _ _) (by decide)
      exact h4
    clear_value x5
    extract_lets +onlyGivenNames x7
    have h8 : Frame [.regs, .regions, .links, .jobs, .hands, .resil, .out] s x7 := by
      subst x7
      refine Frame.foldl ?_ ?_
      · exact h6
      · intro x9 x10 h11
        refine Frame.step ?_ (State.shadow_frame _ _) (by decide)
        refine Frame.step ?_ (State.setReg_frame _ _ _) (by decide)
        exact h11
    clear_value x7
    extract_lets +onlyGivenNames x12
    have h13 : Frame [.regs, .regions, .links, .jobs, .hands, .resil, .out] s x12 := by
      subst x12
      refine Frame.foldl ?_ ?_
      · exact h8
      · intro x14 x15 h16
        refine Frame.step ?_ (State.updRg_frame _ _ _) (by decide)
        exact h16
    clear_value x12
    extract_lets +onlyGivenNames x17
    have h18 : Frame [.regs, .regions, .links, .jobs, .hands, .resil, .out] s x17 := by
      subst x17
      refine Frame.foldl ?_ ?_
      · exact h13
      · intro x19 x20 h21
        split
        · refine Frame.step ?_ (State.sendHand_frame _ _ _) (by decide)
          exact h21
        · exact h21
    clear_value x17
    extract_lets +onlyGivenNames x22
    have h23 : Frame [.regs, .regions, .links, .jobs, .hands, .resil, .out] s x22 := by
      subst x22
      split
      · refine Frame.step ?_ (State.finish_frame _ _ _ _ _) (by decide)
        exact h18
      · exact h18
    clear_value x22
    refine Frame.step ?_ (State.fenceCheck_frame _) (by decide)
    exact h23

-- Depot

theorem State.dropReq_frame (s : State) (tid : Nat) :
    Frame [.reqs] s (State.dropReq s tid) := by
  unfold State.dropReq
  refine Frame.upd ?_ rfl
  exact Frame.refl _

theorem State.reqDone_frame (s : State) (q : DepReq) :
    Frame [.regs, .regions, .links, .jobs, .reqs, .hands, .resil, .out] s (State.reqDone s q) := by
  unfold State.reqDone
  extract_lets +onlyGivenNames x0
  have h1 : Frame [.regs, .regions, .links, .jobs, .reqs, .hands, .resil, .out] s x0 := by
    subst x0
    refine Frame.step ?_ (State.pumpReqs_frame _) (by decide)
    exact (State.dropReq_frame _ _).mono (by decide)
  clear_value x0
  split
  · split
    · refine Frame.ite (fun _ => ?_) fun _ => ?_
      · exact h1
      · refine Frame.step ?_ (State.finish_frame _ _ _ _ _) (by decide)
        exact h1
    · exact h1
  · split
    · refine Frame.ite (fun _ => ?_) fun _ => ?_
      · exact h1
      · refine Frame.step ?_ (State.finish_frame _ _ _ _ _) (by decide)
        exact h1
    · exact h1
  · refine Frame.step ?_ (State.drainNext_frame _) (by decide)
    exact h1
  · refine Frame.step ?_ (State.cairnValid_frame _) (by decide)
    exact h1
  · exact h1

theorem State.reqFail_frame (s : State) (q : DepReq) :
    Frame [.regs, .jobs, .reqs, .resil] s (State.reqFail s q) := by
  unfold State.reqFail
  split
  · split
    · extract_lets +onlyGivenNames x0
      have h1 : Frame [.regs, .jobs, .reqs, .resil] s x0 := by
        subst x0
        exact (State.finish_frame _ _ _ _ _).mono (by decide)
      clear_value x0
      refine Frame.upd ?_ rfl
      exact h1
    · exact (State.dropReq_frame _ _).mono (by decide)
  · split
    · extract_lets +onlyGivenNames x2
      have h3 : Frame [.regs, .jobs, .reqs, .resil] s x2 := by
        subst x2
        exact (State.finish_frame _ _ _ _ _).mono (by decide)
      clear_value x2
      refine Frame.upd ?_ rfl
      exact h3
    · exact (State.dropReq_frame _ _).mono (by decide)
  · exact (State.discardDrain_frame _).mono (by decide)
  · exact (State.discardDrain_frame _).mono (by decide)
  · refine Frame.upd ?_ rfl
    exact Frame.refl _

theorem State.resend_frame (s : State) (l : Nat) :
    Frame [.regs, .links, .jobs, .reqs, .resil, .out] s (State.resend s l) := by
  unfold State.resend
  refine Frame.step ?_ (State.pumpReqs_frame _) (by decide)
  refine Frame.foldl ?_ ?_
  · exact Frame.refl _
  · intro x0 x1 h2
    refine Frame.ite (fun _ => ?_) fun _ => ?_
    · exact h2
    · extract_lets +onlyGivenNames x3
      clear_value x3
      extract_lets +onlyGivenNames x4
      clear_value x4
      extract_lets +onlyGivenNames x5
      clear_value x5
      split
      · refine Frame.step ?_ (State.reqFail_frame _ _) (by decide)
        exact h2
      · refine Frame.ite (fun _ => ?_) fun _ => ?_
        · refine Frame.step ?_ (State.reqFail_frame _ _) (by decide)
          exact h2
        · refine Frame.upd ?_ rfl
          exact h2

theorem State.setInbound_frame (s : State) (x : Inbound) :
    Frame [.jobs] s (State.setInbound s x) := by
  unfold State.setInbound
  exact (State.updStep_frame _ _).mono (by decide)

theorem State.pullTag_frame (s : State) (b : HandBind) (x : Inbound) :
    Frame [.links, .jobs, .hands, .out] s (State.pullTag s b x) := by
  unfold State.pullTag
  refine Frame.step ?_ (State.sendHpull_frame _ _ _) (by decide)
  exact (State.setInbound_frame _ _).mono (by decide)

theorem State.pullOnce_frame (s : State) (st : StepSt) (x : Inbound) :
    Frame [.regs, .links, .jobs, .hands, .out] s (State.pullOnce s st x) := by
  unfold State.pullOnce
  split
  · refine Frame.ite (fun _ => ?_) fun _ => ?_
    · exact (State.finish_frame _ _ _ _ _).mono (by decide)
    · exact (State.pullTag_frame _ _ _).mono (by decide)
  · exact Frame.refl _

theorem State.pullAgain_frame (s : State) (l : Nat) (tid : Nat) :
    Frame [.regs, .links, .jobs, .hands, .out] s (State.pullAgain s l tid) := by
  unfold State.pullAgain
  split
  · exact Frame.refl _
  · refine Frame.elim ?_ ?_
    · exact Frame.refl _
    · intro x0
      exact (State.pullOnce_frame _ _ _).mono (by decide)

theorem State.pullLost_frame (s : State) (l : Nat) :
    Frame [.regs, .links, .jobs, .hands, .out] s (State.pullLost s l) := by
  unfold State.pullLost
  split
  · exact Frame.refl _
  · refine Frame.foldl ?_ ?_
    · exact Frame.refl _
    · intro x0 x1 h2
      refine Frame.step ?_ (State.pullOnce_frame _ _ _) (by decide)
      exact h2

theorem State.refused_frame (s : State) (q : DepReq) :
    Frame [.regs, .links, .jobs, .reqs, .resil, .out] s (State.refused s q) := by
  unfold State.refused
  refine Frame.ite (fun _ => ?_) fun _ => ?_
  · exact (State.reqFail_frame _ _).mono (by decide)
  · refine Frame.step ?_ (State.pumpReqs_frame _) (by decide)
    refine Frame.upd ?_ rfl
    exact Frame.refl _

theorem State.storeParts_frame (s : State) (d : List Byte) (n : List (Nat × Nat × Nat × Nat)) :
    FrameF [.attic, .regs, .larder, .larErr, .cellar, .celErr, .conflicts, .clusters, .regions, .resil, .freeCtr] s (State.storeParts s d n) := by
  induction n generalizing s d with
  | nil =>
    rw [State.storeParts]
    refine FrameF.ok ?_
    exact Frame.refl _
  | cons a l ih =>
    obtain ⟨a1, a2, a3, a4⟩ := a
    rw [State.storeParts]
    refine FrameF.bind ?_ ?_
    · refine FrameF.ite (fun _ => ?_) fun _ => ?_
      · refine FrameF.ok ?_
        exact Frame.refl _
      · refine FrameF.ite (fun _ => ?_) fun _ => ?_
        · refine FrameF.step ?_ (State.larStore_frame _ _ _ _) (by decide)
          exact Frame.refl _
        · refine FrameF.step ?_ (State.planWrite_frame _ _ _ _) (by decide)
          exact Frame.refl _
    · intro x0 h1
      refine FrameF.step ?_ (ih _ _) (by decide)
      exact h1

theorem State.checkTag_frame (s : State) (x : Inbound) (b : HandBind) :
    Frame [.regs, .links, .jobs, .hands, .out] s (State.checkTag s x b) := by
  unfold State.checkTag
  split
  · exact (State.setInbound_frame _ _).mono (by decide)
  · refine Frame.ite (fun _ => ?_) fun _ => ?_
    · exact (State.setInbound_frame _ _).mono (by decide)
    · refine Frame.ite (fun _ => ?_) fun _ => ?_
      · exact (State.setInbound_frame _ _).mono (by decide)
      · refine Frame.ite (fun _ => ?_) fun _ => ?_
        · split
          · refine Frame.step ?_ (State.finish_frame _ _ _ _ _) (by decide)
            exact (State.setInbound_frame _ _).mono (by decide)
          · exact Frame.refl _
        · exact (State.pullTag_frame _ _ _).mono (by decide)

end Sys2Proof.Machine
end

