-- ==== Sys2Proof/Laws/FrameSync.lean ====
section
/-! SUPPORT. Frames of the shared operations of waits, engines, the stream and its queues: what each may change, whatever it answers. -/

namespace Sys2Proof.Machine

-- One proof after the other: together they would take a thread each, and with it a stack.
set_option Elab.async false

-- Sync

theorem State.unstall_frame (s : State) (p : Nat → Stall → Bool) (adv : Bool) :
    Frame [.regs, .clusters] s (State.unstall s p adv) := by
  unfold State.unstall
  extract_lets hit x0
  have h0 : Frame [.regs, .clusters] s x0 := by
    subst x0
    refine Frame.foldl_mem (Frame.refl _) fun y e he hy => ?_
    refine State.setCl_frameC hy (by decide) fun hs => ?_
    have := hs.sregs e (List.mem_filter.1 he).1
    split <;> exact Cluster.canon_of rfl this
  clear_value x0 hit
  refine Frame.foldl ?_ ?_
  · exact h0
  · intro x0 x1 h2
    refine Frame.ite (fun _ => ?_) fun _ => ?_
    · refine Frame.step ?_ (State.setRstate_frame _ _ _) (by decide)
      exact h2
    · exact h2

theorem State.broadcast_frame (s : State) (src : Option Nat) :
    Frame [.sync] s (State.broadcast s src) := by
  unfold State.broadcast
  split
  · exact Frame.refl _
  · extract_lets +onlyGivenNames x0
    clear_value x0
    refine Frame.upd ?_ rfl
    exact Frame.refl _

theorem State.arrive_frame (s : State) (b : Nat) (lc : Nat) :
    Frame [.sync] s (State.arrive s b lc) := by
  unfold State.arrive
  refine Frame.upd ?_ rfl
  exact Frame.refl _

theorem State.sendArrival_frame (s : State) (m : CSet) (site : Nat) (b : Nat) (lc : Nat) :
    Frame [.sync] s (State.sendArrival s m site b lc) := by
  unfold State.sendArrival
  extract_lets +onlyGivenNames x0
  clear_value x0
  extract_lets +onlyGivenNames x1
  clear_value x1
  extract_lets +onlyGivenNames x2
  clear_value x2
  extract_lets +onlyGivenNames x3
  have h4 : Frame [.sync] s x3 := by
    subst x3
    exact (State.arrive_frame _ _ _).mono (by decide)
  clear_value x3
  refine Frame.ite (fun _ => ?_) fun _ => ?_
  · exact h4
  · refine Frame.upd ?_ rfl
    exact h4

theorem State.setFlag_frame (s : State) (f : Nat) (v : Bool) :
    Frame [.regs, .clusters, .sync] s (State.setFlag s f v) := by
  unfold State.setFlag
  extract_lets +onlyGivenNames x0
  clear_value x0
  extract_lets +onlyGivenNames x1
  have h2 : Frame [.regs, .clusters, .sync] s x1 := by
    subst x1
    exact (State.broadcast_frame _ _).mono (by decide)
  clear_value x1
  extract_lets +onlyGivenNames x3
  subst x3
  extract_lets +onlyGivenNames x4
  have h5 : Frame [.regs, .clusters, .sync] s x4 := by
    subst x4
    refine Frame.upd ?_ rfl
    exact h2
  clear_value x4
  refine Frame.step ?_ (State.unstall_frame _ _ _) (by decide)
  exact h5

theorem State.sendFlag_frame (s : State) (site : Nat) (f : Nat) (v : Bool) :
    Frame [.regs, .clusters, .sync] s (State.sendFlag s site f v) := by
  unfold State.sendFlag
  refine Frame.ite (fun _ => ?_) fun _ => ?_
  · exact (State.setFlag_frame _ _ _).mono (by decide)
  · exact Frame.refl _

theorem State.putMsg_frame (s : State) (m : TreeMsg) :
    Frame [.sync] s (State.putMsg s m) := by
  unfold State.putMsg
  refine Frame.upd ?_ rfl
  exact Frame.refl _

theorem State.sendSum_frame (s : State) (x : Tree) (src : Option Nat) (m : TreeMsg) :
    Frame [.sync] s (State.sendSum s x src m) := by
  unfold State.sendSum
  refine Frame.ite (fun _ => ?_) fun _ => ?_
  · exact (State.putMsg_frame _ _).mono (by decide)
  · exact Frame.refl _

theorem State.completeTree_frame (s : State) (t : Nat) (x : Tree) (site : Nat) (inst : Nat) (sum : List DWord) :
    FrameF [.regs, .larder, .larErr, .conflicts, .clusters, .regions, .sync, .resil, .freeCtr] s (State.completeTree s t x site inst sum) := by
  unfold State.completeTree
  extract_lets +onlyGivenNames x0
  clear_value x0
  extract_lets +onlyGivenNames x1
  clear_value x1
  extract_lets +onlyGivenNames x2
  clear_value x2
  extract_lets +onlyGivenNames x3
  subst x3
  refine FrameF.ite (fun _ => ?_) fun _ => ?_
  · refine FrameF.ite (fun _ => ?_) fun _ => ?_
    · exact FrameF.undef
    · split
      · rename_i h4
        have h5 := (State.larRead_frame _ _ _ _).of_eq h4
        beta_reduce
        extract_lets +onlyGivenNames x6
        clear_value x6
        extract_lets +onlyGivenNames x7
        clear_value x7
        extract_lets +onlyGivenNames x8
        clear_value x8
        extract_lets +onlyGivenNames x9
        clear_value x9
        refine FrameF.bind ?_ ?_
        · refine FrameF.step ?_ (State.larStore_frame _ _ _ _) (by decide)
          refine Frame.step ?_ h5 (by decide)
          exact Frame.refl _
        · intro x10 h11
          extract_lets +onlyGivenNames x12
          have h13 : Frame [.regs, .larder, .larErr, .conflicts, .clusters, .regions, .sync, .resil, .freeCtr] s x12 := by
            subst x12
            refine Frame.step ?_ (State.broadcast_frame _ _) (by decide)
            refine Frame.step ?_ (State.updRg_frame _ _ _) (by decide)
            exact h11
          clear_value x12
          extract_lets +onlyGivenNames x14
          subst x14
          extract_lets +onlyGivenNames x15
          have h16 : Frame [.regs, .larder, .larErr, .conflicts, .clusters, .regions, .sync, .resil, .freeCtr] s x15 := by
            subst x15
            refine Frame.upd ?_ rfl
            exact h13
          clear_value x15
          extract_lets +onlyGivenNames x17
          have h18 : Frame [.regs, .larder, .larErr, .conflicts, .clusters, .regions, .sync, .resil, .freeCtr] s x17 := by
            subst x17
            refine Frame.step ?_ (State.unstall_frame _ _ _) (by decide)
            exact h16
          clear_value x17
          refine FrameF.ok ?_
          refine Frame.ite (fun _ => ?_) fun _ => ?_
          · refine Frame.step ?_ (State.sendFlag_frame _ _ _ _) (by decide)
            exact h18
          · exact h18
      · rename_i h19
        have h20 := (State.larRead_frame _ _ _ _).of_eq h19
        refine FrameF.held ?_
        refine Frame.step ?_ h20 (by decide)
        exact Frame.refl _
  · beta_reduce
    extract_lets +onlyGivenNames x21
    clear_value x21
    extract_lets +onlyGivenNames x22
    clear_value x22
    extract_lets +onlyGivenNames x23
    clear_value x23
    extract_lets +onlyGivenNames x24
    clear_value x24
    refine FrameF.bind ?_ ?_
    · refine FrameF.step ?_ (State.larStore_frame _ _ _ _) (by decide)
      exact Frame.refl _
    · intro x25 h26
      extract_lets +onlyGivenNames x27
      have h28 : Frame [.regs, .larder, .larErr, .conflicts, .clusters, .regions, .sync, .resil, .freeCtr] s x27 := by
        subst x27
        refine Frame.step ?_ (State.broadcast_frame _ _) (by decide)
        refine Frame.step ?_ (State.updRg_frame _ _ _) (by decide)
        exact h26
      clear_value x27
      extract_lets +onlyGivenNames x29
      subst x29
      extract_lets +onlyGivenNames x30
      have h31 : Frame [.regs, .larder, .larErr, .conflicts, .clusters, .regions, .sync, .resil, .freeCtr] s x30 := by
        subst x30
        refine Frame.upd ?_ rfl
        exact h28
      clear_value x30
      extract_lets +onlyGivenNames x32
      have h33 : Frame [.regs, .larder, .larErr, .conflicts, .clusters, .regions, .sync, .resil, .freeCtr] s x32 := by
        subst x32
        refine Frame.step ?_ (State.unstall_frame _ _ _) (by decide)
        exact h31
      clear_value x32
      refine FrameF.ok ?_
      refine Frame.ite (fun _ => ?_) fun _ => ?_
      · refine Frame.step ?_ (State.sendFlag_frame _ _ _ _) (by decide)
        exact h33
      · exact h33

-- Engine

theorem State.fillEntry_frame (s : State) (site : Nat) (e : List Byte) :
    FrameF [.attic, .regs, .larder, .larErr, .conflicts, .clusters, .regions, .resil, .freeCtr] s (State.fillEntry s site e) := by
  unfold State.fillEntry
  extract_lets +onlyGivenNames x0
  subst x0
  extract_lets +onlyGivenNames x1
  clear_value x1
  extract_lets +onlyGivenNames x2
  clear_value x2
  extract_lets +onlyGivenNames x3
  clear_value x3
  extract_lets +onlyGivenNames x4
  clear_value x4
  extract_lets +onlyGivenNames x5
  clear_value x5
  refine FrameF.ite (fun _ => ?_) fun _ => ?_
  · refine FrameF.ok ?_
    exact Frame.refl _
  · split
    · exact FrameF.undef
    · refine FrameF.ite (fun _ => ?_) fun _ => ?_
      · exact FrameF.undef
      · refine FrameF.ite (fun _ => ?_) fun _ => ?_
        · exact FrameF.undef
        · unfold State.planRead
          refine FrameF.ite (fun _ => ?_) fun _ => ?_
          · exact FrameF.undef
          · split
            · rename_i h6
              have h7 := (State.celRead_frame _ _ _ _).of_eq h6
              beta_reduce
              refine FrameF.step ?_ (State.larStore_frame _ _ _ _) (by decide)
              refine Frame.step ?_ h7 (by decide)
              exact Frame.refl _
            · rename_i h8
              have h9 := (State.celRead_frame _ _ _ _).of_eq h8
              refine FrameF.held ?_
              refine Frame.step ?_ h9 (by decide)
              exact Frame.refl _

theorem State.fillPitch_frame (site : Nat) (q : Nat) (n : Nat) (s : State) :
    FrameF [.attic, .regs, .larder, .larErr, .conflicts, .clusters, .regions, .resil, .freeCtr] s (State.fillPitch site q n s) := by
  induction n generalizing s with
  | zero =>
    rw [State.fillPitch]
    refine FrameF.ok ?_
    exact Frame.refl _
  | succ n ih =>
    rw [State.fillPitch]
    split
    · refine FrameF.ok ?_
      exact Frame.refl _
    · refine FrameF.ite (fun _ => ?_) fun _ => ?_
      · refine FrameF.ok ?_
        exact Frame.refl _
      · refine FrameF.bind ?_ ?_
        · unfold Flow.holdFill
          split
          · rename_i h0
            have h1 := (State.fillEntry_frame _ _ _).of_held h0
            refine FrameF.held ?_
            refine Frame.step ?_ (State.updFa_frame _ _ _) (by decide)
            exact h1
          · rename_i h2
            refine FrameF.step ?_ (State.fillEntry_frame _ _ _) (by decide)
            exact Frame.refl _
        · intro x4 h5
          refine FrameF.bind ?_ ?_
          · refine FrameF.step ?_ (State.takeEntry_frame _ _ _) (by decide)
            refine Frame.step ?_ (State.updFa_frame _ _ _) (by decide)
            exact h5
          · intro x6 h7
            refine FrameF.step ?_ (ih _) (by decide)
            exact h7

-- Stream

theorem State.setAct_frame (s : State) (a : Nat) (x : ActSt) :
    Frame [.strm] s (State.setAct s a x) := by
  unfold State.setAct
  refine Frame.upd ?_ rfl
  exact Frame.refl _

theorem State.ingestDrop_frame (s : State) (c : Nat) :
    Frame [.attic, .regs, .jobs] s (State.ingestDrop s c) := by
  unfold State.ingestDrop
  refine Frame.step ?_ (State.postCoal_frame _ _ _ _ _) (by decide)
  exact (State.count_frame _ _ _ _ _).mono (by decide)

theorem State.pointRecord_frame (s : State) (id : Nat) (raw : Word) :
    FrameF [.attic, .regs, .jobs, .strm] s (State.pointRecord s id raw) := by
  unfold State.pointRecord
  extract_lets +onlyGivenNames x0
  subst x0
  refine FrameF.ite (fun _ => ?_) fun _ => ?_
  · refine FrameF.ok ?_
    exact (State.count_frame _ _ _ _ _).mono (by decide)
  · refine FrameF.ite (fun _ => ?_) fun _ => ?_
    · refine FrameF.ok ?_
      exact (State.ingestDrop_frame _ _).mono (by decide)
    · refine FrameF.ite (fun _ => ?_) fun _ => ?_
      · exact FrameF.undef
      · split
        · refine FrameF.ok ?_
          exact (State.ingestDrop_frame _ _).mono (by decide)
        · extract_lets +onlyGivenNames x1
          clear_value x1
          extract_lets +onlyGivenNames x2
          subst x2
          extract_lets +onlyGivenNames x3
          subst x3
          refine FrameF.ok ?_
          refine Frame.upd ?_ rfl
          exact Frame.refl _

theorem State.seal_frame (s : State) (pin : Bool) (gen : Bool) :
    Frame [.attic, .regs, .jobs, .strm] s (State.seal s pin gen) := by
  unfold State.seal
  extract_lets +onlyGivenNames x0
  clear_value x0
  extract_lets +onlyGivenNames x1
  subst x1
  extract_lets +onlyGivenNames x2
  have h3 : FrameP [.attic, .regs, .jobs, .strm] s x2 := by
    subst x2
    refine FrameP.foldl ?_ ?_
    · refine FrameP.pair ?_
      exact Frame.refl _
    · intro x4 x5 h6
      extract_lets +onlyGivenNames x7
      subst x7
      extract_lets +onlyGivenNames x8
      have h9 : Frame [.attic, .regs, .jobs, .strm] s x8 := by
        subst x8
        refine Frame.ite (fun _ => ?_) fun _ => ?_
        · refine FrameP.fst ?_
          exact h6
        · refine Frame.step ?_ (State.postCoal_frame _ _ _ _ _) (by decide)
          refine Frame.step ?_ (State.count_frame _ _ _ _ _) (by decide)
          refine FrameP.fst ?_
          exact h6
      clear_value x8
      refine FrameP.pair ?_
      exact h9
  clear_value x2
  extract_lets +onlyGivenNames x10
  subst x10
  extract_lets +onlyGivenNames x11
  have h12 : Frame [.attic, .regs, .jobs, .strm] s x11 := by
    subst x11
    refine FrameP.fst ?_
    exact h3
  clear_value x11
  refine Frame.upd ?_ rfl
  exact h12

theorem State.freeUnread_frame (s : State) :
    Frame [.regs, .strm] s (State.freeUnread s) := by
  unfold State.freeUnread
  extract_lets +onlyGivenNames x0
  clear_value x0
  extract_lets +onlyGivenNames x1
  have h2 : Frame [.regs, .strm] s x1 := by
    subst x1
    exact (State.count_frame _ _ _ _ _).mono (by decide)
  clear_value x1
  refine Frame.upd ?_ rfl
  exact h2

theorem State.applyCommit_frame (s : State) :
    Frame [.regs, .points, .strm] s (State.applyCommit s) := by
  unfold State.applyCommit
  split
  · exact Frame.refl _
  · extract_lets +onlyGivenNames x0
    subst x0
    extract_lets +onlyGivenNames x1
    subst x1
    extract_lets +onlyGivenNames x2
    clear_value x2
    extract_lets +onlyGivenNames x3
    subst x3
    extract_lets +onlyGivenNames x4
    clear_value x4
    extract_lets +onlyGivenNames x5
    have h6 : Frame [.regs, .points, .strm] s x5 := by
      subst x5
      exact (State.setRegF_frame _ _ _ _ _).mono (by decide)
    clear_value x5
    refine Frame.upd ?_ rfl
    exact h6

theorem execPtcmtGo_frame (_p : PortNo) (v : Word) (s : State) :
    FrameR [.regs, .strm] s (execPtcmtGo _p v s) := by
  unfold execPtcmtGo
  refine FrameR.ite (fun _ => ?_) fun _ => ?_
  · refine FrameR.next ?_
    exact Frame.refl _
  · extract_lets +onlyGivenNames x0
    have h1 : Frame [.regs, .strm] s x0 := by
      subst x0
      exact (State.writeRw_frame _ _ _).mono (by decide)
    clear_value x0
    refine FrameR.ite (fun _ => ?_) fun _ => ?_
    · refine FrameR.next ?_
      exact h1
    · extract_lets +onlyGivenNames x2
      clear_value x2
      extract_lets +onlyGivenNames x3
      have h4 : Frame [.regs, .strm] s x3 := by
        subst x3
        refine Frame.step ?_ (State.setRegF_frame _ _ _ _ _) (by decide)
        exact h1
      clear_value x3
      refine FrameR.next ?_
      refine Frame.upd ?_ rfl
      exact h4

theorem State.sendFrame_frame (s : State) (a : Nat) (d : List Byte) :
    Frame [.regs, .links, .out] s (State.sendFrame s a d) := by
  unfold State.sendFrame
  extract_lets +onlyGivenNames x0
  clear_value x0
  extract_lets +onlyGivenNames x1
  subst x1
  refine Frame.ite (fun _ => ?_) fun _ => ?_
  · beta_reduce
    refine Frame.foldl ?_ ?_
    · exact Frame.refl _
    · intro x2 x3 h4
      refine Frame.step ?_ (State.send_frame _ _ _ _ _) (by decide)
      exact h4
  · refine Frame.ite (fun _ => ?_) fun _ => ?_
    · beta_reduce
      refine Frame.foldl ?_ ?_
      · exact Frame.refl _
      · intro x5 x6 h7
        refine Frame.step ?_ (State.send_frame _ _ _ _ _) (by decide)
        exact h7
    · exact (State.count_frame _ _ _ _ _).mono (by decide)

theorem State.poolPoison_frame (s : State) (pool : Nat) (q : Nat) :
    Frame [.regs, .resil] s (State.poolPoison s pool q) := by
  unfold State.poolPoison
  refine Frame.step ?_ (State.report_frame _ _) (by decide)
  exact (State.count_frame _ _ _ _ _).mono (by decide)

theorem State.poolRead_frame (s : State) (pool : Nat) (q : Nat) (words : List (Nat × Nat)) :
    FrameP [.regs, .resil] s (State.poolRead s pool q words) := by
  unfold State.poolRead
  refine FrameP.ite (fun _ => ?_) fun _ => ?_
  · refine FrameP.pair ?_
    exact Frame.refl _
  · refine FrameP.ite (fun _ => ?_) fun _ => ?_
    · extract_lets +onlyGivenNames x0
      have h1 : Frame [.regs, .resil] s x0 := by
        subst x0
        exact (State.count_frame _ _ _ _ _).mono (by decide)
      clear_value x0
      refine FrameP.ite (fun _ => ?_) fun _ => ?_
      · refine FrameP.pair ?_
        refine Frame.step ?_ (State.poolPoison_frame _ _ _) (by decide)
        exact h1
      · refine FrameP.pair ?_
        exact h1
    · refine FrameP.ite (fun _ => ?_) fun _ => ?_
      · refine FrameP.pair ?_
        exact (State.poolPoison_frame _ _ _).mono (by decide)
      · refine FrameP.pair ?_
        exact Frame.refl _

theorem State.actuate_frame (s : State) (a : Nat) :
    Frame [.attic, .regs, .links, .jobs, .strm, .resil, .out] s (State.actuate s a) := by
  unfold State.actuate
  extract_lets +onlyGivenNames x0
  subst x0
  extract_lets +onlyGivenNames x1
  subst x1
  extract_lets +onlyGivenNames x2
  subst x2
  split
  · beta_reduce
    extract_lets +onlyGivenNames x3
    subst x3
    extract_lets +onlyGivenNames x4
    clear_value x4
    extract_lets +onlyGivenNames x5
    have h6 : Frame [.attic, .regs, .links, .jobs, .strm, .resil, .out] s x5 := by
      subst x5
      refine Frame.ite (fun _ => ?_) fun _ => ?_
      · exact (State.setReg_frame _ _ _).mono (by decide)
      · exact Frame.refl _
    clear_value x5
    extract_lets +onlyGivenNames x7
    have h8 : Frame [.attic, .regs, .links, .jobs, .strm, .resil, .out] s x7 := by
      subst x7
      refine Frame.step ?_ (State.setAct_frame _ _ _) (by decide)
      exact h6
    clear_value x7
    extract_lets +onlyGivenNames x9
    have h10 : Frame [.attic, .regs, .links, .jobs, .strm, .resil, .out] s x9 := by
      subst x9
      refine Frame.step ?_ (State.setRegF_frame _ _ _ _ _) (by decide)
      refine Frame.step ?_ (State.setRegF_frame _ _ _ _ _) (by decide)
      exact h8
    clear_value x9
    extract_lets +onlyGivenNames x11
    have h12 : Frame [.attic, .regs, .links, .jobs, .strm, .resil, .out] s x11 := by
      subst x11
      refine Frame.step ?_ (State.count_frame _ _ _ _ _) (by decide)
      exact h10
    clear_value x11
    extract_lets +onlyGivenNames x13
    have h14 : Frame [.attic, .regs, .links, .jobs, .strm, .resil, .out] s x13 := by
      subst x13
      split
      · refine Frame.step ?_ (State.updRing_frame _ _ _) (by decide)
        exact h12
      · exact h12
    clear_value x13
    extract_lets +onlyGivenNames x15
    have h16 : Frame [.attic, .regs, .links, .jobs, .strm, .resil, .out] s x15 := by
      subst x15
      refine Frame.step ?_ (State.postCoal_frame _ _ _ _ _) (by decide)
      exact h14
    clear_value x15
    refine Frame.step ?_ (State.sendFrame_frame _ _ _) (by decide)
    exact h16
  · refine Frame.ite (fun _ => ?_) fun _ => ?_
    · beta_reduce
      extract_lets +onlyGivenNames x17
      subst x17
      extract_lets +onlyGivenNames x18
      clear_value x18
      extract_lets +onlyGivenNames x19
      have h20 : Frame [.attic, .regs, .links, .jobs, .strm, .resil, .out] s x19 := by
        subst x19
        refine Frame.ite (fun _ => ?_) fun _ => ?_
        · refine Frame.step ?_ (State.setReg_frame _ _ _) (by decide)
          exact (State.count_frame _ _ _ _ _).mono (by decide)
        · exact (State.count_frame _ _ _ _ _).mono (by decide)
      clear_value x19
      extract_lets +onlyGivenNames x21
      have h22 : Frame [.attic, .regs, .links, .jobs, .strm, .resil, .out] s x21 := by
        subst x21
        refine Frame.step ?_ (State.setAct_frame _ _ _) (by decide)
        exact h20
      clear_value x21
      extract_lets +onlyGivenNames x23
      have h24 : Frame [.attic, .regs, .links, .jobs, .strm, .resil, .out] s x23 := by
        subst x23
        refine Frame.step ?_ (State.setRegF_frame _ _ _ _ _) (by decide)
        refine Frame.step ?_ (State.setRegF_frame _ _ _ _ _) (by decide)
        exact h22
      clear_value x23
      extract_lets +onlyGivenNames x25
      have h26 : Frame [.attic, .regs, .links, .jobs, .strm, .resil, .out] s x25 := by
        subst x25
        refine Frame.step ?_ (State.count_frame _ _ _ _ _) (by decide)
        exact h24
      clear_value x25
      extract_lets +onlyGivenNames x27
      have h28 : Frame [.attic, .regs, .links, .jobs, .strm, .resil, .out] s x27 := by
        subst x27
        split
        · refine Frame.step ?_ (State.updRing_frame _ _ _) (by decide)
          exact h26
        · exact h26
      clear_value x27
      extract_lets +onlyGivenNames x29
      have h30 : Frame [.attic, .regs, .links, .jobs, .strm, .resil, .out] s x29 := by
        subst x29
        refine Frame.step ?_ (State.postCoal_frame _ _ _ _ _) (by decide)
        exact h28
      clear_value x29
      refine Frame.step ?_ (State.sendFrame_frame _ _ _) (by decide)
      exact h30
    · extract_lets +onlyGivenNames x31
      have h32 : FrameP [.attic, .regs, .links, .jobs, .strm, .resil, .out] s x31 := by
        subst x31
        refine FrameP.step ?_ (State.poolRead_frame _ _ _ _) (by decide)
        exact Frame.refl _
      clear_value x31
      refine Frame.ite (fun _ => ?_) fun _ => ?_
      · beta_reduce
        extract_lets +onlyGivenNames x33
        subst x33
        extract_lets +onlyGivenNames x34
        clear_value x34
        extract_lets +onlyGivenNames x35
        have h36 : Frame [.attic, .regs, .links, .jobs, .strm, .resil, .out] s x35 := by
          subst x35
          refine Frame.ite (fun _ => ?_) fun _ => ?_
          · refine Frame.step ?_ (State.setReg_frame _ _ _) (by decide)
            refine Frame.step ?_ (State.count_frame _ _ _ _ _) (by decide)
            refine Frame.step ?_ (State.setRegF_frame _ _ _ _ _) (by decide)
            refine FrameP.fst ?_
            exact h32
          · refine Frame.step ?_ (State.count_frame _ _ _ _ _) (by decide)
            refine Frame.step ?_ (State.setRegF_frame _ _ _ _ _) (by decide)
            refine FrameP.fst ?_
            exact h32
        clear_value x35
        extract_lets +onlyGivenNames x37
        have h38 : Frame [.attic, .regs, .links, .jobs, .strm, .resil, .out] s x37 := by
          subst x37
          refine Frame.step ?_ (State.setAct_frame _ _ _) (by decide)
          exact h36
        clear_value x37
        extract_lets +onlyGivenNames x39
        have h40 : Frame [.attic, .regs, .links, .jobs, .strm, .resil, .out] s x39 := by
          subst x39
          refine Frame.step ?_ (State.setRegF_frame _ _ _ _ _) (by decide)
          refine Frame.step ?_ (State.setRegF_frame _ _ _ _ _) (by decide)
          exact h38
        clear_value x39
        extract_lets +onlyGivenNames x41
        have h42 : Frame [.attic, .regs, .links, .jobs, .strm, .resil, .out] s x41 := by
          subst x41
          refine Frame.step ?_ (State.count_frame _ _ _ _ _) (by decide)
          exact h40
        clear_value x41
        extract_lets +onlyGivenNames x43
        have h44 : Frame [.attic, .regs, .links, .jobs, .strm, .resil, .out] s x43 := by
          subst x43
          split
          · refine Frame.step ?_ (State.updRing_frame _ _ _) (by decide)
            exact h42
          · exact h42
        clear_value x43
        extract_lets +onlyGivenNames x45
        have h46 : Frame [.attic, .regs, .links, .jobs, .strm, .resil, .out] s x45 := by
          subst x45
          refine Frame.step ?_ (State.postCoal_frame _ _ _ _ _) (by decide)
          exact h44
        clear_value x45
        refine Frame.step ?_ (State.sendFrame_frame _ _ _) (by decide)
        exact h46
      · extract_lets +onlyGivenNames x47
        have h48 : Frame [.attic, .regs, .links, .jobs, .strm, .resil, .out] s x47 := by
          subst x47
          refine FrameP.fst ?_
          exact h32
        clear_value x47
        extract_lets +onlyGivenNames x49
        have h50 : Frame [.attic, .regs, .links, .jobs, .strm, .resil, .out] s x49 := by
          subst x49
          refine Frame.step ?_ (State.setAct_frame _ _ _) (by decide)
          exact h48
        clear_value x49
        extract_lets +onlyGivenNames x51
        have h52 : Frame [.attic, .regs, .links, .jobs, .strm, .resil, .out] s x51 := by
          subst x51
          refine Frame.step ?_ (State.setRegF_frame _ _ _ _ _) (by decide)
          refine Frame.step ?_ (State.setReg_frame _ _ _) (by decide)
          exact h50
        clear_value x51
        refine Frame.step ?_ (State.sendFrame_frame _ _ _) (by decide)
        exact h52

theorem State.poolChange_frame (s : State) (pool : Nat) :
    Frame [.regs] s (State.poolChange s pool) := by
  unfold State.poolChange
  refine Frame.ite (fun _ => ?_) fun _ => ?_
  · exact (State.setRegF_frame _ _ _ _ _).mono (by decide)
  · exact Frame.refl _

theorem State.slabPools_frame (s : State) (ecc : Bool) :
    Frame [.regs] s (State.slabPools s ecc) := by
  unfold State.slabPools
  refine Frame.foldl ?_ ?_
  · exact Frame.refl _
  · intro x0 x1 h2
    refine Frame.step ?_ (State.poolChange_frame _ _) (by decide)
    refine Frame.step ?_ (State.setRegF_frame _ _ _ _ _) (by decide)
    exact h2

theorem execPoolModeRequest_frame (_p : PortNo) (pool : Fin 13) (v : Word) (s : State) :
    FrameR [.regs] s (execPoolModeRequest _p pool v s) := by
  unfold execPoolModeRequest
  refine FrameR.ite (fun _ => ?_) fun _ => ?_
  · refine FrameR.next ?_
    exact Frame.refl _
  · refine FrameR.next ?_
    refine Frame.step ?_ (State.poolChange_frame _ _) (by decide)
    exact (State.writeRw_frame _ _ _).mono (by decide)

theorem State.pendTicks_frame (s : State) :
    Frame [.jobs] s (State.pendTicks s) := by
  unfold State.pendTicks
  refine Frame.foldl ?_ ?_
  · exact Frame.refl _
  · intro x0 x1 h2
    refine Frame.ite (fun _ => ?_) fun _ => ?_
    · refine Frame.step ?_ (State.updRing_frame _ _ _) (by decide)
      exact h2
    · exact h2

theorem State.releaseHeld_frame (s : State) :
    Frame [.regs, .jobs] s (State.releaseHeld s) := by
  unfold State.releaseHeld
  extract_lets +onlyGivenNames x0
  clear_value x0
  extract_lets +onlyGivenNames x1
  have h2 : Frame [.regs, .jobs] s x1 := by
    subst x1
    refine Frame.foldl ?_ ?_
    · exact Frame.refl _
    · intro x3 x4 h5
      refine Frame.step ?_ (State.updRing_frame _ _ _) (by decide)
      refine Frame.step ?_ (State.setRegF_frame _ _ _ _ _) (by decide)
      exact h5
  clear_value x1
  refine Frame.upd ?_ rfl
  exact h2

theorem State.markEmitted_frame (s : State) :
    Frame [.jobs] s (State.markEmitted s) := by
  unfold State.markEmitted
  refine Frame.foldl ?_ ?_
  · exact Frame.refl _
  · intro x0 x1 h2
    split
    · refine Frame.ite (fun _ => ?_) fun _ => ?_
      · refine Frame.step ?_ (State.updRing_frame _ _ _) (by decide)
        exact h2
      · exact h2
    · exact h2

theorem State.markMissed_frame (s : State) :
    Frame [.jobs] s (State.markMissed s) := by
  unfold State.markMissed
  split
  · refine Frame.ite (fun _ => ?_) fun _ => ?_
    · exact (State.updRing_frame _ _ _).mono (by decide)
    · exact Frame.refl _
  · exact Frame.refl _

theorem State.postSlip_frame (s : State) (w : Word) (us : Nat) :
    Frame [.attic, .regs, .jobs] s (State.postSlip s w us) := by
  unfold State.postSlip
  extract_lets +onlyGivenNames x0
  clear_value x0
  extract_lets +onlyGivenNames x1
  subst x1
  split
  · refine Frame.ite (fun _ => ?_) fun _ => ?_
    · beta_reduce
      refine Frame.upd ?_ rfl
      exact Frame.refl _
    · beta_reduce
      refine Frame.upd ?_ rfl
      exact (State.post_frame _ _ _ _).mono (by decide)
  · beta_reduce
    refine Frame.upd ?_ rfl
    exact (State.post_frame _ _ _ _).mono (by decide)

theorem State.tick_frame (s : State) (t : DWord) (pin : Bool) (gen : Bool) (forward : Bool) :
    Frame [.attic, .regs, .links, .jobs, .points, .strm, .resil, .out] s (State.tick s t pin gen forward) := by
  unfold State.tick
  extract_lets +onlyGivenNames x0
  clear_value x0
  extract_lets +onlyGivenNames x1
  clear_value x1
  extract_lets +onlyGivenNames x2
  have h3 : Frame [.attic, .regs, .links, .jobs, .points, .strm, .resil, .out] s x2 := by
    subst x2
    refine Frame.ite (fun _ => ?_) fun _ => ?_
    · refine Frame.step ?_ (State.postSlip_frame _ _ _) (by decide)
      exact (State.count_frame _ _ _ _ _).mono (by decide)
    · exact Frame.refl _
  clear_value x2
  extract_lets +onlyGivenNames x4
  have h5 : Frame [.attic, .regs, .links, .jobs, .points, .strm, .resil, .out] s x4 := by
    subst x4
    refine Frame.ite (fun _ => ?_) fun _ => ?_
    · refine Frame.step ?_ (State.count_frame _ _ _ _ _) (by decide)
      exact h3
    · exact h3
  clear_value x4
  extract_lets +onlyGivenNames x6
  subst x6
  extract_lets +onlyGivenNames x7
  have h8 : Frame [.attic, .regs, .links, .jobs, .points, .strm, .resil, .out] s x7 := by
    subst x7
    refine Frame.upd ?_ rfl
    exact h5
  clear_value x7
  extract_lets +onlyGivenNames x9
  have h10 : Frame [.attic, .regs, .links, .jobs, .points, .strm, .resil, .out] s x9 := by
    subst x9
    refine Frame.step ?_ (State.markMissed_frame _) (by decide)
    refine Frame.step ?_ (State.markEmitted_frame _) (by decide)
    exact h8
  clear_value x9
  extract_lets +onlyGivenNames x11
  have h12 : Frame [.attic, .regs, .links, .jobs, .points, .strm, .resil, .out] s x11 := by
    subst x11
    refine Frame.foldl ?_ ?_
    · exact h10
    · intro x13 x14 h15
      refine Frame.step ?_ (State.actuate_frame _ _) (by decide)
      exact h15
  clear_value x11
  extract_lets +onlyGivenNames x16
  have h17 : Frame [.attic, .regs, .links, .jobs, .points, .strm, .resil, .out] s x16 := by
    subst x16
    refine Frame.step ?_ (State.seal_frame _ _ _) (by decide)
    refine Frame.step ?_ (State.poolChange_frame _ _) (by decide)
    refine Frame.step ?_ (State.freeUnread_frame _) (by decide)
    exact h12
  clear_value x16
  extract_lets +onlyGivenNames x18
  have h19 : Frame [.attic, .regs, .links, .jobs, .points, .strm, .resil, .out] s x18 := by
    subst x18
    refine Frame.ite (fun _ => ?_) fun _ => ?_
    · refine Frame.step ?_ (State.pendTicks_frame _) (by decide)
      refine Frame.step ?_ (State.applyCommit_frame _) (by decide)
      exact h17
    · refine Frame.step ?_ (State.applyCommit_frame _) (by decide)
      exact h17
  clear_value x18
  refine Frame.step ?_ (State.releaseHeld_frame _) (by decide)
  exact h19

theorem State.adopt_frame (s : State) (c : Cadence) :
    Frame [.strm] s (State.adopt s c) := by
  unfold State.adopt
  refine Frame.upd ?_ rfl
  exact Frame.refl _

theorem State.dueTick_frame (s : State) (forward : Bool) :
    Frame [.attic, .regs, .links, .jobs, .points, .strm, .resil, .out] s (State.dueTick s forward) := by
  unfold State.dueTick
  split
  · refine Frame.ite (fun _ => ?_) fun _ => ?_
    · refine Frame.step ?_ (State.tick_frame _ _ _ _ _) (by decide)
      refine Frame.ite (fun _ => ?_) fun _ => ?_
      · exact (State.adopt_frame _ _).mono (by decide)
      · exact Frame.refl _
    · exact Frame.refl _
  · exact Frame.refl _

theorem State.enableChan_frame (s : State) (a : Nat) (cells : Nat) :
    FrameP [.regs] s (State.enableChan s a cells) := by
  unfold State.enableChan
  refine FrameP.ite (fun _ => ?_) fun _ => ?_
  · refine FrameP.pair ?_
    refine Frame.step ?_ (State.setRegF_frame _ _ _ _ _) (by decide)
    exact (State.setRegF_frame _ _ _ _ _).mono (by decide)
  · refine FrameP.pair ?_
    refine Frame.step ?_ (State.setRegF_frame _ _ _ _ _) (by decide)
    exact (State.setRegF_frame _ _ _ _ _).mono (by decide)

theorem execIngestEnable_frame (_p : PortNo) (ch : Fin 16) (v : Word) (s : State) :
    FrameR [.regs, .strm] s (execIngestEnable _p ch v s) := by
  unfold execIngestEnable
  extract_lets +onlyGivenNames x0
  clear_value x0
  refine FrameR.ite (fun _ => ?_) fun _ => ?_
  · refine FrameR.next ?_
    exact Frame.refl _
  · refine FrameR.ite (fun _ => ?_) fun _ => ?_
    · refine FrameR.next ?_
      exact (State.setRegF_frame _ _ _ _ _).mono (by decide)
    · refine FrameR.ite (fun _ => ?_) fun _ => ?_
      · refine FrameR.next ?_
        exact Frame.refl _
      · extract_lets +onlyGivenNames x1
        have h2 : FrameP [.regs, .strm] s x1 := by
          subst x1
          refine FrameP.step ?_ (State.enableChan_frame _ _ _) (by decide)
          exact Frame.refl _
        clear_value x1
        extract_lets +onlyGivenNames x3
        subst x3
        refine FrameR.next ?_
        refine Frame.ite (fun _ => ?_) fun _ => ?_
        · extract_lets +onlyGivenNames x4
          have h5 : Frame [.regs, .strm] s x4 := by
            subst x4
            refine FrameP.fst ?_
            exact h2
          clear_value x4
          refine Frame.upd ?_ rfl
          exact h5
        · refine FrameP.fst ?_
          exact h2

theorem execActuationEnable_frame (_p : PortNo) (ch : Fin 8) (v : Word) (s : State) :
    FrameR [.regs, .strm] s (execActuationEnable _p ch v s) := by
  unfold execActuationEnable
  extract_lets +onlyGivenNames x0
  clear_value x0
  refine FrameR.ite (fun _ => ?_) fun _ => ?_
  · refine FrameR.next ?_
    exact Frame.refl _
  · extract_lets +onlyGivenNames x1
    have h2 : Frame [.regs, .strm] s x1 := by
      subst x1
      exact (State.setReg_frame _ _ _).mono (by decide)
    clear_value x1
    refine FrameR.ite (fun _ => ?_) fun _ => ?_
    · refine FrameR.next ?_
      refine Frame.step ?_ (State.setAct_frame _ _ _) (by decide)
      refine Frame.step ?_ (State.setRegF_frame _ _ _ _ _) (by decide)
      exact h2
    · refine FrameR.ite (fun _ => ?_) fun _ => ?_
      · refine FrameR.next ?_
        exact h2
      · extract_lets +onlyGivenNames x3
        have h4 : FrameP [.regs, .strm] s x3 := by
          subst x3
          refine FrameP.step ?_ (State.enableChan_frame _ _ _) (by decide)
          exact h2
        clear_value x3
        refine FrameR.next ?_
        refine Frame.ite (fun _ => ?_) fun _ => ?_
        · refine Frame.step ?_ (State.setAct_frame _ _ _) (by decide)
          refine FrameP.fst ?_
          exact h4
        · refine FrameP.fst ?_
          exact h4

theorem State.cutProducers_frame (s : State) (l : List QPkt) :
    Frame [.clusters] s (State.cutProducers s l) := by
  unfold State.cutProducers
  refine Frame.foldl ?_ ?_
  · exact Frame.refl _
  · intro x0 x1 h2
    refine Frame.step ?_ (State.updCl_frame _ _ _ ?_) (by decide)
    · exact h2
    · intro x3 h4
      unfold Cluster.dropRest
      split
      · exact h4
      · exact h4

theorem State.flushQueue_frame (s : State) (q : Nat) :
    Frame [.clk, .clusters, .strm] s (State.flushQueue s q) := by
  unfold State.flushQueue
  refine Frame.ite (fun _ => ?_) fun _ => ?_
  · refine Frame.upd ?_ rfl
    exact Frame.refl _
  · refine Frame.ite (fun _ => ?_) fun _ => ?_
    · extract_lets +onlyGivenNames x0
      clear_value x0
      extract_lets +onlyGivenNames x1
      subst x1
      extract_lets +onlyGivenNames x2
      have h3 : Frame [.clk, .clusters, .strm] s x2 := by
        subst x2
        refine Frame.step ?_ (State.setAct_frame _ _ _) (by decide)
        exact (State.cutProducers_frame _ _).mono (by decide)
      clear_value x2
      refine Frame.upd ?_ rfl
      exact h3
    · refine Frame.ite (fun _ => ?_) fun _ => ?_
      · refine Frame.upd ?_ rfl
        exact Frame.refl _
      · extract_lets +onlyGivenNames x4
        clear_value x4
        extract_lets +onlyGivenNames x5
        have h6 : Frame [.clk, .clusters, .strm] s x5 := by
          subst x5
          exact (State.cutProducers_frame _ _).mono (by decide)
        clear_value x5
        refine Frame.upd ?_ rfl
        exact h6

theorem State.wakeWriters_frame (s : State) (slab : Nat) :
    Frame [.regs, .clusters] s (State.wakeWriters s slab) := by
  unfold State.wakeWriters
  exact (State.unstall_frame _ _ _).mono (by decide)

theorem State.wakeReaders_frame (s : State) (q : Nat) :
    Frame [.regs, .clusters] s (State.wakeReaders s q) := by
  unfold State.wakeReaders
  exact (State.unstall_frame _ _ _).mono (by decide)

theorem State.abandonPackets_frame (s : State) (r : Nat) :
    Frame [.regs, .clusters, .strm] s (State.abandonPackets s r) := by
  unfold State.abandonPackets
  extract_lets +onlyGivenNames x0
  subst x0
  extract_lets +onlyGivenNames x1
  clear_value x1
  extract_lets +onlyGivenNames x2
  subst x2
  extract_lets +onlyGivenNames x3
  have h4 : Frame [.regs, .clusters, .strm] s x3 := by
    subst x3
    refine Frame.upd ?_ rfl
    exact Frame.refl _
  clear_value x3
  refine Frame.foldl ?_ ?_
  · exact h4
  · intro x5 x6 h7
    refine Frame.step ?_ (State.wakeReaders_frame _ _) (by decide)
    exact h7

theorem State.wakeFlushed_frame (s : State) (q : Nat) :
    Frame [.regs, .clusters] s (State.wakeFlushed s q) := by
  unfold State.wakeFlushed
  refine Frame.step ?_ (State.wakeWriters_frame _ _) (by decide)
  exact (State.wakeReaders_frame _ _).mono (by decide)

theorem execFlush_frame (_p : PortNo) (q : BitVec 16) (v : Word) (s : State) :
    FrameR [.clk, .regs, .clusters, .strm] s (execFlush _p q v s) := by
  unfold execFlush
  split
  · refine FrameR.next ?_
    exact Frame.refl _
  · refine FrameR.ite (fun _ => ?_) fun _ => ?_
    · refine FrameR.next ?_
      exact Frame.refl _
    · extract_lets +onlyGivenNames x0
      have h1 : Frame [.clk, .regs, .clusters, .strm] s x0 := by
        subst x0
        exact (State.writeRw_frame _ _ _).mono (by decide)
      clear_value x0
      refine FrameR.next ?_
      refine Frame.ite (fun _ => ?_) fun _ => ?_
      · refine Frame.step ?_ (State.wakeFlushed_frame _ _) (by decide)
        refine Frame.step ?_ (State.flushQueue_frame _ _) (by decide)
        exact h1
      · exact h1

-- Queue

theorem State.takeSlot_frame (s : State) (lreg : Nat) (r : Nat) (st : StepSt) :
    FrameP [.regs, .regions, .jobs, .resil] s (State.takeSlot s lreg r st) := by
  unfold State.takeSlot
  split
  · refine FrameP.pair ?_
    exact Frame.refl _
  · extract_lets +onlyGivenNames x0
    clear_value x0
    extract_lets +onlyGivenNames x1
    subst x1
    extract_lets +onlyGivenNames x2
    clear_value x2
    extract_lets +onlyGivenNames x3
    clear_value x3
    extract_lets +onlyGivenNames x4
    clear_value x4
    extract_lets +onlyGivenNames x5
    clear_value x5
    extract_lets +onlyGivenNames x6
    have h7 : Frame [.regs, .regions, .jobs, .resil] s x6 := by
      subst x6
      exact (State.setRg_frame _ _ _).mono (by decide)
    clear_value x6
    extract_lets +onlyGivenNames x8
    have h9 : Frame [.regs, .regions, .jobs, .resil] s x8 := by
      subst x8
      refine Frame.ite (fun _ => ?_) fun _ => ?_
      · refine Frame.step ?_ (State.setRegF_frame _ _ _ _ _) (by decide)
        exact h7
      · exact h7
    clear_value x8
    extract_lets +onlyGivenNames x10
    have h11 : Frame [.regs, .regions, .jobs, .resil] s x10 := by
      subst x10
      refine Frame.step ?_ (State.count_frame _ _ _ _ _) (by decide)
      exact h9
    clear_value x10
    extract_lets +onlyGivenNames x12
    subst x12
    extract_lets +onlyGivenNames x13
    subst x13
    extract_lets +onlyGivenNames x14
    have h15 : Frame [.regs, .regions, .jobs, .resil] s x14 := by
      subst x14
      refine Frame.ite (fun _ => ?_) fun _ => ?_
      · refine Frame.upd ?_ rfl
        exact h11
      · exact h9
    clear_value x14
    refine FrameP.pair ?_
    refine Frame.step ?_ (State.updStep_frame _ _) (by decide)
    exact h15

theorem State.heldAppend_frame (s : State) (site : Nat) (w : WinSt) (d : List Byte) (qstat : Nat) :
    FrameF [.attic, .regs, .cellar, .celErr, .regions, .jobs, .resil] s (State.heldAppend s site w d qstat) := by
  unfold State.heldAppend
  split
  · extract_lets +onlyGivenNames x0
    clear_value x0
    extract_lets +onlyGivenNames x1
    subst x1
    extract_lets +onlyGivenNames x2
    clear_value x2
    split
    · extract_lets +onlyGivenNames x3
      clear_value x3
      split
      · rename_i h4
        have h5 := (State.takeSlot_frame _ _ _ _).of_eq h4
        extract_lets +onlyGivenNames x6
        clear_value x6
        extract_lets +onlyGivenNames x7
        clear_value x7
        refine FrameF.ite (fun _ => ?_) fun _ => ?_
        · exact FrameF.undef
        · extract_lets +onlyGivenNames x8
          have h9 : Frame [.attic, .regs, .cellar, .celErr, .regions, .jobs, .resil] s x8 := by
            subst x8
            refine Frame.step ?_ (State.updRg_frame _ _ _) (by decide)
            refine Frame.step ?_ h5 (by decide)
            exact Frame.refl _
          clear_value x8
          refine FrameF.bind ?_ ?_
          · refine FrameF.step ?_ (State.planWrite_frame _ _ _ _) (by decide)
            exact h9
          · intro x10 h11
            refine FrameF.step ?_ (State.planWrite_frame _ _ _ _) (by decide)
            exact h11
    · refine FrameF.ok ?_
      exact Frame.refl _
  · refine FrameF.ok ?_
    exact Frame.refl _

theorem State.heldSeal_frame (s : State) (h : Hdr) (e : Nat × Nat) :
    FrameF [.attic, .regs, .cellar, .celErr, .regions, .resil] s (State.heldSeal s h e) := by
  unfold State.heldSeal
  extract_lets +onlyGivenNames x0
  clear_value x0
  extract_lets +onlyGivenNames x1
  clear_value x1
  split
  · extract_lets +onlyGivenNames x2
    clear_value x2
    extract_lets +onlyGivenNames x3
    clear_value x3
    refine FrameF.bind ?_ ?_
    · refine FrameF.step ?_ (State.planWrite_frame _ _ _ _) (by decide)
      exact Frame.refl _
    · intro x4 h5
      refine FrameF.bind ?_ ?_
      · refine FrameF.step ?_ (State.planWrite_frame _ _ _ _) (by decide)
        exact h5
      · intro x6 h7
        refine FrameF.bind ?_ ?_
        · refine FrameF.step ?_ (State.planWrite_frame _ _ _ _) (by decide)
          exact h7
        · intro x8 h9
          refine FrameF.step ?_ (State.planWrite_frame _ _ _ _) (by decide)
          exact h9
  · refine FrameF.ok ?_
    exact Frame.refl _

theorem State.heldSealAll_frame (s : State) (st : StepSt) :
    FrameF [.attic, .regs, .cellar, .celErr, .regions, .resil] s (State.heldSealAll s st) := by
  unfold State.heldSealAll
  refine FrameF.fold ?_ ?_
  · exact Frame.refl _
  · intro x0 x1 h2
    refine FrameF.step ?_ (State.heldSeal_frame _ _ _) (by decide)
    exact h2

theorem State.readWindow_frame (s : State) (site : SiteNo) (h : BitVec 6) (off : Nat) (n : Nat) (q : Nat) (win : Word) :
    FrameR [.attic, .regs, .larder, .larErr, .cellar, .celErr, .conflicts, .clusters, .regions, .jobs, .resil, .freeCtr] s (State.readWindow s site h off n q win) := by
  unfold State.readWindow
  extract_lets +onlyGivenNames x0
  subst x0
  extract_lets +onlyGivenNames x1
  subst x1
  split
  · beta_reduce
    unfold State.deliverRead
    extract_lets +onlyGivenNames x2
    subst x2
    refine FrameR.ite (fun _ => ?_) fun _ => ?_
    · beta_reduce
      refine State.fin_frameC ?_ (by decide) ?_
      · refine State.setCl_frameC ?_ (by decide) ?_
        · exact Frame.refl _
        · intro h3
          exact cl_canon h3 _
      · intro h4
        dsimp only
        refine Cluster.canon_of (c := State.cl _ _) rfl ?_
        refine Frame.cl_canon (P := Part.all) ?_ h4 _
        refine State.setCl_frameC ?_ (by decide) ?_
        · exact Frame.refl _
        · intro h6
          exact cl_canon h4 _
    · unfold State.handleWrite
      split
      · exact FrameR.undef
      · refine FrameR.next ?_
        exact (State.stallCore_frame _ _ _).mono (by decide)
      · split
        · rename_i h7
          have h8 := (State.larWrite_frame _ _ _ _).of_eq h7
          beta_reduce
          refine State.fin_frameC ?_ (by decide) ?_
          · refine State.setCl_frameC ?_ (by decide) ?_
            · refine Frame.step ?_ h8 (by decide)
              exact Frame.refl _
            · intro h9
              exact h8.cl_canon h9 _
          · intro h10
            dsimp only
            refine Cluster.canon_of (c := State.cl _ _) rfl ?_
            refine Frame.cl_canon (P := Part.all) ?_ h10 _
            refine State.setCl_frameC ?_ (by decide) ?_
            · refine Frame.step ?_ h8 (by decide)
              exact Frame.refl _
            · intro h12
              exact h8.cl_canon h10 _
        · rename_i h13
          have h14 := (State.larWrite_frame _ _ _ _).of_eq h13
          refine FrameR.next ?_
          refine Frame.step ?_ (State.stallCore_frame _ _ _) (by decide)
          refine Frame.step ?_ h14 (by decide)
          exact Frame.refl _
  · refine FrameR.ite (fun _ => ?_) fun _ => ?_
    · beta_reduce
      unfold State.deliverRead
      extract_lets +onlyGivenNames x15
      subst x15
      refine FrameR.ite (fun _ => ?_) fun _ => ?_
      · beta_reduce
        refine State.fin_frameC ?_ (by decide) ?_
        · refine State.setCl_frameC ?_ (by decide) ?_
          · exact Frame.refl _
          · intro h16
            exact cl_canon h16 _
        · intro h17
          dsimp only
          refine Cluster.canon_of (c := State.cl _ _) rfl ?_
          refine Frame.cl_canon (P := Part.all) ?_ h17 _
          refine State.setCl_frameC ?_ (by decide) ?_
          · exact Frame.refl _
          · intro h19
            exact cl_canon h17 _
      · unfold State.handleWrite
        split
        · exact FrameR.undef
        · refine FrameR.next ?_
          exact (State.stallCore_frame _ _ _).mono (by decide)
        · split
          · rename_i h20
            have h21 := (State.larWrite_frame _ _ _ _).of_eq h20
            beta_reduce
            refine State.fin_frameC ?_ (by decide) ?_
            · refine State.setCl_frameC ?_ (by decide) ?_
              · refine Frame.step ?_ h21 (by decide)
                exact Frame.refl _
              · intro h22
                exact h21.cl_canon h22 _
            · intro h23
              dsimp only
              refine Cluster.canon_of (c := State.cl _ _) rfl ?_
              refine Frame.cl_canon (P := Part.all) ?_ h23 _
              refine State.setCl_frameC ?_ (by decide) ?_
              · refine Frame.step ?_ h21 (by decide)
                exact Frame.refl _
              · intro h25
                exact h21.cl_canon h23 _
          · rename_i h26
            have h27 := (State.larWrite_frame _ _ _ _).of_eq h26
            refine FrameR.next ?_
            refine Frame.step ?_ (State.stallCore_frame _ _ _) (by decide)
            refine Frame.step ?_ h27 (by decide)
            exact Frame.refl _
    · refine FrameR.ite (fun _ => ?_) fun _ => ?_
      · beta_reduce
        unfold State.deliverRead
        extract_lets +onlyGivenNames x28
        subst x28
        refine FrameR.ite (fun _ => ?_) fun _ => ?_
        · beta_reduce
          refine State.fin_frameC ?_ (by decide) ?_
          · refine State.setCl_frameC ?_ (by decide) ?_
            · exact Frame.refl _
            · intro h29
              exact cl_canon h29 _
          · intro h30
            dsimp only
            refine Cluster.canon_of (c := State.cl _ _) rfl ?_
            refine Frame.cl_canon (P := Part.all) ?_ h30 _
            refine State.setCl_frameC ?_ (by decide) ?_
            · exact Frame.refl _
            · intro h32
              exact cl_canon h30 _
        · unfold State.handleWrite
          split
          · exact FrameR.undef
          · refine FrameR.next ?_
            exact (State.stallCore_frame _ _ _).mono (by decide)
          · split
            · rename_i h33
              have h34 := (State.larWrite_frame _ _ _ _).of_eq h33
              beta_reduce
              refine State.fin_frameC ?_ (by decide) ?_
              · refine State.setCl_frameC ?_ (by decide) ?_
                · refine Frame.step ?_ h34 (by decide)
                  exact Frame.refl _
                · intro h35
                  exact h34.cl_canon h35 _
              · intro h36
                dsimp only
                refine Cluster.canon_of (c := State.cl _ _) rfl ?_
                refine Frame.cl_canon (P := Part.all) ?_ h36 _
                refine State.setCl_frameC ?_ (by decide) ?_
                · refine Frame.step ?_ h34 (by decide)
                  exact Frame.refl _
                · intro h38
                  exact h34.cl_canon h36 _
            · rename_i h39
              have h40 := (State.larWrite_frame _ _ _ _).of_eq h39
              refine FrameR.next ?_
              refine Frame.step ?_ (State.stallCore_frame _ _ _) (by decide)
              refine Frame.step ?_ h40 (by decide)
              exact Frame.refl _
      · extract_lets +onlyGivenNames x41
        clear_value x41
        extract_lets +onlyGivenNames x42
        clear_value x42
        extract_lets +onlyGivenNames x43
        clear_value x43
        split
        · rename_i h44
          have h45 := (State.poolRead_frame _ _ _ _).of_eq h44
          unfold State.deliverRead
          extract_lets +onlyGivenNames x46
          subst x46
          refine FrameR.ite (fun _ => ?_) fun _ => ?_
          · beta_reduce
            extract_lets +onlyGivenNames x47
            have h48 : Frame [.attic, .regs, .larder, .larErr, .cellar, .celErr, .conflicts, .clusters, .regions, .jobs, .resil, .freeCtr] s x47 := by
              subst x47
              refine Frame.step ?_ (State.updCl_same _ _ _ fun _ => rfl) (by decide)
              refine State.setCl_frameC ?_ (by decide) ?_
              · refine Frame.step ?_ h45 (by decide)
                exact Frame.refl _
              · intro h49
                exact h45.cl_canon h49 _
            clear_value x47
            split
            · rename_i h50
              have h51 := (State.heldAppend_frame _ _ _ _ _).of_ok h50
              refine State.fin_frameC ?_ (by decide) ?_
              · refine Frame.step ?_ h51 (by decide)
                exact h48
              · intro h52
                refine Frame.cl_canon (P := Part.all) ?_ h52 _
                refine Frame.step ?_ h51 (by decide)
                refine Frame.step ?_ h48 (by decide)
                exact Frame.refl _
            · rename_i h53
              have h54 := (State.heldAppend_frame _ _ _ _ _).of_held h53
              refine FrameR.next ?_
              refine Frame.step ?_ (State.stallCore_frame _ _ _) (by decide)
              refine Frame.step ?_ h54 (by decide)
              exact h48
            · rename_i h55
              have h56 := (State.heldAppend_frame _ _ _ _ _).of_eq h55
              exact FrameR.undef
          · unfold State.handleWrite
            split
            · exact FrameR.undef
            · refine FrameR.next ?_
              refine Frame.step ?_ (State.stallCore_frame _ _ _) (by decide)
              refine Frame.step ?_ h45 (by decide)
              exact Frame.refl _
            · split
              · rename_i h57
                have h58 := (State.larWrite_frame _ _ _ _).of_eq h57
                beta_reduce
                extract_lets +onlyGivenNames x59
                have h60 : Frame [.attic, .regs, .larder, .larErr, .cellar, .celErr, .conflicts, .clusters, .regions, .jobs, .resil, .freeCtr] s x59 := by
                  subst x59
                  refine Frame.step ?_ (State.updCl_same _ _ _ fun _ => rfl) (by decide)
                  refine State.setCl_frameC ?_ (by decide) ?_
                  · refine Frame.step ?_ h58 (by decide)
                    refine Frame.step ?_ h45 (by decide)
                    exact Frame.refl _
                  · intro h61
                    unfold Cluster.setQstat
                    refine Cluster.canon_of (c := State.cl _ _) rfl ?_
                    refine Frame.cl_canon (P := Part.all) ?_ h61 _
                    refine Frame.step ?_ h58 (by decide)
                    refine Frame.step ?_ h45 (by decide)
                    exact Frame.refl _
                clear_value x59
                split
                · rename_i h62
                  have h63 := (State.heldAppend_frame _ _ _ _ _).of_ok h62
                  refine State.fin_frameC ?_ (by decide) ?_
                  · refine Frame.step ?_ h63 (by decide)
                    exact h60
                  · intro h64
                    refine Frame.cl_canon (P := Part.all) ?_ h64 _
                    refine Frame.step ?_ h63 (by decide)
                    refine Frame.step ?_ h60 (by decide)
                    exact Frame.refl _
                · rename_i h65
                  have h66 := (State.heldAppend_frame _ _ _ _ _).of_held h65
                  refine FrameR.next ?_
                  refine Frame.step ?_ (State.stallCore_frame _ _ _) (by decide)
                  refine Frame.step ?_ h66 (by decide)
                  exact h60
                · rename_i h67
                  have h68 := (State.heldAppend_frame _ _ _ _ _).of_eq h67
                  exact FrameR.undef
              · rename_i h69
                have h70 := (State.larWrite_frame _ _ _ _).of_eq h69
                refine FrameR.next ?_
                refine Frame.step ?_ (State.stallCore_frame _ _ _) (by decide)
                refine Frame.step ?_ h70 (by decide)
                refine Frame.step ?_ h45 (by decide)
                exact Frame.refl _

theorem State.readHeld_frame (s : State) (site : SiteNo) (h : BitVec 6) (off : Nat) (n : Nat) (st : StepSt) :
    FrameR [.regs, .larder, .larErr, .conflicts, .clusters, .jobs, .resil, .freeCtr] s (State.readHeld s site h off n st) := by
  unfold State.readHeld
  extract_lets +onlyGivenNames x0
  clear_value x0
  extract_lets +onlyGivenNames x1
  clear_value x1
  extract_lets +onlyGivenNames x2
  clear_value x2
  extract_lets +onlyGivenNames x3
  clear_value x3
  extract_lets +onlyGivenNames x4
  clear_value x4
  split
  · unfold State.deliverRead
    extract_lets +onlyGivenNames x5
    subst x5
    refine FrameR.ite (fun _ => ?_) fun _ => ?_
    · beta_reduce
      refine State.fin_frameC ?_ (by decide) ?_
      · refine State.setCl_frameC ?_ (by decide) ?_
        · exact Frame.refl _
        · intro h6
          exact cl_canon h6 _
      · intro h7
        refine Frame.cl_canon (P := Part.all) ?_ h7 _
        refine State.setCl_frameC ?_ (by decide) ?_
        · exact Frame.refl _
        · intro h8
          exact cl_canon h7 _
    · unfold State.handleWrite
      split
      · exact FrameR.undef
      · refine FrameR.next ?_
        exact (State.stallCore_frame _ _ _).mono (by decide)
      · split
        · rename_i h9
          have h10 := (State.larWrite_frame _ _ _ _).of_eq h9
          beta_reduce
          refine State.fin_frameC ?_ (by decide) ?_
          · refine State.setCl_frameC ?_ (by decide) ?_
            · refine Frame.step ?_ h10 (by decide)
              exact Frame.refl _
            · intro h11
              exact h10.cl_canon h11 _
          · intro h12
            refine Frame.cl_canon (P := Part.all) ?_ h12 _
            refine State.setCl_frameC ?_ (by decide) ?_
            · refine Frame.step ?_ h10 (by decide)
              exact Frame.refl _
            · intro h13
              exact h10.cl_canon h12 _
        · rename_i h14
          have h15 := (State.larWrite_frame _ _ _ _).of_eq h14
          refine FrameR.next ?_
          refine Frame.step ?_ (State.stallCore_frame _ _ _) (by decide)
          refine Frame.step ?_ h15 (by decide)
          exact Frame.refl _
  · extract_lets +onlyGivenNames x16
    clear_value x16
    extract_lets +onlyGivenNames x17
    clear_value x17
    extract_lets +onlyGivenNames x18
    have h19 : Frame [.regs, .larder, .larErr, .conflicts, .clusters, .jobs, .resil, .freeCtr] s x18 := by
      subst x18
      exact (State.updStep_frame _ _).mono (by decide)
    clear_value x18
    unfold State.deliverRead
    extract_lets +onlyGivenNames x20
    subst x20
    refine FrameR.ite (fun _ => ?_) fun _ => ?_
    · beta_reduce
      refine State.fin_frameC ?_ (by decide) ?_
      · refine State.setCl_frameC ?_ (by decide) ?_
        · exact h19
        · intro h21
          exact h19.cl_canon h21 _
      · intro h22
        refine Frame.cl_canon (P := Part.all) ?_ h22 _
        refine State.setCl_frameC ?_ (by decide) ?_
        · refine Frame.step ?_ h19 (by decide)
          exact Frame.refl _
        · intro h23
          exact h19.cl_canon h22 _
    · unfold State.handleWrite
      split
      · exact FrameR.undef
      · refine FrameR.next ?_
        refine Frame.step ?_ (State.stallCore_frame _ _ _) (by decide)
        exact h19
      · split
        · rename_i h24
          have h25 := (State.larWrite_frame _ _ _ _).of_eq h24
          beta_reduce
          refine State.fin_frameC ?_ (by decide) ?_
          · refine State.setCl_frameC ?_ (by decide) ?_
            · refine Frame.step ?_ h25 (by decide)
              exact h19
            · intro h26
              unfold Cluster.setQstat
              refine Cluster.canon_of (c := State.cl _ _) rfl ?_
              refine Frame.cl_canon (P := Part.all) ?_ h26 _
              refine Frame.step ?_ h25 (by decide)
              refine Frame.step ?_ h19 (by decide)
              exact Frame.refl _
          · intro h27
            refine Frame.cl_canon (P := Part.all) ?_ h27 _
            refine State.setCl_frameC ?_ (by decide) ?_
            · refine Frame.step ?_ h25 (by decide)
              refine Frame.step ?_ h19 (by decide)
              exact Frame.refl _
            · intro h28
              unfold Cluster.setQstat
              refine Cluster.canon_of (c := State.cl _ _) rfl ?_
              refine Frame.cl_canon (P := Part.all) ?_ h27 _
              refine Frame.step ?_ h25 (by decide)
              refine Frame.step ?_ h19 (by decide)
              exact Frame.refl _
        · rename_i h29
          have h30 := (State.larWrite_frame _ _ _ _).of_eq h29
          refine FrameR.next ?_
          refine Frame.step ?_ (State.stallCore_frame _ _ _) (by decide)
          refine Frame.step ?_ h30 (by decide)
          exact h19

theorem State.setPackets_frame (s : State) (l : List QPkt) :
    Frame [.strm] s (State.setPackets s l) := by
  unfold State.setPackets
  refine Frame.upd ?_ rfl
  exact Frame.refl _

theorem State.readSlab_frame (s : State) (site : SiteNo) (h : BitVec 6) (off : Nat) (n : Nat) (q : Nat) (slab : Nat) :
    FrameR [.regs, .larder, .larErr, .conflicts, .clusters, .strm, .resil, .freeCtr] s (State.readSlab s site h off n q slab) := by
  unfold State.readSlab
  split
  · refine FrameR.next ?_
    exact (State.stallCore_frame _ _ _).mono (by decide)
  · extract_lets +onlyGivenNames x0
    clear_value x0
    extract_lets +onlyGivenNames x1
    clear_value x1
    extract_lets +onlyGivenNames x2
    clear_value x2
    extract_lets +onlyGivenNames x3
    clear_value x3
    split
    · rename_i h4
      have h5 := (State.poolRead_frame _ _ _ _).of_eq h4
      extract_lets +onlyGivenNames x6
      subst x6
      refine FrameR.ite (fun _ => ?_) fun _ => ?_
      · beta_reduce
        extract_lets +onlyGivenNames x7
        have h8 : Frame [.regs, .larder, .larErr, .conflicts, .clusters, .strm, .resil, .freeCtr] s x7 := by
          subst x7
          refine Frame.step ?_ (State.setPackets_frame _ _) (by decide)
          refine Frame.step ?_ h5 (by decide)
          exact Frame.refl _
        clear_value x7
        extract_lets +onlyGivenNames x9
        have h10 : Frame [.regs, .larder, .larErr, .conflicts, .clusters, .strm, .resil, .freeCtr] s x9 := by
          subst x9
          refine Frame.ite (fun _ => ?_) fun _ => ?_
          · refine Frame.step ?_ (State.wakeWriters_frame _ _) (by decide)
            exact h8
          · exact h8
        clear_value x9
        refine FrameR.ite (fun _ => ?_) fun _ => ?_
        · refine State.fin_frameC ?_ (by decide) ?_
          · exact h10
          · intro h11
            exact h10.cl_canon h11 _
        · refine FrameR.next ?_
          refine Frame.step ?_ (State.stallCore_frame _ _ _) (by decide)
          refine Frame.step ?_ (State.updCl_same _ _ _ fun _ => rfl) (by decide)
          exact h10
      · unfold State.handleWrite
        split
        · exact FrameR.undef
        · refine FrameR.next ?_
          refine Frame.step ?_ (State.stallCore_frame _ _ _) (by decide)
          refine Frame.step ?_ h5 (by decide)
          exact Frame.refl _
        · split
          · rename_i h12
            have h13 := (State.larWrite_frame _ _ _ _).of_eq h12
            beta_reduce
            extract_lets +onlyGivenNames x14
            have h15 : Frame [.regs, .larder, .larErr, .conflicts, .clusters, .strm, .resil, .freeCtr] s x14 := by
              subst x14
              refine Frame.step ?_ (State.setPackets_frame _ _) (by decide)
              refine Frame.step ?_ h13 (by decide)
              refine Frame.step ?_ h5 (by decide)
              exact Frame.refl _
            clear_value x14
            extract_lets +onlyGivenNames x16
            have h17 : Frame [.regs, .larder, .larErr, .conflicts, .clusters, .strm, .resil, .freeCtr] s x16 := by
              subst x16
              refine Frame.ite (fun _ => ?_) fun _ => ?_
              · refine Frame.step ?_ (State.wakeWriters_frame _ _) (by decide)
                exact h15
              · exact h15
            clear_value x16
            refine FrameR.ite (fun _ => ?_) fun _ => ?_
            · refine State.fin_frameC ?_ (by decide) ?_
              · exact h17
              · intro h18
                exact h17.cl_canon h18 _
            · refine FrameR.next ?_
              refine Frame.step ?_ (State.stallCore_frame _ _ _) (by decide)
              refine Frame.step ?_ (State.updCl_same _ _ _ fun _ => rfl) (by decide)
              exact h17
          · rename_i h19
            have h20 := (State.larWrite_frame _ _ _ _).of_eq h19
            refine FrameR.next ?_
            refine Frame.step ?_ (State.stallCore_frame _ _ _) (by decide)
            refine Frame.step ?_ h20 (by decide)
            refine Frame.step ?_ h5 (by decide)
            exact Frame.refl _

theorem State.writeStaged_frame (s : State) (site : Nat) (q : Nat) (d : List Byte) (last : Bool) :
    Frame [.strm] s (State.writeStaged s site q d last) := by
  unfold State.writeStaged
  extract_lets +onlyGivenNames x0
  clear_value x0
  extract_lets +onlyGivenNames x1
  subst x1
  extract_lets +onlyGivenNames x2
  clear_value x2
  refine Frame.upd ?_ rfl
  exact Frame.refl _

theorem State.writeSlab_frame (s : State) (site : Nat) (q : Nat) (d : List Byte) (last : Bool) :
    Frame [.regs, .clusters, .strm] s (State.writeSlab s site q d last) := by
  unfold State.writeSlab
  extract_lets +onlyGivenNames x0
  subst x0
  extract_lets +onlyGivenNames x1
  have h2 : Frame [.regs, .clusters, .strm] s x1 := by
    subst x1
    split
    · extract_lets +onlyGivenNames x3
      subst x3
      exact (State.setPackets_frame _ _).mono (by decide)
    · refine Frame.ite (fun _ => ?_) fun _ => ?_
      · exact Frame.refl _
      · exact (State.setPackets_frame _ _).mono (by decide)
  clear_value x1
  refine Frame.step ?_ (State.wakeReaders_frame _ _) (by decide)
  exact h2

theorem State.pushSlab_frame (s : State) (site : SiteNo) (q : Nat) (slab : Nat) (d : List Byte) (last : Bool) :
    FrameR [.regs, .clusters, .strm] s (State.pushSlab s site q slab d last) := by
  unfold State.pushSlab
  extract_lets +onlyGivenNames x0
  clear_value x0
  refine FrameR.ite (fun _ => ?_) fun _ => ?_
  · extract_lets +onlyGivenNames x1
    have h2 : Frame [.regs, .clusters, .strm] s x1 := by
      subst x1
      exact (State.writeSlab_frame _ _ _ _ _).mono (by decide)
    clear_value x1
    refine State.fin_frameC ?_ (by decide) ?_
    · exact h2
    · intro h3
      exact h2.cl_canon h3 _
  · extract_lets +onlyGivenNames x4
    have h5 : Frame [.regs, .clusters, .strm] s x4 := by
      subst x4
      exact (State.writeSlab_frame _ _ _ _ _).mono (by decide)
    clear_value x4
    refine FrameR.next ?_
    refine Frame.step ?_ (State.stallCore_frame _ _ _) (by decide)
    refine Frame.step ?_ (State.updCl_same _ _ _ fun _ => rfl) (by decide)
    exact h5

-- Scalar

theorem alu_frame (site : SiteNo) (rd : BitVec 4) (ra : BitVec 4) (b : AluB) (immOk : Bool) (zext : Bool) (f : Word → Word → Word) (s : State) :
    FrameR [.clusters, .resil] s (alu site rd ra b immOk zext f s) := by
  unfold alu
  unfold State.core
  refine FrameR.ite (fun _ => ?_) fun _ => ?_
  · beta_reduce
    refine FrameR.ite (fun _ => ?_) fun _ => ?_
    · refine FrameR.step ?_ (State.stop_frame _ _) (by decide)
      exact Frame.refl _
    · refine State.fin_frameC ?_ (by decide) ?_
      · exact Frame.refl _
      · intro h0
        refine Cluster.setS_canon _ _ ?_
        exact cl_canon h0 _
  · refine FrameR.next ?_
    exact Frame.refl _

theorem State.taken_frameC {P : List Part} {s0 : State} {s : State}{site : Nat}{c : Cluster}{target : Word} (hs : Frame P s0 s) (hq : [.clusters, .resil] ⊆ P) (hc : Canon s0 → c.canon = true) :
    FrameR P s0 (State.taken s site c target) := by
  unfold State.taken
  refine FrameR.ite (fun _ => ?_) fun _ => ?_
  · refine FrameR.step ?_ (State.stop_frame _ _) (List.Subset.trans (by decide) hq)
    exact hs
  · refine FrameR.next ?_
    refine State.setCl_frameC ?_ (List.Subset.trans (by decide) hq) ?_
    · exact hs
    · intro h0
      exact hc h0

theorem branch_frame (site : SiteNo) (ra : BitVec 4) (rb : BitVec 4) (off : BitVec 16) (cond : Word → Word → Bool) (s : State) :
    FrameR [.clusters, .resil] s (branch site ra rb off cond s) := by
  unfold branch
  unfold State.core
  refine FrameR.ite (fun _ => ?_) fun _ => ?_
  · beta_reduce
    refine FrameR.ite (fun _ => ?_) fun _ => ?_
    · refine State.taken_frameC ?_ (by decide) ?_
      · exact Frame.refl _
      · intro h0
        exact cl_canon h0 _
    · refine State.fin_frameC ?_ (by decide) ?_
      · exact Frame.refl _
      · intro h1
        exact cl_canon h1 _
  · refine FrameR.next ?_
    exact Frame.refl _

end Sys2Proof.Machine
end

