-- ==== Sys2Proof/Laws/FrameGrid.lean ====
section
/-! SUPPORT. Frames of the shared operations of time, the grid, checks, copies and regions: what each may change, whatever it answers. -/

namespace Sys2Proof.Machine

-- One proof after the other: together they would take a thread each, and with it a stack.
set_option Elab.async false

-- Time

theorem State.alert_frame (s : State) (cause : Nat) :
    Frame [.dev] s (State.alert s cause) := by
  unfold State.alert
  refine Frame.upd ?_ rfl
  exact Frame.refl _

theorem State.clearDrift_frame (s : State) :
    Frame [.clk] s (State.clearDrift s) := by
  unfold State.clearDrift
  refine Frame.upd ?_ rfl
  exact Frame.refl _

theorem State.timePulse_frame (s : State) :
    Frame [.attic, .clk, .regs, .links, .jobs, .points, .strm, .resil, .out, .freeCtr] s (State.timePulse s) := by
  unfold State.timePulse
  extract_lets +onlyGivenNames x0
  clear_value x0
  refine Frame.ite (fun _ => ?_) fun _ => ?_
  · exact Frame.refl _
  · extract_lets +onlyGivenNames x1
    subst x1
    extract_lets +onlyGivenNames x2
    have h3 : Frame [.attic, .clk, .regs, .links, .jobs, .points, .strm, .resil, .out, .freeCtr] s x2 := by
      subst x2
      refine Frame.upd ?_ rfl
      exact Frame.refl _
    clear_value x2
    split
    · refine Frame.step ?_ (State.count_frame _ _ _ _ _) (by decide)
      exact h3
    · extract_lets +onlyGivenNames x4
      clear_value x4
      extract_lets +onlyGivenNames x5
      clear_value x5
      extract_lets +onlyGivenNames x6
      clear_value x6
      extract_lets +onlyGivenNames x7
      have h8 : Frame [.attic, .clk, .regs, .links, .jobs, .points, .strm, .resil, .out, .freeCtr] s x7 := by
        subst x7
        refine Frame.step ?_ (State.useFree_frame _) (by decide)
        exact h3
      clear_value x7
      extract_lets +onlyGivenNames x9
      subst x9
      extract_lets +onlyGivenNames x10
      have h11 : Frame [.attic, .clk, .regs, .links, .jobs, .points, .strm, .resil, .out, .freeCtr] s x10 := by
        subst x10
        refine Frame.upd ?_ rfl
        exact h8
      clear_value x10
      extract_lets +onlyGivenNames x12
      clear_value x12
      extract_lets +onlyGivenNames x13
      have h14 : Frame [.attic, .clk, .regs, .links, .jobs, .points, .strm, .resil, .out, .freeCtr] s x13 := by
        subst x13
        refine Frame.step ?_ (State.setReg_frame _ _ _) (by decide)
        refine Frame.step ?_ (State.setReg_frame _ _ _) (by decide)
        exact h11
      clear_value x13
      extract_lets +onlyGivenNames x15
      have h16 : Frame [.attic, .clk, .regs, .links, .jobs, .points, .strm, .resil, .out, .freeCtr] s x15 := by
        subst x15
        refine Frame.ite (fun _ => ?_) fun _ => ?_
        · refine Frame.step ?_ (State.clearDrift_frame _) (by decide)
          exact h14
        · exact h14
      clear_value x15
      refine Frame.ite (fun _ => ?_) fun _ => ?_
      · refine Frame.step ?_ (State.dueTick_frame _ _) (by decide)
        refine Frame.upd ?_ rfl
        exact h16
      · refine Frame.upd ?_ rfl
        exact h16

theorem execGlbTimecfgWrite_frame (_p : PortNo) (v : Word) (s : State) :
    FrameR [.regs] s (execGlbTimecfgWrite _p v s) := by
  unfold execGlbTimecfgWrite
  refine FrameR.ite (fun _ => ?_) fun _ => ?_
  · refine FrameR.next ?_
    exact Frame.refl _
  · extract_lets +onlyGivenNames x0
    clear_value x0
    extract_lets +onlyGivenNames x1
    have h2 : Frame [.regs] s x1 := by
      subst x1
      exact (State.writeRw_frame _ _ _).mono (by decide)
    clear_value x1
    refine FrameR.next ?_
    refine Frame.ite (fun _ => ?_) fun _ => ?_
    · refine Frame.step ?_ (State.setRegF_frame _ _ _ _ _) (by decide)
      exact h2
    · refine Frame.ite (fun _ => ?_) fun _ => ?_
      · exact h2
      · refine Frame.step ?_ (State.setRegF_frame _ _ _ _ _) (by decide)
        exact h2

theorem State.shortStop_frame (s : State) (r : Nat) :
    Frame [.regs] s (State.shortStop s r) := by
  unfold State.shortStop
  exact (State.count_frame _ _ _ _ _).mono (by decide)

theorem State.setRate_frame (s : State) (r : Nat) (k : Nat) :
    Frame [.regs] s (State.setRate s r k) := by
  unfold State.setRate
  refine Frame.ite (fun _ => ?_) fun _ => ?_
  · exact Frame.refl _
  · refine Frame.step ?_ (State.shortStop_frame _ _) (by decide)
    exact (State.setRegF_frame _ _ _ _ _).mono (by decide)

theorem State.refRestored_frame (s : State) :
    Frame [.attic, .clk, .regs, .jobs] s (State.refRestored s) := by
  unfold State.refRestored
  split
  · refine Frame.ite (fun _ => ?_) fun _ => ?_
    · exact Frame.refl _
    · extract_lets +onlyGivenNames x0
      subst x0
      extract_lets +onlyGivenNames x1
      have h2 : Frame [.attic, .clk, .regs, .jobs] s x1 := by
        subst x1
        refine Frame.upd ?_ rfl
        exact Frame.refl _
      clear_value x1
      extract_lets +onlyGivenNames x3
      have h4 : Frame [.attic, .clk, .regs, .jobs] s x3 := by
        subst x3
        refine Frame.step ?_ (State.post_frame _ _ _ _) (by decide)
        exact h2
      clear_value x3
      refine Frame.ite (fun _ => ?_) fun _ => ?_
      · exact h4
      · refine Frame.step ?_ (State.clearDrift_frame _) (by decide)
        exact h4
  · exact Frame.refl _

theorem State.switchBack_frame (s : State) (r : Nat) :
    Frame [.clk, .regs] s (State.switchBack s r) := by
  unfold State.switchBack
  extract_lets +onlyGivenNames x0
  have h1 : Frame [.clk, .regs] s x0 := by
    subst x0
    exact (State.setRegF_frame _ _ _ _ _).mono (by decide)
  clear_value x0
  extract_lets +onlyGivenNames x2
  have h3 : Frame [.clk, .regs] s x2 := by
    subst x2
    refine Frame.ite (fun _ => ?_) fun _ => ?_
    · refine Frame.step ?_ (State.shortStop_frame _ _) (by decide)
      exact h1
    · exact h1
  clear_value x2
  refine Frame.upd ?_ rfl
  exact h3

theorem State.crossingStall_frame (s : State) (r : Nat) (port : Nat) (n : Nat) :
    Frame [.attic, .regs, .regions, .jobs] s (State.crossingStall s r port n) := by
  unfold State.crossingStall
  extract_lets +onlyGivenNames x0
  have h1 : Frame [.attic, .regs, .regions, .jobs] s x0 := by
    subst x0
    refine Frame.step ?_ (State.setRegF_frame _ _ _ _ _) (by decide)
    exact (State.count_frame _ _ _ _ _).mono (by decide)
  clear_value x0
  extract_lets +onlyGivenNames x2
  subst x2
  extract_lets +onlyGivenNames x3
  clear_value x3
  refine Frame.ite (fun _ => ?_) fun _ => ?_
  · refine Frame.step ?_ (State.setRg_frame _ _ _) (by decide)
    exact h1
  · refine Frame.step ?_ (State.post_frame _ _ _ _) (by decide)
    refine Frame.step ?_ (State.setRg_frame _ _ _) (by decide)
    exact h1

theorem State.alignRegion_frame (s : State) (r : Nat) :
    Frame [.clk] s (State.alignRegion s r) := by
  unfold State.alignRegion
  refine Frame.foldl ?_ ?_
  · exact Frame.refl _
  · intro x0 x1 h2
    extract_lets +onlyGivenNames x3
    clear_value x3
    refine Frame.upd ?_ rfl
    exact h2

theorem State.walkStalls_frame (s : State) (r : Nat) (later : Bool) :
    Frame [.attic, .regs, .regions, .jobs] s (State.walkStalls s r later) := by
  unfold State.walkStalls
  refine Frame.foldl ?_ ?_
  · exact Frame.refl _
  · intro x0 x1 h2
    extract_lets +onlyGivenNames x3
    clear_value x3
    refine Frame.ite (fun _ => ?_) fun _ => ?_
    · refine Frame.step ?_ (State.crossingStall_frame _ _ _ _) (by decide)
      refine Frame.step ?_ (State.crossingStall_frame _ _ _ _) (by decide)
      exact h2
    · exact h2

-- Grid

theorem State.setResilF_frame (s : State) (r : Nat) (lo : Nat) (len : Nat) (v : Nat) :
    Frame [.attic] s (State.setResilF s r lo len v) := by
  unfold State.setResilF
  refine Frame.upd ?_ rfl
  exact Frame.refl _

theorem State.loseRegion_frame (s : State) (r : Nat) :
    Frame [.regs, .larder, .larErr, .clusters, .regions] s (State.loseRegion s r) := by
  unfold State.loseRegion
  refine Frame.step ?_ (State.updRg_frame _ _ _) (by decide)
  refine Frame.foldl ?_ ?_
  · exact Frame.refl _
  · intro x0 x1 h2
    extract_lets +onlyGivenNames x3
    have h4 : Frame [.regs, .larder, .larErr, .clusters, .regions] s x3 := by
      subst x3
      refine Frame.foldl ?_ ?_
      · exact h2
      · intro x5 x6 h7
        refine Frame.ite (fun _ => ?_) fun _ => ?_
        · refine Frame.step ?_ (State.groupOff_frame _ _ _) (by decide)
          exact h7
        · exact h7
    clear_value x3
    refine Frame.step ?_ (State.updCl_frame _ _ _ ?_) (by decide)
    · exact h4
    · intro x8 h9
      unfold Cluster.dark
      rfl

theorem State.attachAll_frame (s : State) :
    Frame [.dev, .regions] s (State.attachAll s) := by
  unfold State.attachAll
  extract_lets +onlyGivenNames x0
  subst x0
  extract_lets +onlyGivenNames x1
  have h2 : Frame [.dev, .regions] s x1 := by
    subst x1
    refine Frame.upd ?_ rfl
    exact Frame.refl _
  clear_value x1
  refine Frame.foldl ?_ ?_
  · exact h2
  · intro x3 x4 h5
    refine Frame.step ?_ (State.updRg_frame _ _ _) (by decide)
    exact h5

theorem State.markRetired_frame (s : State) (r : Nat) (cause : Nat) (forced : Bool) :
    Frame [.attic, .regs] s (State.markRetired s r cause forced) := by
  unfold State.markRetired
  refine Frame.ite (fun _ => ?_) fun _ => ?_
  · exact Frame.refl _
  · extract_lets +onlyGivenNames x0
    subst x0
    extract_lets +onlyGivenNames x1
    have h2 : Frame [.attic, .regs] s x1 := by
      subst x1
      refine Frame.upd ?_ rfl
      exact Frame.refl _
    clear_value x1
    refine Frame.step ?_ (State.setRstate_frame _ _ _) (by decide)
    refine Frame.step ?_ (State.setResilF_frame _ _ _ _ _) (by decide)
    refine Frame.step ?_ (State.setResilF_frame _ _ _ _ _) (by decide)
    exact h2

theorem State.reinstate_frame (s : State) (r : Nat) :
    Frame [.attic, .regs] s (State.reinstate s r) := by
  unfold State.reinstate
  extract_lets +onlyGivenNames x0
  subst x0
  extract_lets +onlyGivenNames x1
  have h2 : Frame [.attic, .regs] s x1 := by
    subst x1
    refine Frame.upd ?_ rfl
    exact Frame.refl _
  clear_value x1
  refine Frame.step ?_ (State.setRstate_frame _ _ _) (by decide)
  refine Frame.step ?_ (State.setResilF_frame _ _ _ _ _) (by decide)
  exact h2

theorem State.reinstateColumn_frame (s : State) (x : Nat) :
    Frame [.attic, .regs] s (State.reinstateColumn s x) := by
  unfold State.reinstateColumn
  refine Frame.foldl ?_ ?_
  · exact Frame.refl _
  · intro x0 x1 h2
    refine Frame.ite (fun _ => ?_) fun _ => ?_
    · refine Frame.step ?_ (State.reinstate_frame _ _) (by decide)
      exact h2
    · exact h2

theorem State.buildColumn_frame (s : State) (x : Nat) :
    Frame [.regs] s (State.buildColumn s x) := by
  unfold State.buildColumn
  extract_lets +onlyGivenNames x0
  clear_value x0
  extract_lets +onlyGivenNames x1
  clear_value x1
  extract_lets +onlyGivenNames x2
  subst x2
  extract_lets +onlyGivenNames x3
  clear_value x3
  extract_lets +onlyGivenNames x4
  clear_value x4
  extract_lets +onlyGivenNames x5
  clear_value x5
  extract_lets +onlyGivenNames x6
  clear_value x6
  extract_lets +onlyGivenNames x7
  have h8 : Frame [.regs] s x7 := by
    subst x7
    refine Frame.step ?_ (State.setReg_frame _ _ _) (by decide)
    exact (State.setReg_frame _ _ _).mono (by decide)
  clear_value x7
  refine Frame.foldl ?_ ?_
  · exact h8
  · intro x9 x10 h11
    extract_lets +onlyGivenNames x12
    clear_value x12
    refine Frame.ite (fun _ => ?_) fun _ => ?_
    · refine Frame.step ?_ (State.setRstate_frame _ _ _) (by decide)
      exact h11
    · refine Frame.ite (fun _ => ?_) fun _ => ?_
      · refine Frame.step ?_ (State.setRstate_frame _ _ _) (by decide)
        exact h11
      · refine Frame.ite (fun _ => ?_) fun _ => ?_
        · refine Frame.step ?_ (State.setRstate_frame _ _ _) (by decide)
          exact h11
        · exact h11

theorem State.buildGrid_frame (s : State) :
    Frame [.dev, .regs, .regions] s (State.buildGrid s) := by
  unfold State.buildGrid
  extract_lets +onlyGivenNames x0
  have h1 : Frame [.dev, .regs, .regions] s x0 := by
    subst x0
    refine Frame.foldl ?_ ?_
    · exact Frame.refl _
    · intro x2 x3 h4
      refine Frame.step ?_ (State.buildColumn_frame _ _) (by decide)
      exact h4
  clear_value x0
  extract_lets +onlyGivenNames x5
  subst x5
  extract_lets +onlyGivenNames x6
  clear_value x6
  extract_lets +onlyGivenNames x7
  clear_value x7
  extract_lets +onlyGivenNames x8
  clear_value x8
  extract_lets +onlyGivenNames x9
  have h10 : Frame [.dev, .regs, .regions] s x9 := by
    subst x9
    refine Frame.step ?_ (State.setReg_frame _ _ _) (by decide)
    exact h1
  clear_value x9
  extract_lets +onlyGivenNames x11
  have h12 : Frame [.dev, .regs, .regions] s x11 := by
    subst x11
    refine Frame.step ?_ (State.setReg_frame _ _ _) (by decide)
    exact h10
  clear_value x11
  extract_lets +onlyGivenNames x13
  subst x13
  extract_lets +onlyGivenNames x14
  have h15 : Frame [.dev, .regs, .regions] s x14 := by
    subst x14
    refine Frame.step ?_ (State.attachAll_frame _) (by decide)
    refine Frame.upd ?_ rfl
    exact h12
  clear_value x14
  refine Frame.ite (fun _ => ?_) fun _ => ?_
  · exact h15
  · refine Frame.upd ?_ rfl
    exact h15

theorem State.runKnown_frame (s : State) (r : Nat) :
    FrameP [.attic, .regs, .freeCtr] s (State.runKnown s r) := by
  unfold State.runKnown
  extract_lets +onlyGivenNames x0
  clear_value x0
  extract_lets +onlyGivenNames x1
  subst x1
  extract_lets +onlyGivenNames x2
  clear_value x2
  extract_lets +onlyGivenNames x3
  have h4 : Frame [.attic, .regs, .freeCtr] s x3 := by
    subst x3
    refine Frame.step ?_ (State.count_frame _ _ _ _ _) (by decide)
    exact (State.useFree_frame _).mono (by decide)
  clear_value x3
  refine FrameP.ite (fun _ => ?_) fun _ => ?_
  · refine FrameP.pair ?_
    exact h4
  · refine FrameP.pair ?_
    refine Frame.foldl ?_ ?_
    · refine Frame.step ?_ (State.count_frame _ _ _ _ _) (by decide)
      exact h4
    · intro x5 x6 h7
      refine Frame.step ?_ (State.recordRepair_frame _ _) (by decide)
      exact h7

theorem State.postRetired_frame (s : State) (r : Nat) (kind : Nat) (forced : Bool) :
    Frame [.attic, .dev, .regs, .jobs] s (State.postRetired s r kind forced) := by
  unfold State.postRetired
  refine Frame.step ?_ (State.alert_frame _ _) (by decide)
  exact (State.post_frame _ _ _ _).mono (by decide)

theorem State.dropWaves_frame (s : State) :
    Frame [.slabs] s (State.dropWaves s) := by
  unfold State.dropWaves
  refine Frame.foldl ?_ ?_
  · exact Frame.refl _
  · intro x0 x1 h2
    refine Frame.ite (fun _ => ?_) fun _ => ?_
    · exact h2
    · refine Frame.step ?_ (State.updSlab_frame _ _ _) (by decide)
      exact h2

theorem State.dropChecks_frame (s : State) (p : Check → Bool) :
    Frame [.regs, .clusters, .resil] s (State.dropChecks s p) := by
  unfold State.dropChecks
  extract_lets +onlyGivenNames x0
  subst x0
  extract_lets +onlyGivenNames x1
  have h2 : Frame [.regs, .clusters, .resil] s x1 := by
    subst x1
    refine Frame.upd ?_ rfl
    exact Frame.refl _
  clear_value x1
  refine Frame.step ?_ (State.unstall_frame _ _ _) (by decide)
  exact h2

theorem State.abandonBy_frame (s : State) (lost : Nat → Nat → Bool) :
    Frame [.regs, .clusters, .resil] s (State.abandonBy s lost) := by
  unfold State.abandonBy
  extract_lets +onlyGivenNames x0
  have h1 : Frame [.regs, .clusters, .resil] s x0 := by
    subst x0
    exact (State.dropChecks_frame _ _).mono (by decide)
  clear_value x0
  refine Frame.upd ?_ rfl
  exact h1

theorem State.abandonIn_frame (s : State) (r : Nat) :
    Frame [.regs, .clusters, .resil] s (State.abandonIn s r) := by
  unfold State.abandonIn
  exact (State.abandonBy_frame _ _).mono (by decide)

theorem State.toDark_frame (s : State) (r : Nat) :
    Frame [.regs, .larder, .larErr, .clusters, .regions, .strm] s (State.toDark s r) := by
  unfold State.toDark
  extract_lets +onlyGivenNames x0
  have h1 : Frame [.regs, .larder, .larErr, .clusters, .regions, .strm] s x0 := by
    subst x0
    refine Frame.step ?_ (State.setRegF_frame _ _ _ _ _) (by decide)
    exact (State.setRstate_frame _ _ _).mono (by decide)
  clear_value x0
  extract_lets +onlyGivenNames x2
  have h3 : Frame [.regs, .larder, .larErr, .clusters, .regions, .strm] s x2 := by
    subst x2
    refine Frame.step ?_ (State.setRegF_frame _ _ _ _ _) (by decide)
    refine Frame.step ?_ (State.setRegF_frame _ _ _ _ _) (by decide)
    exact h1
  clear_value x2
  extract_lets +onlyGivenNames x4
  have h5 : Frame [.regs, .larder, .larErr, .clusters, .regions, .strm] s x4 := by
    subst x4
    refine Frame.step ?_ (State.abandonPackets_frame _ _) (by decide)
    refine Frame.step ?_ (State.loseRegion_frame _ _) (by decide)
    refine Frame.step ?_ (State.setSwitches_frame _ _ _ _ _) (by decide)
    exact h3
  clear_value x4
  refine Frame.step ?_ (State.updRg_frame _ _ _) (by decide)
  exact h5

theorem State.retireReserve_frame (s : State) (r : Nat) (cause : Nat) (kind : Nat) (forced : Bool) :
    Frame [.attic, .dev, .regs, .larder, .larErr, .clusters, .regions, .jobs, .strm, .resil] s (State.retireReserve s r cause kind forced) := by
  unfold State.retireReserve
  refine Frame.ite (fun _ => ?_) fun _ => ?_
  · exact Frame.refl _
  · extract_lets +onlyGivenNames x0
    clear_value x0
    refine Frame.step ?_ (State.postRetired_frame _ _ _ _) (by decide)
    refine Frame.step ?_ (State.updRg_frame _ _ _) (by decide)
    refine Frame.step ?_ (State.toDark_frame _ _) (by decide)
    refine Frame.step ?_ (State.abandonIn_frame _ _) (by decide)
    exact (State.markRetired_frame _ _ _ _).mono (by decide)

theorem State.pendRetirement_frame (s : State) (r : Nat) (cause : Nat) :
    Frame [.attic, .resil] s (State.pendRetirement s r cause) := by
  unfold State.pendRetirement
  extract_lets +onlyGivenNames x0
  have h1 : Frame [.attic, .resil] s x0 := by
    subst x0
    refine Frame.step ?_ (State.setResilF_frame _ _ _ _ _) (by decide)
    exact (State.setResilF_frame _ _ _ _ _).mono (by decide)
  clear_value x0
  refine Frame.upd ?_ rfl
  exact h1

theorem State.deferRetirement_frame (s : State) (r : Nat) :
    Frame [.attic] s (State.deferRetirement s r) := by
  unfold State.deferRetirement
  extract_lets +onlyGivenNames x0
  have h1 : Frame [.attic] s x0 := by
    subst x0
    refine Frame.step ?_ (State.setResilF_frame _ _ _ _ _) (by decide)
    refine Frame.step ?_ (State.setResilF_frame _ _ _ _ _) (by decide)
    exact (State.setResilF_frame _ _ _ _ _).mono (by decide)
  clear_value x0
  refine Frame.upd ?_ rfl
  exact h1

theorem State.planRetirement_frame (s : State) (r : Nat) (cause : Nat) :
    Frame [.attic, .resil] s (State.planRetirement s r cause) := by
  unfold State.planRetirement
  refine Frame.ite (fun _ => ?_) fun _ => ?_
  · exact Frame.refl _
  · refine Frame.ite (fun _ => ?_) fun _ => ?_
    · exact (State.deferRetirement_frame _ _).mono (by decide)
    · exact (State.pendRetirement_frame _ _ _).mono (by decide)

theorem State.suspect_frame (s : State) (r : Nat) :
    Frame [.attic, .dev, .regs, .larder, .larErr, .clusters, .regions, .jobs, .strm, .resil] s (State.suspect s r) := by
  unfold State.suspect
  extract_lets +onlyGivenNames x0
  subst x0
  extract_lets +onlyGivenNames x1
  have h2 : Frame [.attic, .dev, .regs, .larder, .larErr, .clusters, .regions, .jobs, .strm, .resil] s x1 := by
    subst x1
    refine Frame.upd ?_ rfl
    exact Frame.refl _
  subst x1
  refine Frame.ite (fun _ => ?_) fun _ => ?_
  · exact h2
  · refine Frame.ite (fun _ => ?_) fun _ => ?_
    · refine Frame.step ?_ (State.retireReserve_frame _ _ _ _ _) (by decide)
      exact h2
    · refine Frame.step ?_ (State.pendRetirement_frame _ _ _) (by decide)
      exact h2

-- Belay

theorem State.placeStream_frame (s : State) (site : Nat) (n : Nat) :
    Frame [.larder, .larErr, .clusters, .freeCtr] s (State.placeStream s site n) := by
  unfold State.placeStream
  extract_lets +onlyGivenNames x0
  clear_value x0
  refine Frame.step ?_ (State.larPut_frame _ _ _ _) (by decide)
  exact (State.useFree_frame _).mono (by decide)

theorem State.replayOn_frame (s : State) (site : Nat) (x : Check) :
    FrameP [.larder, .larErr, .clusters, .freeCtr] s (State.replayOn s site x) := by
  unfold State.replayOn
  extract_lets +onlyGivenNames x0
  subst x0
  extract_lets +onlyGivenNames x1
  have h2 : Frame [.larder, .larErr, .clusters, .freeCtr] s x1 := by
    subst x1
    refine Frame.ite (fun _ => ?_) fun _ => ?_
    · exact Frame.refl _
    · exact (State.placeStream_frame _ _ _).mono (by decide)
  clear_value x1
  extract_lets +onlyGivenNames x3
  have h4 : Frame [.larder, .larErr, .clusters, .freeCtr] s x3 := by
    subst x3
    refine Frame.step ?_ (State.updCl_frame _ _ _ ?_) (by decide)
    · exact h2
    · intro x5 h6
      split
      · exact h6
      · exact h6
  clear_value x3
  refine FrameP.pair ?_
  exact h4

theorem State.setCheck_frame (s : State) (x : Check) :
    Frame [.resil] s (State.setCheck s x) := by
  unfold State.setCheck
  refine Frame.upd ?_ rfl
  exact Frame.refl _

theorem State.checkEnds_frame (s : State) (x : Check) :
    Frame [.regs, .clusters, .jobs, .resil] s (State.checkEnds s x) := by
  unfold State.checkEnds
  refine Frame.step ?_ (State.updStep_frame _ _) (by decide)
  exact (State.dropChecks_frame _ _).mono (by decide)

theorem State.setRaised_frame (s : State) (n : Nat) :
    Frame [.regs] s (State.setRaised s n) := by
  unfold State.setRaised
  exact (State.setReg_frame _ _ _).mono (by decide)

theorem State.raiseRate_frame (s : State) :
    Frame [.regs, .jobs] s (State.raiseRate s) := by
  unfold State.raiseRate
  split
  · refine Frame.ite (fun _ => ?_) fun _ => ?_
    · exact Frame.refl _
    · refine Frame.step ?_ (State.updStep_frame _ _) (by decide)
      exact (State.setRaised_frame _ _).mono (by decide)
  · exact Frame.refl _

theorem State.arbitrate_frame (s : State) (x : Check) (outcome : Nat) :
    Frame [.attic, .dev, .regs, .larder, .larErr, .clusters, .regions, .jobs, .strm, .resil, .freeCtr] s (State.arbitrate s x outcome) := by
  unfold State.arbitrate
  extract_lets +onlyGivenNames x0
  clear_value x0
  extract_lets +onlyGivenNames x1
  clear_value x1
  extract_lets +onlyGivenNames x2
  clear_value x2
  extract_lets +onlyGivenNames x3
  have h4 : Frame [.attic, .dev, .regs, .larder, .larErr, .clusters, .regions, .jobs, .strm, .resil, .freeCtr] s x3 := by
    subst x3
    refine Frame.ite (fun _ => ?_) fun _ => ?_
    · exact (State.useFree_frame _).mono (by decide)
    · exact Frame.refl _
  clear_value x3
  extract_lets +onlyGivenNames x5
  have h6 : Frame [.attic, .dev, .regs, .larder, .larErr, .clusters, .regions, .jobs, .strm, .resil, .freeCtr] s x5 := by
    subst x5
    refine Frame.step ?_ (State.post_frame _ _ _ _) (by decide)
    exact h4
  clear_value x5
  extract_lets +onlyGivenNames x7
  have h8 : Frame [.attic, .dev, .regs, .larder, .larErr, .clusters, .regions, .jobs, .strm, .resil, .freeCtr] s x7 := by
    subst x7
    refine Frame.step ?_ (State.count_frame _ _ _ _ _) (by decide)
    refine Frame.step ?_ (State.raiseRate_frame _) (by decide)
    exact h6
  clear_value x7
  extract_lets +onlyGivenNames x9
  have h10 : Frame [.attic, .dev, .regs, .larder, .larErr, .clusters, .regions, .jobs, .strm, .resil, .freeCtr] s x9 := by
    subst x9
    refine Frame.step ?_ (State.updStep_frame _ _) (by decide)
    refine Frame.step ?_ (State.checkEnds_frame _ _) (by decide)
    exact h8
  clear_value x9
  refine Frame.ite (fun _ => ?_) fun _ => ?_
  · extract_lets +onlyGivenNames x11
    have h12 : FrameP [.attic, .dev, .regs, .larder, .larErr, .clusters, .regions, .jobs, .strm, .resil, .freeCtr] s x11 := by
      subst x11
      refine FrameP.step ?_ (State.runKnown_frame _ _) (by decide)
      exact h10
    clear_value x11
    refine Frame.ite (fun _ => ?_) fun _ => ?_
    · refine Frame.step ?_ (State.suspect_frame _ _) (by decide)
      refine FrameP.fst ?_
      exact h12
    · refine Frame.step ?_ (State.retireReserve_frame _ _ _ _ _) (by decide)
      refine FrameP.fst ?_
      exact h12
  · refine Frame.step ?_ (State.report_frame _ _) (by decide)
    exact h10

-- Copy

theorem State.unitRead_frame (s : State) (u : MUnit) (a : Nat) (n : Nat) :
    FrameP [.attic, .regs, .larder, .larErr, .conflicts, .clusters, .regions, .resil, .freeCtr] s (State.unitRead s u a n) := by
  unfold State.unitRead
  refine FrameP.ite (fun _ => ?_) fun _ => ?_
  · refine FrameP.step ?_ (State.larRead_frame _ _ _ _) (by decide)
    exact Frame.refl _
  · refine FrameP.step ?_ (State.celRead_frame _ _ _ _) (by decide)
    exact Frame.refl _

theorem State.unitWrite_frame (s : State) (u : MUnit) (a : Nat) (d : List Byte) :
    FrameP [.attic, .regs, .larder, .larErr, .cellar, .celErr, .conflicts, .clusters, .regions, .resil, .freeCtr] s (State.unitWrite s u a d) := by
  unfold State.unitWrite
  refine FrameP.ite (fun _ => ?_) fun _ => ?_
  · refine FrameP.step ?_ (State.larWrite_frame _ _ _ _) (by decide)
    exact Frame.refl _
  · refine FrameP.step ?_ (State.celWrite_frame _ _ _ _) (by decide)
    exact Frame.refl _

theorem fetchBytes_frame (u : MUnit) (s : State) (c : Option (Nat × List Byte)) (l : List Nat) :
    FrameE [.attic, .regs, .larder, .larErr, .conflicts, .clusters, .regions, .resil, .freeCtr] s (fetchBytes u s c l) := by
  induction l generalizing s c with
  | nil =>
    rintro t (⟨a, ⟨⟩⟩ | ⟨⟨⟩⟩)
    exact Frame.refl _
  | cons a l ih =>
    have go (t : State) (h : Frame [.attic, .regs, .larder, .larErr, .conflicts, .clusters, .regions, .resil, .freeCtr] s t) (d : List Byte) :
        FrameE [.attic, .regs, .larder, .larErr, .conflicts, .clusters, .regions, .resil, .freeCtr] s ((fetchBytes u t (some (a / 64, d)) l).map fun r => (r.1, r.2.1, byteAt d (a % 64) :: r.2.2)) := by
      have hi := ih t (some (a / 64, d))
      revert hi
      generalize fetchBytes u t (some (a / 64, d)) l = f
      intro hi v hv
      refine Frame.step h (hi v ?_) (by decide)
      match f with
      | .ok (w, b) =>
        obtain ⟨_, ⟨⟩⟩ | ⟨⟨⟩⟩ := hv
        exact .inl ⟨b, rfl⟩
      | .error (.held w) =>
        obtain ⟨_, ⟨⟩⟩ | ⟨⟨⟩⟩ := hv
        exact .inr rfl
      | .error (.undef c) => obtain ⟨_, ⟨⟩⟩ | ⟨⟨⟩⟩ := hv
    rw [fetchBytes.eq_def]
    dsimp only
    split
    · exact go s (Frame.refl _) _
    · split
      · rename_i h
        exact go _ ((State.unitRead_frame _ _ _ _).of_eq h) _
      · rename_i h
        rintro t (⟨_, ⟨⟩⟩ | ⟨⟨⟩⟩)
        exact (State.unitRead_frame _ _ _ _).of_eq h

theorem State.writeRun_frame (s : State) (u : MUnit) (r : Nat × List Nat) :
    FrameF [.attic, .regs, .larder, .larErr, .cellar, .celErr, .conflicts, .clusters, .regions, .resil, .freeCtr] s (State.writeRun s u r) := by
  unfold State.writeRun
  extract_lets +onlyGivenNames x0
  clear_value x0
  extract_lets +onlyGivenNames x1
  clear_value x1
  extract_lets +onlyGivenNames x2
  subst x2
  beta_reduce
  refine FrameF.ite (fun _ => ?_) fun _ => ?_
  · refine FrameF.ite (fun _ => ?_) fun _ => ?_
    · extract_lets +onlyGivenNames x3
      clear_value x3
      split
      · rename_i h4
        have h5 := (State.unitWrite_frame _ _ _ _).of_eq h4
        refine FrameF.ok ?_
        exact h5
      · rename_i h6
        have h7 := (State.unitWrite_frame _ _ _ _).of_eq h6
        refine FrameF.held ?_
        exact h7
    · split
      · rename_i h8
        have h9 := (State.unitRead_frame _ _ _ _).of_eq h8
        extract_lets +onlyGivenNames x10
        clear_value x10
        split
        · rename_i h11
          have h12 := (State.unitWrite_frame _ _ _ _).of_eq h11
          refine FrameF.ok ?_
          refine Frame.step ?_ h12 (by decide)
          refine Frame.step ?_ h9 (by decide)
          exact Frame.refl _
        · rename_i h13
          have h14 := (State.unitWrite_frame _ _ _ _).of_eq h13
          refine FrameF.held ?_
          refine Frame.step ?_ h14 (by decide)
          refine Frame.step ?_ h9 (by decide)
          exact Frame.refl _
      · rename_i h15
        have h16 := (State.unitRead_frame _ _ _ _).of_eq h15
        refine FrameF.held ?_
        refine Frame.step ?_ h16 (by decide)
        exact Frame.refl _
  · split
    · rename_i h17
      have h18 := (State.unitRead_frame _ _ _ _).of_eq h17
      refine FrameF.ite (fun _ => ?_) fun _ => ?_
      · extract_lets +onlyGivenNames x19
        clear_value x19
        split
        · rename_i h20
          have h21 := (State.unitWrite_frame _ _ _ _).of_eq h20
          refine FrameF.ok ?_
          refine Frame.step ?_ h21 (by decide)
          refine Frame.step ?_ h18 (by decide)
          exact Frame.refl _
        · rename_i h22
          have h23 := (State.unitWrite_frame _ _ _ _).of_eq h22
          refine FrameF.held ?_
          refine Frame.step ?_ h23 (by decide)
          refine Frame.step ?_ h18 (by decide)
          exact Frame.refl _
      · split
        · rename_i h24
          have h25 := (State.unitRead_frame _ _ _ _).of_eq h24
          extract_lets +onlyGivenNames x26
          clear_value x26
          split
          · rename_i h27
            have h28 := (State.unitWrite_frame _ _ _ _).of_eq h27
            refine FrameF.ok ?_
            refine Frame.step ?_ h28 (by decide)
            refine Frame.step ?_ h25 (by decide)
            refine Frame.step ?_ h18 (by decide)
            exact Frame.refl _
          · rename_i h29
            have h30 := (State.unitWrite_frame _ _ _ _).of_eq h29
            refine FrameF.held ?_
            refine Frame.step ?_ h30 (by decide)
            refine Frame.step ?_ h25 (by decide)
            refine Frame.step ?_ h18 (by decide)
            exact Frame.refl _
        · rename_i h31
          have h32 := (State.unitRead_frame _ _ _ _).of_eq h31
          refine FrameF.held ?_
          refine Frame.step ?_ h32 (by decide)
          refine Frame.step ?_ h18 (by decide)
          exact Frame.refl _
    · rename_i h33
      have h34 := (State.unitRead_frame _ _ _ _).of_eq h33
      refine FrameF.held ?_
      refine Frame.step ?_ h34 (by decide)
      exact Frame.refl _

theorem State.writeElems_frame (s : State) (u : MUnit) (e : Nat) (ws : List (Nat × Nat)) :
    FrameF [.attic, .regs, .larder, .larErr, .cellar, .celErr, .conflicts, .clusters, .regions, .resil, .freeCtr] s (State.writeElems s u e ws) := by
  unfold State.writeElems
  refine FrameF.fold ?_ ?_
  · exact Frame.refl _
  · intro x0 x1 h2
    refine FrameF.step ?_ (State.writeRun_frame _ _ _) (by decide)
    exact h2

theorem State.writeBatch_frame (s : State) (u : MUnit) (d : CopyD) (ws : List (Nat × Nat)) :
    FrameF [.attic, .regs, .larder, .larErr, .cellar, .celErr, .conflicts, .clusters, .regions, .resil, .freeCtr] s (State.writeBatch s u d ws) := by
  unfold State.writeBatch
  refine FrameF.ite (fun _ => ?_) fun _ => ?_
  · unfold State.readElems
    split
    · rename_i h0
      have h1 := (fetchBytes_frame _ _ _ _).of_ok h0
      beta_reduce
      refine FrameF.step ?_ (State.writeElems_frame _ _ _ _) (by decide)
      refine Frame.step ?_ h1 (by decide)
      exact Frame.refl _
    · rename_i h2
      have h3 := (fetchBytes_frame _ _ _ _).of_error h2
      refine FrameF.step ?_ h3 (by decide)
      exact Frame.refl _
  · refine FrameF.step ?_ (State.writeElems_frame _ _ _ _) (by decide)
    exact Frame.refl _

theorem State.runBatches_frame (su : MUnit) (du : MUnit) (d : CopyD) (n : List (List Move)) (c : LastRead) (s : State) :
    FrameF [.attic, .regs, .larder, .larErr, .cellar, .celErr, .conflicts, .clusters, .regions, .resil, .freeCtr] s (State.runBatches su du d n c s) := by
  induction n generalizing s c with
  | nil =>
    rw [State.runBatches]
    refine FrameF.ok ?_
    exact Frame.refl _
  | cons a l ih =>
    rw [State.runBatches]
    split
    · rename_i h0
      have h1 := (fetchBytes_frame _ _ _ _).of_error h0
      refine FrameF.step ?_ h1 (by decide)
      exact Frame.refl _
    · rename_i h2
      have h3 := (fetchBytes_frame _ _ _ _).of_ok h2
      refine FrameF.bind ?_ ?_
      · refine FrameF.step ?_ (State.writeBatch_frame _ _ _ _) (by decide)
        refine Frame.step ?_ h3 (by decide)
        exact Frame.refl _
      · intro x4 h5
        refine FrameF.step ?_ (ih _ _) (by decide)
        exact h5

theorem State.copyMove_frame (s : State) (d : CopyD) (v : CopyV) (su : MUnit) (du : MUnit) (iu : MUnit) (idx : List Nat) :
    FrameF [.attic, .regs, .larder, .larErr, .cellar, .celErr, .conflicts, .clusters, .regions, .resil, .freeCtr] s (State.copyMove s d v su du iu idx) := by
  unfold State.copyMove
  extract_lets +onlyGivenNames x0
  clear_value x0
  extract_lets +onlyGivenNames x1
  clear_value x1
  extract_lets +onlyGivenNames x2
  clear_value x2
  extract_lets +onlyGivenNames x3
  clear_value x3
  refine FrameF.ite (fun _ => ?_) fun _ => ?_
  · exact FrameF.undef
  · extract_lets +onlyGivenNames x4
    have h5 : Frame [.attic, .regs, .larder, .larErr, .cellar, .celErr, .conflicts, .clusters, .regions, .resil, .freeCtr] s x4 := by
      subst x4
      refine Frame.ite (fun _ => ?_) fun _ => ?_
      · exact (State.useFree_frame _).mono (by decide)
      · exact Frame.refl _
    clear_value x4
    refine FrameF.step ?_ (State.runBatches_frame _ _ _ _ _ _) (by decide)
    exact h5

theorem State.copyRun_frame (s : State) (own : Nat) (desc : List Byte) :
    FrameF [.attic, .regs, .larder, .larErr, .cellar, .celErr, .conflicts, .clusters, .regions, .resil, .freeCtr] s (State.copyRun s own desc) := by
  unfold State.copyRun
  extract_lets +onlyGivenNames x0
  subst x0
  split
  · exact FrameF.undef
  · extract_lets +onlyGivenNames x1
    clear_value x1
    refine FrameF.ite (fun _ => ?_) fun _ => ?_
    · exact FrameF.undef
    · split
      · rename_i h2
        have h3 := (State.unitRead_frame _ _ _ _).of_eq h2
        refine FrameF.held ?_
        refine Frame.step ?_ h3 (by decide)
        exact Frame.refl _
      · rename_i h4
        have h5 := (State.unitRead_frame _ _ _ _).of_eq h4
        extract_lets +onlyGivenNames x6
        subst x6
        refine FrameF.ite (fun _ => ?_) fun _ => ?_
        · refine FrameF.ok ?_
          refine Frame.step ?_ h5 (by decide)
          exact Frame.refl _
        · split
          · extract_lets +onlyGivenNames x7
            subst x7
            extract_lets +onlyGivenNames x8
            subst x8
            refine FrameF.ite (fun _ => ?_) fun _ => ?_
            · exact FrameF.undef
            · refine FrameF.ite (fun _ => ?_) fun _ => ?_
              · exact FrameF.undef
              · unfold State.readElems
                split
                · rename_i h9
                  have h10 := (fetchBytes_frame _ _ _ _).of_ok h9
                  beta_reduce
                  refine FrameF.ite (fun _ => ?_) fun _ => ?_
                  · exact FrameF.undef
                  · refine FrameF.step ?_ (State.copyMove_frame _ _ _ _ _ _ _) (by decide)
                    refine Frame.step ?_ h10 (by decide)
                    refine Frame.step ?_ h5 (by decide)
                    exact Frame.refl _
                · rename_i h11
                  have h12 := (fetchBytes_frame _ _ _ _).of_error h11
                  refine FrameF.step ?_ h12 (by decide)
                  refine Frame.step ?_ h5 (by decide)
                  exact Frame.refl _
          · exact FrameF.undef

theorem State.copyStart_frame (s : State) (site : Nat) (by_ : CopyBy) (desc : List Byte) :
    FrameF [.attic, .regs, .larder, .larErr, .cellar, .celErr, .conflicts, .clusters, .regions, .resil, .freeCtr] s (State.copyStart s site by_ desc) := by
  unfold State.copyStart
  extract_lets +onlyGivenNames x0
  have h1 : Frame [.attic, .regs, .larder, .larErr, .cellar, .celErr, .conflicts, .clusters, .regions, .resil, .freeCtr] s x0 := by
    subst x0
    refine Frame.step ?_ (State.updCl_same _ _ _ fun _ => rfl) (by decide)
    exact Frame.refl _
  clear_value x0
  split
  · rename_i h2
    have h3 := (State.copyRun_frame _ _ _).of_held h2
    refine FrameF.ok ?_
    refine Frame.step ?_ (State.updCl_same _ _ _ fun _ => rfl) (by decide)
    refine Frame.step ?_ h3 (by decide)
    exact h1
  · rename_i h4
    refine FrameF.step ?_ (State.copyRun_frame _ _ _) (by decide)
    exact h1

-- Region

theorem State.clipRate_frame (s : State) (r : Nat) :
    Frame [.regs] s (State.clipRate s r) := by
  unfold State.clipRate
  refine Frame.ite (fun _ => ?_) fun _ => ?_
  · exact (State.setRate_frame _ _ _).mono (by decide)
  · exact Frame.refl _

theorem State.wakeStart_frame (s : State) (r : Nat) :
    Frame [.regs, .regions] s (State.wakeStart s r) := by
  unfold State.wakeStart
  refine Frame.ite (fun _ => ?_) fun _ => ?_
  · exact Frame.refl _
  · refine Frame.step ?_ (State.updRg_frame _ _ _) (by decide)
    refine Frame.step ?_ (State.setSwitches_frame _ _ _ _ _) (by decide)
    exact (State.preemptWatch_frame _ _).mono (by decide)

theorem State.wakeDone_frame (s : State) (r : Nat) :
    Frame [.clk, .regs, .larder, .larErr, .clusters, .regions] s (State.wakeDone s r) := by
  unfold State.wakeDone
  extract_lets +onlyGivenNames x0
  clear_value x0
  extract_lets +onlyGivenNames x1
  have h2 : Frame [.clk, .regs, .larder, .larErr, .clusters, .regions] s x1 := by
    subst x1
    refine Frame.ite (fun _ => ?_) fun _ => ?_
    · refine Frame.foldl ?_ ?_
      · exact Frame.refl _
      · intro x3 x4 h5
        refine Frame.foldl ?_ ?_
        · exact h5
        · intro x6 x7 h8
          refine Frame.step ?_ (State.groupOn_frame _ _ _) (by decide)
          exact h8
    · exact (State.setRetention_frame _ _ _).mono (by decide)
  clear_value x1
  extract_lets +onlyGivenNames x9
  have h10 : Frame [.clk, .regs, .larder, .larErr, .clusters, .regions] s x9 := by
    subst x9
    refine Frame.ite (fun _ => ?_) fun _ => ?_
    · refine Frame.step ?_ (State.setRegF_frame _ _ _ _ _) (by decide)
      exact h2
    · exact h2
  clear_value x9
  extract_lets +onlyGivenNames x11
  have h12 : Frame [.clk, .regs, .larder, .larErr, .clusters, .regions] s x11 := by
    subst x11
    refine Frame.step ?_ (State.setRegF_frame _ _ _ _ _) (by decide)
    refine Frame.step ?_ (State.setRegF_frame _ _ _ _ _) (by decide)
    refine Frame.step ?_ (State.setRstate_frame _ _ _) (by decide)
    exact h10
  clear_value x11
  extract_lets +onlyGivenNames x13
  have h14 : Frame [.clk, .regs, .larder, .larErr, .clusters, .regions] s x13 := by
    subst x13
    refine Frame.step ?_ (State.setRegF_frame _ _ _ _ _) (by decide)
    exact h12
  clear_value x13
  refine Frame.step ?_ (State.alignRegion_frame _ _) (by decide)
  refine Frame.step ?_ (State.updRg_frame _ _ _) (by decide)
  exact h14

theorem State.reserve_frame (s : State) (sl : Nat) (r : Nat) (amps : Nat) :
    Frame [.slabs] s (State.reserve s sl r amps) := by
  unfold State.reserve
  exact (State.updSlab_frame _ _ _).mono (by decide)

theorem State.sliceOff_frame (s : State) (r : Nat) :
    Frame [.regs, .cellar, .celErr, .regions] s (State.sliceOff s r) := by
  unfold State.sliceOff
  refine Frame.step ?_ (State.updRg_frame _ _ _) (by decide)
  refine Frame.step ?_ (State.celLose_frame _ _) (by decide)
  refine Frame.step ?_ (State.setReg_frame _ _ _) (by decide)
  exact (State.setRegF_frame _ _ _ _ _).mono (by decide)

theorem State.railsOff_frame (s : State) (r : Nat) :
    Frame [.clk, .regs, .larder, .larErr, .cellar, .celErr, .clusters, .regions, .strm] s (State.railsOff s r) := by
  unfold State.railsOff
  extract_lets +onlyGivenNames x0
  have h1 : Frame [.clk, .regs, .larder, .larErr, .cellar, .celErr, .clusters, .regions, .strm] s x0 := by
    subst x0
    refine Frame.step ?_ (State.sliceOff_frame _ _) (by decide)
    exact (State.toDark_frame _ _).mono (by decide)
  clear_value x0
  extract_lets +onlyGivenNames x2
  subst x2
  extract_lets +onlyGivenNames x3
  have h4 : Frame [.clk, .regs, .larder, .larErr, .cellar, .celErr, .clusters, .regions, .strm] s x3 := by
    subst x3
    refine Frame.upd ?_ rfl
    exact h1
  clear_value x3
  refine Frame.step ?_ (State.updRg_frame _ _ _) (by decide)
  refine Frame.step ?_ (State.setRegF_frame _ _ _ _ _) (by decide)
  exact h4

end Sys2Proof.Machine
end

