-- ==== Sys2Proof/Laws/FrameJob.lean ====
section
/-! SUPPORT. Frames of the shared operations of jobs and the running step: what each may change, whatever it answers. -/

namespace Sys2Proof.Machine

-- One proof after the other: together they would take a thread each, and with it a stack.
set_option Elab.async false

-- Job

theorem State.sweepPools_frame (s : State) :
    Frame [.regs] s (State.sweepPools s) := by
  unfold State.sweepPools
  refine Frame.ite (fun _ => ?_) fun _ => ?_
  · exact Frame.refl _
  · exact (State.slabPools_frame _ _).mono (by decide)

theorem State.restartDone_frame (s : State) :
    Frame [.attic, .regs, .jobs, .resil] s (State.restartDone s) := by
  unfold State.restartDone
  split
  · exact Frame.refl _
  · refine Frame.ite (fun _ => ?_) fun _ => ?_
    · extract_lets +onlyGivenNames x0
      have h1 : Frame [.attic, .regs, .jobs, .resil] s x0 := by
        subst x0
        exact (State.post_frame _ _ _ _).mono (by decide)
      clear_value x0
      extract_lets +onlyGivenNames x2
      have h3 : Frame [.attic, .regs, .jobs, .resil] s x2 := by
        subst x2
        refine Frame.foldl ?_ ?_
        · exact h1
        · intro x4 x5 h6
          refine Frame.ite (fun _ => ?_) fun _ => ?_
          · refine Frame.step ?_ (State.setRingState_frame _ _ _) (by decide)
            exact h6
          · exact h6
      clear_value x2
      refine Frame.step ?_ (State.sweepPools_frame _) (by decide)
      refine Frame.upd ?_ rfl
      exact h3
    · exact Frame.refl _

theorem State.setOut_frame (s : State) (r : Nat) (f : Outst → Outst) :
    Frame [.jobs] s (State.setOut s r f) := by
  unfold State.setOut
  exact (State.updRing_frame _ _ _).mono (by decide)

theorem State.takeOut_frame (s : State) (r : Nat) (i : Word) (d : BitVec 512) :
    Frame [.regs, .links, .jobs, .out] s (State.takeOut s r i d) := by
  unfold State.takeOut
  extract_lets +onlyGivenNames x0
  subst x0
  extract_lets +onlyGivenNames x1
  clear_value x1
  extract_lets +onlyGivenNames x2
  subst x2
  extract_lets +onlyGivenNames x3
  subst x3
  extract_lets +onlyGivenNames x4
  have h5 : Frame [.regs, .links, .jobs, .out] s x4 := by
    subst x4
    refine Frame.upd ?_ rfl
    exact Frame.refl _
  clear_value x4
  extract_lets +onlyGivenNames x6
  have h7 : Frame [.regs, .links, .jobs, .out] s x6 := by
    subst x6
    refine Frame.ite (fun _ => ?_) fun _ => ?_
    · refine Frame.step ?_ (State.sweepPools_frame _) (by decide)
      exact h5
    · exact h5
  clear_value x6
  refine Frame.ite (fun _ => ?_) fun _ => ?_
  · refine Frame.step ?_ (State.updRing_frame _ _ _) (by decide)
    exact h7
  · extract_lets +onlyGivenNames x8
    have h9 : Frame [.regs, .links, .jobs, .out] s x8 := by
      subst x8
      refine Frame.step ?_ (State.updRing_frame _ _ _) (by decide)
      exact h7
    clear_value x8
    refine Frame.step ?_ (State.fetchMore_frame _ _) (by decide)
    refine Frame.step ?_ (State.setReg_frame _ _ _) (by decide)
    exact h9

theorem State.enqueue_frame (s : State) (r : Nat) (regions : List Nat) (links : List Nat) :
    Frame [.jobs] s (State.enqueue s r regions links) := by
  unfold State.enqueue
  extract_lets +onlyGivenNames x0
  have h1 : Frame [.jobs] s x0 := by
    subst x0
    exact (State.setOut_frame _ _ _).mono (by decide)
  clear_value x0
  refine Frame.upd ?_ rfl
  exact h1

theorem State.planTaken_frame (s : State) (r : Nat) :
    Frame [.attic, .regs, .jobs, .resil] s (State.planTaken s r) := by
  unfold State.planTaken
  extract_lets +onlyGivenNames x0
  subst x0
  extract_lets +onlyGivenNames x1
  clear_value x1
  refine Frame.ite (fun _ => ?_) fun _ => ?_
  · exact (State.enqueue_frame _ _ _ _).mono (by decide)
  · refine Frame.ite (fun _ => ?_) fun _ => ?_
    · refine Frame.step ?_ (State.restartDone_frame _) (by decide)
      refine Frame.step ?_ (State.enqueue_frame _ _ _ _) (by decide)
      exact (State.updRing_frame _ _ _).mono (by decide)
    · extract_lets +onlyGivenNames x2
      have h3 : Frame [.attic, .regs, .jobs, .resil] s x2 := by
        subst x2
        refine Frame.step ?_ (State.setRegF_frame _ _ _ _ _) (by decide)
        exact (State.setOut_frame _ _ _).mono (by decide)
      clear_value x2
      refine Frame.step ?_ (State.restartDone_frame _) (by decide)
      refine Frame.upd ?_ rfl
      exact h3

theorem State.enqueueTransfer_frame (s : State) (r : Nat) (d : BitVec 512) :
    FrameF [.jobs] s (State.enqueueTransfer s r d) := by
  unfold State.enqueueTransfer
  split
  · exact FrameF.undef
  · refine FrameF.ok ?_
    exact (State.enqueue_frame _ _ _ _).mono (by decide)

theorem State.agePlan_frame (s : State) (n : Nat) (r : Nat) :
    Frame [.jobs] s (State.agePlan s n r) := by
  unfold State.agePlan
  exact (State.setOut_frame _ _ _).mono (by decide)

theorem execGlbPlandirWrite_frame (p : PortNo) (n : Fin 1024) (k : BitVec 2) (v : Word) (s : State) :
    FrameR [.regs, .latches, .jobs] s (execGlbPlandirWrite p n k v s) := by
  unfold execGlbPlandirWrite
  refine FrameR.ite (fun _ => ?_) fun _ => ?_
  · refine FrameR.next ?_
    exact Frame.refl _
  · extract_lets +onlyGivenNames x0
    have h1 : Frame [.regs, .latches, .jobs] s x0 := by
      subst x0
      refine Frame.foldl ?_ ?_
      · exact Frame.refl _
      · intro x2 x3 h4
        refine Frame.step ?_ (State.agePlan_frame _ _ _) (by decide)
        exact h4
    clear_value x0
    extract_lets +onlyGivenNames x5
    have h6 : Frame [.regs, .latches, .jobs] s x5 := by
      subst x5
      refine Frame.step ?_ (State.updStep_frame _ _) (by decide)
      exact h1
    clear_value x5
    extract_lets +onlyGivenNames x7
    have h8 : Frame [.regs, .latches, .jobs] s x7 := by
      subst x7
      refine Frame.step ?_ (State.unlatch_frame _ _ _) (by decide)
      refine Frame.step ?_ (State.writeRw_frame _ _ _) (by decide)
      exact h6
    clear_value x7
    refine FrameR.next ?_
    refine Frame.upd ?_ rfl
    exact h8

theorem execRngDisable_frame (_p : PortNo) (n : Fin 129) (v : Word) (s : State) :
    FrameR [.attic, .regs, .jobs, .strm, .resil] s (execRngDisable _p n v s) := by
  unfold execRngDisable
  refine FrameR.ite (fun _ => ?_) fun _ => ?_
  · refine FrameR.next ?_
    exact Frame.refl _
  · extract_lets +onlyGivenNames x0
    clear_value x0
    refine FrameR.ite (fun _ => ?_) fun _ => ?_
    · exact FrameR.undef
    · refine FrameR.ite (fun _ => ?_) fun _ => ?_
      · exact FrameR.undef
      · extract_lets +onlyGivenNames x1
        have h2 : Frame [.attic, .regs, .jobs, .strm, .resil] s x1 := by
          subst x1
          refine Frame.step ?_ (State.setReg_frame _ _ _) (by decide)
          refine Frame.step ?_ (State.clearRing_frame _ _) (by decide)
          exact (State.writeRw_frame _ _ _).mono (by decide)
        clear_value x1
        refine FrameR.next ?_
        refine Frame.ite (fun _ => ?_) fun _ => ?_
        · refine Frame.step ?_ (State.restartDone_frame _) (by decide)
          refine Frame.upd ?_ rfl
          exact h2
        · exact h2

theorem State.putCompletion_frame (s : State) (n : Nat) (o : Outst) (c : CompRec) (energy : Word) :
    Frame [.regs, .links, .jobs, .out, .freeCtr] s (State.putCompletion s n o c energy) := by
  unfold State.putCompletion
  extract_lets +onlyGivenNames x0
  clear_value x0
  extract_lets +onlyGivenNames x1
  clear_value x1
  extract_lets +onlyGivenNames x2
  clear_value x2
  extract_lets +onlyGivenNames x3
  clear_value x3
  extract_lets +onlyGivenNames x4
  clear_value x4
  extract_lets +onlyGivenNames x5
  clear_value x5
  refine Frame.step ?_ (State.putRecord_frame _ _ _ _ _) (by decide)
  refine Frame.ite (fun _ => ?_) fun _ => ?_
  · exact (State.useFree_frame _).mono (by decide)
  · exact Frame.refl _

theorem State.switchGrant_frame (s : State) (n : Nat) :
    Frame [.attic, .clk, .regs, .jobs] s (State.switchGrant s n) := by
  unfold State.switchGrant
  extract_lets +onlyGivenNames x0
  clear_value x0
  refine Frame.ite (fun _ => ?_) fun _ => ?_
  · exact Frame.refl _
  · refine Frame.step ?_ (State.refRestored_frame _) (by decide)
    refine Frame.foldl ?_ ?_
    · exact Frame.refl _
    · intro x1 x2 h3
      refine Frame.step ?_ (State.switchBack_frame _ _) (by decide)
      exact h3

theorem State.returnGrant_frame (s : State) (n : Nat) (bad : Bool) :
    Frame [.attic, .clk, .regs, .jobs, .strm] s (State.returnGrant s n bad) := by
  unfold State.returnGrant
  extract_lets +onlyGivenNames x0
  clear_value x0
  extract_lets +onlyGivenNames x1
  subst x1
  extract_lets +onlyGivenNames x2
  clear_value x2
  refine Frame.step ?_ (State.switchGrant_frame _ _) (by decide)
  refine Frame.upd ?_ rfl
  exact Frame.refl _

theorem State.fenceWakes_frame (s : State) (n : Nat) (i : Word) :
    Frame [.regs, .jobs] s (State.fenceWakes s n i) := by
  unfold State.fenceWakes
  refine Frame.step ?_ (State.fenceCheck_frame _) (by decide)
  refine Frame.foldl ?_ ?_
  · exact Frame.refl _
  · intro x0 x1 h2
    refine Frame.ite (fun _ => ?_) fun _ => ?_
    · refine Frame.step ?_ (State.setOut_frame _ _ _) (by decide)
      exact h2
    · exact h2

theorem State.countPlan_frame (s : State) (o : Outst) :
    Frame [.jobs] s (State.countPlan s o) := by
  unfold State.countPlan
  refine Frame.ite (fun _ => ?_) fun _ => ?_
  · refine Frame.upd ?_ rfl
    exact Frame.refl _
  · exact Frame.refl _

theorem State.stepBoundary_frame (s : State) (st : StepSt) (o : Outst) :
    FrameF [.attic, .regs, .larder, .larErr, .cellar, .celErr, .conflicts, .clusters, .regions, .jobs, .resil, .freeCtr] s (State.stepBoundary s st o) := by
  unfold State.stepBoundary
  extract_lets +onlyGivenNames x0
  subst x0
  extract_lets +onlyGivenNames x1
  have h2 : Frame [.attic, .regs, .larder, .larErr, .cellar, .celErr, .conflicts, .clusters, .regions, .jobs, .resil, .freeCtr] s x1 := by
    subst x1
    refine Frame.upd ?_ rfl
    exact Frame.refl _
  clear_value x1
  extract_lets +onlyGivenNames x3
  have h4 : Frame [.attic, .regs, .larder, .larErr, .cellar, .celErr, .conflicts, .clusters, .regions, .jobs, .resil, .freeCtr] s x3 := by
    subst x3
    refine Frame.ite (fun _ => ?_) fun _ => ?_
    · refine Frame.step ?_ (State.setRaised_frame _ _) (by decide)
      exact h2
    · exact h2
  clear_value x3
  extract_lets +onlyGivenNames x5
  clear_value x5
  refine FrameF.ite (fun _ => ?_) fun _ => ?_
  · refine FrameF.step ?_ (State.snapshot_frame _ _ _ _) (by decide)
    exact h4
  · refine FrameF.ok ?_
    exact h4

theorem State.passFault_frame (s : State) (n : Nat) :
    Frame [.jobs] s (State.passFault s n) := by
  unfold State.passFault
  exact (State.updRing_frame _ _ _).mono (by decide)

theorem State.rewindHalt_frame (s : State) (n : Nat) :
    Frame [.jobs, .resil] s (State.rewindHalt s n) := by
  unfold State.rewindHalt
  extract_lets +onlyGivenNames x0
  have h1 : Frame [.jobs, .resil] s x0 := by
    subst x0
    refine Frame.step ?_ (State.updRing_frame _ _ _) (by decide)
    exact (State.passFault_frame _ _).mono (by decide)
  clear_value x0
  refine Frame.upd ?_ rfl
  exact h1

theorem State.rewindStep_frame (s : State) (n : Nat) (i : Word) (status : Nat) :
    Frame [.jobs, .resil] s (State.rewindStep s n i status) := by
  unfold State.rewindStep
  split
  · exact Frame.refl _
  · refine Frame.ite (fun _ => ?_) fun _ => ?_
    · refine Frame.ite (fun _ => ?_) fun _ => ?_
      · exact (State.rewindHalt_frame _ _).mono (by decide)
      · exact (State.passFault_frame _ _).mono (by decide)
    · extract_lets +onlyGivenNames x0
      have h1 : Frame [.jobs, .resil] s x0 := by
        subst x0
        refine Frame.ite (fun _ => ?_) fun _ => ?_
        · exact (State.updRing_frame _ _ _).mono (by decide)
        · exact Frame.refl _
      clear_value x0
      refine Frame.ite (fun _ => ?_) fun _ => ?_
      · refine Frame.step ?_ (State.rewindHalt_frame _ _) (by decide)
        exact h1
      · exact h1

theorem State.openIdle_frame (s : State) :
    Frame [.resil] s (State.openIdle s) := by
  unfold State.openIdle
  refine Frame.upd ?_ rfl
  exact Frame.refl _

theorem State.endStep_frame (s : State) :
    Frame [.regs, .clusters, .strm, .resil] s (State.endStep s) := by
  unfold State.endStep
  extract_lets +onlyGivenNames x0
  have h1 : Frame [.regs, .clusters, .strm, .resil] s x0 := by
    subst x0
    exact (State.dropChecks_frame _ _).mono (by decide)
  clear_value x0
  refine Frame.upd ?_ rfl
  exact h1

theorem State.internalDone_frame (s : State) (n : Nat) (o : Outst) (status : Nat) :
    Frame [.regs, .jobs, .resil] s (State.internalDone s n o status) := by
  unfold State.internalDone
  extract_lets +onlyGivenNames x0
  have h1 : Frame [.regs, .jobs, .resil] s x0 := by
    subst x0
    exact (State.updRing_frame _ _ _).mono (by decide)
  clear_value x0
  extract_lets +onlyGivenNames x2
  have h3 : Frame [.regs, .jobs, .resil] s x2 := by
    subst x2
    refine Frame.step ?_ (State.updRing_frame _ _ _) (by decide)
    exact h1
  clear_value x2
  extract_lets +onlyGivenNames x4
  have h5 : Frame [.regs, .jobs, .resil] s x4 := by
    subst x4
    refine Frame.ite (fun _ => ?_) fun _ => ?_
    · refine Frame.ite (fun _ => ?_) fun _ => ?_
      · refine Frame.step ?_ (State.rewindHalt_frame _ _) (by decide)
        exact h3
      · exact h3
    · exact h1
  clear_value x4
  extract_lets +onlyGivenNames x6
  subst x6
  extract_lets +onlyGivenNames x7
  have h8 : Frame [.regs, .jobs, .resil] s x7 := by
    subst x7
    refine Frame.ite (fun _ => ?_) fun _ => ?_
    · refine Frame.upd ?_ rfl
      exact h5
    · exact h5
  clear_value x7
  refine Frame.step ?_ (State.fenceWakes_frame _ _ _) (by decide)
  refine Frame.step ?_ (State.stopIfIdle_frame _ _) (by decide)
  exact h8

theorem State.postReplayed_frame (s : State) (n : Nat) (o : Outst) :
    Frame [.attic, .regs, .jobs] s (State.postReplayed s n o) := by
  unfold State.postReplayed
  extract_lets +onlyGivenNames x0
  clear_value x0
  refine Frame.ite (fun _ => ?_) fun _ => ?_
  · exact (State.post_frame _ _ _ _).mono (by decide)
  · exact Frame.refl _

-- Run

theorem State.addGrant_frame (s : State) (n : Nat) :
    Frame [.jobs, .resil] s (State.addGrant s n) := by
  unfold State.addGrant
  refine Frame.upd ?_ rfl
  exact Frame.refl _

theorem State.zeroLarders_frame (s : State) (r : Nat) :
    Frame [.regs, .larder, .larErr, .clusters] s (State.zeroLarders s r) := by
  unfold State.zeroLarders
  refine Frame.foldl ?_ ?_
  · exact Frame.refl _
  · intro x0 x1 h2
    refine Frame.foldl ?_ ?_
    · exact h2
    · intro x3 x4 h5
      refine Frame.ite (fun _ => ?_) fun _ => ?_
      · refine Frame.step ?_ (State.groupOn_frame _ _ _) (by decide)
        exact h5
      · exact h5

theorem State.sweepEnd_frame (s : State) (r : Nat) :
    FrameF [.attic, .regs, .larder, .larErr, .conflicts, .clusters, .regions, .resil, .freeCtr] s (State.sweepEnd s r) := by
  unfold State.sweepEnd
  extract_lets +onlyGivenNames x0
  clear_value x0
  extract_lets +onlyGivenNames x1
  have h2 : Frame [.attic, .regs, .larder, .larErr, .conflicts, .clusters, .regions, .resil, .freeCtr] s x1 := by
    subst x1
    refine Frame.step ?_ (State.sweepPools_frame _) (by decide)
    exact (State.updRg_frame _ _ _).mono (by decide)
  clear_value x1
  split
  · refine FrameF.ok ?_
    refine Frame.step ?_ (State.zeroLarders_frame _ _) (by decide)
    exact h2
  · refine FrameF.fold ?_ ?_
    · exact h2
    · intro x3 x4 h5
      refine FrameF.fold ?_ ?_
      · exact h5
      · intro x6 x7 h8
        refine FrameF.ite (fun _ => ?_) fun _ => ?_
        · unfold State.planRead
          refine FrameF.ite (fun _ => ?_) fun _ => ?_
          · exact FrameF.undef
          · split
            · rename_i h9
              have h10 := (State.celRead_frame _ _ _ _).of_eq h9
              beta_reduce
              refine FrameF.step ?_ (State.larStore_frame _ _ _ _) (by decide)
              refine Frame.step ?_ h10 (by decide)
              exact h8
            · rename_i h11
              have h12 := (State.celRead_frame _ _ _ _).of_eq h11
              refine FrameF.held ?_
              refine Frame.step ?_ h12 (by decide)
              exact h8
        · refine FrameF.ok ?_
          exact h8

theorem State.sweepStart_frame (s : State) (r : Nat) :
    FrameF [.attic, .regs, .larder, .larErr, .cellar, .celErr, .conflicts, .clusters, .regions, .resil, .freeCtr] s (State.sweepStart s r) := by
  unfold State.sweepStart
  extract_lets +onlyGivenNames x0
  subst x0
  split
  · refine FrameF.ite (fun _ => ?_) fun _ => ?_
    · refine FrameF.ok ?_
      beta_reduce
      refine Frame.step ?_ (State.sweepPools_frame _) (by decide)
      refine Frame.step ?_ (State.updRg_frame _ _ _) (by decide)
      exact (State.preemptWatch_frame _ _).mono (by decide)
    · refine FrameF.ite (fun _ => ?_) fun _ => ?_
      · refine FrameF.ok ?_
        exact Frame.refl _
      · extract_lets +onlyGivenNames x1
        clear_value x1
        refine FrameF.ite (fun _ => ?_) fun _ => ?_
        · exact FrameF.undef
        · refine FrameF.bind ?_ ?_
          · refine FrameF.fold ?_ ?_
            · exact Frame.refl _
            · intro x2 x3 h4
              refine FrameF.step ?_ (State.copyLarder_frame _ _ _ _) (by decide)
              exact h4
          · intro x5 h6
            refine FrameF.ok ?_
            beta_reduce
            refine Frame.step ?_ (State.sweepPools_frame _) (by decide)
            refine Frame.step ?_ (State.updRg_frame _ _ _) (by decide)
            refine Frame.step ?_ (State.preemptWatch_frame _ _) (by decide)
            refine Frame.step ?_ (State.setLocal_frame _ _) (by decide)
            exact h6
  · refine FrameF.ok ?_
    beta_reduce
    refine Frame.step ?_ (State.sweepPools_frame _) (by decide)
    refine Frame.step ?_ (State.updRg_frame _ _ _) (by decide)
    exact (State.preemptWatch_frame _ _).mono (by decide)

theorem State.noteSwept_frame (s : State) (rs : List Nat) :
    Frame [.resil] s (State.noteSwept s rs) := by
  unfold State.noteSwept
  extract_lets +onlyGivenNames x0
  clear_value x0
  extract_lets +onlyGivenNames x1
  clear_value x1
  refine Frame.upd ?_ rfl
  exact Frame.refl _

theorem State.raiseGuard_frame (s : State) (r : Nat) :
    Frame [.attic] s (State.raiseGuard s r) := by
  unfold State.raiseGuard
  extract_lets +onlyGivenNames x0
  have h1 : Frame [.attic] s x0 := by
    subst x0
    exact (State.setResilF_frame _ _ _ _ _).mono (by decide)
  clear_value x0
  refine Frame.upd ?_ rfl
  exact h1

theorem State.marginal_frame (s : State) (retire : Bool) (rowNamed : Bool) (site : Nat) (mask : Nat) :
    Frame [.attic, .regs, .jobs, .resil, .freeCtr] s (State.marginal s retire rowNamed site mask) := by
  unfold State.marginal
  extract_lets +onlyGivenNames x0
  clear_value x0
  extract_lets +onlyGivenNames x1
  clear_value x1
  extract_lets +onlyGivenNames x2
  subst x2
  refine Frame.ite (fun _ => ?_) fun _ => ?_
  · exact Frame.refl _
  · refine Frame.ite (fun _ => ?_) fun _ => ?_
    · refine Frame.step ?_ (State.useFree_frame _) (by decide)
      beta_reduce
      exact (State.post_frame _ _ _ _).mono (by decide)
    · refine Frame.ite (fun _ => ?_) fun _ => ?_
      · extract_lets +onlyGivenNames x3
        subst x3
        extract_lets +onlyGivenNames x4
        subst x4
        extract_lets +onlyGivenNames x5
        have h6 : Frame [.attic, .regs, .jobs, .resil, .freeCtr] s x5 := by
          subst x5
          refine Frame.ite (fun _ => ?_) fun _ => ?_
          · exact (State.todo_frame _ _).mono (by decide)
          · refine Frame.upd ?_ rfl
            exact Frame.refl _
        clear_value x5
        refine Frame.step ?_ (State.useFree_frame _) (by decide)
        beta_reduce
        refine Frame.step ?_ (State.post_frame _ _ _ _) (by decide)
        exact h6
      · refine Frame.ite (fun _ => ?_) fun _ => ?_
        · beta_reduce
          refine Frame.step ?_ (State.post_frame _ _ _ _) (by decide)
          exact (State.todo_frame _ _).mono (by decide)
        · refine Frame.ite (fun _ => ?_) fun _ => ?_
          · beta_reduce
            refine Frame.step ?_ (State.post_frame _ _ _ _) (by decide)
            exact (State.raiseGuard_frame _ _).mono (by decide)
          · beta_reduce
            refine Frame.step ?_ (State.post_frame _ _ _ _) (by decide)
            exact (State.planRetirement_frame _ _ _).mono (by decide)

theorem State.sweepResults_frame (s : State) (r : Nat) (stress : Nat) (retire : Bool) (mine : List (SiteNo × BitVec 4)) (rows : List (SiteNo × BitVec 2 × BitVec 6)) (larRows : List (SiteNo × BitVec 14)) (notHot : Bool) :
    Frame [.attic, .regs, .jobs, .resil, .freeCtr] s (State.sweepResults s r stress retire mine rows larRows notHot) := by
  unfold State.sweepResults
  extract_lets +onlyGivenNames x0
  clear_value x0
  extract_lets +onlyGivenNames x1
  clear_value x1
  extract_lets +onlyGivenNames x2
  clear_value x2
  extract_lets +onlyGivenNames x3
  subst x3
  extract_lets +onlyGivenNames x4
  have h5 : Frame [.attic, .regs, .jobs, .resil, .freeCtr] s x4 := by
    subst x4
    refine Frame.upd ?_ rfl
    exact Frame.refl _
  clear_value x4
  extract_lets +onlyGivenNames x6
  have h7 : Frame [.attic, .regs, .jobs, .resil, .freeCtr] s x6 := by
    subst x6
    refine Frame.step ?_ (State.count_frame _ _ _ _ _) (by decide)
    refine Frame.step ?_ (State.count_frame _ _ _ _ _) (by decide)
    exact h5
  clear_value x6
  extract_lets +onlyGivenNames x8
  subst x8
  extract_lets +onlyGivenNames x9
  clear_value x9
  extract_lets +onlyGivenNames x10
  have h11 : Frame [.attic, .regs, .jobs, .resil, .freeCtr] s x10 := by
    subst x10
    refine Frame.foldl ?_ ?_
    · exact h7
    · intro x12 x13 h14
      refine Frame.step ?_ (State.marginal_frame _ _ _ _ _) (by decide)
      exact h14
  clear_value x10
  extract_lets +onlyGivenNames x15
  have h16 : Frame [.attic, .regs, .jobs, .resil, .freeCtr] s x15 := by
    subst x15
    refine Frame.foldl ?_ ?_
    · exact h11
    · intro x17 x18 h19
      refine Frame.step ?_ (State.todo_frame _ _) (by decide)
      exact h19
  clear_value x15
  refine Frame.foldl ?_ ?_
  · exact h16
  · intro x20 x21 h22
    refine Frame.step ?_ (State.todo_frame _ _) (by decide)
    exact h22

theorem State.claimRegions_frame (s : State) (rs : List Nat) :
    FrameF [.attic, .regs, .larder, .larErr, .conflicts, .clusters, .regions, .jobs, .resil, .freeCtr] s (State.claimRegions s rs) := by
  unfold State.claimRegions
  extract_lets +onlyGivenNames x0
  clear_value x0
  extract_lets +onlyGivenNames x1
  clear_value x1
  refine FrameF.bind ?_ ?_
  · refine FrameF.fold ?_ ?_
    · exact Frame.refl _
    · intro x2 x3 h4
      refine FrameF.ite (fun _ => ?_) fun _ => ?_
      · refine FrameF.step ?_ (State.sweepEnd_frame _ _) (by decide)
        exact h4
      · refine FrameF.ok ?_
        exact h4
  · intro x5 h6
    extract_lets +onlyGivenNames x7
    have h8 : Frame [.attic, .regs, .larder, .larErr, .conflicts, .clusters, .regions, .jobs, .resil, .freeCtr] s x7 := by
      subst x7
      refine Frame.foldl ?_ ?_
      · exact h6
      · intro x9 x10 h11
        refine Frame.step ?_ (State.finish_frame _ _ _ _ _) (by decide)
        exact h11
    clear_value x7
    extract_lets +onlyGivenNames x12
    subst x12
    extract_lets +onlyGivenNames x13
    have h14 : Frame [.attic, .regs, .larder, .larErr, .conflicts, .clusters, .regions, .jobs, .resil, .freeCtr] s x13 := by
      subst x13
      refine Frame.upd ?_ rfl
      exact h8
    clear_value x13
    refine FrameF.ok ?_
    refine Frame.foldl ?_ ?_
    · exact h14
    · intro x15 x16 h17
      refine Frame.step ?_ (State.closeWindow_frame _ _) (by decide)
      refine Frame.step ?_ (State.preemptWatch_frame _ _) (by decide)
      exact h17

theorem State.checkClaims_frame (s : State) (site : Nat) :
    FrameF [.attic, .regs, .larder, .larErr, .conflicts, .clusters, .regions, .jobs, .resil, .freeCtr] s (State.checkClaims s site) := by
  unfold State.checkClaims
  extract_lets +onlyGivenNames x0
  clear_value x0
  refine FrameF.ite (fun _ => ?_) fun _ => ?_
  · refine FrameF.step ?_ (State.claimRegions_frame _ _) (by decide)
    exact Frame.refl _
  · refine FrameF.ok ?_
    exact (State.preemptWatch_frame _ _).mono (by decide)

theorem State.heldAll_frameK {P : List Part} {s0 : State} {h : Hdr} {step : DWord} {l : List Nat} {acc : List (Nat × Option HeldRec)} {s : State} {k : State → List (Nat × Option HeldRec) → Flow}
    (hs : Frame P s0 s) (hq : [.attic, .regs, .regions, .resil] ⊆ P) (hk : ∀ u x, Frame P s0 u → FrameF P s0 (k u x)) :
    FrameF P s0 (State.heldAll h step l acc s k) := by
  induction l generalizing acc s with
  | nil => exact hk _ _ hs
  | cons a l ih =>
    rw [State.heldAll]
    unfold State.heldOf
    split
    · beta_reduce
      refine ih ?_
      exact hs
    · extract_lets +onlyGivenNames x0
      subst x0
      split
      · beta_reduce
        refine ih ?_
        exact hs
      · extract_lets +onlyGivenNames x1
        clear_value x1
        extract_lets +onlyGivenNames x2
        clear_value x2
        extract_lets +onlyGivenNames x3
        subst x3
        unfold State.heldRead
        unfold State.planRead
        refine FrameF.ite (fun _ => ?_) fun _ => ?_
        · exact FrameF.undef
        · split
          · rename_i h4
            have h5 := (State.celRead_frame _ _ _ _).of_eq h4
            beta_reduce
            extract_lets +onlyGivenNames x6
            clear_value x6
            refine FrameF.ite (fun _ => ?_) fun _ => ?_
            · refine FrameF.ite (fun _ => ?_) fun _ => ?_
              · exact FrameF.undef
              · split
                · rename_i h7
                  have h8 := (State.celRead_frame _ _ _ _).of_eq h7
                  split
                  · refine FrameF.ite (fun _ => ?_) fun _ => ?_
                    · exact FrameF.undef
                    · split
                      · rename_i h9
                        have h10 := (State.celRead_frame _ _ _ _).of_eq h9
                        extract_lets +onlyGivenNames x11
                        clear_value x11
                        refine FrameF.ite (fun _ => ?_) fun _ => ?_
                        · refine FrameF.ite (fun _ => ?_) fun _ => ?_
                          · exact FrameF.undef
                          · split
                            · rename_i h12
                              have h13 := (State.celRead_frame _ _ _ _).of_eq h12
                              refine ih ?_
                              refine Frame.step ?_ h13 (List.Subset.trans (by decide) hq)
                              refine Frame.step ?_ h10 (List.Subset.trans (by decide) hq)
                              refine Frame.step ?_ h8 (List.Subset.trans (by decide) hq)
                              refine Frame.step ?_ h5 (List.Subset.trans (by decide) hq)
                              exact hs
                            · rename_i h14
                              have h15 := (State.celRead_frame _ _ _ _).of_eq h14
                              refine FrameF.held ?_
                              refine Frame.step ?_ h15 (List.Subset.trans (by decide) hq)
                              refine Frame.step ?_ h10 (List.Subset.trans (by decide) hq)
                              refine Frame.step ?_ h8 (List.Subset.trans (by decide) hq)
                              refine Frame.step ?_ h5 (List.Subset.trans (by decide) hq)
                              exact hs
                        · refine ih ?_
                          refine Frame.step ?_ h10 (List.Subset.trans (by decide) hq)
                          refine Frame.step ?_ h8 (List.Subset.trans (by decide) hq)
                          refine Frame.step ?_ h5 (List.Subset.trans (by decide) hq)
                          exact hs
                      · rename_i h16
                        have h17 := (State.celRead_frame _ _ _ _).of_eq h16
                        refine FrameF.held ?_
                        refine Frame.step ?_ h17 (List.Subset.trans (by decide) hq)
                        refine Frame.step ?_ h8 (List.Subset.trans (by decide) hq)
                        refine Frame.step ?_ h5 (List.Subset.trans (by decide) hq)
                        exact hs
                  · refine ih ?_
                    refine Frame.step ?_ h8 (List.Subset.trans (by decide) hq)
                    refine Frame.step ?_ h5 (List.Subset.trans (by decide) hq)
                    exact hs
                · rename_i h18
                  have h19 := (State.celRead_frame _ _ _ _).of_eq h18
                  refine FrameF.held ?_
                  refine Frame.step ?_ h19 (List.Subset.trans (by decide) hq)
                  refine Frame.step ?_ h5 (List.Subset.trans (by decide) hq)
                  exact hs
            · split
              · refine FrameF.ite (fun _ => ?_) fun _ => ?_
                · exact FrameF.undef
                · split
                  · rename_i h20
                    have h21 := (State.celRead_frame _ _ _ _).of_eq h20
                    extract_lets +onlyGivenNames x22
                    clear_value x22
                    refine FrameF.ite (fun _ => ?_) fun _ => ?_
                    · refine FrameF.ite (fun _ => ?_) fun _ => ?_
                      · exact FrameF.undef
                      · split
                        · rename_i h23
                          have h24 := (State.celRead_frame _ _ _ _).of_eq h23
                          refine ih ?_
                          refine Frame.step ?_ h24 (List.Subset.trans (by decide) hq)
                          refine Frame.step ?_ h21 (List.Subset.trans (by decide) hq)
                          refine Frame.step ?_ h5 (List.Subset.trans (by decide) hq)
                          exact hs
                        · rename_i h25
                          have h26 := (State.celRead_frame _ _ _ _).of_eq h25
                          refine FrameF.held ?_
                          refine Frame.step ?_ h26 (List.Subset.trans (by decide) hq)
                          refine Frame.step ?_ h21 (List.Subset.trans (by decide) hq)
                          refine Frame.step ?_ h5 (List.Subset.trans (by decide) hq)
                          exact hs
                    · refine ih ?_
                      refine Frame.step ?_ h21 (List.Subset.trans (by decide) hq)
                      refine Frame.step ?_ h5 (List.Subset.trans (by decide) hq)
                      exact hs
                  · rename_i h27
                    have h28 := (State.celRead_frame _ _ _ _).of_eq h27
                    refine FrameF.held ?_
                    refine Frame.step ?_ h28 (List.Subset.trans (by decide) hq)
                    refine Frame.step ?_ h5 (List.Subset.trans (by decide) hq)
                    exact hs
              · refine ih ?_
                refine Frame.step ?_ h5 (List.Subset.trans (by decide) hq)
                exact hs
          · rename_i h29
            have h30 := (State.celRead_frame _ _ _ _).of_eq h29
            refine FrameF.held ?_
            refine Frame.step ?_ h30 (List.Subset.trans (by decide) hq)
            exact hs

theorem State.startRegion_frame (s : State) (r : Nat) :
    FrameF [.attic, .regs, .larder, .larErr, .conflicts, .clusters, .regions, .jobs, .resil, .freeCtr] s (State.startRegion s r) := by
  unfold State.startRegion
  split
  · refine FrameF.ok ?_
    exact Frame.refl _
  · extract_lets +onlyGivenNames x0
    clear_value x0
    refine FrameF.ite (fun _ => ?_) fun _ => ?_
    · refine FrameF.ok ?_
      exact Frame.refl _
    · split
      · exact FrameF.undef
      · extract_lets +onlyGivenNames x1
        subst x1
        unfold State.readPitch
        refine FrameF.ite (fun _ => ?_) fun _ => ?_
        · exact FrameF.undef
        · unfold State.planRead
          refine FrameF.ite (fun _ => ?_) fun _ => ?_
          · exact FrameF.undef
          · split
            · rename_i h2
              have h3 := (State.celRead_frame _ _ _ _).of_eq h2
              beta_reduce
              extract_lets +onlyGivenNames x4
              clear_value x4
              refine FrameF.bind ?_ ?_
              · refine FrameF.step ?_ (State.startPitch_frame _ _ _ _ _ _ _) (by decide)
                refine Frame.step ?_ h3 (by decide)
                exact Frame.refl _
              · intro x5 h6
                refine FrameF.ok ?_
                refine Frame.step ?_ (State.updStep_frame _ _) (by decide)
                exact h6
            · rename_i h7
              have h8 := (State.celRead_frame _ _ _ _).of_eq h7
              refine FrameF.held ?_
              refine Frame.step ?_ h8 (by decide)
              exact Frame.refl _

theorem State.handoffWait_frame (s : State) :
    Frame [.regs, .jobs] s (State.handoffWait s) := by
  unfold State.handoffWait
  split
  · exact Frame.refl _
  · extract_lets +onlyGivenNames x0
    clear_value x0
    refine Frame.ite (fun _ => ?_) fun _ => ?_
    · exact (State.finish_frame _ _ _ _ _).mono (by decide)
    · exact Frame.refl _

theorem State.stepReady_frame (s : State) :
    FrameF [.attic, .regs, .larder, .larErr, .conflicts, .clusters, .regions, .jobs, .resil, .freeCtr] s (State.stepReady s) := by
  unfold State.stepReady
  split
  · refine FrameF.ok ?_
    exact Frame.refl _
  · refine FrameF.ite (fun _ => ?_) fun _ => ?_
    · refine FrameF.ok ?_
      exact Frame.refl _
    · refine FrameF.bind ?_ ?_
      · refine FrameF.step ?_ (State.startEngines_frame _ _) (by decide)
        exact Frame.refl _
      · intro x0 h1
        refine FrameF.bind ?_ ?_
        · refine FrameF.fold ?_ ?_
          · refine Frame.step ?_ (State.updStep_frame _ _) (by decide)
            exact h1
          · intro x2 x3 h4
            refine FrameF.step ?_ (State.startRegion_frame _ _) (by decide)
            exact h4
        · intro x5 h6
          refine FrameF.ok ?_
          refine Frame.step ?_ (State.handoffWait_frame _) (by decide)
          exact h6

theorem State.joinStep_frame (s : State) (r : Nat) :
    FrameF [.attic, .regs, .larder, .larErr, .conflicts, .clusters, .regions, .jobs, .resil, .freeCtr] s (State.joinStep s r) := by
  unfold State.joinStep
  split
  · refine FrameF.ok ?_
    exact Frame.refl _
  · refine FrameF.ite (fun _ => ?_) fun _ => ?_
    · refine FrameF.ok ?_
      exact Frame.refl _
    · split
      · exact FrameF.undef
      · refine FrameF.bind ?_ ?_
        · refine FrameF.step ?_ (State.wakeRegion_frame _ _ _ _ _) (by decide)
          exact Frame.refl _
        · intro x0 h1
          refine FrameF.step ?_ (State.stepReady_frame _) (by decide)
          refine Frame.step ?_ (State.updStep_frame _ _) (by decide)
          exact h1

theorem State.runWaves_frame (l : Nat) (n : List (Nat × List Nat)) (k : Nat) (s : State) :
    Frame [.regs, .regions, .slabs] s (State.runWaves l n k s) := by
  induction n generalizing s k with
  | nil =>
    rw [State.runWaves]
    exact (State.updSlab_frame _ _ _).mono (by decide)
  | cons w ws ih =>
    rw [State.runWaves]
    refine Frame.ite (fun _ => ?_) fun _ => ?_
    · exact (State.updSlab_frame _ _ _).mono (by decide)
    · refine Frame.step ?_ (ih _ _) (by decide)
      refine Frame.foldl ?_ ?_
      · exact Frame.refl _
      · intro x0 x1 h2
        refine Frame.step ?_ (State.updRg_frame _ _ _) (by decide)
        refine Frame.step ?_ (State.wakeStart_frame _ _) (by decide)
        refine Frame.step ?_ (State.reserve_frame _ _ _ _) (by decide)
        exact h2

theorem State.retryWaves_frame (s : State) (sl : Nat) :
    Frame [.regs, .regions, .slabs] s (State.retryWaves s sl) := by
  unfold State.retryWaves
  extract_lets +onlyGivenNames x0
  clear_value x0
  extract_lets +onlyGivenNames x1
  have h2 : Frame [.regs, .regions, .slabs] s x1 := by
    subst x1
    exact (State.runWaves_frame _ _ _ _).mono (by decide)
  clear_value x1
  refine Frame.ite (fun _ => ?_) fun _ => ?_
  · exact h2
  · extract_lets +onlyGivenNames x3
    clear_value x3
    extract_lets +onlyGivenNames x4
    have h5 : Frame [.regs, .regions, .slabs] s x4 := by
      subst x4
      refine Frame.ite (fun _ => ?_) fun _ => ?_
      · refine Frame.step ?_ (State.updSlab_frame _ _ _) (by decide)
        exact h2
      · exact h2
    clear_value x4
    refine Frame.step ?_ (State.count_frame _ _ _ _ _) (by decide)
    exact h5

theorem State.wakeGrant_frame (s : State) (rs : List Nat) (share : Nat) :
    Frame [.regs, .regions, .slabs] s (State.wakeGrant s rs share) := by
  unfold State.wakeGrant
  extract_lets +onlyGivenNames x0
  have h1 : Frame [.regs, .regions, .slabs] s x0 := by
    subst x0
    refine Frame.foldl ?_ ?_
    · exact Frame.refl _
    · intro x2 x3 h4
      extract_lets +onlyGivenNames x5
      clear_value x5
      extract_lets +onlyGivenNames x6
      clear_value x6
      refine Frame.ite (fun _ => ?_) fun _ => ?_
      · refine Frame.step ?_ (State.runWaves_frame _ _ _ _) (by decide)
        exact h4
      · refine Frame.step ?_ (State.updSlab_frame _ _ _) (by decide)
        exact h4
  clear_value x0
  refine Frame.foldl ?_ ?_
  · exact h1
  · intro x7 x8 h9
    refine Frame.ite (fun _ => ?_) fun _ => ?_
    · refine Frame.step ?_ (State.setRstate_frame _ _ _) (by decide)
      exact h9
    · exact h9

theorem State.grantSlip_frame (s : State) (bound : Bool) (first : Bool) :
    Frame [.attic, .regs, .jobs, .strm] s (State.grantSlip s bound first) := by
  unfold State.grantSlip
  split
  · refine Frame.ite (fun _ => ?_) fun _ => ?_
    · extract_lets +onlyGivenNames x0
      have h1 : Frame [.attic, .regs, .jobs, .strm] s x0 := by
        subst x0
        exact (State.postSlip_frame _ _ _).mono (by decide)
      clear_value x0
      refine Frame.upd ?_ rfl
      exact h1
    · exact Frame.refl _
  · exact Frame.refl _

theorem State.holdWindow_frame (s : State) (n : Nat) (w : Option Word) :
    Frame [.strm] s (State.holdWindow s n w) := by
  unfold State.holdWindow
  extract_lets +onlyGivenNames x0
  subst x0
  refine Frame.upd ?_ rfl
  exact Frame.refl _

theorem State.firstStep_frame (s : State) (handle : Nat) (step : DWord) :
    Frame [.jobs] s (State.firstStep s handle step) := by
  unfold State.firstStep
  extract_lets +onlyGivenNames x0
  clear_value x0
  refine Frame.upd ?_ rfl
  exact Frame.refl _

theorem State.notePlan_frame (s : State) (handle : Nat) (step : DWord) (old : Bool) :
    Frame [.jobs] s (State.notePlan s handle step old) := by
  unfold State.notePlan
  extract_lets +onlyGivenNames x0
  subst x0
  extract_lets +onlyGivenNames x1
  have h2 : Frame [.jobs] s x1 := by
    subst x1
    refine Frame.upd ?_ rfl
    exact Frame.refl _
  clear_value x1
  refine Frame.ite (fun _ => ?_) fun _ => ?_
  · exact h2
  · refine Frame.step ?_ (State.firstStep_frame _ _ _) (by decide)
    refine Frame.upd ?_ rfl
    exact h2

theorem State.grantPlan_frame (s : State) (n : Nat) (o : Outst) :
    FrameF [.attic, .regs, .larder, .larErr, .conflicts, .clusters, .regions, .slabs, .links, .sync, .jobs, .strm, .hands, .resil, .out, .freeCtr] s (State.grantPlan s n o) := by
  unfold State.grantPlan
  extract_lets +onlyGivenNames x0
  clear_value x0
  extract_lets +onlyGivenNames x1
  clear_value x1
  extract_lets +onlyGivenNames x2
  clear_value x2
  unfold State.readHdr
  split
  · exact FrameF.undef
  · unfold State.planRead
    refine FrameF.ite (fun _ => ?_) fun _ => ?_
    · exact FrameF.undef
    · split
      · rename_i h3
        have h4 := (State.celRead_frame _ _ _ _).of_eq h3
        beta_reduce
        unfold State.stepInput
        refine FrameF.ite (fun _ => ?_) fun _ => ?_
        · beta_reduce
          split
          · refine FrameF.ok ?_
            refine Frame.step ?_ (State.finish_frame _ _ _ _ _) (by decide)
            refine Frame.step ?_ h4 (by decide)
            exact Frame.refl _
          · exact FrameF.undef
          · exact FrameF.undef
          · extract_lets +onlyGivenNames x5
            have h6 : Frame [.attic, .regs, .larder, .larErr, .conflicts, .clusters, .regions, .slabs, .links, .sync, .jobs, .strm, .hands, .resil, .out, .freeCtr] s x5 := by
              subst x5
              refine Frame.step ?_ (State.grantSlip_frame _ _ _) (by decide)
              refine Frame.step ?_ h4 (by decide)
              exact Frame.refl _
            clear_value x5
            extract_lets +onlyGivenNames x7
            clear_value x7
            extract_lets +onlyGivenNames x8
            clear_value x8
            extract_lets +onlyGivenNames x9
            clear_value x9
            extract_lets +onlyGivenNames x10
            clear_value x10
            unfold State.readHandoffs
            unfold State.planRead
            refine FrameF.ite (fun _ => ?_) fun _ => ?_
            · exact FrameF.undef
            · split
              · rename_i h11
                have h12 := (State.celRead_frame _ _ _ _).of_eq h11
                beta_reduce
                extract_lets +onlyGivenNames x13
                clear_value x13
                extract_lets +onlyGivenNames x14
                subst x14
                extract_lets +onlyGivenNames x15
                have h16 : Frame [.attic, .regs, .larder, .larErr, .conflicts, .clusters, .regions, .slabs, .links, .sync, .jobs, .strm, .hands, .resil, .out, .freeCtr] s x15 := by
                  subst x15
                  refine Frame.step ?_ (State.holdWindow_frame _ _ _) (by decide)
                  refine Frame.step ?_ (State.resetSync_frame _) (by decide)
                  refine Frame.step ?_ (State.setOut_frame _ _ _) (by decide)
                  refine Frame.step ?_ h12 (by decide)
                  exact h6
                clear_value x15
                extract_lets +onlyGivenNames x17
                subst x17
                extract_lets +onlyGivenNames x18
                have h19 : Frame [.attic, .regs, .larder, .larErr, .conflicts, .clusters, .regions, .slabs, .links, .sync, .jobs, .strm, .hands, .resil, .out, .freeCtr] s x18 := by
                  subst x18
                  refine Frame.upd ?_ rfl
                  exact h16
                clear_value x18
                extract_lets +onlyGivenNames x20
                have h21 : Frame [.attic, .regs, .larder, .larErr, .conflicts, .clusters, .regions, .slabs, .links, .sync, .jobs, .strm, .hands, .resil, .out, .freeCtr] s x20 := by
                  subst x20
                  refine Frame.step ?_ (State.notePlan_frame _ _ _ _) (by decide)
                  refine Frame.foldl ?_ ?_
                  · exact h19
                  · intro x22 x23 h24
                    refine Frame.step ?_ (State.updRg_frame _ _ _) (by decide)
                    exact h24
                clear_value x20
                refine FrameF.bind ?_ ?_
                · refine FrameF.ite (fun _ => ?_) fun _ => ?_
                  · refine FrameF.ok ?_
                    exact h21
                  · refine FrameF.bind ?_ ?_
                    · refine FrameF.step ?_ (State.loadTables_frame _ _ _) (by decide)
                      exact h21
                    · intro x25 h26
                      refine FrameF.step ?_ (State.cachePrograms_frame _ _ _ _) (by decide)
                      exact h26
                · intro x27 h28
                  extract_lets +onlyGivenNames x29
                  have h30 : Frame [.attic, .regs, .larder, .larErr, .conflicts, .clusters, .regions, .slabs, .links, .sync, .jobs, .strm, .hands, .resil, .out, .freeCtr] s x29 := by
                    subst x29
                    split
                    · refine Frame.foldl ?_ ?_
                      · exact h28
                      · intro x31 x32 h33
                        refine Frame.step ?_ (State.pullTag_frame _ _ _) (by decide)
                        exact h33
                    · exact h28
                  clear_value x29
                  extract_lets +onlyGivenNames x34
                  have h35 : Frame [.attic, .regs, .larder, .larErr, .conflicts, .clusters, .regions, .slabs, .links, .sync, .jobs, .strm, .hands, .resil, .out, .freeCtr] s x34 := by
                    subst x34
                    refine Frame.step ?_ (State.wakeGrant_frame _ _ _) (by decide)
                    exact h30
                  clear_value x34
                  refine FrameF.fold ?_ ?_
                  · exact h35
                  · intro x36 x37 h38
                    refine FrameF.step ?_ (State.joinStep_frame _ _) (by decide)
                    exact h38
              · rename_i h39
                have h40 := (State.celRead_frame _ _ _ _).of_eq h39
                refine FrameF.held ?_
                refine Frame.step ?_ h40 (by decide)
                exact h6
        · refine FrameF.ite (fun _ => ?_) fun _ => ?_
          · beta_reduce
            split
            · refine FrameF.ok ?_
              refine Frame.step ?_ (State.finish_frame _ _ _ _ _) (by decide)
              refine Frame.step ?_ h4 (by decide)
              exact Frame.refl _
            · exact FrameF.undef
            · exact FrameF.undef
            · extract_lets +onlyGivenNames x41
              have h42 : Frame [.attic, .regs, .larder, .larErr, .conflicts, .clusters, .regions, .slabs, .links, .sync, .jobs, .strm, .hands, .resil, .out, .freeCtr] s x41 := by
                subst x41
                refine Frame.step ?_ (State.grantSlip_frame _ _ _) (by decide)
                refine Frame.step ?_ h4 (by decide)
                exact Frame.refl _
              clear_value x41
              extract_lets +onlyGivenNames x43
              clear_value x43
              extract_lets +onlyGivenNames x44
              clear_value x44
              extract_lets +onlyGivenNames x45
              clear_value x45
              extract_lets +onlyGivenNames x46
              clear_value x46
              unfold State.readHandoffs
              unfold State.planRead
              refine FrameF.ite (fun _ => ?_) fun _ => ?_
              · exact FrameF.undef
              · split
                · rename_i h47
                  have h48 := (State.celRead_frame _ _ _ _).of_eq h47
                  beta_reduce
                  extract_lets +onlyGivenNames x49
                  clear_value x49
                  extract_lets +onlyGivenNames x50
                  subst x50
                  extract_lets +onlyGivenNames x51
                  have h52 : Frame [.attic, .regs, .larder, .larErr, .conflicts, .clusters, .regions, .slabs, .links, .sync, .jobs, .strm, .hands, .resil, .out, .freeCtr] s x51 := by
                    subst x51
                    refine Frame.step ?_ (State.holdWindow_frame _ _ _) (by decide)
                    refine Frame.step ?_ (State.resetSync_frame _) (by decide)
                    refine Frame.step ?_ (State.setOut_frame _ _ _) (by decide)
                    refine Frame.step ?_ h48 (by decide)
                    exact h42
                  clear_value x51
                  extract_lets +onlyGivenNames x53
                  subst x53
                  extract_lets +onlyGivenNames x54
                  have h55 : Frame [.attic, .regs, .larder, .larErr, .conflicts, .clusters, .regions, .slabs, .links, .sync, .jobs, .strm, .hands, .resil, .out, .freeCtr] s x54 := by
                    subst x54
                    refine Frame.upd ?_ rfl
                    exact h52
                  clear_value x54
                  extract_lets +onlyGivenNames x56
                  have h57 : Frame [.attic, .regs, .larder, .larErr, .conflicts, .clusters, .regions, .slabs, .links, .sync, .jobs, .strm, .hands, .resil, .out, .freeCtr] s x56 := by
                    subst x56
                    refine Frame.step ?_ (State.notePlan_frame _ _ _ _) (by decide)
                    refine Frame.foldl ?_ ?_
                    · exact h55
                    · intro x58 x59 h60
                      refine Frame.step ?_ (State.updRg_frame _ _ _) (by decide)
                      exact h60
                  clear_value x56
                  refine FrameF.bind ?_ ?_
                  · refine FrameF.ite (fun _ => ?_) fun _ => ?_
                    · refine FrameF.ok ?_
                      exact h57
                    · refine FrameF.bind ?_ ?_
                      · refine FrameF.step ?_ (State.loadTables_frame _ _ _) (by decide)
                        exact h57
                      · intro x61 h62
                        refine FrameF.step ?_ (State.cachePrograms_frame _ _ _ _) (by decide)
                        exact h62
                  · intro x63 h64
                    extract_lets +onlyGivenNames x65
                    have h66 : Frame [.attic, .regs, .larder, .larErr, .conflicts, .clusters, .regions, .slabs, .links, .sync, .jobs, .strm, .hands, .resil, .out, .freeCtr] s x65 := by
                      subst x65
                      split
                      · refine Frame.foldl ?_ ?_
                        · exact h64
                        · intro x67 x68 h69
                          refine Frame.step ?_ (State.pullTag_frame _ _ _) (by decide)
                          exact h69
                      · exact h64
                    clear_value x65
                    extract_lets +onlyGivenNames x70
                    have h71 : Frame [.attic, .regs, .larder, .larErr, .conflicts, .clusters, .regions, .slabs, .links, .sync, .jobs, .strm, .hands, .resil, .out, .freeCtr] s x70 := by
                      subst x70
                      refine Frame.step ?_ (State.wakeGrant_frame _ _ _) (by decide)
                      exact h66
                    clear_value x70
                    refine FrameF.fold ?_ ?_
                    · exact h71
                    · intro x72 x73 h74
                      refine FrameF.step ?_ (State.joinStep_frame _ _) (by decide)
                      exact h74
                · rename_i h75
                  have h76 := (State.celRead_frame _ _ _ _).of_eq h75
                  refine FrameF.held ?_
                  refine Frame.step ?_ h76 (by decide)
                  exact h42
          · refine State.heldAll_frameK ?_ (by decide) ?_
            · refine Frame.step ?_ h4 (by decide)
              exact Frame.refl _
            · intro x77 x78 h79
              beta_reduce
              split
              · refine FrameF.ok ?_
                refine Frame.step ?_ (State.finish_frame _ _ _ _ _) (by decide)
                exact h79
              · exact FrameF.undef
              · exact FrameF.undef
              · extract_lets +onlyGivenNames x80
                have h81 : Frame [.attic, .regs, .larder, .larErr, .conflicts, .clusters, .regions, .slabs, .links, .sync, .jobs, .strm, .hands, .resil, .out, .freeCtr] s x80 := by
                  subst x80
                  refine Frame.step ?_ (State.grantSlip_frame _ _ _) (by decide)
                  exact h79
                clear_value x80
                extract_lets +onlyGivenNames x82
                clear_value x82
                extract_lets +onlyGivenNames x83
                clear_value x83
                extract_lets +onlyGivenNames x84
                clear_value x84
                extract_lets +onlyGivenNames x85
                clear_value x85
                unfold State.readHandoffs
                unfold State.planRead
                refine FrameF.ite (fun _ => ?_) fun _ => ?_
                · exact FrameF.undef
                · split
                  · rename_i h86
                    have h87 := (State.celRead_frame _ _ _ _).of_eq h86
                    beta_reduce
                    extract_lets +onlyGivenNames x88
                    clear_value x88
                    extract_lets +onlyGivenNames x89
                    subst x89
                    extract_lets +onlyGivenNames x90
                    have h91 : Frame [.attic, .regs, .larder, .larErr, .conflicts, .clusters, .regions, .slabs, .links, .sync, .jobs, .strm, .hands, .resil, .out, .freeCtr] s x90 := by
                      subst x90
                      refine Frame.step ?_ (State.holdWindow_frame _ _ _) (by decide)
                      refine Frame.step ?_ (State.resetSync_frame _) (by decide)
                      refine Frame.step ?_ (State.setOut_frame _ _ _) (by decide)
                      refine Frame.step ?_ h87 (by decide)
                      exact h81
                    clear_value x90
                    extract_lets +onlyGivenNames x92
                    subst x92
                    extract_lets +onlyGivenNames x93
                    have h94 : Frame [.attic, .regs, .larder, .larErr, .conflicts, .clusters, .regions, .slabs, .links, .sync, .jobs, .strm, .hands, .resil, .out, .freeCtr] s x93 := by
                      subst x93
                      refine Frame.upd ?_ rfl
                      exact h91
                    clear_value x93
                    extract_lets +onlyGivenNames x95
                    have h96 : Frame [.attic, .regs, .larder, .larErr, .conflicts, .clusters, .regions, .slabs, .links, .sync, .jobs, .strm, .hands, .resil, .out, .freeCtr] s x95 := by
                      subst x95
                      refine Frame.step ?_ (State.notePlan_frame _ _ _ _) (by decide)
                      refine Frame.foldl ?_ ?_
                      · exact h94
                      · intro x97 x98 h99
                        refine Frame.step ?_ (State.updRg_frame _ _ _) (by decide)
                        exact h99
                    clear_value x95
                    refine FrameF.bind ?_ ?_
                    · refine FrameF.ite (fun _ => ?_) fun _ => ?_
                      · refine FrameF.ok ?_
                        exact h96
                      · refine FrameF.bind ?_ ?_
                        · refine FrameF.step ?_ (State.loadTables_frame _ _ _) (by decide)
                          exact h96
                        · intro x100 h101
                          refine FrameF.step ?_ (State.cachePrograms_frame _ _ _ _) (by decide)
                          exact h101
                    · intro x102 h103
                      extract_lets +onlyGivenNames x104
                      have h105 : Frame [.attic, .regs, .larder, .larErr, .conflicts, .clusters, .regions, .slabs, .links, .sync, .jobs, .strm, .hands, .resil, .out, .freeCtr] s x104 := by
                        subst x104
                        split
                        · refine Frame.foldl ?_ ?_
                          · exact h103
                          · intro x106 x107 h108
                            refine Frame.step ?_ (State.pullTag_frame _ _ _) (by decide)
                            exact h108
                        · exact h103
                      clear_value x104
                      extract_lets +onlyGivenNames x109
                      have h110 : Frame [.attic, .regs, .larder, .larErr, .conflicts, .clusters, .regions, .slabs, .links, .sync, .jobs, .strm, .hands, .resil, .out, .freeCtr] s x109 := by
                        subst x109
                        refine Frame.step ?_ (State.wakeGrant_frame _ _ _) (by decide)
                        exact h105
                      clear_value x109
                      refine FrameF.fold ?_ ?_
                      · exact h110
                      · intro x111 x112 h113
                        refine FrameF.step ?_ (State.joinStep_frame _ _) (by decide)
                        exact h113
                  · rename_i h114
                    have h115 := (State.celRead_frame _ _ _ _).of_eq h114
                    refine FrameF.held ?_
                    refine Frame.step ?_ h115 (by decide)
                    exact h81
      · rename_i h116
        have h117 := (State.celRead_frame _ _ _ _).of_eq h116
        refine FrameF.held ?_
        refine Frame.step ?_ h117 (by decide)
        exact Frame.refl _

theorem State.grantTransfer_frame (s : State) (n : Nat) (d : BitVec 512) (load : Bool) :
    FrameF [.attic, .regs, .larder, .larErr, .conflicts, .clusters, .regions, .links, .jobs, .reqs, .resil, .out, .freeCtr] s (State.grantTransfer s n d load) := by
  unfold State.grantTransfer
  extract_lets +onlyGivenNames x0
  clear_value x0
  extract_lets +onlyGivenNames x1
  clear_value x1
  extract_lets +onlyGivenNames x2
  clear_value x2
  split
  · exact FrameF.undef
  · refine FrameF.ite (fun _ => ?_) fun _ => ?_
    · refine FrameF.ok ?_
      exact (State.finish_frame _ _ _ _ _).mono (by decide)
    · refine FrameF.ite (fun _ => ?_) fun _ => ?_
      · exact FrameF.undef
      · refine FrameF.ite (fun _ => ?_) fun _ => ?_
        · refine FrameF.ok ?_
          refine Frame.foldl ?_ ?_
          · exact Frame.refl _
          · intro x3 x4 h5
            refine Frame.step ?_ (State.ringRead_frame _ _ _ _) (by decide)
            exact h5
        · extract_lets +onlyGivenNames x6
          clear_value x6
          refine FrameF.ite (fun _ => ?_) fun _ => ?_
          · refine FrameF.ok ?_
            exact (State.finish_frame _ _ _ _ _).mono (by decide)
          · refine FrameF.ite (fun _ => ?_) fun _ => ?_
            · refine FrameF.ok ?_
              refine Frame.step ?_ (State.pumpReqs_frame _) (by decide)
              exact (State.addTransfer_frame _ _ _ _ _ _ _ _ _).mono (by decide)
            · split
              · rename_i h7
                have h8 := (State.unitRead_frame _ _ _ _).of_eq h7
                refine FrameF.held ?_
                refine Frame.step ?_ h8 (by decide)
                exact Frame.refl _
              · rename_i h9
                have h10 := (State.unitRead_frame _ _ _ _).of_eq h9
                extract_lets +onlyGivenNames x11
                subst x11
                refine FrameF.ite (fun _ => ?_) fun _ => ?_
                · refine FrameF.ok ?_
                  refine Frame.step ?_ (State.finish_frame _ _ _ _ _) (by decide)
                  refine Frame.foldl ?_ ?_
                  · refine Frame.step ?_ h10 (by decide)
                    exact Frame.refl _
                  · intro x12 x13 h14
                    refine Frame.step ?_ (State.hostWrite_frame _ _ _ _) (by decide)
                    exact h14
                · refine FrameF.ok ?_
                  refine Frame.step ?_ (State.pumpReqs_frame _) (by decide)
                  refine Frame.step ?_ (State.addTransfer_frame _ _ _ _ _ _ _ _ _) (by decide)
                  refine Frame.step ?_ h10 (by decide)
                  exact Frame.refl _

theorem State.grantHandoff_frame (s : State) (n : Nat) (d : BitVec 512) :
    Frame [.regs, .links, .jobs, .reqs, .out] s (State.grantHandoff s n d) := by
  unfold State.grantHandoff
  extract_lets +onlyGivenNames x0
  subst x0
  extract_lets +onlyGivenNames x1
  clear_value x1
  refine Frame.ite (fun _ => ?_) fun _ => ?_
  · exact (State.finish_frame _ _ _ _ _).mono (by decide)
  · extract_lets +onlyGivenNames x2
    subst x2
    extract_lets +onlyGivenNames x3
    have h4 : Frame [.regs, .links, .jobs, .reqs, .out] s x3 := by
      subst x3
      refine Frame.upd ?_ rfl
      exact Frame.refl _
    clear_value x3
    refine Frame.step ?_ (State.pumpReqs_frame _) (by decide)
    refine Frame.step ?_ (State.addPackets_frame _ _ _ _ _ _) (by decide)
    exact h4

theorem State.beginWork_frame (s : State) (n : Nat) :
    FrameF [.attic, .regs, .larder, .larErr, .cellar, .celErr, .conflicts, .clusters, .regions, .jobs, .resil, .freeCtr] s (State.beginWork s n) := by
  unfold State.beginWork
  split
  · refine FrameF.ok ?_
    exact Frame.refl _
  · refine FrameF.ite (fun _ => ?_) fun _ => ?_
    · refine FrameF.ok ?_
      exact Frame.refl _
    · extract_lets +onlyGivenNames x0
      have h1 : Frame [.attic, .regs, .larder, .larErr, .cellar, .celErr, .conflicts, .clusters, .regions, .jobs, .resil, .freeCtr] s x0 := by
        subst x0
        exact (State.setOut_frame _ _ _).mono (by decide)
      clear_value x0
      split
      · split
        · refine FrameF.step ?_ (State.copyStart_frame _ _ _ _) (by decide)
          exact h1
        · exact FrameF.undef
      · refine FrameF.step ?_ (State.snapshot_frame _ _ _ _) (by decide)
        exact h1
      · refine FrameF.ok ?_
        exact h1

theorem State.grantOne_frame (s : State) (n : Nat) (o : Outst) :
    FrameF [.attic, .regs, .larder, .larErr, .cellar, .celErr, .conflicts, .clusters, .regions, .slabs, .links, .sync, .jobs, .strm, .reqs, .hands, .resil, .out, .freeCtr] s (State.grantOne s n o) := by
  unfold State.grantOne
  refine FrameF.bind ?_ ?_
  · refine FrameF.step ?_ (State.claimRegions_frame _ _) (by decide)
    exact Frame.refl _
  · intro x0 h1
    extract_lets +onlyGivenNames x2
    have h3 : Frame [.attic, .regs, .larder, .larErr, .cellar, .celErr, .conflicts, .clusters, .regions, .slabs, .links, .sync, .jobs, .strm, .reqs, .hands, .resil, .out, .freeCtr] s x2 := by
      subst x2
      refine Frame.step ?_ (State.setOut_frame _ _ _) (by decide)
      exact h1
    clear_value x2
    extract_lets +onlyGivenNames x4
    have h5 : Frame [.attic, .regs, .larder, .larErr, .cellar, .celErr, .conflicts, .clusters, .regions, .slabs, .links, .sync, .jobs, .strm, .reqs, .hands, .resil, .out, .freeCtr] s x4 := by
      subst x4
      refine Frame.step ?_ (State.addGrant_frame _ _) (by decide)
      exact h3
    clear_value x4
    extract_lets +onlyGivenNames x6
    subst x6
    extract_lets +onlyGivenNames x7
    have h8 : Frame [.attic, .regs, .larder, .larErr, .cellar, .celErr, .conflicts, .clusters, .regions, .slabs, .links, .sync, .jobs, .strm, .reqs, .hands, .resil, .out, .freeCtr] s x7 := by
      subst x7
      refine Frame.upd ?_ rfl
      exact h5
    clear_value x7
    extract_lets +onlyGivenNames x9
    clear_value x9
    split
    · refine FrameF.step ?_ (State.grantPlan_frame _ _ _) (by decide)
      exact h8
    · refine FrameF.step ?_ (State.beginWork_frame _ _) (by decide)
      refine Frame.step ?_ (State.wakeGrant_frame _ _ _) (by decide)
      exact h8
    · refine FrameF.step ?_ (State.beginWork_frame _ _) (by decide)
      refine Frame.step ?_ (State.wakeGrant_frame _ _ _) (by decide)
      exact h8
    · refine FrameF.step ?_ (State.grantTransfer_frame _ _ _ _) (by decide)
      exact h8
    · refine FrameF.step ?_ (State.grantTransfer_frame _ _ _ _) (by decide)
      exact h8
    · refine FrameF.ok ?_
      refine Frame.step ?_ (State.grantHandoff_frame _ _ _) (by decide)
      exact h8
    · refine FrameF.ok ?_
      exact h8

theorem State.recordWaits_frame (s : State) :
    Frame [.regs, .regions, .freeCtr] s (State.recordWaits s) := by
  unfold State.recordWaits
  refine Frame.foldl ?_ ?_
  · exact Frame.refl _
  · intro x0 x1 h2
    extract_lets +onlyGivenNames x3
    clear_value x3
    extract_lets +onlyGivenNames x4
    clear_value x4
    refine Frame.step ?_ (State.setReg_frame _ _ _) (by decide)
    refine Frame.step ?_ (State.useFree_frame _) (by decide)
    refine Frame.step ?_ (State.updRg_frame _ _ _) (by decide)
    exact h2

theorem State.closePitch_frame (s : State) (st : StepSt) (hr : Nat) (e : PEnt) (run : PEnt) :
    FrameF [.attic, .regs, .larder, .larErr, .cellar, .celErr, .conflicts, .clusters, .regions, .links, .jobs, .hands, .resil, .out, .freeCtr] s (State.closePitch s st hr e run) := by
  unfold State.closePitch
  extract_lets +onlyGivenNames x0
  subst x0
  extract_lets +onlyGivenNames x1
  clear_value x1
  split
  · exact FrameF.undef
  · refine FrameF.bind ?_ ?_
    · refine FrameF.step ?_ (State.planWrite_frame _ _ _ _) (by decide)
      exact Frame.refl _
    · intro x2 h3
      extract_lets +onlyGivenNames x4
      clear_value x4
      extract_lets +onlyGivenNames x5
      clear_value x5
      extract_lets +onlyGivenNames x6
      have h7 : Frame [.attic, .regs, .larder, .larErr, .cellar, .celErr, .conflicts, .clusters, .regions, .links, .jobs, .hands, .resil, .out, .freeCtr] s x6 := by
        subst x6
        refine Frame.step ?_ (State.recordWaits_frame _) (by decide)
        exact h3
      clear_value x6
      extract_lets +onlyGivenNames x8
      subst x8
      extract_lets +onlyGivenNames x9
      have h10 : Frame [.attic, .regs, .larder, .larErr, .cellar, .celErr, .conflicts, .clusters, .regions, .links, .jobs, .hands, .resil, .out, .freeCtr] s x9 := by
        subst x9
        refine Frame.upd ?_ rfl
        exact h7
      clear_value x9
      extract_lets +onlyGivenNames x11
      have h12 : Frame [.attic, .regs, .larder, .larErr, .cellar, .celErr, .conflicts, .clusters, .regions, .links, .jobs, .hands, .resil, .out, .freeCtr] s x11 := by
        subst x11
        refine Frame.step ?_ (State.updStep_frame _ _) (by decide)
        exact h10
      clear_value x11
      unfold State.readHandoffs
      unfold State.planRead
      refine FrameF.ite (fun _ => ?_) fun _ => ?_
      · exact FrameF.undef
      · split
        · rename_i h13
          have h14 := (State.celRead_frame _ _ _ _).of_eq h13
          beta_reduce
          extract_lets +onlyGivenNames x15
          subst x15
          refine FrameF.bind ?_ ?_
          · refine FrameF.fold ?_ ?_
            · refine Frame.step ?_ h14 (by decide)
              exact h12
            · intro x16 x17 h18
              split
              · refine FrameF.step ?_ (State.sendHandoff_frame _ _ _ _ _ _ _) (by decide)
                exact h18
              · refine FrameF.ok ?_
                exact h18
          · intro x19 h20
            refine FrameF.ite (fun _ => ?_) fun _ => ?_
            · refine FrameF.step ?_ (State.heldSealAll_frame _ _) (by decide)
              exact h20
            · refine FrameF.bind ?_ ?_
              · refine FrameF.fold ?_ ?_
                · exact h20
                · intro x21 x22 h23
                  refine FrameF.step ?_ (State.startRegion_frame _ _) (by decide)
                  exact h23
              · intro x24 h25
                refine FrameF.ok ?_
                refine Frame.step ?_ (State.handoffWait_frame _) (by decide)
                exact h25
        · rename_i h26
          have h27 := (State.celRead_frame _ _ _ _).of_eq h26
          refine FrameF.held ?_
          refine Frame.step ?_ h27 (by decide)
          exact h12

theorem State.linkItem_frame (s : State) (a : Nat) (win : Word) (seq : Word) :
    Frame [.regs, .strm] s (State.linkItem s a win seq) := by
  unfold State.linkItem
  extract_lets +onlyGivenNames x0
  clear_value x0
  extract_lets +onlyGivenNames x1
  clear_value x1
  extract_lets +onlyGivenNames x2
  clear_value x2
  refine Frame.ite (fun _ => ?_) fun _ => ?_
  · exact Frame.refl _
  · refine Frame.ite (fun _ => ?_) fun _ => ?_
    · exact (State.count_frame _ _ _ _ _).mono (by decide)
    · extract_lets +onlyGivenNames x3
      clear_value x3
      extract_lets +onlyGivenNames x4
      clear_value x4
      extract_lets +onlyGivenNames x5
      clear_value x5
      extract_lets +onlyGivenNames x6
      subst x6
      extract_lets +onlyGivenNames x7
      have h8 : Frame [.regs, .strm] s x7 := by
        subst x7
        refine Frame.ite (fun _ => ?_) fun _ => ?_
        · exact (State.count_frame _ _ _ _ _).mono (by decide)
        · exact Frame.refl _
      clear_value x7
      refine Frame.step ?_ (State.setAct_frame _ _ _) (by decide)
      exact h8

end Sys2Proof.Machine
end

