-- ==== Sys2Proof/Laws/FrameResil.lean ====
section
/-! SUPPORT. Frames of the shared operations of repairs, restarts and links: what each may change, whatever it answers. -/

namespace Sys2Proof.Machine

-- One proof after the other: together they would take a thread each, and with it a stack.
set_option Elab.async false

-- Repair

theorem State.markBad_frame (s : State) (site : Nat) :
    Frame [.attic] s (State.markBad s site) := by
  unfold State.markBad
  refine Frame.ite (fun _ => ?_) fun _ => ?_
  · exact Frame.refl _
  · refine Frame.upd ?_ rfl
    exact Frame.refl _

theorem State.markBypass_frame (s : State) (site : Nat) :
    Frame [.attic] s (State.markBypass s site) := by
  unfold State.markBypass
  refine Frame.ite (fun _ => ?_) fun _ => ?_
  · exact Frame.refl _
  · refine Frame.upd ?_ rfl
    exact Frame.refl _

theorem State.zeroRow_frame (s : State) (site : Nat) (row : Nat) :
    Frame [.larder, .larErr, .clusters] s (State.zeroRow s site row) := by
  unfold State.zeroRow
  extract_lets +onlyGivenNames x0
  clear_value x0
  extract_lets +onlyGivenNames x1
  clear_value x1
  extract_lets +onlyGivenNames x2
  have h3 : Frame [.larder, .larErr, .clusters] s x2 := by
    subst x2
    exact (State.dropWriteBack_frame _ _ _ _).mono (by decide)
  clear_value x2
  refine Frame.upd ?_ rfl
  exact h3

theorem State.spareLarRow_frame (s : State) (site : Nat) (row : Nat) :
    Frame [.attic, .larder, .larErr, .clusters] s (State.spareLarRow s site row) := by
  unfold State.spareLarRow
  extract_lets +onlyGivenNames x0
  clear_value x0
  split
  · extract_lets +onlyGivenNames x1
    clear_value x1
    refine Frame.step ?_ (State.zeroRow_frame _ _ _) (by decide)
    refine Frame.upd ?_ rfl
    exact Frame.refl _
  · exact (State.markBad_frame _ _).mono (by decide)

theorem State.spareArrayRow_frame (s : State) (site : Nat) (blk : Nat) (row : Nat) :
    Frame [.attic, .regs] s (State.spareArrayRow s site blk row) := by
  unfold State.spareArrayRow
  extract_lets f a b
  refine Frame.ite (fun _ => ?_) fun _ => ?_
  · refine Frame.upd (Frame.refl _) rfl (wrg := fun _ h => ?_)
    cases Tab.get none s.regs b
    · exact h
    · exact Tab.wf_set h
  · exact (State.markBad_frame _ _).mono (by decide)

theorem State.shiftWire_frame (s : State) (site : Nat) (port : Nat) (net : Nat) (wire : Nat) (group : Nat) :
    Frame [.attic, .regions] s (State.shiftWire s site port net wire group) := by
  unfold State.shiftWire
  extract_lets +onlyGivenNames x0
  subst x0
  extract_lets +onlyGivenNames x1
  have h2 : Frame [.attic, .regions] s x1 := by
    subst x1
    refine Frame.upd ?_ rfl
    exact Frame.refl _
  clear_value x1
  split
  · exact h2
  · refine Frame.step ?_ (State.updRg_frame _ _ _) (by decide)
    exact h2

theorem applyRepair_frame (a : State × List Retire) (k : ReportKind) :
    FrameP [.attic, .regs, .larder, .larErr, .cellar, .celErr, .clusters, .regions, .resil] a.1 (applyRepair a k) := by
  unfold applyRepair
  extract_lets +onlyGivenNames x0
  have h1 : Frame [.attic, .regs, .larder, .larErr, .cellar, .celErr, .clusters, .regions, .resil] a.1 x0 := by
    subst x0
    exact Frame.refl _
  clear_value x0
  split
  · refine FrameP.pair ?_
    refine Frame.step ?_ (State.spareLarRow_frame _ _ _) (by decide)
    exact h1
  · refine FrameP.pair ?_
    refine Frame.step ?_ (State.spareArrayRow_frame _ _ _ _) (by decide)
    exact h1
  · refine FrameP.pair ?_
    refine Frame.step ?_ (State.markBad_frame _ _) (by decide)
    exact h1
  · extract_lets +onlyGivenNames x2
    subst x2
    split
    · rename_i h3
      have h4 := (State.remapRow_frame _ _ _).of_eq h3
      refine FrameP.pair ?_
      refine Frame.step ?_ (State.rewriteRow_frame _ _ _) (by decide)
      refine Frame.step ?_ h4 (by decide)
      exact h1
    · rename_i h5
      refine FrameP.pair ?_
      exact h1
  · refine FrameP.ite (fun _ => ?_) fun _ => ?_
    · exact Frame.refl _
    · split
      · refine FrameP.pair ?_
        refine Frame.step ?_ (State.markBypass_frame _ _) (by decide)
        exact h1
      · refine FrameP.ite (fun _ => ?_) fun _ => ?_
        · refine FrameP.pair ?_
          refine Frame.step ?_ (State.planRetirement_frame _ _ _) (by decide)
          refine Frame.step ?_ (State.shiftWire_frame _ _ _ _ _ _) (by decide)
          exact h1
        · refine FrameP.pair ?_
          refine Frame.step ?_ (State.markBypass_frame _ _) (by decide)
          exact h1
  · refine FrameP.pair ?_
    exact h1
  · exact Frame.refl _

theorem State.applyMarginal_frame (s : State) :
    Frame [.attic] s (State.applyMarginal s) := by
  unfold State.applyMarginal
  refine Frame.foldl ?_ ?_
  · refine Frame.upd ?_ rfl
    exact Frame.refl _
  · intro x0 x1 h2
    refine Frame.step ?_ (State.markBad_frame _ _) (by decide)
    exact h2

theorem State.applyTodo_frame (s : State) :
    FrameP [.attic, .regs, .larder, .larErr, .cellar, .celErr, .clusters, .regions, .resil] s (State.applyTodo s) := by
  unfold State.applyTodo
  extract_lets +onlyGivenNames x0
  subst x0
  extract_lets +onlyGivenNames x1
  have h2 : FrameP [.attic, .regs, .larder, .larErr, .cellar, .celErr, .clusters, .regions, .resil] s x1 := by
    subst x1
    refine FrameP.foldl ?_ ?_
    · refine FrameP.pair ?_
      refine Frame.upd ?_ rfl
      exact Frame.refl _
    · intro x3 x4 h5
      refine FrameP.step ?_ (applyRepair_frame _ _) (by decide)
      refine FrameP.fst ?_
      exact h5
  clear_value x1
  refine FrameP.pair ?_
  refine FrameP.fst ?_
  exact h2

-- Resil

theorem retireOne_frame (a : State × List Retire) (t : Retire) :
    FrameP [.attic, .regs, .larder, .larErr, .clusters, .regions, .strm, .resil] a.1 (retireOne a t) := by
  unfold retireOne
  extract_lets +onlyGivenNames x0
  have h1 : Frame [.attic, .regs, .larder, .larErr, .clusters, .regions, .strm, .resil] a.1 x0 := by
    subst x0
    exact Frame.refl _
  clear_value x0
  extract_lets +onlyGivenNames x2
  clear_value x2
  refine FrameP.ite (fun _ => ?_) fun _ => ?_
  · exact Frame.refl _
  · refine FrameP.ite (fun _ => ?_) fun _ => ?_
    · refine FrameP.pair ?_
      refine Frame.step ?_ (State.deferRetirement_frame _ _) (by decide)
      exact h1
    · refine FrameP.pair ?_
      refine Frame.step ?_ (State.toDark_frame _ _) (by decide)
      refine Frame.step ?_ (State.abandonIn_frame _ _) (by decide)
      refine Frame.step ?_ (State.markRetired_frame _ _ _ _) (by decide)
      exact h1

theorem excludeOne_frame (a : State × List Retire) (r : Nat) :
    FrameP [.attic, .dev, .regs, .larder, .larErr, .clusters, .regions, .jobs, .strm, .resil] a.1 (excludeOne a r) := by
  unfold excludeOne
  extract_lets +onlyGivenNames x0
  have h1 : Frame [.attic, .dev, .regs, .larder, .larErr, .clusters, .regions, .jobs, .strm, .resil] a.1 x0 := by
    subst x0
    exact Frame.refl _
  clear_value x0
  refine FrameP.ite (fun _ => ?_) fun _ => ?_
  · refine FrameP.step ?_ (retireOne_frame _ _) (by decide)
    exact Frame.refl _
  · refine FrameP.pair ?_
    refine Frame.step ?_ (State.suspect_frame _ _) (by decide)
    exact h1

theorem State.gridTodo_frame (s : State) (planned : Bool) :
    FrameP [.attic, .regs, .larder, .larErr, .cellar, .celErr, .clusters, .regions, .resil] s (State.gridTodo s planned) := by
  unfold State.gridTodo
  extract_lets +onlyGivenNames x0
  have h1 : Frame [.attic, .regs, .larder, .larErr, .cellar, .celErr, .clusters, .regions, .resil] s x0 := by
    subst x0
    refine Frame.ite (fun _ => ?_) fun _ => ?_
    · exact (State.applyMarginal_frame _).mono (by decide)
    · exact Frame.refl _
  clear_value x0
  extract_lets +onlyGivenNames x2
  have h3 : FrameP [.attic, .regs, .larder, .larErr, .cellar, .celErr, .clusters, .regions, .resil] s x2 := by
    subst x2
    refine FrameP.step ?_ (State.applyTodo_frame _) (by decide)
    exact h1
  clear_value x2
  refine FrameP.pair ?_
  refine Frame.upd ?_ rfl
  exact h1

theorem State.retireAll_frame (s : State) (due : List Retire) (excl : List Nat) :
    FrameP [.attic, .dev, .regs, .larder, .larErr, .clusters, .regions, .jobs, .strm, .resil] s (State.retireAll s due excl) := by
  unfold State.retireAll
  extract_lets +onlyGivenNames x0
  subst x0
  refine FrameP.foldl ?_ ?_
  · refine FrameP.foldl ?_ ?_
    · refine FrameP.pair ?_
      exact Frame.refl _
    · intro x1 x2 h3
      refine FrameP.step ?_ (retireOne_frame _ _) (by decide)
      refine FrameP.fst ?_
      exact h3
  · intro x4 x5 h6
    refine FrameP.step ?_ (excludeOne_frame _ _) (by decide)
    refine FrameP.fst ?_
    exact h6

theorem State.retireNow_frame (s : State) (x : RestartSt) :
    FrameP [.attic, .dev, .regs, .larder, .larErr, .cellar, .celErr, .clusters, .regions, .jobs, .strm, .resil] s (State.retireNow s x) := by
  unfold State.retireNow
  extract_lets +onlyGivenNames x0
  have h1 : FrameP [.attic, .dev, .regs, .larder, .larErr, .cellar, .celErr, .clusters, .regions, .jobs, .strm, .resil] s x0 := by
    subst x0
    refine FrameP.step ?_ (State.gridTodo_frame _ _) (by decide)
    exact Frame.refl _
  clear_value x0
  refine FrameP.step ?_ (State.retireAll_frame _ _ _) (by decide)
  refine FrameP.fst ?_
  exact h1

theorem Flow.orStuck_frameC {P : List Part} {s0 : State} {f : Flow} {s : State} (h : FrameF P s0 f) (hq : [Part.resil] ⊆ P) (hs : Frame P s0 s) :
    Frame P s0 (f.orStuck s) := by
  match f with
  | .ok t => exact FrameF.of_ok h rfl
  | .error (.held t) => exact Frame.step (FrameF.of_held h rfl) (Frame.upd (P := [.resil]) (Frame.refl _) rfl) hq
  | .error (.undef _) => exact Frame.step hs (Frame.upd (P := [.resil]) (Frame.refl _) rfl) hq

theorem State.readSegs_frameK {P : List Part} {s0 : State} {l : List Seg} {acc : List Byte} {s : State} {k : State → List Byte → Flow}
    (hs : Frame P s0 s) (hq : [.attic, .regs, .regions, .resil] ⊆ P) (hk : ∀ u x, Frame P s0 u → FrameF P s0 (k u x)) :
    FrameF P s0 (State.readSegs l acc s k) := by
  induction l generalizing acc s with
  | nil => exact hk _ _ hs
  | cons a l ih =>
    obtain ⟨o, b, c, d⟩ := a
    cases o with
    | none =>
      rw [State.readSegs]
      exact ih hs
    | some o =>
      rw [State.readSegs]
      unfold State.planRead
      refine FrameF.ite (fun _ => ?_) fun _ => ?_
      · exact FrameF.undef
      · split
        · rename_i h0
          have h1 := (State.celRead_frame _ _ _ _).of_eq h0
          beta_reduce
          refine ih ?_
          refine Frame.step ?_ h1 (List.Subset.trans (by decide) hq)
          exact hs
        · rename_i h2
          have h3 := (State.celRead_frame _ _ _ _).of_eq h2
          refine FrameF.held ?_
          refine Frame.step ?_ h3 (List.Subset.trans (by decide) hq)
          exact hs

theorem State.readRings_frameK {P : List Part} {s0 : State} {l : List (Nat × Nat × List Seg)} {acc : List (Nat × Nat × List Byte)} {s : State} {k : State → List (Nat × Nat × List Byte) → Flow}
    (hs : Frame P s0 s) (hq : [.attic, .regs, .regions, .resil] ⊆ P) (hk : ∀ u x, Frame P s0 u → FrameF P s0 (k u x)) :
    FrameF P s0 (State.readRings l acc s k) := by
  induction l generalizing acc s with
  | nil => exact hk _ _ hs
  | cons a l ih =>
    obtain ⟨a1, a2, a3⟩ := a
    rw [State.readRings]
    refine State.readSegs_frameK ?_ (List.Subset.trans (by decide) hq) ?_
    · exact hs
    · intro x0 x1 h2
      refine ih ?_
      exact h2

theorem State.moveHeld_frame (o : State) (s : State) (rings : List (Nat × Nat × Nat)) :
    Frame [.attic, .regs, .cellar, .celErr, .regions, .resil] s (State.moveHeld o s rings) := by
  unfold State.moveHeld
  extract_lets +onlyGivenNames x0
  clear_value x0
  extract_lets +onlyGivenNames x1
  subst x1
  extract_lets +onlyGivenNames x2
  clear_value x2
  refine Flow.orStuck_frameC ?_ (by decide) ?_
  · refine State.readRings_frameK ?_ (by decide) ?_
    · beta_reduce
      refine Frame.upd ?_ rfl
      exact Frame.refl _
    · intro x3 x4 h5
      extract_lets +onlyGivenNames x6
      have h7 : Frame [.attic, .regs, .cellar, .celErr, .regions, .resil] s x6 := by
        subst x6
        beta_reduce
        refine Frame.upd ?_ rfl
        exact h5
      clear_value x6
      extract_lets +onlyGivenNames x8
      have h9 : Frame [.attic, .regs, .cellar, .celErr, .regions, .resil] s x8 := by
        subst x8
        refine Frame.foldl ?_ ?_
        · exact h7
        · intro x10 x11 h12
          refine Frame.step ?_ (State.setReg_frame _ _ _) (by decide)
          refine Frame.step ?_ (State.updRg_frame _ _ _) (by decide)
          exact h12
      clear_value x8
      extract_lets +onlyGivenNames x13
      have h14 : Frame [.attic, .regs, .cellar, .celErr, .regions, .resil] s x13 := by
        subst x13
        refine Frame.foldl ?_ ?_
        · exact h9
        · intro x15 x16 h17
          extract_lets +onlyGivenNames x18
          subst x18
          extract_lets +onlyGivenNames x19
          have h20 : Frame [.attic, .regs, .cellar, .celErr, .regions, .resil] s x19 := by
            subst x19
            refine Frame.step ?_ (State.updRg_frame _ _ _) (by decide)
            exact h17
          clear_value x19
          refine Frame.step ?_ (State.setReg_frame _ _ _) (by decide)
          exact h20
      clear_value x13
      refine FrameF.fold ?_ ?_
      · exact h14
      · intro x21 x22 h23
        refine FrameF.step ?_ (State.planWrite_frame _ _ _ _) (by decide)
        exact h23
  · exact Frame.refl _

theorem State.restoreHeld_frame (s : State) (x : RestartSt) :
    Frame [.attic, .regs, .cellar, .celErr, .regions, .resil] s (State.restoreHeld s x) := by
  unfold State.restoreHeld
  refine Flow.orStuck_frameC ?_ (by decide) ?_
  · refine FrameF.fold ?_ ?_
    · exact Frame.refl _
    · intro x0 x1 h2
      refine FrameF.fold ?_ ?_
      · exact h2
      · intro x3 x4 h5
        refine State.readSegs_frameK ?_ (by decide) ?_
        · exact h5
        · intro x6 x7 h8
          refine FrameF.step ?_ (State.planWrite_frame _ _ _ _) (by decide)
          exact h8
  · exact Frame.refl _

theorem State.regrid_frame (s : State) (x : RestartSt) (first : Bool) (due : List Retire) (excl : List Nat) :
    FrameP [.attic, .dev, .regs, .larder, .larErr, .cellar, .celErr, .clusters, .regions, .jobs, .strm, .resil] s (State.regrid s x first due excl) := by
  unfold State.regrid
  extract_lets +onlyGivenNames x0
  have h1 : FrameP [.attic, .dev, .regs, .larder, .larErr, .cellar, .celErr, .clusters, .regions, .jobs, .strm, .resil] s x0 := by
    subst x0
    refine FrameP.step ?_ (State.retireAll_frame _ _ _) (by decide)
    exact Frame.refl _
  clear_value x0
  extract_lets +onlyGivenNames x2
  have h3 : Frame [.attic, .dev, .regs, .larder, .larErr, .cellar, .celErr, .clusters, .regions, .jobs, .strm, .resil] s x2 := by
    subst x2
    refine Frame.foldl ?_ ?_
    · refine FrameP.fst ?_
      exact h1
    · intro x4 x5 h6
      refine Frame.step ?_ (State.reinstateColumn_frame _ _) (by decide)
      exact h6
  clear_value x2
  extract_lets +onlyGivenNames x7
  have h8 : Frame [.attic, .dev, .regs, .larder, .larErr, .cellar, .celErr, .clusters, .regions, .jobs, .strm, .resil] s x7 := by
    subst x7
    refine Frame.ite (fun _ => ?_) fun _ => ?_
    · refine Frame.step ?_ (State.buildGrid_frame _) (by decide)
      exact h3
    · exact h3
  clear_value x7
  extract_lets +onlyGivenNames x9
  have h10 : Frame [.attic, .dev, .regs, .larder, .larErr, .cellar, .celErr, .clusters, .regions, .jobs, .strm, .resil] s x9 := by
    subst x9
    refine Frame.ite (fun _ => ?_) fun _ => ?_
    · refine Flow.orStuck_frameC ?_ (by decide) ?_
      · refine FrameF.held ?_
        exact h8
      · exact h8
    · exact h8
  clear_value x9
  refine FrameP.pair ?_
  refine Frame.ite (fun _ => ?_) fun _ => ?_
  · exact h10
  · refine Frame.step ?_ (State.moveHeld_frame _ _ _) (by decide)
    exact h10

theorem State.proveRegions_frame (s : State) (moved : List Nat) (known : List Nat) :
    FrameP [.attic, .dev, .regs, .larder, .larErr, .clusters, .regions, .jobs, .strm, .resil, .freeCtr] s (State.proveRegions s moved known) := by
  unfold State.proveRegions
  refine FrameP.foldl ?_ ?_
  · refine FrameP.pair ?_
    exact Frame.refl _
  · intro x0 x1 h2
    refine FrameP.ite (fun _ => ?_) fun _ => ?_
    · exact h2
    · extract_lets +onlyGivenNames x3
      have h4 : FrameP [.attic, .dev, .regs, .larder, .larErr, .clusters, .regions, .jobs, .strm, .resil, .freeCtr] s x3 := by
        subst x3
        refine FrameP.step ?_ (State.runKnown_frame _ _) (by decide)
        refine FrameP.fst ?_
        exact h2
      clear_value x3
      refine FrameP.ite (fun _ => ?_) fun _ => ?_
      · refine FrameP.pair ?_
        refine FrameP.fst ?_
        exact h4
      · refine FrameP.ite (fun _ => ?_) fun _ => ?_
        · refine FrameP.pair ?_
          refine Frame.step ?_ (State.suspect_frame _ _) (by decide)
          refine FrameP.fst ?_
          exact h4
        · refine FrameP.pair ?_
          refine FrameP.fst ?_
          exact h4

theorem State.regridAll_frame (x : RestartSt) (n : Nat) (s : State) (due : List Retire) (excl : List Nat) (known : List Nat) (done : List Retire) :
    FrameP [.attic, .dev, .regs, .larder, .larErr, .cellar, .celErr, .clusters, .regions, .jobs, .strm, .resil, .freeCtr] s (State.regridAll x n s due excl known done) := by
  induction n generalizing s due excl known done with
  | zero =>
    rw [State.regridAll]
    refine FrameP.pair ?_
    exact Frame.refl _
  | succ n ih =>
    rw [State.regridAll]
    refine FrameP.ite (fun _ => ?_) fun _ => ?_
    · refine FrameP.pair ?_
      refine FrameP.fst ?_
      refine FrameP.step ?_ (State.proveRegions_frame _ _ _) (by decide)
      refine FrameP.fst ?_
      refine FrameP.step ?_ (State.regrid_frame _ _ _ _ _) (by decide)
      exact Frame.refl _
    · refine FrameP.step ?_ (ih _ _ _ _ _) (by decide)
      refine FrameP.fst ?_
      refine FrameP.step ?_ (State.proveRegions_frame _ _ _) (by decide)
      refine FrameP.fst ?_
      refine FrameP.step ?_ (State.regrid_frame _ _ _ _ _) (by decide)
      exact Frame.refl _

theorem State.wakeSlices_frame (s : State) :
    Frame [.regs] s (State.wakeSlices s) := by
  unfold State.wakeSlices
  refine Frame.foldl ?_ ?_
  · exact Frame.refl _
  · intro x0 x1 h2
    refine Frame.ite (fun _ => ?_) fun _ => ?_
    · refine Frame.step ?_ (State.setRegF_frame _ _ _ _ _) (by decide)
      exact h2
    · exact h2

theorem State.resetRegion_frame (s : State) (r : Nat) :
    Frame [.regs, .larder, .larErr, .clusters, .regions, .strm] s (State.resetRegion s r) := by
  unfold State.resetRegion
  refine Frame.ite (fun _ => ?_) fun _ => ?_
  · exact (State.toDark_frame _ _).mono (by decide)
  · exact Frame.refl _

theorem State.resetRegions_frame (s : State) :
    Frame [.regs, .larder, .larErr, .clusters, .regions, .strm] s (State.resetRegions s) := by
  unfold State.resetRegions
  refine Frame.step ?_ (State.wakeSlices_frame _) (by decide)
  refine Frame.foldl ?_ ?_
  · exact Frame.refl _
  · intro x0 x1 h2
    refine Frame.step ?_ (State.resetRegion_frame _ _) (by decide)
    exact h2

theorem State.rebuild_frame (s : State) (x : RestartSt) :
    Frame [.attic, .dev, .regs, .larder, .larErr, .cellar, .celErr, .clusters, .regions, .jobs, .strm, .resil, .freeCtr] s (State.rebuild s x) := by
  unfold State.rebuild
  extract_lets +onlyGivenNames x0
  have h1 : Frame [.attic, .dev, .regs, .larder, .larErr, .cellar, .celErr, .clusters, .regions, .jobs, .strm, .resil, .freeCtr] s x0 := by
    subst x0
    refine Frame.step ?_ (State.restoreHeld_frame _ _) (by decide)
    refine Frame.ite (fun _ => ?_) fun _ => ?_
    · exact (State.resetRegions_frame _).mono (by decide)
    · exact Frame.refl _
  clear_value x0
  extract_lets +onlyGivenNames x2
  have h3 : FrameP [.attic, .dev, .regs, .larder, .larErr, .cellar, .celErr, .clusters, .regions, .jobs, .strm, .resil, .freeCtr] s x2 := by
    subst x2
    refine FrameP.step ?_ (State.gridTodo_frame _ _) (by decide)
    exact h1
  clear_value x2
  extract_lets +onlyGivenNames x4
  have h5 : FrameP [.attic, .dev, .regs, .larder, .larErr, .cellar, .celErr, .clusters, .regions, .jobs, .strm, .resil, .freeCtr] s x4 := by
    subst x4
    refine FrameP.step ?_ (State.regridAll_frame _ _ _ _ _ _ _) (by decide)
    refine FrameP.fst ?_
    exact h3
  clear_value x4
  extract_lets +onlyGivenNames x6
  have h7 : Frame [.attic, .dev, .regs, .larder, .larErr, .cellar, .celErr, .clusters, .regions, .jobs, .strm, .resil, .freeCtr] s x6 := by
    subst x6
    refine FrameP.fst ?_
    refine FrameP.step ?_ (State.applyTodo_frame _) (by decide)
    refine FrameP.fst ?_
    exact h5
  clear_value x6
  extract_lets +onlyGivenNames x8
  clear_value x8
  extract_lets +onlyGivenNames x9
  have h10 : Frame [.attic, .dev, .regs, .larder, .larErr, .cellar, .celErr, .clusters, .regions, .jobs, .strm, .resil, .freeCtr] s x9 := by
    subst x9
    refine Frame.ite (fun _ => ?_) fun _ => ?_
    · exact h7
    · refine Frame.step ?_ (State.setLocal_frame _ _) (by decide)
      exact h7
  clear_value x9
  extract_lets +onlyGivenNames x11
  have h12 : Frame [.attic, .dev, .regs, .larder, .larErr, .cellar, .celErr, .clusters, .regions, .jobs, .strm, .resil, .freeCtr] s x11 := by
    subst x11
    refine Frame.foldl ?_ ?_
    · exact h10
    · intro x13 x14 h15
      refine Frame.step ?_ (State.updRg_frame _ _ _) (by decide)
      exact h15
  clear_value x11
  extract_lets +onlyGivenNames x16
  have h17 : Frame [.attic, .dev, .regs, .larder, .larErr, .cellar, .celErr, .clusters, .regions, .jobs, .strm, .resil, .freeCtr] s x16 := by
    subst x16
    refine Frame.foldl ?_ ?_
    · exact h12
    · intro x18 x19 h20
      refine Frame.step ?_ (State.postRetired_frame _ _ _ _) (by decide)
      exact h20
  clear_value x16
  extract_lets +onlyGivenNames x21
  clear_value x21
  refine Frame.upd ?_ rfl
  exact h17

theorem State.endRing_frame (x : RestartSt) (fold : Bool) (s : State) (r : Nat) :
    Frame [.regs, .jobs] s (State.endRing x fold s r) := by
  unfold State.endRing
  extract_lets +onlyGivenNames x0
  subst x0
  extract_lets +onlyGivenNames x1
  clear_value x1
  refine Frame.ite (fun _ => ?_) fun _ => ?_
  · exact Frame.refl _
  · refine Frame.ite (fun _ => ?_) fun _ => ?_
    · extract_lets +onlyGivenNames x2
      have h3 : Frame [.regs, .jobs] s x2 := by
        subst x2
        exact (State.finish_frame _ _ _ _ _).mono (by decide)
      clear_value x2
      refine Frame.ite (fun _ => ?_) fun _ => ?_
      · refine Frame.ite (fun _ => ?_) fun _ => ?_
        · refine Frame.step ?_ (State.setRingState_frame _ _ _) (by decide)
          exact h3
        · refine Frame.step ?_ (State.setRingState_frame _ _ _) (by decide)
          exact h3
      · exact h3
    · extract_lets +onlyGivenNames x4
      clear_value x4
      extract_lets +onlyGivenNames x5
      clear_value x5
      extract_lets +onlyGivenNames x6
      clear_value x6
      extract_lets +onlyGivenNames x7
      clear_value x7
      extract_lets +onlyGivenNames x8
      clear_value x8
      extract_lets +onlyGivenNames x9
      have h10 : Frame [.regs, .jobs] s x9 := by
        subst x9
        exact (State.setRegF_frame _ _ _ _ _).mono (by decide)
      clear_value x9
      refine Frame.ite (fun _ => ?_) fun _ => ?_
      · extract_lets +onlyGivenNames x11
        clear_value x11
        refine Frame.step ?_ (State.updRing_frame _ _ _) (by decide)
        exact h10
      · extract_lets +onlyGivenNames x12
        clear_value x12
        extract_lets +onlyGivenNames x13
        have h14 : Frame [.regs, .jobs] s x13 := by
          subst x13
          refine Frame.step ?_ (State.updRing_frame _ _ _) (by decide)
          exact h10
        clear_value x13
        extract_lets +onlyGivenNames x15
        subst x15
        extract_lets +onlyGivenNames x16
        have h17 : Frame [.regs, .jobs] s x16 := by
          subst x16
          refine Frame.step ?_ (State.setReg_frame _ _ _) (by decide)
          exact h14
        clear_value x16
        refine Frame.step ?_ (State.stopIfIdle_frame _ _) (by decide)
        refine Frame.upd ?_ rfl
        exact h17

theorem State.raiseEpoch_frame (s : State) (l : Nat) :
    Frame [.links, .out] s (State.raiseEpoch s l) := by
  unfold State.raiseEpoch
  extract_lets +onlyGivenNames x0
  have h1 : Frame [.links, .out] s x0 := by
    subst x0
    exact (State.updLnk_frame _ _ _).mono (by decide)
  clear_value x0
  refine Frame.ite (fun _ => ?_) fun _ => ?_
  · refine Frame.step ?_ (State.send_frame _ _ _ _ _) (by decide)
    refine Frame.step ?_ (State.updLnk_frame _ _ _) (by decide)
    exact h1
  · exact h1

theorem State.stopCairn_frame (s : State) :
    Frame [.regs, .jobs, .resil] s (State.stopCairn s) := by
  unfold State.stopCairn
  extract_lets +onlyGivenNames x0
  extract_lets +onlyGivenNames x1
  have h2 : Frame [.regs, .jobs, .resil] s x1 := by
    subst x1
    exact (State.setCairnStage_frame _ _).mono (by decide)
  clear_value x1
  refine Frame.step ?_ (State.fenceCheck_frame _) (by decide)
  refine Frame.upd ?_ rfl
  exact h2

theorem State.withdraw_frame (s : State) (x : RestartSt) (fold : Bool) :
    Frame [.attic, .dev, .clk, .regs, .larder, .larErr, .clusters, .regions, .slabs, .links, .sync, .jobs, .strm, .reqs, .hands, .resil, .out] s (State.withdraw s x fold) := by
  unfold State.withdraw
  extract_lets +onlyGivenNames x0
  have h1 : Frame [.attic, .dev, .clk, .regs, .larder, .larErr, .clusters, .regions, .slabs, .links, .sync, .jobs, .strm, .reqs, .hands, .resil, .out] s x0 := by
    subst x0
    refine Frame.step ?_ (State.refRestored_frame _) (by decide)
    refine Frame.foldl ?_ ?_
    · exact Frame.refl _
    · intro x2 x3 h4
      refine Frame.step ?_ (State.switchBack_frame _ _) (by decide)
      exact h4
  clear_value x0
  extract_lets +onlyGivenNames x5
  have h6 : Frame [.attic, .dev, .clk, .regs, .larder, .larErr, .clusters, .regions, .slabs, .links, .sync, .jobs, .strm, .reqs, .hands, .resil, .out] s x5 := by
    subst x5
    refine Frame.ite (fun _ => ?_) fun _ => ?_
    · exact h1
    · refine Frame.step ?_ (State.resetRegions_frame _) (by decide)
      exact h1
  clear_value x5
  extract_lets +onlyGivenNames x7
  have h8 : Frame [.attic, .dev, .clk, .regs, .larder, .larErr, .clusters, .regions, .slabs, .links, .sync, .jobs, .strm, .reqs, .hands, .resil, .out] s x7 := by
    subst x7
    refine Frame.step ?_ (State.resetSync_frame _) (by decide)
    refine Frame.step ?_ (State.stopCairn_frame _) (by decide)
    refine Frame.foldl ?_ ?_
    · exact h6
    · intro x9 x10 h11
      refine Frame.step ?_ (State.endRing_frame _ _ _ _) (by decide)
      exact h11
  clear_value x7
  extract_lets +onlyGivenNames x12
  have h13 : Frame [.attic, .dev, .clk, .regs, .larder, .larErr, .clusters, .regions, .slabs, .links, .sync, .jobs, .strm, .reqs, .hands, .resil, .out] s x12 := by
    subst x12
    refine Frame.step ?_ (State.dropChecks_frame _ _) (by decide)
    exact h8
  clear_value x12
  extract_lets +onlyGivenNames x14
  subst x14
  extract_lets +onlyGivenNames x15
  subst x15
  extract_lets +onlyGivenNames x16
  subst x16
  extract_lets +onlyGivenNames x17
  have h18 : Frame [.attic, .dev, .clk, .regs, .larder, .larErr, .clusters, .regions, .slabs, .links, .sync, .jobs, .strm, .reqs, .hands, .resil, .out] s x17 := by
    subst x17
    refine Frame.upd ?_ rfl
    exact h13
  clear_value x17
  refine Frame.step ?_ (State.dropWaves_frame _) (by decide)
  refine Frame.step ?_ (State.slabPools_frame _ _) (by decide)
  refine Frame.foldl ?_ ?_
  · exact h18
  · intro x19 x20 h21
    refine Frame.step ?_ (State.raiseEpoch_frame _ _) (by decide)
    exact h21

theorem State.beginRestart_frame (s : State) (kind : Nat) (planned : Bool) (supply : Bool) (upd : RestartSt → RestartSt) :
    Frame [.attic, .dev, .clk, .regs, .larder, .larErr, .cellar, .celErr, .clusters, .regions, .slabs, .links, .sync, .jobs, .strm, .reqs, .hands, .resil, .out] s (State.beginRestart s kind planned supply upd) := by
  unfold State.beginRestart
  extract_lets +onlyGivenNames x0
  subst x0
  extract_lets +onlyGivenNames x1
  clear_value x1
  extract_lets +onlyGivenNames x2
  have h3 : Frame [.attic, .dev, .clk, .regs, .larder, .larErr, .cellar, .celErr, .clusters, .regions, .slabs, .links, .sync, .jobs, .strm, .reqs, .hands, .resil, .out] s x2 := by
    subst x2
    exact (State.count_frame _ _ _ _ _).mono (by decide)
  clear_value x2
  extract_lets +onlyGivenNames x4
  have h5 : Frame [.attic, .dev, .clk, .regs, .larder, .larErr, .cellar, .celErr, .clusters, .regions, .slabs, .links, .sync, .jobs, .strm, .reqs, .hands, .resil, .out] s x4 := by
    subst x4
    refine Frame.ite (fun _ => ?_) fun _ => ?_
    · exact Frame.refl _
    · refine Frame.step ?_ (State.post_frame _ _ _ _) (by decide)
      exact h3
  clear_value x4
  refine Frame.step ?_ (State.withdraw_frame _ _ _) (by decide)
  refine Frame.upd ?_ rfl
  exact h5

theorem State.readImages_frame (s : State) (c : Snap) (ls : List Nat) :
    Frame [.jobs, .reqs] s (State.readImages s c ls) := by
  unfold State.readImages
  exact (State.addPackets_frame _ _ _ _ _ _).mono (by decide)

theorem State.readStatics_frame (s : State) (x : RestartSt) :
    Frame [.jobs, .reqs] s (State.readStatics s x) := by
  unfold State.readStatics
  extract_lets +onlyGivenNames x0
  have h1 : Frame [.jobs, .reqs] s x0 := by
    subst x0
    refine Frame.foldl ?_ ?_
    · exact Frame.refl _
    · intro x2 x3 h4
      split
      · exact h4
      · extract_lets +onlyGivenNames x5
        clear_value x5
        refine Frame.foldl ?_ ?_
        · exact h4
        · intro x6 x7 h8
          refine Frame.step ?_ (State.addTransfer_frame _ _ _ _ _ _ _ _ _) (by decide)
          exact h8
  clear_value x0
  refine Frame.foldl ?_ ?_
  · exact h1
  · intro x9 x10 h11
    split
    · extract_lets +onlyGivenNames x12
      clear_value x12
      refine Frame.foldl ?_ ?_
      · exact h11
      · intro x13 x14 h15
        extract_lets +onlyGivenNames x16
        clear_value x16
        refine Frame.step ?_ (State.addTransfer_frame _ _ _ _ _ _ _ _ _) (by decide)
        exact h15
    · exact h11

theorem State.restoreLocal_frame (s : State) (c : Snap) (l : Nat) :
    FrameF [.attic, .regs, .larder, .larErr, .cellar, .celErr, .conflicts, .clusters, .regions, .resil, .freeCtr] s (State.restoreLocal s c l) := by
  unfold State.restoreLocal
  split
  · refine FrameF.ok ?_
    exact Frame.refl _
  · refine FrameF.bind ?_ ?_
    · refine FrameF.fold ?_ ?_
      · exact Frame.refl _
      · intro x0 x1 h2
        split
        · unfold State.planRead
          refine FrameF.ite (fun _ => ?_) fun _ => ?_
          · exact FrameF.undef
          · split
            · rename_i h3
              have h4 := (State.celRead_frame _ _ _ _).of_eq h3
              beta_reduce
              refine FrameF.step ?_ (State.larStore_frame _ _ _ _) (by decide)
              refine Frame.step ?_ h4 (by decide)
              exact h2
            · rename_i h5
              have h6 := (State.celRead_frame _ _ _ _).of_eq h5
              refine FrameF.held ?_
              refine Frame.step ?_ h6 (by decide)
              exact h2
        · refine FrameF.ok ?_
          exact h2
    · intro x7 h8
      refine FrameF.fold ?_ ?_
      · exact h8
      · intro x9 x10 h11
        unfold State.planRead
        refine FrameF.ite (fun _ => ?_) fun _ => ?_
        · exact FrameF.undef
        · split
          · rename_i h12
            have h13 := (State.celRead_frame _ _ _ _).of_eq h12
            beta_reduce
            refine FrameF.step ?_ (State.planWrite_frame _ _ _ _) (by decide)
            refine Frame.step ?_ h13 (by decide)
            exact h11
          · rename_i h14
            have h15 := (State.celRead_frame _ _ _ _).of_eq h14
            refine FrameF.held ?_
            refine Frame.step ?_ h15 (by decide)
            exact h11

theorem State.restartReads_frame (s : State) :
    Frame [.attic, .regs, .larder, .larErr, .cellar, .celErr, .conflicts, .clusters, .regions, .links, .jobs, .reqs, .resil, .out, .freeCtr] s (State.restartReads s) := by
  unfold State.restartReads
  split
  · exact Frame.refl _
  · extract_lets +onlyGivenNames x0
    subst x0
    refine Frame.ite (fun _ => ?_) fun _ => ?_
    · exact Frame.refl _
    · refine Frame.ite (fun _ => ?_) fun _ => ?_
      · split
        · beta_reduce
          refine Frame.upd ?_ rfl
          exact Frame.refl _
        · refine Frame.ite (fun _ => ?_) fun _ => ?_
          · exact Frame.refl _
          · beta_reduce
            refine Frame.upd ?_ rfl
            refine Flow.orStuck_frameC ?_ (by decide) ?_
            · refine FrameF.fold ?_ ?_
              · exact Frame.refl _
              · intro x1 x2 h3
                refine FrameF.step ?_ (State.restoreLocal_frame _ _ _) (by decide)
                exact h3
            · exact Frame.refl _
      · refine Frame.ite (fun _ => ?_) fun _ => ?_
        · exact Frame.refl _
        · split
          · beta_reduce
            refine Frame.upd ?_ rfl
            refine Frame.ite (fun _ => ?_) fun _ => ?_
            · refine Frame.step ?_ (State.pumpReqs_frame _) (by decide)
              exact (State.readStatics_frame _ _).mono (by decide)
            · exact Frame.refl _
          · refine Frame.ite (fun _ => ?_) fun _ => ?_
            · exact Frame.refl _
            · beta_reduce
              refine Frame.upd ?_ rfl
              refine Frame.step ?_ (State.pumpReqs_frame _) (by decide)
              refine Frame.step ?_ (State.readImages_frame _ _ _) (by decide)
              exact (State.readStatics_frame _ _).mono (by decide)

theorem State.replayEnds_frame (s : State) :
    Frame [.attic, .dev, .clk, .regs, .larder, .larErr, .cellar, .celErr, .clusters, .regions, .slabs, .links, .sync, .jobs, .strm, .reqs, .hands, .resil, .out] s (State.replayEnds s) := by
  unfold State.replayEnds
  split
  · refine Frame.ite (fun _ => ?_) fun _ => ?_
    · exact (State.beginRestart_frame _ _ _ _ _).mono (by decide)
    · exact Frame.refl _
  · exact Frame.refl _

theorem State.restartGo_frame (s : State) :
    Frame [.attic, .dev, .clk, .regs, .larder, .larErr, .cellar, .celErr, .conflicts, .clusters, .regions, .slabs, .links, .sync, .jobs, .strm, .reqs, .hands, .resil, .out, .freeCtr] s (State.restartGo s) := by
  unfold State.restartGo
  extract_lets +onlyGivenNames x0
  have h1 : Frame [.attic, .dev, .clk, .regs, .larder, .larErr, .cellar, .celErr, .conflicts, .clusters, .regions, .slabs, .links, .sync, .jobs, .strm, .reqs, .hands, .resil, .out, .freeCtr] s x0 := by
    subst x0
    exact (State.replayEnds_frame _).mono (by decide)
  clear_value x0
  split
  · exact h1
  · refine Frame.ite (fun _ => ?_) fun _ => ?_
    · exact h1
    · refine Frame.step ?_ (State.restartReads_frame _) (by decide)
      refine Frame.step ?_ (State.rebuild_frame _ _) (by decide)
      exact h1

theorem State.restartRepeat_frame (s : State) :
    Frame [.attic, .dev, .clk, .regs, .larder, .larErr, .cellar, .celErr, .conflicts, .clusters, .regions, .slabs, .links, .sync, .jobs, .strm, .reqs, .hands, .resil, .out, .freeCtr] s (State.restartRepeat s) := by
  unfold State.restartRepeat
  split
  · exact Frame.refl _
  · refine Frame.ite (fun _ => ?_) fun _ => ?_
    · exact Frame.refl _
    · refine Frame.ite (fun _ => ?_) fun _ => ?_
      · exact (State.restartGo_frame _).mono (by decide)
      · refine Frame.step ?_ (State.restartReads_frame _) (by decide)
        refine Frame.upd ?_ rfl
        exact Frame.refl _

theorem State.leave_frame (s : State) (x : RestartSt) :
    Frame [.attic, .dev, .regs, .links, .jobs, .resil, .out] s (State.leave s x) := by
  unfold State.leave
  extract_lets +onlyGivenNames x0
  clear_value x0
  extract_lets +onlyGivenNames x1
  have h2 : Frame [.attic, .dev, .regs, .links, .jobs, .resil, .out] s x1 := by
    subst x1
    refine Frame.ite (fun _ => ?_) fun _ => ?_
    · exact (State.alert_frame _ _).mono (by decide)
    · exact Frame.refl _
  clear_value x1
  extract_lets +onlyGivenNames x3
  subst x3
  extract_lets +onlyGivenNames x4
  subst x4
  extract_lets +onlyGivenNames x5
  subst x5
  extract_lets +onlyGivenNames x6
  have h7 : Frame [.attic, .dev, .regs, .links, .jobs, .resil, .out] s x6 := by
    subst x6
    refine Frame.upd ?_ rfl
    exact h2
  clear_value x6
  refine Frame.step ?_ (State.restartDone_frame _) (by decide)
  refine Frame.foldl ?_ ?_
  · exact h7
  · intro x8 x9 h10
    refine Frame.step ?_ (State.fetchMore_frame _ _) (by decide)
    exact h10

theorem State.restart_frame (s : State) (k : ReportKind) (upd : RestartSt → RestartSt) :
    Frame [.attic, .dev, .clk, .regs, .larder, .larErr, .cellar, .celErr, .conflicts, .clusters, .regions, .slabs, .links, .sync, .jobs, .strm, .reqs, .hands, .resil, .out, .freeCtr] s (State.restart s k upd) := by
  unfold State.restart
  refine Frame.step ?_ (State.restartGo_frame _) (by decide)
  exact (State.beginRestart_frame _ _ _ _ _).mono (by decide)

theorem State.failStep_frame (s : State) (detail : Nat) :
    Frame [.regs, .clusters, .jobs, .strm, .resil] s (State.failStep s detail) := by
  unfold State.failStep
  split
  · refine Frame.step ?_ (State.endStep_frame _) (by decide)
    exact (State.finish_frame _ _ _ _ _).mono (by decide)
  · exact Frame.refl _

theorem State.loseStreams_frame (s : State) (r : Nat) :
    Frame [.regs, .clusters, .resil] s (State.loseStreams s r) := by
  unfold State.loseStreams
  extract_lets +onlyGivenNames x0
  clear_value x0
  extract_lets +onlyGivenNames x1
  subst x1
  extract_lets +onlyGivenNames x2
  have h3 : Frame [.regs, .clusters, .resil] s x2 := by
    subst x2
    exact (State.abandonBy_frame _ _).mono (by decide)
  clear_value x2
  refine Frame.upd ?_ rfl
  exact h3

theorem State.regionFault_frame (s : State) (k : ReportKind) (r : Nat) :
    Frame [.attic, .dev, .clk, .regs, .larder, .larErr, .cellar, .celErr, .conflicts, .clusters, .regions, .slabs, .links, .sync, .jobs, .strm, .reqs, .hands, .resil, .out, .freeCtr] s (State.regionFault s k r) := by
  unfold State.regionFault
  refine Frame.ite (fun _ => ?_) fun _ => ?_
  · exact (State.restart_frame _ _ _).mono (by decide)
  · split
    · refine Frame.ite (fun _ => ?_) fun _ => ?_
      · exact (State.loseStreams_frame _ _).mono (by decide)
      · exact Frame.refl _
    · exact Frame.refl _

theorem State.wordFault_frame (s : State) (k : ReportKind) (r : Nat) :
    Frame [.attic, .dev, .clk, .regs, .larder, .larErr, .cellar, .celErr, .conflicts, .clusters, .regions, .slabs, .links, .sync, .jobs, .strm, .reqs, .hands, .resil, .out, .freeCtr] s (State.wordFault s k r) := by
  unfold State.wordFault
  refine Frame.ite (fun _ => ?_) fun _ => ?_
  · exact (State.restart_frame _ _ _).mono (by decide)
  · exact (State.abandonIn_frame _ _).mono (by decide)

theorem State.forceRetire_frame (s : State) (k : ReportKind) (r : Nat) (cause : Nat) :
    Frame [.attic, .dev, .clk, .regs, .larder, .larErr, .cellar, .celErr, .conflicts, .clusters, .regions, .slabs, .links, .sync, .jobs, .strm, .reqs, .hands, .resil, .out, .freeCtr] s (State.forceRetire s k r cause) := by
  unfold State.forceRetire
  refine Frame.ite (fun _ => ?_) fun _ => ?_
  · exact Frame.refl _
  · refine Frame.ite (fun _ => ?_) fun _ => ?_
    · exact (State.restart_frame _ _ _).mono (by decide)
    · exact (State.retireReserve_frame _ _ _ _ _).mono (by decide)

theorem State.larderFault_frame (s : State) (k : ReportKind) (site : Nat) (word : Nat) :
    Frame [.attic, .dev, .clk, .regs, .larder, .larErr, .cellar, .celErr, .conflicts, .clusters, .regions, .slabs, .links, .sync, .jobs, .strm, .reqs, .hands, .resil, .out, .freeCtr] s (State.larderFault s k site word) := by
  unfold State.larderFault
  extract_lets +onlyGivenNames x0
  clear_value x0
  extract_lets +onlyGivenNames x1
  clear_value x1
  extract_lets +onlyGivenNames x2
  have h3 : Frame [.attic, .dev, .clk, .regs, .larder, .larErr, .cellar, .celErr, .conflicts, .clusters, .regions, .slabs, .links, .sync, .jobs, .strm, .reqs, .hands, .resil, .out, .freeCtr] s x2 := by
    subst x2
    refine Frame.step ?_ (State.updCl_same _ _ _ fun _ => rfl) (by decide)
    exact Frame.refl _
  clear_value x2
  extract_lets +onlyGivenNames x4
  have h5 : Frame [.attic, .dev, .clk, .regs, .larder, .larErr, .cellar, .celErr, .conflicts, .clusters, .regions, .slabs, .links, .sync, .jobs, .strm, .reqs, .hands, .resil, .out, .freeCtr] s x4 := by
    subst x4
    refine Frame.step ?_ (State.zeroRow_frame _ _ _) (by decide)
    refine Frame.ite (fun _ => ?_) fun _ => ?_
    · refine Frame.step ?_ (State.larHard_frame _ _ _) (by decide)
      exact h3
    · exact h3
  clear_value x4
  refine Frame.step ?_ (State.wordFault_frame _ _ _) (by decide)
  exact h5

theorem State.zeroCelRow_frame (s : State) (r : Nat) (x : CelRow) :
    Frame [.regs, .cellar, .celErr] s (State.zeroCelRow s r x) := by
  unfold State.zeroCelRow
  extract_lets +onlyGivenNames x0
  have h1 : Frame [.regs, .cellar, .celErr] s x0 := by
    subst x0
    refine Frame.foldl ?_ ?_
    · exact Frame.refl _
    · intro x2 x3 h4
      refine Frame.step ?_ (State.celPut_frame _ _ _ _) (by decide)
      exact h4
  clear_value x0
  extract_lets +onlyGivenNames x5
  clear_value x5
  refine Frame.ite (fun _ => ?_) fun _ => ?_
  · refine Frame.step ?_ (State.setLocal_frame _ _) (by decide)
    exact h1
  · exact h1

theorem State.cellarFault_frame (s : State) (k : ReportKind) (r : Nat) (cw : Nat) :
    Frame [.attic, .dev, .clk, .regs, .larder, .larErr, .cellar, .celErr, .conflicts, .clusters, .regions, .slabs, .links, .sync, .jobs, .strm, .reqs, .hands, .resil, .out, .freeCtr] s (State.cellarFault s k r cw) := by
  unfold State.cellarFault
  extract_lets +onlyGivenNames x0
  subst x0
  extract_lets +onlyGivenNames x1
  clear_value x1
  extract_lets +onlyGivenNames x2
  clear_value x2
  extract_lets +onlyGivenNames x3
  clear_value x3
  refine Frame.ite (fun _ => ?_) fun _ => ?_
  · exact (State.restart_frame _ _ _).mono (by decide)
  · extract_lets +onlyGivenNames x4
    have h5 : Frame [.attic, .dev, .clk, .regs, .larder, .larErr, .cellar, .celErr, .conflicts, .clusters, .regions, .slabs, .links, .sync, .jobs, .strm, .reqs, .hands, .resil, .out, .freeCtr] s x4 := by
      subst x4
      exact (State.dropRowReports_frame _ _ _).mono (by decide)
    clear_value x4
    split
    · rename_i h6
      refine Frame.step ?_ (State.forceRetire_frame _ _ _ _) (by decide)
      exact h5
    · rename_i h8
      have h9 := (State.remapRow_frame _ _ _).of_eq h8
      extract_lets +onlyGivenNames x10
      have h11 : Frame [.attic, .dev, .clk, .regs, .larder, .larErr, .cellar, .celErr, .conflicts, .clusters, .regions, .slabs, .links, .sync, .jobs, .strm, .reqs, .hands, .resil, .out, .freeCtr] s x10 := by
        subst x10
        refine Frame.step ?_ (State.zeroCelRow_frame _ _ _) (by decide)
        refine Frame.step ?_ h9 (by decide)
        exact h5
      clear_value x10
      refine Frame.ite (fun _ => ?_) fun _ => ?_
      · refine Frame.step ?_ (State.restart_frame _ _ _) (by decide)
        exact h11
      · refine Frame.step ?_ (State.abandonIn_frame _ _) (by decide)
        exact h11

theorem State.retireFound_frame (s : State) (r : Nat) (cause : Nat) (kind : Nat) :
    Frame [.attic, .regs, .resil] s (State.retireFound s r cause kind) := by
  unfold State.retireFound
  refine Frame.ite (fun _ => ?_) fun _ => ?_
  · exact Frame.refl _
  · extract_lets +onlyGivenNames x0
    have h1 : Frame [.attic, .regs, .resil] s x0 := by
      subst x0
      exact (State.markRetired_frame _ _ _ _).mono (by decide)
    clear_value x0
    refine Frame.upd ?_ rfl
    exact h1

theorem State.postFound_frame (s : State) :
    Frame [.attic, .dev, .regs, .jobs, .resil] s (State.postFound s) := by
  unfold State.postFound
  refine Frame.foldl ?_ ?_
  · refine Frame.upd ?_ rfl
    exact Frame.refl _
  · intro x0 x1 h2
    refine Frame.step ?_ (State.postRetired_frame _ _ _ _) (by decide)
    exact h2

theorem State.bringGrid_frame (s : State) :
    Frame [.attic, .dev, .regs, .regions, .jobs, .resil] s (State.bringGrid s) := by
  unfold State.bringGrid
  extract_lets +onlyGivenNames x0
  have h1 : Frame [.attic, .dev, .regs, .regions, .jobs, .resil] s x0 := by
    subst x0
    refine Frame.foldl ?_ ?_
    · exact Frame.refl _
    · intro x2 x3 h4
      refine Frame.step ?_ (State.retireFound_frame _ _ _ _) (by decide)
      exact h4
  clear_value x0
  refine Frame.step ?_ (State.postFound_frame _) (by decide)
  refine Frame.step ?_ (State.buildGrid_frame _) (by decide)
  refine Frame.foldl ?_ ?_
  · exact h1
  · intro x5 x6 h7
    refine Frame.step ?_ (State.reinstateColumn_frame _ _) (by decide)
    exact h7

theorem State.bringReport_frame (s : State) (k : ReportKind) :
    Frame [.attic, .dev, .regs, .larder, .larErr, .clusters, .regions, .jobs, .strm, .resil] s (State.bringReport s k) := by
  unfold State.bringReport
  extract_lets +onlyGivenNames x0
  subst x0
  split
  · exact (State.planRetirement_frame _ _ _).mono (by decide)
  · beta_reduce
    refine Frame.ite (fun _ => ?_) fun _ => ?_
    · exact Frame.refl _
    · extract_lets +onlyGivenNames x1
      have h2 : Frame [.attic, .dev, .regs, .larder, .larErr, .clusters, .regions, .jobs, .strm, .resil] s x1 := by
        subst x1
        refine Frame.step ?_ (State.toDark_frame _ _) (by decide)
        exact (State.retireFound_frame _ _ _ _).mono (by decide)
      clear_value x1
      refine Frame.ite (fun _ => ?_) fun _ => ?_
      · refine Frame.step ?_ (State.bringGrid_frame _) (by decide)
        exact h2
      · exact h2
  · beta_reduce
    refine Frame.ite (fun _ => ?_) fun _ => ?_
    · exact Frame.refl _
    · extract_lets +onlyGivenNames x3
      have h4 : Frame [.attic, .dev, .regs, .larder, .larErr, .clusters, .regions, .jobs, .strm, .resil] s x3 := by
        subst x3
        refine Frame.step ?_ (State.toDark_frame _ _) (by decide)
        exact (State.retireFound_frame _ _ _ _).mono (by decide)
      clear_value x3
      refine Frame.ite (fun _ => ?_) fun _ => ?_
      · refine Frame.step ?_ (State.bringGrid_frame _) (by decide)
        exact h4
      · exact h4
  · exact (State.todo_frame _ _).mono (by decide)
  · exact (State.todo_frame _ _).mono (by decide)
  · exact (State.todo_frame _ _).mono (by decide)
  · exact (State.todo_frame _ _).mono (by decide)
  · exact (State.todo_frame _ _).mono (by decide)
  all_goals exact Frame.refl _

-- Link

theorem State.setLinkState_frame (s : State) (l : Nat) (st : Nat) :
    Frame [.regs] s (State.setLinkState s l st) := by
  unfold State.setLinkState
  exact (State.setRegF_frame _ _ _ _ _).mono (by decide)

theorem State.showSpare_frame (s : State) (l : Nat) :
    Frame [.regs] s (State.showSpare s l) := by
  unfold State.showSpare
  extract_lets +onlyGivenNames x0
  subst x0
  extract_lets +onlyGivenNames x1
  subst x1
  exact (State.setReg_frame _ _ _).mono (by decide)

theorem State.showLanes_frame (s : State) (l : Nat) :
    Frame [.regs] s (State.showLanes s l) := by
  unfold State.showLanes
  extract_lets +onlyGivenNames x0
  subst x0
  extract_lets +onlyGivenNames x1
  clear_value x1
  extract_lets +onlyGivenNames x2
  have h3 : Frame [.regs] s x2 := by
    subst x2
    exact (State.setRegF_frame _ _ _ _ _).mono (by decide)
  clear_value x2
  refine Frame.step ?_ (State.showSpare_frame _ _) (by decide)
  refine Frame.step ?_ (State.setReg_frame _ _ _) (by decide)
  exact h3

theorem State.startTraining_frame (s : State) (l : Nat) :
    Frame [.regs, .links] s (State.startTraining s l) := by
  unfold State.startTraining
  extract_lets +onlyGivenNames x0
  have h1 : Frame [.regs, .links] s x0 := by
    subst x0
    refine Frame.step ?_ (State.setRegF_frame _ _ _ _ _) (by decide)
    exact (State.setLinkState_frame _ _ _).mono (by decide)
  clear_value x0
  refine Frame.step ?_ (State.updLnk_frame _ _ _) (by decide)
  exact h1

theorem State.saveSettings_frame (s : State) (x : Settings) :
    Frame [.dev] s (State.saveSettings s x) := by
  unfold State.saveSettings
  refine Frame.upd ?_ rfl
  exact Frame.refl _

theorem State.erase_frame (s : State) :
    Frame [.attic, .freeCtr] s (State.erase s) := by
  unfold State.erase
  extract_lets +onlyGivenNames x0
  clear_value x0
  extract_lets +onlyGivenNames x1
  have h2 : Frame [.attic, .freeCtr] s x1 := by
    subst x1
    exact (State.useFree_frame _).mono (by decide)
  clear_value x1
  refine Frame.upd ?_ rfl
  exact h2

theorem State.endSave_frame (s : State) :
    Frame [.attic, .dev, .freeCtr] s (State.endSave s) := by
  unfold State.endSave
  split
  · exact Frame.refl _
  · extract_lets +onlyGivenNames x0
    have h1 : Frame [.attic, .dev, .freeCtr] s x0 := by
      subst x0
      exact (State.erase_frame _).mono (by decide)
    clear_value x0
    refine Frame.upd ?_ rfl
    exact h1

theorem State.measureEq_frame (s : State) (l : Nat) :
    Frame [.regs, .freeCtr] s (State.measureEq s l) := by
  unfold State.measureEq
  refine Frame.foldl ?_ ?_
  · exact Frame.refl _
  · intro x0 x1 h2
    refine Frame.step ?_ (State.setReg_frame _ _ _) (by decide)
    refine Frame.step ?_ (State.useFree_frame _) (by decide)
    exact h2

theorem State.saveLink_frame (s : State) (l : Nat) (rxSpares : List Nat) :
    Frame [.dev] s (State.saveLink s l rxSpares) := by
  unfold State.saveLink
  extract_lets +onlyGivenNames x0
  subst x0
  extract_lets +onlyGivenNames x1
  subst x1
  extract_lets +onlyGivenNames x2
  subst x2
  exact (State.saveSettings_frame _ _).mono (by decide)

theorem State.loadLink_frame (s : State) (l : Nat) :
    Frame [.regs] s (State.loadLink s l) := by
  unfold State.loadLink
  extract_lets +onlyGivenNames x0
  clear_value x0
  refine Frame.foldl ?_ ?_
  · exact Frame.refl _
  · intro x1 x2 h3
    refine Frame.step ?_ (State.setReg_frame _ _ _) (by decide)
    exact h3

theorem State.portUp_frame (s : State) (l : Nat) :
    Frame [.regs, .links, .jobs, .out] s (State.portUp s l) := by
  unfold State.portUp
  refine Frame.ite (fun _ => ?_) fun _ => ?_
  · exact Frame.refl _
  · refine Frame.ite (fun _ => ?_) fun _ => ?_
    · refine Frame.foldl ?_ ?_
      · exact (State.resendRing_frame _).mono (by decide)
      · intro x0 x1 h2
        refine Frame.step ?_ (State.shadow_frame _ _) (by decide)
        exact h2
    · refine Frame.ite (fun _ => ?_) fun _ => ?_
      · extract_lets +onlyGivenNames x3
        have h4 : Frame [.regs, .links, .jobs, .out] s x3 := by
          subst x3
          exact (State.setRegF_frame _ _ _ _ _).mono (by decide)
        clear_value x3
        refine Frame.foldl ?_ ?_
        · refine Frame.step ?_ (State.resendRing_frame _) (by decide)
          exact h4
        · intro x5 x6 h7
          refine Frame.step ?_ (State.shadow_frame _ _) (by decide)
          exact h7
      · exact Frame.refl _

theorem State.trainFail_frame (s : State) (l : Nat) :
    Frame [.regs, .links] s (State.trainFail s l) := by
  unfold State.trainFail
  refine Frame.step ?_ (State.updLnk_frame _ _ _) (by decide)
  refine Frame.step ?_ (State.setRegF_frame _ _ _ _ _) (by decide)
  exact (State.setLinkState_frame _ _ _).mono (by decide)

theorem State.markLanes_frame (s : State) (l : Nat) (full : Bool) (m : LaneTest) :
    Frame [.regs, .links] s (State.markLanes s l full m) := by
  unfold State.markLanes
  extract_lets +onlyGivenNames x0
  subst x0
  refine Frame.step ?_ (State.showSpare_frame _ _) (by decide)
  exact (State.updLnk_frame _ _ _).mono (by decide)

theorem State.sendCredit_frame (s : State) (l : Nat) :
    Frame [.links, .out] s (State.sendCredit s l) := by
  unfold State.sendCredit
  extract_lets +onlyGivenNames x0
  subst x0
  refine Frame.step ?_ (State.updLnk_frame _ _ _) (by decide)
  exact (State.onLine_frame _ _ _).mono (by decide)

theorem State.firstGroups_frame (s : State) (l : Nat) :
    Frame [.links, .out] s (State.firstGroups s l) := by
  unfold State.firstGroups
  extract_lets +onlyGivenNames x0
  clear_value x0
  extract_lets +onlyGivenNames x1
  subst x1
  refine Frame.step ?_ (State.sendCredit_frame _ _) (by decide)
  exact (State.updLnk_frame _ _ _).mono (by decide)

theorem State.trained_frame (s : State) (l : Nat) (full : Bool) (rtt : Word) (m : LaneTest) :
    Frame [.attic, .dev, .clk, .regs, .larder, .larErr, .cellar, .celErr, .conflicts, .clusters, .regions, .slabs, .links, .sync, .jobs, .strm, .reqs, .hands, .resil, .out, .freeCtr] s (State.trained s l full rtt m) := by
  unfold State.trained
  extract_lets +onlyGivenNames x0
  clear_value x0
  extract_lets +onlyGivenNames x1
  clear_value x1
  extract_lets +onlyGivenNames x2
  clear_value x2
  extract_lets +onlyGivenNames x3
  have h4 : Frame [.attic, .dev, .clk, .regs, .larder, .larErr, .cellar, .celErr, .conflicts, .clusters, .regions, .slabs, .links, .sync, .jobs, .strm, .reqs, .hands, .resil, .out, .freeCtr] s x3 := by
    subst x3
    exact (State.markLanes_frame _ _ _ _).mono (by decide)
  clear_value x3
  extract_lets +onlyGivenNames x5
  clear_value x5
  extract_lets +onlyGivenNames x6
  clear_value x6
  extract_lets +onlyGivenNames x7
  clear_value x7
  refine Frame.ite (fun _ => ?_) fun _ => ?_
  · refine Frame.step ?_ (State.trainFail_frame _ _) (by decide)
    exact h4
  · extract_lets +onlyGivenNames x8
    have h9 : Frame [.attic, .dev, .clk, .regs, .larder, .larErr, .cellar, .celErr, .conflicts, .clusters, .regions, .slabs, .links, .sync, .jobs, .strm, .reqs, .hands, .resil, .out, .freeCtr] s x8 := by
      subst x8
      refine Frame.step ?_ (State.updLnk_frame _ _ _) (by decide)
      exact h4
    clear_value x8
    extract_lets +onlyGivenNames x10
    have h11 : Frame [.attic, .dev, .clk, .regs, .larder, .larErr, .cellar, .celErr, .conflicts, .clusters, .regions, .slabs, .links, .sync, .jobs, .strm, .reqs, .hands, .resil, .out, .freeCtr] s x10 := by
      subst x10
      refine Frame.ite (fun _ => ?_) fun _ => ?_
      · refine Frame.step ?_ (State.saveLink_frame _ _ _) (by decide)
        refine Frame.step ?_ (State.measureEq_frame _ _) (by decide)
        exact h9
      · refine Frame.step ?_ (State.loadLink_frame _ _) (by decide)
        exact h9
    clear_value x10
    extract_lets +onlyGivenNames x12
    have h13 : Frame [.attic, .dev, .clk, .regs, .larder, .larErr, .cellar, .celErr, .conflicts, .clusters, .regions, .slabs, .links, .sync, .jobs, .strm, .reqs, .hands, .resil, .out, .freeCtr] s x12 := by
      subst x12
      refine Frame.step ?_ (State.setLinkState_frame _ _ _) (by decide)
      exact h11
    clear_value x12
    extract_lets +onlyGivenNames x14
    have h15 : Frame [.attic, .dev, .clk, .regs, .larder, .larErr, .cellar, .celErr, .conflicts, .clusters, .regions, .slabs, .links, .sync, .jobs, .strm, .reqs, .hands, .resil, .out, .freeCtr] s x14 := by
      subst x14
      refine Frame.step ?_ (State.setReg_frame _ _ _) (by decide)
      refine Frame.step ?_ (State.setRegF_frame _ _ _ _ _) (by decide)
      exact h13
    clear_value x14
    extract_lets +onlyGivenNames x16
    have h17 : Frame [.attic, .dev, .clk, .regs, .larder, .larErr, .cellar, .celErr, .conflicts, .clusters, .regions, .slabs, .links, .sync, .jobs, .strm, .reqs, .hands, .resil, .out, .freeCtr] s x16 := by
      subst x16
      refine Frame.step ?_ (State.post_frame _ _ _ _) (by decide)
      refine Frame.step ?_ (State.showLanes_frame _ _) (by decide)
      refine Frame.step ?_ (State.firstGroups_frame _ _) (by decide)
      exact h15
    clear_value x16
    extract_lets +onlyGivenNames x18
    have h19 : Frame [.attic, .dev, .clk, .regs, .larder, .larErr, .cellar, .celErr, .conflicts, .clusters, .regions, .slabs, .links, .sync, .jobs, .strm, .reqs, .hands, .resil, .out, .freeCtr] s x18 := by
      subst x18
      refine Frame.step ?_ (State.pumpHands_frame _) (by decide)
      refine Frame.step ?_ (State.pumpReqs_frame _) (by decide)
      refine Frame.step ?_ (State.drainLink_frame _ _ _) (by decide)
      refine Frame.step ?_ (State.portUp_frame _ _) (by decide)
      exact h17
    clear_value x18
    refine Frame.ite (fun _ => ?_) fun _ => ?_
    · exact h19
    · refine Frame.step ?_ (State.restartRepeat_frame _) (by decide)
      exact h19

theorem State.peerFail_frame (s : State) (l : Nat) (type : Nat) (reason : Nat) (id : DWord) :
    Frame [.attic, .regs, .links, .jobs] s (State.peerFail s l type reason id) := by
  unfold State.peerFail
  refine Frame.step ?_ (State.post_frame _ _ _ _) (by decide)
  refine Frame.step ?_ (State.updLnk_frame _ _ _) (by decide)
  exact (State.setLinkState_frame _ _ _).mono (by decide)

theorem State.setPeer_frame (s : State) (l : Nat) (type : Nat) (depot : Nat) (id : DWord) :
    Frame [.regs] s (State.setPeer s l type depot id) := by
  unfold State.setPeer
  refine Frame.step ?_ (State.setPair_frame _ _ _ _) (by decide)
  refine Frame.step ?_ (State.setRegF_frame _ _ _ _ _) (by decide)
  exact (State.setRegF_frame _ _ _ _ _).mono (by decide)

theorem State.sendPeer_frame (s : State) (l : Nat) :
    Frame [.out] s (State.sendPeer s l) := by
  unfold State.sendPeer
  exact (State.emit_frame _ _).mono (by decide)

theorem State.portLost_frame (s : State) (l : Nat) :
    Frame [.regs, .links, .jobs, .out] s (State.portLost s l) := by
  unfold State.portLost
  refine Frame.ite (fun _ => ?_) fun _ => ?_
  · exact Frame.refl _
  · refine Frame.step ?_ (State.resendRing_frame _) (by decide)
    exact (State.setRegF_frame _ _ _ _ _).mono (by decide)

theorem State.moveFrames_frame (s : State) (q : Nat) (l : List Out) :
    Frame [.regs, .links, .out] s (State.moveFrames s q l) := by
  unfold State.moveFrames
  refine Frame.foldl ?_ ?_
  · exact Frame.refl _
  · intro x0 x1 h2
    split
    · refine Frame.ite (fun _ => ?_) fun _ => ?_
      · refine Frame.step ?_ (State.send_frame _ _ _ _ _) (by decide)
        exact h2
      · refine Frame.ite (fun _ => ?_) fun _ => ?_
        · refine Frame.step ?_ (State.count_frame _ _ _ _ _) (by decide)
          exact h2
        · exact h2
    · exact h2

theorem State.linkDown_frame (s : State) (l : Nat) (reason : Nat) :
    Frame [.attic, .regs, .links, .jobs, .reqs, .hands, .resil, .out] s (State.linkDown s l reason) := by
  unfold State.linkDown
  extract_lets +onlyGivenNames x0
  clear_value x0
  extract_lets +onlyGivenNames x1
  clear_value x1
  extract_lets +onlyGivenNames x2
  have h3 : Frame [.attic, .regs, .links, .jobs, .reqs, .hands, .resil, .out] s x2 := by
    subst x2
    refine Frame.ite (fun _ => ?_) fun _ => ?_
    · exact (State.ringLost_frame _).mono (by decide)
    · exact Frame.refl _
  clear_value x2
  extract_lets +onlyGivenNames x4
  have h5 : Frame [.attic, .regs, .links, .jobs, .reqs, .hands, .resil, .out] s x4 := by
    subst x4
    refine Frame.step ?_ (State.post_frame _ _ _ _) (by decide)
    refine Frame.step ?_ (State.setRegF_frame _ _ _ _ _) (by decide)
    refine Frame.step ?_ (State.setLinkState_frame _ _ _) (by decide)
    exact h3
  clear_value x4
  extract_lets +onlyGivenNames x6
  have h7 : Frame [.attic, .regs, .links, .jobs, .reqs, .hands, .resil, .out] s x6 := by
    subst x6
    refine Frame.step ?_ (State.updLnk_frame _ _ _) (by decide)
    exact h5
  clear_value x6
  refine Frame.ite (fun _ => ?_) fun _ => ?_
  · refine Frame.step ?_ (State.handoffWait_frame _) (by decide)
    refine Frame.step ?_ (State.pullLost_frame _ _) (by decide)
    refine Frame.step ?_ (State.pumpHands_frame _) (by decide)
    refine Frame.step ?_ (State.resend_frame _ _) (by decide)
    refine Frame.upd ?_ rfl
    exact h7
  · refine Frame.step ?_ (State.portLost_frame _ _) (by decide)
    refine Frame.step ?_ (State.moveFrames_frame _ _ _) (by decide)
    exact h7

theorem execRetrain_frame (_p : PortNo) (l : LinkNo) (s : State) :
    FrameR [.attic, .regs, .links, .jobs, .reqs, .hands, .resil, .out] s (execRetrain _p l s) := by
  unfold execRetrain
  refine FrameR.ite (fun _ => ?_) fun _ => ?_
  · refine FrameR.next ?_
    exact Frame.refl _
  · extract_lets +onlyGivenNames x0
    clear_value x0
    extract_lets +onlyGivenNames x1
    have h2 : Frame [.attic, .regs, .links, .jobs, .reqs, .hands, .resil, .out] s x1 := by
      subst x1
      refine Frame.ite (fun _ => ?_) fun _ => ?_
      · exact (State.linkDown_frame _ _ _).mono (by decide)
      · exact Frame.refl _
    clear_value x1
    extract_lets +onlyGivenNames x3
    have h4 : Frame [.attic, .regs, .links, .jobs, .reqs, .hands, .resil, .out] s x3 := by
      subst x3
      refine Frame.step ?_ (State.updLnk_frame _ _ _) (by decide)
      exact h2
    clear_value x3
    refine FrameR.ite (fun _ => ?_) fun _ => ?_
    · refine FrameR.next ?_
      refine Frame.step ?_ (State.startTraining_frame _ _) (by decide)
      exact h4
    · refine FrameR.next ?_
      exact h4

theorem execLnkDown_frame (_p : PortNo) (l : LinkNo) (s : State) :
    FrameR [.attic, .regs, .links, .jobs, .reqs, .hands, .resil, .out] s (execLnkDown _p l s) := by
  unfold execLnkDown
  refine FrameR.ite (fun _ => ?_) fun _ => ?_
  · refine FrameR.next ?_
    exact Frame.refl _
  · extract_lets +onlyGivenNames x0
    have h1 : Frame [.attic, .regs, .links, .jobs, .reqs, .hands, .resil, .out] s x0 := by
      subst x0
      refine Frame.ite (fun _ => ?_) fun _ => ?_
      · exact (State.linkDown_frame _ _ _).mono (by decide)
      · exact (State.setLinkState_frame _ _ _).mono (by decide)
    clear_value x0
    refine FrameR.next ?_
    refine Frame.step ?_ (State.updLnk_frame _ _ _) (by decide)
    exact h1

theorem execClrpeer_frame (_p : PortNo) (l : LinkNo) (s : State) :
    FrameR [.regs, .links] s (execClrpeer _p l s) := by
  unfold execClrpeer
  refine FrameR.ite (fun _ => ?_) fun _ => ?_
  · refine FrameR.next ?_
    exact (State.startTraining_frame _ _).mono (by decide)
  · refine FrameR.next ?_
    exact Frame.refl _

theorem State.laneGone_frame (s : State) (l : Nat) (lanes : Nat) (dir : Nat) :
    Frame [.attic, .regs, .links, .jobs, .reqs, .hands, .resil, .out] s (State.laneGone s l lanes dir) := by
  unfold State.laneGone
  refine Frame.ite (fun _ => ?_) fun _ => ?_
  · refine Frame.step ?_ (State.linkDown_frame _ _ _) (by decide)
    exact (State.showLanes_frame _ _).mono (by decide)
  · refine Frame.step ?_ (State.post_frame _ _ _ _) (by decide)
    refine Frame.step ?_ (State.showLanes_frame _ _) (by decide)
    exact (State.setLinkState_frame _ _ _).mono (by decide)

theorem State.markLane_frame (s : State) (l : Nat) (dir : Nat) (physical : Nat) :
    Frame [.regs, .links] s (State.markLane s l dir physical) := by
  unfold State.markLane
  extract_lets +onlyGivenNames x0
  clear_value x0
  refine Frame.step ?_ (State.showSpare_frame _ _) (by decide)
  exact (State.updLnk_frame _ _ _).mono (by decide)

theorem State.swapLane_frame (s : State) (l : Nat) (w : Nat × Nat × Nat × Nat) :
    Frame [.attic, .regs, .links, .jobs, .reqs, .hands, .resil, .out] s (State.swapLane s l w) := by
  unfold State.swapLane
  extract_lets +onlyGivenNames x0
  subst x0
  split
  · exact Frame.refl _
  · refine Frame.ite (fun _ => ?_) fun _ => ?_
    · exact Frame.refl _
    · extract_lets +onlyGivenNames x1
      clear_value x1
      extract_lets +onlyGivenNames x2
      have h3 : Frame [.attic, .regs, .links, .jobs, .reqs, .hands, .resil, .out] s x2 := by
        subst x2
        refine Frame.step ?_ (State.updLnk_frame _ _ _) (by decide)
        exact (State.markLane_frame _ _ _ _).mono (by decide)
      clear_value x2
      refine Frame.ite (fun _ => ?_) fun _ => ?_
      · refine Frame.step ?_ (State.laneGone_frame _ _ _ _) (by decide)
        exact h3
      · refine Frame.step ?_ (State.post_frame _ _ _ _) (by decide)
        refine Frame.step ?_ (State.showLanes_frame _ _) (by decide)
        exact h3

theorem State.dueSwaps_frame (s : State) (l : Nat) :
    Frame [.attic, .regs, .links, .jobs, .reqs, .hands, .resil, .out] s (State.dueSwaps s l) := by
  unfold State.dueSwaps
  extract_lets +onlyGivenNames x0
  subst x0
  extract_lets +onlyGivenNames x1
  subst x1
  refine Frame.foldl ?_ ?_
  · exact (State.updLnk_frame _ _ _).mono (by decide)
  · intro x2 x3 h4
    refine Frame.step ?_ (State.swapLane_frame _ _ _) (by decide)
    exact h4

theorem State.mgtReply_frame (s : State) (p : Nat) (tid : Nat) (op : Nat) (status : Nat) (d : List Byte) :
    Frame [.regs, .links, .out] s (State.mgtReply s p tid op status d) := by
  unfold State.mgtReply
  extract_lets +onlyGivenNames x0
  have h1 : Frame [.regs, .links, .out] s x0 := by
    subst x0
    refine Frame.step ?_ (State.setRegF_frame _ _ _ _ _) (by decide)
    exact (State.setRegF_frame _ _ _ _ _).mono (by decide)
  clear_value x0
  refine Frame.step ?_ (State.send_frame _ _ _ _ _) (by decide)
  exact h1

theorem State.mbFree_frame (s : State) :
    Frame [.regs, .mgmt] s (State.mbFree s) := by
  unfold State.mbFree
  extract_lets +onlyGivenNames x0
  have h1 : Frame [.regs, .mgmt] s x0 := by
    subst x0
    exact (State.setRegF_frame _ _ _ _ _).mono (by decide)
  clear_value x0
  refine Frame.upd ?_ rfl
  exact h1

theorem State.atticWrites_frame (s : State) :
    Frame [.attic, .dev, .regs, .links, .mgmt, .out, .freeCtr] s (State.atticWrites s) := by
  unfold State.atticWrites
  extract_lets +onlyGivenNames x0
  have h1 : Frame [.attic, .dev, .regs, .links, .mgmt, .out, .freeCtr] s x0 := by
    subst x0
    exact (State.endSave_frame _).mono (by decide)
  clear_value x0
  split
  · exact h1
  · refine Frame.ite (fun _ => ?_) fun _ => ?_
    · exact h1
    · extract_lets +onlyGivenNames x2
      subst x2
      extract_lets +onlyGivenNames x3
      subst x3
      extract_lets +onlyGivenNames x4
      have h5 : Frame [.attic, .dev, .regs, .links, .mgmt, .out, .freeCtr] s x4 := by
        subst x4
        refine Frame.upd ?_ rfl
        exact h1
      clear_value x4
      extract_lets +onlyGivenNames x6
      have h7 : Frame [.attic, .dev, .regs, .links, .mgmt, .out, .freeCtr] s x6 := by
        subst x6
        refine Frame.step ?_ (State.mgtReply_frame _ _ _ _ _ _) (by decide)
        refine Frame.step ?_ (State.mbFree_frame _) (by decide)
        refine Frame.step ?_ (State.erase_frame _) (by decide)
        exact h5
      clear_value x6
      refine Frame.ite (fun _ => ?_) fun _ => ?_
      · refine Frame.upd ?_ rfl
        exact h7
      · exact h7

theorem State.passCount_frame (s : State) :
    Frame [.attic, .dev, .clk, .regs, .links, .jobs, .reqs, .hands, .resil, .mgmt, .out, .freeCtr] s (State.passCount s) := by
  unfold State.passCount
  refine Frame.ite (fun _ => ?_) fun _ => ?_
  · exact Frame.refl _
  · refine Frame.step ?_ (State.atticWrites_frame _) (by decide)
    refine Frame.foldl ?_ ?_
    · exact (State.refCount_frame _).mono (by decide)
    · intro x0 x1 h2
      refine Frame.step ?_ (State.dueSwaps_frame _ _) (by decide)
      exact h2

theorem State.replayFrom_frame (s : State) (l : Nat) (group : BitVec 16) :
    Frame [.links, .out] s (State.replayFrom s l group) := by
  unfold State.replayFrom
  extract_lets +onlyGivenNames x0
  clear_value x0
  extract_lets +onlyGivenNames x1
  have h2 : Frame [.links, .out] s x1 := by
    subst x1
    exact (State.emit_frame _ _).mono (by decide)
  clear_value x1
  extract_lets +onlyGivenNames x3
  have h4 : Frame [.links, .out] s x3 := by
    subst x3
    refine Frame.foldl ?_ ?_
    · exact h2
    · intro x5 x6 h7
      refine Frame.step ?_ (State.emit_frame _ _) (by decide)
      exact h7
  clear_value x3
  refine Frame.step ?_ (State.updLnk_frame _ _ _) (by decide)
  exact h4

theorem State.rxFrom_frame (s : State) (l : Nat) (group : BitVec 16) :
    Frame [.links] s (State.rxFrom s l group) := by
  unfold State.rxFrom
  extract_lets +onlyGivenNames x0
  clear_value x0
  exact (State.updLnk_frame _ _ _).mono (by decide)

-- Fabric

theorem State.hardWireAt_frame (s : State) (site : Nat) (port : Nat) (net : BitVec 2) (wire : BitVec 10) (ue : Bool) :
    Frame [.attic, .resil] s (State.hardWireAt s site port net wire ue) := by
  unfold State.hardWireAt
  split
  · exact Frame.refl _
  · extract_lets +onlyGivenNames x0
    clear_value x0
    extract_lets +onlyGivenNames x1
    have h2 : Frame [.attic, .resil] s x1 := by
      subst x1
      exact (State.todo_frame _ _).mono (by decide)
    clear_value x1
    refine Frame.ite (fun _ => ?_) fun _ => ?_
    · refine Frame.step ?_ (State.report_frame _ _) (by decide)
      exact h2
    · exact h2

theorem State.domainLost_frame (s : State) (r : Nat) (ctl : Bool) :
    Frame [.regs, .regions, .sync] s (State.domainLost s r ctl) := by
  unfold State.domainLost
  extract_lets +onlyGivenNames x0
  have h1 : Frame [.regs, .regions, .sync] s x0 := by
    subst x0
    exact (State.updRg_frame _ _ _).mono (by decide)
  clear_value x0
  extract_lets +onlyGivenNames x2
  subst x2
  extract_lets +onlyGivenNames x3
  have h4 : Frame [.regs, .regions, .sync] s x3 := by
    subst x3
    refine Frame.ite (fun _ => ?_) fun _ => ?_
    · exact h1
    · refine Frame.upd ?_ rfl
      exact h1
  clear_value x3
  refine Frame.ite (fun _ => ?_) fun _ => ?_
  · exact h4
  · refine Frame.step ?_ (State.setRegF_frame _ _ _ _ _) (by decide)
    exact h4

theorem State.loseDomain_frame (s : State) (r : Nat) (ctl : Bool) :
    Frame [.regs, .regions, .sync, .resil] s (State.loseDomain s r ctl) := by
  unfold State.loseDomain
  refine Frame.ite (fun _ => ?_) fun _ => ?_
  · refine Frame.step ?_ (State.report_frame _ _) (by decide)
    exact (State.domainLost_frame _ _ _).mono (by decide)
  · exact Frame.refl _

end Sys2Proof.Machine
end

