-- ==== Sys2Proof/Laws/FramePower.lean ====
section
/-! SUPPORT. Frames of the shared operations of power, the host, management and bring-up: what each may change, whatever it answers. -/

namespace Sys2Proof.Machine

-- One proof after the other: together they would take a thread each, and with it a stack.
set_option Elab.async false

-- Power

theorem State.deviceOff_frame (s : State) : Frame Part.all s s.deviceOff :=
  ⟨rfl, ⟨rfl, Nat.le_refl _⟩, ⟨[], (List.append_nil _).symm⟩, fun _ => canon_iff.1 (show State.reset.canon = true from canon_iff.2 reset_canon),
    fun p hp => absurd (by cases p <;> decide) hp⟩

theorem State.feedCheck_frame (s : State) :
    Frame Part.all s (State.feedCheck s) := by
  unfold State.feedCheck
  refine Frame.ite (fun _ => ?_) fun _ => ?_
  · exact (State.deviceOff_frame _).mono (by decide)
  · exact Frame.refl _

theorem State.linkOff_frame (s : State) (l : Nat) :
    Frame [.attic, .regs, .links, .jobs, .reqs, .hands, .resil, .out] s (State.linkOff s l) := by
  unfold State.linkOff
  refine Frame.step ?_ (State.updLnk_frame _ _ _) (by decide)
  refine Frame.step ?_ (State.setLinkState_frame _ _ _) (by decide)
  refine Frame.ite (fun _ => ?_) fun _ => ?_
  · exact (State.linkDown_frame _ _ _).mono (by decide)
  · exact Frame.refl _

theorem State.clearRegs_frame (s : State) (lo : Nat) (n : Nat) :
    Frame [.regs] s (State.clearRegs s lo n) := by
  unfold State.clearRegs
  refine Frame.upd ?_ rfl
  exact Frame.refl _

theorem State.slabRegs_frame (s : State) (sl : Nat) :
    Frame [.regs, .conflicts, .links] s (State.slabRegs s sl) := by
  unfold State.slabRegs
  extract_lets +onlyGivenNames x0
  have h1 : Frame [.regs, .conflicts, .links] s x0 := by
    subst x0
    refine Frame.foldl ?_ ?_
    · exact Frame.refl _
    · intro x2 x3 h4
      refine Frame.step ?_ (State.clearRegs_frame _ _ _) (by decide)
      exact h4
  clear_value x0
  extract_lets +onlyGivenNames x5
  have h6 : Frame [.regs, .conflicts, .links] s x5 := by
    subst x5
    refine Frame.upd ?_ rfl
    exact h1
  clear_value x5
  extract_lets +onlyGivenNames x7
  have h8 : Frame [.regs, .conflicts, .links] s x7 := by
    subst x7
    refine Frame.step ?_ (State.clearRegs_frame _ _ _) (by decide)
    refine Frame.step ?_ (State.clearRegs_frame _ _ _) (by decide)
    exact h6
  clear_value x7
  refine Frame.foldl ?_ ?_
  · exact h8
  · intro x9 x10 h11
    refine Frame.step ?_ (State.updLnk_frame _ _ _) (by decide)
    refine Frame.step ?_ (State.clearRegs_frame _ _ _) (by decide)
    exact h11

theorem State.slabOff_frame (s : State) (sl : Nat) :
    Frame [.clk, .regs, .larder, .larErr, .cellar, .celErr, .conflicts, .clusters, .regions, .slabs, .links, .strm] s (State.slabOff s sl) := by
  unfold State.slabOff
  extract_lets +onlyGivenNames x0
  have h1 : Frame [.clk, .regs, .larder, .larErr, .cellar, .celErr, .conflicts, .clusters, .regions, .slabs, .links, .strm] s x0 := by
    subst x0
    refine Frame.foldl ?_ ?_
    · exact Frame.refl _
    · intro x2 x3 h4
      refine Frame.step ?_ (State.setRegF_frame _ _ _ _ _) (by decide)
      refine Frame.step ?_ (State.setRegF_frame _ _ _ _ _) (by decide)
      refine Frame.step ?_ (State.setRegF_frame _ _ _ _ _) (by decide)
      refine Frame.step ?_ (State.railsOff_frame _ _) (by decide)
      exact h4
  clear_value x0
  extract_lets +onlyGivenNames x5
  have h6 : Frame [.clk, .regs, .larder, .larErr, .cellar, .celErr, .conflicts, .clusters, .regions, .slabs, .links, .strm] s x5 := by
    subst x5
    refine Frame.step ?_ (State.setReg_frame _ _ _) (by decide)
    refine Frame.step ?_ (State.setRegF_frame _ _ _ _ _) (by decide)
    refine Frame.step ?_ (State.setRegF_frame _ _ _ _ _) (by decide)
    exact h1
  clear_value x5
  extract_lets +onlyGivenNames x7
  have h8 : Frame [.clk, .regs, .larder, .larErr, .cellar, .celErr, .conflicts, .clusters, .regions, .slabs, .links, .strm] s x7 := by
    subst x7
    refine Frame.step ?_ (State.updSlab_frame _ _ _) (by decide)
    exact h6
  clear_value x7
  extract_lets +onlyGivenNames x9
  subst x9
  refine Frame.step ?_ (State.slabRegs_frame _ _) (by decide)
  refine Frame.upd ?_ rfl
  exact h8

theorem Frame.toAon {s t : State} (h : Frame Part.all s t) :
    Frame Part.all s ({ t with dev := { t.dev with base := .aon, pGood := false } }.refRestored.feedCheck) := by
  refine Frame.step ?_ (State.feedCheck_frame _) (by decide)
  refine Frame.step ?_ (State.refRestored_frame _) (by decide)
  exact Frame.upd h rfl

theorem State.dropRails_frame (s : State) : Frame Part.all s s.dropRails :=
  have h : Frame Part.all s ((depotLinks.foldl State.linkOff s.stopCairn).setLocal false) :=
    Frame.step (Frame.foldl ((State.stopCairn_frame _).mono (by decide)) fun _ _ h => Frame.step h (State.linkOff_frame _ _) (by decide))
      (State.setLocal_frame _ _) (by decide)
  Frame.toAon (Frame.foldl h fun _ _ h => Frame.step h (State.slabOff_frame _ _) (by decide))

theorem State.countersAnew_frame (s : State) :
    Frame [.regs] s (State.countersAnew s) := by
  unfold State.countersAnew
  extract_lets +onlyGivenNames x0
  have h1 : Frame [.regs] s x0 := by
    subst x0
    refine Frame.step ?_ (State.setReg_frame _ _ _) (by decide)
    exact (State.setReg_frame _ _ _).mono (by decide)
  clear_value x0
  refine Frame.foldl ?_ ?_
  · exact h1
  · intro x2 x3 h4
    refine Frame.step ?_ (State.setRegF_frame _ _ _ _ _) (by decide)
    refine Frame.step ?_ (State.setReg_frame _ _ _) (by decide)
    exact h4

theorem State.newBringup_frame (s : State) :
    Frame [.regs, .regions, .jobs, .resil] s (State.newBringup s) := by
  unfold State.newBringup
  extract_lets +onlyGivenNames x0
  have h1 : Frame [.regs, .regions, .jobs, .resil] s x0 := by
    subst x0
    exact (State.countersAnew_frame _).mono (by decide)
  clear_value x0
  refine Frame.ite (fun _ => ?_) fun _ => ?_
  · exact h1
  · refine Frame.upd ?_ rfl
    exact h1

theorem State.setV48_frame (s : State) (v : BitVec 16) :
    Frame [.regs] s (State.setV48 s v) := by
  unfold State.setV48
  exact (State.setRegF_frame _ _ _ _ _).mono (by decide)

theorem State.setV12_frame (s : State) (v : BitVec 16) :
    Frame [.regs] s (State.setV12 s v) := by
  unfold State.setV12
  exact (State.setRegF_frame _ _ _ _ _).mono (by decide)

theorem State.bringupStops_frame (s : State) :
    Frame Part.all s (State.bringupStops s) := by
  unfold State.bringupStops
  extract_lets +onlyGivenNames x0
  have h1 : Frame Part.all s x0 := by
    subst x0
    refine Frame.ite (fun _ => ?_) fun _ => ?_
    · exact (State.dropRails_frame _).mono (by decide)
    · exact Frame.refl _
  clear_value x0
  refine Frame.ite (fun _ => ?_) fun _ => ?_
  · exact h1
  · refine Frame.upd ?_ rfl
    exact h1

theorem State.setIlim_frame (s : State) (r : Nat) (phases : Nat) :
    Frame [.regs, .freeCtr] s (State.setIlim s r phases) := by
  unfold State.setIlim
  extract_lets +onlyGivenNames x0
  clear_value x0
  refine Frame.ite (fun _ => ?_) fun _ => ?_
  · exact (State.setRegF_frame _ _ _ _ _).mono (by decide)
  · refine Frame.ite (fun _ => ?_) fun _ => ?_
    · exact (State.setRegF_frame _ _ _ _ _).mono (by decide)
    · refine Frame.step ?_ (State.setRegF_frame _ _ _ _ _) (by decide)
      exact (State.useFree_frame _).mono (by decide)

theorem State.setPhases_frame (s : State) (r : Nat) (mask : Nat) :
    Frame [.regs, .freeCtr] s (State.setPhases s r mask) := by
  unfold State.setPhases
  extract_lets +onlyGivenNames x0
  clear_value x0
  extract_lets +onlyGivenNames x1
  have h2 : Frame [.regs, .freeCtr] s x1 := by
    subst x1
    exact (State.setRegF_frame _ _ _ _ _).mono (by decide)
  clear_value x1
  extract_lets +onlyGivenNames x3
  have h4 : Frame [.regs, .freeCtr] s x3 := by
    subst x3
    refine Frame.ite (fun _ => ?_) fun _ => ?_
    · exact h2
    · refine Frame.step ?_ (State.setRegF_frame _ _ _ _ _) (by decide)
      exact h2
  clear_value x3
  refine Frame.step ?_ (State.clipRate_frame _ _) (by decide)
  refine Frame.step ?_ (State.setIlim_frame _ _ _) (by decide)
  exact h4

theorem State.openSwitches_frame (s : State) (r : Nat) :
    Frame [.regs, .regions] s (State.openSwitches s r) := by
  unfold State.openSwitches
  refine Frame.ite (fun _ => ?_) fun _ => ?_
  · exact (State.toBivouac_frame _ _).mono (by decide)
  · exact Frame.refl _

theorem State.forceCause_frame (s : State) (r : Nat) (cause : BitVec 4) :
    Frame [.attic, .dev, .regs, .larder, .larErr, .clusters, .regions, .jobs, .strm, .resil] s (State.forceCause s r cause) := by
  unfold State.forceCause
  refine Frame.ite (fun _ => ?_) fun _ => ?_
  · exact (State.report_frame _ _).mono (by decide)
  · exact (State.retireReserve_frame _ _ _ _ _).mono (by decide)

theorem State.preventCause_frame (s : State) (r : Nat) (cause : BitVec 4) :
    Frame [.attic, .dev, .regs, .larder, .larErr, .clusters, .regions, .jobs, .strm, .resil] s (State.preventCause s r cause) := by
  unfold State.preventCause
  refine Frame.ite (fun _ => ?_) fun _ => ?_
  · exact (State.report_frame _ _).mono (by decide)
  · refine Frame.ite (fun _ => ?_) fun _ => ?_
    · exact (State.retireReserve_frame _ _ _ _ _).mono (by decide)
    · exact (State.planRetirement_frame _ _ _).mono (by decide)

theorem State.dropCopy_frame (s : State) (n : Nat) :
    Frame [.regs, .clusters] s (State.dropCopy s n) := by
  unfold State.dropCopy
  extract_lets +onlyGivenNames x0
  clear_value x0
  extract_lets +onlyGivenNames x1
  have h2 : Frame [.regs, .clusters] s x1 := by
    subst x1
    refine Frame.foldl ?_ ?_
    · exact Frame.refl _
    · intro x3 x4 h5
      refine Frame.step ?_ (State.updCl_same _ _ _ fun _ => rfl) (by decide)
      exact h5
  clear_value x1
  refine Frame.step ?_ (State.unstall_frame _ _ _) (by decide)
  exact h2

theorem State.slabFails_frame (s : State) (sl : Nat) :
    Frame [.attic, .regs, .larder, .larErr, .conflicts, .clusters, .regions, .slabs, .jobs, .strm, .reqs, .resil, .freeCtr] s (State.slabFails s sl) := by
  unfold State.slabFails
  refine Frame.step ?_ (State.dropWaves_frame _) (by decide)
  refine Frame.foldl ?_ ?_
  · exact Frame.refl _
  · intro x0 x1 h2
    split
    · exact h2
    · extract_lets +onlyGivenNames x3
      clear_value x3
      refine Frame.ite (fun _ => ?_) fun _ => ?_
      · extract_lets +onlyGivenNames x4
        have h5 : Frame [.attic, .regs, .larder, .larErr, .conflicts, .clusters, .regions, .slabs, .jobs, .strm, .reqs, .resil, .freeCtr] s x4 := by
          subst x4
          refine Frame.step ?_ (State.finish_frame _ _ _ _ _) (by decide)
          exact h2
        clear_value x4
        extract_lets +onlyGivenNames x6
        subst x6
        extract_lets +onlyGivenNames x7
        have h8 : Frame [.attic, .regs, .larder, .larErr, .conflicts, .clusters, .regions, .slabs, .jobs, .strm, .reqs, .resil, .freeCtr] s x7 := by
          subst x7
          refine Frame.upd ?_ rfl
          exact h5
        clear_value x7
        extract_lets +onlyGivenNames x9
        have h10 : Frame [.attic, .regs, .larder, .larErr, .conflicts, .clusters, .regions, .slabs, .jobs, .strm, .reqs, .resil, .freeCtr] s x9 := by
          subst x9
          refine Frame.step ?_ (State.dropCopy_frame _ _) (by decide)
          exact h8
        clear_value x9
        extract_lets +onlyGivenNames x11
        have h12 : Frame [.attic, .regs, .larder, .larErr, .conflicts, .clusters, .regions, .slabs, .jobs, .strm, .reqs, .resil, .freeCtr] s x11 := by
          subst x11
          refine Frame.ite (fun _ => ?_) fun _ => ?_
          · refine Frame.foldl ?_ ?_
            · exact h10
            · intro x13 x14 h15
              refine Flow.orStuck_frameC ?_ (by decide) ?_
              · refine FrameF.step ?_ (State.sweepEnd_frame _ _) (by decide)
                exact h15
              · exact h15
          · exact h10
        clear_value x11
        refine Frame.ite (fun _ => ?_) fun _ => ?_
        · refine Frame.step ?_ (State.endStep_frame _) (by decide)
          exact h12
        · exact h12
      · exact h2

theorem State.darkenSlab_frame (s : State) (sl : Nat) :
    Frame Part.all s (State.darkenSlab s sl) := by
  unfold State.darkenSlab
  extract_lets +onlyGivenNames x0
  have h1 : Frame Part.all s x0 := by
    subst x0
    exact (State.post_frame _ _ _ _).mono (by decide)
  clear_value x0
  extract_lets +onlyGivenNames x2
  subst x2
  extract_lets +onlyGivenNames x3
  have h4 : Frame Part.all s x3 := by
    subst x3
    refine Frame.upd ?_ rfl
    exact h1
  clear_value x3
  extract_lets +onlyGivenNames x5
  have h6 : Frame Part.all s x5 := by
    subst x5
    refine Frame.step ?_ (State.setLocal_frame _ _) (by decide)
    refine Frame.step ?_ (State.stopCairn_frame _) (by decide)
    refine Frame.step ?_ (State.slabFails_frame _ _) (by decide)
    exact h4
  clear_value x5
  extract_lets +onlyGivenNames x7
  have h8 : Frame Part.all s x7 := by
    subst x7
    refine Frame.foldl ?_ ?_
    · exact h6
    · intro x9 x10 h11
      refine Frame.ite (fun _ => ?_) fun _ => ?_
      · refine Frame.step ?_ (State.linkDown_frame _ _ _) (by decide)
        exact h11
      · exact h11
  clear_value x7
  extract_lets +onlyGivenNames x12
  have h13 : Frame Part.all s x12 := by
    subst x12
    refine Frame.step ?_ (State.refRestored_frame _) (by decide)
    refine Frame.step ?_ (State.updSlab_frame _ _ _) (by decide)
    refine Frame.step ?_ (State.slabOff_frame _ _) (by decide)
    exact h8
  clear_value x12
  extract_lets +onlyGivenNames x14
  have h15 : Frame Part.all s x14 := by
    subst x14
    refine Frame.foldl ?_ ?_
    · exact h13
    · intro x16 x17 h18
      refine Frame.step ?_ (State.setLinkState_frame _ _ _) (by decide)
      exact h18
  clear_value x14
  extract_lets +onlyGivenNames x19
  clear_value x19
  extract_lets +onlyGivenNames x20
  subst x20
  extract_lets +onlyGivenNames x21
  have h22 : Frame Part.all s x21 := by
    subst x21
    refine Frame.upd ?_ rfl
    exact h15
  clear_value x21
  extract_lets +onlyGivenNames x23
  have h24 : Frame Part.all s x23 := by
    subst x23
    refine Frame.step ?_ (State.dropChecks_frame _ _) (by decide)
    exact h22
  clear_value x23
  refine Frame.step ?_ (State.feedCheck_frame _) (by decide)
  refine Frame.ite (fun _ => ?_) fun _ => ?_
  · refine Frame.step ?_ (State.alert_frame _ _) (by decide)
    exact h24
  · exact h24

theorem State.lapse_frame (s : State) (sl : Nat) :
    Frame [.slabs] s (State.lapse s sl) := by
  unfold State.lapse
  extract_lets +onlyGivenNames x0
  subst x0
  exact (State.updSlab_frame _ _ _).mono (by decide)

theorem State.admitWake_frame (s : State) (r : Nat) :
    Frame [.regs, .regions, .slabs] s (State.admitWake s r) := by
  unfold State.admitWake
  extract_lets +onlyGivenNames x0
  clear_value x0
  split
  · exact Frame.refl _
  · extract_lets +onlyGivenNames x1
    subst x1
    refine Frame.ite (fun _ => ?_) fun _ => ?_
    · exact (State.updRg_frame _ _ _).mono (by decide)
    · refine Frame.ite (fun _ => ?_) fun _ => ?_
      · beta_reduce
        refine Frame.step ?_ (State.updRg_frame _ _ _) (by decide)
        exact (State.count_frame _ _ _ _ _).mono (by decide)
      · refine Frame.ite (fun _ => ?_) fun _ => ?_
        · beta_reduce
          exact (State.updRg_frame _ _ _).mono (by decide)
        · refine Frame.ite (fun _ => ?_) fun _ => ?_
          · beta_reduce
            refine Frame.step ?_ (State.updRg_frame _ _ _) (by decide)
            exact (State.count_frame _ _ _ _ _).mono (by decide)
          · refine Frame.step ?_ (State.wakeStart_frame _ _) (by decide)
            exact (State.reserve_frame _ _ _ _).mono (by decide)

theorem State.lowerRates_frame (l : Int) (n : List Nat) (i : Int) (s : State) :
    Frame [.regs] s (State.lowerRates l n i s) := by
  induction n generalizing s i with
  | nil =>
    rw [State.lowerRates]
    exact Frame.refl _
  | cons w ws ih =>
    rw [State.lowerRates]
    refine Frame.ite (fun _ => ?_) fun _ => ?_
    · extract_lets +onlyGivenNames x0
      clear_value x0
      extract_lets +onlyGivenNames x1
      have h2 : Frame [.regs] s x1 := by
        subst x1
        refine Frame.step ?_ (State.count_frame _ _ _ _ _) (by decide)
        exact (State.setRate_frame _ _ _).mono (by decide)
      clear_value x1
      refine Frame.ite (fun _ => ?_) fun _ => ?_
      · exact h2
      · refine Frame.step ?_ (ih _ _) (by decide)
        exact h2
    · refine Frame.ite (fun _ => ?_) fun _ => ?_
      · exact Frame.refl _
      · refine Frame.step ?_ (ih _ _) (by decide)
        exact Frame.refl _

theorem State.raiseRates_frame (l : Int) (n : List Nat) (i : Int) (s : State) :
    Frame [.regs] s (State.raiseRates l n i s) := by
  induction n generalizing s i with
  | nil =>
    rw [State.raiseRates]
    exact Frame.refl _
  | cons w ws ih =>
    rw [State.raiseRates]
    refine Frame.ite (fun _ => ?_) fun _ => ?_
    · refine Frame.step ?_ (ih _ _) (by decide)
      exact (State.setRate_frame _ _ _).mono (by decide)
    · refine Frame.step ?_ (ih _ _) (by decide)
      exact Frame.refl _

theorem State.setCapped_frame (s : State) (granted : List Nat) (r : Nat) :
    Frame [.regs] s (State.setCapped s granted r) := by
  unfold State.setCapped
  exact (State.setRegF_frame _ _ _ _ _).mono (by decide)

theorem State.slabRates_frame (s : State) (sl : Nat) :
    Frame [.regs, .slabs] s (State.slabRates s sl) := by
  unfold State.slabRates
  extract_lets +onlyGivenNames x0
  clear_value x0
  extract_lets +onlyGivenNames x1
  clear_value x1
  extract_lets +onlyGivenNames x2
  clear_value x2
  extract_lets +onlyGivenNames x3
  clear_value x3
  extract_lets +onlyGivenNames x4
  clear_value x4
  extract_lets +onlyGivenNames x5
  clear_value x5
  extract_lets +onlyGivenNames x6
  have h7 : Frame [.regs, .slabs] s x6 := by
    subst x6
    refine Frame.ite (fun _ => ?_) fun _ => ?_
    · exact (State.lowerRates_frame _ _ _ _).mono (by decide)
    · refine Frame.ite (fun _ => ?_) fun _ => ?_
      · exact (State.raiseRates_frame _ _ _ _).mono (by decide)
      · exact Frame.refl _
  clear_value x6
  extract_lets +onlyGivenNames x8
  clear_value x8
  extract_lets +onlyGivenNames x9
  have h10 : Frame [.regs, .slabs] s x9 := by
    subst x9
    refine Frame.step ?_ (State.updSlab_frame _ _ _) (by decide)
    exact h7
  clear_value x9
  extract_lets +onlyGivenNames x11
  have h12 : Frame [.regs, .slabs] s x11 := by
    subst x11
    refine Frame.foldl ?_ ?_
    · exact h10
    · intro x13 x14 h15
      refine Frame.step ?_ (State.clipRate_frame _ _) (by decide)
      exact h15
  clear_value x11
  refine Frame.foldl ?_ ?_
  · exact h12
  · intro x16 x17 h18
    refine Frame.step ?_ (State.setCapped_frame _ _ _) (by decide)
    exact h18

theorem State.readTemp_frame (s : State) (r : Nat) (t : Nat) :
    Frame [.regs] s (State.readTemp s r t) := by
  unfold State.readTemp
  refine Frame.step ?_ (State.setRegF_frame _ _ _ _ _) (by decide)
  exact (State.setRegF_frame _ _ _ _ _).mono (by decide)

theorem State.lowerThermal_frame (s : State) (r : Nat) :
    Frame [.attic, .regs, .regions, .jobs] s (State.lowerThermal s r) := by
  unfold State.lowerThermal
  extract_lets +onlyGivenNames x0
  clear_value x0
  refine Frame.ite (fun _ => ?_) fun _ => ?_
  · exact Frame.refl _
  · extract_lets +onlyGivenNames x1
    have h2 : Frame [.attic, .regs, .regions, .jobs] s x1 := by
      subst x1
      refine Frame.step ?_ (State.count_frame _ _ _ _ _) (by decide)
      exact (State.setRegF_frame _ _ _ _ _).mono (by decide)
    clear_value x1
    extract_lets +onlyGivenNames x3
    have h4 : Frame [.attic, .regs, .regions, .jobs] s x3 := by
      subst x3
      refine Frame.ite (fun _ => ?_) fun _ => ?_
      · refine Frame.step ?_ (State.post_frame _ _ _ _) (by decide)
        refine Frame.step ?_ (State.updRg_frame _ _ _) (by decide)
        exact h2
      · exact h2
    clear_value x3
    refine Frame.step ?_ (State.clipRate_frame _ _) (by decide)
    exact h4

-- Watch

theorem State.setWatchState_frame (s : State) (u : Nat) (st : Nat) :
    Frame [.regs] s (State.setWatchState s u st) := by
  unfold State.setWatchState
  exact (State.setRegF_frame _ _ _ _ _).mono (by decide)

theorem State.watchBegin_frame (s : State) (u : Nat) :
    Frame [.regs] s (State.watchBegin s u) := by
  unfold State.watchBegin
  refine Frame.ite (fun _ => ?_) fun _ => ?_
  · extract_lets +onlyGivenNames x0
    have h1 : Frame [.regs] s x0 := by
      subst x0
      exact (State.setWatchState_frame _ _ _).mono (by decide)
    clear_value x0
    split
    · refine Frame.ite (fun _ => ?_) fun _ => ?_
      · refine Frame.step ?_ (State.clockUp_frame _ _) (by decide)
        exact h1
      · exact h1
    · exact h1
  · exact Frame.refl _

theorem execWctlArm_frame (_p : PortNo) (u : WatchNo) (s : State) :
    FrameR [.regs, .mgmt] s (execWctlArm _p u s) := by
  unfold execWctlArm
  refine FrameR.ite (fun _ => ?_) fun _ => ?_
  · refine FrameR.next ?_
    exact Frame.refl _
  · extract_lets +onlyGivenNames x0
    subst x0
    extract_lets +onlyGivenNames x1
    have h2 : Frame [.regs, .mgmt] s x1 := by
      subst x1
      refine Frame.upd ?_ rfl
      exact Frame.refl _
    clear_value x1
    extract_lets +onlyGivenNames x3
    have h4 : Frame [.regs, .mgmt] s x3 := by
      subst x3
      refine Frame.foldl ?_ ?_
      · exact h2
      · intro x5 x6 h7
        refine Frame.step ?_ (State.setReg_frame _ _ _) (by decide)
        exact h7
    clear_value x3
    extract_lets +onlyGivenNames x8
    clear_value x8
    extract_lets +onlyGivenNames x9
    have h10 : Frame [.regs, .mgmt] s x9 := by
      subst x9
      refine Frame.step ?_ (State.setRegF_frame _ _ _ _ _) (by decide)
      refine Frame.step ?_ (State.setRegF_frame _ _ _ _ _) (by decide)
      refine Frame.step ?_ (State.setWatchState_frame _ _ _) (by decide)
      exact h4
    clear_value x9
    refine FrameR.next ?_
    refine Frame.ite (fun _ => ?_) fun _ => ?_
    · refine Frame.step ?_ (State.setWatchState_frame _ _ _) (by decide)
      exact h10
    · refine Frame.step ?_ (State.watchBegin_frame _ _) (by decide)
      exact h10

theorem execWctlStop_frame (_p : PortNo) (u : WatchNo) (s : State) :
    FrameR [.regs] s (execWctlStop _p u s) := by
  unfold execWctlStop
  refine FrameR.ite (fun _ => ?_) fun _ => ?_
  · refine FrameR.next ?_
    exact (State.setWatchState_frame _ _ _).mono (by decide)
  · refine FrameR.next ?_
    exact Frame.refl _

theorem State.watchTake_frame (s : State) (u : Nat) (v : Word) :
    Frame [.regs, .mgmt] s (State.watchTake s u v) := by
  unfold State.watchTake
  extract_lets +onlyGivenNames x0
  have h1 : Frame [.regs, .mgmt] s x0 := by
    subst x0
    exact (State.watchBegin_frame _ _).mono (by decide)
  clear_value x0
  refine Frame.ite (fun _ => ?_) fun _ => ?_
  · exact h1
  · extract_lets +onlyGivenNames x2
    clear_value x2
    extract_lets +onlyGivenNames x3
    subst x3
    extract_lets +onlyGivenNames x4
    have h5 : Frame [.regs, .mgmt] s x4 := by
      subst x4
      beta_reduce
      refine Frame.ite (fun _ => ?_) fun _ => ?_
      · refine Frame.step ?_ (State.setReg_frame _ _ _) (by decide)
        refine Frame.ite (fun _ => ?_) fun _ => ?_
        · refine Frame.step ?_ (State.setReg_frame _ _ _) (by decide)
          exact h1
        · exact h1
      · refine Frame.ite (fun _ => ?_) fun _ => ?_
        · refine Frame.step ?_ (State.setReg_frame _ _ _) (by decide)
          exact h1
        · exact h1
    clear_value x4
    extract_lets +onlyGivenNames x6
    clear_value x6
    extract_lets +onlyGivenNames x7
    clear_value x7
    extract_lets +onlyGivenNames x8
    have h9 : Frame [.regs, .mgmt] s x8 := by
      subst x8
      refine Frame.step ?_ (State.count_frame _ _ _ _ _) (by decide)
      refine Frame.step ?_ (State.count_frame _ _ _ _ _) (by decide)
      exact h5
    clear_value x8
    extract_lets +onlyGivenNames x10
    subst x10
    extract_lets +onlyGivenNames x11
    have h12 : Frame [.regs, .mgmt] s x11 := by
      subst x11
      refine Frame.ite (fun _ => ?_) fun _ => ?_
      · refine Frame.upd ?_ rfl
        exact h9
      · exact h9
    clear_value x11
    refine Frame.ite (fun _ => ?_) fun _ => ?_
    · refine Frame.step ?_ (State.count_frame _ _ _ _ _) (by decide)
      exact h12
    · exact h12

theorem State.pulse_frame (s : State) :
    Frame [.attic, .clk, .regs, .links, .jobs, .points, .strm, .resil, .mgmt, .out, .freeCtr] s (State.pulse s) := by
  unfold State.pulse
  extract_lets +onlyGivenNames x0
  have h1 : Frame [.attic, .clk, .regs, .links, .jobs, .points, .strm, .resil, .mgmt, .out, .freeCtr] s x0 := by
    subst x0
    exact (State.timePulse_frame _).mono (by decide)
  clear_value x0
  refine Frame.ite (fun _ => ?_) fun _ => ?_
  · refine Frame.foldl ?_ ?_
    · exact h1
    · intro x2 x3 h4
      refine Frame.step ?_ (State.watchTake_frame _ _ _) (by decide)
      exact h4
  · exact h1

-- Host

theorem State.clearFec_frame (s : State) (a : Nat) :
    Frame [.links, .freeCtr] s (State.clearFec s a) := by
  unfold State.clearFec
  split
  · extract_lets +onlyGivenNames x0
    clear_value x0
    refine Frame.step ?_ (State.updLnk_frame _ _ _) (by decide)
    exact (State.useFree_frame _).mono (by decide)
  · exact Frame.refl _

theorem State.afterRead_frame (s : State) (p : Nat) (a : Nat) :
    Frame [.regs, .latches, .conflicts, .links, .freeCtr] s (State.afterRead s p a) := by
  unfold State.afterRead
  extract_lets +onlyGivenNames x0
  clear_value x0
  extract_lets +onlyGivenNames x1
  have h2 : Frame [.regs, .latches, .conflicts, .links, .freeCtr] s x1 := by
    subst x1
    refine Frame.ite (fun _ => ?_) fun _ => ?_
    · refine Frame.upd ?_ rfl
      exact Frame.refl _
    · exact Frame.refl _
  clear_value x1
  extract_lets +onlyGivenNames x3
  have h4 : Frame [.regs, .latches, .conflicts, .links, .freeCtr] s x3 := by
    subst x3
    refine Frame.ite (fun _ => ?_) fun _ => ?_
    · refine Frame.step ?_ (State.useFree_frame _) (by decide)
      exact h2
    · exact h2
  clear_value x3
  extract_lets +onlyGivenNames x5
  have h6 : Frame [.regs, .latches, .conflicts, .links, .freeCtr] s x5 := by
    subst x5
    split
    · refine Frame.upd ?_ rfl
      exact h4
    · exact h4
  clear_value x5
  extract_lets +onlyGivenNames x7
  have h8 : Frame [.regs, .latches, .conflicts, .links, .freeCtr] s x7 := by
    subst x7
    refine Frame.step ?_ (State.clearFec_frame _ _) (by decide)
    exact h6
  clear_value x7
  refine Frame.ite (fun _ => ?_) fun _ => ?_
  · exact h8
  · refine Frame.step ?_ (State.setReg_frame _ _ _) (by decide)
    exact h8

theorem State.readWords_frame (p : Nat) (n : Nat) (a : Nat) (s : State) (acc : List Byte) :
    FrameP [.regs, .latches, .conflicts, .links, .freeCtr] s (State.readWords p n a s acc) := by
  induction n generalizing s a acc with
  | zero =>
    rw [State.readWords]
    refine FrameP.pair ?_
    exact Frame.refl _
  | succ n ih =>
    rw [State.readWords]
    refine FrameP.step ?_ (ih _ _ _) (by decide)
    exact (State.afterRead_frame _ _ _).mono (by decide)

theorem State.discardFlits_frame (s : State) (r : Nat) (n : Nat) :
    Frame [.regs] s (State.discardFlits s r n) := by
  unfold State.discardFlits
  exact (State.count_frame _ _ _ _ _).mono (by decide)

theorem State.lift_frame (s : State) (r : Nat) :
    Frame [.regs, .regions] s (State.lift s r) := by
  unfold State.lift
  refine Frame.ite (fun _ => ?_) fun _ => ?_
  · refine Frame.step ?_ (State.updRg_frame _ _ _) (by decide)
    refine Frame.step ?_ (State.setRetention_frame _ _ _) (by decide)
    exact (State.setSwitches_frame _ _ _ _ _).mono (by decide)
  · exact Frame.refl _

theorem State.readAperture_frame (p : Nat) (tid : Nat) (n : Nat) (mute : Bool) (a : Nat) (off : Nat) (k : Nat) (s : State) :
    Frame [.attic, .regs, .larder, .larErr, .conflicts, .clusters, .regions, .links, .resil, .out, .freeCtr] s (State.readAperture p tid n mute a off k s) := by
  induction n generalizing s mute a off k with
  | zero =>
    rw [State.readAperture]
    exact Frame.refl _
  | succ n ih =>
    rw [State.readAperture]
    refine Frame.ite (fun _ => ?_) fun _ => ?_
    · exact Frame.refl _
    · extract_lets +onlyGivenNames x0
      clear_value x0
      extract_lets +onlyGivenNames x1
      subst x1
      extract_lets +onlyGivenNames x2
      subst x2
      extract_lets +onlyGivenNames x3
      subst x3
      split
      · beta_reduce
        refine Frame.step ?_ (ih _ _ _ _ _) (by decide)
        refine Frame.ite (fun _ => ?_) fun _ => ?_
        · exact Frame.refl _
        · unfold State.answer
          exact (State.send_frame _ _ _ _ _).mono (by decide)
      · beta_reduce
        refine Frame.step ?_ (ih _ _ _ _ _) (by decide)
        refine Frame.ite (fun _ => ?_) fun _ => ?_
        · exact Frame.refl _
        · unfold State.answer
          exact (State.send_frame _ _ _ _ _).mono (by decide)
      · beta_reduce
        refine Frame.ite (fun _ => ?_) fun _ => ?_
        · exact Frame.refl _
        · unfold State.answer
          exact (State.send_frame _ _ _ _ _).mono (by decide)
      · beta_reduce
        refine Frame.step ?_ (ih _ _ _ _ _) (by decide)
        refine Frame.ite (fun _ => ?_) fun _ => ?_
        · exact Frame.refl _
        · unfold State.answer
          exact (State.send_frame _ _ _ _ _).mono (by decide)
      · beta_reduce
        refine Frame.step ?_ (ih _ _ _ _ _) (by decide)
        refine Frame.ite (fun _ => ?_) fun _ => ?_
        · exact (State.discardFlits_frame _ _ _).mono (by decide)
        · unfold State.answer
          refine Frame.step ?_ (State.send_frame _ _ _ _ _) (by decide)
          exact (State.discardFlits_frame _ _ _).mono (by decide)
      · split
        · rename_i h4
          have h5 := (State.larRead_frame _ _ _ _).of_eq h4
          beta_reduce
          refine Frame.ite (fun _ => ?_) fun _ => ?_
          · refine Frame.step ?_ (ih _ _ _ _ _) (by decide)
            refine Frame.step ?_ h5 (by decide)
            exact (State.lift_frame _ _).mono (by decide)
          · refine Frame.step ?_ h5 (by decide)
            exact (State.lift_frame _ _).mono (by decide)
        · rename_i h6
          have h7 := (State.larRead_frame _ _ _ _).of_eq h6
          beta_reduce
          refine Frame.step ?_ (ih _ _ _ _ _) (by decide)
          refine Frame.ite (fun _ => ?_) fun _ => ?_
          · refine Frame.step ?_ h7 (by decide)
            exact (State.lift_frame _ _).mono (by decide)
          · unfold State.answer
            refine Frame.step ?_ (State.send_frame _ _ _ _ _) (by decide)
            refine Frame.step ?_ h7 (by decide)
            exact (State.lift_frame _ _).mono (by decide)
      · split
        · rename_i h8
          have h9 := (State.celRead_frame _ _ _ _).of_eq h8
          beta_reduce
          refine Frame.ite (fun _ => ?_) fun _ => ?_
          · refine Frame.step ?_ (ih _ _ _ _ _) (by decide)
            refine Frame.step ?_ h9 (by decide)
            exact Frame.refl _
          · refine Frame.step ?_ h9 (by decide)
            exact Frame.refl _
        · rename_i h10
          have h11 := (State.celRead_frame _ _ _ _).of_eq h10
          beta_reduce
          refine Frame.step ?_ (ih _ _ _ _ _) (by decide)
          refine Frame.ite (fun _ => ?_) fun _ => ?_
          · refine Frame.step ?_ h11 (by decide)
            exact Frame.refl _
          · unfold State.answer
            refine Frame.step ?_ (State.send_frame _ _ _ _ _) (by decide)
            refine Frame.step ?_ h11 (by decide)
            exact Frame.refl _

theorem State.writeAperture_frame (n : Nat) (a : Nat) (d : List Byte) (s : State) :
    FrameR [.attic, .regs, .larder, .larErr, .cellar, .celErr, .conflicts, .clusters, .regions, .resil, .freeCtr] s (State.writeAperture n a d s) := by
  induction n generalizing s a d with
  | zero =>
    rw [State.writeAperture]
    refine FrameR.next ?_
    exact Frame.refl _
  | succ n ih =>
    rw [State.writeAperture]
    refine FrameR.ite (fun _ => ?_) fun _ => ?_
    · refine FrameR.next ?_
      exact Frame.refl _
    · extract_lets +onlyGivenNames x0
      clear_value x0
      extract_lets +onlyGivenNames x1
      subst x1
      extract_lets +onlyGivenNames x2
      subst x2
      split
      · beta_reduce
        refine FrameR.step ?_ (ih _ _ _) (by decide)
        exact Frame.refl _
      · beta_reduce
        refine FrameR.step ?_ (ih _ _ _) (by decide)
        exact Frame.refl _
      · refine FrameR.ite (fun _ => ?_) fun _ => ?_
        · exact FrameR.undef
        · beta_reduce
          refine FrameR.step ?_ (ih _ _ _) (by decide)
          exact Frame.refl _
      · refine FrameR.next ?_
        exact Frame.refl _
      · beta_reduce
        refine FrameR.step ?_ (ih _ _ _) (by decide)
        exact (State.discardFlits_frame _ _ _).mono (by decide)
      · refine FrameR.ite (fun _ => ?_) fun _ => ?_
        · exact FrameR.undef
        · split
          · rename_i h3
            have h4 := (State.larWrite_frame _ _ _ _).of_eq h3
            beta_reduce
            refine FrameR.ite (fun _ => ?_) fun _ => ?_
            · refine FrameR.step ?_ (ih _ _ _) (by decide)
              refine Frame.step ?_ h4 (by decide)
              exact (State.lift_frame _ _).mono (by decide)
            · refine FrameR.next ?_
              refine Frame.step ?_ h4 (by decide)
              exact (State.lift_frame _ _).mono (by decide)
          · rename_i h5
            have h6 := (State.larWrite_frame _ _ _ _).of_eq h5
            beta_reduce
            refine FrameR.step ?_ (ih _ _ _) (by decide)
            refine Frame.step ?_ h6 (by decide)
            exact (State.lift_frame _ _).mono (by decide)
      · refine FrameR.ite (fun _ => ?_) fun _ => ?_
        · exact FrameR.undef
        · split
          · rename_i h7
            have h8 := (State.celWrite_frame _ _ _ _).of_eq h7
            beta_reduce
            refine FrameR.ite (fun _ => ?_) fun _ => ?_
            · refine FrameR.step ?_ (ih _ _ _) (by decide)
              refine Frame.step ?_ h8 (by decide)
              exact Frame.refl _
            · refine FrameR.next ?_
              refine Frame.step ?_ h8 (by decide)
              exact Frame.refl _
          · rename_i h9
            have h10 := (State.celWrite_frame _ _ _ _).of_eq h9
            beta_reduce
            refine FrameR.step ?_ (ih _ _ _) (by decide)
            refine Frame.step ?_ h10 (by decide)
            exact Frame.refl _

theorem State.setupWrite_frame (s : State) (stopped : Bool) (a : Nat) (v : Word) :
    FrameR [.regs] s (State.setupWrite s stopped a v) := by
  unfold State.setupWrite
  refine FrameR.ite (fun _ => ?_) fun _ => ?_
  · refine FrameR.next ?_
    exact (State.writeRw_frame _ _ _).mono (by decide)
  · exact FrameR.undef

theorem State.bypassWrite_frame (s : State) (r : Nat) (k : Nat) (v : Word) :
    FrameR [.attic] s (State.bypassWrite s r k v) := by
  unfold State.bypassWrite
  extract_lets +onlyGivenNames x0
  clear_value x0
  extract_lets +onlyGivenNames x1
  clear_value x1
  extract_lets +onlyGivenNames x2
  clear_value x2
  extract_lets +onlyGivenNames x3
  clear_value x3
  refine FrameR.ite (fun _ => ?_) fun _ => ?_
  · refine FrameR.next ?_
    exact Frame.refl _
  · extract_lets +onlyGivenNames x4
    subst x4
    extract_lets +onlyGivenNames x5
    clear_value x5
    unfold State.mapWrite
    refine FrameR.ite (fun _ => ?_) fun _ => ?_
    · exact FrameR.undef
    · refine FrameR.ite (fun _ => ?_) fun _ => ?_
      · refine FrameR.next ?_
        refine Frame.upd ?_ rfl
        exact Frame.refl _
      · exact FrameR.undef

theorem State.larRegWrite_frame (s : State) (p : PortNo) (site : SiteNo) (k : Nat) (v : Word) :
    FrameR [.attic, .regs, .larErr] s (State.larRegWrite s p site k v) := by
  unfold State.larRegWrite
  extract_lets +onlyGivenNames x0
  clear_value x0
  refine FrameR.ite (fun _ => ?_) fun _ => ?_
  · refine FrameR.next ?_
    exact (State.setReg_frame _ _ _).mono (by decide)
  · refine FrameR.ite (fun _ => ?_) fun _ => ?_
    · refine FrameR.step ?_ (execLarinjArm_frame _ _ _) (by decide)
      exact Frame.refl _
    · refine FrameR.ite (fun _ => ?_) fun _ => ?_
      · refine FrameR.next ?_
        exact (State.writeRw_frame _ _ _).mono (by decide)
      · refine FrameR.ite (fun _ => ?_) fun _ => ?_
        · extract_lets +onlyGivenNames x1
          clear_value x1
          refine FrameR.ite (fun _ => ?_) fun _ => ?_
          · refine FrameR.next ?_
            exact Frame.refl _
          · extract_lets +onlyGivenNames x2
            clear_value x2
            unfold State.mapWrite
            refine FrameR.ite (fun _ => ?_) fun _ => ?_
            · exact FrameR.undef
            · refine FrameR.ite (fun _ => ?_) fun _ => ?_
              · refine FrameR.next ?_
                refine Frame.upd ?_ rfl
                exact Frame.refl _
              · exact FrameR.undef
        · refine FrameR.next ?_
          exact Frame.refl _

theorem State.rgnWrite_frame (s : State) (p : PortNo) (r : RegionNo) (o : Nat) (v : Word) :
    FrameR [.attic, .regs, .larErr, .celErr] s (State.rgnWrite s p r o v) := by
  unfold State.rgnWrite
  extract_lets +onlyGivenNames x0
  clear_value x0
  refine FrameR.ite (fun _ => ?_) fun _ => ?_
  · refine FrameR.ite (fun _ => ?_) fun _ => ?_
    · refine FrameR.next ?_
      exact Frame.refl _
    · extract_lets +onlyGivenNames x1
      clear_value x1
      extract_lets +onlyGivenNames x2
      clear_value x2
      unfold State.mapWrite
      refine FrameR.ite (fun _ => ?_) fun _ => ?_
      · exact FrameR.undef
      · refine FrameR.ite (fun _ => ?_) fun _ => ?_
        · refine FrameR.next ?_
          refine Frame.upd ?_ rfl
          exact Frame.refl _
        · exact FrameR.undef
  · refine FrameR.ite (fun _ => ?_) fun _ => ?_
    · refine FrameR.step ?_ (State.larRegWrite_frame _ _ _ _ _) (by decide)
      exact Frame.refl _
    · refine FrameR.ite (fun _ => ?_) fun _ => ?_
      · refine FrameR.step ?_ (State.setupWrite_frame _ _ _ _) (by decide)
        exact Frame.refl _
      · refine FrameR.ite (fun _ => ?_) fun _ => ?_
        · refine FrameR.step ?_ (execCelinjsymArm_frame _ _ _) (by decide)
          exact Frame.refl _
        · refine FrameR.ite (fun _ => ?_) fun _ => ?_
          · refine FrameR.step ?_ (State.bypassWrite_frame _ _ _ _) (by decide)
            exact Frame.refl _
          · refine FrameR.ite (fun _ => ?_) fun _ => ?_
            · refine FrameR.step ?_ (State.bypassWrite_frame _ _ _ _) (by decide)
              exact Frame.refl _
            · refine FrameR.ite (fun _ => ?_) fun _ => ?_
              · refine FrameR.step ?_ (State.bypassWrite_frame _ _ _ _) (by decide)
                exact Frame.refl _
              · refine FrameR.next ?_
                exact (State.writeRw_frame _ _ _).mono (by decide)

theorem execShutdown_frame (_p : PortNo) (s : State) :
    FrameR Part.all s (execShutdown _p s) := by
  unfold execShutdown
  refine FrameR.ite (fun _ => ?_) fun _ => ?_
  · refine FrameR.next ?_
    exact Frame.refl _
  · refine FrameR.next ?_
    refine Frame.step ?_ (State.dropRails_frame _) (by decide)
    refine Frame.upd ?_ rfl
    exact Frame.refl _

theorem execBringup_frame (_p : PortNo) (s : State) :
    FrameR [.dev, .regs, .regions, .jobs, .resil] s (execBringup _p s) := by
  unfold execBringup
  refine FrameR.ite (fun _ => ?_) fun _ => ?_
  · refine FrameR.next ?_
    exact Frame.refl _
  · refine FrameR.next ?_
    extract_lets +onlyGivenNames x0
    have h1 : Frame [.dev, .regs, .regions, .jobs, .resil] s x0 := by
      subst x0
      exact (State.newBringup_frame _).mono (by decide)
    clear_value x0
    refine Frame.upd ?_ rfl
    exact h1

theorem State.glbWrite_frame (s : State) (p : PortNo) (o : Nat) (v : Word) :
    FrameR Part.all s (State.glbWrite s p o v) := by
  unfold State.glbWrite
  refine FrameR.ite (fun _ => ?_) fun _ => ?_
  · refine FrameR.next ?_
    refine Frame.upd ?_ rfl
    exact Frame.refl _
  · refine FrameR.ite (fun _ => ?_) fun _ => ?_
    · refine FrameR.step ?_ (execGlbRingcfgWrite_frame _ _ _) (by decide)
      exact Frame.refl _
    · refine FrameR.ite (fun _ => ?_) fun _ => ?_
      · refine FrameR.step ?_ (State.setupWrite_frame _ _ _ _) (by decide)
        exact Frame.refl _
      · refine FrameR.ite (fun _ => ?_) fun _ => ?_
        · refine FrameR.step ?_ (execPtcmtGo_frame _ _ _) (by decide)
          exact Frame.refl _
        · refine FrameR.ite (fun _ => ?_) fun _ => ?_
          · extract_lets +onlyGivenNames x0
            clear_value x0
            refine FrameR.ite (fun _ => ?_) fun _ => ?_
            · refine FrameR.step ?_ (State.setupWrite_frame _ _ _ _) (by decide)
              exact Frame.refl _
            · refine FrameR.ite (fun _ => ?_) fun _ => ?_
              · refine FrameR.step ?_ (execIngestEnable_frame _ _ _ _) (by decide)
                exact Frame.refl _
              · refine FrameR.next ?_
                exact Frame.refl _
          · refine FrameR.ite (fun _ => ?_) fun _ => ?_
            · extract_lets +onlyGivenNames x1
              clear_value x1
              refine FrameR.ite (fun _ => ?_) fun _ => ?_
              · refine FrameR.step ?_ (State.setupWrite_frame _ _ _ _) (by decide)
                exact Frame.refl _
              · refine FrameR.ite (fun _ => ?_) fun _ => ?_
                · refine FrameR.step ?_ (execActuationEnable_frame _ _ _ _) (by decide)
                  exact Frame.refl _
                · refine FrameR.next ?_
                  exact Frame.refl _
            · refine FrameR.ite (fun _ => ?_) fun _ => ?_
              · refine FrameR.ite (fun _ => ?_) fun _ => ?_
                · refine FrameR.step ?_ (execFlush_frame _ _ _ _) (by decide)
                  exact Frame.refl _
                · refine FrameR.next ?_
                  exact Frame.refl _
              · refine FrameR.ite (fun _ => ?_) fun _ => ?_
                · refine FrameR.step ?_ (execPoolModeRequest_frame _ _ _ _) (by decide)
                  exact Frame.refl _
                · refine FrameR.ite (fun _ => ?_) fun _ => ?_
                  · refine FrameR.step ?_ (State.setupWrite_frame _ _ _ _) (by decide)
                    exact Frame.refl _
                  · refine FrameR.ite (fun _ => ?_) fun _ => ?_
                    · refine FrameR.step ?_ (execGlbTimecfgWrite_frame _ _ _) (by decide)
                      exact Frame.refl _
                    · refine FrameR.ite (fun _ => ?_) fun _ => ?_
                      · refine FrameR.ite (fun _ => ?_) fun _ => ?_
                        · refine FrameR.step ?_ (execShutdown_frame _ _) (by decide)
                          exact Frame.refl _
                        · refine FrameR.ite (fun _ => ?_) fun _ => ?_
                          · refine FrameR.step ?_ (execBringup_frame _ _) (by decide)
                            exact Frame.refl _
                          · refine FrameR.next ?_
                            exact Frame.refl _
                      · refine FrameR.ite (fun _ => ?_) fun _ => ?_
                        · refine FrameR.step ?_ (execGlbPlandirWrite_frame _ _ _ _ _) (by decide)
                          exact Frame.refl _
                        · refine FrameR.next ?_
                          exact (State.writeRw_frame _ _ _).mono (by decide)

theorem State.rngWrite_frame (s : State) (p : PortNo) (n : Fin 129) (o : Nat) (v : Word) :
    FrameR [.attic, .regs, .links, .jobs, .strm, .resil, .out] s (State.rngWrite s p n o v) := by
  unfold State.rngWrite
  refine FrameR.ite (fun _ => ?_) fun _ => ?_
  · refine FrameR.ite (fun _ => ?_) fun _ => ?_
    · refine FrameR.step ?_ (execRngEnable_frame _ _ _ _) (by decide)
      exact Frame.refl _
    · refine FrameR.step ?_ (execRngDisable_frame _ _ _ _) (by decide)
      exact Frame.refl _
  · refine FrameR.ite (fun _ => ?_) fun _ => ?_
    · refine FrameR.ite (fun _ => ?_) fun _ => ?_
      · refine FrameR.step ?_ (execRngStop_frame _ _ _) (by decide)
        exact Frame.refl _
      · refine FrameR.ite (fun _ => ?_) fun _ => ?_
        · refine FrameR.step ?_ (execRngResume_frame _ _ _) (by decide)
          exact Frame.refl _
        · refine FrameR.next ?_
          exact Frame.refl _
    · refine FrameR.ite (fun _ => ?_) fun _ => ?_
      · refine FrameR.step ?_ (State.setupWrite_frame _ _ _ _) (by decide)
        exact Frame.refl _
      · refine FrameR.next ?_
        exact Frame.refl _

theorem State.slbWrite_frame (s : State) (p : PortNo) (sl : SlabNo) (o : Nat) (v : Word) :
    FrameR [.clk, .regs, .clusters, .strm] s (State.slbWrite s p sl o v) := by
  unfold State.slbWrite
  refine FrameR.ite (fun _ => ?_) fun _ => ?_
  · refine FrameR.step ?_ (execPoolModeRequest_frame _ _ _ _) (by decide)
    exact Frame.refl _
  · refine FrameR.ite (fun _ => ?_) fun _ => ?_
    · refine FrameR.step ?_ (execFlush_frame _ _ _ _) (by decide)
      exact Frame.refl _
    · refine FrameR.next ?_
      exact Frame.refl _

theorem FrameR.thenDo {P : List Part} {s : State} {r : Res} {f : State → Res} (h : FrameR P s r) (hf : ∀ u, Frame P s u → FrameR P s (f u)) :
    FrameR P s (thenDo r f) := by
  match r with
  | .next u => exact hf u (h u rfl)
  | .fault _ => exact FrameR.fault
  | .refused _ => exact FrameR.refused

theorem State.lnkWrite_frame (s : State) (p : PortNo) (l : LinkNo) (o : Nat) (v : Word) :
    FrameR [.attic, .regs, .links, .jobs, .reqs, .hands, .resil, .out] s (State.lnkWrite s p l o v) := by
  unfold State.lnkWrite
  extract_lets +onlyGivenNames x0
  clear_value x0
  extract_lets +onlyGivenNames x1
  clear_value x1
  refine FrameR.ite (fun _ => ?_) fun _ => ?_
  · refine FrameR.thenDo ?_ ?_
    · refine FrameR.step ?_ (State.setupWrite_frame _ _ _ _) (by decide)
      exact Frame.refl _
    · intro x2 h3
      refine FrameR.next ?_
      refine Frame.ite (fun _ => ?_) fun _ => ?_
      · exact h3
      · refine Frame.step ?_ (State.updLnk_frame _ _ _) (by decide)
        refine Frame.step ?_ (State.setLinkState_frame _ _ _) (by decide)
        exact h3
  · refine FrameR.ite (fun _ => ?_) fun _ => ?_
    · extract_lets +onlyGivenNames x4
      have h5 : FrameR [.attic, .regs, .links, .jobs, .reqs, .hands, .resil, .out] s x4 := by
        subst x4
        refine FrameR.ite (fun _ => ?_) fun _ => ?_
        · refine FrameR.step ?_ (execLnkDown_frame _ _ _) (by decide)
          exact Frame.refl _
        · refine FrameR.next ?_
          exact Frame.refl _
      clear_value x4
      extract_lets +onlyGivenNames x6
      have h7 : FrameR [.attic, .regs, .links, .jobs, .reqs, .hands, .resil, .out] s x6 := by
        subst x6
        refine FrameR.thenDo ?_ ?_
        · exact h5
        · intro x8 h9
          refine FrameR.ite (fun _ => ?_) fun _ => ?_
          · refine FrameR.step ?_ (execRetrain_frame _ _ _) (by decide)
            exact h9
          · refine FrameR.next ?_
            exact h9
      clear_value x6
      refine FrameR.thenDo ?_ ?_
      · exact h7
      · intro x10 h11
        refine FrameR.ite (fun _ => ?_) fun _ => ?_
        · refine FrameR.step ?_ (execClrpeer_frame _ _ _) (by decide)
          exact h11
        · refine FrameR.next ?_
          exact h11
    · refine FrameR.ite (fun _ => ?_) fun _ => ?_
      · refine FrameR.ite (fun _ => ?_) fun _ => ?_
        · refine FrameR.next ?_
          refine Frame.upd ?_ rfl
          exact Frame.refl _
        · exact FrameR.undef
      · refine FrameR.next ?_
        exact Frame.refl _

theorem State.mgtWrite_frame (s : State) (p : PortNo) (o : Nat) (v : Word) :
    FrameR [.regs, .mgmt] s (State.mgtWrite s p o v) := by
  unfold State.mgtWrite
  refine FrameR.ite (fun _ => ?_) fun _ => ?_
  · refine FrameR.next ?_
    exact Frame.refl _
  · extract_lets +onlyGivenNames x0
    clear_value x0
    refine FrameR.ite (fun _ => ?_) fun _ => ?_
    · extract_lets +onlyGivenNames x1
      have h2 : FrameR [.regs, .mgmt] s x1 := by
        subst x1
        refine FrameR.ite (fun _ => ?_) fun _ => ?_
        · refine FrameR.step ?_ (execWctlStop_frame _ _ _) (by decide)
          exact Frame.refl _
        · refine FrameR.next ?_
          exact Frame.refl _
      clear_value x1
      refine FrameR.thenDo ?_ ?_
      · exact h2
      · intro x3 h4
        refine FrameR.ite (fun _ => ?_) fun _ => ?_
        · refine FrameR.step ?_ (execWctlArm_frame _ _ _) (by decide)
          exact h4
        · refine FrameR.next ?_
          exact h4
    · refine FrameR.ite (fun _ => ?_) fun _ => ?_
      · refine FrameR.step ?_ (State.setupWrite_frame _ _ _ _) (by decide)
        exact Frame.refl _
      · refine FrameR.next ?_
        exact Frame.refl _

theorem State.pointWrite_frame (s : State) (o : Nat) (v : Word) :
    FrameR [.points] s (State.pointWrite s o v) := by
  unfold State.pointWrite
  extract_lets +onlyGivenNames x0
  clear_value x0
  extract_lets +onlyGivenNames x1
  clear_value x1
  extract_lets +onlyGivenNames x2
  clear_value x2
  extract_lets +onlyGivenNames x3
  clear_value x3
  refine FrameR.ite (fun _ => ?_) fun _ => ?_
  · exact FrameR.undef
  · refine FrameR.next ?_
    refine Frame.upd ?_ rfl
    exact Frame.refl _

theorem State.writeReg_frame (s : State) (p : PortNo) (a : Nat) (v : Word) :
    FrameR Part.all s (State.writeReg s p a v) := by
  unfold State.writeReg
  split
  · refine FrameR.step ?_ (State.pointWrite_frame _ _ _) (by decide)
    exact Frame.refl _
  · refine FrameR.ite (fun _ => ?_) fun _ => ?_
    · refine FrameR.next ?_
      exact Frame.refl _
    · split
      · refine FrameR.step ?_ (State.glbWrite_frame _ _ _ _) (by decide)
        exact Frame.refl _
      · refine FrameR.step ?_ (State.rngWrite_frame _ _ _ _ _) (by decide)
        exact Frame.refl _
      · refine FrameR.step ?_ (State.slbWrite_frame _ _ _ _ _) (by decide)
        exact Frame.refl _
      · refine FrameR.step ?_ (State.rgnWrite_frame _ _ _ _ _) (by decide)
        exact Frame.refl _
      · refine FrameR.step ?_ (State.lnkWrite_frame _ _ _ _ _) (by decide)
        exact Frame.refl _
      · refine FrameR.step ?_ (State.mgtWrite_frame _ _ _ _) (by decide)
        exact Frame.refl _
      · refine FrameR.next ?_
        exact Frame.refl _
  · refine FrameR.next ?_
    exact Frame.refl _

theorem State.writeWord_frame (s : State) (p : PortNo) (a : Nat) (v : Word) :
    FrameR Part.all s (State.writeWord s p a v) := by
  unfold State.writeWord
  refine FrameR.thenDo ?_ ?_
  · refine FrameR.step ?_ (State.writeReg_frame _ _ _ _) (by decide)
    exact Frame.refl _
  · intro x0 h1
    refine FrameR.next ?_
    refine Frame.step ?_ (State.unlatch_frame _ _ _) (by decide)
    exact h1

theorem State.writeWords_frame (p : PortNo) (n : Nat) (a : Nat) (d : List Byte) (s : State) :
    FrameR Part.all s (State.writeWords p n a d s) := by
  induction n generalizing s a d with
  | zero =>
    rw [State.writeWords]
    refine FrameR.next ?_
    exact Frame.refl _
  | succ n ih =>
    rw [State.writeWords]
    refine FrameR.thenDo ?_ ?_
    · refine FrameR.ite (fun _ => ?_) fun _ => ?_
      · refine FrameR.step ?_ (State.writeWord_frame _ _ _ _) (by decide)
        exact Frame.refl _
      · refine FrameR.next ?_
        exact Frame.refl _
    · intro x0 h1
      refine FrameR.step ?_ (ih _ _ _) (by decide)
      exact h1

theorem State.readBlock_frame (p : Nat) (tid : Nat) (n : Nat) (a : Nat) (off : Nat) (k : Nat) (s : State) :
    Frame [.regs, .latches, .conflicts, .links, .out, .freeCtr] s (State.readBlock p tid n a off k s) := by
  induction n generalizing s a off k with
  | zero =>
    rw [State.readBlock]
    exact Frame.refl _
  | succ n ih =>
    rw [State.readBlock]
    refine Frame.ite (fun _ => ?_) fun _ => ?_
    · exact Frame.refl _
    · extract_lets +onlyGivenNames x0
      clear_value x0
      extract_lets +onlyGivenNames x1
      have h2 : FrameP [.regs, .latches, .conflicts, .links, .out, .freeCtr] s x1 := by
        subst x1
        refine FrameP.step ?_ (State.readWords_frame _ _ _ _ _) (by decide)
        exact Frame.refl _
      clear_value x1
      extract_lets +onlyGivenNames x3
      have h4 : Frame [.regs, .latches, .conflicts, .links, .out, .freeCtr] s x3 := by
        subst x3
        refine Frame.ite (fun _ => ?_) fun _ => ?_
        · unfold State.answer
          refine Frame.step ?_ (State.send_frame _ _ _ _ _) (by decide)
          refine FrameP.fst ?_
          exact h2
        · unfold State.answer
          exact (State.send_frame _ _ _ _ _).mono (by decide)
      clear_value x3
      refine Frame.step ?_ (ih _ _ _ _) (by decide)
      exact h4

theorem State.readOne_frame (s : State) (p : PortNo) (a : Nat) (tid : Word) :
    Frame [.regs, .latches, .conflicts, .links, .out, .freeCtr] s (State.readOne s p a tid) := by
  unfold State.readOne
  split
  · unfold State.answer
    refine Frame.step ?_ (State.send_frame _ _ _ _ _) (by decide)
    exact (State.afterRead_frame _ _ _).mono (by decide)
  · unfold State.answer
    exact (State.send_frame _ _ _ _ _).mono (by decide)
  · unfold State.answer
    exact (State.send_frame _ _ _ _ _).mono (by decide)

-- Mailbox

theorem State.mbHold_frame (s : State) (p : Nat) (tid : Nat) :
    Frame [.regs, .mgmt] s (State.mbHold s p tid) := by
  unfold State.mbHold
  extract_lets +onlyGivenNames x0
  have h1 : Frame [.regs, .mgmt] s x0 := by
    subst x0
    exact (State.setRegF_frame _ _ _ _ _).mono (by decide)
  clear_value x0
  refine Frame.upd ?_ rfl
  exact h1

theorem State.atticRead_frame (s : State) (p : Nat) (tid : Nat) (op : Nat) (addr : Nat) (n : Nat) (byte : Nat → Byte) :
    Frame [.regs, .links, .out, .freeCtr] s (State.atticRead s p tid op addr n byte) := by
  unfold State.atticRead
  refine Frame.ite (fun _ => ?_) fun _ => ?_
  · exact (State.mgtReply_frame _ _ _ _ _ _).mono (by decide)
  · refine Frame.ite (fun _ => ?_) fun _ => ?_
    · exact (State.mgtReply_frame _ _ _ _ _ _).mono (by decide)
    · refine Frame.step ?_ (State.mgtReply_frame _ _ _ _ _ _) (by decide)
      exact (State.useFree_frame _).mono (by decide)

-- Bringup

theorem State.stageReport_frame (s : State) (code : Nat) (us : Word) (unit : BitVec 16) (reason : Nat) :
    Frame [.attic, .regs, .jobs] s (State.stageReport s code us unit reason) := by
  unfold State.stageReport
  extract_lets +onlyGivenNames x0
  have h1 : Frame [.attic, .regs, .jobs] s x0 := by
    subst x0
    exact (State.setReg_frame _ _ _).mono (by decide)
  clear_value x0
  extract_lets +onlyGivenNames x2
  have h3 : Frame [.attic, .regs, .jobs] s x2 := by
    subst x2
    refine Frame.step ?_ (State.setReg_frame _ _ _) (by decide)
    exact h1
  clear_value x2
  refine Frame.step ?_ (State.post_frame _ _ _ _) (by decide)
  exact h3

theorem State.goStage_frame (s : State) (n : Option StageNo) :
    Frame [.dev] s (State.goStage s n) := by
  unfold State.goStage
  refine Frame.upd ?_ rfl
  exact Frame.refl _

theorem Frame.endStage {s t : State} (h : Frame Part.all s t) :
    Frame Part.all s (if t.dev.base = .off then t
      else { t with dev := { t.dev with next := none, retryDue := tst t.attic.bootcfg 2 && !t.dev.retried } }) := by
  split
  · exact h
  · exact Frame.upd h rfl

theorem State.stageFail_frame (s : State) (code : Nat) (us : Word) (unit : BitVec 16) (reason : Nat) :
    Frame Part.all s (State.stageFail s code us unit reason) := by
  have h : Frame Part.all s (((s.stageReport (code + 128) us unit reason).alert alStage).dropRails) :=
    Frame.step (Frame.step ((State.stageReport_frame _ _ _ _ _).mono (by decide)) (State.alert_frame _ _) (by decide))
      (State.dropRails_frame _) (by decide)
  exact Frame.endStage h

theorem State.stageDone_frame (s : State) (code : Nat) (us : Word) (unit : BitVec 16) (next : StageNo) :
    Frame [.attic, .dev, .regs, .jobs] s (State.stageDone s code us unit next) := by
  unfold State.stageDone
  refine Frame.step ?_ (State.goStage_frame _ _) (by decide)
  refine Frame.step ?_ (State.stageReport_frame _ _ _ _ _) (by decide)
  refine Frame.upd ?_ rfl
  exact Frame.refl _

theorem State.bringLink_frame (s : State) (t : Trained) :
    Frame [.attic, .dev, .clk, .regs, .larder, .larErr, .cellar, .celErr, .conflicts, .clusters, .regions, .slabs, .links, .sync, .jobs, .strm, .reqs, .hands, .resil, .out, .freeCtr] s (State.bringLink s t) := by
  unfold State.bringLink
  extract_lets +onlyGivenNames x0
  clear_value x0
  refine Frame.ite (fun _ => ?_) fun _ => ?_
  · exact Frame.refl _
  · extract_lets +onlyGivenNames x1
    have h2 : Frame [.attic, .dev, .clk, .regs, .larder, .larErr, .cellar, .celErr, .conflicts, .clusters, .regions, .slabs, .links, .sync, .jobs, .strm, .reqs, .hands, .resil, .out, .freeCtr] s x1 := by
      subst x1
      exact (State.startTraining_frame _ _).mono (by decide)
    clear_value x1
    refine Frame.ite (fun _ => ?_) fun _ => ?_
    · refine Frame.step ?_ (State.trainFail_frame _ _) (by decide)
      exact h2
    · extract_lets +onlyGivenNames x3
      have h4 : Frame [.attic, .dev, .clk, .regs, .larder, .larErr, .cellar, .celErr, .conflicts, .clusters, .regions, .slabs, .links, .sync, .jobs, .strm, .reqs, .hands, .resil, .out, .freeCtr] s x3 := by
        subst x3
        refine Frame.step ?_ (State.setPeer_frame _ _ _ _ _) (by decide)
        refine Frame.step ?_ (State.sendPeer_frame _ _) (by decide)
        exact h2
      clear_value x3
      refine Frame.ite (fun _ => ?_) fun _ => ?_
      · refine Frame.step ?_ (State.peerFail_frame _ _ _ _ _) (by decide)
        exact h4
      · refine Frame.ite (fun _ => ?_) fun _ => ?_
        · refine Frame.step ?_ (State.peerFail_frame _ _ _ _ _) (by decide)
          exact h4
        · refine Frame.step ?_ (State.trained_frame _ _ _ _ _) (by decide)
          exact h4

theorem State.bringLinks_frame (s : State) (ts : List Trained) :
    Frame [.attic, .dev, .clk, .regs, .larder, .larErr, .cellar, .celErr, .conflicts, .clusters, .regions, .slabs, .links, .sync, .jobs, .strm, .reqs, .hands, .resil, .out, .freeCtr] s (State.bringLinks s ts) := by
  unfold State.bringLinks
  refine Frame.foldl ?_ ?_
  · exact Frame.refl _
  · intro x0 x1 h2
    refine Frame.step ?_ (State.bringLink_frame _ _) (by decide)
    exact h2

theorem State.readSettings_frame (s : State) :
    Frame [.regs] s (State.readSettings s) := by
  unfold State.readSettings
  exact (State.setRegF_frame _ _ _ _ _).mono (by decide)

theorem State.slabStart_frame (s : State) (sl : Nat) :
    Frame [.regs, .regions, .slabs, .freeCtr] s (State.slabStart s sl) := by
  unfold State.slabStart
  extract_lets +onlyGivenNames x0
  clear_value x0
  extract_lets +onlyGivenNames x1
  have h2 : Frame [.regs, .regions, .slabs, .freeCtr] s x1 := by
    subst x1
    refine Frame.step ?_ (State.setRegF_frame _ _ _ _ _) (by decide)
    exact (State.setRegF_frame _ _ _ _ _).mono (by decide)
  clear_value x1
  extract_lets +onlyGivenNames x3
  have h4 : Frame [.regs, .regions, .slabs, .freeCtr] s x3 := by
    subst x3
    refine Frame.step ?_ (State.updSlab_frame _ _ _) (by decide)
    exact h2
  clear_value x3
  refine Frame.foldl ?_ ?_
  · exact h4
  · intro x5 x6 h7
    extract_lets +onlyGivenNames x8
    clear_value x8
    refine Frame.step ?_ (State.updRg_frame _ _ _) (by decide)
    refine Frame.step ?_ (State.setPhases_frame _ _ _) (by decide)
    exact h7

theorem State.applyFound_frame (s : State) (k : ReportKind) :
    Frame [.attic, .regs, .larder, .larErr, .cellar, .celErr, .clusters, .regions, .resil] s (State.applyFound s k) := by
  unfold State.applyFound
  extract_lets +onlyGivenNames x0
  have h1 : FrameP [.attic, .regs, .larder, .larErr, .cellar, .celErr, .clusters, .regions, .resil] s x0 := by
    subst x0
    refine FrameP.step ?_ (applyRepair_frame _ _) (by decide)
    refine FrameP.fst ?_
    refine FrameP.pair ?_
    exact Frame.refl _
  clear_value x0
  refine Frame.foldl ?_ ?_
  · refine FrameP.fst ?_
    exact h1
  · intro x2 x3 h4
    refine Frame.step ?_ (State.retireFound_frame _ _ _ _) (by decide)
    exact h4

theorem State.regulatorFails_frame (s : State) (r : Nat) :
    Frame [.attic, .regs, .regions, .resil, .freeCtr] s (State.regulatorFails s r) := by
  unfold State.regulatorFails
  refine Frame.step ?_ (State.updRg_frame _ _ _) (by decide)
  refine Frame.step ?_ (State.setPhases_frame _ _ _) (by decide)
  exact (State.retireFound_frame _ _ _ _).mono (by decide)

theorem State.pllFails_frame (s : State) (r : Nat) :
    Frame [.attic, .regs, .regions, .resil] s (State.pllFails s r) := by
  unfold State.pllFails
  refine Frame.step ?_ (State.updRg_frame _ _ _) (by decide)
  exact (State.retireFound_frame _ _ _ _).mono (by decide)

theorem State.slabMissing_frame (s : State) (sl : Nat) :
    Frame [.attic, .dev, .regs, .slabs] s (State.slabMissing s sl) := by
  unfold State.slabMissing
  extract_lets +onlyGivenNames x0
  subst x0
  extract_lets +onlyGivenNames x1
  subst x1
  extract_lets +onlyGivenNames x2
  have h3 : Frame [.attic, .dev, .regs, .slabs] s x2 := by
    subst x2
    refine Frame.upd ?_ rfl
    exact Frame.refl _
  clear_value x2
  extract_lets +onlyGivenNames x4
  have h5 : Frame [.attic, .dev, .regs, .slabs] s x4 := by
    subst x4
    refine Frame.step ?_ (State.updSlab_frame _ _ _) (by decide)
    exact h3
  clear_value x4
  refine Frame.foldl ?_ ?_
  · exact h5
  · intro x6 x7 h8
    refine Frame.step ?_ (State.setLinkState_frame _ _ _) (by decide)
    exact h8

theorem State.conflict_frame (s : State) (site : Nat) :
    Frame [.attic, .regs, .jobs] s (State.conflict s site) := by
  unfold State.conflict
  refine Frame.ite (fun _ => ?_) fun _ => ?_
  · exact Frame.refl _
  · refine Frame.step ?_ (State.post_frame _ _ _ _) (by decide)
    refine Frame.upd ?_ rfl
    exact Frame.refl _

theorem State.postConflicts_frame (s : State) (was : List Nat) :
    Frame [.attic, .regs, .jobs] s (State.postConflicts s was) := by
  unfold State.postConflicts
  refine Frame.foldl ?_ ?_
  · exact Frame.refl _
  · intro x0 x1 h2
    refine Frame.step ?_ (State.conflict_frame _ _) (by decide)
    exact h2

theorem State.kaRun_frame (s : State) (f : KaFound) (rs : List Nat) :
    Frame [.attic, .regs, .larder, .larErr, .cellar, .celErr, .clusters, .regions, .jobs, .resil] s (State.kaRun s f rs) := by
  unfold State.kaRun
  extract_lets +onlyGivenNames x0
  clear_value x0
  extract_lets +onlyGivenNames x1
  have h2 : Frame [.attic, .regs, .larder, .larErr, .cellar, .celErr, .clusters, .regions, .jobs, .resil] s x1 := by
    subst x1
    refine Frame.foldl ?_ ?_
    · exact Frame.refl _
    · intro x3 x4 h5
      extract_lets +onlyGivenNames x6
      have h7 : Frame [.attic, .regs, .larder, .larErr, .cellar, .celErr, .clusters, .regions, .jobs, .resil] s x6 := by
        subst x6
        refine Frame.step ?_ (State.count_frame _ _ _ _ _) (by decide)
        exact h5
      clear_value x6
      refine Frame.ite (fun _ => ?_) fun _ => ?_
      · refine Frame.step ?_ (State.count_frame _ _ _ _ _) (by decide)
        exact h7
      · exact h7
  clear_value x1
  extract_lets +onlyGivenNames x8
  have h9 : Frame [.attic, .regs, .larder, .larErr, .cellar, .celErr, .clusters, .regions, .jobs, .resil] s x8 := by
    subst x8
    refine Frame.foldl ?_ ?_
    · exact h2
    · intro x10 x11 h12
      refine Frame.step ?_ (State.markBad_frame _ _) (by decide)
      exact h12
  clear_value x8
  extract_lets +onlyGivenNames x13
  have h14 : Frame [.attic, .regs, .larder, .larErr, .cellar, .celErr, .clusters, .regions, .jobs, .resil] s x13 := by
    subst x13
    refine Frame.foldl ?_ ?_
    · exact h9
    · intro x15 x16 h17
      refine Frame.step ?_ (State.applyFound_frame _ _) (by decide)
      exact h17
  clear_value x13
  refine Frame.step ?_ (State.postConflicts_frame _ _) (by decide)
  refine Frame.foldl ?_ ?_
  · exact h14
  · intro x18 x19 h20
    refine Frame.step ?_ (State.applyFound_frame _ _) (by decide)
    exact h20

theorem State.kaRounds_frame (n : Nat) (fs : List KaFound) (s : State) (rs : List Nat) (unit : BitVec 16) :
    FrameP [.attic, .dev, .regs, .larder, .larErr, .cellar, .celErr, .clusters, .regions, .jobs, .resil] s (State.kaRounds n fs s rs unit) := by
  induction n generalizing s fs rs unit with
  | zero =>
    rw [State.kaRounds]
    refine FrameP.pair ?_
    exact Frame.refl _
  | succ n ih =>
    rw [State.kaRounds]
    refine FrameP.ite (fun _ => ?_) fun _ => ?_
    · refine FrameP.pair ?_
      refine Frame.ite (fun _ => ?_) fun _ => ?_
      · exact (State.kaRun_frame _ _ _).mono (by decide)
      · refine Frame.step ?_ (State.bringGrid_frame _) (by decide)
        exact (State.kaRun_frame _ _ _).mono (by decide)
    · refine FrameP.step ?_ (ih _ _ _ _) (by decide)
      refine Frame.ite (fun _ => ?_) fun _ => ?_
      · exact (State.kaRun_frame _ _ _).mono (by decide)
      · refine Frame.step ?_ (State.bringGrid_frame _) (by decide)
        exact (State.kaRun_frame _ _ _).mono (by decide)

-- Sideband

theorem State.smbReply_frame (s : State) (cmd : Nat) (d : List Byte) :
    Frame [.out] s (State.smbReply s cmd d) := by
  unfold State.smbReply
  extract_lets +onlyGivenNames x0
  clear_value x0
  exact (State.emit_frame _ _).mono (by decide)

theorem State.smbRead_frame (s : State) (cmd : Nat) (d : List Byte) :
    FrameR [.out] s (State.smbRead s cmd d) := by
  unfold State.smbRead
  refine FrameR.next ?_
  refine Frame.ite (fun _ => ?_) fun _ => ?_
  · exact (State.smbReply_frame _ _ _).mono (by decide)
  · exact Frame.refl _

theorem State.setTap_frame (s : State) (i : TapInstr) :
    Frame [.dev] s (State.setTap s i) := by
  unfold State.setTap
  refine Frame.upd ?_ rfl
  exact Frame.refl _

theorem State.scanOut_frame (s : State) (i : TapInstr) :
    Frame [.dev, .out, .freeCtr] s (State.scanOut s i) := by
  unfold State.scanOut
  extract_lets +onlyGivenNames x0
  have h1 : Frame [.dev, .out, .freeCtr] s x0 := by
    subst x0
    exact (State.setTap_frame _ _).mono (by decide)
  clear_value x0
  split
  · refine Frame.step ?_ (State.emit_frame _ _) (by decide)
    exact h1
  · refine Frame.step ?_ (State.emit_frame _ _) (by decide)
    exact h1
  · extract_lets +onlyGivenNames x2
    clear_value x2
    refine Frame.step ?_ (State.emit_frame _ _) (by decide)
    extract_lets +onlyGivenNames x3
    have h4 : Frame [.dev, .out, .freeCtr] s x3 := by
      subst x3
      refine Frame.step ?_ (State.useFree_frame _) (by decide)
      exact h1
    clear_value x3
    refine Frame.upd ?_ rfl
    exact h4
  · extract_lets +onlyGivenNames x5
    clear_value x5
    refine Frame.step ?_ (State.emit_frame _ _) (by decide)
    extract_lets +onlyGivenNames x6
    have h7 : Frame [.dev, .out, .freeCtr] s x6 := by
      subst x6
      refine Frame.step ?_ (State.useFree_frame _) (by decide)
      exact h1
    clear_value x6
    refine Frame.upd ?_ rfl
    exact h7
  · exact h1
  · exact h1

end Sys2Proof.Machine
end

