-- ==== Sys2Proof/Laws/Routes.lean ====
section
/-! SUPPORT. Routes between sites, and accesses to the own larder: on what they rest, and where they go. -/

namespace Sys2Proof.Machine

/-- No route rests on what the sync network holds. -/
@[simp] theorem State.path_sync (s : State) (y : SyncNet) (net a : Nat) (l : List (Option Nat)) :
    ({ s with sync := y } : State).path net a l = s.path net a l := by
  induction l generalizing a with
  | nil => rfl
  | cons b l ih =>
    cases b with
    | none => simp only [State.path, ih]
    | some b => simp only [State.path, ih]; rfl

/-- No route rests on a cluster. -/
@[simp] theorem State.path_setCl (s : State) (i : Nat) (c : Cluster) (net a : Nat) (l : List (Option Nat)) :
    (s.setCl i c).path net a l = s.path net a l := by
  induction l generalizing a with
  | nil => rfl
  | cons b l ih =>
    cases b with
    | none => simp only [State.path, ih]
    | some b => simp only [State.path, ih]; rfl

/-- Within a region a flit arrives when the region's routers have power (R178). -/
theorem State.reaches_same_region (s : State) (net a b : Nat) (h : siteRegion a = siteRegion b) :
    s.reaches net a b = (s.netUp (siteRegion a) net && s.netUp (siteRegion b) net) := by
  unfold State.reaches; simp [h]

/-- A local entry that stands and is long enough names bytes of the own larder (R132). -/
theorem State.handleAt_local (s : State) (site : Nat) (h : BitVec 6) (off n : Nat)
    (hv : hValid (Tab.get 0 (s.cl site).handles h.toNat) = true) (hr : hRemote (Tab.get 0 (s.cl site).handles h.toNat) = false)
    (hn : off + n ≤ hLen (Tab.get 0 (s.cl site).handles h.toNat))
    (hs : hAddr (Tab.get 0 (s.cl site).handles h.toNat) + hLen (Tab.get 0 (s.cl site).handles h.toNat) ≤ larSpan) :
    s.handleAt site h off n = .at_ site (hAddr (Tab.get 0 (s.cl site).handles h.toNat) + off) := by
  unfold State.handleAt
  simp only [hv, hr, Bool.not_true, Bool.false_eq_true, if_false]
  rw [if_neg (by omega)]

end Sys2Proof.Machine
end

