-- ==== Sys2Proof/Tests/Slice0.lean ====
section
/-! SUPPORT. Tests of the model's own: for each statement with hypotheses a state and operands that meet them, a refused
term for each check of WellFormed, and values taken from the manual's worked examples. -/

namespace Sys2Proof.Tests

open Sys2Proof Sys2Proof.Machine

set_option Elab.async false

-- Small states

/-- READY with rails up and the grid built, before any grant. -/
def onState : State :=
  { dev := { base := .ready, next := none, fuses := true, grid := true, fwOk := true, refOk := true } }

def withRegs (l : List (Nat × Word)) (s : State) : State := l.foldl (fun s e => s.setReg e.1 e.2) s

/-- Region 0 ACTIVE with its router domains up, and column 0 of the grid with logical rows 0 to 10. -/
def active : State :=
  (withRegs [(Reg.RGN_PSTATE 0, 0), (Reg.GLB_GRIDMAPLO 0, 0x76543210), (Reg.GLB_GRIDMAPHI 0, 0xA98)] onState).setRg 0
    { bulkUp := true, ctlUp := true }

/-- The core of site 0 issues. -/
def coreSt (k : Cluster) : State := active.setCl 0 { k with run := .running }

def isNext (r : Res) : Bool :=
  match r with
  | .next _ => true
  | _ => false

def isFault (r : Res) : Bool :=
  match r with
  | .fault _ => true
  | _ => false

/-- Larder groups 0 and 1 of site 0 are on, and handle 1 names 4,096 bytes from 0. -/
def larSt : State :=
  withRegs [(Reg.RGN_LARPWR 0, 0x33)] (coreSt { handles := [(1, mkHandle 0 4096 0 false), (2, mkHandle 0 32 0 true)] })

def okFlow (f : Flow) : Bool :=
  match f with
  | .ok _ => true
  | .error _ => false

def blankRestart : RestartSt :=
  { planned := false, replay := false, noCairn := false, began := 0, retire := [], known := [], excl := [], moved := [], lost := [], statics := [], rings := [], homes := [], unread := [], rebuilt := false, reading := true, left := false, fails := 0, stopped := false, supply := false, stuck := false, unreset := false }

def blankSnap : Snap :=
  { number := 1, step := 0, time := 0, e := 0, carrier := 2, stagingOff := 0, sigs := [], rewind := 0, ringIdx := [], plans := [], alt := [], slot := 0, depot := 0, addr := 0, areas := [], carrierRing := none, forPlan := true, covers := true }

/-- The state that a flow goes on with. -/
def okState (f : Flow) : State :=
  match f with
  | .ok s => s
  | .error _ => State.reset

-- Well-formed commands (the checks of WellFormed, each with a term that it refuses)

theorem test_wf_stream_empty : (Instr.stream 0 0 []).wf = false ∧ (Instr.stream 0 1 []).wf = true := by decide
theorem test_wf_stream_long : (Instr.stream 0 0 (List.replicate 513 (0, 0))).wf = false := by decide +kernel
theorem test_wf_mrd : (Instr.mrd 0 0 0 0).wf = false ∧ (Instr.mrd 0 0 4097 0).wf = false ∧ (Instr.mrd 0 0 4 0).wf = true := by
  decide
theorem test_wf_mwr : (Instr.mwr 0 0 []).wf = false := by decide
theorem test_wf_mwr_long : (Instr.mwr 0 0 (List.replicate 4097 0)).wf = false := by decide +kernel
theorem test_wf_cpl : (Instr.cpl 0 0 0 0 (List.replicate 4097 0)).wf = false := by decide +kernel
theorem test_wf_rddata : (Instr.rddata 0 0 0 0 (List.replicate 4097 0)).wf = false := by decide +kernel
theorem test_wf_hdata : (Instr.hdata 0 0 0 0 0 0 0 0 (List.replicate 4097 0)).wf = false := by decide +kernel
theorem test_wf_fwWrite : (Instr.fwWrite 0 0 0 []).wf = false := by decide
theorem test_wf_logRead : (Instr.logRead 0 0 0 4097).wf = false ∧ (Instr.logRead 0 0 0 4096).wf = true := by decide
theorem test_wf_recordRead : (Instr.recordRead 0 0 0 4097).wf = false := by decide
theorem test_wf_slab : (Instr.slabGovernorInterval 0 []).wf = false := by decide
theorem test_wf_ceiling : (Instr.thermalCeilingLower 0 (List.replicate 15 0)).wf = false := by decide

-- Whole machine

theorem wit_StepTakesFrontCommand : isNext (step { State.reset with pending := [.mailboxTimeout] }) = true := by decide +kernel
theorem wit_IdleQueueAndIdleCores :
    State.reset.pending = [] ∧ (Instr.halt 0).core = some 0 ∧ State.reset.coreReady 0 = false := by decide +kernel
theorem wit_StepKeepsCanonicalForm : State.reset.canon = true ∧ isNext (step State.reset) = true ∧ active.canon = true := by
  decide +kernel
theorem wit_CommandsLeaveTheQueue : isNext (exec (.fault 0 7) (coreSt {})) = true := by decide +kernel
theorem wit_FusesAndLogAreKept : isNext (exec (.nudge 0 0) active) = true := by decide +kernel
theorem wit_QuietCommandsKeepMemory : (Instr.halt 0).storesNothing = true ∧ isNext (exec (.halt 0) (coreSt {})) = true := by
  decide +kernel

-- Scalar instructions

theorem wit_ScalarAluWritesRd : (coreSt {}).coreReady 0 = true := by decide +kernel
theorem wit_ScalarRegistersReadBack : ({ sreg := [(3, 5)] } : Cluster).canon = true ∧ active.canon = true := by decide +kernel

/-- A body of one instruction at 4, with two runs left, inside one of three. -/
def loopK : Cluster := { pc := 4, loops := [⟨0, 4, 8, 2⟩, ⟨1, 0, 12, 1⟩] }

theorem wit_PcStepsThroughLoops :
    loopK.pc + 4 = 8 ∧ 1 < (2 : Word).toNat ∧ ({ loopK with pc := 0 } : Cluster).pc + 4 ≠ 8
      ∧ ({ loopK with loops := [⟨0, 4, 8, 1⟩] } : Cluster).advance.pc = 8 ∧ loopK.advance.pc = 4 := by decide
theorem wit_DataStoreAccesses : (coreSt { sreg := [(1, 8190)] }).coreReady 0 = true := by decide +kernel
theorem wit_BranchesAndJumps :
    let s := coreSt loopK
    s.coreReady 0 = true ∧ (s.cl 0).leavesBody 4 = false ∧ (s.cl 0).leavesBody 8 = true
      ∧ ((4 : Word) - 4).toNat < ((8 : Word) - 4).toNat ∧ ¬ ((8 : Word) - 4).toNat < ((8 : Word) - 4).toNat
      ∧ (s.cl 0).s 1 = (s.cl 0).s 2 := by decide +kernel
theorem wit_LoopsWaitsAndFaults :
    let s := coreSt { sreg := [(1, 3)] }
    let t := coreSt { loopK with sreg := [(1, 3)] }
    s.coreReady 0 = true ∧ (s.cl 0).s 1 ≠ 0 ∧ (s.cl 0).s 0 = 0 ∧ (s.cl 0).loops = []
      ∧ (∃ l ∈ (t.cl 0).loops, l.num = 0) ∧ definedOp 0xE0000000 = false := by decide +kernel
theorem wit_ProgramFaultStopsAndReports : ((coreSt {}).progFault 0 7).resil.intake = [.program 0 7] := by decide +kernel

-- Larders

/-- Handles: 1 valid, 2 remote to a cluster of the grid, 3 remote to none, 4 released, 5 past the end of the larder. -/
theorem wit_HandlesBoundEveryAccess :
    let s := active.setCl 0 { run := .running, handles := [(1, mkHandle 64 8 0 false), (2, mkHandle 64 8 5 true),
      (3, mkHandle 64 8 12000 true), (5, mkHandle (2 ^ 22 - 4) 8 0 false)] }
    let cut := (s.setCl 64 { run := .running, handles := [(2, mkHandle 64 8 5 true)] }).setRg 0 { ctlUp := true }
    s.coreReady 0 = true ∧ s.handleAt 0 4 0 1 = .undef .u4 ∧ s.handleAt 0 1 5 4 = .undef .u1 ∧ s.handleAt 0 1 4 4 = .at_ 0 68
      ∧ s.handleAt 0 5 0 4 = .undef .u1 ∧ s.handleAt 0 2 4 4 = .at_ 5 68 ∧ s.handleAt 0 3 4 4 = .undef .u2
      ∧ cut.handleAt 0 2 4 4 = .lost ∧ cut.coreReady 0 = true ∧ (s.cl 0).copyBusy = none
      ∧ ((s.cl 0).vrqRecs 0 3 true).bytes.length = 80 := by decide +kernel

/-- Logical column 0 on column 0 and logical column 1 on column 1, the routers of the regions in `l` up. Handle 2 names a cluster of
logical region 1, handle 3 one of logical region 17. -/
def gridSt (l : List Nat) : State :=
  withRegs [(Reg.GLB_GRIDMAPLO 1, 0x76543210)] (l.foldl (fun s r => s.setRg r { bulkUp := true, ctlUp := true })
    (active.setCl 0 { run := .running, handles := [(2, mkHandle 64 8 64 true), (3, mkHandle 64 8 (17 * 64) true)] }))

theorem wit_HandlesBoundEveryAccess_routes :
    (gridSt [1, 16, 17]).coreReady 0 = true ∧ (gridSt [1, 16, 17]).handleAt 0 3 4 4 = .at_ 1224 68 ∧ (gridSt [1, 17]).handleAt 0 3 4 4 = .lost
      ∧ (gridSt [1]).handleAt 0 2 4 4 = .at_ 72 68 ∧ (gridSt []).handleAt 0 2 4 4 = .lost := by decide +kernel

theorem wit_LarderReadersComplete :
    larSt.coreReady 0 = true ∧ larSt.handleAt 0 1 0 1088 = .at_ 0 0 ∧ (larSt.larRead 0 0 16).2 = some (List.replicate 16 0)
      ∧ ({ larSt with larErr := [(0, 3)] }.larRead 0 0 16).2 = none := by decide +kernel
theorem wit_LarderReadersComplete_planes :
    let s := coreSt { handles := [(1, mkHandle 0 40000 0 false)] }
    s.handleAt 0 1 0 (128 * rowBytes 4 + 1024) = .at_ 0 0 ∧ s.handleAt 0 1 0 (128 * rowBytes 0 + 1024) = .at_ 0 0 := by
  decide +kernel
theorem wit_LarderWritersComplete :
    larSt.handleAt 0 1 0 (toLe 4 5).length = .at_ 0 0 ∧ (larSt.larWrite 0 0 (toLe 4 5)).2 = true
      ∧ ({ larSt with larErr := [(0, 3)] }.larWrite 0 0 (toLe 4 5)).2 = false
      ∧ larSt.handleAt 0 1 0 ((larSt.cl 0).image 0).length = .at_ 0 0 := by decide +kernel
theorem wit_LarderStoreTouchesItsBytesOnly :
    larSt.canon = true ∧ 6 + 4 ≤ larSpan ∧ (∀ g ∈ groupsOf 6 4, larSt.groupIsOn 0 g = true)
      ∧ larSt.larErrs 0 (6 / 8 * 8) (4 + 14) = [] ∧ groupsOf 6 4 = [0] := by decide +kernel
theorem wit_CorrectedLarderRead :
    let s := { larSt with larErr := [(1, 4)] }
    s.canon = true ∧ (∀ g ∈ groupsOf 0 16, s.groupIsOn 0 g = true) ∧ s.larErrs 0 0 16 = [(1, 4)] ∧ ones 72 (4 : BitVec 72) = 1 := by
  decide +kernel
theorem wit_LarderReadsDeliverOrHold :
    let s := { larSt with larErr := [(1, 5)] }
    s.canon = true ∧ s.larErrs 0 0 16 = [(1, 5)] ∧ ones 72 (5 : BitVec 72) = 2 ∧ s.larErrs 0 16 8 = [] := by decide +kernel
theorem wit_GroupsWakeOnAccess :
    larSt.canon = true ∧ groupsOf (2 ^ 21 - 4) 8 = [1, 2] ∧ larSt.groupIsOn 0 1 = true ∧ larSt.groupIsOn 0 2 = false
      ∧ (larSt.wakeGroups 0 (2 ^ 21 - 4) 8).groupIsOn 0 2 = true := by decide +kernel

-- Array and vector unit

theorem wit_AccumulatorInstructions : (coreSt { acc := [(0, 5)], active := { w := [(0, 1)] } }).coreReady 0 = true := by
  decide +kernel
theorem wit_WeightsAndBlockSumsAreExact :
    let a : ActRec := { scale := 127, elems := List.replicate 32 3, outl := [(5, 200)] }
    Tab.wf 0 ({ w := [(256, 2)] } : Plane).w = true ∧ a.elems.length = 32 ∧ (∀ o ∈ a.outl, o.1 < 32)
      ∧ (blockSum { w := [(256, 2)] } 0 false a)[0]? = some 6 ∧ (rowWeights 3 (List.replicate 128 0x8F))[0]? = some 0xFF := by
  decide +kernel
theorem wit_TermsRoundToNearestEven :
    divRne 5 1 = 2 ∧ divRne 7 1 = 4 ∧ (blockTerm 254 0xFF 127 5).nan = true ∧ (blockTerm 254 127 127 5).t = 5
      ∧ (blockTerm 255 127 127 5).t = 2 ∧ (blockTerm 285 127 127 5).t = 0 ∧ (blockTerm 286 127 127 5).ufl = true
      ∧ (blockTerm 200 127 127 1).sat = true := by decide +kernel
theorem wit_VectorLaneInstructions : (coreSt {}).coreReady 0 = true ∧ (2 : BitVec 2).toNat ≥ 2 ∧ ¬ (1 : BitVec 2).toNat ≥ 2 := by
  decide +kernel
theorem wit_FloatArithmeticLaws :
    isNan32 (fAdd 0x7F800000 0xFF800000) = true ∧ finite32 0x3F800000 = true ∧ fSub 0x3F800000 0x3F800000 = 0
      ∧ toInt48 (intToF 16777216) 0 = 16777216 ∧ isNan32 0x7FC00001 = true := by decide +kernel
theorem wit_RequantisedRecordsAreWellFormed : (List.replicate 32 (0x40400000 : Word)).length = 32
    ∧ (requant 2 true true 127 (List.replicate 32 0x40400000)).bytes.length = 24 := by decide +kernel
theorem wit_ReductionSumsIgnoreOrder : List.Perm [[(1 : DWord)], [2, 3]] [[2, 3], [1]] ∧ addVec (addVec [] [1]) [2, 3] = [3, 3] :=
  ⟨List.Perm.swap _ _ _, by decide⟩

-- Engines, handles, synchronisation, queues

/-- A header of n entries and one pitch at the start of the larder of site 0. -/
def hdrSt (n : Nat) : State := { larSt with larder := Tab.ofList 0 0 (toLe 4 n ++ toLe 4 1) }

/-- The engine of site 0 right after it has read that header, whatever the length of the list. -/
def engineSt (n : Nat) : State :=
  let x := ((hdrSt n).larRead 0 0 64).1
  x.setCl 0 { x.cl 0 with fa := { running := true, listLen := 4096, entries := n, pitches := 1, sets := [0, 0, 0, 0], handles := (x.cl 0).handles } }

/-- An engine with one pitch to fill, and with an empty entry of it read ahead of another. -/
def listSt : State := larSt.setCl 0 { larSt.cl 0 with fa := { running := true, listLen := 64, pitches := 1 } }
def entrySt : State :=
  larSt.setCl 0 { larSt.cl 0 with fa := { running := true, listLen := 128, entries := 2, pitches := 1, cur := some (List.replicate 32 0) } }

theorem wit_EngineInstructions :
    let s := larSt
    let v := Tab.get 0 (s.cl 0).handles 1
    s.coreReady 0 = true ∧ s.moreEntries 0 = false ∧ v.getLsbD 62 = true ∧ 96 ≤ v.toNat / 2 ^ 22 % 2 ^ 23
      ∧ (Tab.get 0 (s.cl 0).handles 2).toNat / 2 ^ 22 % 2 ^ 23 = 32 ∧ (s.cl 0).copyBusy = none
      ∧ s.handleAt 0 1 0 64 = .at_ 0 0 ∧ (s.larRead 0 0 64).2.isSome = true ∧ (Tab.get 0 (s.cl 0).handles 9).getLsbD 62 = false
      ∧ (mkHandle 0 0 0 false).getLsbD 62 = true ∧ (mkHandle 0 0 0 false).toNat / 2 ^ 22 % 2 ^ 23 = 0
      ∧ (mkHandle 0 64 0 false).toNat / 2 ^ 22 % 2 ^ 23 = 64 := by decide +kernel
theorem wit_EngineInstructions_header :
    (hdrSt 0).canon = true ∧ leAt (((hdrSt 0).larRead 0 0 64).2.getD []) 0 4 = 0
      ∧ leAt (((hdrSt 2).larRead 0 0 64).2.getD []) 0 4 = 2 ∧ ((hdrSt 2).larRead 0 0 64).2.isSome = true
      ∧ ({ larSt with larErr := [(0, 3)] }.larRead 0 0 64).2 = none ∧ ((engineSt 2).larRead 0 64 32).2.isSome = true
      ∧ ({ engineSt 2 with larErr := [(8, 3)] }.larRead 0 64 32).2 = none ∧ (entrySt.setCl 0 { entrySt.cl 0 with run := .running }).moreEntries 0 = true := by
  decide +kernel
theorem wit_EngineInstructions_busy :
    let k : Cluster := { fa := { filled := 2, freed := 1 }, copyBusy := some .program }
    (coreSt k).coreReady 0 = true ∧ 1 < k.fa.filled ∧ k.fa.filled ≤ 2 ∧ k.fa.freed < k.fa.filled ∧ k.copyBusy.isSome = true := by
  decide +kernel
theorem wit_CopyPlacesElements : ixCount (1, 1, 1, 1) ≠ 0 ∧ ixCount (0, 1, 1, 1) = 0 := by decide

/-- A gather or scatter along dimension 1 of elements of a byte, and its views of 2 by 3. -/
def ixD (mode : Nat) : CopyD := { mode := mode, trans := false, paden := true, g := 1, e := 2, pad := 0, block := 0, idx := ⟨0, 0, 0, 0, 0, 0, 0, 0⟩ }
def ixV : CopyV := ⟨⟨0, 2, 3, 1, 1, 2, 6, 6⟩, ⟨64, 2, 3, 1, 1, 2, 6, 6⟩, (0, 0, 0, 0)⟩

theorem wit_CopyPlacesElements_forms :
    let size (k : Nat) : Nat := ixGet (ixV.src.d0, ixV.src.d1, ixV.src.d2, ixV.src.d3) k
    (∀ k < 4, size k ≠ 0) ∧ (ixD 1).g < 4 ∧ (ixD 1).mode = 1 ∧ 2 ≤ (ixD 2).mode ∧ (ixD 1).e ∈ [1, 2, 4, 8, 16]
      ∧ [7, 2, 1][ixGet (0, 1, 0, 0) 1]? = some 2
      ∧ bodyOf (ixD 1) ixV [7, 2, 1] (0, 1, 0, 0) = some (0, 2, 0, 0) ∧ bodyOf (ixD 1) ixV [7, 2, 1] (2, 1, 0, 0) = none
      ∧ scatterTo (ixD 2) ixV [7, 2, 1] (0, 1, 0, 0) = some (0, 2, 0, 0) ∧ scatterTo (ixD 2) ixV [7, 2, 1] (2, 1, 0, 0) = none := by
  decide +kernel
theorem wit_HandleInstructions :
    larSt.coreReady 0 = true ∧ (larSt.siteCluster 0).isSome = true ∧ 5 < larSt.nClusters ∧ larSt.nClusters ≤ 12000 ∧ (4096 : Nat) < 2 ^ 22
      ∧ mkHandle 0 4096 0 false ≠ 0 := by decide +kernel

/-- Barrier 0 and tree 0 whose members are the cluster of row 0 and column 0 of logical region 0; tree 0 sums 8 elements. -/
def syncSt (k : Cluster) (y : SyncNet) : State :=
  { coreSt k with sync := { y with
      barTab := [(0, BitVec.ofNat 256 (ofLe [0, 0, 1, 0, 0, 0, 0, 0, 0, 0]))]
      treeTab := [(0, BitVec.ofNat 256 (ofLe [0, 0, 1, 0, 0, 0, 0, 0, 0, 0, 0, 0, 0, 0, 0, 0, 1]))] } }

theorem wit_BarrierAndFlagInstructions :
    let s := syncSt {} {}
    let t := syncSt {} { arrivals := [(0, 2)] }
    s.coreReady 0 = true ∧ s.barSet 1 = none ∧ (s.barSet 0).isSome = true ∧ s.siteCluster 0 = some 0
      ∧ (∀ m ∈ s.barSet 0, m.has 0 = true ∧ m.has 1 = false) ∧ s.arrived 0 0 < s.released 0 + 2
      ∧ t.released 0 + 2 ≤ t.arrived 0 0 ∧ s.arrived 0 0 ≤ s.released 0 ∧ t.released 0 < t.arrived 0 0
      ∧ s.sync.flags.getLsbD 3 = false := by decide +kernel
theorem wit_BarrierAndFlagInstructions_ways :
    let s := syncSt {} {}
    let dead := s.setRg 0 { ctlUp := false }
    let mid (m : CSet) := (m.lx0 + m.lx1) / 2
    let hub (s : State) (l : Nat) : Option Nat := s.clusterSite (l * 64 + 36)
    let way (s : State) (m : CSet) := s.path 2 0 [hub s 0, hub s (mid m), hub s ((m.ly0 + m.ly1) / 2 * 16 + mid m)]
    let cut := syncSt {} { cut := [(0, ⟨8, [], []⟩)] }
    (∀ m ∈ s.barSet 0, way s m = true ∧ way dead m = false) ∧ dead.coreReady 0 = true
      ∧ s.path 2 0 [s.clusterSite ((s.rowsL / 2 * 16 + 8) * 64 + 36)] = false
      ∧ (s.setRg 8 { ctlUp := true }).path 2 0 [s.clusterSite ((s.rowsL / 2 * 16 + 8) * 64 + 36)] = true ∧ cut.syncAt (siteRegion 0) = ⟨8, [], []⟩
      ∧ (∀ e ∈ ({} : SyncNet).cut, e.1 ≠ siteRegion 0) := by decide +kernel
theorem wit_ControlRegisterInstructions :
    (coreSt {}).coreReady 0 = true ∧ ((coreSt {}).cl 0).tiles ≤ ((coreSt {}).cl 0).tile := by
  decide +kernel
theorem wit_TreeContributions :
    let s := syncSt {} {}
    let t := syncSt {} { contrib := [(0, 2)] }
    s.coreReady 0 = true ∧ (∀ x ∈ s.tree 0, x.m.has 0 = true ∧ x.m.has 1 = false) ∧ (s.tree 0).isSome = true
      ∧ ¬ Tab.get 0 s.sync.treeInst 0 + 2 ≤ Tab.get 0 s.sync.contrib 0 ∧ Tab.get 0 t.sync.treeInst 0 + 2 ≤ Tab.get 0 t.sync.contrib 0 := by
  decide +kernel
theorem wit_TreeContributions_ways :
    let s := syncSt {} {}
    let dead := s.setRg 0 { ctlUp := true }
    s.tree 1 = none ∧ s.siteCluster 0 = some 0 ∧ s.path 0 0 [s.clusterSite (0 / 64 * 64 + 36)] = true ∧ dead.coreReady 0 = true
      ∧ dead.path 0 0 [dead.clusterSite (0 / 64 * 64 + 36)] = false := by decide +kernel

/-- A packet of 8 bytes in queue 0 of slab 0, begun by the cluster of site 0. -/
def pkt (n : Nat) : QPkt := ⟨0x1000, 3, List.replicate n 1, true, false, some 0, 0, true, 64, []⟩

def queueSt (k : Cluster) (l : List QPkt) : State :=
  { larSt.setCl 0 { k with run := .running, handles := (larSt.cl 0).handles } with strm := { packets := l } }

theorem wit_QueuePortInstructions :
    let s := queueSt { rdQueue := some 0x1000, wrQueue := some 0x1000, sreg := [(2, 8)] } [pkt 8]
    let e := queueSt { rdQueue := some 0x1000, wrQueue := some 0x1000 } []
    queueOk 0x1000 = true ∧ queueOk 0xFFFF = false ∧ s.coreReady 0 = true ∧ slabQueue 0x1000 = some (0, 0)
      ∧ e.currentPkt 0 0x1000 = none ∧ s.currentPkt 0 0x1000 = some (pkt 8, 0) ∧ badIn (pkt 8).bad 0 8 = []
      ∧ s.handleAt 0 1 0 8 = .at_ 0 0 ∧ (s.larWrite 0 0 (List.replicate 8 1)).2 = true ∧ (s.larRead 0 0 8).2.isSome = true
      ∧ (s.writeSlab 0 0x1000 [1] true).poolCells 1 ≤ 16384 ∧ (coreSt {}).cl 0 = { run := .running } := by decide +kernel
theorem wit_QueuePortInstructions_other :
    slabQueue 0x10 = none ∧ (0x10 : Nat) < 0x18 ∧ slabQueue 3 = none ∧ (3 : Nat) < 0x10 ∧ slabQueue 0x18 = none
      ∧ 0x10 ∈ ({ wrQueue := some 0x10, wrDrop := [0x10] } : Cluster).wrDrop ∧ ((slabQueue 3).isSome || (decide (0x10 ≤ 3) && decide (3 < 0x18))) = false
      ∧ (((queueSt {} [pkt 8]).strm.packets.zipIdx.find? fun p => p.1.queue == 0x1000 && p.1.reader == some 0).isSome) = true
      ∧ active.jobs.step = none := by decide +kernel
theorem wit_HandlesBoundEveryAccess_queues :
    let k : Cluster := { rdQueue := some 0x1000, wrQueue := some 0x1000, sreg := [(2, 8)], handles := [(2, mkHandle 64 8 5 true)] }
    let s := { ((active.setCl 0 { k with run := .running }).setRg 0 { ctlUp := true }) with strm := { packets := [pkt 8] } }
    s.coreReady 0 = true ∧ s.currentPkt 0 0x1000 = some (pkt 8, 0) ∧ badIn (pkt 8).bad 0 8 = [] ∧ (pkt 8).bytes.drop (pkt 8).pos ≠ []
      ∧ (s.poolRead 1 0x1000 []).1.handleAt 0 2 0 8 = .lost ∧ (s.poolRead 1 0x1000 []).1.handleAt 0 4 0 8 = .undef .u4
      ∧ s.handleAt 0 2 0 8 = .lost ∧ s.handleAt 0 4 0 8 = .undef .u4 := by decide +kernel

/-- A packet of 8 bytes that goes on: a QRD of 8 bytes is served, one of 20 takes what is there and stalls. -/
theorem wit_QueuePortInstructions_parts :
    let open_ : QPkt := { pkt 8 with ended := false }
    let s (n : Word) := queueSt { rdQueue := some 0x1000, wrQueue := some 0x1000, sreg := [(2, n)] } [open_]
    (s 8).currentPkt 0 0x1000 = some (open_, 0) ∧ (s 20).currentPkt 0 0x1000 = some (open_, 0) ∧ open_.ended = false
      ∧ (open_.bytes.drop open_.pos).length = 8 ∧ (s 20).handleAt 0 1 0 8 = .at_ 0 0 ∧ (s 20).coreReady 0 = true := by decide +kernel

-- Memories

theorem wit_LarderUpkeepCommands :
    let s := larSt
    s.clocked 0 = true ∧ s.scrubs 0 = true ∧ tst (s.reg (Reg.RGN_SCRUBINT 0)) 31 = false ∧ s.scrubRow 0 16383 = some 0 ∧ s.scrubRow 0 5 = some 5
      ∧ s.scrubRow 0 8191 = some 8191 ∧ s.scrubRow 0 8192 = some 0 ∧ (s.scrubCheck 0 5).scrubRow 0 6 = some 6
      ∧ (withRegs [(Reg.RGN_LARPWR 0, 0x88)] s).scrubRow 0 16383 = some 16383
      ∧ s.railsOn = true ∧ (s.rg 0).ctlUp = true ∧ s.injStopped 0 = true := by decide +kernel
theorem wit_LarderUpkeepCommands_window :
    let s := withRegs [(Reg.RGN_PSTATE 0, 2), (Reg.RGN_LARPWR 0, 0x33)] active
    let t := { s with clk := { counter := BitVec.ofNat 64 (541 * second) } }
    (t.logRegion 0).isSome = true ∧ t.rstate 0 = stBivouac ∧ t.regionGranted 0 = false ∧ (t.rg 0).waking = false
      ∧ t.passedRecently 0 = false ∧ tst (t.reg (Reg.RGN_SCRUBINT 0)) 31 = false ∧ t.resil.checks = []
      ∧ (t.rg 0).sweeping = false ∧ (t.rg 0).scrubWin = false
      ∧ 2000 ≤ (t.now - (0 : DWord)).toNat := by decide +kernel
theorem wit_LarderUpkeepCommands_writeBack :
    let q : List (Nat × BitVec 64) := [(1, 0), (2, 5), (40, 0)]
    ({ larSt with clusters := [(0, { run := .running, writeBack := q })] }.cl 0).writeBack = q ∧ larSt.clocked 0 = true
      ∧ ({ larSt with dev := { larSt.dev with base := .restart } } : State).injStopped 0 = false := by decide +kernel
theorem wit_CellarUpkeepCommands :
    let s := withRegs [(Reg.RGN_CELSTATE 0, 1)] active
    let p := s.setRg 0 { postponed := [(0, 8)] }
    let d := { withRegs [(Reg.RGN_CELSTATE 0, 1), (Reg.RGN_PSTATE 0, 3)] active with clk := { counter := 1000 } }
    let e := withRegs [(Reg.RGN_CELPATPTR 0, 0xFFFFFF)] s
    s.regF (Reg.RGN_CELSTATE 0) 0 2 = 1 ∧ 8 ≤ Tab.get 0 (p.rg 0).postponed 0 ∧ Tab.get 0 (s.rg 0).postponed 0 < 8
      ∧ s.rstate 0 ≠ stRetired ∧ tst (s.reg (Reg.RGN_CELPATROL 0)) 31 = false ∧ s.regF (Reg.RGN_CELPATPTR 0) 0 24 + 1 < 2 ^ 24
      ∧ e.regF (Reg.RGN_CELPATPTR 0) 0 24 + 1 = 2 ^ 24 ∧ d.rstate 0 ∈ [stDark, stReserve, stRetired] ∧ d.devState ≠ 5
      ∧ 1000 ≤ (d.now - (d.rg 0).sliceAt).toNat ∧ s.railsOn = true ∧ (s.rg 0).ctlUp = true ∧ s.injStopped 0 = true
      ∧ ({ s with dev := { s.dev with base := .restart } } : State).injStopped 0 = false
      ∧ .hardCellar 0 1 0 2 7 ∈ ({ s with attic := { s.attic with todo := [.hardCellar 0 1 0 2 7] } } : State).attic.todo := by
  decide +kernel
theorem wit_CellarStoreTouchesItsBytesOnly :
    active.canon = true ∧ 62 + 4 ≤ celSpan ∧ active.celErrs 0 (62 / 64 * 64) (4 + 126) = [] := by decide +kernel
theorem wit_SymbolCodeCorrectsOneDetectsTwo :
    let s := { active with celErr := [(1, 0x300)] }
    let t := { active with celErr := [(1, 0x301)] }
    s.celErrs 0 64 8 = [(1, 0x300)] ∧ t.celErrs 0 64 8 = [(1, 0x301)] ∧ (0x300 : BitVec 544) ≠ 0
      ∧ badSymbols 0x300 = [1] ∧ badSymbols 0x301 = [0, 1] := by decide +kernel

-- Engines and networks

theorem wit_EngineAndTreeEvents :
    let s := listSt
    let k := s.cl 0
    let e := { entrySt with larErr := [(12, 3)] }
    k.fa.running = true ∧ k.fa.held = false ∧ s.clocked 0 = true ∧ k.fa.filled < k.fa.pitches ∧ k.fa.filled - k.fa.freed < k.fa.credits
      ∧ okFlow (State.fillPitch 0 0 0 s) = true ∧ ((okState (State.fillPitch 0 0 0 s)).cl 0).fa.held = false
      ∧ (e.cl 0).fa.held = false ∧ okFlow (State.fillPitch 0 0 2 e) = true ∧ ((okState (State.fillPitch 0 0 2 e)).cl 0).fa.held = true
      ∧ k.fa.pitches ≤ 1 ∧ (.loadList 0) ∉ s.resil.intake ∧ k.copyHeld = false ∧ (active.rg 0).bulkUp = true := by
  decide +kernel
theorem wit_EngineAndTreeEvents_tree :
    let s := syncSt {} { msgs := [⟨0, 0, 1, 0, 0, [5]⟩] }
    let f := syncSt {} { msgs := [⟨0, 0, 3, 0, 0, [5]⟩] }
    let x := (s.tree 0).getD ⟨⟨0, 0, 0, 0, 0⟩, 0, 0, false, false, false, false, 0, 0⟩
    let nd : TreeNode := .hub 0
    (s.tree 0).isSome = true ∧ (x.node nd).1 = 1 ∧ (s.nodeMsgs 0 1 (x.node nd).2.1 0).length = (x.node nd).2.2
      ∧ s.clusterSite x.dest = some 0 ∧ (f.nodeMsgs 0 3 0 0).length = x.m.ly1 + 1 - x.m.ly0
      ∧ okFlow (f.completeTree 0 x 0 0 [5]) = true := by decide +kernel
theorem wit_EngineAndTreeEvents_lost :
    let s := syncSt {} { msgs := [⟨0, 0, 1, 0, 0, [5]⟩] }
    let dead := s.setRg 0 { ctlUp := true }
    let goes (s : State) (x : Tree) : Bool :=
      (s.nodeSite x 1 0).elim true fun a => s.path 0 a [s.nodeSite x 2 0]
    (∀ x ∈ s.tree 0, goes s x = true ∧ goes dead x = false) ∧ (dead.tree 0).isSome = true := by decide +kernel
theorem wit_BarriersReleaseWhenAllArrived :
    (syncSt {} {}).canon = true ∧ ((syncSt {} {}).barSet 0).isSome = true
      ∧ (∀ m ∈ (syncSt {} {}).barSet 0, m.has 0 = true) ∧ (syncSt {} {}).arrived 0 0 ≤ (syncSt {} {}).released 0 := by decide +kernel
theorem wit_BarriersReleaseWhenAllArrived_all :
    let s := syncSt {} { arrivals := [(0, 1)] }
    ∃ m, s.barSet 0 = some m ∧ ∀ lc, m.has lc = true → lc < 11264 → s.released 0 < s.arrived 0 lc := by
  refine ⟨⟨0, 0, 0, 0, 1⟩, by decide +kernel, ?_⟩
  intro lc h hl
  simp only [CSet.has, Bool.and_eq_true, decide_eq_true_eq] at h
  have h0 : lc % 64 = 0 := by
    rcases Nat.eq_zero_or_pos (lc % 64) with h0 | h0
    · exact h0
    · have := Nat.testBit_lt_two_pow (x := 1) (i := lc % 64) (Nat.one_lt_two_pow (by omega))
      simp [this] at h
  obtain rfl : lc = 0 := by omega
  decide +kernel
theorem wit_BarriersReleaseWhenAllArrived_lost :
    let s := syncSt {} { arrivals := [(0, 1)], barLost := [(0, 1)] }
    let t := syncSt {} { arrivals := [(0, 1)], barLost := [(0, 2)] }
    (s.barSet 0).isSome = true ∧ Tab.get 0 s.sync.barLost 0 ≠ 0 ∧ Tab.get 0 s.sync.barLost 0 ≤ s.released 0 + 1
      ∧ t.released 0 + 1 < Tab.get 0 t.sync.barLost 0 ∧ Tab.get 0 (syncSt {} {}).sync.barLost 0 = 0 := by decide +kernel
theorem wit_TimeBeaconsSetRegionTime : active.canon = true ∧ (active.rg 0).ctlUp = true ∧ (active.rg 1).ctlUp = false
    ∧ active.now.toNat + 2 < 2 ^ 64 := by decide +kernel
theorem wit_NetworkFaultEvents :
    let one := active.setRg 0 { ctlUp := true }
    active.netUp 0 0 = true ∧ active.netUp 0 1 = true ∧ active.fuses.bypass.contains 0 = false
      ∧ active.attic.bypass.contains 0 = false ∧ (siteBeside 0 1).isSome = true ∧ active.canon = true ∧ active.railsOn = true
      ∧ (active.rg 1).bulkUp = false ∧ blankRestart.rebuilt = false ∧ (639 : BitVec 10).toNat < 640 ∧ one.netUp 0 1 = true
      ∧ one.netUp 0 0 = false := by decide +kernel
theorem wakeReaders_strm (s : State) (q : Nat) : (s.wakeReaders q).strm = s.strm := by
  unfold State.wakeReaders State.unstall
  dsimp only
  rw [foldl_keeps (g := fun s : State => s.strm), foldl_keeps (g := fun s : State => s.strm)]
  · intro s e; rfl
  · intro s e; split <;> rfl

def fullSt (l : List Byte) : State := queueSt { wrQueue := some 0x1000, sreg := [(2, 1)] } [{ pkt 0 with bytes := l }]

theorem wit_QueuePortInstructions_full (l : List Byte) (h : l.length = 1048640) :
    (fullSt l).coreReady 0 = true ∧ 16384 < ((fullSt l).writeSlab 0 0x1000 [1] true).poolCells 1 := by
  refine ⟨by rfl, ?_⟩
  simp [fullSt, queueSt, pkt, State.writeSlab, openAt, List.zipIdx, State.setPackets, newPacket, State.poolCells, pktCells, slabQueue,
    wakeReaders_strm, h]

-- Jobs

/-- A descriptor from pairs of a byte offset and a value. -/
def descOf (l : List (Nat × Nat)) : BitVec 512 := BitVec.ofNat 512 (l.map fun e => e.2 * 2 ^ (8 * e.1)).sum

/-- Ring 0 and its completion ring run, plan 2 is valid, and ring 0 holds a fetched descriptor. -/
def jobSt (d : BitVec 512) : State :=
  (withRegs [(Reg.RNG_STATE 0, 1), (Reg.RNG_STATE 64, 1), (Reg.GLB_PLANDIR_CTL 2, 1)] active).setRing 0 { fetched := [d] }

/-- The job engine may take the descriptor, and no rewind has stopped. -/
def taken (s : State) (d : BitVec 512) : Bool :=
  decide (s.takeRing = some 0 ∧ s.nextDesc 0 = some (0, d))
    && !((((s.takeOut 0 0 d).ring 0).rewindStopped && (((s.takeOut 0 0 d).ring 0).faultIdx).isSome))

theorem wit_DescriptorsTaken_kinds :
    ∀ ty ∈ ([0xB, 0xC, 0, 3, 4] : List Nat),
      let d := descOf [(0, ty)]
      taken (jobSt d) d = true ∧ dF d 0 1 = ty := by decide +kernel
theorem wit_DescriptorsTaken_units :
    let out := descOf [(0, 3), (21, 0x3000)]
    let copy := descOf [(0, 2), (16, 2 ^ 56 + 0xFFFF * 2 ^ 40)]
    let s := (jobSt copy).takeOut 0 0 copy
    let v := copyV (s.unitPeek ⟨true, 0⟩ ((copyD (dBytes copy)).block % 2 ^ 35 / 32 * 32) 96)
    ((jobSt 3).takeOut 0 0 3).peerUnit 3 = some ⟨false, 0⟩ ∧ taken (jobSt out) out = true
      ∧ ((jobSt out).takeOut 0 0 out).peerUnit out = none ∧ dF out 0 1 = 3 ∧ taken (jobSt copy) copy = true ∧ dF copy 0 1 = 2
      ∧ s.clusterSite (dF copy 10 2 % 2 ^ 14) = some 0 ∧ s.locUnit 0 (copyD (dBytes copy)).block ≠ none
      ∧ (copyD (dBytes copy)).mode = 0 ∧ s.locUnit 0 v.src.loc = some ⟨false, 0⟩ ∧ s.locUnit 0 v.dst.loc = some ⟨false, 0⟩ := by
  decide +kernel
theorem wit_DescriptorsTaken_plans :
    (∀ p ∈ ([2, 3] : List Nat), ∀ ty ∈ ([1, 5, 0xA] : List Nat),
      let d := descOf [(0, ty), (2, p)]
      taken (jobSt d) d = true ∧ dF d 0 1 = ty ∧ ((jobSt d).takeOut 0 0 d).planValid (dF d 2 2) = decide (p = 2))
    ∧ ((jobSt 5).takeOut 0 0 5).columnsOk = true := by decide +kernel

/-- A plan header of one pitch at offset 0 of the slice of region 0; its pitch table is at 4,096. -/
def planBytes : List Byte := toLe 4 planMagic ++ [1, 0, 0x0B, 11, 1, 0] ++ List.replicate 22 0 ++ toLe 8 4096 ++ List.replicate 216 0

def runDesc : BitVec 512 := descOf [(0, 1), (2, 2)]
def planSt : State := { jobSt runDesc with cellar := Tab.ofList 0 0 planBytes }

theorem wit_DescriptorsTaken_runPlan :
    let a := planSt.takeOut 0 0 runDesc
    taken planSt runDesc = true ∧ dF runDesc 0 1 = 1 ∧ a.planValid 2 = true ∧ a.columnsOk = true
      ∧ a.physRegion (a.planEnt 2).hreg = some 0 ∧ (a.planEnt 2).off = 0 ∧ (a.celRead 0 0 256).2 = some planBytes
      ∧ Hdr.magic ⟨planBytes⟩ = planMagic ∧ Hdr.format ⟨planBytes⟩ = 1 ∧ Hdr.grade ⟨planBytes⟩ = a.fuses.grade.toNat
      ∧ Hdr.lgy ⟨planBytes⟩ = a.rowsL ∧ Hdr.isStream ⟨planBytes⟩ = (a.ring 0).bound ∧ Hdr.pitches ⟨planBytes⟩ = 1 := by
  decide +kernel
theorem wit_DescriptorsTaken_rest :
    let sweep := descOf [(0, 9), (8, 1)]
    let a := (jobSt sweep).takeOut 0 0 sweep
    let held := (jobSt sweep).setRg 0 { waking := true }
    let h := held.takeOut 0 0 sweep
    let bind := descOf [(0, 7), (8, 3), (10, 1)]
    let b := (jobSt bind).takeOut 0 0 bind
    taken (jobSt sweep) sweep = true ∧ a.sweepHeld 0 = false ∧ okFlow (foldFlow State.sweepStart a [0]) = true
      ∧ ((List.range 192).filter fun r => (dF sweep 8 24).testBit r && !a.isRetired r) = [0]
      ∧ taken held sweep = true ∧ h.sweepHeld 0 = true ∧ taken (jobSt 6) 6 = true ∧ taken (jobSt bind) bind = true ∧ dF bind 11 1 = 0
      ∧ (∀ q < 64, q ≠ 0 → (b.ring q).ingest &&& 3 = 0 ∧ (b.ring q).actuate &&& 1 = 0) := by decide +kernel
theorem wit_PolicyGroupsApply :
    let d := descOf [(0, 8), (2, 2), (8, 0x7E), (13, 0xA), (14, 200)]
    let a := (jobSt d).takeOut 0 0 d
    (jobSt d).canon = true ∧ taken (jobSt d) d = true ∧ dF d 0 1 = 8 ∧ a.planValid (dF d 2 2) = true ∧ (dF d 8 4).testBit 5 = true
      ∧ (dF d 8 4).testBit 0 = false := by decide +kernel
theorem wit_PolicyGroupsApply_rest :
    let d := descOf [(0, 8), (2, 3), (8, 0x20)]
    let e := descOf [(0, 8), (8, 0x1F)]
    taken (jobSt d) d = true ∧ dF d 0 1 = 8 ∧ (dF d 8 4).testBit 5 = true ∧ ((jobSt d).takeOut 0 0 d).planValid (dF d 2 2) = false
      ∧ taken (jobSt e) e = true ∧ (dF e 8 4).testBit 5 = false := by decide +kernel
theorem wit_PolicyGroupsApply_out :
    let d := descOf [(0, 8), (2, 2), (8, 0x7E), (13, 0xA), (14, 200)]
    (((jobSt d).takeOut 0 0 d).ring 0).out.isSome = true ∧ dF d 13 1 / 4 % 2 = 0 ∧ dF (descOf [(8, 0x20), (13, 4)]) 13 1 / 4 % 2 = 1 := by
  decide +kernel

/-- An outstanding descriptor of a type that needs a region. -/
def outOf (ty r : Nat) : Outst := { desc := descOf [(0, ty)], idx := 0, prog := .queued, tStart := 0, regions := [r] }

/-- Ring 1 holds a grant of region 1, ring 2 waits for it, ring 0 asks for region 0. -/
def gateSt : State :=
  let s := ((active.setRing 0 { out := some (outOf 4 0) }).setRing 1 { out := some (outOf 4 1) }).setRing 2 { out := some (outOf 4 1) }
  { s with jobs := { s.jobs with grants := [1], queue := [2, 0] } }

theorem wit_GrantsNeverOverlap :
    gateSt.grantable (gateSt.jobs.ahead ++ gateSt.jobs.queue) [] [] = some 0 ∧ (gateSt.ring 0).out = some (outOf 4 0)
      ∧ (gateSt.ring 1).out = some (outOf 4 1) ∧ typeOf (outOf 4 1) ≠ 9 ∧ (gateSt.ring 2).out = some (outOf 4 1)
      ∧ gateSt.afterRewind 2 (outOf 4 1) = false := by decide +kernel

/-- A step of ring 0 under plan 2. -/
def stepSt (p : Phase) (inb : List Inbound) : StepSt :=
  { ring := 0, handle := 2, hreg := 0, hdr := planBytes, step := 0, phase := p, pitch := 0, regionsUp := [0], joined := [0], reload := [], seed := 0, window := none, poisoned := false, replayed := false, belay := 0, noRaise := false, reportOnly := false, alts := [], raised := false, old := none, sampled := 0, disagree := 0, inbound := inb, reexec := false, held := [], heldLog := [], heldPos := [], heldSlot := [] }

def runSt (p : Phase) (inb : List Inbound) : State :=
  let s := (planSt.setRing 0 { out := some (outOf 1 0) }).setCl 0 {}
  { s with jobs := { s.jobs with step := some (stepSt p inb), grants := [0] } }

theorem wit_StepsAdvance :
    let g : State := { gateSt with jobs := { gateSt.jobs with queue := [0] } }
    let x : Inbound := { entries := [3], pitch := 0, lag := 0, tagStep := 0, from_ := 0, parts := [(0, 0, 64)], got := 0, total := none, pulls := 0, tid := 0, link := 0, tries := 0, checked := true, done := false }
    let h := runSt .pitches [x]
    let f := runSt .checks []
    ({ active with dev := { active.dev with fwOk := true } }.reach (Reg.GLB_PLANDIR_CTL 3)) = true ∧ (0 : BitVec 2) ≠ 1
      ∧ g.dev.base = .ready ∧ g.dev.tripped = false
      ∧ g.grantable (g.jobs.ahead ++ g.jobs.queue) [] [] = some 0 ∧ okFlow (g.grantOne 0 (outOf 9 0)) = true
      ∧ h.jobs.step = some (stepSt .pitches [x]) ∧ [x].find? (fun x => x.entries.contains 3 && x.checked && !x.done) = some x
      ∧ f.jobs.step = some (stepSt .checks []) ∧ (f.ring 0).out = some (outOf 1 0) ∧ f.resil.checks = []
      ∧ f.resil.intake.any f.stopsStep = false ∧ (outOf 1 0).rec_ = none := by decide +kernel

/-- A gate whose one request is a HANDOFF, or a LOAD of 64 bytes into region 0. -/
def gateOf (o : Outst) : State :=
  let s := active.setRing 0 { out := some o }
  { s with jobs := { s.jobs with queue := [0] } }

theorem wit_StepsAdvance_grants :
    let h := { outOf 0xA 0 with regions := [] }
    let l := { outOf 3 0 with desc := descOf [(0, 3), (32, 64)] }
    (gateOf h).grantable ((gateOf h).jobs.ahead ++ (gateOf h).jobs.queue) [] [] = some 0 ∧ ((gateOf h).ring 0).out = some h
      ∧ dF h.desc 0 1 = 0xA ∧ h.regions = [] ∧ (gateOf h).dev.base = .ready ∧ (gateOf h).dev.tripped = false
      ∧ (gateOf l).grantable ((gateOf l).jobs.ahead ++ (gateOf l).jobs.queue) [] [] = some 0 ∧ dF l.desc 0 1 = 3
      ∧ (gateOf l).peerUnit l.desc = some ⟨false, 0⟩ ∧ transferOff l.desc + transferLen l.desc ≤ (⟨false, 0⟩ : MUnit).span
      ∧ l.regions = [0] ∧ ((gateOf l).rg 0).sweeping = false ∧ (gateOf l).jobs.grants = [] := by decide +kernel
theorem wit_StepsAdvance_handoff :
    let h := { outOf 0xA 0 with desc := descOf [(0, 0xA), (9, 2), (40, 8)], regions := [] }
    let g (st : Word) := withRegs [(Reg.LNK_STATE 3, 0x100 + st), (Reg.LNK_CTL 3, 1)] (gateOf h)
    ((g 2).grantable ((g 2).jobs.ahead ++ (g 2).jobs.queue) [] [] = some 0 ∧ ((g 2).ring 0).out = some h
      ∧ (g 2).upLinks (linksOf (dF h.desc 40 6)) (dF h.desc 9 1 % 16) = [3])
    ∧ (g 4).upLinks (linksOf (dF h.desc 40 6)) (dF h.desc 9 1 % 16) = []
    ∧ transferLen (0 : BitVec 512) = 0 := by decide +kernel

/-- A grid of logical region 0 alone, which carries no cluster. -/
def bareSt (p : Phase) : State :=
  let s := withRegs ((Reg.GLB_GRIDMAPLO 0, 0xFFFFFFF0) :: (List.range 15).map (fun x => (Reg.GLB_GRIDMAPLO (x + 1), 0xFFFFFFFF))
    ++ (List.range 16).map fun x => (Reg.GLB_GRIDMAPHI x, 0xFFFFFFFF)) (runSt p [])
  { s with fuses := { s.fuses with badSites := List.range 72 } }

theorem wit_StepsAdvance_close :
    let s := bareSt .pitches
    let h : Hdr := ⟨planBytes⟩
    let r := s.celRead 0 (h.pitchTab + 32 * 0) 32
    s.closeReady (stepSt .pitches []) = true ∧ s.physRegion 0 = some 0 ∧ 0 < h.pitches + h.alts ∧ h.pitchTab = 4096
      ∧ r.2 = some (List.replicate 32 0)
      ∧ okFlow (r.1.closePitch (stepSt .pitches []) 0 ⟨List.replicate 32 0⟩ ⟨List.replicate 32 0⟩) = true
      ∧ s.canon = true ∧ h.pitches = 1 ∧ h.handoffs = 0 ∧ h.handoffTab ≤ celSpan ∧ h.pwatchOff + 32 ≤ celSpan
      ∧ (stepSt .pitches []).heldSlot = [] ∧ (stepSt .pitches []).alts = [] ∧ s.celErrs 0 (h.pitchTab + 0) 32 = []
      ∧ s.celErrs 0 (h.pwatchOff / 64 * 64) 158 = [] := by decide +kernel

/-- A stream step with window 5, whose channel 3 has a packet of 8 bytes, and a plan with a held-input ring of one slot. -/
def winSt (win : Word) (k : Cluster) (cut : List Nat) : State :=
  let hdr := planBytes.take 144 ++ toLe 8 (2 ^ 20) ++ toLe 4 1024 ++ toLe 2 1 ++ List.replicate 98 0
  let s := withRegs [(Reg.RGN_LARPWR 0, 0x33), (Reg.RGN_CELSTATE 0, 1)] (runSt .pitches [])
  let w : WinSt := { num := 5, tick := 0, flags := 0, holds := [], used := true, packets := [(3, List.replicate 8 1)], cut := cut, bad := [] }
  { s with
    jobs := { s.jobs with step := some { stepSt .pitches [] with hdr := hdr, window := some win } }
    strm := { s.strm with wins := [w] } }.setCl 0
      { k with run := .running, handles := [(1, mkHandle 0 4096 0 false)], rdQueue := some 3, sreg := [(2, 6)] }

theorem wit_QueuePortInstructions_ingest :
    let s := winSt 5 {} []
    let k := s.cl 0
    let w := { num := 5, tick := 0, flags := 0, holds := [], used := true, packets := [(3, List.replicate 8 1)], cut := [], bad := [] }
    let x := (s.larWrite 0 0 (List.replicate 6 1)).1
    s.coreReady 0 = true ∧ slabQueue 3 = none ∧ (s.jobs.step.bind (·.window)) = some 5 ∧ s.jobs.step.map (·.reexec) = some false
      ∧ s.strm.wins.find? (fun w => w.num == 5) = some w ∧ k.rdEnded = false ∧ k.rdPos = 0 ∧ (k.s 2).toNat = 6
      ∧ s.handleAt 0 1 0 6 = .at_ 0 0 ∧ (s.larWrite 0 0 (List.replicate 6 1)).2 = true
      ∧ okFlow (x.heldAppend 0 w (List.replicate 6 1) 0) = true
      ∧ (winSt 6 {} []).strm.wins.find? (fun w => w.num == 6) = none ∧ (winSt 5 {} [3]).strm.wins.any (fun w => w.cut.contains 3) = true
      ∧ ((winSt 5 { rdEnded := true } []).cl 0).rdEnded = true ∧ (winSt 5 { rdEnded := true } []).coreReady 0 = true := by decide +kernel

/-- Ring 0 with an outstanding NOP that has its outcome; port 0 is up, and firmware runs. -/
def recSt (l : List (Nat × Word)) : State :=
  let s := (withRegs ([(Reg.RNG_STATE 0, 1), (Reg.RNG_STATE 64, 1), (Reg.RNG_STATE 128, 1), (Reg.LNK_STATE 48, 2)] ++ l) active).setRing 0
    { out := some { outOf 0xB 0 with rec_ := some ⟨0, 0, 0, 0⟩ } }
  { s with dev := { s.dev with fwOk := true }, jobs := { s.jobs with events := [⟨0x0101, 0, false, 0, 0⟩] } }

theorem wit_RingsServed :
    let s := recSt []
    let f := recSt [(Reg.RNG_DEVIDX 64, 64), (Reg.RNG_DEVIDX 128, 64)]
    let w : State := { s with resil := { s.resil with restart := some blankRestart }, jobs := { s.jobs with events := [⟨0x0403, 0, false, 0, 0⟩] } }
    let o := { outOf 0xB 0 with rec_ := some ⟨2, 0x40, 0, 0⟩ }
    ((s.ring 0).out.bind (·.rec_)).isSome = true ∧ (outOf 0xB 0).internal = false ∧ s.bracketWaits 0 (outOf 0xB 0) ⟨0, 0, 0, 0⟩ = false
      ∧ w.bracketWaits 0 o ⟨2, 0x40, 0, 0⟩ = true ∧ s.ringState 64 = rsRunning ∧ s.ringPort = some 0 ∧ s.hasSpace 64 = true
      ∧ s.jobs.step = none ∧ s.ringState 65 = rsDisabled ∧ f.hasSpace 64 = false ∧ s.ringState 128 = rsRunning ∧ s.hasSpace 128 = true ∧ f.hasSpace 128 = false
      ∧ s.jobs.events ≠ [] := by decide +kernel
theorem wit_RingsServed_doorbells :
    let s := recSt []
    let x := recSt [(Reg.RNG_STATE 0, 3)]
    s.reach Reg.GLB_NUDGEIGN = true ∧ s.ringState 0 = rsRunning ∧ s.wordRead 0 = false ∧ s.linkIn 48 = true ∧ s.linkIn 49 = false ∧ (s.readDoorbell 0).wordRead 0 = true ∧ s.ringState 1 = rsDisabled
      ∧ s.reach Reg.GLB_RINGCFG = true ∧ s.reach (Reg.RNG_CTL 1) = true ∧ (s.ring 1).out = none ∧ (x.ring 0).out.isSome = true
      ∧ x.ringState 0 = rsStopped ∧ (x.ring 0).rewindStopped = false ∧ s.reach (Reg.RNG_CMD 0) = true
      ∧ (∀ q < 129, active.ringState q ≠ rsRunning ∧ active.ringState q ≠ rsStopping)
      ∧ (s.readDoorbell 0).ringState 0 = rsRunning ∧ s.jobs.everOn = false ∧ ({ s with jobs := { s.jobs with everOn := true } } : State).jobs.everOn = true := by
  decide +kernel

-- Stream

theorem wit_ClusterNumbersNameSites :
    siteRegion (siteAt 191 7 8) = 191 ∧ active.goodRows 0 0 = List.range 8
      ∧ ({ active with fuses := { active.fuses with badSites := [8, 16] } } : State).goodRows 0 0 = [0, 3, 4, 5, 6, 7, 8]
      ∧ active.fuses.grade = 0x0B ∧ active.nClusters ≤ 11264 := by decide +kernel
/-- The worked example of R27 to R29: logical cluster 5,123 is site 5,763, and 6,915 once rows 2 to 10 have moved up by one. -/
theorem test_cluster_number :
    (withRegs [(Reg.GLB_GRIDMAPLO 0, 0x76543210)] onState).clusterSite 5123 = some 5763
      ∧ (withRegs [(Reg.GLB_GRIDMAPLO 0, 0x87654310)] onState).clusterSite 5123 = some 6915 := by decide +kernel

/-- Port 0 is up, channel 0 takes f32 values in 4 slots, and point 5 names a slot of it. -/
def strSt (slot : Nat) : State :=
  let s := recSt [(Reg.GLB_INGCTL 0, 1), (Reg.GLB_INGCFG 0, 4)]
  { s with points := [(5, BitVec.ofNat 128 (5 + 4 * 2 ^ 24 + 2 ^ 31 + slot * 2 ^ 36 + 0x3F80 * 2 ^ 96))] }

theorem wit_StreamCommands :
    let s := strSt 2
    let e := s.pointNow 5
    s.linkIn 48 = true ∧ okFlow (foldFlow (fun s r => s.pointRecord r.1.toNat r.2) (s.received 48 3 8) [((5 : BitVec 24), (0 : Word))]) = true
      ∧ (s.pointNow 6).valid = false ∧ e.valid = true ∧ e.id = 5 ∧ s.ingOn e.ch = true ∧ active.ingOn e.ch = false ∧ s.ingSlots e.ch = 4
      ∧ e.slot = 2 ∧ ((strSt 4).pointNow 5).slot = 4 ∧ e.convert 0x3F800000 (s.ingElem e.ch) = some 0x3F800000
      ∧ e.convert 0x7FC00000 (s.ingElem e.ch) = none ∧ s.tickReached = false := by decide +kernel
theorem wit_StreamCommands_channels :
    let s := strSt 2
    let full := withRegs ((List.range 16).map fun c => (Reg.GLB_INGCFG c, 131072) ) (withRegs ((List.range 4).map fun c => (Reg.GLB_INGCTL c, 1)) s)
    s.reach Reg.GLB_PTCMT = true ∧ s.strm.commit = none ∧ ({ s with strm := { commit := some (0, 0) } } : State).strm.commit.isSome = true
      ∧ tst (0x80000000 : Word) 31 = true ∧ s.reach (Reg.GLB_INGCTL 0) = true ∧ s.ingOn 1 = false ∧ s.reservedCells + s.ingCells 1 ≤ 65536
      ∧ full.ingOn 5 = false ∧ 65536 < full.reservedCells + full.ingCells 5 ∧ s.reach (Reg.GLB_ACTCTL 0) = true ∧ s.actOn 0 = false
      ∧ s.reservedCells + s.actCells 0 ≤ 65536 ∧ 65536 < full.reservedCells + full.actCells 0
      ∧ (withRegs [(Reg.GLB_ACTCTL 0, 1)] s).actOn 0 = true := by decide +kernel
theorem wit_StreamCommands_queues :
    let s := strSt 2
    (qctlReg 0).isSome = true ∧ (∀ c ∈ qctlReg 0, s.reach c = true) ∧ s.reach (poolReg 0) = true
      ∧ (withRegs [(poolReg 0, 2)] s).regF (poolReg 0) 0 1 ≠ (withRegs [(poolReg 0, 2)] s).regF (poolReg 0) 1 1 ∧ s.poolCells 0 = 0 := by
  decide +kernel

/-- A cadence of 10 ms, by count or by pin. -/
def cadSt (pin : Bool) (now : DWord) : State :=
  { strSt 2 with strm := { cad := some ⟨pin, 10000, 0⟩ }, clk := { counter := now } }

theorem wit_TicksCloseWindows :
    let late (s : State) : Bool := s.nextTick.elim false fun x => decide (x.1 ≤ s.now.toNat)
    let due (s : State) : Bool := s.pinDue.elim false fun x => decide (x.1 ≤ 16 * s.now.toNat)
    (cadSt false 1000000).canon = true ∧ (cadSt false 1000000).dev.base ≠ .off ∧ late (cadSt false 1000000) = true
      ∧ due (cadSt true 2000000) = true ∧ (withRegs [(Reg.GLB_TIMECFG, 2)] (cadSt true 5)).alias_ = true
      ∧ (cadSt true 200000).alias_ = false ∧ (cadSt false 5).pinDue = none ∧ (cadSt true 5).nextTick = none
      ∧ (cadSt true 5).strm.newCad = none := by decide +kernel
/-- An edge 2 ms after the last tick is far from it, whatever the error of its capture, and one after 0.5 ms is not. -/
theorem wit_TicksCloseWindows_edge :
    milli ≤ (cadSt true 200000).captured.toNat - (cadSt true 200000).strm.lastTick.toNat
      ∧ (cadSt true 50000).captured.toNat - (cadSt true 50000).strm.lastTick.toNat < milli := by
  have h := Nat.mod_lt (Config.measure (cadSt true 200000).freeCtr) (show 0 < 3 by decide)
  have g := Nat.mod_lt (Config.measure (cadSt true 50000).freeCtr) (show 0 < 3 by decide)
  revert h g
  simp only [State.captured]
  generalize Config.measure (cadSt true 200000).freeCtr % 3 = m
  generalize Config.measure (cadSt true 50000).freeCtr % 3 = n
  intro h g
  obtain rfl | rfl | rfl : m = 0 ∨ m = 1 ∨ m = 2 := by omega
  all_goals obtain rfl | rfl | rfl : n = 0 ∨ n = 1 ∨ n = 2 := by omega
  all_goals decide +kernel
theorem wit_TicksCloseWindows_seal :
    let e (stale : Nat) : PtEnt := ⟨BitVec.ofNat 128 (2 ^ 31 + stale * 2 ^ 56 + 0x4000 * 2 ^ 112)⟩
    (e 1).valid = true ∧ (e 1).stale = 1 ∧ (e 0).stale = 0 ∧ (⟨0⟩ : PtEnt).valid = false
      ∧ sealSlot 7 0 (e 1) ⟨9, 7, true, none⟩ = (9, false) ∧ sealSlot 8 0 (e 1) ⟨9, 7, true, none⟩ = (0x40000000, true)
      ∧ sealSlot 8 0 (e 0) ⟨9, 7, true, none⟩ = (9, false) ∧ sealSlot 7 0 (e 0) {} = (0x40000000, false)
      ∧ sealSlot 7 0 (e 1) {} = (0x40000000, true) := by decide +kernel

-- Time, power, heat, supply

theorem wit_TimeAndReferenceCommands :
    let s := { withRegs [(Reg.GLB_TIMECFG, 1)] (recSt []) with clk := { beacons := [7], slew := 3 } }
    let v : State := { s with clk := { slew := -2 }, dev := { s.dev with refOk := false } }
    s.canon = true ∧ s.linkIn 48 = true ∧ s.alias_ = false ∧ s.dev.base ≠ .off ∧ tst (s.reg Reg.GLB_TIMECFG) 0 = true
      ∧ tst (s.reg Reg.GLB_TIMECFG) 2 = false ∧ s.clk.lastEdge = none ∧ v.clk.beacons = [] ∧ (0 : Int) < s.clk.slew ∧ v.clk.slew < 0
      ∧ active.clk.slew = 0 ∧ (withRegs [(Reg.GLB_TIMECFG, 2)] s).alias_ = true ∧ v.alias_ = false := by decide +kernel
theorem wit_TimeAndReferenceCommands_clocks :
    let s := { withRegs [(Reg.GLB_TIMECFG, 1), (Reg.RGN_PSTATE 0, 8)] (recSt []) with clk := { beacons := [7], slew := 3 } }
    let v : State := { s with dev := { s.dev with refOk := false } }
    let p : State := { s with strm := { cad := some ⟨true, 10000, 0⟩ } }
    let o := s.updRg 0 fun g => { g with owed := 3 }
    s.reach Reg.GLB_TIMECFG = true ∧ s.pinSource = false ∧ p.pinSource = true ∧ p.reach Reg.GLB_TIMECFG = true
      ∧ s.dev.refOk = true ∧ v.dev.refOk = false ∧ v.dev.base ≠ .off ∧ s.railsUp = true ∧ s.refLoop 0 = true
      ∧ (∀ q ∈ neighbours 0, s.walk 0 q.2 + 1 ≤ 6 ∨ s.refLoop q.2 = false) ∧ o.refLoop 0 = true ∧ 0 < (o.rg 0).owed
      ∧ (∀ q ∈ neighbours 0, o.walk q.2 0 + 1 ≤ 6 ∨ o.refLoop q.2 = false) := by decide +kernel
theorem wit_TimeAndReferenceCommands_step :
    let s := { withRegs [(Reg.GLB_TIMECFG, 5)] (recSt []) with clk := { beacons := [BitVec.ofNat 512 (200000 * 2 ^ 160)] } }
    let h : BitVec 64 := BitVec.ofNat 64 (200000 * 2 ^ 160 / 2 ^ 160)
    s.canon = true ∧ s.alias_ = false ∧ s.dev.base ≠ .off ∧ tst (s.reg Reg.GLB_TIMECFG) 0 = true ∧ tst (s.reg Reg.GLB_TIMECFG) 2 = true
      ∧ s.now = 0 ∧ 100000 < (h - (0 + 0)).toInt ∧ 100000 < (h - (0 + 1)).toInt ∧ 100000 < (h - (0 + -1)).toInt := by decide +kernel
theorem wit_GovernorAndSleepCommands :
    let s := active.setRg 5 { sweeping := true }
    let w := active.setRg 0 { waking := true }
    s.canon = true ∧ s.railsOn = true ∧ (s.slab 0).dark = false ∧ (List.replicate 16 (9 : BitVec 8)).length = 16
      ∧ State.reset.railsOn = false ∧ s.dev.tripped = false ∧ s.isRetired 5 = false ∧ s.clocked 5 = false ∧ (s.rg 5).waking = false
      ∧ (s.rg 5).wakeReq = none ∧ (s.rg 5).sweeping = true ∧ (w.rg 0).waking = true ∧ w.jobs.step = none ∧ w.jobs.grants = [] ∧ w.resil.restart = none := by
  decide +kernel
theorem wit_GovernorAndSleepCommands_idle :
    let s := coreSt { stall := some .cpwait }
    s.rstate 0 = stActive ∧ 0 ∈ s.regionSites 0 ∧ (s.cl 0).run = .running
      ∧ (∀ i ∈ s.regionSites 0, (s.cl i).run = .running → (s.cl i).stall.isSome = true) := by decide +kernel
theorem wit_GovernorAndSleepCommands_sleep :
    let s : State := { active with dev := { active.dev with refOk := false } }
    let b : State := { withRegs [(Reg.RGN_PSTATE 0, 2), (Reg.GLB_SLEEPCFG, 10)] active with clk := { counter := BitVec.ofNat 64 (10 ^ 12) } }
    s.clocked 0 = true ∧ s.regionGranted 0 = false ∧ s.usedByCheck 0 = false ∧ s.cairnStage ≠ caStaging ∧ s.devState ≠ 5
      ∧ (s.rg 0).scrubWin = false ∧ s.watchClaims 0 = false ∧ s.clusters = [] ∧ (({} : Cluster).copyBusy = none ∧ ({} : Cluster).writeBack = [])
      ∧ b.rstate 0 = stBivouac ∧ b.regionGranted 0 = false ∧ b.usedByCheck 0 = false ∧ (b.rg 0).waking = false
      ∧ (b.logRegion 0).isSome = true ∧ b.regF Reg.GLB_SLEEPCFG 0 16 ≠ 0
      ∧ b.regF Reg.GLB_SLEEPCFG 0 16 * milli ≤ (b.now - (b.rg 0).bivSince).toNat := by decide +kernel
theorem wit_GovernorAndSleepCommands_other :
    let s : State := { active with resil := { active.resil with restart := some blankRestart } }
    let c : State := { active with resil := { active.resil with checks := [⟨0, 0, 0, 0, 0, 0, {}, 144, none, none⟩] } }
    let b := withRegs [(Reg.RGN_PSTATE 191, 2)] active
    s.resil.restart.isSome = true ∧ s.clocked 2 = false ∧ (∃ x ∈ c.resil.checks, siteRegion x.checker = 2) ∧ c.clocked 2 = false
      ∧ b.rstate 191 = stBivouac ∧ (b.logRegion 191).isSome = false ∧ b.isReserve 191 = true ∧ b.usedByCheck 191 = false := by decide +kernel
theorem wit_HeatCommands :
    let s := withRegs [(Reg.RGN_TEMP 0, 80)] active
    let low := withRegs [(Reg.RGN_RATE 0, 0)] active
    let t : State := { active with dev := { active.dev with tripped := true, coolBad := true } }
    s.canon = true ∧ s.aonLive = true ∧ s.dev.tripped = false ∧ t.dev.tripped = true ∧ low.aonLive = true ∧ low.thCeil 0 < 16
      ∧ ¬ ((250 : BitVec 16).toInt < 200 ∨ 400 < (250 : BitVec 16).toInt) ∧ (500 : BitVec 16).toInt > 400 ∧ s.dev.coolBad = false
      ∧ t.dev.base ≠ .off ∧ low.canon = true := by decide +kernel
theorem wit_HeatCommands_hot :
    let temps : List (BitVec 8) := [90, 97, 99, 60]
    let read := (slabRegions 0).zipIdx.foldl (fun s p => (temps[p.2]?).elim s fun t => s.readTemp p.1 t.toNat) active
    let temp (q : Nat) : Nat := read.regF (Reg.RGN_TEMP q) 0 8
    active.aonLive = true ∧ (slabRegions 0).take 4 = [0, 1, 2, 3] ∧ (temp 0, temp 1, temp 2, temp 3) = (90, 97, 99, 60)
      ∧ 8 < active.thCeil 2 ∧ (withRegs [(Reg.RGN_RATE 2, 0)] active).canon = true := by decide +kernel
theorem wit_SupplyAndPhaseCommands :
    let s : State := { active with dev := { active.dev with v48 := true } }
    let off : State := { s with dev := { s.dev with base := .off } }
    let back : State := { s with dev := { s.dev with backup := true } }
    s.canon = true ∧ s.dev.base ≠ .off ∧ s.dev.v48 = true ∧ s.inBringup = false ∧ s.railsOn = true ∧ s.dev.backup = false
      ∧ off.railsOn = false ∧ off.dev.base ≠ .aon ∧ s.dev.outageFrom = none
      ∧ ({ s with dev := { s.dev with outageFrom := some 3 } } : State).dev.base ≠ .off ∧ s.backupFeed = false
      ∧ (withRegs [(Reg.SLB_CONV 0, 0x1FF)] s).backupFeed = true ∧ off.dev.base = .off ∧ back.dev.backup = true ∧ back.dev.base ≠ .off := by
  decide +kernel
theorem wit_SupplyAndPhaseCommands_units :
    let s (m : Nat) := withRegs [(Reg.RGN_PWR 0, BitVec.ofNat 32 (m * 16)), (Reg.SLB_CONV 0, 0x1FF), (Reg.SLB_CONV 1, 0x17F)] active
    let left (m : Nat) := ones 4 (BitVec.ofNat 4 ((s m).regF (Reg.RGN_PWR 0) 4 4 - 2 ^ (0 : BitVec 2).toNat))
    let cleft (sl : Nat) := ones 8 (BitVec.ofNat 8 ((s 0).regF (Reg.SLB_CONV sl) 0 8 - 2 ^ (0 : BitVec 3).toNat))
    (s 15).canon = true ∧ (s 15).railsUp = true ∧ ((s 15).regF (Reg.RGN_PWR 0) 4 4).testBit 0 = true ∧ left 15 = 3 ∧ left 7 = 2 ∧ left 3 = 1
      ∧ left 1 = 0 ∧ (s 15).isRetired 0 = false ∧ fld (Tab.get 0 (s 15).attic.bump 0) 4 1 = 0
      ∧ fld (0x13 : Word) 4 1 = 1 ∧ fld (0x13 : Word) 0 4 ≠ (5 : BitVec 4).toNat ∧ (0, 5) ∉ (s 15).attic.bumpGroups ∧ (s 0).convRuns 0 = true
      ∧ cleft 0 = 7 ∧ cleft 1 = 6 ∧ (s 0).convRuns 1 = true ∧ (s 0).dev.backup = false := by decide +kernel
theorem wit_SupplyAndPhaseCommands_off :
    let s : State := { active with dev := { active.dev with base := .aon, next := none } }
    s.railsOn = false ∧ s.inBringup = false ∧ s.dev.base ≠ .off ∧ s.canon = true := by decide +kernel

-- Resilience

theorem wit_ResilienceCommands :
    let s := active
    let x : State := { s with resil := { s.resil with restart := some { blankRestart with noCairn := true } } }
    let d : State := { s with resil := { s.resil with plannedDue := true, cairn := some blankSnap } }
    let two : State := { s with resil := { s.resil with intake := [.transient 0, .parity 0] } }
    let off := State.reset
    let up : State := { off with dev := { off.dev with next := some .seamsTrained } }
    off.resil.restart = none ∧ s.carries 0 = true ∧ s.carries 191 = false
      ∧ s.reportsOf (.transient 0) = [] ∧ two.resil.intake.contains (.parity 0) = true
      ∧ (two.reportsOf (.parity 0)).head? = some (.transient 0) ∧ (two.reportsOf (.transient 0)).head? = some (.transient 0)
      ∧ two.resil.intake.contains (.flitUE 0 0) = false ∧ two.reportsOf (.flitUE 0 0) ≠ [] ∧ blankRestart.stuck = false ∧ s.railsOn = true ∧ (s.logRegion 0).isSome = true
      ∧ (s.logRegion 191).isSome = false ∧ d.dev.base = .ready ∧ d.resil.restart = none ∧ d.resil.plannedDue = true
      ∧ d.resil.cairn = some blankSnap ∧ blankSnap.forPlan = true ∧ d.cairnStage = caIdle ∧ d.resil.lastPlanned = none ∧ d.rewindRings = []
      ∧ up.railsUp = true ∧ up.railsOn = false ∧ up.resil.restart = none ∧ off.railsUp = false ∧ off.railsOn = false
      ∧ x.dev.tripped = false ∧ x.railsOn = true ∧ x.reqs = [] ∧ x.restartFrom { blankRestart with noCairn := true } = none := by
  decide +kernel
theorem wit_ResilienceCommands_snapshot :
    let s : State := { withRegs [(Reg.GLB_CAIRNSTAT, 1)] active with resil := { active.resil with snap := some blankSnap } }
    let u : State := { s.setLocal true with resil := { s.resil with snap := some blankSnap } }
    let v : State := withRegs [(Reg.GLB_CAIRNCFG, 1), (Reg.GLB_CAIRNSLOT, 1)] u
    s.cairnStage = caStaging ∧ blankSnap.carrierRing = none ∧ u.cairnDepot = 0 ∧ v.cairnDepot ≠ 0
      ∧ okFlow (v.startDrain blankSnap) = true := by decide +kernel
theorem wit_ResilienceCommands_checks :
    let x : Check := ⟨0, 0, 0, 0, 0, 0, {}, 64, none, none⟩
    let y : Check := { x with sigC := some 5, third := some 65 }
    let s : State := { active with resil := { active.resil with checks := [x] } }
    let t : State := { active with resil := { active.resil with checks := [{ x with sig := 7 }] } }
    let z : State := { active with resil := { active.resil with checks := [y] } }
    s.checkNo 0 = some x ∧ s.canCheck 64 = true ∧ (s.replayOn 64 x).2 = x.sig ∧ (t.replayOn 64 { x with sig := 7 }).2 ≠ 7
      ∧ z.checkNo 0 = some y ∧ z.canCheck 65 = true ∧ (s.rg (siteRegion 64)).sweeping = false ∧ okFlow (z.checkClaims 65) = true := by decide +kernel
theorem wit_ResilienceCommands_sweeps :
    let s : State := { withRegs [(Reg.GLB_POLSWEEP, 1)] active with clk := { counter := BitVec.ofNat 64 (60 * second) }, resil := { idleWin := true } }
    let t := s.setRg 0 { sweeping := true }
    s.dev.base = .ready ∧ (s.resil.idleWin && s.cairnStage != caStaging) = true ∧ t.jobs.grants = [] ∧ (s.reg Reg.GLB_POLSWEEP).toNat ≠ 0 ∧ t.isRetired 0 = false
      ∧ (s.reg Reg.GLB_POLSWEEP).toNat * 60 * second ≤ (s.now - s.resil.lastSweep).toNat
      ∧ sweepPick (fun q => !s.isRetired q && !(s.slab (slabOf q)).dark && !s.resil.swept.contains q && !s.sweepHeld q && (true || s.isReserve q)) (List.range 192) []
          = [0, 4, 8, 12, 64, 68, 72, 76]
      ∧ okFlow (foldFlow State.sweepStart s [0, 4, 8, 12, 64, 68, 72, 76]) = true
      ∧ (t.rg 0).sweeping = true ∧ t.clocked 0 = true ∧ okFlow (t.sweepEnd 0) = true := by decide +kernel

-- Links

/-- Link 3 in a state, with its lanes in use. -/
def linkSt (st : Nat) (k : LinkSt) : State :=
  (withRegs [(Reg.LNK_STATE 3, BitVec.ofNat 32 st), (Reg.LNK_CTL 3, 1)] { active with dev := { active.dev with fwOk := true } }).setLnk 3 k

theorem wit_LinkCommands :
    (linkSt 0 {}).canon = true ∧ (linkSt 0 {}).mayTrain 3 = true ∧ (linkSt 0 {}).linkState 3 = lsOff ∧ (linkSt 4 {}).linkState 3 = lsDown
      ∧ (linkSt 4 { tries := 2 }).mayTrain 3 = true ∧ (linkSt 5 { sigLost := true }).linkState 3 = lsPeerFail
      ∧ (linkSt 5 {}).reach (Reg.LNK_CMD 3) = true ∧ (linkSt 1 {}).linkState 3 = lsTraining ∧ (linkSt 0x2001 {}).regF (Reg.LNK_STATE 3) 12 8 = peerType 3
      ∧ min (activeOf 3) (min (goodLanes 3 0 0).length (goodLanes 3 0x43210 1).length) = 4
      ∧ min (activeOf 3) (min (goodLanes 3 0 0).length (goodLanes 3 0x43210 0x1E).length) < fewestOf 3
      ∧ (linkSt 1 {}).isFull 3 true = true ∧ (linkSt 1 {}).isFull 3 false = true
      ∧ (linkSt 1 {}).depotClash 3 4 9 = false
      ∧ (withRegs [(Reg.LNK_STATE 5, 0x202), (Reg.LNK_PEERIDLO 5, 7)] (linkSt 1 {})).depotClash 3 4 9 = true := by decide +kernel
theorem wit_LinkCommands_up :
    let lanes := [0, 1, 2, 3]
    let s := linkSt 2 { txLanes := lanes, rxLanes := lanes, spares := [4] }
    let late (k : LinkSt) : State := { linkSt 2 k with clk := { raw := 1000 } }
    s.linkUp 3 = true ∧ s.linkIn 3 = true ∧ (s.lnk 3).txq = [] ∧ s.holdsGroup 3 0 = true ∧ (s.lnk 3).nakCount = 0 ∧ s.holdsGroup 3 5 = false
      ∧ (late {}).holdsGroup 3 5 = true ∧ (late {}).txCount 3 = 235
      ∧ (linkSt 2 { awaitResync := true }).linkUp 3 = true ∧ ((s.lnk 3).planned 0).idxOf? 2 = some 2 ∧ ((s.lnk 3).planned 0).idxOf? 4 = none
      ∧ (4 : BitVec 4).toNat < lanesOf 3 ∧ (s.txGroup 3).toNat % 4096 = 0 ∧ ((late {}).txGroup 3).toNat % 4096 ≠ 0
      ∧ ((linkSt 2 { txLanes := lanes }).lnk 3).spares = [] ∧ (s.lnk 3).rxLanes[1]? = some 1
      ∧ ((linkSt 2 { nakCount := 7, nakGroup := 5 }).lnk 3).nakCount = 7 ∧ countLanes (setAt lanes 2 15) = 3 ∧ fewestOf 3 = 2 := by
  decide +kernel
theorem wit_LinkCommands_swaps :
    let lanes := [0, 1, 2, 3]
    let s := linkSt 2 { txLanes := lanes, rxLanes := lanes, swaps := [(0, 2, 4, 0)] }
    let a := linkSt 2 { rxLanes := [0, 15], aligned := [(0, 8)] }
    s.linkUp 3 = true ∧ (s.lnk 3).txLanes[2]? = some 2 ∧ 0 ≤ s.txCount 3 ∧ s.rxCount 3 < (groupNear (s.rxCount 3) 64).toNat
      ∧ (groupNear (s.rxCount 3) 0).toNat ≤ s.rxCount 3
      ∧ (∀ q ∈ (a.lnk 3).rxLanes.zipIdx, q.1 ≠ 15 → Tab.get 0 (Tab.set 0 (a.lnk 3).aligned 0 (7 + 1)) q.2 = 7 + 1)
      ∧ ¬ (∀ q ∈ (s.lnk 3).rxLanes.zipIdx, q.1 ≠ 15 → Tab.get 0 (Tab.set 0 (s.lnk 3).aligned 0 (7 + 1)) q.2 = 7 + 1) := by
  decide +kernel
theorem wit_LinkCommands_retrain :
    let up := linkSt 2 { txLanes := [0, 1, 2, 3] }
    let deg := linkSt 3 { txLanes := [0, 1, 15, 3] }
    let nak := linkSt 2 { nakCount := 3, nakGroup := 0, txLanes := [0, 1, 2, 3] }
    (∀ s ∈ [up, deg], s.canon = true ∧ s.reach (Reg.LNK_CMD 3) = true ∧ s.linkUp 3 = true ∧ s.lanesPowered 3 = true
        ∧ tst (s.reg (Reg.LNK_CTL 3)) 0 = true ∧ s.attic.badLinks.contains 3 = false)
      ∧ deg.linkState 3 = lsDegraded ∧ nak.linkIn 3 = true ∧ nak.holdsGroup 3 0 = true ∧ (nak.lnk 3).nakCount < 7
      ∧ (nak.lnk 3).nakGroup = 0 := by decide +kernel

-- Depot packets, host accesses, bring-up, management

/-- An awaited tag of two entries, one in the grid and one outside it, pulled on link 3 a number of times. -/
def pull (n : Nat) : Inbound := { entries := [3], pitch := 0, lag := 0, tagStep := 0, from_ := 1, parts := [(0, 64, 8), (500, 0, 8)], got := 0, total := none, pulls := 0, tid := 0, link := 3, tries := n, checked := false, done := false }

/-- Link 3 up, with a read of 8 bytes for larder 0 and a write outstanding, and a step that awaits a handoff. -/
def depWait (n : Nat) : State :=
  let s := linkSt 2 { txLanes := [0, 1, 2, 3] }
  let q : DepReq := { tid := 7, link := 3, set := [3], kind := .read, daddr := 0, bytes := [], len := 8, last := true, parts := [(1, 0, 0, 8)], ring := none, tries := 1, sent := true }
  { withRegs [(Reg.RGN_LARPWR 0, 0x33)] s with
    reqs := [q, { q with tid := 8, kind := .write }]
    jobs := { s.jobs with step := some (stepSt .pitches [pull n]), binds := [(2, some ⟨4, 1, 5, 0, 0, 8, none⟩)] } }
def depSt : State := depWait 0

theorem wit_DepotAndHostPackets :
    let s := depSt
    let b := s.received 3 2 8
    let a := s.received 3 1 0
    s.linkIn 3 = true ∧ (b.findReq 7 true).isSome = true ∧ b.sameEpoch 3 0 = true ∧ (b.findReq 9 true) = none
      ∧ okFlow (b.storeParts (List.replicate 8 1) [(1, 0, 0, 8)]) = true ∧ (a.findReq 8 false).isSome = true ∧ a.sameEpoch 3 0 = true
      ∧ (a.reqs.find? fun q => q.tid == 7 && q.sent).isSome = true ∧ (b.awaited 5 0 0 1 4).isSome = true ∧ b.awaited 5 0 0 1 9 = none
      ∧ b.tagPlaces (pull 0) 0 8 = [(0, 0, 64, 8)] ∧ b.tagPlaces (pull 0) 8 8 = [(3, 0, 0, 8)]
      ∧ okFlow (b.storeParts (List.replicate 8 1) [(0, 0, 64, 8)]) = true ∧ s.pullsOn 3 = [] ∧ (depWait 1).pullsOn 3 = [pull 1] ∧ ((s.received 3 0 0).awaited 5 0 0 1 4).isSome = true
      ∧ knownPtype 3 0x20 = false ∧ knownPtype 3 0x41 = true ∧ (1 : BitVec 2) ≠ 0 ∧ (∃ q ∈ s.reqs, q.tid = 7 ∧ q.link = 3 ∧ q.sent = true)
      ∧ (a.reqs.find? fun q => q.tid == 99 && q.sent) = none ∧ (∀ q ∈ s.reqs, ¬ (q.tid = 99 ∧ q.link = 3 ∧ q.sent = true)) := by decide +kernel
theorem wit_DepotAndHostPackets_host :
    let s := recSt []
    let h := s.received 48 2 0
    let r (got len : Nat) : HostRead := ⟨9, 0, len, List.replicate got 0, .poll [], 0, true⟩
    let j : State := { s with jobs := { s.jobs with reads := [r 4 8] } }
    let c := Reg.GLB_SLEEPCFG
    h.access c 4 = 0 ∧ ((blockOf c).elim false fun b => isAperture b.1) = false ∧ domainLen c 4 = 4 ∧ h.reach c = true
      ∧ s.linkIn 48 = true ∧ h.access 0 4 = 0 ∧ ((blockOf 0).elim false fun b => isAperture b.1) = false
      ∧ h.access 1 4 = 2 ∧ (s.received 48 2 4).access Reg.GLB_SLEEPCFG 4 = 0 ∧ Reg.GLB_SLEEPCFG < 2 ^ 44 ∧ h.access (Reg.RGN_SCRUBINT 5) 4 = 1 ∧ isAperture .cel = true
      ∧ h.access Reg.celAperture 64 = 0
      ∧ (s.received 48 2 4).access 0 4 = 0 ∧ isNext (State.writeWords 0 1 Reg.GLB_SLEEPCFG [1, 2, 3, 4] (s.received 48 2 4)) = true
      ∧ (s.jobs.reads.find? fun x => x.tid == 9 && x.sent && x.port == 0) = none
      ∧ (j.jobs.reads.find? fun x => x.tid == 9 && x.sent && x.port == 0).isSome = true ∧ 4 + 2 < (r 4 8).len
      ∧ s.access Reg.GLB_SLEEPCFG 4 = 0 ∧ ((regDef Reg.GLB_NUDGEIGN).getD {}).rc ≠ 0 := by decide +kernel
theorem wit_DepotAndHostPackets_device :
    let s := recSt []
    let i : State := { s with jobs := { s.jobs with rings := [] } }
    let a : State := { s with dev := { s.dev with base := .aon, next := none, retryDue := true } }
    let cad := Reg.GLB_TIMELO
    s.reach Reg.GLB_DEVCMD = true ∧ i.reach Reg.GLB_DEVCMD = true ∧ i.devState = 2 ∧ (∀ k < 64, (i.ring k).out = none)
      ∧ a.dev.base = .aon ∧ a.reach Reg.GLB_DEVCMD = true ∧ a.dev.retryDue = true ∧ a.dev.next = none ∧ latchLo cad = true := by decide +kernel
theorem wit_DepotAndHostPackets_writes :
    let s := recSt []
    let st (n : Word) := withRegs [(Reg.RNG_STATE 0, n)] s
    let lk := withRegs [(Reg.LNK_STATE 3, 1)] s
    (∀ a ∈ [Reg.GLB_TIMECFG, Reg.GLB_RINGCFG, Reg.GLB_PTCMT, Reg.RNG_CTL 0, Reg.RNG_BASELO 0, Reg.LNK_CTL 3, Reg.RGN_SCRUBINT 0],
        s.access a 4 = 0 ∧ a < 2 ^ 44)
      ∧ (st 0).ringState 0 ∈ [rsDisabled, rsStopped] ∧ (st 0).access (Reg.RNG_BASELO 0) 4 = 0 ∧ (st 1).ringState 0 ∈ [rsRunning, rsStopping] ∧ (st 1).access (Reg.RNG_BASELO 0) 4 = 0
      ∧ lk.linkState 3 = lsTraining ∧ lk.access (Reg.LNK_CTL 3) 4 = 0 ∧ tst (0x80000000 : Word) 31 = true := by decide +kernel

/-- In AON with a stage next; the rails' stages have run. -/
def bootSt (n : StageNo) : State := { State.reset with dev := { State.reset.dev with next := some n, refOk := true, v48 := true, v48Held := true } }

theorem wit_BringupStagesFollowEachOther :
    let b := bootSt .knownAnswer
    let hot : State := { bootSt .railsUp with dev := { (bootSt .railsUp).dev with afterReset := true } }
    (∀ n ∈ [StageNo.aonUp, .fwVerified, .railsUp, .fusesRead, .clocksLocked, .seamsTrained, .cellarTrained, .larderChecked, .gridBuilt,
      .knownAnswer, .linksTrained, .ready], (bootSt n).canon = true ∧ (bootSt n).dev.base = .aon ∧ (bootSt n).dev.next = some n)
      ∧ (bootSt .railsUp).dev.v48Held = true ∧ (bootSt .railsUp).dev.afterReset = false ∧ (∃ n < 12, (1 : BitVec 12).getLsbD n = true ∧ n ∉ (bootSt .railsUp).attic.deadConvs)
      ∧ (∀ n < 12, (0 : BitVec 12).getLsbD n = false ∨ n ∈ (bootSt .railsUp).attic.deadConvs) ∧ (bootSt .ready).resil.restart = none
      ∧ (bootSt .ready).dev.backup = false ∧ (bootSt .ready).dev.refOk = true ∧ tst (bootSt .ready).attic.bootcfg 1 = false
      ∧ (bootSt .fwVerified).attic.image.reject 0 0 ≠ none ∧ State.reset.dev.v48Held = false
      ∧ hot.dev.afterReset = true ∧ hot.dev.next = some .railsUp ∧ 85 ≤ (90 : BitVec 8).toNat
      ∧ (State.kaRounds 4 [{}, {}] b ((List.range 192).filter fun r => !b.isRetired r) srcModule).2.1 = true
      ∧ active.dev.base ≠ .aon := by decide +kernel
theorem wit_BringupStagesFollowEachOther_routes :
    let up (n : Nat) : State := (List.range n).foldl (fun s r => s.setRg r { bulkUp := true, ctlUp := true }) (bootSt .gridBuilt)
    ((up 192).bringGrid.routeFault = none) ∧ (up 0).bringGrid.routeFault.isSome = true ∧ (up 0).applyTodo.2 = [] := by decide +kernel
theorem wit_BringupStagesFollowEachOther_turns :
    let s : State := { bootSt .seamsTrained with dev := { (bootSt .seamsTrained).dev with refOk := false } }
    s.dev.refOk = false ∧ s.canon = true ∧ (bootSt .aonUp).dev.next ≠ some .railsUp
      ∧ tst ({ State.reset.attic with bootcfg := 2 } : Attic).bootcfg 1 = true := by decide +kernel
theorem wit_ManagementCommands :
    let s := recSt []
    let b : State := { s with mgmt := { s.mgmt with busy := some (1, 5) } }
    let a : State := { s with dev := { s.dev with base := .aon, next := none, fwOk := false } }
    let w : FlashWrite := { image := { bytes := [(0, 1)], len := 4096 }, port := 0, tid := 5, until_ := 0, runs := true }
    let f : State := { s with dev := { s.dev with flashing := some w } }
    (s.aonLive = true ∧ s.linkIn 48 = true ∧ s.mgmt.busy = none ∧ s.dev.flashing = none ∧ 4096 + 4 ≤ stagingSize ∧ s.dev.base ≠ .aon
      ∧ s.dev.fwOk = true ∧ 0 + 4096 ≤ logSize)
    ∧ (a.aonLive = true ∧ a.linkIn 48 = true ∧ a.dev.base = .aon ∧ a.railsUp = false ∧ a.dev.fwOk = false)
    ∧ (b.aonLive = true ∧ b.linkIn 48 = true ∧ b.mgmt.busy = some (1, 5) ∧ (1 : Nat) ≠ (0 : PortNo).val)
    ∧ (f.aonLive = true ∧ f.linkIn 48 = true ∧ f.dev.flashing = some w ∧ w.until_.toNat ≤ f.clk.raw.toNat) := by decide +kernel
theorem wit_ManagementCommands_watch :
    let s (st : Nat) (kind : Word) := withRegs [(Reg.MGT_WCTL 0, BitVec.ofNat 32 (4 * st)), (Reg.MGT_WENDLO 0, 9), (Reg.MGT_WSRC 0, kind)]
      { recSt [] with clk := { counter := 5 } }
    let t : State := { s 2 3 with mgmt := { (s 2 3).mgmt with watchLast := [(0, some 5)] } }
    ((s 0 0).canon = true ∧ (s 0 0).reach (Reg.MGT_WCTL 0) = true ∧ (s 0 0).watchStopped 0 = true ∧ (s 1 0).watchStopped 0 = false)
    ∧ ((s 1 0).watchState 0 = wsArmed ∧ ((s 1 0).watchFrom 0).toNat ≤ (s 1 0).now.toNat ∧ (s 1 0).watchHeld 0 = false)
    ∧ ({ s 2 0 with clk := { counter := 9 } } : State).watchState 0 = wsCapturing
    ∧ (({ s 2 0 with clk := { counter := 9 } } : State).watchTo 0).toNat ≤ 9
    ∧ ((s 2 0).watchTakes 0 = true ∧ (s 2 0).watchDue 0 = true ∧ (s 2 0).watchKind 0 ≠ 0x0B ∧ (s 2 0).reg (Reg.MGT_WCOUNT 0) = 0)
    ∧ ((s 2 0x0B).watchTakes 0 = true ∧ (s 2 0x0B).watchKind 0 = 0x0B) ∧ (t.watchTakes 0 = true ∧ t.watchDue 0 = false) := by
  decide +kernel
theorem wit_ManagementCommands_pins :
    let s := recSt []
    let t : State := { State.reset with dev := { State.reset.dev with next := some .railsUp, debug := true, nAlert := true } }
    s.aonLive = true ∧ t.aonLive = true ∧ s.dev.nAlert = false ∧ t.dev.nAlert = true ∧ t.tapOpen = true ∧ s.tapOpen = false
      ∧ s.dev.base ≠ .off ∧ s.dev.backup = false ∧ s.dev.saving = none ∧ s.dev.flashing = none ∧ 25 ≤ 30 := by decide +kernel
theorem wit_ManagementCommands_tap : TapInstr.bypass ≠ .extest ∧ ∀ y, TapInstr.bypass ≠ .unpublished y := ⟨nofun, nofun⟩

-- The digest and the signatures of the firmware

/-- The first example of FIPS 180-4 for SHA-384. -/
theorem test_sha384_abc : ofBe (sha384 [0x61, 0x62, 0x63])
    = 0xcb00753f45a35e8bb5a03d699ac65007272c32ab0eded1631a8b605a43ff5bed8086072ba1e7cc2358baeca134c825a7 := by decide +kernel
end Sys2Proof.Tests
end

section
/-! SUPPORT. Frames of the operations that take a continuation, one lemma each: the issue of a core's instruction, accesses through a
handle, reads of a slice, contributions and arrivals, packets, descriptors and the mailbox. -/

namespace Sys2Proof.Machine

-- Elaborated in order: with a thread, and so a stack, for each proof the memory allowed would not do.
set_option Elab.async false

variable {P Q : List Part} {s t u : State}

-- One operation after another

theorem Part.subset_all (P : List Part) : P ⊆ Part.all := fun p _ => by cases p <;> decide

theorem Frame.widen (h : Frame Q s t) (hq : Q ⊆ P := by decide) : Frame P s t := h.mono hq

theorem Frame.andThen (h : Frame P s t) (h' : Frame Q t u) (hq : Q ⊆ P := by decide) : Frame P s u := h.step h' hq

theorem FrameR.widen {r : Res} (h : FrameR Q s r) (hq : Q ⊆ P := by decide) : FrameR P s r := .step (.refl s) h hq

theorem FrameR.toAll {r : Res} (h : FrameR Q s r) : FrameR Part.all s r := .step (.refl s) h (Part.subset_all Q)

theorem FrameR.andThen {r : Res} (h : Frame P s t) (h' : FrameR Q t r) (hq : Q ⊆ P := by decide) : FrameR P s r := .step h h' hq

theorem FrameF.widen {f : Flow} (h : FrameF Q s f) (hq : Q ⊆ P := by decide) : FrameF P s f := .step (.refl s) h hq

theorem FrameF.andThen {f : Flow} (h : Frame P s t) (h' : FrameF Q t f) (hq : Q ⊆ P := by decide) : FrameF P s f := .step h h' hq

theorem Frame.iteStep {c : Prop} [Decidable c] (h : Frame P s t) (h' : Frame Q t u) (hq : Q ⊆ P := by decide) :
    Frame P s (if c then u else t) := .ite (fun _ => h.step h' hq) fun _ => h

-- One part written

theorem Frame.withDev (h : Frame P s t) {d : Dev} (hp : .dev ∈ P := by decide) : Frame P s { t with dev := d } :=
  h.upd rfl (k2 := .named hp)

theorem Frame.withClk (h : Frame P s t) {k : Clock} (hp : .clk ∈ P := by decide) : Frame P s { t with clk := k } :=
  h.upd rfl (k3 := .named hp)

theorem Frame.withSync (h : Frame P s t) {y : SyncNet} (hp : .sync ∈ P := by decide) : Frame P s { t with sync := y } :=
  h.upd rfl (k15 := .named hp)

theorem Frame.withJobs (h : Frame P s t) {j : Jobs} (e : j.rings = t.jobs.rings := by rfl) (hp : .jobs ∈ P := by decide) :
    Frame P s { t with jobs := j } := h.upd rfl (k16 := .named hp) (wjb := fun _ w => e ▸ w)

theorem Frame.withStrm (h : Frame P s t) {x : StreamSt} (hp : .strm ∈ P := by decide) : Frame P s { t with strm := x } :=
  h.upd rfl (k18 := .named hp)

theorem Frame.withResil (h : Frame P s t) {x : Resil} (hp : .resil ∈ P := by decide) : Frame P s { t with resil := x } :=
  h.upd rfl (k21 := .named hp)

theorem Frame.withMgmt (h : Frame P s t) {m : Mgmt} (hp : .mgmt ∈ P := by decide) : Frame P s { t with mgmt := m } :=
  h.upd rfl (k22 := .named hp)

/-- Whatever else is written in the attic, its log stays. -/
theorem Frame.withAttic (h : Frame P s t) {a : Attic} (e : a.log = t.attic.log := by rfl) (hp : .attic ∈ P := by decide) :
    Frame P s { t with attic := a } := h.upd rfl (k1 := .named hp) (wat := ⟨[], by rw [e, List.append_nil]⟩)

/-- Fuses are only blown: the counter rises, and nothing else of them changes (R451). -/
theorem Frame.withCounter (h : Frame P s t) {k : Nat} (hk : t.fuses.k ≤ k) (hp : .fuses ∈ P := by decide) :
    Frame P s { t with fuses := { t.fuses with k := k } } := h.upd rfl (k0 := .named hp) (wfz := ⟨rfl, hk⟩)

-- Clusters whose scalar registers are as they were

theorem Frame.canon_cl (h : Frame P s t) (i : Nat) {c : Cluster} (e : c.sreg = (t.cl i).sreg) (hs : Canon s) : c.canon = true :=
  Cluster.canon_of e (h.cl_canon hs i)

/-- An instruction that leaves the scalar registers alone completes. -/
theorem FrameR.finSame (h : Frame P s t) {site i : Nat} {c : Cluster} (e : c.sreg = (t.cl i).sreg)
    (hq : [.clusters] ⊆ P := by decide) : FrameR P s (t.fin site c) := State.fin_frameC h hq (h.canon_cl i e)

/-- An instruction that writes one scalar register completes. -/
theorem FrameR.finSetS (h : Frame P s t) {site i : Nat} {c : Cluster} {rd : BitVec 4} {v : Word} (e : c.sreg = (t.cl i).sreg)
    (hq : [.clusters] ⊆ P := by decide) : FrameR P s (t.fin site (c.setS rd v)) :=
  State.fin_frameC h hq fun hs => Cluster.setS_canon _ _ (h.canon_cl i e hs)

theorem Frame.setClSame (h : Frame P s t) {site i : Nat} {c : Cluster} (e : c.sreg = (t.cl i).sreg)
    (hq : [.clusters] ⊆ P := by decide) : Frame P s (t.setCl site c) := State.setCl_frameC h hq (h.canon_cl i e)

-- Instructions of a core, accesses through its handles

theorem State.core_frameK {site : Nat} {k : Cluster → Res} (hk : FrameR P s (k (s.cl site))) : FrameR P s (s.core site k) :=
  .ite (fun _ => hk) fun _ => .next (.refl s)

theorem State.handleRead_frameK {site : Nat} {h : BitVec 6} {off n : Nat} {k : State → List Byte → Res} (hs : Frame P s t)
    (hk : ∀ u d, Frame P s u → FrameR P s (k u d))
    (hq : [.regs, .larder, .larErr, .conflicts, .clusters, .resil, .freeCtr] ⊆ P := by decide) :
    FrameR P s (t.handleRead site h off n k) := by
  have stall (u : State) (hu : Frame P s u) : FrameR P s (.next (u.stallCore site .heldAccess)) :=
    .next (hu.step (State.stallCore_frame ..) (List.Subset.trans (by decide) hq))
  unfold State.handleRead
  split
  · exact .undef
  · exact stall t hs
  · split
    · next e => exact hk _ _ (hs.step ((State.larRead_frame ..).of_eq e) hq)
    · next e => exact stall _ (hs.step ((State.larRead_frame ..).of_eq e) hq)

theorem State.handleWrite_frameK {site : Nat} {h : BitVec 6} {off : Nat} {d : List Byte} {k : State → Res} (hs : Frame P s t)
    (hk : ∀ u, Frame P s u → FrameR P s (k u))
    (hq : [.regs, .larder, .larErr, .conflicts, .clusters, .resil, .freeCtr] ⊆ P := by decide) :
    FrameR P s (t.handleWrite site h off d k) := by
  have stall (u : State) (hu : Frame P s u) : FrameR P s (.next (u.stallCore site .heldAccess)) :=
    .next (hu.step (State.stallCore_frame ..) (List.Subset.trans (by decide) hq))
  unfold State.handleWrite
  split
  · exact .undef
  · exact stall t hs
  · split
    · next e => exact hk _ (hs.step ((State.larWrite_frame ..).of_eq e) hq)
    · next e => exact stall _ (hs.step ((State.larWrite_frame ..).of_eq e) hq)

theorem State.deliverRead_frameK {site : Nat} {h : BitVec 6} {off : Nat} {d : List Byte} {ended trunc poison : Bool} {k : State → Res}
    (hs : Frame P s t) (hk : ∀ u, Frame P s u → FrameR P s (k u))
    (hq : [.regs, .larder, .larErr, .conflicts, .clusters, .resil, .freeCtr] ⊆ P := by decide) :
    FrameR P s (t.deliverRead site h off d ended trunc poison k) := by
  have fin (u : State) (hu : Frame P s u) : FrameR P s (k (u.setCl site ((u.cl site).setQstat ended trunc poison))) :=
    hk _ (hu.setClSame (i := site) rfl (List.Subset.trans (by decide) hq))
  exact .ite (fun _ => fin t hs) fun _ => State.handleWrite_frameK hs fin hq

-- Reads of a slice on behalf of the device

theorem State.planRead_frameK {r off n : Nat} {k : State → List Byte → Flow} (hs : Frame P s t)
    (hk : ∀ u d, Frame P s u → FrameF P s (k u d)) (hq : [.attic, .regs, .regions, .resil] ⊆ P := by decide) :
    FrameF P s (t.planRead r off n k) := by
  unfold State.planRead
  split
  · exact .undef
  · split
    · next e => exact hk _ _ (hs.step ((State.celRead_frame ..).of_eq e) hq)
    · next e => exact .held (hs.step ((State.celRead_frame ..).of_eq e) hq)

theorem State.readHdr_frameK {hreg off : Nat} {k : State → Hdr → Flow} (hs : Frame P s t)
    (hk : ∀ u h, Frame P s u → FrameF P s (k u h)) (hq : [.attic, .regs, .regions, .resil] ⊆ P := by decide) :
    FrameF P s (t.readHdr hreg off k) := by
  unfold State.readHdr
  split
  · exact .undef
  · exact State.planRead_frameK hs (fun u d hu => hk u ⟨d⟩ hu) hq

theorem State.readPitch_frameK {hr i : Nat} {h : Hdr} {k : State → PEnt → Flow} (hs : Frame P s t)
    (hk : ∀ u e, Frame P s u → FrameF P s (k u e)) (hq : [.attic, .regs, .regions, .resil] ⊆ P := by decide) :
    FrameF P s (t.readPitch hr h i k) :=
  .ite (fun _ => .undef) fun _ => State.planRead_frameK hs (fun u d hu => hk u ⟨d⟩ hu) hq

-- Barriers, flags and reduction trees

theorem barArrive_frameK {site : SiteNo} {b : Nat} {k : Nat → State → Res} (hk : ∀ n u, Frame P s u → FrameR P s (k n u))
    (hq : [.regs, .clusters, .sync, .resil] ⊆ P := by decide) : FrameR P s (barArrive site b s k) := by
  have fin : FrameR P s (s.fin site (s.cl site)) := .finSame (.refl s) (i := site) rfl (List.Subset.trans (by decide) hq)
  refine State.core_frameK ?_
  split
  · exact .undef
  · split
    · exact fin
    · exact .ite (fun _ => fin) fun _ => .ite (fun _ => .next (.mono (State.stallCore_frame ..) (List.Subset.trans (by decide) hq)))
        fun _ => hk _ _ (.mono (State.sendArrival_frame ..) (List.Subset.trans (by decide) hq))

theorem contribute_frameK {site : SiteNo} {n : Nat} {vals : List Int} {k : State → Res} (hk : ∀ u, Frame P s u → FrameR P s (k u))
    (hq : [.regs, .clusters, .sync, .resil] ⊆ P := by decide) : FrameR P s (contribute site n vals k s) := by
  have arrive {y : SyncNet} : Frame [.regs, .clusters, .sync, .resil] s { s with sync := y } := .upd (.refl s) rfl
  unfold contribute
  split
  · exact .undef
  · exact .ite (fun _ => hk _ (.mono (State.count_frame ..) (List.Subset.trans (by decide) hq))) fun _ =>
      .ite (fun _ => .next (.mono (State.stallCore_frame ..) (List.Subset.trans (by decide) hq))) fun _ =>
        hk _ ((arrive.andThen (State.sendSum_frame ..)).mono hq)

-- Packets, descriptors, the mailbox

theorem fromDepot_frameK {l : LinkNo} {pool n : Nat} {k : State → Res} (hk : ∀ u, Frame P s u → FrameR P s (k u))
    (hq : [.links] ⊆ P := by decide) : FrameR P s (fromDepot l pool n s k) :=
  .ite (fun _ => hk _ (.mono (State.received_frame ..) hq)) fun _ => .next (.refl s)

theorem State.takeDesc_frameK {ty : Nat → Bool} {k : State → Nat → BitVec 512 → Flow}
    (hk : ∀ u r d, Frame P s u → FrameF P s (k u r d)) (hq : [.regs, .links, .jobs, .out] ⊆ P := by decide) :
    FrameR P s (s.takeDesc ty k) := by
  unfold State.takeDesc
  split
  · exact .next (.refl s)
  · split
    · exact .next (.refl s)
    · have taken : ∀ r i d, Frame P s (s.takeOut r i d) := fun r i d => .mono (State.takeOut_frame ..) (List.Subset.trans (by decide) hq)
      exact .ite (fun _ => .next (.refl s)) fun _ => .ite
        (fun _ => .next ((taken ..).step (State.finish_frame ..) (List.Subset.trans (by decide) hq))) fun _ => .flow (hk _ _ _ (taken ..))

theorem State.mailbox_frameK {p : PortNo} {tid : Word} {op bytes : Nat} {f : State → State} (hf : ∀ u, Frame P s u → Frame P s (f u))
    (hq : [.regs, .links, .out] ⊆ P := by decide) : FrameR P s (s.mailbox p tid op bytes f) := by
  have received : Frame [.regs, .links, .out] s (s.received (portLink p) 1 bytes) := .widen (State.received_frame ..)
  exact .ite (fun _ => .next (.refl s)) fun _ => .ite (fun _ => .next ((received.andThen (State.send_frame ..)).mono hq)) fun _ =>
    .next (hf _ ((received.andThen (State.setRegF_frame ..)).mono hq))

end Sys2Proof.Machine
end

section
/-! SUPPORT. Frames of a core's instructions. -/

namespace Sys2Proof.Machine

-- Elaborated in order: with a thread, and so a stack, for each proof the memory allowed would not do.
set_option Elab.async false

-- What leaves the scalar registers alone

namespace Cluster

variable (c : Cluster)

@[simp] theorem addSat_sreg (n : Nat) : (c.addSat n).sreg = c.sreg := by unfold addSat; split <;> rfl
@[simp] theorem addUfl_sreg (n : Nat) : (c.addUfl n).sreg = c.sreg := by unfold addUfl; split <;> rfl
@[simp] theorem addOutliers_sreg (n : Nat) : (c.addOutliers n).sreg = c.sreg := by unfold addOutliers; split <;> rfl
@[simp] theorem addOvf_sreg (n : Nat) : (c.addOvf n).sreg = c.sreg := by unfold addOvf; split <;> rfl
@[simp] theorem addNan_sreg (n : Nat) : (c.addNan n).sreg = c.sreg := by unfold addNan; split <;> rfl
@[simp] theorem addSpecial_sreg (n : Nat) : (c.addSpecial n).sreg = c.sreg := by unfold addSpecial; split <;> rfl
@[simp] theorem clearEntry_sreg (e : Nat) : (c.clearEntry e).sreg = c.sreg := rfl

@[simp] theorem record_sreg (op : Instr) (vals : List Word) (bytes : List Byte) : (c.record op vals bytes).sreg = c.sreg := by
  unfold record; split <;> rfl

@[simp] theorem pass_sreg (aw e : Nat) (addMode : Bool) (d : List Byte) : (c.pass aw e addMode d).sreg = c.sreg :=
  addUfl_sreg ..

@[simp] theorem readout_sreg (e : Nat) (clr sig : Bool) : (c.readout e clr sig).sreg = c.sreg := by
  cases sig <;> cases clr <;> simp [readout]

@[simp] theorem putLanes_sreg (vd : BitVec 5) (l : List (Word × Nat)) : (c.putLanes vd l).sreg = c.sreg := addSpecial_sreg ..
@[simp] theorem vreduce_sreg (t : BitVec 2) (vd va : BitVec 5) (f : Word → Word → Word) : (c.vreduce t vd va f).sreg = c.sreg :=
  addSpecial_sreg ..
@[simp] theorem f2i48_sreg (vd va vb : BitVec 5) : (c.f2i48 vd va vb).sreg = c.sreg := addSpecial_sreg ..
@[simp] theorem countRq_sreg (r : Requant) : (c.countRq r).sreg = c.sreg := by simp [countRq]

end Cluster

variable {P : List Part} {s : State}

-- Scalar

theorem execLui_frame (c rd imm s) : FrameR [.clusters] s (execLui c rd imm s) := State.core_frameK (.finSetS (.refl s) rfl)

theorem execLw_frame (c rd ra imm s) : FrameR [.clusters] s (execLw c rd ra imm s) := State.core_frameK (.finSetS (.refl s) rfl)

theorem execSw_frame (c rd ra imm s) : FrameR [.clusters] s (execSw c rd ra imm s) := State.core_frameK (.finSame (.refl s) rfl)

theorem execLbu_frame (c rd ra imm s) : FrameR [.clusters] s (execLbu c rd ra imm s) := State.core_frameK (.finSetS (.refl s) rfl)

theorem execSb_frame (c rd ra imm s) : FrameR [.clusters] s (execSb c rd ra imm s) := State.core_frameK (.finSame (.refl s) rfl)

theorem execLdl_frame (c h sa sb s) : FrameR [.regs, .larder, .larErr, .conflicts, .clusters, .resil, .freeCtr] s (execLdl c h sa sb s) :=
  State.core_frameK (State.handleRead_frameK (.refl s) fun _ _ hu => .finSetS hu rfl)

theorem execStl_frame (c h sa sb s) : FrameR [.regs, .larder, .larErr, .conflicts, .clusters, .resil, .freeCtr] s (execStl c h sa sb s) :=
  State.core_frameK (State.handleWrite_frameK (.refl s) fun _ hu => .finSame hu rfl)

theorem execJal_frame (c rd off s) : FrameR [.clusters, .resil] s (execJal c rd off s) :=
  State.core_frameK (State.taken_frameC (.refl s) (by decide) fun hs => Cluster.setS_canon _ _ (cl_canon hs _))

theorem execJalr_frame (c rd ra imm s) : FrameR [.clusters, .resil] s (execJalr c rd ra imm s) :=
  State.core_frameK (State.taken_frameC (.refl s) (by decide) fun hs => Cluster.setS_canon _ _ (cl_canon hs _))

theorem execLoop_frame (c n ra len s) : FrameR [.clusters, .resil] s (execLoop c n ra len s) :=
  State.core_frameK <| .ite (fun _ => .widen (State.stop_frame _ _)) fun _ =>
    .ite (fun _ => .next (.setClSame (.refl s) rfl)) fun _ => .next (.setClSame (.refl s) rfl)

theorem execWaitc_frame (c imm s) : FrameR [.clusters] s (execWaitc c imm s) := State.core_frameK (.finSame (.refl s) rfl)

theorem execHalt_frame (c s) : FrameR [.clusters] s (execHalt c s) := State.core_frameK (.next (.setClSame (.refl s) rfl))

theorem execFault_frame (c imm s) : FrameR [.clusters, .resil] s (execFault c imm s) :=
  State.core_frameK (.next (.widen (State.progFault_frame ..)))

theorem execUndefinedInstruction_frame (c w s) : FrameR [.clusters, .resil] s (execUndefinedInstruction c w s) :=
  State.core_frameK <| .ite (fun _ => .next (.refl s)) fun _ => .next (.widen (State.progFault_frame ..))

-- Array

theorem arrayRead_frame {site : SiteNo} {op : Instr} {h : BitVec 6} {off : Word} {n : Nat} {vals : List Word}
    {f : Cluster → List Byte → Cluster} (hf : ∀ k d, (f k d).sreg = k.sreg) :
    FrameR [.regs, .larder, .larErr, .conflicts, .clusters, .resil, .freeCtr] s (arrayRead site op h off n vals f s) :=
  State.handleRead_frameK (.refl s) fun _ _ hu => .finSame hu ((Cluster.record_sreg ..).trans (hf ..))

theorem execWload_frame (c h sa wfmt s) :
    FrameR [.regs, .larder, .larErr, .conflicts, .clusters, .resil, .freeCtr] s (execWload c h sa wfmt s) :=
  State.core_frameK <| .ite (fun _ => .widen (State.stop_frame _ _)) fun _ => .widen (arrayRead_frame fun _ _ => rfl)

theorem execWrow_frame (c h sa sb wfmt s) :
    FrameR [.regs, .larder, .larErr, .conflicts, .clusters, .resil, .freeCtr] s (execWrow c h sa sb wfmt s) :=
  State.core_frameK <| .ite (fun _ => .widen (State.stop_frame _ _)) fun _ => .widen (arrayRead_frame fun _ _ => rfl)

theorem execWscale_frame (c h sa s) : FrameR [.regs, .larder, .larErr, .conflicts, .clusters, .resil, .freeCtr] s (execWscale c h sa s) :=
  State.core_frameK (arrayRead_frame fun _ _ => rfl)

theorem execWswap_frame (c s) : FrameR [.clusters] s (execWswap c s) :=
  State.core_frameK (.finSame (.refl s) (Cluster.record_sreg ..))

theorem execPass_frame (c h sa aw e add s) :
    FrameR [.regs, .larder, .larErr, .conflicts, .clusters, .resil, .freeCtr] s (execPass c h sa aw e add s) :=
  State.core_frameK (arrayRead_frame fun _ _ => Cluster.pass_sreg ..)

theorem execAccrd_frame (c e g clr sig s) : FrameR [.clusters] s (execAccrd c e g clr sig s) :=
  State.core_frameK (.finSame (.refl s) ((Cluster.record_sreg ..).trans (Cluster.readout_sreg ..)))

theorem execAccst_frame (c h sa sb clr sig s) :
    FrameR [.regs, .larder, .larErr, .conflicts, .clusters, .resil, .freeCtr] s (execAccst c h sa sb clr sig s) :=
  State.core_frameK <| State.handleWrite_frameK (.refl s) fun _ hu =>
    .finSame hu ((Cluster.record_sreg ..).trans (Cluster.readout_sreg ..))

theorem execAccld_frame (c h sa sb s) :
    FrameR [.regs, .larder, .larErr, .conflicts, .clusters, .resil, .freeCtr] s (execAccld c h sa sb s) :=
  State.core_frameK (arrayRead_frame fun _ _ => rfl)

theorem execAccclr_frame (c e s) : FrameR [.clusters] s (execAccclr c e s) :=
  State.core_frameK (.finSame (.refl s) (Cluster.record_sreg ..))

-- Vector

theorem vec_frame {site : SiteNo} {op : Instr} {bad : Bool} {f : Cluster → Cluster} (hf : ∀ k, (f k).sreg = k.sreg) :
    FrameR [.clusters, .resil] s (vec site op bad f s) :=
  State.core_frameK <| .ite (fun _ => .widen (State.stop_frame _ _)) fun _ => .finSame (.refl s) ((Cluster.record_sreg ..).trans (hf _))

theorem execVld_frame (c vd h sa s) : FrameR [.regs, .larder, .larErr, .conflicts, .clusters, .resil, .freeCtr] s (execVld c vd h sa s) :=
  State.core_frameK (arrayRead_frame fun _ _ => rfl)

theorem execVst_frame (c vd h sa s) : FrameR [.regs, .larder, .larErr, .conflicts, .clusters, .resil, .freeCtr] s (execVst c vd h sa s) :=
  State.core_frameK (State.handleWrite_frameK (.refl s) fun _ hu => .finSame hu (Cluster.record_sreg ..))

theorem execVrq_frame (c va h sa aw outl s) :
    FrameR [.regs, .larder, .larErr, .conflicts, .clusters, .resil, .freeCtr] s (execVrq c va h sa aw outl s) :=
  State.core_frameK <| State.handleWrite_frameK (.refl s) fun _ hu =>
    .finSame hu ((Cluster.record_sreg ..).trans (Cluster.countRq_sreg ..))

-- Trees, barriers, flags, time

theorem execAccnr_frame (c e t clr sig s) : FrameR [.regs, .clusters, .sync, .resil] s (execAccnr c e t clr sig s) :=
  State.core_frameK <| contribute_frameK fun _ hu => .finSame hu ((Cluster.record_sreg ..).trans (Cluster.readout_sreg ..))

theorem execVnr_frame (c va t s) : FrameR [.regs, .clusters, .sync, .resil] s (execVnr c va t s) :=
  State.core_frameK <| .ite (fun _ => .widen (State.stop_frame _ _)) fun _ =>
    contribute_frameK fun _ hu => .finSame hu (Cluster.record_sreg ..)

theorem execBar_frame (c b s) : FrameR [.regs, .clusters, .sync, .resil] s (execBar c b s) :=
  barArrive_frameK fun _ _ hu => .next (hu.andThen (State.stallCore_frame ..))

theorem execBara_frame (c b s) :
    FrameR [.regs, .clusters, .sync, .resil] s (execBara c b s) := barArrive_frameK fun _ _ hu => .finSame hu rfl

theorem execBarw_frame (c b s) : FrameR [.clusters] s (execBarw c b s) := by
  refine State.core_frameK ?_
  split
  · exact .undef
  · exact .ite (fun _ => .finSame (.refl s) rfl) fun _ => .next (State.stallCore_frame ..)

theorem execEfset_frame (c f s) : FrameR [.regs, .clusters, .sync] s (execEfset c f s) :=
  State.core_frameK (.finSame (.widen (State.sendFlag_frame ..)) rfl)

theorem execEfclr_frame (c f s) : FrameR [.regs, .clusters, .sync] s (execEfclr c f s) :=
  State.core_frameK (.finSame (.widen (State.sendFlag_frame ..)) rfl)

theorem execEfwait_frame (c f v s) : FrameR [.clusters] s (execEfwait c f v s) :=
  State.core_frameK <| .ite (fun _ => .finSame (.refl s) rfl) fun _ => .next (State.stallCore_frame ..)

theorem execTime_frame (c sb hi s) : FrameR [.clusters] s (execTime c sb hi s) :=
  State.core_frameK <| .ite (fun _ => .finSetS (.refl s) rfl) fun _ => .finSetS (.refl s) rfl

-- Engines

theorem execFastart_frame (c h s) : FrameR [.regs, .larder, .larErr, .conflicts, .clusters, .resil, .freeCtr] s (execFastart c h s) := by
  refine State.core_frameK <| .ite (fun _ => .next (.widen (State.stallCore_frame ..))) fun _ => .ite (fun _ => .undef) fun _ => ?_
  split
  · next e => exact .finSame ((State.startEngine_frame _ _ _ _).of_ok e).widen rfl
  · next e => exact .finSame ((State.startEngine_frame _ _ _ _).of_held e).widen rfl
  · exact .undef

theorem execFawait_frame (c sa s) : FrameR [.clusters] s (execFawait c sa s) :=
  State.core_frameK <| .ite (fun _ => .finSame (.refl s) rfl) fun _ => .next (State.stallCore_frame ..)

theorem execFafree_frame (c s) : FrameR [.clusters] s (execFafree c s) :=
  State.core_frameK (.finSame (.refl s) (i := c) (by split <;> rfl))

theorem execCpstart_frame (c h sa s) : FrameR Part.all s (execCpstart c h sa s) :=
  State.core_frameK <| .ite (fun _ => .next (.widen (State.stallCore_frame ..))) fun _ =>
    State.handleRead_frameK (.refl s) fun _ _ hu => .flow <| (FrameF.andThen hu (State.copyStart_frame _ _ _ _)).bind fun _ hv =>
      .ok (hv.setClSame rfl)

theorem execCpwait_frame (c s) : FrameR [.clusters] s (execCpwait c s) :=
  State.core_frameK <| .ite (fun _ => .next (State.stallCore_frame ..)) fun _ => .finSame (.refl s) rfl

theorem execFence_frame (c s) : FrameR [.clusters] s (execFence c s) :=
  State.core_frameK <| .ite (fun _ => .next (State.stallCore_frame ..)) fun _ => .finSame (.refl s) rfl

-- Handles, control registers

theorem execHset_frame (c h sa sb s) : FrameR [.clusters] s (execHset c h sa sb s) :=
  State.core_frameK <| .ite (fun _ => .undef) fun _ => .finSame (.refl s) rfl

theorem execHown_frame (c h sa s) : FrameR [.clusters] s (execHown c h sa s) :=
  State.core_frameK <| .ite (fun _ => .undef) fun _ => .ite (fun _ => .undef) fun _ => .finSame (.refl s) rfl

theorem execHrel_frame (c h s) : FrameR [.clusters] s (execHrel c h s) := State.core_frameK (.finSame (.refl s) rfl)

theorem execHget_frame (c h sb sel s) : FrameR [.clusters] s (execHget c h sb sel s) := State.core_frameK (.finSetS (.refl s) rfl)

theorem execCsrr_frame (c rd csr s) : FrameR [.clusters, .freeCtr] s (execCsrr c rd csr s) :=
  State.core_frameK <| .ite (fun _ => .finSetS (.widen (State.useFree_frame ..)) rfl) fun _ => .finSetS (.refl s) rfl

theorem State.tileEnd_frameK {site : Nat} {k : Cluster} {fin : State → Cluster → Res} (hk : k.sreg = (s.cl site).sreg)
    (hf : ∀ u c, Frame P s u → c.sreg = (u.cl site).sreg → FrameR P s (fin u c))
    (hq : [.regs, .larder, .larErr, .conflicts, .clusters, .resil, .freeCtr] ⊆ P := by decide) :
    FrameR P s (s.tileEnd site k fin) := by
  have go (u : State) (next : Cluster) (hu : Frame P s u) (hn : next.sreg = (s.cl site).sreg) :
      FrameR P s (fin ((u.setCl site next).openTile site) (((u.setCl site next).openTile site).cl site)) :=
    hf _ _ (.step (State.setCl_frameC hu (List.Subset.trans (by decide) hq) ((Frame.refl (P := P) s).canon_cl site hn))
      (State.openTile_frame ..) hq) rfl
  have check {x : Resil} : Frame [.resil] s { s with resil := x } := .withResil (.refl s)
  refine .ite (fun _ => hf _ _ (.refl s) hk) fun _ => .ite (fun _ => go s _ (.refl s) hk) fun _ => ?_
  split
  · exact go s _ (.refl s) hk
  · exact .ite (fun _ => .next (.mono (State.stallCore_frame ..) (List.Subset.trans (by decide) hq))) fun _ =>
      .ite (fun _ => .undef) fun _ => go _ _ (check.mono (List.Subset.trans (by decide) hq)) hk

theorem execCsrw_frame (c csr ra s) :
    FrameR [.regs, .larder, .larErr, .conflicts, .clusters, .resil, .freeCtr] s (execCsrw c csr ra s) := by
  refine State.core_frameK ?_
  split
  case h_5 => exact State.tileEnd_frameK rfl fun _ _ hu hk => .finSame hu (i := c) hk
  all_goals exact .finSame (.refl s) rfl

-- Queues

theorem execQbind_frame (c sa wr s) : FrameR [.clusters] s (execQbind c sa wr s) :=
  State.core_frameK <| .ite (fun _ => .undef) fun _ => .ite (fun _ => .finSame (.refl s) rfl) fun _ => .finSame (.refl s) rfl

theorem execQrd_frame (c h sa sb s) : FrameR Part.all s (execQrd c h sa sb s) := by
  have given {d : List Byte} {ended trunc poison : Bool} {off : Nat} :
      FrameR Part.all s (s.deliverRead c h off d ended trunc poison fun s => s.fin c (s.cl c)) :=
    State.deliverRead_frameK (.refl s) fun _ hu => .finSame hu rfl
  refine State.core_frameK ?_
  split
  · exact .widen (State.stop_frame _ _)
  · split
    · exact .widen (State.readSlab_frame _ _ _ _ _ _ _)
    · refine .ite (fun _ => given) fun _ => ?_
      split
      · exact given
      · split
        · exact given
        · exact .ite (fun _ => .widen (State.readHeld_frame _ _ _ _ _ _)) fun _ => .widen (State.readWindow_frame _ _ _ _ _ _ _)

theorem execQwr_frame (c h sa sb last s) :
    FrameR [.regs, .larder, .larErr, .conflicts, .clusters, .strm, .resil, .freeCtr] s (execQwr c h sa sb last s) := by
  refine State.core_frameK ?_
  split
  · exact .widen (State.stop_frame _ _)
  · refine State.handleRead_frameK (.refl s) fun _ _ hu => .ite (fun _ => .finSame hu rfl) fun _ => ?_
    split
    · exact .andThen hu (State.pushSlab_frame _ _ _ _ _ _)
    · exact .ite (fun _ => .finSame (hu.andThen (State.writeStaged_frame ..)) rfl) fun _ => .finSame hu rfl

theorem execQdrop_frame (c s) : FrameR [.regs, .clusters, .strm, .resil] s (execQdrop c s) := by
  refine State.core_frameK ?_
  split
  · exact .widen (State.stop_frame _ _)
  · split
    · exact .finSame (.refl s) (i := c) (by split <;> rfl)
    · split
      · exact .finSame (.refl s) rfl
      · exact .finSame (.andThen (.andThen (.widen (State.setPackets_frame ..)) (State.cutProducers_frame ..))
          (State.wakeWriters_frame ..)) rfl

theorem execQcnt_frame (c sb s) : FrameR [.clusters, .resil] s (execQcnt c sb s) := by
  refine State.core_frameK ?_
  split
  · exact .widen (State.stop_frame _ _)
  · exact .finSetS (.refl s) rfl

end Sys2Proof.Machine
end

section
/-! SUPPORT. Frames of the commands of the memories, the sync network, the fetch-ahead engine, the rings, the depots and the stream. -/

namespace Sys2Proof.Machine

-- Elaborated in order: with a thread, and so a stack, for each proof the memory allowed would not do.
set_option Elab.async false

-- Larders and slices

theorem execCellarRefresh_frame (r ch rank bank idle s) : FrameR [.regions] s (execCellarRefresh r ch rank bank idle s) :=
  .ite (fun _ => .next (.refl s)) fun _ => .next (State.updRg_frame ..)

theorem execPatrolVisit_frame (r s) : FrameR [.attic, .regs, .cellar, .celErr, .regions, .resil] s (execPatrolVisit r s) := by
  have visited {u v : Nat} : Frame [.attic, .regs, .cellar, .celErr, .regions, .resil] s
      (((List.range 8).foldl (fun s ch => s.patrolUnit r ch u) s).setRegF (Reg.RGN_CELPATPTR r) 0 24 v) :=
    .andThen (.foldl (.refl s) fun _ _ h => h.andThen (State.patrolUnit_frame ..)) (State.setRegF_frame ..)
  exact .ite (fun _ => .next (.refl s)) fun _ => .ite (fun _ =>
    .next (.andThen (visited.andThen (State.setRegF_frame ..)) (State.updRg_frame ..))) fun _ => .next visited

theorem execSelfRefreshEntry_frame (r s) : FrameR [.regs] s (execSelfRefreshEntry r s) :=
  .ite (fun _ => .next (State.setRegF_frame ..)) fun _ => .next (.refl s)

theorem execRowRemap_frame (r ch rank bank row s) :
    FrameR [.attic, .cellar, .celErr, .regions, .resil] s (execRowRemap r ch rank bank row s) := by
  refine .ite (fun _ => .next (.refl s)) fun _ => ?_
  extract_lets x
  split
  · next e => exact .next (.andThen ((State.remapRow_frame _ _ _).of_eq e).widen (State.rewriteRow_frame ..))
  · exact .next (.widen (State.report_frame ..))

theorem execScrubVisit_frame (c s) : FrameR [.attic, .regs, .conflicts, .clusters, .regions, .resil, .freeCtr] s (execScrubVisit c s) := by
  refine .ite (fun _ => .next (.refl s)) fun _ => ?_
  split
  · exact .next (.refl s)
  · have begun {p : Prop} [Decidable p] :
        Frame [.attic, .regs, .conflicts, .clusters, .regions, .resil, .freeCtr] s (if p then s.passEnd c else s) :=
      .ite (fun _ => .widen (State.passEnd_frame ..)) fun _ => .refl s
    exact .next (.ite (fun _ => begun.andThen (State.visitRow_frame ..)) fun _ => begun)

theorem execScrubWriteBack_frame (c s) : FrameR [.larder, .larErr, .clusters] s (execScrubWriteBack c s) := by
  unfold execScrubWriteBack
  extract_lets site
  split
  · exact .next (.refl s)
  · exact .ite (fun _ => .next (.refl s)) fun _ =>
      .next (.foldl (.widen (State.updCl_same _ _ _ fun _ => rfl)) fun _ _ h => h.andThen (State.rewriteWord_frame ..))

theorem execRetentionReturn_frame (r s) : FrameR [.regs, .regions] s (execRetentionReturn r s) := by
  unfold execRetentionReturn
  split
  · exact .ite (fun _ => .next (.andThen (.andThen (.widen (State.setSwitches_frame ..)) (State.setRetention_frame ..))
      (State.updRg_frame ..))) fun _ => .next (.refl s)
  · exact .next (.refl s)

-- Barriers, time beacons, reduction trees

theorem execBarrierRelease_frame (b s) : FrameR [.regs, .clusters, .sync] s (execBarrierRelease b s) := by
  unfold execBarrierRelease
  split
  · exact .next (.refl s)
  · exact .ite (fun _ => .next (.andThen (.andThen (.withSync (.widen (State.broadcast_frame ..))) (State.unstall_frame ..))
      (State.unstall_frame ..))) fun _ => .next (.refl s)

theorem execTimeBeacon_frame (s) : FrameR [.regions, .out, .freeCtr] s (execTimeBeacon s) :=
  .next <| .andThen (.foldl (.refl s) fun _ _ h => .ite (fun _ => h) fun _ =>
    .andThen (.andThen h (State.updRg_frame ..)) (State.useFree_frame ..)) (State.emit_frame ..)

theorem execTreeNodeForward_frame (t n s) : FrameR [.sync] s (execTreeNodeForward t n s) := by
  unfold execTreeNodeForward
  split
  · exact .next (.refl s)
  · dsimp only
    split
    · exact .next (.refl s)
    · exact .next (.andThen (.withSync (.refl s)) (State.sendSum_frame ..))

theorem execTreeInstanceComplete_frame (t s) :
    FrameR [.regs, .larder, .larErr, .conflicts, .clusters, .regions, .sync, .resil, .freeCtr] s (execTreeInstanceComplete t s) := by
  unfold execTreeInstanceComplete
  split
  · exact .next (.refl s)
  · dsimp only
    split
    · exact .next (.refl s)
    · exact .ite (fun _ => .flow (State.completeTree_frame _ _ _ _ _ _)) fun _ => .next (.refl s)

-- Engines

theorem execPitchFilled_frame (c s) :
    FrameR [.attic, .regs, .larder, .larErr, .conflicts, .clusters, .regions, .resil, .freeCtr] s (execPitchFilled c s) := by
  refine .ite (fun _ => .next (.refl s)) fun _ => .flow (.bind (.widen (State.fillPitch_frame _ _ _ _)) fun u hu => ?_)
  refine .ite (fun _ => .ok hu) fun _ => ?_
  extract_lets s₁ s₂
  have h₂ : Frame [.attic, .regs, .larder, .larErr, .conflicts, .clusters, .regions, .resil, .freeCtr] s s₂ :=
    .andThen (.andThen hu (State.updFa_frame ..)) (State.unstall_frame ..)
  exact .ok (.ite (fun _ => h₂) fun _ => h₂.andThen (State.unstall_frame ..))

theorem execLoadListFault_frame (c s) : FrameR [.resil] s (execLoadListFault c s) :=
  .ite (fun _ => .next (State.report_frame ..)) fun _ => .next (.refl s)

theorem execCopyComplete_frame (c s) : FrameR [.regs, .clusters, .jobs] s (execCopyComplete c s) := by
  have freed {k : Cluster} {p q : Nat → Stall → Bool} (hk : k.sreg = (s.cl c).sreg) :
      Frame [.regs, .clusters, .jobs] s (((s.setCl c k).unstall p true).unstall q false) :=
    .andThen (.andThen (.setClSame (.refl s) hk) (State.unstall_frame ..)) (State.unstall_frame ..)
  unfold execCopyComplete
  extract_lets k
  split
  · exact .next (.refl s)
  · refine .ite (fun _ => .next (.refl s)) fun _ => .next ?_
    split
    · exact freed rfl
    · refine .andThen ?_ (State.finish_frame ..)
      exact freed rfl

-- Rings

theorem execNudge_frame (p ring s) : FrameR [.regs, .links, .jobs, .out] s (execNudge p ring s) :=
  .ite (fun _ => .next (.refl s)) fun _ => .next (.andThen (.widen (State.received_frame ..)) (State.nudge_frame ..))

theorem execBackstopPoll_frame (s) : FrameR [.links, .jobs, .out] s (execBackstopPoll s) :=
  .ite (fun _ => .next (.refl s)) fun _ => .next <|
    .foldl (.ite (fun _ => .refl s) fun _ => .widen (State.ringRead_frame ..)) fun _ _ h =>
      .ite (fun _ => h.andThen (State.readSpace_frame ..)) fun _ => h

theorem execEventRecordWrite_frame (s) : FrameR [.regs, .links, .jobs, .out] s (execEventRecordWrite s) := by
  unfold execEventRecordWrite
  split
  · exact .next (.refl s)
  · exact .ite (fun _ => .next (.refl s)) fun _ => .ite (fun _ => .next (.widen (State.waitSpace_frame ..))) fun _ =>
      .next (.andThen (.withJobs (.refl s)) (State.putRecord_frame ..))

theorem execCpl_frame (p tid status off data s) : FrameR Part.all s (execCpl p tid status off data s) := by
  refine .ite (fun _ => .next (.refl s)) fun _ => ?_
  split
  · exact .next (.widen (State.received_frame ..))
  · have h : Frame Part.all s (s.received (portLink p) 2 data.length) := .widen (State.received_frame ..)
    exact .ite (fun _ => .next h) fun _ => .ite (fun _ => .next h.withJobs) fun _ =>
      .flow (.andThen (.andThen h.withJobs (State.pumpReads_frame ..)) (State.deliver_frame _ _))

-- Depots

theorem execSnapshotStaged_frame (s) : FrameR [.attic, .regs, .regions, .links, .jobs, .reqs, .resil, .out] s (execSnapshotStaged s) := by
  have sent (u : State) (y : Snap) (hu : Frame [.attic, .regs, .regions, .links, .jobs, .reqs, .resil, .out] s u) :
      FrameR [.attic, .regs, .regions, .links, .jobs, .reqs, .resil, .out] s
        (if u.cairnDepot = 0 then .next u.discardDrain else Flow.res (u.startDrain y)) :=
    .ite (fun _ => .next (hu.andThen (State.discardDrain_frame ..))) fun _ => .flow (.andThen hu (State.startDrain_frame _ _))
  unfold execSnapshotStaged
  split
  · exact .next (.refl s)
  · refine .ite (fun _ => .next (.refl s)) fun _ => ?_
    extract_lets s₁ waits
    have h₁ : Frame [.attic, .regs, .regions, .links, .jobs, .reqs, .resil, .out] s s₁ := .widen (State.setLocal_frame ..)
    split
    next u y e =>
    have hu : Frame [.attic, .regs, .regions, .links, .jobs, .reqs, .resil, .out] s u := by
      split at e
      · split at e <;> cases e
        · exact h₁
        · exact h₁.andThen (State.finish_frame ..)
      · cases e
        exact h₁
    exact sent _ _ hu.withResil

theorem execRequestTimeout_frame (l tid s) : FrameR [.regs, .links, .jobs, .reqs, .hands, .resil, .out] s (execRequestTimeout l tid s) :=
  .ite (fun _ => .next (.andThen (.widen (State.resend_frame ..)) (State.pullLost_frame ..))) fun _ => .next (.refl s)

theorem execRddata_frame (l tid epoch status data s) : FrameR Part.all s (execRddata l tid epoch status data s) := by
  refine fromDepot_frameK fun u hu => ?_
  split
  · exact .next hu
  · exact .ite (fun _ => .next hu) fun _ => .ite (fun _ => .next (hu.andThen (State.refused_frame ..))) fun _ =>
      .flow (.bind (.andThen hu (State.storeParts_frame _ _ _)) fun _ hv => .ok (hv.andThen (State.reqDone_frame ..)))

theorem execWrack_frame (l tid epoch status s) :
    FrameR [.regs, .regions, .links, .jobs, .reqs, .hands, .resil, .out] s (execWrack l tid epoch status s) := by
  refine fromDepot_frameK fun u hu => ?_
  split
  · exact .next hu
  · exact .ite (fun _ => .next hu) fun _ => .ite (fun _ => .next (hu.andThen (State.refused_frame ..))) fun _ =>
      .next (hu.andThen (State.reqDone_frame ..))

theorem execDerr_frame (l tid status s) : FrameR [.regs, .links, .jobs, .reqs, .hands, .resil, .out] s (execDerr l tid status s) := by
  refine fromDepot_frameK fun u hu => ?_
  split
  · exact .next (hu.andThen (State.pullAgain_frame ..))
  · exact .next (hu.andThen (State.refused_frame ..))

theorem execEpack_frame (l epoch s) : FrameR [.links, .jobs, .reqs, .hands, .out] s (execEpack l epoch s) :=
  fromDepot_frameK fun _ hu => .ite (fun _ => .next
    (.andThen (.andThen (.andThen hu (State.updLnk_frame ..)) (State.pumpReqs_frame ..)) (State.pumpHands_frame ..))) fun _ => .next hu

theorem execUnknownPtype_frame (l head s) : FrameR [.regs, .links] s (execUnknownPtype l head s) :=
  .ite (fun _ => .next (.refl s)) fun _ => .next (.andThen (.widen (State.received_frame ..)) (State.count_frame ..))

theorem execHdata_frame (l epoch jobtag step pitch sfrom sto daddr data s) :
    FrameR Part.all s (execHdata l epoch jobtag step pitch sfrom sto daddr data s) := by
  refine fromDepot_frameK fun u hu => ?_
  split
  · exact .next hu
  · exact .ite (fun _ => .next hu) fun _ => .ite (fun _ => .undef) fun _ =>
      .flow (.bind (.andThen hu (State.storeParts_frame _ _ _)) fun _ hv => .ok (hv.andThen (State.checkTag_frame ..)))

theorem execHend_frame (l epoch jobtag step pitch sfrom sto bytes crc s) :
    FrameR [.regs, .links, .jobs, .hands, .out] s (execHend l epoch jobtag step pitch sfrom sto bytes crc s) := by
  refine fromDepot_frameK fun u hu => ?_
  split
  · exact .next hu
  · exact .ite (fun _ => .next hu) fun _ => .next (hu.andThen (State.checkTag_frame ..))

theorem execHandoffTagWritten_frame (entry s) : FrameR Part.all s (execHandoffTagWritten entry s) := by
  unfold execHandoffTagWritten
  split
  · exact .next (.refl s)
  · split
    · exact .next (.refl s)
    · exact .flow (.fold (.widen (State.setInbound_frame ..)) fun _ _ h => .andThen h (State.startRegion_frame _ _))

-- Stream

theorem execStream_frame (p skind recs s) : FrameR [.attic, .regs, .links, .jobs, .strm] s (execStream p skind recs s) := by
  have h : Frame [.attic, .regs, .links, .jobs, .strm] s (s.received (portLink p) 3 (8 * recs.length)) := .widen (State.received_frame ..)
  exact .ite (fun _ => .next (.refl s)) fun _ => .ite (fun _ => .next h) fun _ =>
    .flow (.fold h fun _ _ hu => .andThen hu (State.pointRecord_frame _ _ _))

theorem execWindowFree_frame (win s) : FrameR [.strm] s (execWindowFree win s) := .next (.withStrm (.refl s))

theorem execPoolModeChange_frame (pool s) : FrameR [.regs] s (execPoolModeChange pool s) := .next (State.poolChange_frame ..)

theorem execCadenceTick_frame (s) :
    FrameR [.attic, .regs, .links, .jobs, .points, .strm, .resil, .out] s (execCadenceTick s) := .next (State.dueTick_frame ..)

theorem execPinFallbackTick_frame (s) : FrameR [.attic, .regs, .links, .jobs, .points, .strm, .resil, .out] s (execPinFallbackTick s) := by
  unfold execPinFallbackTick
  split
  · exact .ite (fun _ => .next (.andThen (.withStrm (.ite (fun _ => .widen (State.adopt_frame ..)) fun _ => .refl s))
      (State.tick_frame ..))) fun _ => .next (.refl s)
  · exact .next (.refl s)

theorem execCadenceInEdge_frame (s) : FrameR Part.all s (execCadenceInEdge s) := by
  refine .ite (fun _ => .next (.refl s)) fun _ => .ite (fun _ => .next (.widen (State.pulse_frame ..))) fun _ => ?_
  extract_lets t far s₁ s₂
  have h₁ : Frame Part.all s s₁ := by
    subst s₁
    split
    · exact .ite (fun _ => .widen (State.adopt_frame ..)) fun _ => .refl s
    · exact .refl s
  have h₂ : Frame Part.all s s₂ := h₁.andThen (State.useFree_frame ..)
  exact .ite (fun _ => .next h₂) fun _ => .ite (fun _ => .next (h₂.andThen (State.count_frame ..))) fun _ =>
    .next (.andThen h₂.withStrm (State.tick_frame ..))

end Sys2Proof.Machine
end

section
/-! SUPPORT. Frames of the descriptors, of grants and steps, of checks and of faults and restarts. -/

namespace Sys2Proof.Machine

-- Elaborated in order: with a thread, and so a stack, for each proof the memory allowed would not do.
set_option Elab.async false

variable {P : List Part} {s : State}

-- Descriptors

/-- A descriptor that completes where it is checked. -/
theorem FrameF.finish {u : State} (h : Frame P s u) {r status detail flags : Nat} (hq : [.regs, .jobs] ⊆ P := by decide) :
    FrameF P s (.ok (u.finish r status detail flags)) := .ok (h.step (State.finish_frame ..) hq)

theorem execRunPlan_frame (s) : FrameR [.attic, .regs, .regions, .links, .jobs, .resil, .out] s (execRunPlan s) :=
  State.takeDesc_frameK fun _ _ _ hu => .ite (fun _ => .finish hu) fun _ => .ite (fun _ => .finish hu) fun _ =>
    State.readHdr_frameK hu fun _ _ hv => .ite (fun _ => .finish hv) fun _ => .ite (fun _ => .finish hv) fun _ =>
      .ite (fun _ => .finish hv) fun _ => .ite (fun _ => .finish hv) fun _ => .ite (fun _ => .finish hv) fun _ =>
        .ok (.andThen (.andThen hv (State.setOut_frame ..)) (State.planTaken_frame ..))

theorem execCopy_frame (s) : FrameR [.regs, .links, .jobs, .out] s (execCopy s) := by
  refine State.takeDesc_frameK fun u r d hu => ?_
  split
  · exact .undef
  · dsimp only
    split
    · exact .undef
    · exact .ok (hu.andThen (State.enqueue_frame ..))

theorem execLoad_frame (s) : FrameR [.regs, .links, .jobs, .out] s (execLoad s) :=
  State.takeDesc_frameK fun _ _ _ hu => .andThen hu (State.enqueueTransfer_frame _ _ _)

theorem execStore_frame (s) : FrameR [.regs, .links, .jobs, .out] s (execStore s) :=
  State.takeDesc_frameK fun _ _ _ hu => .andThen hu (State.enqueueTransfer_frame _ _ _)

theorem execCairn_frame (s) : FrameR [.regs, .links, .jobs, .out] s (execCairn s) :=
  State.takeDesc_frameK fun _ _ _ hu => .ite (fun _ => .finish hu) fun _ => .ite (fun _ => .finish hu) fun _ =>
    .ok (hu.andThen (State.enqueue_frame ..))

theorem execHandoff_frame (s) : FrameR [.regs, .links, .jobs, .out] s (execHandoff s) :=
  State.takeDesc_frameK fun _ _ _ hu => .ite (fun _ => .finish hu) fun _ => .ok (hu.andThen (State.enqueue_frame ..))

theorem execFenceDescriptor_frame (s) : FrameR [.regs, .links, .jobs, .out] s (execFenceDescriptor s) :=
  State.takeDesc_frameK fun _ _ _ hu => .ok (.andThen (.andThen hu (State.setOut_frame ..)) (State.fenceCheck_frame ..))

theorem execBindStream_frame (s) : FrameR [.regs, .links, .jobs, .strm, .out] s (execBindStream s) := by
  refine State.takeDesc_frameK fun u r d hu => .ite (fun _ => .finish hu) fun _ => .ite (fun _ => .undef) fun _ => .finish ?_
  have bound {f : RingSt → RingSt} : Frame [.regs, .links, .jobs, .strm, .out] s (u.updRing r f) := hu.andThen (State.updRing_frame ..)
  exact .ite (fun _ => .withStrm bound) fun _ => bound

theorem execPolicy_frame (s) : FrameR [.regs, .links, .jobs, .out] s (execPolicy s) := by
  refine State.takeDesc_frameK fun u r d hu => ?_
  extract_lets +onlyGivenNames v on bits n
  refine .ite (fun _ => .finish hu) fun _ => ?_
  extract_lets +onlyGivenNames code s₁ s₂ s₃ s₄ s₅ s₆ s₇ s₈
  have h₁ : Frame [.regs, .links, .jobs, .out] s s₁ := hu.iteStep (State.setRegF_frame ..)
  have h₂ : Frame [.regs, .links, .jobs, .out] s s₂ := h₁.iteStep (State.setRaised_frame ..)
  have h₃ : Frame [.regs, .links, .jobs, .out] s s₃ := h₂.iteStep (State.setRegF_frame ..)
  have h₄ : Frame [.regs, .links, .jobs, .out] s s₄ := h₃.iteStep (State.setReg_frame ..)
  have h₅ : Frame [.regs, .links, .jobs, .out] s s₅ := h₄.iteStep (State.setReg_frame ..)
  have h₆ : Frame [.regs, .links, .jobs, .out] s s₆ := h₅.iteStep (State.setRegF_frame ..)
  have h₇ : Frame [.regs, .links, .jobs, .out] s s₇ := h₆.iteStep (State.setRegF_frame ..)
  exact .finish (.ite (fun _ => h₇.withJobs) fun _ => h₇)

theorem execNop_frame (s) : FrameR [.regs, .links, .jobs, .out] s (execNop s) := State.takeDesc_frameK fun _ _ _ hu => .finish hu

theorem execDescriptorTypeRefused_frame (s) : FrameR [.regs, .links, .jobs, .out] s (execDescriptorTypeRefused s) :=
  State.takeDesc_frameK fun _ _ _ hu => .finish hu

theorem execCompletionRecordWrite_frame (ring energy s) : FrameR Part.all s (execCompletionRecordWrite ring energy s) := by
  unfold execCompletionRecordWrite
  extract_lets n st
  clear_value st
  split
  · exact .next (.refl s)
  · split
    · exact .next (.refl s)
    · refine .ite (fun _ => .next (.andThen (.andThen (.widen (State.returnGrant_frame ..)) (State.internalDone_frame ..))
        (State.restartDone_frame ..))) fun _ => .ite (fun _ => .next (.refl s)) fun _ =>
          .ite (fun _ => .next (.widen (State.waitSpace_frame ..))) fun _ => ?_
      extract_lets s₁ s₂ s₃ s₄ s₅ f
      have h₁ : Frame Part.all s s₁ := .ite (fun _ => .widen (State.endStep_frame ..)) fun _ => .refl s
      have h₃ : Frame Part.all s s₃ :=
        .andThen (.andThen (h₁.andThen (State.postReplayed_frame ..)) (State.putCompletion_frame ..)) (State.returnGrant_frame ..)
      have h₅ : Frame Part.all s s₅ :=
        .andThen (.andThen (.andThen (.andThen (h₃.andThen (State.updRing_frame ..)) (State.countPlan_frame ..)) (State.shadow_frame ..))
          (State.rewindStep_frame ..)) (State.stopIfIdle_frame ..)
      have hf : FrameF Part.all s f := by
        have opened : Frame Part.all s s₅.openIdle := h₅.andThen (State.openIdle_frame ..)
        subst f
        split
        · exact .ite (fun _ => .andThen opened (State.stepBoundary_frame _ _ _)) fun _ => .ok opened
        · exact .ok h₅
      exact .flow (hf.bind fun _ hu => .ok
        (.andThen (.andThen (hu.andThen (State.fenceWakes_frame ..)) (State.restartDone_frame ..)) (State.fetchMore_frame ..)))

-- Sweeps, scrub windows, checks

theorem execSweep_frame (s) : FrameR Part.all s (execSweep s) := by
  refine State.takeDesc_frameK fun u r d hu => .ite (fun _ => .finish hu) fun _ =>
    .bind (.fold hu fun _ _ h => .andThen h (State.sweepStart_frame _ _)) fun v hv => .ok ?_
  have granted {f : Outst → Outst} : Frame Part.all s ((v.setOut r f).addGrant r) :=
    .andThen (hv.andThen (State.setOut_frame ..)) (State.addGrant_frame ..)
  exact .ite (fun _ => granted) fun _ => granted.andThen (State.finish_frame ..)

theorem execScheduledSweep_frame (s) : FrameR Part.all s (execScheduledSweep s) :=
  .ite (fun _ => .next (.refl s)) fun _ => .flow <| .bind (.fold (.refl s) fun _ _ h => .andThen h (State.sweepStart_frame _ _))
    fun _ hu => .ok (.ite (fun _ => .withResil hu) fun _ => hu)

theorem execSweepFinished_frame (r found notHot s) : FrameR Part.all s (execSweepFinished r found notHot s) := by
  refine .ite (fun _ => .next (.refl s)) fun _ => .flow (.bind (.andThen ?_ (State.sweepEnd_frame _ _)) fun u hu => ?_)
  · exact .ite (fun _ => .refl s) fun _ => .widen (State.sweepResults_frame ..)
  · split
    · exact .ok (hu.andThen (State.noteSwept_frame ..))
    · have counted {n : Nat} {f : Outst → Outst} : Frame Part.all s (u.setOut n f) := hu.andThen (State.setOut_frame ..)
      dsimp only
      split
      · exact .ok (.ite (fun _ => counted) fun _ => counted.andThen (State.finish_frame ..))
      · exact .ok counted

theorem execScrubWindow_frame (r s) : FrameR Part.all s (execScrubWindow r s) :=
  .ite (fun _ => .next (.refl s)) fun _ => .ite
    (fun _ => .flow (.bind (.widen (State.claimRegions_frame _ _)) fun _ hu => .ok (hu.andThen (State.openWindow_frame ..))))
    fun _ => .ite (fun _ => .next (.andThen (.widen (State.preemptWatch_frame ..)) (State.openWindow_frame ..))) fun _ => .next (.refl s)

theorem execCheckReplay_frame (slot s) : FrameR Part.all s (execCheckReplay slot s) := by
  unfold execCheckReplay
  split
  · exact .next (.refl s)
  · refine .ite (fun _ => .next (.refl s)) fun _ => .flow (.bind (.widen (State.checkClaims_frame _ _)) fun u hu => ?_)
    split
    next v _ e =>
    have hv : Frame Part.all s v := hu.andThen ((State.replayOn_frame ..).of_eq e)
    refine .ite (fun _ => .ok (hv.andThen (State.checkEnds_frame ..))) fun _ => ?_
    split
    · exact .ok (hv.andThen (State.setCheck_frame ..))
    · exact .ok (hv.andThen (State.arbitrate_frame ..))

theorem execThirdReplay_frame (slot s) : FrameR Part.all s (execThirdReplay slot s) := by
  unfold execThirdReplay
  split
  · exact .next (.refl s)
  · split
    · refine .ite (fun _ => .next (.refl s)) fun _ => .flow (.bind (.widen (State.checkClaims_frame _ _)) fun u hu => ?_)
      split
      next e => exact .ok (.andThen (hu.andThen ((State.replayOn_frame ..).of_eq e)) (State.arbitrate_frame ..))
    · exact .next (.widen (State.arbitrate_frame ..))
    · exact .next (.refl s)

-- Grants and steps

theorem execGrant_frame (s) : FrameR Part.all s (execGrant s) := by
  refine .ite (fun _ => .next (.refl s)) fun _ => ?_
  split
  · exact .next (.refl s)
  · split
    · exact .flow (.widen (State.grantOne_frame _ _ _))
    · exact .next (.refl s)

theorem execPitchClose_frame (s) : FrameR Part.all s (execPitchClose s) := by
  unfold execPitchClose
  split
  · exact .next (.refl s)
  · refine .ite (fun _ => .next (.refl s)) fun _ => ?_
    split
    · exact .undef
    · exact .flow <| State.readPitch_frameK (.refl s) fun _ _ hu => .ite
        (fun _ => State.readPitch_frameK hu fun _ _ hv => .andThen hv (State.closePitch_frame _ _ _ _ _))
        fun _ => .andThen hu (State.closePitch_frame _ _ _ _ _)

theorem execStepRelease_frame (s) : FrameR [.regs, .jobs, .strm] s (execStepRelease s) := by
  unfold execStepRelease
  split
  · exact .next (.refl s)
  · split
    · exact .next (.refl s)
    · refine .ite (fun _ => .next (.refl s)) fun _ => .next (.andThen (.andThen (.andThen (.withStrm ?_) (State.setOut_frame ..))
        (State.updStep_frame ..)) (State.finish_frame ..))
      exact .ite (fun _ => .refl s) fun _ => .foldl (.refl s) fun _ _ h => h.andThen (State.linkItem_frame ..)

theorem execWakeComplete_frame (r s) : FrameR Part.all s (execWakeComplete r s) := by
  refine .ite (fun _ => .next (.refl s)) fun _ => .flow (.bind ?_ fun _ hu =>
    .bind (.fold hu fun _ _ h => .andThen h (State.beginWork_frame _ _)) fun _ hv => .ok (hv.andThen (State.restartReads_frame ..)))
  have awake {f : SlabSt → SlabSt} : Frame Part.all s ((s.wakeDone r).updSlab (slabOf r) f) :=
    .andThen (.widen (State.wakeDone_frame ..)) (State.updSlab_frame ..)
  exact .ite (fun _ => .andThen awake (State.joinStep_frame _ _)) fun _ => .ok awake

-- Faults and restarts

theorem execLeaveRestart_frame (s) : FrameR [.attic, .dev, .regs, .links, .jobs, .reqs, .resil, .out] s (execLeaveRestart s) := by
  unfold execLeaveRestart
  split
  · exact .next (.refl s)
  · refine .ite (fun _ => .next (.refl s)) fun _ => ?_
    split
    · exact .next (.widen (State.leave_frame ..))
    · exact .ite (fun _ => .next (.widen (State.leave_frame ..))) fun _ => .ite (fun _ => .next (.withResil (.refl s))) fun _ =>
        .next (.withResil (.andThen (.widen (State.readImages_frame ..)) (State.pumpReqs_frame ..)))

/-- What a report in the fault intake leads to (R368). -/
theorem execFaultReport_frame (k s) : FrameR Part.all s (execFaultReport k s) := by
  have taken {x : List ReportKind} : Frame Part.all s { s with resil := { s.resil with intake := x } } := .withResil (.refl s)
  refine .ite (fun _ => .next (.refl s)) fun _ => .ite (fun _ => .next (.widen (State.report_frame ..))) fun _ =>
    .ite (fun _ => .next (.ite (fun _ => taken.andThen (State.bringReport_frame ..)) fun _ => taken)) fun _ => .next ?_
  cases k with
  | larderUE site w => exact taken.andThen (State.larderFault_frame ..)
  | cellarUE r cw => exact taken.andThen (State.cellarFault_frame ..)
  | flitUE r net => exact taken.andThen (State.regionFault_frame ..)
  | routerLoss r ctl => exact .ite (fun _ => taken.andThen (State.restart_frame ..)) fun _ => taken.andThen (State.restart_frame ..)
  | parity r => exact taken.andThen (State.regionFault_frame ..)
  | transient r => exact taken.andThen (State.regionFault_frame ..)
  | forced r c => exact taken.andThen (State.forceRetire_frame ..)
  | precursor r c => exact taken.andThen (State.planRetirement_frame ..)
  | belay p c o => exact taken.andThen (State.restart_frame ..)
  | program site imm => exact taken.andThen (State.failStep_frame ..)
  | loadList site => exact taken.andThen (State.failStep_frame ..)
  | redStall r => exact taken.andThen (State.failStep_frame ..)
  | poison site => exact taken
  | hardLarder site row => exact taken.andThen (State.todo_frame ..)
  | hardCellar r ch rank bank row => exact taken.andThen (State.todo_frame ..)
  | hardWire site port net wire ue =>
    exact .ite (fun _ => .andThen (taken.andThen (State.todo_frame ..)) (State.restart_frame ..))
      fun _ => taken.andThen (State.todo_frame ..)
  | hardArray site b row => exact taken.andThen (State.todo_frame ..)
  | badSite site =>
    exact .ite (fun _ => taken.andThen (State.todo_frame ..))
      fun _ => .andThen (taken.andThen (State.todo_frame ..)) (State.restart_frame ..)
  | refLoss => exact taken
  | trip src => exact taken.andThen (State.restart_frame ..)
  | supplyLoss => exact taken.andThen (State.restart_frame ..)

theorem execPlannedRestart_frame (s) : FrameR Part.all s (execPlannedRestart s) :=
  .ite (fun _ => .next (.refl s)) fun _ => .next (.andThen (.widen (State.beginRestart_frame ..)) (State.restartGo_frame ..))

end Sys2Proof.Machine
end

section
/-! SUPPORT. Frames of the commands of links, networks, power, clocks, heat and sleep. -/

namespace Sys2Proof.Machine

-- Elaborated in order: with a thread, and so a stack, for each proof the memory allowed would not do.
set_option Elab.async false

-- Links

theorem execLinkTraining_frame (l s) : FrameR [.regs, .links] s (execLinkTraining l s) :=
  .ite (fun _ => .next (State.startTraining_frame ..)) fun _ => .next (.refl s)

theorem execLinkRetry_frame (l s) : FrameR [.regs, .links] s (execLinkRetry l s) :=
  .ite (fun _ => .next (State.startTraining_frame ..)) fun _ => .next (.refl s)

theorem execLinkUp_frame (l full rtt lanes s) : FrameR Part.all s (execLinkUp l full rtt lanes s) :=
  .ite (fun _ => .next (.widen (State.trained_frame ..))) fun _ => .next (.refl s)

theorem execPeer_frame (l type depot format lanes peerid s) :
    FrameR [.attic, .regs, .links, .jobs, .out] s (execPeer l type depot format lanes peerid s) := by
  have peer {a b : Nat} {c : DWord} : Frame [.attic, .regs, .links, .jobs, .out] s ((s.sendPeer l).setPeer l a b c) :=
    .andThen (.widen (State.sendPeer_frame ..)) (State.setPeer_frame ..)
  exact .ite (fun _ => .next (.refl s)) fun _ => .ite (fun _ => .next (peer.andThen (State.peerFail_frame ..))) fun _ =>
    .ite (fun _ => .next (peer.andThen (State.peerFail_frame ..))) fun _ => .next peer

theorem execLinkLost_frame (l reason s) : FrameR [.attic, .regs, .links, .jobs, .reqs, .hands, .resil, .out] s (execLinkLost l reason s) :=
  .ite (fun _ => .next (.widen (State.linkDown_frame ..))) fun _ => .ite (fun _ => .next (.widen (State.trainFail_frame ..))) fun _ =>
    .ite (fun _ => .next (.widen (State.updLnk_frame ..))) fun _ => .next (.refl s)

theorem execLaneFailure_frame (l physical s) : FrameR [.regs, .links, .out] s (execLaneFailure l physical s) := by
  have marked : Frame [.regs, .links, .out] s (s.markLane l 0 physical.toNat) := .widen (State.markLane_frame ..)
  refine .ite (fun _ => .next (.refl s)) fun _ => ?_
  split
  · exact .next (.andThen (marked.andThen (State.updLnk_frame ..)) (State.showLanes_frame ..))
  · exact .next (.andThen (.andThen (marked.andThen (State.onLine_frame ..)) (State.updLnk_frame ..)) (State.showLanes_frame ..))

theorem execLswap_frame (l logical physical group s) :
    FrameR [.attic, .regs, .links, .jobs, .reqs, .hands, .resil, .out] s (execLswap l logical physical group s) :=
  .ite (fun _ => .next (.refl s)) fun _ => .next (.andThen (.widen (State.updLnk_frame ..)) (State.dueSwaps_frame ..))

theorem execCredit_frame (l ack sync control bulk strm s) : FrameR [.links, .out] s (execCredit l ack sync control bulk strm s) :=
  .ite (fun _ => .next (.refl s)) fun _ => .next (.andThen (.widen (State.updLnk_frame ..)) (State.drainLink_frame ..))

theorem execCreditDue_frame (l s) : FrameR [.links, .out] s (execCreditDue l s) :=
  .next (.ite (fun _ => State.sendCredit_frame ..) fun _ => .refl s)

theorem execNak_frame (l group s) : FrameR [.attic, .regs, .links, .jobs, .reqs, .hands, .resil, .out] s (execNak l group s) :=
  .ite (fun _ => .next (.refl s)) fun _ => .ite (fun _ => .next (.widen (State.linkDown_frame ..))) fun _ =>
    .next (.andThen (.andThen (.widen (State.count_frame ..)) (State.updLnk_frame ..)) (State.replayFrom_frame ..))

theorem execUncorrectableCodeword_frame (l group crc s) : FrameR [.regs, .links, .out] s (execUncorrectableCodeword l group crc s) :=
  .ite (fun _ => .next (.refl s)) fun _ => .next
    (.andThen (.andThen (.andThen (.widen (State.count_frame ..)) (State.rxFrom_frame ..)) (State.updLnk_frame ..)) (State.onLine_frame ..))

theorem execResync_frame (l group s) : FrameR [.links] s (execResync l group s) :=
  .ite (fun _ => .next (.andThen (.widen (State.rxFrom_frame ..)) (State.updLnk_frame ..))) fun _ => .next (.refl s)

theorem execAlign_frame (l logical group physical s) : FrameR [.links] s (execAlign l logical group physical s) := by
  have aligned {f : LinkSt → LinkSt} : Frame [.links] s (s.updLnk l f) := .widen (State.updLnk_frame ..)
  exact .ite (fun _ => .next (.refl s)) fun _ => .next (.ite (fun _ => aligned.andThen (State.rxFrom_frame ..)) fun _ => aligned)

theorem execAlignmentGroup_frame (l s) : FrameR [.out] s (execAlignmentGroup l s) :=
  .ite (fun _ => .next (.foldl (.refl s) fun _ _ h => h.andThen (State.emit_frame ..))) fun _ => .next (.refl s)

-- Networks

theorem execReductionStall_frame (r s) : FrameR [.regs, .resil] s (execReductionStall r s) :=
  .ite (fun _ => .next (.refl s)) fun _ => .next (.andThen (.widen (State.count_frame ..)) (State.report_frame ..))

theorem execNetworkFlitError_frame (c net port wire uncorrectable s) :
    FrameR [.attic, .regs, .regions, .resil] s (execNetworkFlitError c net port wire uncorrectable s) := by
  have counted {a b n : Nat} {f : RegionSt → RegionSt} : Frame [.attic, .regs, .regions, .resil] s
      (((s.count a 0 16 1).setRegF a 16 2 b).updRg n f) :=
    .andThen (.andThen (.widen (State.count_frame ..)) (State.setRegF_frame ..)) (State.updRg_frame ..)
  exact .ite (fun _ => .next (.refl s)) fun _ => .ite
    (fun _ => .next (.andThen (counted.andThen (State.hardWireAt_frame ..)) (State.report_frame ..)))
    fun _ => .next (.ite (fun _ => counted.andThen (State.hardWireAt_frame ..)) fun _ => counted)

theorem execRouterDomainLoss_frame (r ctl s) :
    FrameR [.regs, .regions, .sync, .resil] s (execRouterDomainLoss r ctl s) := .next (State.loseDomain_frame ..)

theorem execQuiesceTimeout_frame (r s) : FrameR Part.all s (execQuiesceTimeout r s) :=
  .ite (fun _ => .next (.refl s)) fun _ => .next (.andThen (.widen (State.updRg_frame ..)) (State.restartGo_frame ..))

-- Supply

theorem execSupplyLow_frame (v48 s) : FrameR Part.all s (execSupplyLow v48 s) := by
  have read {d : Dev} : Frame Part.all s ({ s with dev := d }.setV48 v48) := .andThen (.withDev (.refl s)) (State.setV48_frame ..)
  exact .ite (fun _ => .next (.refl s)) fun _ => .ite (fun _ => .next read) fun _ => .next <|
    .ite (fun _ => .andThen (read.andThen (State.post_frame ..)) (State.bringupStops_frame ..)) fun _ => read.andThen (State.post_frame ..)

theorem execSupplyLost_frame (above s) : FrameR Part.all s (execSupplyLost above s) := by
  unfold execSupplyLost
  extract_lets +onlyGivenNames v dev s₁ s₂
  have h₁ : Frame Part.all s s₁ := .withDev (.refl s)
  have h₂ : Frame Part.all s s₂ := .ite (fun _ => h₁) fun _ => .andThen (h₁.andThen (State.useFree_frame ..)) (State.setV48_frame ..)
  exact .ite (fun _ => .next (.andThen (.withDev (.andThen (.andThen (h₂.andThen (State.post_frame ..)) (State.alert_frame ..))
      (State.beginRestart_frame ..))) (State.dropRails_frame _)))
    fun _ => .ite (fun _ => .next (h₂.andThen (State.bringupStops_frame ..))) fun _ => .next h₂

theorem execSupplyRestored_frame (v48 s) : FrameR [.attic, .dev, .regs, .regions, .jobs, .resil] s (execSupplyRestored v48 s) := by
  have on {d : Dev} : Frame [.attic, .dev, .regs, .regions, .jobs, .resil] s { s with dev := d } := .withDev (.refl s)
  refine .ite (fun _ => .next (.refl s)) fun _ => .ite (fun _ => .next on) fun _ => ?_
  dsimp only
  split
  · exact .next (.withDev (.andThen (.andThen (on.andThen (State.setV48_frame ..)) (State.post_frame ..)) (State.newBringup_frame ..)))
  · exact .next (on.andThen (State.setV48_frame ..))

theorem execStandbyLost_frame (v12 s) : FrameR Part.all s (execStandbyLost v12 s) := by
  unfold execStandbyLost
  extract_lets +onlyGivenNames v dev s₁
  have h₁ : Frame Part.all s s₁ := .withDev (.refl s)
  have h₂ : Frame Part.all s (s₁.setV12 v12) := h₁.andThen (State.setV12_frame ..)
  exact .ite (fun _ => .next h₁) fun _ => .ite (fun _ => .next h₂) fun _ => .ite
    (fun _ => .next (.andThen (.andThen h₂.withDev (State.post_frame ..)) (State.alert_frame ..)))
    fun _ => .next (h₂.andThen (State.deviceOff_frame _))

theorem execStandbyRestored_frame (v12 s) : FrameR [.attic, .dev, .regs, .jobs] s (execStandbyRestored v12 s) := by
  have on {d : Dev} : Frame [.attic, .dev, .regs, .jobs] s { s with dev := d } := .withDev (.refl s)
  have read {d : Dev} : Frame [.attic, .dev, .regs, .jobs] s ({ s with dev := d }.setV12 v12) := on.andThen (State.setV12_frame ..)
  exact .ite (fun _ => .next (.refl s)) fun _ => .ite (fun _ => .next read) fun _ => .ite
    (fun _ => .next (.andThen (.withDev read) (State.post_frame ..))) fun _ => .next read

theorem execPhaseLost_frame (r ph s) : FrameR Part.all s (execPhaseLost r ph s) := by
  have lost {p : Tab Nat} {m : Nat} {d : List (Nat × Nat)} : Frame Part.all s
      (({ s with attic := { s.attic with phases := p } }.setPhases r m).post 0x0408 (srcRegion r) d) :=
    .andThen (.andThen (.withAttic (.refl s)) (State.setPhases_frame ..)) (State.post_frame ..)
  refine .ite (fun _ => .next (.refl s)) fun _ => .ite (fun _ => .next lost) fun _ =>
    .ite (fun _ => .next (lost.andThen (State.preventCause_frame ..))) fun _ => ?_
  exact .next (.ite (fun _ => .andThen (.andThen (.andThen (lost.andThen (State.openSwitches_frame ..)) (State.forceCause_frame ..))
    (State.loseDomain_frame ..)) (State.loseDomain_frame ..)) fun _ =>
      .andThen (lost.andThen (State.openSwitches_frame ..)) (State.forceCause_frame ..))

theorem execRegionShort_frame (r ns persists s) : FrameR Part.all s (execRegionShort r ns persists s) := by
  refine .ite (fun _ => .next (.refl s)) fun _ => ?_
  extract_lets +onlyGivenNames s₁ s₂
  have h₂ : Frame Part.all s s₂ := .andThen (.andThen (.andThen (.widen (State.openSwitches_frame ..)) (State.setRegF_frame ..))
    (State.post_frame ..)) (State.forceCause_frame ..)
  exact .next (.ite (fun _ => .andThen (.andThen (.andThen h₂.withAttic (State.setPhases_frame ..)) (State.loseDomain_frame ..))
    (State.loseDomain_frame ..)) fun _ => h₂)

theorem execCrackSuspect_frame (r group excessUv s) :
    FrameR [.attic, .regs, .jobs, .resil, .freeCtr] s (execCrackSuspect r group excessUv s) := by
  have noted {b : Tab Word} : Frame [.attic, .regs, .jobs, .resil, .freeCtr] s { s with attic :=
    { s.attic with bump := b } } := .withAttic (.refl s)
  refine .ite (fun _ => .next (.refl s)) fun _ => .ite
    (fun _ => .ite (fun _ => .next (.refl s)) fun _ => .next (.withAttic (.refl s))) fun _ => .next ?_
  exact .ite (fun _ => .andThen (noted.andThen (State.setIlim_frame ..)) (State.post_frame ..)) fun _ =>
    .andThen (.andThen (noted.andThen (State.setIlim_frame ..)) (State.post_frame ..)) (State.report_frame ..)

theorem execConverterPhase_frame (sl ph s) : FrameR Part.all s (execConverterPhase sl ph s) := by
  have lost {p : Tab Nat} {m : Nat} {d : List (Nat × Nat)} : Frame Part.all s
      (({ s with attic := { s.attic with convPhases := p } }.setRegF (Reg.SLB_CONV sl) 0 8 m).post 0x0106 (srcSlab sl) d) :=
    .andThen (.andThen (.withAttic (.refl s)) (State.setRegF_frame ..)) (State.post_frame ..)
  exact .ite (fun _ => .next (.refl s)) fun _ => .next (.ite (fun _ => lost.andThen (State.darkenSlab_frame ..)) fun _ => lost)

theorem execConverterLost_frame (sl s) : FrameR Part.all s (execConverterLost sl s) :=
  .next (.ite (fun _ => State.darkenSlab_frame ..) fun _ => .refl s)

-- Governors

theorem execModuleGovernorInterval_frame (pin pcore mvcore s) :
    FrameR [.attic, .dev, .clk, .regs, .slabs, .jobs, .freeCtr] s (execModuleGovernorInterval pin pcore mvcore s) := by
  unfold execModuleGovernorInterval
  extract_lets +onlyGivenNames u dev s₁
  have h₁ : Frame [.attic, .dev, .clk, .regs, .slabs, .jobs, .freeCtr] s s₁ := .ite (fun _ => .refl s) fun _ =>
    .andThen (.andThen (.withDev (.widen (State.useFree_frame ..))) (State.setRegF_frame ..)) (State.setRegF_frame ..)
  refine .ite (fun _ => .next (h₁.andThen (State.setRegF_frame ..))) fun _ => ?_
  extract_lets +onlyGivenNames t s₂ binding s₃ s₄ early
  have h₂ : Frame [.attic, .dev, .clk, .regs, .slabs, .jobs, .freeCtr] s s₂ := .foldl h₁ fun _ _ h =>
    .andThen (.andThen (h.andThen (State.useFree_frame ..)) (State.setRegF_frame ..)) (State.updSlab_frame ..)
  have h₄ : Frame [.attic, .dev, .clk, .regs, .slabs, .jobs, .freeCtr] s s₄ :=
    .andThen (.foldl h₂ fun _ _ h => h.andThen (State.updSlab_frame ..)) (State.setRegF_frame ..)
  exact .ite (fun _ => .next h₄) fun _ => .next (.andThen h₄.withClk (State.post_frame ..))

theorem execSlabGovernorInterval_frame (sl amps s) : FrameR [.regs, .regions, .slabs] s (execSlabGovernorInterval sl amps s) := by
  refine .ite (fun _ => .next (.refl s)) fun _ => ?_
  extract_lets +onlyGivenNames a s₁ all s₂ s₃ s₄
  have h₃ : Frame [.regs, .regions, .slabs] s s₃ :=
    .andThen (.andThen (.andThen (.foldl (.refl s) fun _ _ h => h.andThen (State.setRegF_frame ..))
    (State.setRegF_frame ..)) (State.updSlab_frame ..)) (State.lapse_frame ..)
  have h₄ : Frame [.regs, .regions, .slabs] s s₄ := .ite (fun _ => h₃) fun _ =>
    .foldl (h₃.andThen (State.retryWaves_frame ..)) fun _ _ h => h.andThen (State.admitWake_frame ..)
  exact .next (h₄.andThen (State.slabRates_frame ..))

-- Heat

theorem execThermalCeilingLower_frame (sl temps s) : FrameR [.attic, .regs, .regions, .jobs] s (execThermalCeilingLower sl temps s) := by
  refine .ite (fun _ => .next (.refl s)) fun _ => ?_
  extract_lets +onlyGivenNames s₁
  have h₁ : Frame [.attic, .regs, .regions, .jobs] s s₁ :=
    .foldl (.refl s) fun _ _ h => .elim h fun _ => h.andThen (State.readTemp_frame ..)
  exact .next (.elim h₁ fun _ => h₁.andThen (State.lowerThermal_frame ..))

theorem execThermalCeilingRaise_frame (r temp s) : FrameR [.attic, .regs, .jobs] s (execThermalCeilingRaise r temp s) := by
  have read : Frame [.attic, .regs, .jobs] s (s.readTemp r temp.toNat) := .widen (State.readTemp_frame ..)
  exact .ite (fun _ => .next (.refl s)) fun _ => .ite (fun _ => .next read) fun _ => .next <|
    .ite (fun _ => .andThen (read.andThen (State.setRegF_frame ..)) (State.post_frame ..)) fun _ => read.andThen (State.setRegF_frame ..)

theorem execStackHot_frame (sl f temp s) : FrameR [.attic, .regs, .regions, .slabs, .jobs] s (execStackHot sl f temp s) := by
  refine .ite (fun _ => .next (.refl s)) fun _ => ?_
  extract_lets +onlyGivenNames t s₁ was hot s₂ s₃
  have h₂ : Frame [.attic, .regs, .regions, .slabs, .jobs] s s₂ := .andThen (.widen (State.setRegF_frame ..)) (State.updSlab_frame ..)
  have h₃ : Frame [.attic, .regs, .regions, .slabs, .jobs] s s₃ := .ite (fun _ => h₂.andThen (State.post_frame ..)) fun _ => h₂
  exact .next (.ite (fun _ => .foldl h₃ fun _ _ h => h.andThen (State.lowerThermal_frame ..)) fun _ => h₃)

theorem execThermalTrip_frame (src temp s) : FrameR [.attic, .dev, .regs, .regions, .jobs, .resil] s (execThermalTrip src temp s) := by
  have opened {u : State} (hu : Frame [.attic, .dev, .regs, .regions, .jobs, .resil] s u) :
      Frame [.attic, .dev, .regs, .regions, .jobs, .resil] s ((List.range 192).foldl (fun s r =>
        let s := s.openSwitches r
        if s.regF (Reg.RGN_CELSTATE r) 0 2 = 0 then s else s.setRegF (Reg.RGN_CELSTATE r) 0 2 2) u) :=
    .foldl hu fun _ _ h => .ite (fun _ => h.andThen (State.openSwitches_frame ..)) fun _ =>
      .andThen (h.andThen (State.openSwitches_frame ..)) (State.setRegF_frame ..)
  refine .ite (fun _ => .next (.refl s)) fun _ => ?_
  cases src with
  | junction r =>
    have read : Frame [.attic, .dev, .regs, .regions, .jobs, .resil] s (s.readTemp r temp.toNat) := .widen (State.readTemp_frame ..)
    exact .ite (fun _ => .next read) fun _ => .next (.andThen (.andThen (.andThen (.andThen (.withDev (opened read))
      (State.setReg_frame ..)) (State.post_frame ..)) (State.alert_frame ..)) (State.report_frame ..))
  | stack sl f =>
    have read : Frame [.attic, .dev, .regs, .regions, .jobs, .resil] s (s.setRegF (Reg.SLB_STACKT sl) (8 * f.toNat) 8 temp.toNat) :=
      .widen (State.setRegF_frame ..)
    exact .ite (fun _ => .next read) fun _ => .next (.andThen (.andThen (.andThen (.andThen (.withDev (opened read))
      (State.setReg_frame ..)) (State.post_frame ..)) (State.alert_frame ..)) (State.report_frame ..))

theorem execTripRelease_frame (maxTemp s) : FrameR Part.all s (execTripRelease maxTemp s) :=
  .ite (fun _ => .next (.refl s)) fun _ => .next (.andThen (.withDev (.refl s)) (State.restartGo_frame ..))

theorem execCoolantRange_frame (inlet s) : FrameR [.attic, .dev, .regs, .jobs] s (execCoolantRange inlet s) := by
  have read {d : Dev} : Frame [.attic, .dev, .regs, .jobs] s ({ s with dev := d }.setRegF Reg.GLB_COOLANT 0 16 inlet.toNat) :=
    .andThen (.withDev (.refl s)) (State.setRegF_frame ..)
  exact .ite (fun _ => .next (.refl s)) fun _ => .next (.ite (fun _ => read.andThen (State.post_frame ..)) fun _ => read)

-- Clocks and the reference

theorem execTimeSlewStep_frame (s) : FrameR [.clk] s (execTimeSlewStep s) :=
  .ite (fun _ => .next (.withClk (.refl s))) fun _ => .ite (fun _ => .next (.withClk (.refl s))) fun _ => .next (.refl s)

theorem execTimePacket_frame (p lo hi s) : FrameR [.clk, .links] s (execTimePacket p lo hi s) :=
  .ite (fun _ => .next (.refl s)) fun _ => .next (.withClk (.widen (State.received_frame ..)))

theorem execTimeinEdge_frame (s) :
    FrameR Part.all s (execTimeinEdge s) := .next (.ite (fun _ => .refl s) fun _ => .widen (State.pulse_frame ..))

theorem execRefLost_frame (outOfRange s) : FrameR [.attic, .dev, .clk, .regs, .jobs, .resil] s (execRefLost outOfRange s) := by
  refine .ite (fun _ => .next (.refl s)) fun _ => ?_
  extract_lets +onlyGivenNames s₁ dev clk s₂ s₃
  have h₂ : Frame [.attic, .dev, .clk, .regs, .jobs, .resil] s s₂ := .upd (.widen (State.count_frame ..)) rfl
  have h₃ : Frame [.attic, .dev, .clk, .regs, .jobs, .resil] s s₃ := .foldl h₂ fun _ _ h => by
    extract_lets +onlyGivenNames y
    have hy : Frame [.attic, .dev, .clk, .regs, .jobs, .resil] s y := .ite (fun _ => h.andThen (State.setRegF_frame ..)) fun _ => h
    exact .ite (fun _ => .andThen (hy.andThen (State.setRegF_frame ..)) (State.shortStop_frame ..)) fun _ => hy
  exact .next (.andThen (.andThen (h₃.andThen (State.report_frame ..)) (State.post_frame ..)) (State.alert_frame ..))

theorem execRefclkValid_frame (s) : FrameR [.attic, .dev, .clk, .regs, .jobs] s (execRefclkValid s) := by
  refine .ite (fun _ => .next (.refl s)) fun _ => ?_
  extract_lets +onlyGivenNames dev clk s₁ hold clk' s₂ s₃
  have h₁ : Frame [.attic, .dev, .clk, .regs, .jobs] s s₁ := .upd (.refl s) rfl
  have h₂ : Frame [.attic, .dev, .clk, .regs, .jobs] s s₂ := h₁.withClk
  have h₃ : Frame [.attic, .dev, .clk, .regs, .jobs] s s₃ := .foldl h₂ fun _ _ h => h.andThen (State.switchBack_frame ..)
  exact .ite (fun _ => .next (.ite (fun _ => h₃) fun _ => h₃.andThen (State.clearDrift_frame ..))) fun _ =>
    .next (h₃.andThen (State.refRestored_frame ..))

theorem execDroopStretch_frame (r s) : FrameR [.attic, .regs, .regions, .jobs] s (execDroopStretch r s) :=
  .ite (fun _ => .next (.refl s)) fun _ =>
    .next (.andThen (.andThen (.widen (State.count_frame ..)) (State.updRg_frame ..)) (State.walkStalls_frame ..))

theorem execStretchRepayment_frame (r s) : FrameR [.attic, .regs, .regions, .jobs] s (execStretchRepayment r s) :=
  .ite (fun _ => .next (.andThen (.widen (State.updRg_frame ..)) (State.walkStalls_frame ..))) fun _ => .next (.refl s)

-- Sleep

theorem execWakeRequest_frame (r why s) : FrameR [.regions] s (execWakeRequest r why s) :=
  .ite (fun _ => .next (.refl s)) fun _ => .next (State.updRg_frame ..)

theorem execRegionIdleEntry_frame (r s) : FrameR [.regs] s (execRegionIdleEntry r s) :=
  .ite (fun _ => .next (State.setRstate_frame ..)) fun _ => .next (.refl s)

theorem execBivouacEntry_frame (r s) : FrameR [.regs, .regions] s (execBivouacEntry r s) :=
  .ite (fun _ => .next (.refl s)) fun _ => .next (State.toBivouac_frame ..)

theorem execDarkAfter_frame (r s) : FrameR [.regs, .larder, .larErr, .clusters, .regions, .strm] s (execDarkAfter r s) :=
  .ite (fun _ => .next (State.toDark_frame ..)) fun _ => .next (.refl s)

end Sys2Proof.Machine
end

section
/-! SUPPORT. Frames of the watch units, the host's accesses, bring-up, the mailbox and the sideband. -/

namespace Sys2Proof.Machine

-- Elaborated in order: with a thread, and so a stack, for each proof the memory allowed would not do.
set_option Elab.async false

-- Watch units

theorem execWatchStart_frame (u s) : FrameR [.regs] s (execWatchStart u s) := .next (State.watchBegin_frame ..)

theorem execWatchEnd_frame (u s) : FrameR [.regs] s (execWatchEnd u s) :=
  .ite (fun _ => .next (State.setWatchState_frame ..)) fun _ => .next (.refl s)

theorem execWatchSample_frame (u v s) : FrameR [.regs, .mgmt] s (execWatchSample u v s) :=
  .next (.ite (fun _ => .widen (State.watchBegin_frame ..)) fun _ => .widen (State.watchTake_frame ..))

-- The host's reads and writes

theorem State.answer_frame (s : State) (p tid st off : Nat) (d : List Byte) (last : Bool) :
    Frame [.links, .out] s (s.answer p tid st off d last) := State.send_frame ..

theorem execMrd_frame (p addr bytes tid s) : FrameR Part.all s (execMrd p addr bytes tid s) := by
  refine .ite (fun _ => .next (.refl s)) fun _ => ?_
  extract_lets +onlyGivenNames s₁ a n t
  have h₁ : Frame Part.all s s₁ := .widen (State.received_frame ..)
  split
  · exact .ite (fun _ => .next (h₁.andThen (State.readAperture_frame ..))) fun _ => .next (h₁.andThen (State.readBlock_frame ..))
  · exact .next (h₁.andThen (State.answer_frame ..))
  · exact .next (h₁.andThen (State.answer_frame ..))

theorem execMwr_frame (p addr data s) : FrameR Part.all s (execMwr p addr data s) := by
  have h₁ : Frame Part.all s (s.received (portLink p) 2 data.length) := .widen (State.received_frame ..)
  exact .ite (fun _ => .next (.refl s)) fun _ => .ite (fun _ => .next h₁) fun _ =>
    .ite (fun _ => .andThen h₁ (State.writeAperture_frame _ _ _ _)) fun _ => .andThen h₁ (State.writeWords_frame _ _ _ _ _)

theorem execRegisterWrite_frame (p addr v s) : FrameR Part.all s (execRegisterWrite p addr v s) :=
  .ite (fun _ => .next (.refl s)) fun _ => State.writeWord_frame _ _ _ _

theorem execRcRead_frame (p addr tid s) : FrameR [.regs, .latches, .conflicts, .links, .out, .freeCtr] s (execRcRead p addr tid s) :=
  .ite (fun _ => .next (.refl s)) fun _ => .next (State.readOne_frame ..)

theorem execLatchingLoRead_frame (p addr tid s) :
    FrameR [.regs, .latches, .conflicts, .links, .out, .freeCtr] s (execLatchingLoRead p addr tid s) :=
  .ite (fun _ => .next (.refl s)) fun _ => .next (State.readOne_frame ..)

theorem execHostAccessTimeout_frame (p tid bytes s) : FrameR [.links, .out] s (execHostAccessTimeout p tid bytes s) :=
  .ite (fun _ => .next (.refl s)) fun _ => .next (State.answer_frame ..)

-- Bring-up

theorem execAonUp_frame (us ok ports s) : FrameR Part.all s (execAonUp us ok ports s) := by
  have strapped {d : Dev} : Frame Part.all s { s.useFree with dev := d } := .withDev (.widen (State.useFree_frame ..))
  refine .ite (fun _ => .next (.refl s)) fun _ => .ite (fun _ => .next
    (.andThen (.andThen (strapped.andThen (State.stageReport_frame ..)) (State.alert_frame ..)) (State.goStage_frame ..))) fun _ => .next ?_
  exact .andThen (.andThen (.andThen (.andThen (.upd strapped rfl) (State.useFree_frame ..)) (State.readSettings_frame ..))
    (State.bringLinks_frame ..)) (State.stageReport_frame ..)

theorem execFwVerified_frame (us s) : FrameR [.attic, .dev, .regs, .jobs, .mgmt] s (execFwVerified us s) := by
  refine .ite (fun _ => .next (.refl s)) fun _ => ?_
  dsimp only
  split
  · exact .next (.upd (.andThen (.andThen (.widen (State.stageReport_frame ..)) (State.alert_frame ..)) (State.goStage_frame ..)) rfl)
  · exact .next (.upd (.widen (State.stageReport_frame ..)) rfl)

theorem execRailsUp_frame (us found maxTemp s) : FrameR Part.all s (execRailsUp us found maxTemp s) := by
  refine .ite (fun _ => .next (.refl s)) fun _ => ?_
  extract_lets +onlyGivenNames starts dev s₁ s₂
  have h₂ : Frame Part.all s s₂ := .andThen (.withDev (.refl s)) (State.readSettings_frame ..)
  split
  · exact .next (h₂.andThen (State.stageFail_frame ..))
  · exact .next <| .andThen (.andThen (.withDev (.foldl (.foldl (.foldl h₂ fun _ _ h => h.andThen (State.slabStart_frame ..))
      fun _ _ h => h.andThen (State.slabMissing_frame ..)) fun _ _ h => h.andThen (State.regulatorFails_frame ..)))
        (State.slabPools_frame ..)) (State.stageDone_frame ..)

theorem execFusesRead_frame (us ok s) : FrameR Part.all s (execFusesRead us ok s) :=
  .ite (fun _ => .next (.refl s)) fun _ => .ite (fun _ => .next (.widen (State.stageFail_frame ..))) fun _ =>
    .next (.andThen (.withDev (.refl s)) (State.stageDone_frame ..))

theorem execClocksLocked_frame (us found s) : FrameR Part.all s (execClocksLocked us found s) := by
  refine .ite (fun _ => .next (.refl s)) fun _ => .ite (fun _ => .next (.widen (State.stageFail_frame ..))) fun _ =>
    .ite (fun _ => .next (.refl s)) fun _ => ?_
  extract_lets +onlyGivenNames s₁ s₂
  have h₁ : Frame Part.all s s₁ := .foldl (.refl s) fun _ _ h => by
    extract_lets +onlyGivenNames y
    have hy : Frame Part.all s y := .ite (fun _ => h) fun _ => h.andThen (State.updRg_frame ..)
    exact .ite (fun _ => hy.andThen (State.setRegF_frame ..)) fun _ => hy
  have h₂ : Frame Part.all s s₂ := .foldl h₁ fun _ _ h => h.andThen (State.pllFails_frame ..)
  exact .next (.andThen h₂.withClk (State.stageDone_frame ..))

theorem execSeamsTrained_frame (us found s) : FrameR Part.all s (execSeamsTrained us found s) := by
  refine .ite (fun _ => .next (.refl s)) fun _ => ?_
  extract_lets +onlyGivenNames y full s₁ s₂
  have h₂ : Frame Part.all s s₂ := .foldl (.foldl (.refl s) fun _ _ h => h.andThen (State.applyFound_frame ..))
    fun _ _ h => .ite (fun _ => h.andThen (State.setRegF_frame ..)) fun _ => h
  have saved {x : Settings} : Frame Part.all s (s₂.useFree.saveSettings x) :=
    .andThen (h₂.andThen (State.useFree_frame ..)) (State.saveSettings_frame ..)
  exact .next (.andThen (.ite (fun _ => saved) fun _ => .ite (fun _ => h₂) fun _ => saved) (State.stageDone_frame ..))

theorem execCellarTrained_frame (us found s) :
    FrameR [.attic, .dev, .regs, .regions, .jobs, .resil, .freeCtr] s (execCellarTrained us found s) := by
  refine .ite (fun _ => .next (.refl s)) fun _ => ?_
  extract_lets +onlyGivenNames ready full temp record t₁ t₂
  have h₂ : Frame [.attic, .dev, .regs, .regions, .jobs, .resil, .freeCtr] s t₂ :=
    .foldl (.foldl (.refl s) fun _ _ h => h.andThen (State.retireFound_frame ..)) fun _ _ h =>
    .andThen (.andThen (h.andThen (State.setRegF_frame ..)) (State.setRegF_frame ..)) (State.updRg_frame ..)
  exact .next (.andThen (.ite (fun _ => .andThen (h₂.andThen (State.useFree_frame ..)) (State.saveSettings_frame ..)) fun _ => h₂)
    (State.stageDone_frame ..))

theorem execLarderChecked_frame (us badRows s) : FrameR Part.all s (execLarderChecked us badRows s) :=
  .ite (fun _ => .next (.refl s)) fun _ => .next <|
    .andThen (.andThen (.foldl (.refl s) fun _ _ h => h.andThen (State.applyFound_frame ..)) (State.postConflicts_frame ..))
      (State.stageDone_frame ..)

theorem execGridBuilt_frame (us s) : FrameR Part.all s (execGridBuilt us s) := by
  refine .ite (fun _ => .next (.refl s)) fun _ => ?_
  extract_lets +onlyGivenNames a t new unit
  have h : Frame Part.all s t := .andThen (.foldl (.widen (State.applyTodo_frame ..)) fun _ _ h => h.andThen (State.retireFound_frame ..))
    (State.bringGrid_frame ..)
  split
  · exact .next (h.andThen (State.stageDone_frame ..))
  · exact .next (h.andThen (State.stageFail_frame ..))

theorem execKnownAnswer_frame (us first later links streamOk cryptoOk s) :
    FrameR Part.all s (execKnownAnswer us first later links streamOk cryptoOk s) := by
  refine .ite (fun _ => .next (.refl s)) fun _ => ?_
  split
  next t enough unit e =>
  have ht : Frame Part.all s t := .widen ((State.kaRounds_frame ..).of_eq e)
  have marked {a : Attic} {d : Dev} (ha : a.log = t.attic.log) : Frame Part.all s { t with attic := a, dev := d } :=
    (ht.withAttic ha).withDev
  exact .ite (fun _ => .next (.andThen (marked (by rfl)) (State.stageFail_frame ..))) fun _ =>
    .ite (fun _ => .next (.andThen (marked (by rfl)) (State.stageFail_frame ..))) fun _ =>
      .next (.andThen (marked (by rfl)) (State.stageDone_frame ..))

theorem execLinksTrained_frame (us outcomes s) : FrameR Part.all s (execLinksTrained us outcomes s) :=
  .ite (fun _ => .next (.refl s)) fun _ => .next <|
    .andThen (.andThen (.foldl (.refl s) fun _ _ h => h.andThen (State.setLinkState_frame ..)) (State.bringLinks_frame ..))
      (State.stageDone_frame ..)

/-- The one command that blows fuses: the counter rises to the version that runs, when that version asks for it (R451). -/
theorem execReady_frame (us s) : FrameR Part.all s (execReady us s) := by
  refine .ite (fun _ => .next (.refl s)) fun _ => ?_
  extract_lets +onlyGivenNames total s₁ s₂ lost pending
  have h₂ : Frame Part.all s s₂ := .andThen (.widen (State.stageReport_frame ..)) (State.setReg_frame ..)
  have blown {k : Nat} {a : Attic} {d : Dev} (hk : s₂.fuses.k ≤ k) (ha : a.log = s₂.attic.log) :
      Frame Part.all s { s₂ with attic := a, fuses := { s₂.fuses with k := k }, dev := d } := ((h₂.withCounter hk).withAttic ha).withDev
  have rises : s₂.fuses.k ≤ if s₂.mgmt.commitFlag then max s₂.fuses.k s₂.mgmt.svn else s₂.fuses.k := by split <;> omega
  exact .next (.ite (fun _ => .andThen (.iteStep (blown rises (by rfl)) (State.alert_frame ..)) (State.restartGo_frame ..))
    fun _ => .andThen (.iteStep (blown rises (by rfl)) (State.alert_frame ..)) (State.slabPools_frame ..))

theorem execAutoretry_frame (s) : FrameR [.dev] s (execAutoretry s) :=
  .ite (fun _ => .next (.withDev (.refl s))) fun _ => .next (.refl s)

-- The mailbox

theorem execGetIdentity_frame (p tid s) : FrameR [.regs, .links, .out] s (execGetIdentity p tid s) :=
  State.mailbox_frameK fun _ hu => hu.andThen (State.mgtReply_frame ..)

theorem execAttest_frame (p tid nonce s) : FrameR [.regs, .links, .out] s (execAttest p tid nonce s) :=
  State.mailbox_frameK fun _ hu => .ite (fun _ => hu.andThen (State.mgtReply_frame ..)) fun _ => hu.andThen (State.mgtReply_frame ..)

theorem execFwWrite_frame (p tid addr data s) : FrameR [.regs, .links, .mgmt, .out] s (execFwWrite p tid addr data s) :=
  State.mailbox_frameK fun _ hu => .ite (fun _ => hu.andThen (State.mgtReply_frame ..)) fun _ =>
    .andThen (.withMgmt (hu.andThen (State.mbHold_frame ..))) (State.mgtReply_frame ..)

theorem execFwCommit_frame (p tid s) : FrameR [.dev, .regs, .links, .mgmt, .out, .freeCtr] s (execFwCommit p tid s) := by
  refine State.mailbox_frameK fun u hu => ?_
  have emptied {m : Mgmt} : Frame [.dev, .regs, .links, .mgmt, .out, .freeCtr] s { u with mgmt := m } := hu.withMgmt
  dsimp only
  split
  · exact .andThen (emptied.andThen (State.mbFree_frame ..)) (State.mgtReply_frame ..)
  · exact .withDev (.andThen (emptied.andThen (State.mbHold_frame ..)) (State.useFree_frame ..))

theorem execFwActivate_frame (p tid s) : FrameR Part.all s (execFwActivate p tid s) := by
  refine State.mailbox_frameK fun u hu => .ite (fun _ => hu.andThen (State.mgtReply_frame ..)) fun _ => ?_
  extract_lets +onlyGivenNames u₁ u₂
  have h₁ : Frame Part.all s u₁ := hu.andThen (State.mgtReply_frame ..)
  have h₂ : Frame Part.all s u₂ := .ite (fun _ => h₁.andThen (State.dropRails_frame _)) fun _ => h₁
  exact .ite (fun _ => h₂) fun _ => .withDev (h₂.andThen (State.newBringup_frame ..))

theorem execLogRead_frame (p tid addr bytes s) : FrameR [.regs, .links, .out, .freeCtr] s (execLogRead p tid addr bytes s) :=
  State.mailbox_frameK fun _ hu => hu.andThen (State.atticRead_frame ..)

theorem execRecordRead_frame (p tid addr bytes s) : FrameR [.regs, .links, .out, .freeCtr] s (execRecordRead p tid addr bytes s) :=
  State.mailbox_frameK fun _ hu => hu.andThen (State.atticRead_frame ..)

theorem execMailboxTimeout_frame (s) : FrameR [.regs, .mgmt] s (execMailboxTimeout s) :=
  .next (.ite (fun _ => State.mbFree_frame ..) fun _ => .refl s)

-- The sideband

theorem execStage_frame (s) : FrameR [.out] s (execStage s) := .next (.ite (fun _ => .refl s) fun _ => State.smbReply_frame ..)

theorem execPin_frame (s) : FrameR [.out, .freeCtr] s (execPin s) :=
  .ite (fun _ => .next (.andThen (.widen (State.useFree_frame ..)) (State.smbReply_frame ..))) fun _ => .next (.refl s)

theorem execAlertStatus_frame (s) : FrameR [.dev, .out] s (execAlertStatus s) :=
  .ite (fun _ => .next (.refl s)) fun _ => .next (.withDev (.widen (State.smbReply_frame ..)))

theorem execAlertMask_frame (w s) : FrameR [.dev, .out] s (execAlertMask w s) := by
  cases w with
  | some m => exact .ite (fun _ => .next (.withDev (.refl s))) fun _ => .next (.refl s)
  | none => exact .widen (State.smbRead_frame _ _ _)

theorem execAlertResponse_frame (s) : FrameR [.out] s (execAlertResponse s) :=
  .next (.ite (fun _ => State.emit_frame ..) fun _ => .refl s)

theorem execNreset_frame (lowPeriods s) : FrameR Part.all s (execNreset lowPeriods s) := by
  have off : Frame Part.all s s.deviceOff := State.deviceOff_frame s
  exact .ite (fun _ => .next (.refl s)) fun _ => .ite (fun _ => .next off.withDev) fun _ => .next off.withDev.withDev

theorem execTapInstructionLoad_frame (i s) : FrameR [.dev, .out, .freeCtr] s (execTapInstructionLoad i s) := by
  refine .ite (fun _ => .next (.refl s)) fun _ => ?_
  split
  · exact .ite (fun _ => .refused) fun _ => .next (State.scanOut_frame ..)
  · exact .next (State.scanOut_frame ..)
  · exact .next (State.scanOut_frame ..)

theorem execDebugUnlock_frame (signature s) : FrameR [.dev] s (execDebugUnlock signature s) := by
  have loaded : Frame [.dev] s (s.setTap .debugUnlock) := State.setTap_frame ..
  exact .ite (fun _ => .next (.refl s)) fun _ => .next (.ite (fun _ => loaded.withDev) fun _ => loaded)

theorem execTestReset_frame (s) : FrameR [.dev] s (execTestReset s) := .next (.ite (fun _ => .refl s) fun _ => State.setTap_frame ..)

end Sys2Proof.Machine
end

section
/-! CLAIM. What holds of every command: its frame, and what it keeps of the fuses and of the attic's log. -/

namespace Sys2Proof.Machine

-- Elaborated in order: with a thread, and so a stack, for each proof the memory allowed would not do.
set_option Elab.async false

/-- Whatever command runs: the queue is as it was, the fuses but the counter are, the log goes on, and a canonical state stays
canonical. One case per arm of the dispatch, each by the frame of its meaning. -/
theorem exec_frame (i : Instr) (s : State) : FrameR Part.all s (exec i s) := by
  cases i with
  | add c rd ra b => exact .toAll (r := execAdd c rd ra b s) (alu_frame _ _ _ _ _ _ _ _)
  | sub c rd ra b => exact .toAll (r := execSub c rd ra b s) (alu_frame _ _ _ _ _ _ _ _)
  | and c rd ra b => exact .toAll (r := execAnd c rd ra b s) (alu_frame _ _ _ _ _ _ _ _)
  | or c rd ra b => exact .toAll (r := execOr c rd ra b s) (alu_frame _ _ _ _ _ _ _ _)
  | xor c rd ra b => exact .toAll (r := execXor c rd ra b s) (alu_frame _ _ _ _ _ _ _ _)
  | sll c rd ra b => exact .toAll (r := execSll c rd ra b s) (alu_frame _ _ _ _ _ _ _ _)
  | srl c rd ra b => exact .toAll (r := execSrl c rd ra b s) (alu_frame _ _ _ _ _ _ _ _)
  | sra c rd ra b => exact .toAll (r := execSra c rd ra b s) (alu_frame _ _ _ _ _ _ _ _)
  | slt c rd ra b => exact .toAll (r := execSlt c rd ra b s) (alu_frame _ _ _ _ _ _ _ _)
  | sltu c rd ra b => exact .toAll (r := execSltu c rd ra b s) (alu_frame _ _ _ _ _ _ _ _)
  | mul c rd ra b => exact .toAll (r := execMul c rd ra b s) (alu_frame _ _ _ _ _ _ _ _)
  | mulh c rd ra b => exact .toAll (r := execMulh c rd ra b s) (alu_frame _ _ _ _ _ _ _ _)
  | min c rd ra b => exact .toAll (r := execMin c rd ra b s) (alu_frame _ _ _ _ _ _ _ _)
  | max c rd ra b => exact .toAll (r := execMax c rd ra b s) (alu_frame _ _ _ _ _ _ _ _)
  | clz c rd ra b => exact .toAll (r := execClz c rd ra b s) (alu_frame _ _ _ _ _ _ _ _)
  | popc c rd ra b => exact .toAll (r := execPopc c rd ra b s) (alu_frame _ _ _ _ _ _ _ _)
  | lui c rd imm => exact .toAll (execLui_frame c rd imm s)
  | lw c rd ra imm => exact .toAll (execLw_frame c rd ra imm s)
  | sw c rd ra imm => exact .toAll (execSw_frame c rd ra imm s)
  | lbu c rd ra imm => exact .toAll (execLbu_frame c rd ra imm s)
  | sb c rd ra imm => exact .toAll (execSb_frame c rd ra imm s)
  | ldl c h sa sb => exact .toAll (execLdl_frame c h sa sb s)
  | stl c h sa sb => exact .toAll (execStl_frame c h sa sb s)
  | branchEq c ra rb off => exact .toAll (r := execBranchEq c ra rb off s) (branch_frame _ _ _ _ _ _)
  | branchNe c ra rb off => exact .toAll (r := execBranchNe c ra rb off s) (branch_frame _ _ _ _ _ _)
  | branchLt c ra rb off => exact .toAll (r := execBranchLt c ra rb off s) (branch_frame _ _ _ _ _ _)
  | branchGe c ra rb off => exact .toAll (r := execBranchGe c ra rb off s) (branch_frame _ _ _ _ _ _)
  | branchLtu c ra rb off => exact .toAll (r := execBranchLtu c ra rb off s) (branch_frame _ _ _ _ _ _)
  | branchGeu c ra rb off => exact .toAll (r := execBranchGeu c ra rb off s) (branch_frame _ _ _ _ _ _)
  | jal c rd off => exact .toAll (execJal_frame c rd off s)
  | jalr c rd ra imm => exact .toAll (execJalr_frame c rd ra imm s)
  | loop c n ra len => exact .toAll (execLoop_frame c n ra len s)
  | waitc c imm => exact .toAll (execWaitc_frame c imm s)
  | halt c => exact .toAll (execHalt_frame c s)
  | wload c h sa wfmt => exact .toAll (execWload_frame c h sa wfmt s)
  | wrow c h sa sb wfmt => exact .toAll (execWrow_frame c h sa sb wfmt s)
  | wscale c h sa => exact .toAll (execWscale_frame c h sa s)
  | wswap c => exact .toAll (execWswap_frame c s)
  | pass c h sa aw e add => exact .toAll (execPass_frame c h sa aw e add s)
  | accrd c e g clr sig => exact .toAll (execAccrd_frame c e g clr sig s)
  | accst c h sa sb clr sig => exact .toAll (execAccst_frame c h sa sb clr sig s)
  | accld c h sa sb => exact .toAll (execAccld_frame c h sa sb s)
  | accnr c e t clr sig => exact .toAll (execAccnr_frame c e t clr sig s)
  | accclr c e => exact .toAll (execAccclr_frame c e s)
  | fadd c vd va vb t => exact .toAll (r := execFadd c vd va vb t s) (vec_frame fun _ => Cluster.putLanes_sreg ..)
  | fsub c vd va vb t => exact .toAll (r := execFsub c vd va vb t s) (vec_frame fun _ => Cluster.putLanes_sreg ..)
  | fmul c vd va vb t => exact .toAll (r := execFmul c vd va vb t s) (vec_frame fun _ => Cluster.putLanes_sreg ..)
  | ffma c vd va vb vc t => exact .toAll (r := execFfma c vd va vb vc t s) (vec_frame fun _ => Cluster.putLanes_sreg ..)
  | fmax c vd va vb t => exact .toAll (r := execFmax c vd va vb t s) (vec_frame fun _ => Cluster.putLanes_sreg ..)
  | fmin c vd va vb t => exact .toAll (r := execFmin c vd va vb t s) (vec_frame fun _ => Cluster.putLanes_sreg ..)
  | fabs c vd va t => exact .toAll (r := execFabs c vd va t s) (vec_frame fun _ => Cluster.putLanes_sreg ..)
  | fneg c vd va t => exact .toAll (r := execFneg c vd va t s) (vec_frame fun _ => Cluster.putLanes_sreg ..)
  | fcmplt c vd va vb t => exact .toAll (r := execFcmplt c vd va vb t s) (vec_frame fun _ => rfl)
  | fsel c vd va vb vc t => exact .toAll (r := execFsel c vd va vb vc t s) (vec_frame fun _ => rfl)
  | fscale c vd va vb t => exact .toAll (r := execFscale c vd va vb t s) (vec_frame fun _ => Cluster.putLanes_sreg ..)
  | i2f c vd va t => exact .toAll (r := execI2f c vd va t s) (vec_frame fun _ => rfl)
  | f2i48 c vd va vb t => exact .toAll (r := execF2i48 c vd va vb t s) (vec_frame fun _ => Cluster.f2i48_sreg ..)
  | i48f c vd va t => exact .toAll (r := execI48f c vd va t s) (vec_frame fun _ => rfl)
  | iadd c vd va vb t => exact .toAll (r := execIadd c vd va vb t s) (vec_frame fun _ => rfl)
  | sqrt c vd va t => exact .toAll (r := execSqrt c vd va t s) (vec_frame fun _ => Cluster.putLanes_sreg ..)
  | recip c vd va t => exact .toAll (r := execRecip c vd va t s) (vec_frame fun _ => Cluster.putLanes_sreg ..)
  | rsqrt c vd va t => exact .toAll (r := execRsqrt c vd va t s) (vec_frame fun _ => Cluster.putLanes_sreg ..)
  | exp2 c vd va t => exact .toAll (r := execExp2 c vd va t s) (vec_frame fun _ => Cluster.putLanes_sreg ..)
  | log2 c vd va t => exact .toAll (r := execLog2 c vd va t s) (vec_frame fun _ => Cluster.putLanes_sreg ..)
  | tanh c vd va t => exact .toAll (r := execTanh c vd va t s) (vec_frame fun _ => Cluster.putLanes_sreg ..)
  | sigmoid c vd va t => exact .toAll (r := execSigmoid c vd va t s) (vec_frame fun _ => Cluster.putLanes_sreg ..)
  | erf c vd va t => exact .toAll (r := execErf c vd va t s) (vec_frame fun _ => Cluster.putLanes_sreg ..)
  | vred c vd va t => exact .toAll (r := execVred c vd va t s) (vec_frame fun _ => Cluster.vreduce_sreg ..)
  | vredmax c vd va t => exact .toAll (r := execVredmax c vd va t s) (vec_frame fun _ => Cluster.vreduce_sreg ..)
  | vld c vd h sa => exact .toAll (execVld_frame c vd h sa s)
  | vst c vd h sa => exact .toAll (execVst_frame c vd h sa s)
  | vrq c va h sa aw outl => exact .toAll (execVrq_frame c va h sa aw outl s)
  | vnr c va t => exact .toAll (execVnr_frame c va t s)
  | fastart c h => exact .toAll (execFastart_frame c h s)
  | fawait c sa => exact .toAll (execFawait_frame c sa s)
  | fafree c => exact .toAll (execFafree_frame c s)
  | cpstart c h sa => exact .toAll (execCpstart_frame c h sa s)
  | cpwait c => exact .toAll (execCpwait_frame c s)
  | hset c h sa sb => exact .toAll (execHset_frame c h sa sb s)
  | hown c h sa => exact .toAll (execHown_frame c h sa s)
  | hrel c h => exact .toAll (execHrel_frame c h s)
  | hget c h sb sel => exact .toAll (execHget_frame c h sb sel s)
  | bar c b => exact .toAll (execBar_frame c b s)
  | bara c b => exact .toAll (execBara_frame c b s)
  | barw c b => exact .toAll (execBarw_frame c b s)
  | efset c f => exact .toAll (execEfset_frame c f s)
  | efclr c f => exact .toAll (execEfclr_frame c f s)
  | efwait c f v => exact .toAll (execEfwait_frame c f v s)
  | time c sb hi => exact .toAll (execTime_frame c sb hi s)
  | qbind c sa wr => exact .toAll (execQbind_frame c sa wr s)
  | qrd c h sa sb => exact .toAll (execQrd_frame c h sa sb s)
  | qwr c h sa sb last => exact .toAll (execQwr_frame c h sa sb last s)
  | qdrop c => exact .toAll (execQdrop_frame c s)
  | qcnt c sb => exact .toAll (execQcnt_frame c sb s)
  | csrr c rd csr => exact .toAll (execCsrr_frame c rd csr s)
  | csrw c csr ra => exact .toAll (execCsrw_frame c csr ra s)
  | fault c imm => exact .toAll (execFault_frame c imm s)
  | fence c => exact .toAll (execFence_frame c s)
  | scrubVisit c => exact .toAll (execScrubVisit_frame c s)
  | scrubWriteBack c => exact .toAll (execScrubWriteBack_frame c s)
  | scrubWindow r => exact .toAll (execScrubWindow_frame r s)
  | retentionReturn r => exact .toAll (execRetentionReturn_frame r s)
  | larinjArm c v => exact .toAll (execLarinjArm_frame c v s)
  | cellarRefresh r ch rank bank idle => exact .toAll (execCellarRefresh_frame r ch rank bank idle s)
  | patrolVisit r => exact .toAll (execPatrolVisit_frame r s)
  | selfRefreshEntry r => exact .toAll (execSelfRefreshEntry_frame r s)
  | rowRemap r ch rank bank row => exact .toAll (execRowRemap_frame r ch rank bank row s)
  | celinjsymArm r v => exact .toAll (execCelinjsymArm_frame r v s)
  | pitchFilled c => exact .toAll (execPitchFilled_frame c s)
  | loadListFault c => exact .toAll (execLoadListFault_frame c s)
  | reductionStall r => exact .toAll (execReductionStall_frame r s)
  | treeNodeForward t n => exact .toAll (execTreeNodeForward_frame t n s)
  | treeInstanceComplete t => exact .toAll (execTreeInstanceComplete_frame t s)
  | barrierRelease b => exact .toAll (execBarrierRelease_frame b s)
  | timeBeacon => exact .toAll (execTimeBeacon_frame s)
  | networkFlitError c net port wire uncorrectable => exact .toAll (execNetworkFlitError_frame c net port wire uncorrectable s)
  | routerDomainLoss r ctl => exact .toAll (execRouterDomainLoss_frame r ctl s)
  | hostAccessTimeout p tid bytes => exact .toAll (execHostAccessTimeout_frame p tid bytes s)
  | quiesceTimeout r => exact .toAll (execQuiesceTimeout_frame r s)
  | glbPlandirWrite p n k v => exact .toAll (execGlbPlandirWrite_frame p n k v s)
  | pitchClose => exact .toAll (execPitchClose_frame s)
  | handoffTagWritten entry => exact .toAll (execHandoffTagWritten_frame entry s)
  | runPlan => exact .toAll (execRunPlan_frame s)
  | copy => exact .toAll (execCopy_frame s)
  | load => exact .toAll (execLoad_frame s)
  | store => exact .toAll (execStore_frame s)
  | cairn => exact .toAll (execCairn_frame s)
  | fenceDescriptor => exact .toAll (execFenceDescriptor_frame s)
  | bindStream => exact .toAll (execBindStream_frame s)
  | policy => exact .toAll (execPolicy_frame s)
  | sweep => exact .toAll (execSweep_frame s)
  | handoff => exact .toAll (execHandoff_frame s)
  | nop => exact .toAll (execNop_frame s)
  | grant => exact .toAll (execGrant_frame s)
  | stepRelease => exact .toAll (execStepRelease_frame s)
  | completionRecordWrite ring energy => exact .toAll (execCompletionRecordWrite_frame ring energy s)
  | eventRecordWrite => exact .toAll (execEventRecordWrite_frame s)
  | nudge p ring => exact .toAll (execNudge_frame p ring s)
  | backstopPoll => exact .toAll (execBackstopPoll_frame s)
  | rngEnable p n v => exact .toAll (execRngEnable_frame p n v s)
  | rngDisable p n v => exact .toAll (execRngDisable_frame p n v s)
  | rngStop p n => exact .toAll (execRngStop_frame p n s)
  | rngResume p n => exact .toAll (execRngResume_frame p n s)
  | glbRingcfgWrite p v => exact .toAll (execGlbRingcfgWrite_frame p v s)
  | stream p skind recs => exact .toAll (execStream_frame p skind recs s)
  | cadenceTick => exact .toAll (execCadenceTick_frame s)
  | cadenceInEdge => exact .toAll (execCadenceInEdge_frame s)
  | pinFallbackTick => exact .toAll (execPinFallbackTick_frame s)
  | windowFree win => exact .toAll (execWindowFree_frame win s)
  | ptcmtGo p v => exact .toAll (execPtcmtGo_frame p v s)
  | ingestEnable p ch v => exact .toAll (execIngestEnable_frame p ch v s)
  | actuationEnable p a v => exact .toAll (execActuationEnable_frame p a v s)
  | flush p q v => exact .toAll (execFlush_frame p q v s)
  | poolModeRequest p pool v => exact .toAll (execPoolModeRequest_frame p pool v s)
  | poolModeChange pool => exact .toAll (execPoolModeChange_frame pool s)
  | timePacket p lo hi => exact .toAll (execTimePacket_frame p lo hi s)
  | timeinEdge => exact .toAll (execTimeinEdge_frame s)
  | timeSlewStep => exact .toAll (execTimeSlewStep_frame s)
  | glbTimecfgWrite p v => exact .toAll (execGlbTimecfgWrite_frame p v s)
  | refLost outOfRange => exact .toAll (execRefLost_frame outOfRange s)
  | refclkValid => exact .toAll (execRefclkValid_frame s)
  | droopStretch r => exact .toAll (execDroopStretch_frame r s)
  | moduleGovernorInterval pin pcore mvcore => exact .toAll (execModuleGovernorInterval_frame pin pcore mvcore s)
  | slabGovernorInterval sl amps => exact .toAll (execSlabGovernorInterval_frame sl amps s)
  | wakeRequest r why => exact .toAll (execWakeRequest_frame r why s)
  | wakeComplete r => exact .toAll (execWakeComplete_frame r s)
  | regionIdleEntry r => exact .toAll (execRegionIdleEntry_frame r s)
  | bivouacEntry r => exact .toAll (execBivouacEntry_frame r s)
  | darkAfter r => exact .toAll (execDarkAfter_frame r s)
  | thermalCeilingLower sl temps => exact .toAll (execThermalCeilingLower_frame sl temps s)
  | thermalCeilingRaise r temp => exact .toAll (execThermalCeilingRaise_frame r temp s)
  | stackHot sl f temp => exact .toAll (execStackHot_frame sl f temp s)
  | thermalTrip src temp => exact .toAll (execThermalTrip_frame src temp s)
  | tripRelease maxTemp => exact .toAll (execTripRelease_frame maxTemp s)
  | coolantRange inlet => exact .toAll (execCoolantRange_frame inlet s)
  | supplyLow v48 => exact .toAll (execSupplyLow_frame v48 s)
  | supplyLost above => exact .toAll (execSupplyLost_frame above s)
  | supplyRestored v48 => exact .toAll (execSupplyRestored_frame v48 s)
  | standbyLost v12 => exact .toAll (execStandbyLost_frame v12 s)
  | standbyRestored v12 => exact .toAll (execStandbyRestored_frame v12 s)
  | phaseLost r ph => exact .toAll (execPhaseLost_frame r ph s)
  | regionShort r ns persists => exact .toAll (execRegionShort_frame r ns persists s)
  | crackSuspect r group excessUv => exact .toAll (execCrackSuspect_frame r group excessUv s)
  | converterPhase sl ph => exact .toAll (execConverterPhase_frame sl ph s)
  | converterLost sl => exact .toAll (execConverterLost_frame sl s)
  | faultReport k => exact .toAll (execFaultReport_frame k s)
  | leaveRestart => exact .toAll (execLeaveRestart_frame s)
  | plannedRestart => exact .toAll (execPlannedRestart_frame s)
  | snapshotStaged => exact .toAll (execSnapshotStaged_frame s)
  | checkReplay slot => exact .toAll (execCheckReplay_frame slot s)
  | thirdReplay slot => exact .toAll (execThirdReplay_frame slot s)
  | scheduledSweep => exact .toAll (execScheduledSweep_frame s)
  | credit l ack sync control bulk strm => exact .toAll (execCredit_frame l ack sync control bulk strm s)
  | creditDue l => exact .toAll (execCreditDue_frame l s)
  | nak l group => exact .toAll (execNak_frame l group s)
  | resync l group => exact .toAll (execResync_frame l group s)
  | align l logical group physical => exact .toAll (execAlign_frame l logical group physical s)
  | alignmentGroup l => exact .toAll (execAlignmentGroup_frame l s)
  | peer l type depot format lanes peerid => exact .toAll (execPeer_frame l type depot format lanes peerid s)
  | lswap l logical physical group => exact .toAll (execLswap_frame l logical physical group s)
  | laneFailure l physical => exact .toAll (execLaneFailure_frame l physical s)
  | linkTraining l => exact .toAll (execLinkTraining_frame l s)
  | linkUp l full rtt lanes => exact .toAll (execLinkUp_frame l full rtt lanes s)
  | linkLost l reason => exact .toAll (execLinkLost_frame l reason s)
  | linkRetry l => exact .toAll (execLinkRetry_frame l s)
  | retrain p l => exact .toAll (execRetrain_frame p l s)
  | lnkDown p l => exact .toAll (execLnkDown_frame p l s)
  | clrpeer p l => exact .toAll (execClrpeer_frame p l s)
  | requestTimeout l tid => exact .toAll (execRequestTimeout_frame l tid s)
  | rddata l tid epoch status data => exact .toAll (execRddata_frame l tid epoch status data s)
  | wrack l tid epoch status => exact .toAll (execWrack_frame l tid epoch status s)
  | epack l epoch => exact .toAll (execEpack_frame l epoch s)
  | derr l tid status => exact .toAll (execDerr_frame l tid status s)
  | hdata l epoch jobtag step pitch sfrom sto daddr data => exact .toAll (execHdata_frame l epoch jobtag step pitch sfrom sto daddr data s)
  | hend l epoch jobtag step pitch sfrom sto bytes crc => exact .toAll (execHend_frame l epoch jobtag step pitch sfrom sto bytes crc s)
  | unknownPtype l head => exact .toAll (execUnknownPtype_frame l head s)
  | mrd p addr bytes tid => exact .toAll (execMrd_frame p addr bytes tid s)
  | mwr p addr data => exact .toAll (execMwr_frame p addr data s)
  | cpl p tid status off data => exact .toAll (execCpl_frame p tid status off data s)
  | registerWrite p addr v => exact .toAll (execRegisterWrite_frame p addr v s)
  | rcRead p addr tid => exact .toAll (execRcRead_frame p addr tid s)
  | latchingLoRead p addr tid => exact .toAll (execLatchingLoRead_frame p addr tid s)
  | shutdown p => exact .toAll (execShutdown_frame p s)
  | bringup p => exact .toAll (execBringup_frame p s)
  | aonUp us ok ports => exact .toAll (execAonUp_frame us ok ports s)
  | fwVerified us => exact .toAll (execFwVerified_frame us s)
  | railsUp us found maxTemp => exact .toAll (execRailsUp_frame us found maxTemp s)
  | fusesRead us ok => exact .toAll (execFusesRead_frame us ok s)
  | clocksLocked us found => exact .toAll (execClocksLocked_frame us found s)
  | seamsTrained us found => exact .toAll (execSeamsTrained_frame us found s)
  | cellarTrained us found => exact .toAll (execCellarTrained_frame us found s)
  | larderChecked us badRows => exact .toAll (execLarderChecked_frame us badRows s)
  | gridBuilt us => exact .toAll (execGridBuilt_frame us s)
  | knownAnswer us first later links streamOk cryptoOk => exact .toAll (execKnownAnswer_frame us first later links streamOk cryptoOk s)
  | linksTrained us outcomes => exact .toAll (execLinksTrained_frame us outcomes s)
  | ready us => exact .toAll (execReady_frame us s)
  | autoretry => exact .toAll (execAutoretry_frame s)
  | getIdentity p tid => exact .toAll (execGetIdentity_frame p tid s)
  | attest p tid nonce => exact .toAll (execAttest_frame p tid nonce s)
  | fwWrite p tid addr data => exact .toAll (execFwWrite_frame p tid addr data s)
  | fwCommit p tid => exact .toAll (execFwCommit_frame p tid s)
  | fwActivate p tid => exact .toAll (execFwActivate_frame p tid s)
  | logRead p tid addr bytes => exact .toAll (execLogRead_frame p tid addr bytes s)
  | recordRead p tid addr bytes => exact .toAll (execRecordRead_frame p tid addr bytes s)
  | mailboxTimeout => exact .toAll (execMailboxTimeout_frame s)
  | wctlArm p u => exact .toAll (execWctlArm_frame p u s)
  | wctlStop p u => exact .toAll (execWctlStop_frame p u s)
  | watchStart u => exact .toAll (execWatchStart_frame u s)
  | watchEnd u => exact .toAll (execWatchEnd_frame u s)
  | watchSample u v => exact .toAll (execWatchSample_frame u v s)
  | stage => exact .toAll (execStage_frame s)
  | state => exact .toAll (r := execState s) (State.smbRead_frame _ _ _)
  | temp => exact .toAll (r := execTemp s) (State.smbRead_frame _ _ _)
  | pin => exact .toAll (execPin_frame s)
  | vin => exact .toAll (r := execVin s) (State.smbRead_frame _ _ _)
  | ident => exact .toAll (r := execIdent s) (State.smbRead_frame _ _ _)
  | alertStatus => exact .toAll (execAlertStatus_frame s)
  | alertMask w => exact .toAll (execAlertMask_frame w s)
  | alertResponse => exact .toAll (execAlertResponse_frame s)
  | nreset lowPeriods => exact .toAll (execNreset_frame lowPeriods s)
  | debugUnlock signature => exact .toAll (execDebugUnlock_frame signature s)
  | tapInstructionLoad ti => exact .toAll (execTapInstructionLoad_frame ti s)
  | uncorrectableCodeword l group crc => exact .toAll (execUncorrectableCodeword_frame l group crc s)
  | stretchRepayment r => exact .toAll (execStretchRepayment_frame r s)
  | copyComplete c => exact .toAll (execCopyComplete_frame c s)
  | sweepFinished r found notHot => exact .toAll (execSweepFinished_frame r found notHot s)
  | undefinedInstruction c w => exact .toAll (execUndefinedInstruction_frame c w s)
  | descriptorTypeRefused => exact .toAll (execDescriptorTypeRefused_frame s)
  | testReset => exact .toAll (execTestReset_frame s)

end Sys2Proof.Machine

namespace Sys2Proof

open Machine

/-- Settles O6: every command's next state is framed, and a frame keeps the fuses but the counter, which only rises, and the log. -/
theorem fusesAndLogAreKept : Obligations.FusesAndLogAreKept := by
  intro i s t h
  have framed : Frame Part.all s t := (exec_frame i s).of_eq h
  exact ⟨framed.fuses, framed.log⟩

end Sys2Proof
end

section
/-! CLAIM. The sites that carry a region's logical rows, and the cluster numbers that name them. -/

namespace Sys2Proof.Machine

/-- A column with no bad site: its first eight rows carry the logical rows (R23). -/
theorem State.goodRows_of_noBad {s : State} {r c : Nat}
    (h : ((List.range 9).filter fun p => !s.badSite (siteAt r c p)).length = 9) : s.goodRows r c = List.range 8 := by
  have whole : ((List.range 9).filter fun p => !s.badSite (siteAt r c p)) = List.range 9 :=
    List.filter_sublist.eq_of_length h
  rw [State.goodRows, whole]
  rfl

/-- No logical row lies past those of the grade. -/
theorem State.physRegion_eq_none {s : State} {l : Nat} (h : s.rowsL ≤ l / 16) : s.physRegion l = none := by
  simp [State.physRegion, State.gridY, Nat.not_lt.2 h]

/-- Bits of a cluster number: the logical region, then row and column (R26). -/
theorem State.clusterSite_of_coords (s : State) {l row col : Nat} (hrow : row < 8) (hcol : col < 8) :
    s.clusterSite (l * 64 + row * 8 + col) = (s.physRegion l).bind fun r => s.siteIn r row col := by
  have hl : (l * 64 + row * 8 + col) / 64 = l := by omega
  have hr : (l * 64 + row * 8 + col) % 64 / 8 = row := by omega
  have hc : (l * 64 + row * 8 + col) % 8 = col := by omega
  rw [State.clusterSite, hl, hr, hc]
  rfl

theorem State.clusterSite_eq_none {s : State} {n : Nat} (h : s.nClusters ≤ n) : s.clusterSite n = none := by
  rw [State.nClusters] at h
  have past : s.physRegion (n / 64) = none := State.physRegion_eq_none (by omega)
  rw [State.clusterSite, past]
  rfl

end Sys2Proof.Machine

namespace Sys2Proof

open Machine

/-- Settles O49: positions by division, rows by what a column's good sites are, and cluster numbers by their bits. -/
theorem clusterNumbersNameSites : Obligations.ClusterNumbersNameSites := by
  intro s
  refine ⟨?position, ?rows, ?logicalRow, ?cluster, ?gradeB, ?gradeA, ?others⟩
  case position =>
    intro r c p _ _ _
    refine ⟨rfl, ?_, ?_, ?_, ?_⟩ <;> simp only [siteAt, siteRegion, siteCol, siteRow] <;> omega
  case rows => exact fun r c => ⟨State.goodRows_of_noBad, List.take_of_length_le⟩
  case logicalRow => exact fun _ _ _ _ => rfl
  case cluster => exact fun lx ly row col _ hrow hcol => s.clusterSite_of_coords hrow hcol
  case gradeB => intro h; simp [State.nClusters, State.rowsL, h]
  case gradeA => intro h; simp [State.nClusters, State.rowsL, h]
  case others => exact fun _ => State.clusterSite_eq_none

end Sys2Proof
end

section
/-! CLAIM. The job gate: what the request that it picks shares with grants in force and with older requests. -/

namespace Sys2Proof.Machine

theorem meets_eq_false {a b : List Nat} : meets a b = false ↔ ∀ r ∈ b, r ∉ a := by
  simp only [meets, List.any_eq_false, List.contains_iff_mem]
  exact ⟨fun h r hb ha => h r ha hb, fun h r ha hb => h r hb ha⟩

/-- Two descriptors share no region and no link (R31). -/
def Outst.Apart (x o : Outst) : Prop := (∀ r ∈ x.regions, r ∉ o.regions) ∧ ∀ l ∈ x.links, l ∉ o.links

/-- A request that no grant blocks lies apart from every grant but a sweep's (R31, R390). -/
theorem State.apart_of_not_blocked {s : State} {o x : Outst} {g : Nat} (h : s.blocked o = false) (hg : g ∈ s.jobs.grants)
    (hx : (s.ring g).out = some x) (hty : typeOf x ≠ 9) : x.Apart o := by
  have free := List.any_eq_false.1 h g hg
  simp only [hx, Option.elim, Bool.and_eq_true, bne_iff_ne, Bool.or_eq_true, not_and, not_or, Bool.not_eq_true] at free
  obtain ⟨hr, hl⟩ := free hty
  exact ⟨fun r hx ho => meets_eq_false.1 hr r ho hx, fun l hx ho => meets_eq_false.1 hl l ho hx⟩

/-- The request of a ring does not keep back one of descriptor o: there is none, the gate passes it over (R43), or it lies apart. -/
def State.Yields (s : State) (o : Outst) (q : Nat) : Prop := ∀ x, (s.ring q).out = some x → s.afterRewind q x = false → x.Apart o

/-- Ring n stands in the queue behind requests that all yield to o. -/
def State.BehindYielding (s : State) (o : Outst) (n : Nat) (queue : List Nat) : Prop :=
  ∃ before after, queue = before ++ n :: after ∧ ∀ q ∈ before, s.Yields o q

theorem State.BehindYielding.cons {s : State} {o : Outst} {m n : Nat} {queue : List Nat} (hm : s.Yields o m)
    (h : s.BehindYielding o n queue) : s.BehindYielding o n (m :: queue) := by
  obtain ⟨before, after, rfl, yields⟩ := h
  exact ⟨m :: before, after, rfl, List.forall_mem_cons.2 ⟨hm, yields⟩⟩

/-- What the gate has checked of its pick: no grant blocks it, it needs nothing in the lists of what older requests need, and each
older request in the queue yields to it (R264). -/
theorem State.grantable_spec {s : State} {n : Nat} {o : Outst} (ho : (s.ring n).out = some o) :
    ∀ queue rs ls, s.grantable queue rs ls = some n →
      s.blocked o = false ∧ meets o.regions rs = false ∧ meets o.links ls = false ∧ s.BehindYielding o n queue := by
  intro queue
  induction queue with
  | nil => intro rs ls h; cases h
  | cons m queue ih =>
    intro rs ls h
    rw [State.grantable] at h
    split at h
    next empty =>
      obtain ⟨hb, hr, hl, behind⟩ := ih rs ls h
      exact ⟨hb, hr, hl, behind.cons fun x hx => by rw [empty] at hx; cases hx⟩
    next y hy =>
      split at h
      next passed =>
        obtain ⟨hb, hr, hl, behind⟩ := ih rs ls h
        refine ⟨hb, hr, hl, behind.cons fun x hx due => ?_⟩
        rw [hy] at hx; cases hx
        rw [passed] at due; cases due
      next =>
        split at h
        next =>
          obtain ⟨hb, hr, hl, behind⟩ := ih _ _ h
          simp only [meets_eq_false, List.forall_mem_append] at hr hl
          obtain ⟨hr, hry⟩ := hr
          obtain ⟨hl, hly⟩ := hl
          refine ⟨hb, meets_eq_false.2 hr, meets_eq_false.2 hl, behind.cons fun x hx _ => ?_⟩
          rw [hy] at hx; cases hx
          exact ⟨hry, hly⟩
        next free =>
          cases h
          rw [hy] at ho; cases ho
          simp only [Bool.or_eq_true, not_or, Bool.not_eq_true] at free
          obtain ⟨⟨⟨hb, _⟩, hr⟩, hl⟩ := free
          exact ⟨hb, hr, hl, [], queue, rfl, fun q hq => absurd hq List.not_mem_nil⟩

end Sys2Proof.Machine

namespace Sys2Proof

open Machine

/-- Settles O46, by induction on the queue that the gate walks. -/
theorem grantsNeverOverlap : Obligations.GrantsNeverOverlap := by
  intro s n o h ho
  obtain ⟨free, _, _, older⟩ := State.grantable_spec ho _ _ _ h
  exact ⟨fun g hg x hx hty => State.apart_of_not_blocked free hg hx hty, older⟩

end Sys2Proof
end

section
/-! CLAIM. Commands that store nothing: their frames name neither the larders nor the cellar. -/

namespace Sys2Proof.Machine

-- Elaborated in order: with a thread, and so a stack, for each proof the memory allowed would not do.
set_option Elab.async false

variable {P Q : List Part} {s t : State}

/-- A frame that names neither the larders nor the cellar keeps every byte of memory (R28, R29). -/
theorem Frame.sameBytes (h : Frame P s t) (hl : .larder ∉ P := by decide) (hc : .cellar ∉ P := by decide) : SameBytes s t := by
  have larder : t.larder = s.larder := h.part .larder hl
  have cellar : t.cellar = s.cellar := h.part .cellar hc
  exact ⟨fun _ _ => by rw [State.larByte, State.larByte, larder], fun _ _ => by rw [State.celByte, State.celByte, cellar]⟩

/-- Every part of the state but the contents of larders and slices. -/
def Part.quiet : List Part := Part.all.filter fun p => p != .larder && p != .cellar

theorem FrameR.quiet {r : Res} (h : FrameR Q s r) (hq : Q ⊆ Part.quiet := by decide) : FrameR Part.quiet s r := h.widen hq

/-- A pulse on TIMEIN stores nothing, which its frame over every part leaves open. -/
theorem execTimeinEdge_keepsMemory (s : State) : FrameR Part.quiet s (execTimeinEdge s) :=
  .next (.ite (fun _ => .refl s) fun _ => .widen (State.pulse_frame ..))

/-- An edge on CADENCE_IN stores nothing, which its frame over every part leaves open. -/
theorem execCadenceInEdge_keepsMemory (s : State) : FrameR Part.quiet s (execCadenceInEdge s) := by
  refine .ite (fun _ => .next (.refl s)) fun _ => .ite (fun _ => .next (.widen (State.pulse_frame ..))) fun _ => ?_
  extract_lets t far s₁ s₂
  have adopted : Frame Part.quiet s s₁ := by
    subst s₁
    split
    · exact .ite (fun _ => .widen (State.adopt_frame ..)) fun _ => .refl s
    · exact .refl s
  have counted : Frame Part.quiet s s₂ := adopted.andThen (State.useFree_frame _)
  exact .ite (fun _ => .next counted) fun _ => .ite (fun _ => .next (counted.andThen (State.count_frame ..))) fun _ =>
    .next (.andThen counted.withStrm (State.tick_frame ..))

/-- One case per command of the list, each by the frame of its meaning; any other command is not in the list. -/
theorem exec_frame_of_storesNothing {i : Instr} (h : i.storesNothing = true) (s : State) : FrameR Part.quiet s (exec i s) := by
  cases i with
  | add c rd ra b => exact .quiet (r := execAdd c rd ra b s) (alu_frame _ _ _ _ _ _ _ _)
  | sub c rd ra b => exact .quiet (r := execSub c rd ra b s) (alu_frame _ _ _ _ _ _ _ _)
  | and c rd ra b => exact .quiet (r := execAnd c rd ra b s) (alu_frame _ _ _ _ _ _ _ _)
  | or c rd ra b => exact .quiet (r := execOr c rd ra b s) (alu_frame _ _ _ _ _ _ _ _)
  | xor c rd ra b => exact .quiet (r := execXor c rd ra b s) (alu_frame _ _ _ _ _ _ _ _)
  | sll c rd ra b => exact .quiet (r := execSll c rd ra b s) (alu_frame _ _ _ _ _ _ _ _)
  | srl c rd ra b => exact .quiet (r := execSrl c rd ra b s) (alu_frame _ _ _ _ _ _ _ _)
  | sra c rd ra b => exact .quiet (r := execSra c rd ra b s) (alu_frame _ _ _ _ _ _ _ _)
  | slt c rd ra b => exact .quiet (r := execSlt c rd ra b s) (alu_frame _ _ _ _ _ _ _ _)
  | sltu c rd ra b => exact .quiet (r := execSltu c rd ra b s) (alu_frame _ _ _ _ _ _ _ _)
  | mul c rd ra b => exact .quiet (r := execMul c rd ra b s) (alu_frame _ _ _ _ _ _ _ _)
  | mulh c rd ra b => exact .quiet (r := execMulh c rd ra b s) (alu_frame _ _ _ _ _ _ _ _)
  | min c rd ra b => exact .quiet (r := execMin c rd ra b s) (alu_frame _ _ _ _ _ _ _ _)
  | max c rd ra b => exact .quiet (r := execMax c rd ra b s) (alu_frame _ _ _ _ _ _ _ _)
  | clz c rd ra b => exact .quiet (r := execClz c rd ra b s) (alu_frame _ _ _ _ _ _ _ _)
  | popc c rd ra b => exact .quiet (r := execPopc c rd ra b s) (alu_frame _ _ _ _ _ _ _ _)
  | lui c rd imm => exact .quiet (execLui_frame c rd imm s)
  | lw c rd ra imm => exact .quiet (execLw_frame c rd ra imm s)
  | sw c rd ra imm => exact .quiet (execSw_frame c rd ra imm s)
  | lbu c rd ra imm => exact .quiet (execLbu_frame c rd ra imm s)
  | sb c rd ra imm => exact .quiet (execSb_frame c rd ra imm s)
  | branchEq c ra rb off => exact .quiet (r := execBranchEq c ra rb off s) (branch_frame _ _ _ _ _ _)
  | branchNe c ra rb off => exact .quiet (r := execBranchNe c ra rb off s) (branch_frame _ _ _ _ _ _)
  | branchLt c ra rb off => exact .quiet (r := execBranchLt c ra rb off s) (branch_frame _ _ _ _ _ _)
  | branchGe c ra rb off => exact .quiet (r := execBranchGe c ra rb off s) (branch_frame _ _ _ _ _ _)
  | branchLtu c ra rb off => exact .quiet (r := execBranchLtu c ra rb off s) (branch_frame _ _ _ _ _ _)
  | branchGeu c ra rb off => exact .quiet (r := execBranchGeu c ra rb off s) (branch_frame _ _ _ _ _ _)
  | jal c rd off => exact .quiet (execJal_frame c rd off s)
  | jalr c rd ra imm => exact .quiet (execJalr_frame c rd ra imm s)
  | loop c n ra len => exact .quiet (execLoop_frame c n ra len s)
  | waitc c imm => exact .quiet (execWaitc_frame c imm s)
  | halt c => exact .quiet (execHalt_frame c s)
  | wswap c => exact .quiet (execWswap_frame c s)
  | accrd c e g clr sig => exact .quiet (execAccrd_frame c e g clr sig s)
  | accclr c e => exact .quiet (execAccclr_frame c e s)
  | fadd c vd va vb t => exact .quiet (r := execFadd c vd va vb t s) (vec_frame fun _ => Cluster.putLanes_sreg ..)
  | fsub c vd va vb t => exact .quiet (r := execFsub c vd va vb t s) (vec_frame fun _ => Cluster.putLanes_sreg ..)
  | fmul c vd va vb t => exact .quiet (r := execFmul c vd va vb t s) (vec_frame fun _ => Cluster.putLanes_sreg ..)
  | ffma c vd va vb vc t => exact .quiet (r := execFfma c vd va vb vc t s) (vec_frame fun _ => Cluster.putLanes_sreg ..)
  | fmax c vd va vb t => exact .quiet (r := execFmax c vd va vb t s) (vec_frame fun _ => Cluster.putLanes_sreg ..)
  | fmin c vd va vb t => exact .quiet (r := execFmin c vd va vb t s) (vec_frame fun _ => Cluster.putLanes_sreg ..)
  | fabs c vd va t => exact .quiet (r := execFabs c vd va t s) (vec_frame fun _ => Cluster.putLanes_sreg ..)
  | fneg c vd va t => exact .quiet (r := execFneg c vd va t s) (vec_frame fun _ => Cluster.putLanes_sreg ..)
  | fcmplt c vd va vb t => exact .quiet (r := execFcmplt c vd va vb t s) (vec_frame fun _ => rfl)
  | fsel c vd va vb vc t => exact .quiet (r := execFsel c vd va vb vc t s) (vec_frame fun _ => rfl)
  | fscale c vd va vb t => exact .quiet (r := execFscale c vd va vb t s) (vec_frame fun _ => Cluster.putLanes_sreg ..)
  | i2f c vd va t => exact .quiet (r := execI2f c vd va t s) (vec_frame fun _ => rfl)
  | f2i48 c vd va vb t => exact .quiet (r := execF2i48 c vd va vb t s) (vec_frame fun _ => Cluster.f2i48_sreg ..)
  | i48f c vd va t => exact .quiet (r := execI48f c vd va t s) (vec_frame fun _ => rfl)
  | iadd c vd va vb t => exact .quiet (r := execIadd c vd va vb t s) (vec_frame fun _ => rfl)
  | sqrt c vd va t => exact .quiet (r := execSqrt c vd va t s) (vec_frame fun _ => Cluster.putLanes_sreg ..)
  | recip c vd va t => exact .quiet (r := execRecip c vd va t s) (vec_frame fun _ => Cluster.putLanes_sreg ..)
  | rsqrt c vd va t => exact .quiet (r := execRsqrt c vd va t s) (vec_frame fun _ => Cluster.putLanes_sreg ..)
  | exp2 c vd va t => exact .quiet (r := execExp2 c vd va t s) (vec_frame fun _ => Cluster.putLanes_sreg ..)
  | log2 c vd va t => exact .quiet (r := execLog2 c vd va t s) (vec_frame fun _ => Cluster.putLanes_sreg ..)
  | tanh c vd va t => exact .quiet (r := execTanh c vd va t s) (vec_frame fun _ => Cluster.putLanes_sreg ..)
  | sigmoid c vd va t => exact .quiet (r := execSigmoid c vd va t s) (vec_frame fun _ => Cluster.putLanes_sreg ..)
  | erf c vd va t => exact .quiet (r := execErf c vd va t s) (vec_frame fun _ => Cluster.putLanes_sreg ..)
  | vred c vd va t => exact .quiet (r := execVred c vd va t s) (vec_frame fun _ => Cluster.vreduce_sreg ..)
  | vredmax c vd va t => exact .quiet (r := execVredmax c vd va t s) (vec_frame fun _ => Cluster.vreduce_sreg ..)
  | bar c b => exact .quiet (execBar_frame c b s)
  | bara c b => exact .quiet (execBara_frame c b s)
  | barw c b => exact .quiet (execBarw_frame c b s)
  | efset c f => exact .quiet (execEfset_frame c f s)
  | efclr c f => exact .quiet (execEfclr_frame c f s)
  | efwait c f v => exact .quiet (execEfwait_frame c f v s)
  | time c sb hi => exact .quiet (execTime_frame c sb hi s)
  | reductionStall r => exact .quiet (execReductionStall_frame r s)
  | treeNodeForward t n => exact .quiet (execTreeNodeForward_frame t n s)
  | barrierRelease b => exact .quiet (execBarrierRelease_frame b s)
  | timeBeacon => exact .quiet (execTimeBeacon_frame s)
  | networkFlitError c net port wire uncorrectable => exact .quiet (execNetworkFlitError_frame c net port wire uncorrectable s)
  | routerDomainLoss r ctl => exact .quiet (execRouterDomainLoss_frame r ctl s)
  | hostAccessTimeout p tid bytes => exact .quiet (execHostAccessTimeout_frame p tid bytes s)
  | nudge p ring => exact .quiet (execNudge_frame p ring s)
  | stream p skind recs => exact .quiet (execStream_frame p skind recs s)
  | cadenceTick => exact .quiet (execCadenceTick_frame s)
  | cadenceInEdge => exact .quiet (execCadenceInEdge_keepsMemory s)
  | pinFallbackTick => exact .quiet (execPinFallbackTick_frame s)
  | windowFree win => exact .quiet (execWindowFree_frame win s)
  | ptcmtGo p v => exact .quiet (execPtcmtGo_frame p v s)
  | ingestEnable p ch v => exact .quiet (execIngestEnable_frame p ch v s)
  | actuationEnable p a v => exact .quiet (execActuationEnable_frame p a v s)
  | flush p q v => exact .quiet (execFlush_frame p q v s)
  | poolModeRequest p pool v => exact .quiet (execPoolModeRequest_frame p pool v s)
  | poolModeChange pool => exact .quiet (execPoolModeChange_frame pool s)
  | timePacket p lo hi => exact .quiet (execTimePacket_frame p lo hi s)
  | timeinEdge => exact .quiet (execTimeinEdge_keepsMemory s)
  | timeSlewStep => exact .quiet (execTimeSlewStep_frame s)
  | glbTimecfgWrite p v => exact .quiet (execGlbTimecfgWrite_frame p v s)
  | refLost outOfRange => exact .quiet (execRefLost_frame outOfRange s)
  | refclkValid => exact .quiet (execRefclkValid_frame s)
  | droopStretch r => exact .quiet (execDroopStretch_frame r s)
  | moduleGovernorInterval pin pcore mvcore => exact .quiet (execModuleGovernorInterval_frame pin pcore mvcore s)
  | slabGovernorInterval sl amps => exact .quiet (execSlabGovernorInterval_frame sl amps s)
  | wakeRequest r why => exact .quiet (execWakeRequest_frame r why s)
  | regionIdleEntry r => exact .quiet (execRegionIdleEntry_frame r s)
  | bivouacEntry r => exact .quiet (execBivouacEntry_frame r s)
  | thermalCeilingLower sl temps => exact .quiet (execThermalCeilingLower_frame sl temps s)
  | thermalCeilingRaise r temp => exact .quiet (execThermalCeilingRaise_frame r temp s)
  | stackHot sl f temp => exact .quiet (execStackHot_frame sl f temp s)
  | thermalTrip src temp => exact .quiet (execThermalTrip_frame src temp s)
  | coolantRange inlet => exact .quiet (execCoolantRange_frame inlet s)
  | crackSuspect r group excessUv => exact .quiet (execCrackSuspect_frame r group excessUv s)
  | credit l ack sync control bulk strm => exact .quiet (execCredit_frame l ack sync control bulk strm s)
  | creditDue l => exact .quiet (execCreditDue_frame l s)
  | nak l group => exact .quiet (execNak_frame l group s)
  | resync l group => exact .quiet (execResync_frame l group s)
  | align l logical group physical => exact .quiet (execAlign_frame l logical group physical s)
  | alignmentGroup l => exact .quiet (execAlignmentGroup_frame l s)
  | peer l type depot format lanes peerid => exact .quiet (execPeer_frame l type depot format lanes peerid s)
  | lswap l logical physical group => exact .quiet (execLswap_frame l logical physical group s)
  | laneFailure l physical => exact .quiet (execLaneFailure_frame l physical s)
  | linkTraining l => exact .quiet (execLinkTraining_frame l s)
  | linkLost l reason => exact .quiet (execLinkLost_frame l reason s)
  | linkRetry l => exact .quiet (execLinkRetry_frame l s)
  | retrain p l => exact .quiet (execRetrain_frame p l s)
  | lnkDown p l => exact .quiet (execLnkDown_frame p l s)
  | clrpeer p l => exact .quiet (execClrpeer_frame p l s)
  | requestTimeout l tid => exact .quiet (execRequestTimeout_frame l tid s)
  | unknownPtype l head => exact .quiet (execUnknownPtype_frame l head s)
  | rcRead p addr tid => exact .quiet (execRcRead_frame p addr tid s)
  | latchingLoRead p addr tid => exact .quiet (execLatchingLoRead_frame p addr tid s)
  | autoretry => exact .quiet (execAutoretry_frame s)
  | getIdentity p tid => exact .quiet (execGetIdentity_frame p tid s)
  | attest p tid nonce => exact .quiet (execAttest_frame p tid nonce s)
  | fwWrite p tid addr data => exact .quiet (execFwWrite_frame p tid addr data s)
  | fwCommit p tid => exact .quiet (execFwCommit_frame p tid s)
  | logRead p tid addr bytes => exact .quiet (execLogRead_frame p tid addr bytes s)
  | recordRead p tid addr bytes => exact .quiet (execRecordRead_frame p tid addr bytes s)
  | mailboxTimeout => exact .quiet (execMailboxTimeout_frame s)
  | wctlArm p u => exact .quiet (execWctlArm_frame p u s)
  | wctlStop p u => exact .quiet (execWctlStop_frame p u s)
  | watchStart u => exact .quiet (execWatchStart_frame u s)
  | watchEnd u => exact .quiet (execWatchEnd_frame u s)
  | watchSample u v => exact .quiet (execWatchSample_frame u v s)
  | stage => exact .quiet (execStage_frame s)
  | state => exact .quiet (r := execState s) (State.smbRead_frame _ _ _)
  | temp => exact .quiet (r := execTemp s) (State.smbRead_frame _ _ _)
  | pin => exact .quiet (execPin_frame s)
  | vin => exact .quiet (r := execVin s) (State.smbRead_frame _ _ _)
  | ident => exact .quiet (r := execIdent s) (State.smbRead_frame _ _ _)
  | alertStatus => exact .quiet (execAlertStatus_frame s)
  | alertMask w => exact .quiet (execAlertMask_frame w s)
  | alertResponse => exact .quiet (execAlertResponse_frame s)
  | debugUnlock signature => exact .quiet (execDebugUnlock_frame signature s)
  | tapInstructionLoad ti => exact .quiet (execTapInstructionLoad_frame ti s)
  | uncorrectableCodeword l group crc => exact .quiet (execUncorrectableCodeword_frame l group crc s)
  | stretchRepayment r => exact .quiet (execStretchRepayment_frame r s)
  | testReset => exact .quiet (execTestReset_frame s)
  | _ => exact absurd h Bool.false_ne_true

end Sys2Proof.Machine

namespace Sys2Proof

open Machine

/-- Settles O7: the frame of every command of the list names neither the larders nor the cellar. -/
theorem quietCommandsKeepMemory : Obligations.QuietCommandsKeepMemory := by
  intro i s t quiet h
  have framed : Frame Part.quiet s t := (exec_frame_of_storesNothing quiet s).of_eq h
  exact framed.sameBytes

end Sys2Proof
end

section
/-! CLAIM. The grant of a LOAD in a state whose registers are not in canonical form. -/

namespace Sys2Proof.Machine

/-- A queued LOAD of no bytes into the slice of logical region 0. -/
def emptyLoad : Outst := { desc := 3, idx := 0, prog := .queued, tStart := 0, regions := [0] }

/-- READY with a scrub window open in region 0 and the LOAD in the queue. The registers are not in canonical form: the entry of
RGN_RATE stands before the one of GLB_GRIDMAPLO, whose key is lower, and so hides it. While it does, the map of column 0 reads its
Reset column, 0, and logical region 0 is region 0; the entry behind it maps no region. -/
def hiddenGridMap : State :=
  { dev := { base := .ready, next := none, grid := true }
    regs := [(Reg.RGN_RATE 0, some 0x4210), (Reg.GLB_GRIDMAPLO 0, some 0xFFFFFFFF)]
    regions := [(0, { scrubWin := true })]
    jobs := { rings := [(0, { out := some emptyLoad })], queue := [0] } }

/-- The undefined case in which an outcome ends. -/
def undefinedCaseOf : Res → Option UCase
  | .fault (.undefinedCase u) => some u
  | _ => none

theorem undefinedCaseOf_next (t : State) : undefinedCaseOf (.next t) = none := rfl

theorem hiddenGridMap_gate :
    hiddenGridMap.grantable (hiddenGridMap.jobs.ahead ++ hiddenGridMap.jobs.queue) [] [] = some 0 := by decide +kernel

theorem hiddenGridMap_peerUnit : hiddenGridMap.peerUnit emptyLoad.desc = some ⟨false, 0⟩ := by decide +kernel

/-- The claim of region 0 closes its scrub window. On the way to BIVOUAC, RGN_RATE takes its Reset column, so that its entry goes and
GLB_GRIDMAPLO shows: the unit that the LOAD names is in the grid no more. -/
theorem grant_hiddenGridMap : undefinedCaseOf (exec .grant hiddenGridMap) = some .u2 := by decide +kernel

end Sys2Proof.Machine

namespace Sys2Proof

open Machine

/-- Refutes O47: its clause on LOAD asks for no canonical state, and in `hiddenGridMap` the grant of an empty LOAD is an undefined
case. -/
theorem not_stepsAdvance : ¬ Obligations.StepsAdvance := by
  intro h
  obtain ⟨_, _, grants, _⟩ := h hiddenGridMap 0 0 0 0 0
  obtain ⟨_, load⟩ := grants 0 emptyLoad (.inl rfl) rfl hiddenGridMap_gate rfl
  have noGrant : ∀ g ∈ hiddenGridMap.jobs.grants, ∀ x, (hiddenGridMap.ring g).out = some x → dF x.desc 0 1 ≠ 9 :=
    fun g hg => absurd hg List.not_mem_nil
  obtain ⟨t, granted, _⟩ := load ⟨false, 0⟩ (by decide +kernel) hiddenGridMap_peerUnit (.inl (by decide +kernel)) rfl rfl noGrant
  have undef := grant_hiddenGridMap
  rw [granted, undefinedCaseOf_next] at undef
  cases undef

end Sys2Proof
end

section
/-! SUPPORT. How an instruction of a core that issues ends: on the cluster alone, with what the larder delivers, and in a tree. -/

namespace Sys2Proof.Machine

variable {s : State} {site : SiteNo}

/-- A core that issues runs its instruction (R107). -/
theorem State.core_of_ready (ready : s.coreReady site = true) (k : Cluster → Res) : s.core site k = k (s.cl site) := if_pos ready

-- Reads through a handle (R132, R141)

section
variable {h : BitVec 6} {off n t a : Nat} {d : List Byte} {k : State → List Byte → Res}

theorem State.handleRead_of_delivered (place : s.handleAt site h off n = .at_ t a) (read : s.larRead t a n = (s', some d)) :
    s.handleRead site h off n k = k s' d := by simp only [State.handleRead, place, read]

theorem State.handleRead_of_held (place : s.handleAt site h off n = .at_ t a) (read : s.larRead t a n = (s', none)) :
    s.handleRead site h off n k = .next (s'.setCl site { s'.cl site with stall := some .heldAccess }) := by
  simp only [State.handleRead, place, read]; rfl

end

/-- What works on the cluster with the `n` bytes that it reads through a handle: how it ends with those that the larder delivers, and
the stall that an uncorrectable word leaves. -/
theorem ends_of_handleRead {r : Res} {h : BitVec 6} {off n t a : Nat} {put : State → List Byte → Cluster}
    (hr : r = s.handleRead site h off n fun s' d => s'.fin site (put s' d)) (place : s.handleAt site h off n = .at_ t a) :
    (∀ s' d, s.larRead t a n = (s', some d) → r = .next (s'.setCl site (put s' d).advance))
    ∧ ∀ s', s.larRead t a n = (s', none) → r = .next (s'.setCl site { s'.cl site with stall := some .heldAccess }) :=
  ⟨fun _ _ read => hr.trans (State.handleRead_of_delivered place read), fun _ read => hr.trans (State.handleRead_of_held place read)⟩

-- Vector instructions that work on the cluster alone (R104, R109)

theorem vec_of_ready {op : Instr} {bad : Bool} {f : Cluster → Cluster} (ready : s.coreReady site = true) :
    vec site op bad f s
      = .next (if bad then s.progFault site 0 else s.setCl site ((f (s.cl site)).record op [] []).advance) := by
  rw [vec, State.core_of_ready ready]
  cases bad <;> rfl

-- WFMT (R109)

theorem wfmtBad_of_lt {w : BitVec 3} (h : w.toNat < 5) : wfmtBad w = false := decide_eq_false (Nat.not_le.2 h)

theorem wfmtBad_of_le {w : BitVec 3} (h : 5 ≤ w.toNat) : wfmtBad w = true := decide_eq_true h

-- Contributions to a tree (R185, R187, R188)

/-- The logical cluster of a site; one that the grid does not place has the number of no cluster. -/
abbrev State.logicalCluster (s : State) (site : SiteNo) : Nat := (s.siteCluster site).getD 16383

/-- A contribution has left its cluster: it is counted, and waits at the region's hub unless the way there is cut (R178, R187). -/
def State.contributed (s : State) (site : SiteNo) (t : Nat) (x : Tree) (vals : List Int) : State :=
  let lc := s.logicalCluster site
  let n := Tab.get 0 s.sync.contrib (arrKey t lc)
  { s with sync := { s.sync with
    contrib := Tab.set 0 s.sync.contrib (arrKey t lc) (n + 1)
    msgs := if s.path 0 site [s.hubSite (lc / 64)] then
        s.sync.msgs ++ [⟨t, n, 1, lc / 64, lc % 64, (vals.take x.width).map (BitVec.ofInt 64)⟩]
      else s.sync.msgs } }

/-- The next contribution of a cluster is two ahead of what the region knows to be complete (R188). -/
def State.contribAhead (s : State) (site : SiteNo) (t : Nat) : Prop :=
  Tab.get 0 (s.syncAt (siteRegion site)).treeInst t + 2 ≤ Tab.get 0 s.sync.contrib (arrKey t (s.logicalCluster site))

section
variable {t : Nat} {x : Tree} {vals : List Int} {k : State → Res}

theorem contribute_of_badEntry (bad : s.tree t = none) : contribute site t vals k s = .fault (.undefinedCase .u2) := by
  simp only [contribute, bad]; rfl

theorem contribute_of_stranger (entry : s.tree t = some x) (stranger : x.m.has (s.logicalCluster site) = false) :
    contribute site t vals k s = k (s.count (Reg.RGN_NETDISC (siteRegion site)) 0 32 (vals.length / 8)) := by
  simp only [contribute, entry, stranger, Bool.not_false, if_true]

theorem contribute_of_ahead (entry : s.tree t = some x) (member : x.m.has (s.logicalCluster site) = true) (ahead : s.contribAhead site t) :
    contribute site t vals k s = .next (s.setCl site { s.cl site with stall := some (.tree t) }) := by
  rw [State.contribAhead] at ahead
  simp only [contribute, entry, member, Bool.not_true, Bool.false_eq_true, if_false, ahead, if_true]
  rfl

theorem contribute_of_member (entry : s.tree t = some x) (member : x.m.has (s.logicalCluster site) = true)
    (due : ¬ s.contribAhead site t) : contribute site t vals k s = k (s.contributed site t x vals) := by
  rw [State.contribAhead] at due
  simp only [contribute, entry, member, Bool.not_true, Bool.false_eq_true, if_false, due]
  congr 1
  simp only [State.sendSum, State.contributed, Option.elim, State.path_sync]
  have hub (y : SyncNet) : ({ s with sync := y } : State).nodeSite x 1 (s.logicalCluster site / 64)
      = s.hubSite (s.logicalCluster site / 64) := rfl
  simp only [hub]
  split <;> rfl

end

end Sys2Proof.Machine
end

section
/-! CLAIM. Instructions of a core: reads of the larder, the vector lanes, contributions to trees. -/

namespace Sys2Proof

open Machine

/-- Settles O16: each reader is a read through its handle (`ends_of_handleRead`), and a WFMT from 5 up stops the core. -/
theorem larderReadersComplete : Obligations.LarderReadersComplete := by
  intro s c h sa sb vd wfmt aw e add ready
  refine ⟨?ldl, fun good => ⟨?wload, ?wrow⟩, fun bad => ⟨?wloadBad, ?wrowBad⟩, ?wscale, ?pass, ?accld, ?vld⟩
  case ldl => exact fun _ _ => ends_of_handleRead (State.core_of_ready ready _ : execLdl c h sa sb s = _)
  case wload =>
    intro t a place
    have plane : execWload c h sa wfmt s = arrayRead c (.wload c h sa wfmt) h _ _ _ _ s :=
      (State.core_of_ready ready _).trans (if_neg (Bool.eq_false_iff.1 (wfmtBad_of_lt good)))
    rw [place] at plane
    exact ends_of_handleRead plane place
  case wrow =>
    have row : execWrow c h sa sb wfmt s = arrayRead c (.wrow c h sa sb wfmt) h _ _ _ _ s :=
      (State.core_of_ready ready _).trans (if_neg (Bool.eq_false_iff.1 (wfmtBad_of_lt good)))
    exact fun _ _ => ends_of_handleRead row
  case wloadBad => exact ((State.core_of_ready ready _).trans (if_pos (wfmtBad_of_le bad)) : execWload c h sa wfmt s = _)
  case wrowBad => exact ((State.core_of_ready ready _).trans (if_pos (wfmtBad_of_le bad)) : execWrow c h sa sb wfmt s = _)
  case wscale => exact fun _ _ => ends_of_handleRead (State.core_of_ready ready _ : execWscale c h sa s = _)
  case pass => exact fun _ _ => ends_of_handleRead (State.core_of_ready ready _ : execPass c h sa aw e add s = _)
  case accld => exact fun _ _ => ends_of_handleRead (State.core_of_ready ready _ : execAccld c h sa sb s = _)
  case vld => exact fun _ _ => ends_of_handleRead (State.core_of_ready ready _ : execVld c vd h sa s = _)

/-- Settles O25: every one of the instructions is `vec` of its operation, which `vec_of_ready` completes. -/
theorem vectorLaneInstructions : Obligations.VectorLaneInstructions := by
  intro s c vd va vb vc t ready
  refine ⟨?fadd, ?fsub, ?fmul, ?ffma, ?fmax, ?fmin, ?fabs, ?fneg, ?fcmplt, ?fsel, ?fscale, ?i2f, ?f2i48, ?i48f, ?iadd, ?sqrt, ?recip,
    ?rsqrt, ?exp2, ?log2, ?tanh, ?sigmoid, ?erf, ?vred, ?vredmax⟩
  case fadd => exact (vec_of_ready ready : execFadd c vd va vb t s = _)
  case fsub => exact (vec_of_ready ready : execFsub c vd va vb t s = _)
  case fmul => exact (vec_of_ready ready : execFmul c vd va vb t s = _)
  case ffma => exact (vec_of_ready ready : execFfma c vd va vb vc t s = _)
  case fmax => exact (vec_of_ready ready : execFmax c vd va vb t s = _)
  case fmin => exact (vec_of_ready ready : execFmin c vd va vb t s = _)
  case fabs => exact (vec_of_ready ready : execFabs c vd va t s = _)
  case fneg => exact (vec_of_ready ready : execFneg c vd va t s = _)
  case fcmplt => exact (vec_of_ready ready : execFcmplt c vd va vb t s = _)
  case fsel => exact (vec_of_ready ready : execFsel c vd va vb vc t s = _)
  case fscale => exact (vec_of_ready ready : execFscale c vd va vb t s = _)
  case i2f => exact (vec_of_ready ready : execI2f c vd va t s = _)
  case f2i48 => exact (vec_of_ready ready : execF2i48 c vd va vb t s = _)
  case i48f => exact (vec_of_ready ready : execI48f c vd va t s = _)
  case iadd => exact (vec_of_ready ready : execIadd c vd va vb t s = _)
  case sqrt => exact (vec_of_ready ready : execSqrt c vd va t s = _)
  case recip => exact (vec_of_ready ready : execRecip c vd va t s = _)
  case rsqrt => exact (vec_of_ready ready : execRsqrt c vd va t s = _)
  case exp2 => exact (vec_of_ready ready : execExp2 c vd va t s = _)
  case log2 => exact (vec_of_ready ready : execLog2 c vd va t s = _)
  case tanh => exact (vec_of_ready ready : execTanh c vd va t s = _)
  case sigmoid => exact (vec_of_ready ready : execSigmoid c vd va t s = _)
  case erf => exact (vec_of_ready ready : execErf c vd va t s = _)
  case vred => exact (vec_of_ready ready : execVred c vd va t s = _)
  case vredmax => exact (vec_of_ready ready : execVredmax c vd va t s = _)

/-- Settles O34, by the four ways in which a contribution goes. -/
theorem treeContributions : Obligations.TreeContributions := by
  intro s c e va t clr sig ready
  have accnr : exec (.accnr c e t clr sig) s = contribute c t.toNat (((s.cl c).entry e.toNat).map (·.toInt))
      (fun y => y.fin c (((y.cl c).readout e.toNat clr sig).record (.accnr c e t clr sig) [] [])) s :=
    (State.core_of_ready ready _ : execAccnr c e t clr sig s = _)
  have vnr (pair : va ≠ 31) : exec (.vnr c va t) s = contribute c t.toNat ((s.cl c).pair va)
      (fun y => y.fin c ((y.cl c).record (.vnr c va t) [] [])) s :=
    (State.core_of_ready ready _ : execVnr c va t s = _).trans (if_neg pair)
  refine ⟨fun bad => ⟨?badAccnr, fun pair => ?badVnr⟩, ?vnr31, fun x entry => ⟨fun member due => ?sentAccnr,
    fun member due pair => ?sentVnr, fun member ahead => ⟨?aheadAccnr, fun pair => ?aheadVnr⟩,
    fun stranger => ⟨?strangerAccnr, fun pair => ?strangerVnr⟩⟩⟩
  case badAccnr => exact accnr.trans (contribute_of_badEntry bad)
  case badVnr => exact (vnr pair).trans (contribute_of_badEntry bad)
  case vnr31 => exact (State.core_of_ready ready _ : execVnr c 31 t s = _)
  case sentAccnr => exact accnr.trans (contribute_of_member entry member due)
  case sentVnr => exact (vnr pair).trans (contribute_of_member entry member due)
  case aheadAccnr => exact accnr.trans (contribute_of_ahead entry member ahead)
  case aheadVnr => exact (vnr pair).trans (contribute_of_ahead entry member ahead)
  case strangerAccnr => exact accnr.trans (contribute_of_stranger entry stranger)
  case strangerVnr => exact (vnr pair).trans (contribute_of_stranger entry stranger)

end Sys2Proof
end

section
/-! CLAIM. Element-wise sums of the contributions to a tree. -/

namespace Sys2Proof.Machine

@[simp] theorem addVec_nil_left (a : List DWord) : addVec [] a = a := by cases a <;> rfl

@[simp] theorem addVec_nil_right (a : List DWord) : addVec a [] = a := by cases a <;> rfl

theorem addVec_comm (a b : List DWord) : addVec a b = addVec b a := by
  induction a generalizing b with
  | nil => simp
  | cons x a ih =>
    cases b with
    | nil => rfl
    | cons y b => simp only [addVec, ih b, BitVec.add_comm x y]

theorem addVec_assoc (a b c : List DWord) : addVec (addVec a b) c = addVec a (addVec b c) := by
  induction a generalizing b c with
  | nil => simp
  | cons x a ih =>
    cases b with
    | nil => simp
    | cons y b =>
      cases c with
      | nil => simp
      | cons z c => simp only [addVec, ih b c, BitVec.add_assoc]

theorem addVec_right_comm (a b c : List DWord) : addVec (addVec a b) c = addVec (addVec a c) b := by
  rw [addVec_assoc, addVec_comm b c, addVec_assoc]

/-- An element past the end of a vector counts 0. -/
def elemAt (a : List DWord) (j : Nat) : DWord := a[j]?.getD 0

theorem elemAt_addVec (a b : List DWord) (j : Nat) : elemAt (addVec a b) j = elemAt a j + elemAt b j := by
  induction a generalizing b j with
  | nil => simp [elemAt]
  | cons x a ih =>
    cases b with
    | nil => simp [elemAt]
    | cons y b =>
      cases j with
      | zero => rfl
      | succ j => exact ih b j

/-- An element of a sum of vectors is the sum of the elements that the vectors have there. -/
theorem elemAt_foldl_addVec (l : List (List DWord)) (acc : List DWord) (j : Nat) :
    elemAt (l.foldl addVec acc) j = (l.filterMap fun v => v[j]?).foldl (· + ·) (elemAt acc j) := by
  induction l generalizing acc with
  | nil => rfl
  | cons v l ih =>
    rw [List.foldl_cons, ih, elemAt_addVec]
    cases hv : v[j]? with
    | none => simp [elemAt, hv]
    | some x => simp [elemAt, hv]

end Sys2Proof.Machine

namespace Sys2Proof

open Machine

/-- Settles O28: vectors add in any order, and each element of a sum is the sum of elements. -/
theorem reductionSumsIgnoreOrder : Obligations.ReductionSumsIgnoreOrder := by
  intro l l' perm
  have order : RightCommutative addVec := ⟨addVec_right_comm⟩
  refine ⟨perm.foldl_eq [], fun j x hx => ?_⟩
  have sum := elemAt_foldl_addVec l [] j
  rwa [elemAt, hx] at sum

end Sys2Proof
end

section
/-! CLAIM. The records that requantisation forms. -/

namespace Sys2Proof.Machine

@[simp] theorem length_toLe (n v : Nat) : (toLe n v).length = n := by
  induction n generalizing v with
  | zero => rfl
  | succ n ih => simp [toLe, ih]

theorem length_packElems (b : Nat) (l : List Int) : (packElems b l).length = 4 * b := by
  rw [packElems, length_toLe]
  omega

theorem length_outlierBytes (outl : List (Nat × Int)) :
    (outl.map fun e => [BitVec.ofNat 8 e.1, BitVec.ofInt 8 e.2]).flatten.length = 2 * outl.length := by
  induction outl with
  | nil => rfl
  | cons e outl ih => simp only [List.map_cons, List.flatten_cons, List.length_append, List.length_cons, List.length_nil, ih]; omega

/-- A record is as long as its format says, if its outliers fit the trailer (R63). -/
theorem length_mkRec (b : Nat) (l : List Int) (scale : Byte) {outl : List (Nat × Int)} (fits : outl.length ≤ 3) :
    (mkRec b l scale outl).length = 4 * b + 8 := by
  simp only [mkRec, List.length_append, length_packElems, length_outlierBytes, List.length_cons, List.length_nil,
    List.length_replicate]
  omega

/-- The byte behind the scale byte says how many outliers a record carries (R63). -/
theorem mkRec_countByte (b : Nat) (l : List Int) (scale : Byte) (outl : List (Nat × Int)) :
    (mkRec b l scale outl)[4 * b + 1]? = some (BitVec.ofNat 8 outl.length) := by
  simp only [mkRec]
  rw [List.getElem?_append_right (by rw [length_packElems]; omega), length_packElems, Nat.add_sub_cancel_left]
  rfl

/-- Entries of a numbered list whose numbers all stand in `top` are no more than those of `top`. -/
theorem length_filter_zipIdx_le {α : Type} (l : List α) {p : α × Nat → Bool} {top : List Nat}
    (hp : ∀ e, p e = true → e.2 ∈ top) :
    (l.zipIdx.filter p).length ≤ top.length := by
  have numbers : (l.zipIdx.map Prod.snd).Nodup := by rw [List.zipIdx_map_snd]; exact List.nodup_range'
  have distinct : ((l.zipIdx.filter p).map Prod.snd).Nodup := numbers.sublist (List.filter_sublist.map _)
  have within : (l.zipIdx.filter p).map Prod.snd ⊆ top := by
    intro n hn
    obtain ⟨e, he, rfl⟩ := List.mem_map.1 hn
    exact hp e (List.mem_filter.1 he).2
  simpa using (List.subperm_of_subset distinct within).length_le

/-- Entries of a numbered list that are numbered by the first two of another are at most two. -/
theorem length_filter_zipIdx_le_two {α β : Type} (l : List α) {p : α × Nat → Bool} (order : List β) (number : β → Nat)
    (hp : ∀ e, p e = true → e.2 ∈ (order.take 2).map number) : (l.zipIdx.filter p).length ≤ 2 :=
  (length_filter_zipIdx_le l hp).trans (by rw [List.length_map]; exact List.length_take_le 2 order)

/-- What VRQ forms of a block is one record of its format with at most two outliers, none in A1 and A8 or with OUTL clear (R78). -/
theorem requant_eq_mkRec (aw : Nat) (outl sgn : Bool) (sc : Byte) (xs : List Word) :
    ∃ (l : List Int) (scale : Byte) (ent : List (Nat × Int)),
      (requant aw outl sgn sc xs).bytes = mkRec (aBits aw) l scale ent ∧ (requant aw outl sgn sc xs).outliers = ent.length
      ∧ ent.length ≤ 2 ∧ (aw = 0 ∨ aw = 3 ∨ outl = false → ent = []) := by
  rw [requant]
  split
  · next a1 =>
    subst a1
    exact ⟨_, _, [], rfl, rfl, by decide, fun _ => rfl⟩
  · next notA1 =>
    refine ⟨_, _, _, rfl, (List.length_map _).symm, ?_, fun plain => ?_⟩
    · rw [List.length_map]
      refine length_filter_zipIdx_le_two _ (rank (xs.map fun x => if isNan32 x then 0 else x)) Prod.snd fun e he => ?_
      simp only [Bool.and_eq_true, List.contains_iff_mem] at he
      exact he.1.2
    · have off : (outl && decide (aw ≠ 3)) = false := by
        rcases plain with h | h | h
        · exact absurd h notA1
        · simp [h]
        · simp [h]
      simp only [off, Bool.false_and, List.filter_false, List.map_nil]

end Sys2Proof.Machine

namespace Sys2Proof

open Machine

/-- Settles O27, from the record that a requantised block is. -/
theorem requantisedRecordsAreWellFormed : Obligations.RequantisedRecordsAreWellFormed := by
  intro aw outl sgn sc xs _ _
  obtain ⟨l, scale, ent, bytes, outliers, few, empty⟩ := requant_eq_mkRec aw outl sgn sc xs
  simp only [bytes, outliers]
  exact ⟨length_mkRec _ _ _ (by omega), few, fun plain => by rw [empty plain]; rfl, mkRec_countByte ..⟩

end Sys2Proof
end

section
/-! CLAIM. The terms of block sums, and the columns that take them. -/

namespace Sys2Proof.Machine

/-- Rounding a shifted-down number: by how much the result is off (R67). -/
theorem shrRne_nearest (m : Nat) {k : Nat} (hk : 0 < k) :
    2 * ((shrRne m k false : Int) * 2 ^ k - m).natAbs ≤ 2 ^ k
    ∧ (2 * ((shrRne m k false : Int) * 2 ^ k - m).natAbs = 2 ^ k → shrRne m k false % 2 = 0) := by
  obtain ⟨j, rfl⟩ : ∃ j, k = j + 1 := ⟨k - 1, by omega⟩
  have parts : m / 2 ^ (j + 1) * (2 ^ j * 2) + m % 2 ^ (j + 1) = m := by rw [← Nat.pow_succ]; exact Nat.div_add_mod' m _
  have below : m % 2 ^ (j + 1) < 2 ^ j * 2 := by rw [← Nat.pow_succ]; exact Nat.mod_lt _ (Nat.two_pow_pos _)
  simp only [shrRne, Nat.shiftRight_eq_div_pow, Nat.add_sub_cancel, Bool.false_eq_true, false_or, Nat.succ_ne_zero, if_false]
  rw [show (2 : Int) ^ (j + 1) = ((2 ^ j : Nat) : Int) * 2 by push_cast; ring, Nat.pow_succ 2 j] at *
  generalize m / (2 ^ j * 2) = q at *
  generalize m % (2 ^ j * 2) = r at *
  generalize 2 ^ j = half at *
  have rest : (m : Int) = q * (half * 2) + r := by rw [← parts]; push_cast; ring
  split
  · next up =>
    have off : ((q + 1 : Nat) : Int) * (half * 2) - m = half * 2 - r := by rw [rest]; push_cast; ring
    rw [off]
    omega
  · next down =>
    have off : (q : Int) * (half * 2) - m = -r := by rw [rest]; ring
    rw [off]
    omega

theorem natAbs_signed (n : Bool) (m : Nat) : (signed n m).natAbs = m := by cases n <;> simp [signed]

/-- Rounding goes the same way on either side of zero. -/
theorem divRne_error (v : Int) (k : Nat) :
    (divRne v k * 2 ^ k - v).natAbs = ((shrRne v.natAbs k false : Int) * 2 ^ k - v.natAbs).natAbs := by
  by_cases neg : v < 0
  · have abs : (v.natAbs : Int) = -v := by omega
    simp only [divRne, neg, decide_true, signed, if_true, abs]
    rw [← Int.natAbs_neg]
    congr 1
    ring
  · have abs : (v.natAbs : Int) = v := by omega
    simp only [divRne, neg, decide_false, signed, Bool.false_eq_true, if_false, abs]

theorem divRne_even (v : Int) (k : Nat) : divRne v k % 2 = 0 ↔ shrRne v.natAbs k false % 2 = 0 := by
  have abs : (divRne v k).natAbs = shrRne v.natAbs k false := natAbs_signed ..
  omega

theorem divRne_nearest (v : Int) {k : Nat} (hk : 0 < k) :
    2 * (divRne v k * 2 ^ k - v).natAbs ≤ 2 ^ k ∧ (2 * (divRne v k * 2 ^ k - v).natAbs = 2 ^ k → divRne v k % 2 = 0) := by
  rw [divRne_error, divRne_even]
  exact shrRne_nearest v.natAbs hk

/-- A clamp changes what lies outside 32 bits. -/
theorem clamp32_ne_iff (v : Int) : clamp32 v ≠ v ↔ v < -2 ^ 31 ∨ 2 ^ 31 - 1 < v := by
  rw [clamp32]
  omega

/-- A NaN scale byte on either side (R67). -/
theorem blockTerm_of_nan (f : Nat) {ew ea : Byte} (v : Int) (h : ew = 0xFF ∨ ea = 0xFF) :
    blockTerm f ew ea v = ⟨0, false, false, true⟩ := if_pos h

/-- The value of a term whose scale bytes are no NaN, by the shift d (R67). -/
def termValue (d v : Int) : Int :=
  if 0 ≤ d then clamp32 (v * 2 ^ d.toNat) else if -31 ≤ d then divRne v (-d).toNat else 0

theorem blockTerm_of_number (f : Nat) {ew ea : Byte} (v : Int) (hw : ew ≠ 0xFF) (ha : ea ≠ 0xFF) :
    let d : Int := ew.toNat + ea.toNat - f
    blockTerm f ew ea v
      = ⟨termValue d v, decide (0 ≤ d) && decide (termValue d v ≠ v * 2 ^ d.toNat),
        decide (termValue d v = 0) && decide (v ≠ 0), false⟩ :=
  if_neg (not_or.2 ⟨hw, ha⟩)

end Sys2Proof.Machine

namespace Sys2Proof

open Machine

/-- Settles O24: rounding by `divRne_nearest`, a term by the sign and size of its shift, and the column's add field by field. -/
theorem termsRoundToNearestEven : Obligations.TermsRoundToNearestEven := by
  refine ⟨fun v k => divRne_nearest v, ?term, fun k => Nat.min_le_left _ _, ?column⟩
  case term =>
    intro f ew ea v
    refine ⟨fun nan => by rw [blockTerm_of_nan f v nan]; exact ⟨rfl, rfl, rfl, rfl⟩, fun hw ha => ?_⟩
    rw [blockTerm_of_number f v hw ha]
    generalize (ew.toNat + ea.toNat - f : Int) = d
    refine ⟨rfl, fun up => ?_, fun near down => ?_, fun far => ?_, by simp⟩
    · have value : termValue d v = clamp32 (v * 2 ^ d.toNat) := if_pos up
      refine ⟨value, ?_⟩
      rw [← clamp32_ne_iff]
      simp [up, value]
    · have value : termValue d v = divRne v (-d).toNat := (if_neg (by omega)).trans (if_pos near)
      exact ⟨value, by simp; omega⟩
    · have value : termValue d v = 0 := (if_neg (by omega)).trans (if_neg (by omega))
      exact ⟨value, by simp; omega⟩
  case column =>
    intro a t
    refine ⟨rfl, ?_, by simp [ColAcc.add], rfl⟩
    rw [← clamp32_ne_iff]
    simp [ColAcc.add, or_assoc]

end Sys2Proof
end

section
/-! CLAIM. Weights of a row record, and the block sums that the array forms with them. -/

namespace Sys2Proof.Machine

-- Packed elements (R57, R58)

theorem ofLe_cons_field (x : Byte) (d : List Byte) {lo n : Nat} (fits : lo + n ≤ 8) :
    ofLe (x :: d) / 2 ^ lo % 2 ^ n = x.toNat / 2 ^ lo % 2 ^ n := by
  obtain ⟨k, hk⟩ := Nat.exists_eq_add_of_le fits
  have byte : 256 * ofLe d = 2 ^ lo * (2 ^ n * (2 ^ k * ofLe d)) := by
    rw [show (256 : Nat) = 2 ^ (lo + n + k) from hk ▸ rfl, Nat.pow_add, Nat.pow_add, Nat.mul_assoc, Nat.mul_assoc]
  rw [ofLe, byte, Nat.add_mul_div_left _ _ (Nat.two_pow_pos lo), Nat.add_mul_mod_self_left]

theorem ofLe_cons_shift (x : Byte) (d : List Byte) (n : Nat) : ofLe (x :: d) / 2 ^ (8 + n) = ofLe d / 2 ^ n := by
  have behind : ofLe (x :: d) / 2 ^ 8 = ofLe d := by
    rw [ofLe]
    have := x.isLt
    omega
  rw [Nat.pow_add, ← Nat.div_div_eq_div_mul, behind]

/-- Element i of a packed list is the field of b bits at bit b × i of the bytes read as one number (R58). -/
theorem unpack_eq {b c : Nat} (hb : 8 / b = c) (whole : b * c = 8) (d : List Byte) :
    unpack b d = (List.range (c * d.length)).map fun i => ofLe d / 2 ^ (b * i) % 2 ^ b := by
  induction d with
  | nil => rfl
  | cons x d ih =>
    rw [show unpack b (x :: d) = ((List.range (8 / b)).map fun i => x.toNat / 2 ^ (b * i) % 2 ^ b) ++ unpack b d from rfl, hb, ih,
      List.length_cons, Nat.mul_succ, Nat.add_comm (c * d.length), List.range_add, List.map_append, List.map_map]
    congr 1
    · refine List.map_congr_left fun i hi => (ofLe_cons_field x d ?_).symm
      calc b * i + b = b * (i + 1) := rfl
        _ ≤ b * c := Nat.mul_le_mul_left b (List.mem_range.1 hi)
        _ = 8 := whole
    · refine List.map_congr_left fun i _ => ?_
      rw [Function.comp_apply, Nat.mul_add, whole, ofLe_cons_shift]

theorem rowWeights_eq (fmt : Nat) {c : Nat} {d : List Byte} (hb : 8 / wBits fmt = c) (whole : wBits fmt * c = 8)
    (len : c * d.length = 256) : rowWeights fmt d = (List.range 256).map fun i =>
      let v := ofLe d / 2 ^ (wBits fmt * i) % 2 ^ wBits fmt
      if fmt = 0 then (if v = 0 then 0xFF else 1) else BitVec.ofInt 8 (sext (wVal fmt) v) := by
  rw [rowWeights, unpack_eq hb whole, len, List.map_map]
  rfl

/-- A field's value is that of the signed word of its width. -/
theorem sext_eq_toInt {n : Nat} (hn : 0 < n) (v : Nat) : sext n v = (BitVec.ofNat n v).toInt := by
  obtain ⟨m, rfl⟩ : ∃ m, n = m + 1 := ⟨n - 1, by omega⟩
  rw [sext, BitVec.toInt_eq_toNat_cond, BitVec.toNat_ofNat, Nat.add_sub_cancel]
  have half : (2 * (v % 2 ^ (m + 1)) < 2 ^ (m + 1)) ↔ v % 2 ^ (m + 1) < 2 ^ m := by omega
  simp only [half]
  norm_cast

/-- The low n bits of a field, as the cells hold them. -/
theorem ofInt_sext {n b : Nat} (hn : 0 < n) (hb : n ≤ b) (v : Nat) :
    BitVec.ofInt 8 (sext n (v % 2 ^ b)) = (BitVec.ofNat n v).signExtend 8 := by
  have low : BitVec.ofNat n (v % 2 ^ b) = BitVec.ofNat n v :=
    BitVec.eq_of_toNat_eq (by simp only [BitVec.toNat_ofNat, Nat.mod_mod_of_dvd _ (Nat.pow_dvd_pow 2 hb)])
  rw [sext_eq_toInt hn, low, BitVec.signExtend]

theorem rowWeights_w1 {d : List Byte} (len : d.length = 32) :
    rowWeights 0 d = (List.range 256).map fun i => if BitVec.ofNat 1 (ofLe d / 2 ^ i) = 1 then (1 : Byte) else 0xFF := by
  rw [rowWeights_eq 0 (c := 8) rfl rfl (by omega)]
  refine List.map_congr_left fun i _ => ?_
  have bit : BitVec.ofNat 1 (ofLe d / 2 ^ i) = 1 ↔ ofLe d / 2 ^ i % 2 = 1 := by simp [← BitVec.toNat_inj]
  simp only [bit, wBits, Nat.one_mul, Nat.pow_one, if_true]
  rcases Nat.mod_two_eq_zero_or_one (ofLe d / 2 ^ i) with clear | one
  · simp [clear]
  · simp [one]

/-- Formats of more than a bit: the signed value of the low bits of each field (R57 to R59). -/
theorem rowWeights_signed {fmt c : Nat} {d : List Byte} (hf : fmt ≠ 0) (hb : 8 / wBits fmt = c) (whole : wBits fmt * c = 8)
    (len : c * d.length = 256) (hn : 0 < wVal fmt) (low : wVal fmt ≤ wBits fmt) :
    rowWeights fmt d = (List.range 256).map fun i => (BitVec.ofNat (wVal fmt) (ofLe d / 2 ^ (wBits fmt * i))).signExtend 8 := by
  rw [rowWeights_eq fmt hb whole len]
  exact List.map_congr_left fun i _ => (if_neg hf).trans (ofInt_sext hn low _)

theorem rowWeights_w8 (d : List Byte) : rowWeights 4 d = d := by
  induction d with
  | nil => rfl
  | cons x d ih =>
    have byte : BitVec.ofInt 8 (sext 8 (x.toNat / 2 ^ (8 * 0) % 2 ^ 8)) = x := by
      rw [ofInt_sext (by decide) (by decide), BitVec.signExtend_eq]; simp
    exact congrArg₂ List.cons byte ih

-- Block sums (R65, R66)

/-- The weight of a block's row in a column. -/
def Plane.weight (p : Plane) (b col i : Nat) : Int := (Tab.get 0 p.w ((32 * b + i) * 256 + col)).toInt

theorem Plane.row_getElem? {p : Plane} {b i col : Nat} (wf : Tab.wf 0 p.w = true) (hcol : col < 256) :
    (p.row (32 * b + i))[col]? = some (p.weight b col i) := by
  rw [Plane.row, Tab.getList_eq wf]
  simp [hcol, Plane.weight]

/-- One row's products join the sums of a block. -/
def Plane.addRow (p : Plane) (b : Nat) (acc : List Int) (row : Nat) (x : Int) : List Int :=
  if x = 0 then acc else List.zipWith (fun s w => s + w * x) acc (p.row (32 * b + row))

section
variable {p : Plane} {b col : Nat} (wf : Tab.wf 0 p.w = true) (hcol : col < 256)
include wf hcol

theorem Plane.addRow_getElem? {acc : List Int} {s : Int} (hs : acc[col]? = some s) (row : Nat) (x : Int) :
    (p.addRow b acc row x)[col]? = some (s + p.weight b col row * x) := by
  rw [Plane.addRow]
  split
  · next zero => rw [hs, zero, Int.mul_zero, Int.add_zero]
  · next => rw [List.getElem?_zipWith, hs, Plane.row_getElem? wf hcol]

theorem Plane.foldl_addRow_getElem? {α : Type} (row : α → Nat) (x : α → Int) (l : List α) {acc : List Int} {s : Int}
    (hs : acc[col]? = some s) :
    (l.foldl (fun acc e => p.addRow b acc (row e) (x e)) acc)[col]? = some (s + (l.map fun e => p.weight b col (row e) * x e).sum) := by
  induction l generalizing acc s with
  | nil => simpa using hs
  | cons e l ih =>
    rw [List.foldl_cons, ih (Plane.addRow_getElem? wf hcol hs _ _), List.map_cons, List.sum_cons, Int.add_assoc]

end

/-- The element of a block as the array multiplies it: 0 at the position of an outlier (R66). -/
def ActRec.element (a : ActRec) (i : Nat) : Int := if a.outl.any (fun o => o.1 == i) then 0 else a.elems.getD i 0

/-- Products of the elements with their rows, the elements numbered as they stand. -/
theorem ActRec.narrow_products (a : ActRec) {n : Nat} (len : a.elems.length = n) (w : Nat → Int) :
    (a.narrow.zipIdx.map fun e => w e.2 * e.1) = (List.range n).map fun i => w i * a.element i := by
  apply List.ext_getElem
  · simp [ActRec.narrow, len]
  · intro i h _
    have hi : i < a.elems.length := by simpa [ActRec.narrow] using h
    simp only [ActRec.narrow, ActRec.element, List.getElem_map, List.getElem_zipIdx, List.getElem_range, Nat.zero_add,
      List.getD_eq_getElem _ _ hi]

/-- What a block gives a column: the products of its elements and those of its outliers (R65, R66). -/
def Plane.products (p : Plane) (b col : Nat) (a : ActRec) : Int :=
  ((List.range 32).map fun i => p.weight b col i * a.element i).sum + (a.outl.map fun o => p.weight b col o.1 * o.2).sum

theorem blockSum_getElem? {p : Plane} {b col : Nat} {a : ActRec} (wf : Tab.wf 0 p.w = true) (hcol : col < 256) (len : a.elems.length = 32) :
    (blockSum p b false a)[col]? = some (p.products b col a) := by
  have start : (List.replicate 256 (0 : Int))[col]? = some 0 := List.getElem?_replicate_of_lt hcol
  have elems := Plane.foldl_addRow_getElem? (b := b) wf hcol (·.2) (·.1) a.narrow.zipIdx start
  have all := Plane.foldl_addRow_getElem? (b := b) wf hcol (·.1) (·.2) a.outl elems
  rwa [ActRec.narrow_products a len, Int.zero_add] at all

/-- In A1 sign mode an element is twice its bit less 1, and a column twice its sum less that of its weights (R62). -/
theorem blockSum_sign (p : Plane) (b : Nat) (a : ActRec) :
    blockSum p b true a = List.zipWith (fun s w => 2 * s - w.toInt) (blockSum p b false a) (Tab.getList 0 p.sumW (b * 256) 256) := rfl

end Sys2Proof.Machine

namespace Sys2Proof

open Machine

/-- Settles O23: weights format by format from `rowWeights_eq`, and block sums by folding the rows in. -/
theorem weightsAndBlockSumsAreExact : Obligations.WeightsAndBlockSumsAreExact := by
  refine ⟨fun d => ⟨rowWeights_w1, ?w2, ?w3, ?w4, fun _ => rowWeights_w8 d⟩, ?sums⟩
  case w2 => exact fun len => rowWeights_signed (c := 4) (by decide) rfl rfl (by omega) (by decide) (by decide)
  case w3 => exact fun len => rowWeights_signed (c := 2) (by decide) rfl rfl (by omega) (by decide) (by decide)
  case w4 => exact fun len => rowWeights_signed (c := 2) (by decide) rfl rfl (by omega) (by decide) (by decide)
  case sums =>
    intro p b col a _ hcol wf len _
    have column := blockSum_getElem? (b := b) wf hcol len
    have stored : col < (Tab.getList 0 p.sumW (b * 256) 256).length := by rw [Tab.length_getList]; exact hcol
    refine ⟨column, _, List.getElem?_eq_getElem stored, ?_⟩
    rw [blockSum_sign, List.getElem?_zipWith, column, List.getElem?_eq_getElem stored]
    rfl

end Sys2Proof
end

section
/-! CLAIM. Laws of binary32 arithmetic: NaNs, the order of operands, and integers there and back. -/

namespace Sys2Proof.Machine

-- A word as sign and magnitude

/-- The value of a magnitude of 31 bits with its sign. -/
def decodeMag (neg : Bool) (mag : Nat) : FVal :=
  if mag / 2 ^ 23 = 255 then (if mag % 2 ^ 23 = 0 then .inf neg else .nan)
  else if mag / 2 ^ 23 = 0 then .fin neg (mag % 2 ^ 23) (-149)
  else .fin neg (2 ^ 23 + mag % 2 ^ 23) ((mag / 2 ^ 23 : Nat) - 150)

theorem decode32_eq (w : Word) : decode32 w = decodeMag w.msb (w.toNat % 2 ^ 31) := by
  have frac : w.toNat % 2 ^ 31 % 2 ^ 23 = w.toNat % 2 ^ 23 := Nat.mod_mod_of_dvd _ (by decide)
  have exp : w.toNat % 2 ^ 31 / 2 ^ 23 = w.toNat / 2 ^ 23 % 256 := by omega
  rw [decode32, decodeMag, frac, exp]

theorem isNan32_iff (w : Word) : isNan32 w = true ↔ 255 * 2 ^ 23 < w.toNat % 2 ^ 31 := by
  have mag : w.toNat % 2 ^ 31 < 2 ^ 31 := Nat.mod_lt _ (by decide)
  rw [isNan32, decode32_eq, decodeMag, beq_iff_eq]
  split
  · split <;> simp <;> omega
  · split <;> simp <;> omega

theorem toNat_flipSign_mod (x : Word) : (x ^^^ 0x80000000).toNat % 2 ^ 31 = x.toNat % 2 ^ 31 := by
  have low : (x ^^^ 0x80000000).setWidth 31 = x.setWidth 31 := by rw [BitVec.setWidth_xor]; exact BitVec.xor_zero
  have low := congrArg BitVec.toNat low
  rwa [BitVec.toNat_setWidth, BitVec.toNat_setWidth] at low

theorem toNat_clearSign_mod (x : Word) : (x &&& 0x7FFFFFFF).toNat % 2 ^ 31 = x.toNat % 2 ^ 31 := by
  have low : (x &&& 0x7FFFFFFF).setWidth 31 = x.setWidth 31 := by rw [BitVec.setWidth_and]; exact BitVec.and_allOnes
  have low := congrArg BitVec.toNat low
  rwa [BitVec.toNat_setWidth, BitVec.toNat_setWidth] at low

theorem msb_flipSign (x : Word) : (x ^^^ 0x80000000).msb = !x.msb := by rw [BitVec.msb_xor]; exact Bool.xor_true _

/-- The word of a sign and a magnitude that leaves the sign bit free. -/
theorem toNat_withSign_mod {mag : Nat} (h : mag < 2 ^ 31) (neg : Bool) :
    (BitVec.ofNat 32 (mag + b2n neg * 2 ^ 31)).toNat % 2 ^ 31 = mag := by
  cases neg <;> simp [b2n] <;> omega

theorem msb_withSign {mag : Nat} (h : mag < 2 ^ 31) (neg : Bool) : (BitVec.ofNat 32 (mag + b2n neg * 2 ^ 31)).msb = neg := by
  cases neg <;> simp [b2n, BitVec.msb_eq_decide] <;> omega

-- NaNs (R73)

theorem roundMag_le (m : Nat) (e : Int) (more : Bool) : roundMag 24 m e more ≤ 255 * 2 ^ 23 := by
  rw [roundMag]
  split
  · exact Nat.zero_le _
  · exact Nat.min_le_right _ _

theorem roundMag_lt (m : Nat) (e : Int) (more : Bool) : roundMag 24 m e more < 2 ^ 31 :=
  (roundMag_le m e more).trans_lt (by decide)

@[simp] theorem isNan32_round32 (neg : Bool) (m : Nat) (e : Int) (more : Bool) : isNan32 (round32 neg m e more) = false := by
  rw [← Bool.not_eq_true, isNan32_iff, round32, toNat_withSign_mod (roundMag_lt m e more)]
  exact Nat.not_lt.2 (roundMag_le m e more)

@[simp] theorem isNan32_roundInt (zneg : Bool) (v e : Int) : isNan32 (roundInt zneg v e) = false := by
  rw [roundInt]
  split <;> exact isNan32_round32 ..

@[simp] theorem isNan32_inf32 (neg : Bool) : isNan32 (inf32 neg) = false := by cases neg <;> rfl

@[simp] theorem isNan32_flipSign (x : Word) : isNan32 (x ^^^ 0x80000000) = isNan32 x := by
  rw [Bool.eq_iff_iff, isNan32_iff, isNan32_iff, toNat_flipSign_mod]

@[simp] theorem isNan32_clearSign (x : Word) : isNan32 (x &&& 0x7FFFFFFF) = isNan32 x := by
  rw [Bool.eq_iff_iff, isNan32_iff, isNan32_iff, toNat_clearSign_mod]

/-- A result is a NaN in its canonical form only. -/
def NanIsCanonical (r : Word) : Prop := isNan32 r = true → r = nan32

theorem NanIsCanonical.nan : NanIsCanonical nan32 := fun _ => rfl

theorem NanIsCanonical.number {r : Word} (h : isNan32 r = false) : NanIsCanonical r := fun nan => by rw [h] at nan; cases nan

theorem NanIsCanonical.ite {c : Prop} [Decidable c] {a b : Word} (ha : NanIsCanonical a) (hb : NanIsCanonical b) :
    NanIsCanonical (if c then a else b) := by split <;> assumption

/-- A choice between two operands that has already answered a NaN among them. -/
theorem NanIsCanonical.choice {x y : Word} {p : Prop} [Decidable p] {a b : Word} (ha : a = x ∨ a = y) (hb : b = x ∨ b = y) :
    NanIsCanonical (if isNan32 x || isNan32 y then nan32 else if p then a else b) := by
  by_cases nan : (isNan32 x || isNan32 y) = true
  · rw [if_pos nan]; exact .nan
  · rw [if_neg nan]
    simp only [Bool.or_eq_true, not_or, Bool.not_eq_true] at nan
    obtain ⟨hx, hy⟩ := nan
    refine .ite (.number ?_) (.number ?_)
    · rcases ha with rfl | rfl <;> assumption
    · rcases hb with rfl | rfl <;> assumption

theorem fAdd_nanIsCanonical (x y : Word) : NanIsCanonical (fAdd x y) := by
  rw [fAdd]
  split
  · exact .nan
  · exact .nan
  · exact .ite (.number (isNan32_inf32 _)) .nan
  · exact .number (isNan32_inf32 _)
  · exact .number (isNan32_inf32 _)
  · exact .number (isNan32_roundInt ..)

theorem fMul_nanIsCanonical (x y : Word) : NanIsCanonical (fMul x y) := by
  rw [fMul]
  split
  · exact .nan
  · exact .nan
  · exact .number (isNan32_inf32 _)
  · exact .ite .nan (.number (isNan32_inf32 _))
  · exact .ite .nan (.number (isNan32_inf32 _))
  · exact .number (isNan32_round32 ..)

theorem fAbs_nanIsCanonical (x : Word) : NanIsCanonical (fAbs x) := by
  rw [fAbs]
  split
  · exact .nan
  · next number => exact .number ((isNan32_clearSign x).trans (Bool.eq_false_iff.2 number))

theorem fNeg_nanIsCanonical (x : Word) : NanIsCanonical (fNeg x) := by
  rw [fNeg]
  split
  · exact .nan
  · next number => exact .number ((isNan32_flipSign x).trans (Bool.eq_false_iff.2 number))

-- The order of operands (R72)

theorem dyAdd_comm (a ea b eb : Int) : dyAdd a ea b eb = dyAdd b eb a ea := by
  rw [dyAdd, dyAdd]
  rcases lt_trichotomy ea eb with lt | rfl | gt
  · rw [if_pos lt.le, if_neg (not_le.2 lt), Int.add_comm]
  · simp [Int.add_comm]
  · rw [if_neg (not_le.2 gt), if_pos gt.le, Int.add_comm]

theorem fAdd_comm (x y : Word) : fAdd x y = fAdd y x := by
  rw [fAdd, fAdd]
  cases hx : decode32 x <;> cases hy : decode32 y
  case inf.inf a b => cases a <;> cases b <;> rfl
  case fin.fin a ma ea b mb eb => simp only [dyAdd_comm (signed a ma), Bool.and_comm a]
  all_goals rfl

theorem fMul_comm (x y : Word) : fMul x y = fMul y x := by
  rw [fMul, fMul]
  cases hx : decode32 x <;> cases hy : decode32 y
  case inf.inf a b => simp only [bne_comm (a := a)]
  case inf.fin a b mb eb => simp only [bne_comm (a := a)]
  case fin.inf a ma ea b => simp only [bne_comm (a := a)]
  case fin.fin a ma ea b mb eb => simp only [bne_comm (a := a), Nat.mul_comm ma, Int.add_comm ea]
  all_goals rfl

theorem ordKey_injective {x y : Word} (h : ordKey x = ordKey y) : x = y := by
  have hx := x.isLt
  have hy := y.isLt
  refine BitVec.eq_of_toNat_eq ?_
  simp only [ordKey, BitVec.msb_eq_decide, decide_eq_true_eq] at h
  split at h <;> split at h <;> omega

theorem fMax_comm (x y : Word) : fMax x y = fMax y x := by
  rw [fMax, fMax, Bool.or_comm]
  rcases lt_trichotomy (ordKey x) (ordKey y) with lt | eq | gt
  · rw [if_pos lt, if_neg lt.asymm]
  · rw [ordKey_injective eq]
  · rw [if_neg gt.asymm, if_pos gt]

theorem fMin_comm (x y : Word) : fMin x y = fMin y x := by
  rw [fMin, fMin, Bool.or_comm]
  rcases lt_trichotomy (ordKey x) (ordKey y) with lt | eq | gt
  · rw [if_neg lt.asymm, if_pos lt]
  · rw [ordKey_injective eq]
  · rw [if_pos gt, if_neg gt.asymm]

-- A number less itself (R72)

theorem decode32_flipSign {x : Word} {neg : Bool} {m : Nat} {e : Int} (h : decode32 x = .fin neg m e) :
    decode32 (x ^^^ 0x80000000) = .fin (!neg) m e := by
  rw [decode32_eq, decodeMag] at h
  rw [decode32_eq, decodeMag, msb_flipSign, toNat_flipSign_mod]
  split at h
  · split at h <;> cases h
  · next finite =>
    rw [if_neg finite]
    split at h
    · next subnormal => cases h; exact if_pos subnormal
    · next normal => cases h; exact if_neg normal

theorem fSub_self {x : Word} (finite : finite32 x = true) : fSub x x = 0 := by
  cases hx : decode32 x with
  | nan => rw [finite32, hx] at finite; cases finite
  | inf neg => rw [finite32, hx] at finite; cases finite
  | fin neg m e =>
    have zero : dyAdd (signed neg m) e (signed (!neg) m) e = (0, e) := by cases neg <;> simp [dyAdd, signed]
    simp only [fSub, fAdd, hx, decode32_flipSign hx, zero, Bool.and_not_self]
    rfl

-- Integers to binary32 and back (R75, R76)

/-- A number of at most 24 bits, shifted up to 24 bits, begins with a set bit. -/
theorem normalised {m : Nat} (pos : m ≠ 0) (small : m < 2 ^ 24) :
    m.log2 ≤ 23 ∧ 2 ^ 23 ≤ m * 2 ^ (23 - m.log2) ∧ m * 2 ^ (23 - m.log2) < 2 ^ 24 := by
  have top : m.log2 ≤ 23 := Nat.le_of_lt_succ ((Nat.log2_lt pos).2 small)
  refine ⟨top, ?_, ?_⟩
  · calc 2 ^ 23 = 2 ^ m.log2 * 2 ^ (23 - m.log2) := by rw [← Nat.pow_add, Nat.add_sub_cancel' top]
      _ ≤ m * 2 ^ (23 - m.log2) := Nat.mul_le_mul_right _ (Nat.log2_self_le pos)
  · calc m * 2 ^ (23 - m.log2) < 2 ^ (m.log2 + 1) * 2 ^ (23 - m.log2) :=
        Nat.mul_lt_mul_of_pos_right Nat.lt_log2_self (Nat.two_pow_pos _)
      _ = 2 ^ 24 := by rw [← Nat.pow_add]; congr 1; omega

/-- A magnitude of at most 24 bits is kept whole. -/
theorem roundMag_of_small {m : Nat} (pos : m ≠ 0) (small : m < 2 ^ 24) (more : Bool) :
    roundMag 24 m 0 more = (149 - (23 - m.log2)) * 2 ^ 23 + m * 2 ^ (23 - m.log2) := by
  obtain ⟨top, _, below⟩ := normalised pos small
  have unit : max ((0 : Int) + (m.log2 + 1 : Nat) - (24 : Nat)) (-126 - (24 - 1 : Nat)) = (m.log2 : Int) - 23 := by omega
  have shift : (0 - ((m.log2 : Int) - 23)).toNat = 23 - m.log2 := by omega
  have exp : ((m.log2 : Int) - 23 - (-126 - (24 - 1 : Nat))).toNat = 149 - (23 - m.log2) := by omega
  have down : (m.log2 : Int) - 23 ≤ 0 := by omega
  simp only [roundMag, if_neg pos, unit, if_pos down, shift, exp, Nat.shiftLeft_eq]
  omega

theorem shrRne_mul_two_pow (m k : Nat) : shrRne (m * 2 ^ k) k false = m := by
  rw [shrRne]
  split
  · next zero => rw [zero, Nat.pow_zero, Nat.mul_one]
  · next => simp [Nat.shiftRight_eq_div_pow, (Nat.two_pow_pos _).ne]

theorem decode32_intToF {v : Int} (pos : v ≠ 0) (small : v.natAbs < 2 ^ 24) :
    decode32 (intToF v) = .fin (decide (v < 0)) (v.natAbs * 2 ^ (23 - v.natAbs.log2)) (-(23 - v.natAbs.log2 : Nat)) := by
  obtain ⟨_, above, below⟩ := normalised (Int.natAbs_ne_zero.2 pos) small
  have mag := roundMag_lt v.natAbs 0 false
  rw [intToF, roundInt, if_neg pos, round32, decode32_eq, toNat_withSign_mod mag, msb_withSign mag,
    roundMag_of_small (Int.natAbs_ne_zero.2 pos) small]
  generalize v.natAbs * 2 ^ (23 - v.natAbs.log2) = mant at above below
  have shift : 23 - v.natAbs.log2 ≤ 23 := Nat.sub_le _ _
  generalize 23 - v.natAbs.log2 = j at shift
  have exp : ((149 - j) * 2 ^ 23 + mant) / 2 ^ 23 = 150 - j := by omega
  have frac : ((149 - j) * 2 ^ 23 + mant) % 2 ^ 23 = mant - 2 ^ 23 := by omega
  have whole : 2 ^ 23 + (mant - 2 ^ 23) = mant := Nat.add_sub_cancel' above
  have weight : ((150 - j : Nat) : Int) - 150 = -(j : Nat) := by omega
  rw [decodeMag, exp, frac, if_neg (by omega), if_neg (by omega), whole, weight]

theorem toIntRne_shifted (neg : Bool) (m k : Nat) : toIntRne neg (m * 2 ^ k) (-k) = signed neg m := by
  rw [toIntRne]
  split
  · next up =>
    have zero : k = 0 := by omega
    simp [zero]
  · next => rw [Int.neg_neg, Int.toNat_natCast, shrRne_mul_two_pow]

theorem signed_natAbs (v : Int) : signed (decide (v < 0)) v.natAbs = v := by
  rw [signed]
  split
  · next neg => have := of_decide_eq_true neg; omega
  · next pos => have := of_decide_eq_false (Bool.eq_false_iff.2 pos); omega

/-- Integers that a binary32 number holds exactly (R75, R76). -/
theorem toInt48_intToF {v : Int} (lo : -2 ^ 24 ≤ v) (hi : v ≤ 2 ^ 24) : toInt48 (intToF v) 0 = v := by
  by_cases small : v.natAbs < 2 ^ 24
  · by_cases zero : v = 0
    · rw [zero]; decide
    · have unscaled (e : Int) : e - max (-1000) (min 1000 0) = e := by omega
      simp only [toInt48, decode32_intToF zero small, unscaled, toIntRne_shifted, signed_natAbs, clampInt]
      omega
  · rcases (by omega : v = 2 ^ 24 ∨ v = -2 ^ 24) with rfl | rfl
    · decide
    · decide

end Sys2Proof.Machine

namespace Sys2Proof

open Machine

/-- Settles O26, law by law. -/
theorem floatArithmeticLaws : Obligations.FloatArithmeticLaws := by
  refine ⟨fun x y => ⟨fAdd_comm x y, fMul_comm x y, fMax_comm x y, fMin_comm x y⟩, ?nans, by decide, by decide, by decide, by decide,
    fun x => fSub_self, fun v => toInt48_intToF, ?nan, fun k => ⟨rfl, rfl⟩⟩
  case nans =>
    intro x y r hr
    have canonical : ∀ r ∈ [fAdd x y, fSub x y, fMul x y, fMax x y, fMin x y, fAbs x, fNeg x], NanIsCanonical r := by
      simp only [List.forall_mem_cons]
      exact ⟨fAdd_nanIsCanonical x y, fAdd_nanIsCanonical x _, fMul_nanIsCanonical x y, .choice (.inr rfl) (.inl rfl),
        .choice (.inr rfl) (.inl rfl), fAbs_nanIsCanonical x, fNeg_nanIsCanonical x, fun _ h => absurd h List.not_mem_nil⟩
    exact canonical r hr
  case nan =>
    intro x k nan
    rw [toInt48, beq_iff_eq.1 nan]

end Sys2Proof
end

section
/-! SUPPORT. Entries put in a table of any form, and clusters that a running core's instruction writes. -/

namespace Sys2Proof.Tab

variable {α : Type} [DecidableEq α] {d v : α}

/-- Whatever the form of the table, an entry other than the default reads back as it was put. -/
theorem get_set_self (t : Tab α) (k : Nat) (hv : v ≠ d) : get d (set d t k v) k = v := by
  induction t with
  | nil => simp [set, consNe, hv, get]
  | cons e t ih =>
    obtain ⟨j, w⟩ := e
    by_cases same : j = k
    · simp [set, same, consNe, hv, get]
    · by_cases below : k < j
      · simp [set, same, below, consNe, hv, get]
      · simp [set, same, below, get, ih]

/-- Whatever the form of the table, a second write replaces a first one that was not the default. -/
theorem set_set_self (t : Tab α) (k : Nat) (hv : v ≠ d) (w : α) : set d (set d t k v) k w = set d t k w := by
  induction t with
  | nil => simp [set, consNe, hv]
  | cons e t ih =>
    obtain ⟨j, u⟩ := e
    by_cases same : j = k
    · simp [set, same, consNe, hv]
    · by_cases below : k < j
      · simp [set, same, below, consNe, hv]
      · simp [set, same, below, ih]

end Sys2Proof.Tab

namespace Sys2Proof.Machine

variable {s : State} {site : SiteNo}

theorem State.running_of_ready (ready : s.coreReady site = true) : (s.cl site).run = .running := by
  simp only [State.coreReady, Bool.and_eq_true, decide_eq_true_eq] at ready
  exact ready.1.1

/-- A running core's cluster is not the one that an unlisted site reads as. -/
theorem Cluster.ne_default_of_running {c : Cluster} (running : c.run = .running) : c ≠ {} := by
  rintro rfl
  cases running

theorem State.cl_setCl_running (s : State) (i : Nat) {c : Cluster} (running : c.run = .running) : (s.setCl i c).cl i = c :=
  Tab.get_set_self s.clusters i (Cluster.ne_default_of_running running)

theorem State.setCl_setCl_running (s : State) (i : Nat) {c : Cluster} (running : c.run = .running) (d : Cluster) :
    (s.setCl i c).setCl i d = s.setCl i d := by
  have clusters : Tab.set {} (s.setCl i c).clusters i d = Tab.set {} s.clusters i d :=
    Tab.set_set_self s.clusters i (Cluster.ne_default_of_running running) d
  unfold State.setCl at clusters ⊢
  rw [clusters]

/-- An instruction that writes its cluster before it completes ends as if it wrote the cluster once. -/
theorem State.fin_setCl_running (s : State) (i : Nat) {c : Cluster} (running : c.run = .running) :
    (s.setCl i c).fin i ((s.setCl i c).cl i) = .next (s.setCl i c.advance) := by
  rw [State.fin, State.cl_setCl_running s i running, State.setCl_setCl_running s i running]

end Sys2Proof.Machine
end

section
/-! SUPPORT. The scalar instructions: their results as numbers, the step of PC, branches and loops (R106 to R113). -/

namespace Sys2Proof.Machine

variable {s : State} {site : SiteNo}

-- ALU operations (R112)

section
variable {rd ra : BitVec 4} {b : AluB} {zext : Bool} {f : Word → Word → Word} {v : Word}

/-- An operation that takes a register or an immediate writes rd and steps. -/
theorem alu_of_ready (ready : s.coreReady site = true) (value : f ((s.cl site).s ra) ((s.cl site).aluB zext b) = v) :
    alu site rd ra b true zext f s = .next (s.setCl site ((s.cl site).setS rd v).advance) := by
  rw [alu, State.core_of_ready ready, Bool.not_true, Bool.and_false, if_neg Bool.false_ne_true, value]
  rfl

/-- An operation that class 0x1 does not have is a program fault there (R109). -/
theorem alu_register_of_ready (ready : s.coreReady site = true) (value : f ((s.cl site).s ra) ((s.cl site).aluB zext b) = v) :
    alu site rd ra b false zext f s
      = if isImmB b then .next (s.progFault site 0) else .next (s.setCl site ((s.cl site).setS rd v).advance) := by
  rw [alu, State.core_of_ready ready, Bool.not_false, Bool.and_true, value]
  rfl

end

theorem word_sub (x y : Word) : x - y = BitVec.ofInt 32 (x.toInt - y.toInt) := by
  apply BitVec.eq_of_toInt_eq
  rw [BitVec.toInt_sub, BitVec.toInt_ofInt]

theorem word_mul (x y : Word) : x * y = BitVec.ofNat 32 (x.toNat * y.toNat) := by
  apply BitVec.eq_of_toNat_eq
  rw [BitVec.toNat_mul, BitVec.toNat_ofNat]

theorem word_shiftLeft (x : Word) (n : Nat) : x <<< n = BitVec.ofNat 32 (x.toNat * 2 ^ n) := by
  apply BitVec.eq_of_toNat_eq
  rw [BitVec.toNat_shiftLeft, BitVec.toNat_ofNat, Nat.shiftLeft_eq]

theorem word_shiftRight (x : Word) (n : Nat) : x >>> n = BitVec.ofNat 32 (x.toNat / 2 ^ n) := by
  apply BitVec.eq_of_toNat_eq
  rw [BitVec.toNat_ushiftRight, BitVec.toNat_ofNat, Nat.shiftRight_eq_div_pow, Nat.mod_eq_of_lt]
  exact Nat.lt_of_le_of_lt (Nat.div_le_self _ _) x.isLt

theorem word_sshiftRight (x : Word) (n : Nat) : x.sshiftRight n = BitVec.ofInt 32 (x.toInt / 2 ^ n) := by
  rw [BitVec.sshiftRight, Int.shiftRight_eq_div_pow]
  norm_cast

/-- The high half of a 64-bit product, taken from the integer product or from the words extended to 64 bits. -/
theorem word_mulHigh (x y : Word) :
    BitVec.ofInt 32 (x.toInt * y.toInt / 2 ^ 32) = ((x.signExtend 64 * y.signExtend 64) >>> 32).setWidth 32 := by
  have product : x.signExtend 64 * y.signExtend 64 = BitVec.ofInt 64 (x.toInt * y.toInt) := (BitVec.ofInt_mul ..).symm
  rw [product]
  generalize x.toInt * y.toInt = p
  apply BitVec.eq_of_toNat_eq
  rw [BitVec.toNat_setWidth, BitVec.toNat_ushiftRight, Nat.shiftRight_eq_div_pow, BitVec.toNat_ofInt, BitVec.toNat_ofInt]
  omega

theorem word_min (x y : Word) : (if x.slt y then x else y) = BitVec.ofInt 32 (min x.toInt y.toInt) := by
  by_cases less : x.toInt < y.toInt
  · rw [if_pos (BitVec.slt_iff_toInt_lt.2 less), min_eq_left less.le, BitVec.ofInt_toInt]
  · rw [if_neg (mt BitVec.slt_iff_toInt_lt.1 less), min_eq_right (not_lt.1 less), BitVec.ofInt_toInt]

theorem word_max (x y : Word) : (if x.slt y then y else x) = BitVec.ofInt 32 (max x.toInt y.toInt) := by
  by_cases less : x.toInt < y.toInt
  · rw [if_pos (BitVec.slt_iff_toInt_lt.2 less), max_eq_right less.le, BitVec.ofInt_toInt]
  · rw [if_neg (mt BitVec.slt_iff_toInt_lt.1 less), max_eq_left (not_lt.1 less), BitVec.ofInt_toInt]

theorem word_highPart (imm : BitVec 20) : imm.setWidth 32 <<< 12 = BitVec.ofNat 32 (imm.toNat * 4096) := by
  rw [word_shiftLeft, BitVec.toNat_setWidth_of_le (by decide)]
  norm_num

theorem word_notSlt (x y : Word) : (!x.slt y) = true ↔ y.toInt ≤ x.toInt := by
  rw [Bool.not_eq_true', ← Bool.not_eq_true, BitVec.slt_iff_toInt_lt, not_lt]

theorem word_notUlt (x y : Word) : (!x.ult y) = true ↔ y.toNat ≤ x.toNat := by
  rw [Bool.not_eq_true', ← Bool.not_eq_true, BitVec.ult_iff_lt, BitVec.lt_def, not_lt]

-- CLZ finds the highest bit set (R112)

/-- A word whose n highest bits are clear is a number of 32 - n bits. -/
theorem lt_of_high_bits_clear (x : Word) (n : Nat) (clear : ∀ i < n, x.getLsbD (31 - i) = false) : x.toNat < 2 ^ (32 - n) := by
  refine Nat.lt_pow_two_of_testBit _ fun j hj => ?_
  by_cases high : j < 32
  · have bit := clear (31 - j) (by omega)
    rwa [show 31 - (31 - j) = j by omega] at bit
  · exact BitVec.getLsbD_of_ge x j (by omega)

theorem clz32_bounds (x : Word) :
    ∃ n : Nat, clz32 x = BitVec.ofNat 32 n ∧ n ≤ 32 ∧ x.toNat < 2 ^ (32 - n) ∧ (n < 32 → 2 ^ (31 - n) ≤ x.toNat) := by
  unfold clz32
  cases found : (List.range 32).find? fun i => x.getLsbD (31 - i) with
  | none =>
    have clear : ∀ i < 32, x.getLsbD (31 - i) = false := by simpa using found
    exact ⟨32, rfl, le_rfl, lt_of_high_bits_clear x 32 clear, fun below => absurd below (lt_irrefl 32)⟩
  | some n =>
    obtain ⟨set, inRange, clear⟩ := List.find?_range_eq_some.1 found
    have clear : ∀ i < n, x.getLsbD (31 - i) = false := by simpa using clear
    have below : n < 32 := List.mem_range.1 inRange
    exact ⟨n, rfl, below.le, lt_of_high_bits_clear x n clear, fun _ => Nat.ge_two_pow_of_testBit set⟩

-- Registers (R106)

namespace Cluster

variable (k : Cluster) (r : BitVec 4) (v : Word)

theorem setS_zero : k.setS 0 v = k := if_pos rfl
@[simp] theorem setS_cyc : (k.setS r v).cyc = k.cyc := by unfold setS; split <;> rfl
@[simp] theorem setS_loops : (k.setS r v).loops = k.loops := by unfold setS; split <;> rfl

theorem s_setS (canon : k.canon = true) (rd : BitVec 4) : (k.setS rd v).s r = if r = 0 then 0 else if r = rd then v else k.s r := by
  by_cases zero : r = 0
  · simp only [s, zero, if_true]
  · by_cases discarded : rd = 0
    · rw [discarded, setS_zero, if_neg zero, if_neg zero]
    · have stored : Tab.get 0 (k.setS rd v).sreg r.toNat = if r.toNat = rd.toNat then v else Tab.get 0 k.sreg r.toNat := by
        rw [setS, if_neg discarded, Tab.get_set canon]
      simp only [s, if_neg zero, stored, BitVec.toNat_inj]

end Cluster

-- The step of PC (R107, R113)

section
variable {l : LoopSt} {ls : List LoopSt} {p : Word}

theorem nextPc_of_inside (inside : p ≠ l.stop) : nextPc (l :: ls) p = (p, l :: ls) := if_neg inside

theorem nextPc_of_again (atEnd : p = l.stop) (more : 1 < l.left.toNat) :
    nextPc (l :: ls) p = (l.start, { l with left := l.left - 1 } :: ls) := by rw [nextPc, if_pos atEnd, if_pos more]

theorem nextPc_of_lastRun (atEnd : p = l.stop) (last : l.left.toNat ≤ 1) : nextPc (l :: ls) p = nextPc ls p := by
  rw [nextPc, if_pos atEnd, if_neg (Nat.not_lt.2 last)]

end

namespace Cluster

variable (k : Cluster)

theorem advance_frame : { k.advance with pc := k.pc, loops := k.loops, cyc := k.cyc } = k := rfl
@[simp] theorem advance_cyc : k.advance.cyc = k.cyc + 1 := rfl
theorem advance_pc : k.advance.pc = (nextPc k.loops (k.pc + 4)).1 := rfl
theorem advance_loops : k.advance.loops = (nextPc k.loops (k.pc + 4)).2 := rfl

theorem advance_of_lastRun {l : LoopSt} {ls : List LoopSt} (loops : k.loops = l :: ls) (atEnd : k.pc + 4 = l.stop)
    (last : l.left.toNat ≤ 1) : k.advance = { k with loops := ls }.advance := by
  simp only [advance, goto, loops, nextPc_of_lastRun atEnd last]

-- Branches and jumps (R109, R110)

/-- A target that leaves no active body: it lies in the innermost one, if there is one. -/
def staysInside (p : Word) : Prop := ∀ l ls, k.loops = l :: ls → (p - l.start).toNat < (l.stop - l.start).toNat

theorem leavesBody_iff (p : Word) : k.leavesBody p = true ↔ ¬ k.staysInside p := by
  unfold leavesBody staysInside
  cases k.loops with
  | nil => simp
  | cons l ls => simp

end Cluster

/-- What a branch or jump of the cluster `k` to `p` comes to, that leaves the cluster `k'` besides PC and cycles. -/
theorem taken_goes {k k' : Cluster} (loops : k'.loops = k.loops) (cyc : k'.cyc = k.cyc) (p : Word) :
    (k.staysInside p → s.taken site k' p = .next (s.setCl site { k' with pc := p, cyc := k.cyc + 2 }))
    ∧ (¬ k.staysInside p → s.taken site k' p = .next (s.progFault site 0)) := by
  have leaves : k'.leavesBody p = true ↔ ¬ k.staysInside p := by
    rw [Cluster.leavesBody_iff, Cluster.staysInside, Cluster.staysInside, loops]
  constructor
  · intro inside
    rw [State.taken, if_neg (fun out => leaves.1 out inside), cyc]
  · intro out
    rw [State.taken, if_pos (leaves.2 out)]
    rfl

/-- Offsets count instructions of 4 bytes (R110). -/
theorem signExtend_instructions {w : Nat} (off : BitVec w) : off.signExtend 32 <<< 2 = BitVec.ofInt 32 (4 * off.toInt) := by
  rw [BitVec.signExtend, BitVec.shiftLeft_eq_mul_twoPow, BitVec.ofInt_mul, BitVec.mul_comm]
  rfl

theorem zeroExtend_instructions {w : Nat} (len : BitVec w) : len.setWidth 32 <<< 2 = BitVec.ofNat 32 (4 * len.toNat) := by
  apply BitVec.eq_of_toNat_eq
  rw [BitVec.toNat_shiftLeft, BitVec.toNat_setWidth, BitVec.toNat_ofNat, Nat.shiftLeft_eq]
  omega

/-- JALR clears bits [1:0]. -/
theorem word_aligned (a : Word) : a &&& ~~~3 = BitVec.ofNat 32 (a.toNat / 4 * 4) := by
  refine BitVec.eq_of_getLsbD_eq fun i inWord => ?_
  have low : (3 : Word).getLsbD i = decide (i < 2) := Nat.testBit_two_pow_sub_one 2 i
  have cleared : (a.toNat / 2 ^ 2 * 2 ^ 2).testBit i = (decide (2 ≤ i) && a.getLsbD i) := by
    rw [Nat.testBit_mul_two_pow, Nat.testBit_div_two_pow]
    by_cases high : 2 ≤ i
    · rw [Nat.sub_add_cancel high]
      rfl
    · simp only [high, decide_false, Bool.false_and]
  have target : (BitVec.ofNat 32 (a.toNat / 4 * 4)).getLsbD i = (decide (2 ≤ i) && a.getLsbD i) := by
    rw [BitVec.getLsbD_ofNat, decide_eq_true inWord, Bool.true_and]
    exact cleared
  rw [BitVec.getLsbD_and, BitVec.getLsbD_not, low, target, decide_eq_true inWord, Bool.true_and, Bool.and_comm]
  by_cases high : 2 ≤ i <;> simp [high, Nat.not_lt.2, Nat.not_le.1]

/-- A conditional branch steps in order where its condition fails, and is a branch to its target where it holds (R110, R113). -/
theorem branch_of_ready (ready : s.coreReady site = true) {ra rb : BitVec 4} {off : BitVec 16} {cond : Word → Word → Bool}
    {holds : Prop} (meets : cond ((s.cl site).s ra) ((s.cl site).s rb) = true ↔ holds) :
    let k := s.cl site
    let p := k.pc + BitVec.ofInt 32 (4 * off.toInt)
    let r := branch site ra rb off cond s
    (holds → (k.staysInside p → r = .next (s.setCl site { k with pc := p, cyc := k.cyc + 2 }))
      ∧ (¬ k.staysInside p → r = .next (s.progFault site 0)))
    ∧ (¬ holds → r = .next (s.setCl site k.advance)) := by
  intro k p r
  have issued : r = if cond (k.s ra) (k.s rb) then s.taken site k p else s.fin site k := by
    simp only [r, p, branch, State.core_of_ready ready, ← signExtend_instructions]
    rfl
  refine ⟨fun yes => ?_, fun no => ?_⟩
  · rw [issued, if_pos (meets.2 yes)]
    exact taken_goes rfl rfl p
  · rw [issued, if_neg (mt meets.1 no)]
    rfl

-- LOOP (R113)

/-- The bodies that LOOP may enter: of a free loop number, with an instruction at least, and no longer than the body around it. -/
def Cluster.loopFits (k : Cluster) (n : BitVec 2) (len : BitVec 12) : Prop :=
  let stop := k.pc + 4 + BitVec.ofNat 32 (4 * len.toNat)
  len ≠ 0 ∧ (∀ l ∈ k.loops, l.num ≠ n)
    ∧ ∀ l ls, k.loops = l :: ls → (stop - l.start).toNat ≤ (l.stop - l.start).toNat

/-- What LOOP tests before it enters a body that ends at `stop`. -/
def Cluster.refusesLoop (k : Cluster) (n : BitVec 2) (len : BitVec 12) (stop : Word) : Bool :=
  decide (len = 0) || (k.loops.any fun l => l.num == n) || match k.loops with
    | [] => false
    | l :: _ => decide ((l.stop - l.start).toNat < (stop - l.start).toNat)

theorem Cluster.refusesLoop_iff (k : Cluster) (n : BitVec 2) (len : BitVec 12) :
    k.refusesLoop n len (k.pc + 4 + BitVec.ofNat 32 (4 * len.toNat)) = true ↔ ¬ k.loopFits n len := by
  unfold refusesLoop loopFits
  cases k.loops with
  | nil => simp
  | cons l ls => simp [or_assoc, imp_iff_not_or]

theorem loop_of_ready (ready : s.coreReady site = true) (n : BitVec 2) (ra : BitVec 4) (len : BitVec 12) :
    let k := s.cl site
    let start := k.pc + 4
    let stop := start + BitVec.ofNat 32 (4 * len.toNat)
    exec (.loop site n ra len) s =
      if k.refusesLoop n len stop then .next (s.progFault site 0)
      else if k.s ra = 0 then .next (s.setCl site (k.goto stop 1))
      else .next (s.setCl site { k with pc := start, cyc := k.cyc + 1, loops := ⟨n, start, stop, k.s ra⟩ :: k.loops }) := by
  intro k start stop
  have issued : exec (.loop site n ra len) s = _ := (State.core_of_ready ready _ : execLoop site n ra len s = _)
  rw [issued]
  simp only [zeroExtend_instructions]
  rfl

end Sys2Proof.Machine
end

section
/-! CLAIM. The scalar instructions. -/

namespace Sys2Proof

open Machine

/-- Settles O8: each operation writes the word that its lemma gives as a number. -/
theorem scalarAluWritesRd : Obligations.ScalarAluWritesRd := by
  intro s c rd ra b imm ready
  obtain ⟨n, count, bounds⟩ := clz32_bounds ((s.cl c).s ra)
  refine ⟨?add, ?sub, ?and, ?or, ?xor, ?sll, ?srl, ?sra, ?slt, ?sltu, ?mul, ?mulh, ?min, ?max, ⟨n, ?clz, bounds⟩, ?popc, ?lui⟩
  case add => exact (alu_of_ready ready (BitVec.add_def ..) : execAdd c rd ra b s = _)
  case sub => exact (alu_register_of_ready ready (word_sub ..) : execSub c rd ra b s = _)
  case and => exact (alu_of_ready ready rfl : execAnd c rd ra b s = _)
  case or => exact (alu_of_ready ready rfl : execOr c rd ra b s = _)
  case xor => exact (alu_of_ready ready rfl : execXor c rd ra b s = _)
  case sll => exact (alu_of_ready ready (word_shiftLeft ..) : execSll c rd ra b s = _)
  case srl => exact (alu_of_ready ready (word_shiftRight ..) : execSrl c rd ra b s = _)
  case sra => exact (alu_of_ready ready (word_sshiftRight ..) : execSra c rd ra b s = _)
  case slt => exact (alu_of_ready ready (if_congr BitVec.slt_iff_toInt_lt rfl rfl) : execSlt c rd ra b s = _)
  case sltu => exact (alu_of_ready ready (if_congr BitVec.ult_iff_lt rfl rfl) : execSltu c rd ra b s = _)
  case mul => exact (alu_register_of_ready ready (word_mul ..) : execMul c rd ra b s = _)
  case mulh => exact (alu_register_of_ready ready (word_mulHigh ..) : execMulh c rd ra b s = _)
  case min => exact (alu_of_ready ready (word_min ..) : execMin c rd ra b s = _)
  case max => exact (alu_of_ready ready (word_max ..) : execMax c rd ra b s = _)
  case clz => exact (alu_register_of_ready ready count : execClz c rd ra b s = _)
  case popc => exact (alu_register_of_ready ready rfl : execPopc c rd ra b s = _)
  case lui =>
    rw [← word_highPart]
    exact (State.core_of_ready ready _ : execLui c rd imm s = _)

/-- Settles O9, from reads after writes of canonical tables. -/
theorem scalarRegistersReadBack : Obligations.ScalarRegistersReadBack :=
  ⟨fun k rd r v canon => ⟨k.s_setS r v canon rd, k.setS_zero v⟩,
    fun _ site other k canon => cl_setCl (canon_iff.1 canon).clusters site other k⟩

/-- Settles O10, by the cases of `nextPc`. -/
theorem pcStepsThroughLoops : Obligations.PcStepsThroughLoops := by
  intro k
  refine ⟨k.advance_frame, k.advance_cyc, fun noLoop => ?outside, fun l ls loops => ⟨fun before => ?before, fun atEnd more => ?again,
    fun atEnd last => k.advance_of_lastRun loops atEnd last⟩⟩
  case outside => rw [k.advance_pc, k.advance_loops, noLoop]; exact ⟨rfl, rfl⟩
  case before => rw [k.advance_pc, k.advance_loops, loops, nextPc_of_inside before]; exact ⟨rfl, rfl⟩
  case again => rw [k.advance_pc, k.advance_loops, loops, nextPc_of_again atEnd more]; exact ⟨rfl, rfl⟩

/-- Settles O12: a branch by `branch_of_ready`, a jump by `taken_goes`. -/
theorem branchesAndJumps : Obligations.BranchesAndJumps := by
  intro s c rd ra rb off off20 ready
  have link := taken_goes (s := s) (site := c) ((s.cl c).setS_loops rd ((s.cl c).pc + 4)) ((s.cl c).setS_cyc rd ((s.cl c).pc + 4))
  refine ⟨?eq, ?ne, ?lt, ?ge, ?ltu, ?geu, ?jal, ?jalr⟩
  case eq => exact branch_of_ready ready beq_iff_eq
  case ne => exact branch_of_ready ready bne_iff_ne
  case lt => exact branch_of_ready ready BitVec.slt_iff_toInt_lt
  case ge => exact branch_of_ready (cond := fun a b => !a.slt b) ready (word_notSlt ..)
  case ltu => exact branch_of_ready ready BitVec.ult_iff_lt
  case geu => exact branch_of_ready (cond := fun a b => !a.ult b) ready (word_notUlt ..)
  case jal =>
    have jump : exec (.jal c rd off20) s = _ := (State.core_of_ready ready _ : execJal c rd off20 s = _)
    rw [jump, signExtend_instructions]
    exact link _
  case jalr =>
    have jump : exec (.jalr c rd ra off) s = _ := (State.core_of_ready ready _ : execJalr c rd ra off s = _)
    rw [jump, word_aligned]
    exact link _

/-- Settles O11: the instructions as they stand, at the address of R106. -/
theorem dataStoreAccesses : Obligations.DataStoreAccesses := by
  intro s c rd ra imm ready
  refine ⟨?lw, ?sw, ?lbu, ?sb⟩
  case lw => exact (State.core_of_ready ready _ : execLw c rd ra imm s = _)
  case sw => exact (State.core_of_ready ready _ : execSw c rd ra imm s = _)
  case lbu => exact (State.core_of_ready ready _ : execLbu c rd ra imm s = _)
  case sb => exact (State.core_of_ready ready _ : execSb c rd ra imm s = _)

/-- Settles O13: LOOP by what it tests (`Cluster.refusesLoop_iff`), the others as they stand. -/
theorem loopsWaitsAndFaults : Obligations.LoopsWaitsAndFaults := by
  intro s c n ra len imm w ready
  have refused := (s.cl c).refusesLoop_iff n len
  have loop := loop_of_ready ready n ra len
  refine ⟨fun fits zero => ?skipped, fun fits nonzero => ?entered, fun bad => ?refused, ?waitc, ?halt, ?fault, fun undefined => ?word⟩
  case skipped => exact loop.trans ((if_neg fun no => refused.1 no fits).trans (if_pos zero))
  case entered => exact loop.trans ((if_neg fun no => refused.1 no fits).trans (if_neg nonzero))
  case refused => exact loop.trans (if_pos (refused.2 bad))
  case waitc =>
    rw [BitVec.ofNat_toNat]
    exact (State.core_of_ready ready _ : execWaitc c imm s = _)
  case halt => exact (State.core_of_ready ready _ : execHalt c s = _)
  case fault => exact (State.core_of_ready ready _ : execFault c imm s = _)
  case word =>
    have issued : exec (.undefinedInstruction c w) s = _ := (State.core_of_ready ready _ : execUndefinedInstruction c w s = _)
    rw [issued, undefined]
    rfl

/-- Settles O14: the fault writes the core's cluster and the intake. -/
theorem programFaultStopsAndReports : Obligations.ProgramFaultStopsAndReports := by
  intro s c imm
  have site : Fin.ofNat 13824 c.val = c := Fin.ofNat_val_eq_self c
  refine ⟨?report, rfl, rfl, ⟨fun _ _ => rfl, fun _ _ => rfl⟩, fun _ => rfl⟩
  case report => exact congrArg (fun x => s.resil.intake ++ [.program x imm]) site

end Sys2Proof
end

section
/-! SUPPORT. Handle entries and their fields, and the ways in which an access through a handle ends (R131 to R133, R141). -/

namespace Sys2Proof.Machine

variable {s : State} {site : SiteNo}

-- The image of an entry (R131)

/-- The fields of a valid entry below its parity bit. -/
def handleFields (addr len home : Nat) (remote : Bool) : Nat :=
  addr % 2 ^ 22 + len % 2 ^ 23 * 2 ^ 22 + home % 2 ^ 14 * 2 ^ 45 + b2n remote * 2 ^ 59 + handleClass addr len remote * 2 ^ 60 + 2 ^ 62

theorem b2n_le_one (b : Bool) : b2n b ≤ 1 := by cases b <;> decide

theorem handleClass_le (addr len : Nat) (remote : Bool) : handleClass addr len remote ≤ 2 := by
  unfold handleClass
  split
  · exact le_rfl
  · split <;> omega

theorem handleFields_lt (addr len home : Nat) (remote : Bool) : handleFields addr len home remote < 2 ^ 63 := by
  have flag := b2n_le_one remote
  have cls := handleClass_le addr len remote
  unfold handleFields
  omega

theorem mkHandle_toNat (addr len home : Nat) (remote : Bool) :
    (mkHandle addr len home remote).toNat = handleFields addr len home remote
      + ones 63 (BitVec.ofNat 63 (handleFields addr len home remote)) % 2 * 2 ^ 63 := by
  have fields := handleFields_lt addr len home remote
  have parity := Nat.mod_lt (ones 63 (BitVec.ofNat 63 (handleFields addr len home remote))) (show 0 < 2 by decide)
  refine (BitVec.toNat_ofNat ..).trans (Nat.mod_eq_of_lt ?_)
  change handleFields addr len home remote + _ < _
  omega

/-- A bit below the parity bit is that of the fields. -/
theorem mkHandle_getLsbD (addr len home : Nat) (remote : Bool) {i : Nat} (low : i < 63) :
    (mkHandle addr len home remote).getLsbD i = (handleFields addr len home remote).testBit i := by
  rw [BitVec.getLsbD, mkHandle_toNat, Nat.add_comm, Nat.mul_comm, Nat.testBit_two_pow_mul_add _ (handleFields_lt ..), if_pos low]

theorem mkHandle_parityBit (addr len home : Nat) (remote : Bool) :
    (mkHandle addr len home remote).getLsbD 63 = decide (ones 63 (BitVec.ofNat 63 (handleFields addr len home remote)) % 2 = 1) := by
  rw [BitVec.getLsbD, mkHandle_toNat, Nat.add_comm, Nat.mul_comm, Nat.testBit_two_pow_mul_add _ (handleFields_lt ..),
    if_neg (lt_irrefl 63), Nat.sub_self, Nat.testBit_zero, Nat.mod_mod]

/-- Parity over the whole entry is even. -/
theorem mkHandle_evenParity (addr len home : Nat) (remote : Bool) : ones 64 (mkHandle addr len home remote) % 2 = 0 := by
  have below : (List.range 63).countP (fun i => (mkHandle addr len home remote).getLsbD i)
      = ones 63 (BitVec.ofNat 63 (handleFields addr len home remote)) := by
    refine List.countP_congr fun i inRange => ?_
    have low := List.mem_range.1 inRange
    rw [mkHandle_getLsbD _ _ _ _ low, BitVec.getLsbD_ofNat, decide_eq_true low, Bool.true_and]
  unfold ones
  rw [List.range_succ, List.countP_append, below, List.countP_singleton, mkHandle_parityBit]
  simp only [decide_eq_true_eq]
  split <;> omega

/-- What an entry written for a buffer reads back as. -/
theorem mkHandle_fields {addr len home : Nat} {remote : Bool} (ha : addr < 2 ^ 22) (hl : len < 2 ^ 23) (hh : home < 2 ^ 14) :
    let v := mkHandle addr len home remote
    hAddr v = addr ∧ hLen v = len ∧ hHome v = home ∧ hClass v = handleClass addr len remote := by
  have flag := b2n_le_one remote
  have cls := handleClass_le addr len remote
  have parity := Nat.mod_lt (ones 63 (BitVec.ofNat 63 (handleFields addr len home remote))) (show 0 < 2 by decide)
  simp only [hAddr, hLen, hHome, hClass, mkHandle_toNat]
  generalize ones 63 (BitVec.ofNat 63 (handleFields addr len home remote)) % 2 = p at parity ⊢
  unfold handleFields
  omega

theorem mkHandle_remote (addr len home : Nat) (remote : Bool) : hRemote (mkHandle addr len home remote) = remote := by
  have cls := handleClass_le addr len remote
  have bit : handleFields addr len home remote / 2 ^ 59 % 2 = b2n remote := by
    have flag := b2n_le_one remote
    unfold handleFields
    omega
  rw [hRemote, mkHandle_getLsbD _ _ _ _ (by decide), Nat.testBit_eq_decide_div_mod_eq, bit]
  cases remote <;> rfl

theorem mkHandle_valid (addr len home : Nat) (remote : Bool) : hValid (mkHandle addr len home remote) = true := by
  have bit : handleFields addr len home remote / 2 ^ 62 % 2 = 1 := by
    have flag := b2n_le_one remote
    have cls := handleClass_le addr len remote
    unfold handleFields
    omega
  rw [hValid, mkHandle_getLsbD _ _ _ _ (by decide), Nat.testBit_eq_decide_div_mod_eq, bit]
  rfl

theorem handleClass_eq (addr len : Nat) (remote : Bool) :
    handleClass addr len remote = if remote then 2 else if addr + len ≤ 2 ^ 21 then 0 else 1 := by
  unfold handleClass
  cases remote
  · simp only [Bool.false_eq_true, if_false]
    split <;> split <;> omega
  · rfl

-- Where an access goes (R132, R178, R180)

/-- A flit of the bulk network reaches another site: both regions' routers have power and, between regions, those at the turns of the
route of the last grid build. -/
theorem State.reaches_bulk_iff (s : State) (a b : Nat) : s.reaches 0 a b = true ↔
    (s.rg (siteRegion a)).bulkUp = true ∧ (s.rg (siteRegion b)).bulkUp = true
      ∧ (siteRegion a = siteRegion b ∨ ∃ p, route (s.listed 0) (siteX a) (siteY a) (siteX b) (siteY b) = some p
        ∧ ∀ t ∈ turns (siteX a) (siteY a) (siteX b) (siteY b) p, (s.rg (t.2 / 9 * 16 + t.1 / 8)).bulkUp = true) := by
  have bulk (r : Nat) : s.netUp r 0 = (s.rg r).bulkUp := rfl
  unfold State.reaches
  cases found : route (s.listed 0) (siteX a) (siteY a) (siteX b) (siteY b) with
  | none => simp only [bulk, Bool.and_eq_true, Bool.or_false, decide_eq_true_eq, and_assoc, reduceCtorEq, false_and, exists_false, or_false]
  | some p =>
    simp only [bulk, Bool.and_eq_true, Bool.or_eq_true, decide_eq_true_eq, and_assoc, Option.some.injEq, exists_eq_left', List.all_eq_true]
    rfl

section
variable {i : Nat} {h : BitVec 6} {off n : Nat}

theorem State.handleAt_of_released (released : hValid (Tab.get 0 (s.cl i).handles h.toNat) = false) :
    s.handleAt i h off n = .undef .u4 := by
  simp only [State.handleAt, released, Bool.not_false, if_true]

theorem State.handleAt_of_past (valid : hValid (Tab.get 0 (s.cl i).handles h.toNat) = true)
    (past : hLen (Tab.get 0 (s.cl i).handles h.toNat) < off + n
      ∨ larSpan < hAddr (Tab.get 0 (s.cl i).handles h.toNat) + hLen (Tab.get 0 (s.cl i).handles h.toNat)) :
    s.handleAt i h off n = .undef .u1 := by
  simp only [State.handleAt, valid, Bool.not_true, Bool.false_eq_true, if_false, past, if_true]

section
variable (valid : hValid (Tab.get 0 (s.cl i).handles h.toNat) = true) (remote : hRemote (Tab.get 0 (s.cl i).handles h.toNat) = true)
  (inBuffer : off + n ≤ hLen (Tab.get 0 (s.cl i).handles h.toNat))
  (inLarder : hAddr (Tab.get 0 (s.cl i).handles h.toNat) + hLen (Tab.get 0 (s.cl i).handles h.toNat) ≤ larSpan)

include valid remote inBuffer inLarder

theorem State.handleAt_of_homeless (homeless : s.clusterSite (hHome (Tab.get 0 (s.cl i).handles h.toNat)) = none) :
    s.handleAt i h off n = .undef .u2 := by
  simp only [State.handleAt, valid, remote, homeless, Bool.not_true, Bool.false_eq_true, if_false, if_true]
  rw [if_neg (by omega)]

theorem State.handleAt_of_home {t : Nat} (home : s.clusterSite (hHome (Tab.get 0 (s.cl i).handles h.toNat)) = some t) :
    s.handleAt i h off n = if t = i ∨ (s.reaches 0 i t = true ∧ s.reaches 0 t i = true)
      then .at_ t (hAddr (Tab.get 0 (s.cl i).handles h.toNat) + off) else .lost := by
  simp only [State.handleAt, valid, remote, home, Bool.not_true, Bool.false_eq_true, if_false, if_true]
  rw [if_neg (by omega)]
  by_cases same : t = i
  · simp [same]
  · cases s.reaches 0 i t <;> cases s.reaches 0 t i <;> simp [same]

end

end

-- How an access ends

section
variable {h : BitVec 6} {off n t a : Nat} {d : List Byte} {u : UCase} {r : Res}

theorem State.handleWrite_of_written {k : State → Res} {s' : State} (place : s.handleAt site h off d.length = .at_ t a)
    (write : s.larWrite t a d = (s', true)) : s.handleWrite site h off d k = k s' := by simp only [State.handleWrite, place, write]

theorem State.handleWrite_of_held {k : State → Res} {s' : State} (place : s.handleAt site h off d.length = .at_ t a)
    (write : s.larWrite t a d = (s', false)) :
    s.handleWrite site h off d k = .next (s'.setCl site { s'.cl site with stall := some .heldAccess }) := by
  simp only [State.handleWrite, place, write]; rfl

/-- What writes `d` through a handle and then works on the cluster: how it ends when the write is made, and the stall that an
uncorrectable word leaves. -/
theorem ends_of_handleWrite {put : State → Cluster} (hr : r = s.handleWrite site h off d fun s' => s'.fin site (put s'))
    (place : s.handleAt site h off d.length = .at_ t a) :
    (∀ s', s.larWrite t a d = (s', true) → r = .next (s'.setCl site (put s').advance))
    ∧ ∀ s', s.larWrite t a d = (s', false) → r = .next (s'.setCl site { s'.cl site with stall := some .heldAccess }) :=
  ⟨fun _ write => hr.trans (State.handleWrite_of_written place write), fun _ write => hr.trans (State.handleWrite_of_held place write)⟩

/-- An access through a handle that is an undefined case ends in it, and one that is lost stalls the core with nothing else changed. -/
def BoundedBy (s : State) (site : SiteNo) (h : BitVec 6) (off n : Nat) (u : UCase) (r : Res) : Prop :=
  (s.handleAt site h off n = .undef u → r = .fault (.undefinedCase u))
  ∧ (s.handleAt site h off n = .lost → r = .next (s.setCl site { s.cl site with stall := some .heldAccess }))

theorem boundedBy_of_handleRead {k : State → List Byte → Res} (hr : r = s.handleRead site h off n k) :
    BoundedBy s site h off n u r := by
  refine ⟨fun bad => hr.trans ?_, fun lost => hr.trans ?_⟩
  · simp only [State.handleRead, bad]; rfl
  · simp only [State.handleRead, lost]; rfl

theorem boundedBy_of_handleWrite {k : State → Res} (hr : r = s.handleWrite site h off d k) :
    BoundedBy s site h off d.length u r := by
  refine ⟨fun bad => hr.trans ?_, fun lost => hr.trans ?_⟩
  · simp only [State.handleWrite, bad]; rfl
  · simp only [State.handleWrite, lost]; rfl

end

-- Instructions on the handle table (R116)

variable {h : BitVec 6} {sa sb : BitVec 4}

theorem hset_of_ready (ready : s.coreReady site = true) : exec (.hset site h sa sb) s =
    let k := s.cl site
    let a := (k.s sa).toNat % 2 ^ 22
    let n := (k.s sb).toNat % 2 ^ 23
    if larSpan < a + n then .fault (.undefinedCase .u1)
    else .next (s.setCl site (k.setHandle h (mkHandle a n (s.ownNumber site) false)).advance) :=
  (State.core_of_ready ready _ : execHset site h sa sb s = _)

theorem hown_of_ready (ready : s.coreReady site = true) : exec (.hown site h sa) s =
    let k := s.cl site
    let v := Tab.get 0 k.handles h.toNat
    let m := (k.s sa).toNat % 2 ^ 14
    if hValid v = false then .fault (.undefinedCase .u4)
    else if s.nClusters ≤ m then .fault (.undefinedCase .u2)
    else .next (s.setCl site (k.setHandle h (mkHandle (hAddr v) (hLen v) m (m != s.ownNumber site))).advance) := by
  have issued : exec (.hown site h sa) s = _ := (State.core_of_ready ready _ : execHown site h sa s = _)
  simp only [issued, Bool.not_eq_true']
  rfl

/-- HGET writes the field that `sel` names in the order of its numbers, and 0 of a released entry. -/
theorem hget_of_ready (ready : s.coreReady site = true) (sel : BitVec 2) : exec (.hget site h sb sel) s =
    let v := Tab.get 0 (s.cl site).handles h.toNat
    .next (s.setCl site ((s.cl site).setS sb (BitVec.ofNat 32
      (if hValid v = false then 0 else [hAddr v, hLen v, hHome v, hClass v].getD sel.toNat 0))).advance) := by
  have issued : exec (.hget site h sb sel) s = _ := (State.core_of_ready ready _ : execHget site h sb sel s = _)
  have inList : sel.toNat < 4 := sel.isLt
  simp only [issued, Bool.not_eq_true']
  generalize sel.toNat = i at inList ⊢
  match i, inList with
  | 0, _ => rfl
  | 1, _ => rfl
  | 2, _ => rfl
  | 3, _ => rfl

end Sys2Proof.Machine
end

section
/-! CLAIM. Handles: the table, and the accesses made through it. -/

namespace Sys2Proof

open Machine

/-- Settles O31: an entry's fields from its number (`mkHandle_toNat`), and the four instructions that keep the table. -/
theorem handleInstructions : Obligations.HandleInstructions := by
  refine ⟨fun addr len home remote ha hl hh => ?fields, fun s c h sa sb sel ready => ?instructions⟩
  case fields =>
    obtain ⟨isAddr, isLen, isHome, isClass⟩ := mkHandle_fields (remote := remote) ha hl hh
    exact ⟨isAddr, isLen, isHome, mkHandle_remote .., mkHandle_valid .., mkHandle_evenParity .., isClass.trans (handleClass_eq ..)⟩
  case instructions =>
    have hown := hown_of_ready (h := h) (sa := sa) ready
    refine ⟨fun fits => ?set, fun past => ?past, fun valid inGrid => ?own, fun released => ?released, fun valid outside => ?outside,
      ?hrel, hget_of_ready ready sel⟩
    case set => exact (hset_of_ready ready).trans (if_neg (Nat.not_lt.2 fits))
    case past => exact (hset_of_ready ready).trans (if_pos past)
    case own => exact hown.trans ((if_neg (ne_false_of_eq_true valid)).trans (if_neg (Nat.not_le.2 inGrid)))
    case released => exact hown.trans (if_pos released)
    case outside => exact hown.trans ((if_neg (ne_false_of_eq_true valid)).trans (if_pos outside))
    case hrel => exact (State.core_of_ready ready _ : execHrel c h s = _)

/-- Settles O17: each writer is a write through its handle (`ends_of_handleWrite`). -/
theorem larderWritersComplete : Obligations.LarderWritersComplete := by
  intro s c h sa sb v aw clr sig outl ready
  refine ⟨?stl, ?accst, ?vst, ?vrq⟩
  case stl => exact fun _ _ => ends_of_handleWrite (State.core_of_ready ready _ : execStl c h sa sb s = _)
  case accst => exact fun _ _ => ends_of_handleWrite (State.core_of_ready ready _ : execAccst c h sa sb clr sig s = _)
  case vst => exact fun _ _ => ends_of_handleWrite (State.core_of_ready ready _ : execVst c v h sa s = _)
  case vrq => exact fun _ _ => ends_of_handleWrite (State.core_of_ready ready _ : execVrq c v h sa aw outl s = _)

end Sys2Proof
end

section
/-! SUPPORT. Reads of the slab queues as accesses through a handle (R320 to R322). -/

namespace Sys2Proof.Machine

variable {s : State} {site : SiteNo}

/-- What follows the delivery of `d` bytes of the packet `p`, at place `i` of the list, to the QRD of `n` bytes that reads it: the
packet is passed or taken out, writers go on, and the reader steps with its QSTAT or waits for the rest. -/
def State.slabDelivered (s : State) (site : SiteNo) (slab n : Nat) (p : QPkt) (i : Nat) (part : Nat × Bool) (d : List Byte)
    (poison : Bool) : Res :=
  let done := p.ended && decide (p.bytes.length ≤ p.pos + d.length)
  let s := s.setPackets (if done then s.strm.packets.eraseIdx i
    else setAt s.strm.packets i { p with reader := some site.val, pos := p.pos + d.length })
  let s := if done = true ∨ d ≠ [] then s.wakeWriters slab else s
  if p.ended = true ∨ n ≤ part.1 + d.length then
    s.fin site { (s.cl site).setQstat done (done && p.trunc) (part.2 || poison) with rdPart := (0, false) }
  else .next ((s.updCl site fun k => { k with rdPart := (part.1 + d.length, part.2 || poison) }).stallCore site .qrd)

section
variable {h : BitVec 6} {off n q slab i : Nat} {p : QPkt}

theorem readSlab_of_none (noPacket : s.currentPkt site q = none) :
    s.readSlab site h off n q slab = .next (s.setCl site { s.cl site with stall := some .qrd }) := by
  simp only [State.readSlab, noPacket]; rfl

theorem readSlab_of_packet (current : s.currentPkt site q = some (p, i)) :
    let part := (s.cl site).rdPart
    let d := (p.bytes.drop p.pos).take (n - part.1)
    let r := s.poolRead (slab + 1) q (badIn p.bad p.pos d.length)
    s.readSlab site h off n q slab = if d = [] then r.1.slabDelivered site slab n p i part d r.2
      else r.1.handleWrite site h (off + part.1) d fun x => x.slabDelivered site slab n p i part d r.2 := by
  simp only [State.readSlab, current, State.slabDelivered, Bool.or_eq_true, Bool.not_eq_true', List.isEmpty_iff, List.isEmpty_eq_false_iff,
    decide_eq_true_eq]

end

variable {h : BitVec 6} {sa sb : BitVec 4}

theorem qrd_of_slab (ready : s.coreReady site = true) {q : BitVec 16} {slab j : Nat} (bound : (s.cl site).rdQueue = some q)
    (ofSlab : slabQueue q.toNat = some (slab, j)) :
    exec (.qrd site h sa sb) s = s.readSlab site h ((s.cl site).s sa).toNat ((s.cl site).s sb).toNat q.toNat slab := by
  have issued : exec (.qrd site h sa sb) s = _ := (State.core_of_ready ready _ : execQrd site h sa sb s = _)
  simp only [issued, bound, ofSlab]

theorem qwr_of_bound (ready : s.coreReady site = true) {last : Bool} {q : BitVec 16} (bound : (s.cl site).wrQueue = some q) :
    let k := s.cl site
    exec (.qwr site h sa sb last) s = s.handleRead site h ((k.s sa).toNat + k.wrPart) ((k.s sb).toNat - k.wrPart) fun s d =>
      if q.toNat ∈ k.wrDrop then
        s.fin site { s.cl site with wrPart := 0, wrDrop := if last then k.wrDrop.filter (· != q.toNat) else k.wrDrop }
      else (slabQueue q.toNat).elim
        (if 0x10 ≤ q.toNat ∧ q.toNat < 0x18 then (s.writeStaged site q.toNat d last).fin site (s.cl site) else s.fin site (s.cl site))
        fun x => s.pushSlab site q.toNat x.1 d last := by
  have issued : exec (.qwr site h sa sb last) s = _ := (State.core_of_ready ready _ : execQwr site h sa sb last s = _)
  simp only [issued, bound, List.contains_iff_mem]
  cases slabQueue q.toNat <;> rfl

theorem cpstart_of_idle (ready : s.coreReady site = true) (idle : (s.cl site).copyBusy = none) :
    exec (.cpstart site h sa) s = s.handleRead site h ((s.cl site).s sa).toNat 64 fun s d =>
      Flow.res ((s.copyStart site .program d).bind' fun s => .ok (s.setCl site (s.cl site).advance)) := by
  have issued : exec (.cpstart site h sa) s = _ := (State.core_of_ready ready _ : execCpstart site h sa s = _)
  simp only [issued, idle]
  rfl

end Sys2Proof.Machine
end

section
/-! CLAIM. Where every access through a handle goes, and how it ends when it goes nowhere. -/

namespace Sys2Proof

open Machine

/-- Settles O15: the cases of `State.handleAt`, and every instruction that reads or writes through a handle (`BoundedBy`). -/
theorem handlesBoundEveryAccess : Obligations.HandlesBoundEveryAccess := by
  refine ⟨fun s site h off n => ?place, fun s c h sa sb v wfmt aw e f1 f2 u ready => ?ends⟩
  case place =>
    refine ⟨State.handleAt_of_released, State.handleAt_of_past, fun fits own => ?own, fun fits remote => ?remote⟩
    case own =>
      obtain ⟨valid, inBuffer, inLarder⟩ := fits
      exact s.handleAt_local site h off n valid own inBuffer inLarder
    case remote =>
      obtain ⟨valid, inBuffer, inLarder⟩ := fits
      cases home : s.clusterSite (hHome (Tab.get 0 (s.cl site).handles h.toNat)) with
      | none => exact State.handleAt_of_homeless valid remote inBuffer inLarder home
      | some t =>
        have goes := State.handleAt_of_home valid remote inBuffer inLarder home
        have powered := and_congr (s.reaches_bulk_iff site t) (s.reaches_bulk_iff t site)
        exact ⟨fun arrives => goes.trans (if_pos (arrives.imp_right powered.2)),
          fun other cut => goes.trans (if_neg fun arrives => arrives.elim other fun go => cut (powered.1 go))⟩
  case ends =>
    have good (lt : wfmt.toNat < 5) : ¬ wfmtBad wfmt = true := Bool.eq_false_iff.1 (wfmtBad_of_lt lt)
    refine ⟨?ldl, ?stl, fun lt => ⟨?wload, ?wrow⟩, ?wscale, ?pass, ?accst, ?accld, ?vld, ?vst, ?vrq, fun idle => ?cpstart,
      fun q bound => ?qwr, fun q slab j p i bound ofSlab current => ?qrd⟩
    case ldl => exact boundedBy_of_handleRead (State.core_of_ready ready _ : execLdl c h sa sb s = _)
    case stl => exact boundedBy_of_handleWrite (State.core_of_ready ready _ : execStl c h sa sb s = _)
    case wload =>
      exact boundedBy_of_handleRead ((State.core_of_ready ready _).trans (if_neg (good lt)) : execWload c h sa wfmt s = arrayRead ..)
    case wrow =>
      exact boundedBy_of_handleRead ((State.core_of_ready ready _).trans (if_neg (good lt)) : execWrow c h sa sb wfmt s = arrayRead ..)
    case wscale => exact boundedBy_of_handleRead (State.core_of_ready ready _ : execWscale c h sa s = _)
    case pass => exact boundedBy_of_handleRead (State.core_of_ready ready _ : execPass c h sa aw e f1 s = _)
    case accst => exact boundedBy_of_handleWrite (State.core_of_ready ready _ : execAccst c h sa sb f1 f2 s = _)
    case accld => exact boundedBy_of_handleRead (State.core_of_ready ready _ : execAccld c h sa sb s = _)
    case vld => exact boundedBy_of_handleRead (State.core_of_ready ready _ : execVld c v h sa s = _)
    case vst => exact boundedBy_of_handleWrite (State.core_of_ready ready _ : execVst c v h sa s = _)
    case vrq => exact boundedBy_of_handleWrite (State.core_of_ready ready _ : execVrq c v h sa aw f1 s = _)
    case cpstart => exact boundedBy_of_handleRead (cpstart_of_idle ready idle)
    case qwr => exact boundedBy_of_handleRead (qwr_of_bound ready bound)
    case qrd =>
      intro d bytes
      have written := ((qrd_of_slab (h := h) (sa := sa) (sb := sb) ready bound ofSlab).trans (readSlab_of_packet current)).trans
        (if_neg bytes)
      exact boundedBy_of_handleWrite written

end Sys2Proof
end

section
/-! CLAIM. The accumulator file and the control registers. -/

namespace Sys2Proof.Machine

variable {s : State} {site : SiteNo}

/-- ACCRD's readout, written out: the copy to the group, the fold of the image, the clear with its counts (R100, R102). -/
theorem Cluster.readout_accToV (k : Cluster) (e g : Nat) (clr sig : Bool) :
    let copied := { k with vreg := Tab.setList 0 k.vreg (256 * g) (k.entry e) }
    let folded := if sig then { copied with sig := crcFold k.sig (k.image e) } else copied
    (k.accToV e g).readout e clr sig = if clr then
        ((folded.addSat (ones 256 (Tab.get 0 k.accSat e))).addNan (ones 256 (Tab.get 0 k.accNan e))).setEntry e (List.replicate 256 0) 0 0
      else folded := by
  rw [Nat.mul_comm]
  cases sig <;> rfl

-- Control registers (R120)

variable {rd ra : BitVec 4} {csr : BitVec 12}

theorem csrr_of_ready (ready : s.coreReady site = true) (notCyclo : csr ≠ 0x002) : exec (.csrr site rd csr) s
    = .next (s.setCl site ((s.cl site).setS rd (s.csrRead site (s.cl site) csr.toNat)).advance) := by
  have issued : exec (.csrr site rd csr) s = _ := (State.core_of_ready ready _ : execCsrr site rd csr s = _)
  exact issued.trans (if_neg notCyclo)

theorem csrr_cyclo_of_ready (ready : s.coreReady site = true) :
    let v := s.cycles (s.cl site)
    exec (.csrr site rd 0x002) s
      = .next (s.useFree.setCl site ({ s.cl site with cyc := v, cycHi := (v >>> 32).setWidth 32 }.setS rd (v.setWidth 32)).advance) :=
  (State.core_of_ready ready _ : execCsrr site rd 0x002 s = _)

theorem csrRead_of_unlisted (k : Cluster) {n : Nat}
    (unlisted : n ∉ [0, 1, 2, 3, 0x10, 0x11, 0x12, 0x20, 0x21, 0x30, 0x31, 0x32, 0x33, 0x34, 0x35, 0x40, 0x41, 0x42]) :
    s.csrRead site k n = 0 := by
  unfold State.csrRead
  split <;> simp_all

theorem csrw_of_ignored (ready : s.coreReady site = true) (ignored : csr.toNat ∉ [0x10, 0x11, 0x12, 0x20, 0x21]) :
    exec (.csrw site csr ra) s = .next (s.setCl site (s.cl site).advance) := by
  have issued : exec (.csrw site csr ra) s = _ := (State.core_of_ready ready _ : execCsrw site csr ra s = _)
  rw [issued]
  dsimp only
  split
  case h_6 => rfl
  all_goals simp_all

theorem csrw_sighi_of_ready (ready : s.coreReady site = true) (noTile : (s.cl site).tiles ≤ (s.cl site).tile) :
    let k := s.cl site
    exec (.csrw site 0x021 ra) s
      = .next (s.setCl site { k with sig := (k.sig &&& 0xFFFFFFFF) ||| ((k.s ra).setWidth 64 <<< 32) }.advance) := by
  have issued : exec (.csrw site 0x021 ra) s = s.tileEnd site (s.cl site) _ :=
    (State.core_of_ready ready _ : execCsrw site 0x021 ra s = _)
  exact issued.trans (if_pos noTile)

end Sys2Proof.Machine

namespace Sys2Proof

open Machine

/-- Settles O22: each works on the cluster alone, ACCRD by `Cluster.readout_accToV`. -/
theorem accumulatorInstructions : Obligations.AccumulatorInstructions := by
  intro s c e g clr sig ready
  refine ⟨?wswap, ?accrd, ?accclr⟩
  case wswap => exact (State.core_of_ready ready _ : execWswap c s = _)
  case accrd =>
    have issued : exec (.accrd c e g clr sig) s = _ := (State.core_of_ready ready _ : execAccrd c e g clr sig s = _)
    rw [issued, Cluster.readout_accToV]
    rfl
  case accclr => exact (State.core_of_ready ready _ : execAccclr c e s = _)

/-- Settles O33, register by register. -/
theorem controlRegisterInstructions : Obligations.ControlRegisterInstructions := by
  intro s c rd ra csr ready
  have listed {n : BitVec 12} (notCyclo : n ≠ 0x002) := csrr_of_ready (rd := rd) ready notCyclo
  refine ⟨listed (by decide), listed (by decide), listed (by decide), ⟨s.cycles (s.cl c), csrr_cyclo_of_ready ready⟩, listed (by decide),
    listed (by decide), listed (by decide), listed (by decide), listed (by decide), listed (by decide), listed (by decide),
    listed (by decide), listed (by decide), listed (by decide), listed (by decide), listed (by decide), listed (by decide),
    listed (by decide), fun unlisted => ?unlisted, ?f, ?pmode, ?a1scale, ?siglo, csrw_sighi_of_ready ready, csrw_of_ignored ready⟩
  case unlisted =>
    have notCyclo : csr ≠ 0x002 := by
      rintro rfl
      exact unlisted (by decide)
    have read := listed notCyclo
    rwa [csrRead_of_unlisted _ unlisted] at read
  case f => exact (State.core_of_ready ready _ : execCsrw c 0x010 ra s = _)
  case pmode => exact (State.core_of_ready ready _ : execCsrw c 0x011 ra s = _)
  case a1scale => exact (State.core_of_ready ready _ : execCsrw c 0x012 ra s = _)
  case siglo => exact (State.core_of_ready ready _ : execCsrw c 0x020 ra s = _)

end Sys2Proof
end

section
/-! SUPPORT. The fetch-ahead engine's start and the copy engine's, as a core's instruction makes them (R115, R163, R164, R245). -/

namespace Sys2Proof.Machine

variable {s : State} {site : SiteNo}

-- The list (R134, R164)

/-- The engine of a site starts with the header fields `fa` and its own copy of the handle table. -/
def State.startedWith (s : State) (site : Nat) (fa : FetchAhead) : State :=
  s.setCl site { s.cl site with fa := { fa with handles := (s.cl site).handles } }

/-- The engine as it starts on a list buffer with the header `b` (R164). -/
def listHeader (list len : Nat) (b : List Byte) : FetchAhead :=
  { running := true, listAddr := list, listLen := len, entries := min 131071 (leAt b 0 4)
    pitches := leAt b 4 2, credits := if leAt b 6 1 % 8 = 0 then 1 else min 4 (leAt b 6 1 % 8)
    sets := (List.range 4).map fun j => leAt b (8 + j) 1 % 64 }

section
variable {list len : Nat} {x : State}

theorem startEngine_of_short (nonempty : 0 < len) (short : len < 64) : s.startEngine site list len = .error (.undef .u1) := by
  rw [State.startEngine, if_neg nonempty.ne', if_pos short]

theorem startEngine_of_heldHeader (long : 64 ≤ len) (read : s.larRead site list 64 = (x, none)) :
    s.startEngine site list len = .ok (x.startedWith site { running := true, listAddr := list, listLen := len, held := true }) := by
  simp only [State.startEngine, if_neg (show ¬ len = 0 by omega), if_neg (Nat.not_lt.2 long), read]
  rfl

theorem startEngine_of_header {b : List Byte} (long : 64 ≤ len) (read : s.larRead site list 64 = (x, some b)) :
    s.startEngine site list len = (x.startedWith site (listHeader list len b)).takeEntry site 0 := by
  simp only [State.startEngine, if_neg (show ¬ len = 0 by omega), if_neg (Nat.not_lt.2 long), read]
  rfl

end

-- The next entry (R164, R165)

section
variable {p : Nat} {t : State}

theorem takeEntry_of_end (last : (s.cl site).fa.entries ≤ (s.cl site).fa.next) :
    s.takeEntry site p = .ok (s.setCl site { s.cl site with fa := { (s.cl site).fa with cur := none } }) := if_pos last

variable (more : (s.cl site).fa.next < (s.cl site).fa.entries)

include more

theorem takeEntry_of_past (past : (s.cl site).fa.listLen < 96 + 32 * (s.cl site).fa.next) :
    s.takeEntry site p = .error (.undef .u1) := by
  simp only [State.takeEntry, if_neg (Nat.not_le.2 more), if_pos past]

variable (inList : 96 + 32 * (s.cl site).fa.next ≤ (s.cl site).fa.listLen)

include inList

theorem takeEntry_of_held (read : s.larRead site ((s.cl site).fa.listAddr + 64 + 32 * (s.cl site).fa.next) 32 = (t, none)) :
    s.takeEntry site p = .ok (t.setCl site { t.cl site with fa := { (t.cl site).fa with held := true, cur := none } }) := by
  simp only [State.takeEntry, if_neg (Nat.not_le.2 more), if_neg (Nat.not_lt.2 inList), read]
  rfl

theorem takeEntry_of_entry {e : List Byte}
    (read : s.larRead site ((s.cl site).fa.listAddr + 64 + 32 * (s.cl site).fa.next) 32 = (t, some e)) :
    s.takeEntry site p = .ok (t.setCl site { t.cl site with fa := { (t.cl site).fa with
      cur := if leAt e 0 2 < p ∨ (t.cl site).fa.pitches ≤ leAt e 0 2 then none else some e } }) := by
  simp only [State.takeEntry, if_neg (Nat.not_le.2 more), if_neg (Nat.not_lt.2 inList), read]
  rfl

end

/-- What an engine that has just read the header of its list works from. -/
theorem fa_startedWith {x : State} (tables : Tab.wf {} x.clusters = true) (fa : FetchAhead) :
    ((x.startedWith site fa).cl site).fa = { fa with handles := (x.cl site).handles } := by
  rw [State.startedWith, cl_setCl tables, if_pos rfl]

-- The first entry, for an engine that has just read its list's header

section
variable {list len : Nat} {b : List Byte} {x z : State} (tables : Tab.wf {} x.clusters = true)

include tables

theorem firstEntry_of_none (noEntry : leAt b 0 4 = 0) :
    let y := x.startedWith site (listHeader list len b)
    y.takeEntry site 0 = .ok (y.setCl site { y.cl site with fa := { (y.cl site).fa with held := false, cur := none } }) := by
  intro y
  have fa := fa_startedWith (site := site) tables (listHeader list len b)
  have free : (y.cl site).fa.held = false := congrArg FetchAhead.held fa
  have last : (y.cl site).fa.entries ≤ (y.cl site).fa.next := by
    rw [fa, listHeader, noEntry]
    exact Nat.zero_le _
  rw [takeEntry_of_end last, ← free]

variable (entries : leAt b 0 4 ≠ 0)

include entries

theorem firstEntry_due : ((x.startedWith site (listHeader list len b)).cl site).fa.next
    < ((x.startedWith site (listHeader list len b)).cl site).fa.entries := by
  rw [fa_startedWith tables]
  exact Nat.lt_min.2 ⟨Nat.zero_lt_succ _, Nat.pos_of_ne_zero entries⟩

theorem firstEntry_of_short (short : len < 96) : (x.startedWith site (listHeader list len b)).takeEntry site 0 = .error (.undef .u1) := by
  refine takeEntry_of_past (firstEntry_due tables entries) ?_
  rw [fa_startedWith tables]
  exact short

variable (inList : 96 ≤ len)

include inList

theorem firstEntry_of_held (read : (x.startedWith site (listHeader list len b)).larRead site (list + 64) 32 = (z, none)) :
    (x.startedWith site (listHeader list len b)).takeEntry site 0
      = .ok (z.setCl site { z.cl site with fa := { (z.cl site).fa with held := true, cur := none } }) := by
  refine takeEntry_of_held (firstEntry_due tables entries) ?_ ?_
  · rw [fa_startedWith tables]
    exact inList
  · rw [fa_startedWith tables]
    exact read

theorem firstEntry_of_entry {e : List Byte}
    (read : (x.startedWith site (listHeader list len b)).larRead site (list + 64) 32 = (z, some e)) :
    (x.startedWith site (listHeader list len b)).takeEntry site 0 = .ok (z.setCl site { z.cl site with fa := { (z.cl site).fa with
      cur := if (z.cl site).fa.pitches ≤ leAt e 0 2 then none else some e } }) := by
  refine (takeEntry_of_entry (e := e) (t := z) (firstEntry_due tables entries) ?_ ?_).trans ?_
  · rw [fa_startedWith tables]
    exact inList
  · rw [fa_startedWith tables]
    exact read
  · simp only [Nat.not_lt_zero, false_or]

end

-- FASTART (R115)

section
variable {h : BitVec 6} (ready : s.coreReady site = true)

include ready

theorem fastart_of_busy (busy : s.moreEntries site = true) :
    exec (.fastart site h) s = .next (s.setCl site { s.cl site with stall := some .fastart }) :=
  ((State.core_of_ready ready _).trans (if_pos busy) : execFastart site h s = _)

variable (free : s.moreEntries site = false)

include free

theorem fastart_of_released (released : hValid (Tab.get 0 (s.cl site).handles h.toNat) = false) :
    exec (.fastart site h) s = .fault (.undefinedCase .u4) := by
  have issued : exec (.fastart site h) s = _ := (State.core_of_ready ready _ : execFastart site h s = _)
  simp only [issued, free, released, Bool.false_eq_true, if_false, Bool.not_false, if_true]
  rfl

variable (valid : hValid (Tab.get 0 (s.cl site).handles h.toNat) = true)

include valid

theorem fastart_of_started {t : State} (started : s.startEngine site (hAddr (Tab.get 0 (s.cl site).handles h.toNat))
      (hLen (Tab.get 0 (s.cl site).handles h.toNat)) = .ok t) : exec (.fastart site h) s = t.fin site (t.cl site) := by
  have issued : exec (.fastart site h) s = _ := (State.core_of_ready ready _ : execFastart site h s = _)
  simp only [issued, free, valid, started, Bool.false_eq_true, if_false, Bool.not_true]

theorem fastart_of_undef {u : UCase} (bad : s.startEngine site (hAddr (Tab.get 0 (s.cl site).handles h.toNat))
      (hLen (Tab.get 0 (s.cl site).handles h.toNat)) = .error (.undef u)) : exec (.fastart site h) s = .fault (.undefinedCase u) := by
  have issued : exec (.fastart site h) s = _ := (State.core_of_ready ready _ : execFastart site h s = _)
  simp only [issued, free, valid, bad, Bool.false_eq_true, if_false, Bool.not_true]
  rfl

end

-- COPYs of the program (R245, R248)

/-- The copy engine of a site as a COPY of the program starts on it. -/
def State.copying (s : State) (site : Nat) : State := s.updCl site fun c => { c with copyBusy := some .program, copyHeld := false }

section
variable {d : List Byte} {x : State}

theorem copyStart_of_ok (run : (s.copying site).copyRun site d = .ok x) : s.copyStart site .program d = .ok x := by
  unfold State.copying at run
  simp only [State.copyStart, run]

theorem copyStart_of_held (run : (s.copying site).copyRun site d = .error (.held x)) :
    s.copyStart site .program d = .ok (x.setCl site { x.cl site with copyHeld := true }) := by
  unfold State.copying at run
  simp only [State.copyStart, run]
  rfl

theorem copyStart_of_undef {u : UCase} (run : (s.copying site).copyRun site d = .error (.undef u)) :
    s.copyStart site .program d = .error (.undef u) := by
  unfold State.copying at run
  simp only [State.copyStart, run]

end

end Sys2Proof.Machine
end

section
/-! CLAIM. The engines of a cluster. -/

namespace Sys2Proof

open Machine

/-- Settles O29: FASTART by what the list's header and first entry are, CPSTART by how its COPY ends. -/
theorem engineInstructions : Obligations.EngineInstructions := by
  intro s c h sa ready
  have fawait : exec (.fawait c sa) s = _ := (State.core_of_ready ready _ : execFawait c sa s = _)
  have fafree : exec (.fafree c) s = _ := (State.core_of_ready ready _ : execFafree c s = _)
  have cpwait : exec (.cpwait c) s = _ := (State.core_of_ready ready _ : execCpwait c s = _)
  have fence : exec (.fence c) s = _ := (State.core_of_ready ready _ : execFence c s = _)
  have cpstart : exec (.cpstart c h sa) s = _ := (State.core_of_ready ready _ : execCpstart c h sa s = _)
  refine ⟨?empty, ?heldHeader, ?list, fastart_of_busy ready, fun free => fastart_of_released ready free,
    fun free valid nonempty short => fastart_of_undef ready free valid (startEngine_of_short nonempty short),
    fun filled => fawait.trans (if_pos filled), fun unfilled => fawait.trans (if_neg (Nat.not_lt.2 unfilled)),
    ?freed, ?nothingFreed, fun idle => ⟨?idleCpwait, ?idleFence⟩, fun program => ⟨?busyCpwait, ?busyFence⟩,
    fun r ring => ⟨?ringCpwait, ?ringFence⟩, fun busy => cpstart.trans (if_pos busy), ?copy⟩
  case empty =>
    rintro ⟨free, valid⟩ empty
    have started := fastart_of_started ready free valid (if_pos empty)
    exact started.trans (State.fin_setCl_running s c (State.running_of_ready ready))
  case heldHeader =>
    rintro x ⟨free, valid⟩ long read
    exact fastart_of_started ready free valid (startEngine_of_heldHeader long read)
  case list =>
    rintro x b canon ⟨free, valid⟩ long read
    have tables := (((State.larRead_frame ..).of_eq read).canon (canon_iff.1 canon)).clusters
    have header := startEngine_of_header long read
    have started {y : State} (first : s.startEngine c _ _ = .ok y) := fastart_of_started ready free valid first
    exact ⟨fun noEntry => started (header.trans (firstEntry_of_none tables noEntry)),
      fun entries short => fastart_of_undef ready free valid (header.trans (firstEntry_of_short tables entries short)),
      fun entries inList z held => started (header.trans (firstEntry_of_held tables entries inList held)),
      fun entries inList z e entry => started (header.trans (firstEntry_of_entry tables entries inList entry))⟩
  case freed =>
    intro filled
    rw [fafree, if_pos filled]
    rfl
  case nothingFreed =>
    intro noneFilled
    rw [fafree, if_neg (Nat.not_lt.2 noneFilled)]
    rfl
  case idleCpwait => exact cpwait.trans (if_neg (by simp [idle]))
  case idleFence => exact fence.trans (if_neg (by simp [idle]))
  case busyCpwait => exact cpwait.trans (if_pos (by simp [program]))
  case busyFence => exact fence.trans (if_pos program)
  case ringCpwait => exact cpwait.trans (if_pos (by simp [ring]))
  case ringFence => exact fence.trans (if_neg (by simp [ring]))
  case copy =>
    intro t a s' d idle place read
    have delivered := (cpstart_of_idle ready idle).trans (State.handleRead_of_delivered place read)
    refine ⟨fun x run => ?ok, fun x run => ?held, fun u run => ?undef⟩
    case ok => rw [delivered, copyStart_of_ok run]; rfl
    case held => rw [delivered, copyStart_of_held run]; rfl
    case undef => rw [delivered, copyStart_of_undef run]; rfl

end Sys2Proof
end

section
/-! SUPPORT. Barriers, event flags and region time, as a core's instruction meets them (R117, R191 to R196). -/

namespace Sys2Proof.Machine

variable {s : State} {site : SiteNo}

-- What a region knows (R178, R188, R193)

theorem State.syncAt_of_reached {r : Nat} (reached : ∀ e ∈ s.sync.cut, e.1 ≠ r) :
    s.syncAt r = ⟨s.sync.flags, s.sync.barPhase, s.sync.treeInst⟩ := by
  have unlisted : (s.sync.cut.find? fun e => e.1 == r) = none := List.find?_eq_none.2 fun e listed => by simpa using reached e listed
  rw [State.syncAt, unlisted]
  rfl

theorem State.syncAt_of_missed {r : Nat} {x : SyncCopy} {l : List (Nat × SyncCopy)} (missed : s.sync.cut = (r, x) :: l) :
    s.syncAt r = x := by
  simp [State.syncAt, missed]

-- Arrivals (R191, R192)

/-- An arrival counts, and where an unpowered router loses it, its phase is one that does not release. -/
theorem State.sendArrival_eq (s : State) (m : CSet) (i b lc : Nat) :
    let a := s.arrived b lc
    let lost := Tab.get 0 s.sync.barLost b
    s.sendArrival m i b lc = { s with sync := { s.sync with
      arrivals := Tab.set 0 s.sync.arrivals (arrKey b lc) (a + 1)
      barLost := if s.path 2 i [s.hubSite (lc / 64), s.hubSite (lc / 1024 * 16 + (m.lx0 + m.lx1) / 2), s.hubSite m.root]
        then s.sync.barLost else Tab.set 0 s.sync.barLost b (if lost = 0 then a + 1 else min lost (a + 1)) } } := by
  simp only [State.sendArrival, State.arrive, State.path_sync]
  split <;> rfl

section
variable {b : Nat} {m : CSet} {lc : Nat} {k : Nat → State → Res} (ready : s.coreReady site = true)

include ready

theorem barArrive_of_badEntry (bad : s.barSet b = none) : barArrive site b s k = .fault (.undefinedCase .u2) := by
  simp only [barArrive, State.core_of_ready ready, bad]; rfl

variable (entry : s.barSet b = some m)

include entry

theorem barArrive_of_unplaced (unplaced : s.siteCluster site = none) :
    barArrive site b s k = .next (s.setCl site (s.cl site).advance) := by
  simp only [barArrive, State.core_of_ready ready, entry, unplaced]; rfl

variable (placed : s.siteCluster site = some lc)

include placed

theorem barArrive_of_stranger (stranger : m.has lc = false) :
    barArrive site b s k = .next (s.setCl site (s.cl site).advance) := by
  simp only [barArrive, State.core_of_ready ready, entry, placed, stranger, Bool.not_false, if_true]; rfl

variable (member : m.has lc = true)

include member

theorem barArrive_of_ahead (ahead : s.releasedAt (siteRegion site) b + 2 ≤ s.arrived b lc) :
    barArrive site b s k = .next (s.setCl site { s.cl site with stall := some (.barArrive b (s.arrived b lc)) }) := by
  simp only [barArrive, State.core_of_ready ready, entry, placed, member, Bool.not_true, Bool.false_eq_true, if_false, ahead, if_true]
  rfl

theorem barArrive_of_member (due : s.arrived b lc < s.releasedAt (siteRegion site) b + 2) :
    barArrive site b s k = k (s.arrived b lc) (s.sendArrival m site b lc) := by
  simp only [barArrive, State.core_of_ready ready, entry, placed, member, Bool.not_true, Bool.false_eq_true, if_false,
    Nat.not_le.2 due]

end

section
variable {b : BitVec 5} (ready : s.coreReady site = true)

include ready

theorem barw_of_badEntry (bad : s.barSet b.toNat = none) : exec (.barw site b) s = .fault (.undefinedCase .u2) := by
  have issued : exec (.barw site b) s = _ := (State.core_of_ready ready _ : execBarw site b s = _)
  simp only [issued, bad]
  rfl

theorem barw_of_entry {m : CSet} (entry : s.barSet b.toNat = some m) :
    let a := ((s.siteCluster site).map (s.arrived b.toNat)).getD 0
    exec (.barw site b) s = if a ≤ s.releasedAt (siteRegion site) b.toNat then .next (s.setCl site (s.cl site).advance)
      else .next (s.setCl site { s.cl site with stall := some (.barRelease b.toNat (a - 1)) }) := by
  intro a
  have issued : exec (.barw site b) s = _ := (State.core_of_ready ready _ : execBarw site b s = _)
  have passes : (a = 0 ∨ a ≤ s.releasedAt (siteRegion site) b.toNat) ↔ a ≤ s.releasedAt (siteRegion site) b.toNat := by omega
  simp only [issued, entry]
  exact if_congr passes rfl rfl

end

-- Event flags (R193)

@[simp] theorem State.unstall_sync (s : State) (p : Nat → Stall → Bool) (adv : Bool) : (s.unstall p adv).sync = s.sync :=
  (State.unstall_frame s p adv).part .sync (by decide)

@[simp] theorem State.broadcast_flags (s : State) (src : Option Nat) : (s.broadcast src).sync.flags = s.sync.flags := by
  cases src <;> rfl

theorem State.setFlag_flags (s : State) (f : Nat) (v : Bool) : (s.setFlag f v).sync.flags
    = if v then s.sync.flags ||| (1 : DWord) <<< f else s.sync.flags &&& ~~~((1 : DWord) <<< f) := by
  simp only [State.setFlag, State.unstall_sync, State.broadcast_flags]

theorem getLsbD_one_shiftLeft {f g : Nat} (inWord : g < 64) : ((1 : DWord) <<< f).getLsbD g = decide (g = f) := by
  have one : (1 : DWord).getLsbD (g - f) = decide (g - f = 0) := BitVec.getLsbD_one
  rw [BitVec.getLsbD_shiftLeft, one, Bool.eq_iff_iff]
  simp only [Bool.and_eq_true, Bool.not_eq_true', decide_eq_true_eq, decide_eq_false_iff_not]
  omega

/-- Setting or clearing a flag leaves the 63 others. -/
theorem State.setFlag_getLsbD (s : State) (f : Nat) (v : Bool) {g : Nat} (inWord : g < 64) :
    (s.setFlag f v).sync.flags.getLsbD g = if g = f then v else s.sync.flags.getLsbD g := by
  have bit := getLsbD_one_shiftLeft (f := f) inWord
  rw [State.setFlag_flags]
  cases v with
  | false =>
    rw [if_neg Bool.false_ne_true, BitVec.getLsbD_and, BitVec.getLsbD_not, bit, decide_eq_true inWord]
    by_cases same : g = f <;> simp [same]
  | true =>
    rw [if_pos rfl, BitVec.getLsbD_or, bit]
    by_cases same : g = f <;> simp [same]

/-- EFSET and EFCLR: the way to the flags' home decides whether anything is set. -/
theorem fin_sendFlag {i f : Nat} {v : Bool} :
    (s.path 2 i [s.flagHome] = true → (s.sendFlag i f v).fin i ((s.sendFlag i f v).cl i)
      = .next ((s.setFlag f v).setCl i ((s.setFlag f v).cl i).advance))
    ∧ (s.path 2 i [s.flagHome] = false → (s.sendFlag i f v).fin i ((s.sendFlag i f v).cl i) = .next (s.setCl i (s.cl i).advance)) := by
  refine ⟨fun way => ?_, fun cut => ?_⟩
  · rw [State.sendFlag, if_pos way]; rfl
  · rw [State.sendFlag, cut, if_neg Bool.false_ne_true]; rfl

-- Halves of a count (R117)

theorem dword_high (t : DWord) : (t >>> 32).setWidth 32 = BitVec.ofNat 32 (t.toNat / 2 ^ 32) := by
  apply BitVec.eq_of_toNat_eq
  rw [BitVec.toNat_setWidth, BitVec.toNat_ushiftRight, Nat.shiftRight_eq_div_pow, BitVec.toNat_ofNat]

end Sys2Proof.Machine
end

section
/-! CLAIM. Barriers, event flags and region time. -/

namespace Sys2Proof

open Machine

/-- Settles O32: an arrival by its cases, a flag by the way to its home. -/
theorem barrierAndFlagInstructions : Obligations.BarrierAndFlagInstructions := by
  intro s c b f v sb ready
  have efwait : exec (.efwait c f v) s = _ := (State.core_of_ready ready _ : execEfwait c f v s = _)
  have efset : exec (.efset c f) s = _ := (State.core_of_ready ready _ : execEfset c f s = _)
  have efclr : exec (.efclr c f) s = _ := (State.core_of_ready ready _ : execEfclr c f s = _)
  have bar : exec (.bar c b) s = barArrive c b.toNat s fun a s' => .next (s'.stallCore c (.barRelease b.toNat a)) := rfl
  have bara : exec (.bara c b) s = barArrive c b.toNat s fun _ s' => s'.fin c (s'.cl c) := rfl
  refine ⟨State.syncAt_of_reached, fun x l => State.syncAt_of_missed, fun bad => ?bad, fun m lc entry placed => ?placed,
    fun m entry unplaced => ?unplaced, ⟨fun way => ⟨efset.trans (fin_sendFlag.1 way), efclr.trans (fin_sendFlag.1 way)⟩,
      fun cut => ⟨efset.trans (fin_sendFlag.2 cut), efclr.trans (fin_sendFlag.2 cut)⟩, fun g inWord => ?flags⟩,
    fun seen => efwait.trans (if_pos seen), fun unseen => efwait.trans (if_neg unseen), ?low, ?high⟩
  case bad =>
    intro i listed
    simp only [List.mem_cons, List.not_mem_nil, or_false] at listed
    rcases listed with rfl | rfl | rfl
    · exact bar.trans (barArrive_of_badEntry ready bad)
    · exact bara.trans (barArrive_of_badEntry ready bad)
    · exact barw_of_badEntry ready bad
  case placed =>
    have barw := barw_of_entry ready entry
    rw [placed] at barw
    refine ⟨fun member due => ⟨?arrives, ?arrivesAhead⟩,
      fun member ahead => ⟨bar.trans (barArrive_of_ahead ready entry placed member ahead),
        bara.trans (barArrive_of_ahead ready entry placed member ahead)⟩,
      fun stranger => ⟨bar.trans (barArrive_of_stranger ready entry placed stranger),
        bara.trans (barArrive_of_stranger ready entry placed stranger)⟩,
      fun released => barw.trans (if_pos released), fun waiting => barw.trans (if_neg (Nat.not_le.2 waiting))⟩
    case arrives =>
      rw [bar, barArrive_of_member ready entry placed member due, State.sendArrival_eq]
      rfl
    case arrivesAhead =>
      rw [bara, barArrive_of_member ready entry placed member due, State.sendArrival_eq]
      rfl
  case unplaced =>
    have barw := barw_of_entry ready entry
    rw [unplaced] at barw
    intro i listed
    simp only [List.mem_cons, List.not_mem_nil, or_false] at listed
    rcases listed with rfl | rfl | rfl
    · exact bar.trans (barArrive_of_unplaced ready entry unplaced)
    · exact bara.trans (barArrive_of_unplaced ready entry unplaced)
    · exact barw.trans (if_pos (Nat.zero_le _))
  case flags =>
    rw [State.setFlag_getLsbD s _ _ inWord, State.setFlag_getLsbD s _ _ inWord]
    by_cases same : g = f.toNat <;> simp [same]
  case low =>
    intro t
    rw [← dword_high, BitVec.ofNat_toNat]
    exact (State.core_of_ready ready _ : execTime c sb false s = _)
  case high => exact (State.core_of_ready ready _ : execTime c sb true s = _)

end Sys2Proof
end

section
/-! SUPPORT. Queue ports: reads of the ingest windows, what a QWR pushes, and what QDROP discards (R319 to R327). -/

namespace Sys2Proof.Machine

variable {s : State} {site : SiteNo} {h : BitVec 6} {sa sb : BitVec 4}

/-- A delivery without poison leaves the sticky bit as it was. -/
theorem Cluster.setQstat_clean (k : Cluster) (ended trunc : Bool) :
    k.setQstat ended trunc false = { k with qstat := BitVec.ofNat 3 (b2n ended + 2 * b2n trunc) } := by
  rw [Cluster.setQstat, Bool.or_false]
  rfl

-- Deliveries (R321)

section
variable {i off : Nat} {d : List Byte} {ended trunc poison : Bool} {k : State → Res}

theorem deliverRead_of_empty (empty : d = []) : s.deliverRead i h off d ended trunc poison k
    = k (s.setCl i ((s.cl i).setQstat ended trunc poison)) := if_pos (List.isEmpty_iff.2 empty)

theorem deliverRead_of_bytes (bytes : d ≠ []) : s.deliverRead i h off d ended trunc poison k
    = s.handleWrite i h off d fun x => k (x.setCl i ((x.cl i).setQstat ended trunc poison)) :=
  if_neg (mt List.isEmpty_iff.1 bytes)

/-- A read that reports and delivers nothing completes with its QSTAT. -/
theorem deliverRead_nil_fin (ready : s.coreReady site = true) (ended trunc : Bool) :
    (s.deliverRead site h off [] ended trunc false fun x => x.fin site (x.cl site))
      = .next (s.setCl site { s.cl site with qstat := BitVec.ofNat 3 (b2n ended + 2 * b2n trunc) }.advance) := by
  rw [deliverRead_of_empty rfl, Cluster.setQstat_clean]
  exact State.fin_setCl_running s site (State.running_of_ready ready)

end

-- QRD of a queue that is no slab queue (R322, R370)

section
variable {q : BitVec 16} (ready : s.coreReady site = true) (bound : (s.cl site).rdQueue = some q) (noSlab : slabQueue q.toNat = none)

include ready bound noSlab

theorem qrd_of_noReader (noReader : 0x10 ≤ q.toNat) :
    exec (.qrd site h sa sb) s = .next (s.setCl site { s.cl site with qstat := 3 }.advance) := by
  have issued : exec (.qrd site h sa sb) s = _ := (State.core_of_ready ready _ : execQrd site h sa sb s = _)
  simp only [bound, noSlab, if_pos noReader] at issued
  exact issued.trans (deliverRead_nil_fin ready true true)

theorem qrd_of_noWindow (ingest : q.toNat < 0x10) (noWindow : ∀ st, s.jobs.step = some st → st.window = none) :
    exec (.qrd site h sa sb) s = .next (s.setCl site { s.cl site with qstat := 1 }.advance) := by
  have issued : exec (.qrd site h sa sb) s = _ := (State.core_of_ready ready _ : execQrd site h sa sb s = _)
  simp only [bound, noSlab, if_neg (Nat.not_le.2 ingest)] at issued
  cases step : s.jobs.step with
  | none =>
    simp only [step] at issued
    exact issued.trans (deliverRead_nil_fin ready true false)
  | some st =>
    simp only [step, noWindow st step] at issued
    exact issued.trans (deliverRead_nil_fin ready true false)

theorem qrd_of_window (ingest : q.toNat < 0x10) {st : StepSt} {win : Word} (step : s.jobs.step = some st) (window : st.window = some win)
    (first : st.reexec = false) : exec (.qrd site h sa sb) s
      = s.readWindow site h ((s.cl site).s sa).toNat ((s.cl site).s sb).toNat q.toNat win := by
  have issued : exec (.qrd site h sa sb) s = _ := (State.core_of_ready ready _ : execQrd site h sa sb s = _)
  simp only [issued, bound, noSlab, if_neg (Nat.not_le.2 ingest), step, window, first, Bool.false_eq_true, if_false]

end

-- Windows (R322, R325, R327)

section
variable {off n q : Nat} {win : Word} {w : WinSt}

/-- What a read of a window that gives no more bytes leaves: QSTAT with END, and the window ended for the step. -/
def State.windowOver (s : State) (site : SiteNo) (trunc : Bool) : State :=
  let x := s.setCl site ((s.cl site).setQstat true trunc false)
  x.setCl site { x.cl site with rdEnded := true }.advance

theorem readWindow_of_noWin (noWin : (s.strm.wins.find? fun w => w.num == win) = none) :
    s.readWindow site h off n q win = .next (s.windowOver site true) := by
  simp only [State.readWindow, noWin]
  rfl

section
variable (found : (s.strm.wins.find? fun w => w.num == win) = some w)

include found

theorem readWindow_of_cut (cut : q ∈ w.cut) : s.readWindow site h off n q win = .next (s.windowOver site true) := by
  simp only [State.readWindow, found, List.contains_iff_mem, if_pos cut]
  rfl

theorem readWindow_of_ended (whole : q ∉ w.cut) (ended : (s.cl site).rdEnded = true) :
    s.readWindow site h off n q win = .next (s.windowOver site false) := by
  simp only [State.readWindow, found, List.contains_iff_mem, if_neg whole, if_pos ended]
  rfl

/-- What follows the delivery of `d` bytes of a window: they are counted and added to the region's record, and the read steps. -/
def State.windowDelivered (s : State) (site : SiteNo) (w : WinSt) (d : List Byte) (done poison : Bool) : Res :=
  let s := s.setCl site { s.cl site with rdPos := (s.cl site).rdPos + d.length, rdEnded := done }
  match s.heldAppend site w d (b2n done + 4 * b2n poison) with
  | .ok s => s.fin site (s.cl site)
  | .error (.held s) => .next (s.stallCore site .heldAccess)
  | .error (.undef u) => undef u

theorem readWindow_of_more (whole : q ∉ w.cut) (more : (s.cl site).rdEnded = false) :
    let k := s.cl site
    let pkt := ((w.packets.find? fun p => p.1 == q).map (·.2)).getD (s.emptyPacket q w)
    let d := (pkt.drop k.rdPos).take n
    let done := decide (pkt.length ≤ k.rdPos + d.length)
    let r := s.poolRead 0 q (badIn ((w.bad.filter fun b => b.1 == q).map (·.2)) k.rdPos d.length)
    s.readWindow site h off n q win = r.1.deliverRead site h off d done false r.2 fun x => x.windowDelivered site w d done r.2 := by
  simp only [State.readWindow, found, List.contains_iff_mem, if_neg whole, more, Bool.false_eq_true, if_false]
  rfl

end

theorem windowDelivered_of_recorded {d : List Byte} {done poison : Bool} {u : State}
    (recorded : (s.setCl site { s.cl site with rdPos := (s.cl site).rdPos + d.length, rdEnded := done }).heldAppend site w d
      (b2n done + 4 * b2n poison) = .ok u) : s.windowDelivered site w d done poison = u.fin site (u.cl site) := by
  simp only [State.windowDelivered, recorded]

end

-- QDROP (R324)

section
variable {q : BitVec 16} (ready : s.coreReady site = true) (bound : (s.cl site).rdQueue = some q)

include ready bound

theorem qdrop_of_noSlab (noSlab : slabQueue q.toNat = none) : exec (.qdrop site) s
    = .next (s.setCl site (if q.toNat < 0x10 then { s.cl site with rdEnded := true } else s.cl site).advance) := by
  have issued : exec (.qdrop site) s = _ := (State.core_of_ready ready _ : execQdrop site s = _)
  simp only [issued, bound, noSlab]
  rfl

variable {slab j : Nat} (ofSlab : slabQueue q.toNat = some (slab, j))

include ofSlab

theorem qdrop_of_noneBegun
    (noneBegun : (s.strm.packets.zipIdx.find? fun p => p.1.queue == q.toNat && p.1.reader == some site.val) = none) :
    exec (.qdrop site) s = .next (s.setCl site (s.cl site).advance) := by
  have issued : exec (.qdrop site) s = _ := (State.core_of_ready ready _ : execQdrop site s = _)
  simp only [issued, bound, ofSlab, noneBegun]
  rfl

theorem qdrop_of_begun {p : QPkt} {i : Nat}
    (begun : (s.strm.packets.zipIdx.find? fun p => p.1.queue == q.toNat && p.1.reader == some site.val) = some (p, i)) :
    let x := ((s.setPackets (s.strm.packets.eraseIdx i)).cutProducers [p]).wakeWriters slab
    exec (.qdrop site) s = .next (x.setCl site (x.cl site).advance) := by
  have issued : exec (.qdrop site) s = _ := (State.core_of_ready ready _ : execQdrop site s = _)
  simp only [issued, bound, ofSlab, begun]
  rfl

end

end Sys2Proof.Machine
end

section
/-! CLAIM. The queue ports. -/

namespace Sys2Proof

open Machine

/-- Settles O35, instruction by instruction and queue kind by queue kind. -/
theorem queuePortInstructions : Obligations.QueuePortInstructions := by
  intro s c h sa sb last ready
  have qbind (w : Bool) : exec (.qbind c sa w) s = _ := (State.core_of_ready ready _ : execQbind c sa w s = _)
  simp only [Bool.not_eq_true'] at qbind
  have qrd : exec (.qrd c h sa sb) s = _ := (State.core_of_ready ready _ : execQrd c h sa sb s = _)
  have qwr : exec (.qwr c h sa sb last) s = _ := (State.core_of_ready ready _ : execQwr c h sa sb last s = _)
  have qdrop : exec (.qdrop c) s = _ := (State.core_of_ready ready _ : execQdrop c s = _)
  have qcnt : exec (.qcnt c sb) s = _ := (State.core_of_ready ready _ : execQcnt c sb s = _)
  refine ⟨fun good => ⟨?bindWrite, ?bindRead⟩, fun bad w => ?badQueue, fun unbound => ?unboundRead, fun unbound => ?unboundWrite,
    ?slab, ?window, ?write, fun rq bound noSlab ingest => ?dropWindow, fun rq bound noSlab beyond => ?dropNothing,
    fun rq slab j bound ofSlab => ?dropPacket,
    fun rq bound noSlab => ⟨qrd_of_noReader ready bound noSlab, qrd_of_noWindow ready bound noSlab⟩, fun rq bound => ?count⟩
  case bindWrite => exact (qbind true).trans (if_neg (ne_false_of_eq_true good))
  case bindRead => exact (qbind false).trans (if_neg (ne_false_of_eq_true good))
  case badQueue => exact (qbind w).trans (if_pos bad)
  case unboundRead =>
    simp only [unbound] at qrd qdrop qcnt
    intro i listed
    simp only [List.mem_cons, List.not_mem_nil, or_false] at listed
    rcases listed with rfl | rfl | rfl
    · exact qrd
    · exact qdrop
    · exact qcnt
  case unboundWrite =>
    simp only [unbound] at qwr
    exact qwr
  case slab =>
    intro rq slab j bound ofSlab
    have read := qrd_of_slab (h := h) (sa := sa) (sb := sb) ready bound ofSlab
    refine ⟨fun noPacket => read.trans (readSlab_of_none noPacket), fun p i current => ?packet⟩
    have given := read.trans (readSlab_of_packet current)
    refine ⟨fun empty => ?nothing, fun t a s' ok bytes place write => ⟨fun made => ?delivered, fun held => ?held⟩⟩
    case nothing =>
      have given := given.trans (if_pos empty)
      exact ⟨fun full => given.trans (if_pos full), fun rest => given.trans (if_neg rest)⟩
    case delivered =>
      subst made
      have given := (given.trans (if_neg bytes)).trans (State.handleWrite_of_written place write)
      exact ⟨fun full => given.trans (if_pos full), fun rest => given.trans (if_neg rest)⟩
    case held =>
      subst held
      exact (given.trans (if_neg bytes)).trans (State.handleWrite_of_held place write)
  case window =>
    intro rq st win bound noSlab ingest step window first
    have read := qrd_of_window (h := h) (sa := sa) (sb := sb) ready bound noSlab ingest step window first
    refine ⟨fun noWin => read.trans (readWindow_of_noWin noWin), fun w found => ⟨fun cut => read.trans (readWindow_of_cut found cut),
      fun whole ended => read.trans (readWindow_of_ended found whole ended), fun whole more => ?more⟩⟩
    have given := read.trans (readWindow_of_more found whole more)
    refine ⟨fun empty u recorded => ?nothing, fun t a s' bytes place write u recorded => ?delivered⟩
    case nothing =>
      have given := given.trans (deliverRead_of_empty empty)
      exact given.trans (windowDelivered_of_recorded recorded)
    case delivered =>
      have given := (given.trans (deliverRead_of_bytes bytes)).trans (State.handleWrite_of_written place write)
      exact given.trans (windowDelivered_of_recorded recorded)
  case write =>
    intro wq t a s' d bound place read
    have given := (qwr_of_bound (h := h) (sa := sa) (sb := sb) (last := last) ready bound).trans (State.handleRead_of_delivered place read)
    refine ⟨fun dropped => given.trans (if_pos dropped), fun slab j kept ofSlab => ?pushed, fun kept noSlab low high => ?staged,
      fun kept noSlab other => ?taken⟩
    case pushed =>
      have pushed := given.trans (if_neg kept)
      rw [ofSlab] at pushed
      exact ⟨fun fits => pushed.trans (if_pos fits), fun excess => pushed.trans (if_neg (Nat.not_le.2 excess))⟩
    case staged =>
      have staged := given.trans (if_neg kept)
      rw [noSlab] at staged
      exact staged.trans (if_pos ⟨low, high⟩)
    case taken =>
      have taken := given.trans (if_neg kept)
      rw [noSlab] at taken
      exact taken.trans (if_neg (by omega))
  case dropWindow =>
    have dropped := qdrop_of_noSlab ready bound noSlab
    rwa [if_pos ingest] at dropped
  case dropNothing =>
    have dropped := qdrop_of_noSlab ready bound noSlab
    rwa [if_neg (Nat.not_lt.2 beyond)] at dropped
  case dropPacket =>
    split
    · next noneBegun => exact qdrop_of_noneBegun ready bound ofSlab noneBegun
    · next p i begun => exact qdrop_of_begun ready bound ofSlab begun
  case count =>
    simp only [bound] at qcnt
    exact qcnt

end Sys2Proof
end

section
/-! CLAIM. Every step keeps the canonical form. -/

namespace Sys2Proof.Machine

variable {s t : State}

/-- The canonical form does not rest on which commands wait. -/
theorem Canon.withPending (h : Canon s) (l : List Instr) : Canon { s with pending := l } := { h with }

/-- A step is a command, or a reference count, and the frame of either keeps the canonical form (R431). -/
theorem step_keeps_canon (canon : Canon s) (h : step s = .next t) : Canon t := by
  unfold step at h
  split at h
  case h_1 =>
    injection h with counted
    exact counted ▸ (State.passCount_frame s).canon canon
  case h_2 c rest _ => exact ((exec_frame c _).of_eq h).canon (canon.withPending rest)

end Sys2Proof.Machine

namespace Sys2Proof

open Machine

/-- Settles O4: the frame of whatever the step runs keeps the canonical form. -/
theorem stepKeepsCanonicalForm : Obligations.StepKeepsCanonicalForm :=
  fun _ _ canon h => canon_iff.2 (step_keeps_canon (canon_iff.1 canon) h)

end Sys2Proof
end

section
/-! SUPPORT. A larder's bytes and bank groups: what an access touches, reads, and wakes. -/

namespace Sys2Proof.Machine

variable {s t : State} {site addr n : Nat}

-- What an access touches

theorem mem_groupsOf {g : Nat} :
    g ∈ groupsOf addr n ↔ g < 4 ∧ n ≠ 0 ∧ addr / 2 ^ 20 ≤ g ∧ g ≤ (addr + n - 1) / 2 ^ 20 := by
  simp [groupsOf, and_assoc]

theorem lt_four_of_mem_groupsOf {g : Nat} (h : g ∈ groupsOf addr n) : g < 4 := (mem_groupsOf.1 h).1

/-- The groups of a part of a range are groups of the range. -/
theorem mem_groupsOf_of_part {addr' n' g : Nat} (part : n' ≠ 0 → addr ≤ addr' ∧ addr' + n' ≤ addr + n) (h : g ∈ groupsOf addr' n') :
    g ∈ groupsOf addr n := by
  obtain ⟨four, nonempty, low, high⟩ := mem_groupsOf.1 h
  obtain ⟨first, last⟩ := part nonempty
  refine mem_groupsOf.2 ⟨four, by omega, Nat.le_trans (Nat.div_le_div_right first) low, Nat.le_trans high ?_⟩
  exact Nat.div_le_div_right (by omega)

theorem mem_edgeWords {w : Nat} (h : w ∈ edgeWords addr n) : n ≠ 0 ∧ addr / 8 ≤ w ∧ w ≤ (addr + n - 1) / 8 := by
  simp only [edgeWords] at h
  split at h <;> split at h <;> simp at h <;> omega

-- On what reads of registers and bytes rest

theorem State.reg_of_regs (h : t.regs = s.regs) (a : Nat) : t.reg a = s.reg a := by rw [State.reg, State.reg, h]

theorem State.groupIsOn_of_regs (h : t.regs = s.regs) (g : Nat) : t.groupIsOn site g = s.groupIsOn site g := by
  rw [State.groupIsOn, State.groupIsOn, State.reg_of_regs h]

theorem State.larByte_of_larder (h : t.larder = s.larder) (a : Nat) : t.larByte site a = s.larByte site a := by
  rw [State.larByte, State.larByte, h]

@[simp] theorem State.contend_larder : (s.contend site addr n).larder = s.larder := rfl
@[simp] theorem State.contend_larErr : (s.contend site addr n).larErr = s.larErr := rfl
@[simp] theorem State.contend_regs : (s.contend site addr n).regs = s.regs := rfl
@[simp] theorem State.contend_larByte (i a : Nat) : (s.contend site addr n).larByte i a = s.larByte i a := rfl
@[simp] theorem State.contend_larErrs (i a m : Nat) : (s.contend site addr n).larErrs i a m = s.larErrs i a m := rfl

/-- An access to groups that are on wakes none (R137). -/
theorem State.wakeGroups_of_on (on : ∀ g ∈ groupsOf addr n, s.groupIsOn site g = true) : s.wakeGroups site addr n = s :=
  foldl_inv (· = s) _ (fun t g hg same => by subst same; exact if_pos (on g hg)) rfl

end Sys2Proof.Machine
end

section
/-! CLAIM. Reads of a larder: without a stored error, with one that is corrected, with one that is not. -/

namespace Sys2Proof.Machine

variable {s : State} {site addr n w : Nat} {p : BitVec 72}

-- What a check of a range finds

theorem larDecode_of_single (single : ones 72 p = 1) : larDecode p = some (0, true) := by simp only [larDecode, single]

theorem larDecode_of_double (double : ones 72 p = 2) : larDecode p = none := by simp only [larDecode, double]

theorem State.larCheck_of_clean (clean : s.larErrs site addr n = []) (scrub : Bool) : s.larCheck site addr n scrub = (s, some []) := by
  rw [State.larCheck, clean]; rfl

theorem State.larCheck_of_single (one : s.larErrs site addr n = [(w, p)]) (single : ones 72 p = 1) (scrub : Bool) :
    s.larCheck site addr n scrub = (s.larCorrected site w 0 scrub, some [(w, 0)]) := by
  rw [State.larCheck, one, List.foldl_cons, List.foldl_nil, larDecode_of_single single]; rfl

theorem State.larCheck_of_double (one : s.larErrs site addr n = [(w, p)]) (double : ones 72 p = 2) (scrub : Bool) :
    s.larCheck site addr n scrub = (s.larUncorrectable site w scrub, none) := by
  rw [State.larCheck, one, List.foldl_cons, List.foldl_nil, larDecode_of_double double]

/-- A word that is delivered as it was written has no wrong byte. -/
theorem wrongByte_corrected (w a : Nat) : wrongByte [(w, 0)] a = 0#8 := by
  unfold wrongByte
  split
  · next e found =>
    obtain rfl : e = (w, 0) := List.mem_singleton.1 (List.mem_of_find?_eq_some found)
    simp
  · rfl

-- What a read of powered groups makes of the check

section
variable (on : ∀ g ∈ groupsOf addr n, s.groupIsOn site g = true)
include on

theorem State.larRead_of_clean (clean : s.larErrs site addr n = []) :
    s.larRead site addr n = (s.contend site addr n, some ((List.range n).map fun i => s.larByte site (addr + i))) := by
  rw [State.larRead, State.wakeGroups_of_on on, State.larCheck_of_clean (s := s.contend site addr n) clean]
  simp [wrongByte]

theorem State.larRead_of_single (one : s.larErrs site addr n = [(w, p)]) (single : ones 72 p = 1) :
    s.larRead site addr n = ((s.contend site addr n).larCorrected site w 0 false,
      some ((List.range n).map fun i => s.larByte site (addr + i))) := by
  rw [State.larRead, State.wakeGroups_of_on on, State.larCheck_of_single (s := s.contend site addr n) one single]
  simp only [Option.map_some, State.contend_larByte, wrongByte_corrected, BitVec.xor_zero]

theorem State.larRead_of_double (one : s.larErrs site addr n = [(w, p)]) (double : ones 72 p = 2) :
    s.larRead site addr n = ((s.contend site addr n).larUncorrectable site w false, none) := by
  rw [State.larRead, State.wakeGroups_of_on on, State.larCheck_of_double (s := s.contend site addr n) one double]
  rfl

end

-- What the counters and the queue of write-backs show

/-- Counting into the low half of a counter register, with the scrub flag and another register written after it. -/
theorem State.regF_counted (tables : Tab.wf none s.regs = true) {a b f : Nat} {v : Word} (other : a ≠ b) :
    (((s.count a 0 16 1).setRegF a 16 1 f).setReg b v).regF a 0 16 = min 65535 (s.regF a 0 16 + 1) := by
  have counted : Tab.wf none (s.count a 0 16 1).regs = true := wf_setRegF tables ..
  have flagged : Tab.wf none ((s.count a 0 16 1).setRegF a 16 1 f).regs = true := wf_setRegF counted ..
  have kept : (((s.count a 0 16 1).setRegF a 16 1 f).setReg b v).regF a 0 16 = (s.count a 0 16 1).regF a 0 16 := by
    rw [State.regF, reg_setReg flagged, if_neg other]
    exact regF_setRegF_other counted (.inr (.inl (Nat.le_refl 16)))
  rw [kept, State.count, regF_setRegF_same tables a (by omega), satAdd]
  omega

theorem State.larCorrected_count (tables : Tab.wf none s.regs = true) (x : BitVec 64) (scrub : Bool) :
    (s.larCorrected site w x scrub).regF (Reg.RGN_LARCE site) 0 16 = min 65535 (s.regF (Reg.RGN_LARCE site) 0 16 + 1) :=
  State.regF_counted (b := Reg.RGN_LARCEADDR site) tables (by simp only [Reg.RGN_LARCE, Reg.RGN_LARCEADDR]; omega)

theorem State.larCorrected_addr (tables : Tab.wf none s.regs = true) (x : BitVec 64) (scrub : Bool) :
    (s.larCorrected site w x scrub).reg (Reg.RGN_LARCEADDR site) = BitVec.ofNat 32 (8 * w) := by
  have written : Tab.wf none ((s.count (Reg.RGN_LARCE site) 0 16 1).setRegF (Reg.RGN_LARCE site) 16 1 (b2n scrub)).regs = true :=
    wf_setRegF (wf_setRegF tables ..) ..
  rw [Nat.mul_comm]
  exact (reg_setReg written _ _ _).trans (if_pos rfl)

theorem State.larCorrected_clusters (x : BitVec 64) (scrub : Bool) :
    (s.larCorrected site w x scrub).clusters = Tab.set {} s.clusters site { s.cl site with
      writeBack := ((s.cl site).writeBack.filter fun e => e.1 != w) ++ [(w, x)] } := rfl

theorem State.larUncorrectable_count (tables : Tab.wf none s.regs = true) (scrub : Bool) :
    (s.larUncorrectable site w scrub).regF (Reg.RGN_LARUE site) 0 16 = min 65535 (s.regF (Reg.RGN_LARUE site) 0 16 + 1) :=
  State.regF_counted (b := Reg.RGN_LARUEADDR site) tables (by simp only [Reg.RGN_LARUE, Reg.RGN_LARUEADDR]; omega)

end Sys2Proof.Machine

namespace Sys2Proof

open Machine

/-- Settles O19: the check of the range is one correction. -/
theorem correctedLarderRead : Obligations.CorrectedLarderRead := by
  intro s site addr n w p canon _ on one single
  have tables : Tab.wf none (s.contend site addr n).regs = true := (canon_iff.1 canon).regs
  refine ⟨_, State.larRead_of_single on one single, ?count, ?address, ?queued, rfl, ?bytes⟩
  case count => exact State.larCorrected_count tables 0 false
  case address => exact State.larCorrected_addr tables 0 false
  case queued => exact State.larCorrected_clusters 0 false
  case bytes => exact ⟨fun _ _ => rfl, fun _ _ => rfl⟩

/-- Settles O20: without a stored error the check finds nothing, and with two bad bits it ends the read. -/
theorem larderReadsDeliverOrHold : Obligations.LarderReadsDeliverOrHold := by
  intro s site addr n canon on
  have tables : Tab.wf none (s.contend site addr n).regs = true := (canon_iff.1 canon).regs
  refine ⟨fun clean => ⟨_, State.larRead_of_clean on clean, rfl⟩, fun w p one double => ?_⟩
  refine ⟨_, State.larRead_of_double on one double, rfl, State.larUncorrectable_count tables false, ?_⟩
  exact ⟨fun _ _ => rfl, fun _ _ => rfl⟩

end Sys2Proof
end

section
/-! CLAIM. The bank groups that an access powers on, and what they then read. -/

namespace Sys2Proof.Machine

variable {s t u : State} {site addr n g : Nat} {l m : List Nat}

-- One group

theorem tst_setFld_one {w : Word} {lo : Nat} (inWord : lo < 32) (i : Nat) : tst (setFld w lo 1 1) i = (tst w i || decide (i = lo)) := by
  rw [tst_setFld]
  by_cases here : i = lo
  · subst here; simp [inWord]
  · rw [if_neg (by omega)]; simp [here]

theorem State.dropWriteBack_regs (s : State) (lo hi : Nat) : (s.dropWriteBack site lo hi).regs = s.regs :=
  (State.dropWriteBack_frame s site lo hi).part .regs (by decide)

theorem State.dropWriteBack_larder (s : State) (lo hi : Nat) : (s.dropWriteBack site lo hi).larder = s.larder :=
  (State.dropWriteBack_frame s site lo hi).part .larder (by decide)

theorem State.groupOn_larder (s : State) (site g : Nat) : (s.groupOn site g).larder
    = Tab.clear (site * larSpan + g * 2 ^ 20) (site * larSpan + g * 2 ^ 20 + 2 ^ 20) s.larder :=
  congrArg (Tab.clear _ _) (State.dropWriteBack_larder s _ _)

theorem State.groupOn_reg (tables : Tab.wf none s.regs = true) : (s.groupOn site g).reg (Reg.RGN_LARPWR site)
    = setFld (setFld (s.reg (Reg.RGN_LARPWR site)) g 1 1) (4 + g) 1 1 := by
  have dropped := State.dropWriteBack_regs (site := site) s (g * 4096) (g * 4096 + 4096)
  have tables' : Tab.wf none (s.dropWriteBack site (g * 4096) (g * 4096 + 4096)).regs = true := dropped ▸ tables
  refine (reg_setRegF (wf_setRegF tables' ..) ..).trans ?_
  rw [if_pos rfl, reg_setRegF tables', if_pos rfl, State.reg_of_regs dropped]

/-- What an access does to a group that it touches (R137): `State.wakeGroups` does it group by group. -/
def State.wakeGroup (s : State) (site g : Nat) : State :=
  if s.groupIsOn site g then s else (s.groupOn site g).setRegF (Reg.RGN_LARPWR site) (12 + g) 1 1

theorem State.wakeGroups_eq (s : State) (site addr n : Nat) :
    s.wakeGroups site addr n = (groupsOf addr n).foldl (fun s g => s.wakeGroup site g) s := rfl

theorem State.wakeGroup_frame (s : State) (site g : Nat) : Frame [.regs, .larder, .larErr, .clusters] s (s.wakeGroup site g) :=
  .ite (fun _ => .refl s) fun _ => .andThen (State.groupOn_frame s site g) (State.setRegF_frame ..)

/-- From s to t the groups of a list are woken: those that were off are on, zeroed and marked WOKE, and nothing else of the group
bits or the bytes has changed. -/
structure Woken (site : Nat) (l : List Nat) (s t : State) : Prop where
  on : ∀ g < 4, t.groupIsOn site g = (s.groupIsOn site g || decide (g ∈ l))
  woke : ∀ g < 4, tst (t.reg (Reg.RGN_LARPWR site)) (12 + g)
    = (tst (s.reg (Reg.RGN_LARPWR site)) (12 + g) || (!s.groupIsOn site g && decide (g ∈ l)))
  byte : ∀ i a, a < larSpan → t.larByte i a
    = if i = site ∧ a / 2 ^ 20 ∈ l ∧ s.groupIsOn site (a / 2 ^ 20) = false then 0 else s.larByte i a

theorem Woken.refl (s : State) : Woken site [] s s := ⟨by simp, by simp, by simp⟩

theorem Woken.trans (h : Woken site l s t) (h' : Woken site m t u) : Woken site (l ++ m) s u where
  on g four := by simp [h'.on g four, h.on g four, Bool.or_assoc]
  woke g four := by
    rw [h'.woke g four, h.woke g four, h.on g four]
    by_cases first : g ∈ l <;> simp [first]
  byte i a inside := by
    have four : a / 2 ^ 20 < 4 := by simp only [larSpan] at inside; omega
    rw [h'.byte i a inside, h.byte i a inside, h.on _ four]
    generalize a / 2 ^ 20 = g
    by_cases first : g ∈ l
    · by_cases off : s.groupIsOn site g = false <;> simp [first, off]
    · simp [first]

/-- A group that is off is powered on with zeroed contents, and WOKE is set (R136, R137). -/
theorem State.wakeGroup_woken (canon : Canon s) (four : g < 4) : Woken site [g] s (s.wakeGroup site g) := by
  unfold State.wakeGroup
  split
  case isTrue isOn =>
    refine ⟨fun j _ => ?_, fun j _ => ?_, fun i a _ => (if_neg ?_).symm⟩
    · by_cases same : j = g <;> simp [same, isOn]
    · by_cases same : j = g <;> simp [same, isOn]
    · rintro ⟨_, same, off⟩
      rw [List.mem_singleton.1 same, isOn] at off
      cases off
  case isFalse isOff =>
    have off : s.groupIsOn site g = false := by simpa using isOff
    have tables := ((State.groupOn_frame s site g).canon canon).regs
    have bits (i : Nat) : tst (((s.groupOn site g).setRegF (Reg.RGN_LARPWR site) (12 + g) 1 1).reg (Reg.RGN_LARPWR site)) i
        = (tst (s.reg (Reg.RGN_LARPWR site)) i || decide (i = g) || decide (i = 4 + g) || decide (i = 12 + g)) := by
      rw [reg_setRegF tables, if_pos rfl, State.groupOn_reg canon.regs, tst_setFld_one (by omega), tst_setFld_one (by omega),
        tst_setFld_one (by omega)]
    refine ⟨fun j fourj => ?on, fun j fourj => ?woke, fun i a inside => ?byte⟩
    case on =>
      have apart : j ≠ 4 + g ∧ j ≠ 12 + g := by omega
      rw [State.groupIsOn, bits]
      simp [apart, State.groupIsOn]
    case woke =>
      have apart : 12 + j ≠ g ∧ 12 + j ≠ 4 + g := by omega
      rw [bits]
      by_cases same : j = g <;> simp [same, off, apart]
    case byte =>
      rw [State.larByte, State.setRegF_larder, State.groupOn_larder, Tab.get_clear canon.larder]
      have place : (site * larSpan + g * 2 ^ 20 ≤ i * larSpan + a ∧ i * larSpan + a < site * larSpan + g * 2 ^ 20 + 2 ^ 20)
          ↔ i = site ∧ a / 2 ^ 20 = g := by simp only [larSpan] at inside ⊢; omega
      by_cases here : i = site ∧ a / 2 ^ 20 = g
      · rw [if_pos (place.2 here), if_pos ⟨here.1, List.mem_singleton.2 here.2, here.2 ▸ off⟩]
      · rw [if_neg (mt place.1 here), if_neg fun h => here ⟨h.1, List.mem_singleton.1 h.2.1⟩]
        rfl

-- All groups of an access

theorem State.foldl_wakeGroup_woken (canon : Canon s) (four : ∀ g ∈ l, g < 4) :
    Woken site l s (l.foldl (fun s g => s.wakeGroup site g) s) := by
  induction l generalizing s with
  | nil => exact .refl s
  | cons g l ih =>
    have rest := ih ((State.wakeGroup_frame s site g).canon canon) fun j hj => four j (List.mem_cons_of_mem g hj)
    exact (State.wakeGroup_woken canon (four g List.mem_cons_self)).trans rest

theorem State.wakeGroups_woken (canon : Canon s) (site addr n : Nat) : Woken site (groupsOf addr n) s (s.wakeGroups site addr n) :=
  State.wakeGroups_eq s site addr n ▸ State.foldl_wakeGroup_woken canon fun _ => lt_four_of_mem_groupsOf

end Sys2Proof.Machine

namespace Sys2Proof

open Machine

/-- Settles O21: the groups of the access are woken one after the other, and no group but those. -/
theorem groupsWakeOnAccess : Obligations.GroupsWakeOnAccess := by
  intro s site addr n canon _ t
  have woken : Woken site (groupsOf addr n) s t := State.wakeGroups_woken (canon_iff.1 canon) site addr n
  have framed : Frame _ s t := State.wakeGroups_frame s site addr n
  refine ⟨?on, ?wokeAndZeroed, ?kept, ?otherSite, ?cellar⟩
  case on => exact fun g touched => by simp [woken.on g (lt_four_of_mem_groupsOf touched), touched]
  case wokeAndZeroed =>
    intro g touched off
    have four := lt_four_of_mem_groupsOf touched
    refine ⟨by rw [woken.woke g four, off]; simp [touched], fun a inGroup => ?_⟩
    subst inGroup
    exact (woken.byte site a (by simp only [larSpan]; omega)).trans (if_pos ⟨rfl, touched, off⟩)
  case kept =>
    intro a inside untouched
    refine (woken.byte site a inside).trans (if_neg ?_)
    rintro ⟨_, touched, off⟩
    rcases untouched with out | isOn
    · exact out touched
    · rw [off] at isOn; cases isOn
  case otherSite => exact fun i a other inside => (woken.byte i a inside).trans (if_neg fun h => other h.1)
  case cellar =>
    have cellar : t.cellar = s.cellar := framed.part .cellar (by decide)
    exact fun r a => by rw [State.celByte, State.celByte, cellar]

end Sys2Proof
end

section
/-! CLAIM. Writes of a larder to powered groups and words without a stored error. -/

namespace Sys2Proof.Machine

variable {s t u : State} {site addr n : Nat} {d : List Byte}

-- Words without a stored error

theorem State.larErrs_eq_nil_iff (nonempty : n ≠ 0) : s.larErrs site addr n = [] ↔
    ∀ e ∈ s.larErr, ¬ (site * larWords + addr / 8 ≤ e.1 ∧ e.1 ≤ site * larWords + (addr + n - 1) / 8) := by
  rw [State.larErrs, if_neg nonempty, List.filterMap_eq_nil_iff]
  simp

/-- A range whose words are among those of a clean range is clean, also when fewer errors are stored. -/
theorem State.larErrs_nil_of_words {addr' n' : Nat} (clean : s.larErrs site addr n = []) (fewer : ∀ e ∈ t.larErr, e ∈ s.larErr)
    (words : n' ≠ 0 → n ≠ 0 ∧ addr / 8 ≤ addr' / 8 ∧ (addr' + n' - 1) / 8 ≤ (addr + n - 1) / 8) : t.larErrs site addr' n' = [] := by
  by_cases nonempty : n' = 0
  · exact if_pos nonempty
  · obtain ⟨nonempty', first, last⟩ := words nonempty
    refine (State.larErrs_eq_nil_iff nonempty).2 fun e stored h => ?_
    exact (State.larErrs_eq_nil_iff nonempty').1 clean e (fewer e stored) (by omega)

theorem State.larEdges_of_clean {ws : List Nat} (clean : ∀ w ∈ ws, s.larErrs site (w * 8) 8 = []) :
    s.larEdges site ws = (s, some []) := by
  refine foldl_inv (· = (s, some [])) _ (fun a w hw same => ?_) rfl
  subst same
  simp only [State.larCheck_of_clean (clean w hw), Option.bind_some, Option.map_some, List.append_nil]

-- One write of bytes as they are

/-- The bytes of a range read as a list gives them, and every other byte of a larder as before. -/
def Stored (site addr : Nat) (d : List Byte) (s t : State) : Prop :=
  ∀ i a, a < larSpan → t.larByte i a = if i = site ∧ addr ≤ a ∧ a < addr + d.length then d.getD (a - addr) 0 else s.larByte i a

theorem Stored.nil (s : State) : Stored site addr [] s s := fun _ _ _ => (if_neg (by simp only [List.length_nil]; omega)).symm

/-- The first bytes of a list stored, then those that follow. -/
theorem Stored.append {k : Nat} (h : Stored site addr (d.take k) s t) (h' : Stored site (addr + k) (d.drop k) t u) :
    Stored site addr d s u := by
  intro i a inside
  rw [h' i a inside, h i a inside, List.length_take, List.length_drop]
  by_cases here : i = site ∧ addr ≤ a ∧ a < addr + d.length
  · rw [if_pos here]
    by_cases later : addr + k ≤ a
    · rw [if_pos (by omega), List.getD_eq_getElem?_getD, List.getElem?_drop, show k + (a - (addr + k)) = a - addr by omega,
        List.getD_eq_getElem?_getD]
    · rw [if_neg (by omega), if_pos (by omega), List.getD_eq_getElem?_getD, List.getElem?_take_of_lt (by omega),
        List.getD_eq_getElem?_getD]
  · rw [if_neg here, if_neg (by omega), if_neg (by omega)]

theorem State.larPut_nil (s : State) (site addr : Nat) : s.larPut site addr [] = s := rfl

theorem State.larPut_larder (s : State) (site addr : Nat) (nonempty : d.length ≠ 0) :
    (s.larPut site addr d).larder = Tab.setList 0 s.larder (site * larSpan + addr) d := by
  rw [State.larPut, if_neg nonempty]
  exact congrArg (Tab.setList 0 · _ d) (State.dropWriteBack_larder s _ _)

theorem State.larPut_stored (table : Tab.wf 0 s.larder = true) (within : addr + d.length ≤ larSpan) :
    Stored site addr d s (s.larPut site addr d) := by
  intro i a inside
  by_cases nonempty : d.length = 0
  · obtain rfl : d = [] := List.length_eq_zero_iff.1 nonempty
    exact Stored.nil s i a inside
  · rw [State.larByte, State.larPut_larder s site addr nonempty, Tab.get_setList table]
    have place : (site * larSpan + addr ≤ i * larSpan + a ∧ i * larSpan + a < site * larSpan + addr + d.length)
        ↔ i = site ∧ addr ≤ a ∧ a < addr + d.length := by simp only [larSpan] at inside within ⊢; omega
    by_cases here : i = site ∧ addr ≤ a ∧ a < addr + d.length
    · rw [if_pos (place.2 here), if_pos here, here.1, List.getD_eq_getElem?_getD,
        show site * larSpan + a - (site * larSpan + addr) = a - addr by omega]
    · rw [if_neg (mt place.1 here), if_neg here, State.larByte]

theorem State.larPut_larErr (s : State) (site addr : Nat) (d : List Byte) : ∀ e ∈ (s.larPut site addr d).larErr, e ∈ s.larErr := by
  intro e stored
  by_cases nonempty : d.length = 0
  · rwa [State.larPut, if_pos nonempty] at stored
  · have kept : (s.dropWriteBack site (addr / 256) ((addr + d.length - 1) / 256 + 1)).larErr = s.larErr :=
      (State.dropWriteBack_frame ..).part .larErr (by decide)
    rw [State.larPut, if_neg nonempty] at stored
    simp only [Tab.clear_eq_filter, kept] at stored
    exact (List.mem_filter.1 stored).1

-- Row by row

/-- A range whose groups are on and whose words hold no stored error, in a state in canonical form. -/
structure WriteFree (s : State) (site addr n : Nat) : Prop where
  canon : Canon s
  on : ∀ g ∈ groupsOf addr n, s.groupIsOn site g = true
  clean : s.larErrs site addr n = []

/-- A part of a free range is free, also after a step that turned no group of it off and stored no error. -/
theorem WriteFree.part {addr' n' : Nat} (free : WriteFree s site addr n) (canon : Canon t) (regs : t.regs = s.regs)
    (fewer : ∀ e ∈ t.larErr, e ∈ s.larErr) (part : n' ≠ 0 → addr ≤ addr' ∧ addr' + n' ≤ addr + n) : WriteFree t site addr' n' where
  canon := canon
  on g touched := (State.groupIsOn_of_regs regs g).trans (free.on g (mem_groupsOf_of_part part touched))
  clean := State.larErrs_nil_of_words free.clean fewer fun nonempty => by have := part nonempty; omega

/-- A write within one row to a free range stores its bytes: no word that it covers in part is held or mended (R126). -/
theorem State.larWriteRow_of_free (free : WriteFree s site addr d.length) :
    s.larWriteRow site addr d = ((s.contend site addr d.length).larPut site addr d, true) := by
  have edges : (s.contend site addr d.length).larEdges site (edgeWords addr d.length) = (s.contend site addr d.length, some []) := by
    refine State.larEdges_of_clean fun w edge => State.larErrs_nil_of_words free.clean (fun _ => id) fun _ => ?_
    have := mem_edgeWords edge
    omega
  rw [State.larWriteRow, State.wakeGroups_of_on free.on]
  simp only [edges, List.foldl_nil]

/-- The first bytes written within one row leave the range of the others free. -/
theorem State.larWriteRow_take_of_free (k : Nat) (free : WriteFree s site addr d.length) (within : addr + d.length ≤ larSpan) :
    ∃ t, s.larWriteRow site addr (d.take k) = (t, true) ∧ Stored site addr (d.take k) s t
      ∧ WriteFree t site (addr + k) (d.drop k).length := by
  have length_take : (d.take k).length = min k d.length := List.length_take
  have length_drop : (d.drop k).length = d.length - k := List.length_drop
  have row : WriteFree s site addr (d.take k).length := free.part free.canon rfl (fun _ => id) (by omega)
  have framed : Frame [.larder, .larErr, .conflicts, .clusters, .freeCtr] s
      ((s.contend site addr (d.take k).length).larPut site addr (d.take k)) :=
    .andThen (.widen (State.contend_frame ..)) (State.larPut_frame ..)
  refine ⟨_, State.larWriteRow_of_free row, ?stored, ?rest⟩
  case stored => exact State.larPut_stored (s := s.contend site addr _) free.canon.larder (by omega)
  case rest =>
    exact free.part (framed.canon free.canon) (framed.part .regs (by decide))
      (State.larPut_larErr (s.contend site addr _) site addr _) (by omega)

/-- A write to a free range is made, row after row (R126). -/
theorem State.larWriteRows_of_free {fuel : Nat} (free : WriteFree s site addr d.length) (within : addr + d.length ≤ larSpan)
    (enough : addr % 256 + d.length ≤ 256 * fuel) :
    ∃ t, State.larWriteRows site fuel addr d s = (t, true) ∧ Stored site addr d s t := by
  induction fuel generalizing s addr d with
  | zero =>
    obtain rfl : d = [] := List.length_eq_zero_iff.1 (by omega)
    exact ⟨s, rfl, Stored.nil s⟩
  | succ fuel ih =>
    rw [State.larWriteRows]
    split
    case isTrue empty =>
      obtain rfl : d = [] := List.isEmpty_iff.1 empty
      exact ⟨s, rfl, Stored.nil s⟩
    case isFalse filled =>
      have nonempty : d.length ≠ 0 := mt List.length_eq_zero_iff.1 (mt List.isEmpty_iff.2 filled)
      obtain ⟨t, first, stored, rest⟩ := State.larWriteRow_take_of_free (256 - addr % 256) free within
      simp only [first]
      obtain ⟨u, others, after⟩ := ih rest (by simp only [List.length_drop, larSpan] at within ⊢; omega)
        (by simp only [List.length_drop]; omega)
      exact ⟨u, others, stored.append after⟩

end Sys2Proof.Machine

namespace Sys2Proof

open Machine

/-- Settles O18: the rows of the range are written one after the other, with nothing to mend. -/
theorem larderStoreTouchesItsBytesOnly : Obligations.LarderStoreTouchesItsBytesOnly := by
  intro s site addr d canon within on clean
  have free : WriteFree s site addr d.length := ⟨canon_iff.1 canon, on, State.larErrs_nil_of_words clean (fun _ => id) (by omega)⟩
  obtain ⟨t, written, stored⟩ := State.larWriteRows_of_free (fuel := d.length / 256 + 2) free within (by omega)
  have cellar : t.cellar = s.cellar := ((State.larWriteRows_frame site _ addr d s).of_eq written).part .cellar (by decide)
  rw [State.larWrite, written]
  refine ⟨rfl, ?_⟩
  rintro _ rfl
  exact ⟨fun r a => by rw [State.celByte, State.celByte, cellar], stored⟩

end Sys2Proof
end

section
/-! CLAIM. Upkeep of the larders: scrub visits, write-backs, scrub windows, retention, injection. -/

namespace Sys2Proof.Tab

variable {α : Type} [DecidableEq α] {d : α}

/-- Whatever the form of the table, an entry that is read outlives what is written at the keys above it. -/
theorem get_set_above {t : Tab α} {j k : Nat} (listed : get d t j ≠ d) (above : j < k) (v : α) : get d (set d t k v) j = get d t j := by
  induction t with
  | nil => exact absurd rfl listed
  | cons e t ih =>
    obtain ⟨i, w⟩ := e
    by_cases here : i = j
    · subst here
      simp [set, get, show i ≠ k by omega, show ¬ k < i by omega]
    · by_cases below : j < i
      · exact absurd (by simp [get, here, below]) listed
      · have later : get d t j ≠ d := by simpa [get, here, below] using listed
        simp [set, get, here, below, show i ≠ k by omega, show ¬ k < i by omega, ih later]

end Sys2Proof.Tab

namespace Sys2Proof.Machine

variable {s t : State} {site : Nat} {c : SiteNo} {a b row : Nat}

-- The group bits of a site while its error registers are written, in a state of any form

theorem State.reg_setReg_above (listed : s.reg a ≠ regReset a) (above : a < b) (v : Word) : (s.setReg b v).reg a = s.reg a := by
  have stored : Tab.get none s.regs a ≠ none := fun unlisted => listed (by rw [State.reg, unlisted]; rfl)
  rw [State.reg, State.setReg_regs, Tab.get_set_above stored above]
  rfl

theorem State.reg_counted_above {e v : Nat} {w : Word} (listed : s.reg a ≠ regReset a) (above : a < b) (above' : a < e) :
    (((s.count b 0 16 1).setRegF b 16 1 v).setReg e w).reg a = s.reg a := by
  have counted : (s.count b 0 16 1).reg a = s.reg a := State.reg_setReg_above listed above _
  have flagged : ((s.count b 0 16 1).setRegF b 16 1 v).reg a = s.reg a :=
    (State.reg_setReg_above (by rwa [counted]) above _).trans counted
  exact (State.reg_setReg_above (by rwa [flagged]) above' _).trans flagged

section
variable (listed : s.reg (Reg.RGN_LARPWR site) ≠ regReset (Reg.RGN_LARPWR site))
include listed

theorem State.larCorrected_groups (w : Nat) (x : BitVec 64) (scrub : Bool) :
    (s.larCorrected site w x scrub).reg (Reg.RGN_LARPWR site) = s.reg (Reg.RGN_LARPWR site) :=
  State.reg_counted_above (b := Reg.RGN_LARCE site) (e := Reg.RGN_LARCEADDR site) listed
    (by simp only [Reg.RGN_LARPWR, Reg.RGN_LARCE]; omega) (by simp only [Reg.RGN_LARPWR, Reg.RGN_LARCEADDR]; omega)

theorem State.larUncorrectable_groups (w : Nat) (scrub : Bool) :
    (s.larUncorrectable site w scrub).reg (Reg.RGN_LARPWR site) = s.reg (Reg.RGN_LARPWR site) :=
  State.reg_counted_above (b := Reg.RGN_LARUE site) (e := Reg.RGN_LARUEADDR site) listed
    (by simp only [Reg.RGN_LARPWR, Reg.RGN_LARUE]; omega) (by simp only [Reg.RGN_LARPWR, Reg.RGN_LARUEADDR]; omega)

/-- A check of a row leaves the site's groups as they are. -/
theorem State.scrubCheck_groups (row : Nat) : (s.scrubCheck site row).reg (Reg.RGN_LARPWR site) = s.reg (Reg.RGN_LARPWR site) := by
  unfold State.scrubCheck
  refine foldl_inv (fun t : State => t.reg (Reg.RGN_LARPWR site) = s.reg (Reg.RGN_LARPWR site)) _ (fun t e _ same => ?_) rfl
  have listed' := same ▸ listed
  split
  case h_1 => exact (State.larUncorrectable_groups listed' _ _).trans same
  case h_2 => exact same
  case h_3 x _ =>
    have corrected := (State.larCorrected_groups listed' e.1 x true).trans same
    dsimp only
    split
    · exact (State.reg_of_regs ((State.larHard_frame ..).part .regs (by decide)) _).trans corrected
    · exact corrected

end

theorem blockOf_larpwr (c : SiteNo) : blockOf (Reg.RGN_LARPWR c) = some (.rgn (c.val / 72), 0x9000 + c.val % 72 * 0x80) := by
  have site := c.isLt
  unfold blockOf
  simp only [Reg.RGN_LARPWR, Reg.larBase, Reg.rgnBase]
  repeat rw [if_neg (by omega)]
  rw [if_pos (by omega), Option.some.injEq, Prod.mk.injEq, Block.rgn.injEq]
  omega

theorem rgnDef_larpwr (c : SiteNo) : rgnDef (0x9000 + c.val % 72 * 0x80) = larDef 0 := by
  have first : (0x9000 + c.val % 72 * 0x80 - 0x9000) % 0x80 = 0 := by omega
  rw [rgnDef, if_neg (by omega), if_neg (by omega), if_pos (by omega), first]

/-- The Reset column of RGN_LARPWR is 0 (R147). -/
theorem regReset_larpwr (c : SiteNo) : regReset (Reg.RGN_LARPWR c) = 0 := by
  rw [regReset, regDef, blockOf_larpwr]
  simp only [rgnDef_larpwr]
  rfl

/-- RGN_LARPWR of a site with a group on is not at its Reset column. -/
theorem State.larpwr_of_groupIsOn {g : Nat} (on : s.groupIsOn c g = true) : s.reg (Reg.RGN_LARPWR c) ≠ regReset (Reg.RGN_LARPWR c) := by
  intro reset
  rw [State.groupIsOn, reset, regReset_larpwr] at on
  simp [tst] at on

-- Scrub visits

theorem State.groupIsOn_of_scrubRow {n : Nat} (found : s.scrubRow site n = some row) : ∃ g, s.groupIsOn site g = true := by
  unfold State.scrubRow at found
  split at found
  case isTrue on => exact ⟨_, on⟩
  case isFalse =>
    obtain ⟨g, next, _⟩ := Option.map_eq_some_iff.1 found
    exact ⟨g, List.find?_some next⟩

theorem State.scrubRow_of_groups (same : t.reg (Reg.RGN_LARPWR site) = s.reg (Reg.RGN_LARPWR site)) (n : Nat) :
    t.scrubRow site n = s.scrubRow site n := by
  have groups : t.groupIsOn site = s.groupIsOn site := funext fun g => by rw [State.groupIsOn, State.groupIsOn, same]
  rw [State.scrubRow, State.scrubRow, groups]

/-- With a group on, the row that follows a visit is the one that followed before it. -/
theorem State.scrubRow_scrubCheck {n : Nat} (found : s.scrubRow c n = some row) (m : Nat) :
    (s.scrubCheck c row).scrubRow c m = s.scrubRow c m := by
  obtain ⟨g, on⟩ := State.groupIsOn_of_scrubRow found
  exact State.scrubRow_of_groups (State.scrubCheck_groups (State.larpwr_of_groupIsOn on) row) m

theorem State.visitRow_of_last (last : row = 16383 ∨ ∀ m, (s.scrubCheck site row).scrubRow site (row + 1) = some m → m ≤ row) :
    s.visitRow site row = (s.scrubCheck site row).passEnd site := by
  refine if_neg fun more => ?_
  obtain ⟨before, m, next, later⟩ := by simpa [Option.any_eq_true] using more
  rcases last with last | behind
  · exact before last
  · exact absurd (behind m next) (by omega)

theorem State.visitRow_of_more {m : Nat} (before : row ≠ 16383) (next : (s.scrubCheck site row).scrubRow site (row + 1) = some m)
    (later : row < m) : s.visitRow site row = (s.scrubCheck site row).setRegF (Reg.RGN_LARSCRUB site) 0 14 (row + 1) :=
  if_pos (by simp [before, next, later])

theorem scrubVisit_of_row (works : s.scrubs (siteRegion c) = true) (unpaused : tst (s.reg (Reg.RGN_SCRUBINT (siteRegion c))) 31 = false)
    (found : s.scrubRow c (s.regF (Reg.RGN_LARSCRUB c) 0 14) = some row) : exec (.scrubVisit c) s =
      let u := if row < s.regF (Reg.RGN_LARSCRUB c) 0 14 then s.passEnd c else s
      .next (if u.scrubs (siteRegion c) then u.visitRow c row else u) := by
  change execScrubVisit c s = _
  simp only [execScrubVisit, works, unpaused, found, Bool.not_true, Bool.or_self, Bool.false_eq_true, if_false]

-- Write-backs, retention and injection

theorem scrubWriteBack_of_queued {w : Nat × BitVec 64} {ws : List (Nat × BitVec 64)} (queued : (s.cl c).writeBack = w :: ws)
    (clocked : s.clocked (siteRegion c) = true) : exec (.scrubWriteBack c) s =
      .next (((w :: ws).filter fun x => x.1 / 32 == w.1 / 32).foldl (fun s x => s.rewriteWord c x)
        (s.setCl c { s.cl c with writeBack := ws.filter fun x => x.1 / 32 != w.1 / 32 })) := by
  change execScrubWriteBack c s = _
  simp only [execScrubWriteBack, queued, clocked, Bool.not_true, Bool.false_eq_true, if_false, State.updCl_eq]

theorem retentionReturn_of_due {r : RegionNo} {t : DWord} (last : (s.rg r).aperAt = some t) (bivouac : s.rstate r = stBivouac)
    (past : 2000 ≤ (s.now - t).toNat) : exec (.retentionReturn r) s =
      .next (((s.setSwitches r false true false).setRetention r true).updRg r fun g => { g with aperAt := none }) := by
  change execRetentionReturn r s = _
  simp only [execRetentionReturn, last]
  exact if_pos ⟨bivouac, past⟩

section
variable (rails : s.railsOn = true) (up : (s.rg (siteRegion c)).ctlUp = true) (v : Word)
include rails up

theorem larinjArm_of_running (running : s.injStopped (siteRegion c) = false) : exec (.larinjArm c v) s = .fault (.undefinedCase .u5) := by
  change execLarinjArm c v s = _
  simp only [execLarinjArm, rails, up, running, Bool.and_self, Bool.not_true, Bool.not_false, Bool.false_eq_true, if_false, if_true]
  rfl

theorem larinjArm_of_stopped (stopped : s.injStopped (siteRegion c) = true) : exec (.larinjArm c v) s =
    let a := s.setReg (Reg.RGN_LARINJ c) (v &&& 0x7FFFFFF)
    .next (if tst v 27 && a.groupIsOn c (fld v 0 19 / 2 ^ 17) then a.larInject c v else a) := by
  change execLarinjArm c v s = _
  simp only [execLarinjArm, rails, up, stopped, Bool.and_self, Bool.not_true, Bool.false_eq_true, if_false]

end

-- Scrub windows

theorem scrubWindow_of_free {r : RegionNo} (logical : (s.logRegion r).isSome = true)
    (clock : s.rstate r = stBivouac ∨ (s.clocked r = true ∧ s.devState ≠ 5 ∧ s.cairnStage ≠ caStaging))
    (ungranted : s.regionGranted r = false) (awake : (s.rg r).waking = false)
    (unchecked : ∀ x ∈ s.resil.checks, siteRegion x.checker ≠ r.val ∧ x.third.map siteRegion ≠ some r.val)
    (unswept : (s.rg r).sweeping = false) (closed : (s.rg r).scrubWin = false) (due : s.passedRecently r = false)
    (unpaused : tst (s.reg (Reg.RGN_SCRUBINT r)) 31 = false) : exec (.scrubWindow r) s = .next ((s.preemptWatch r).openWindow r) := by
  change execScrubWindow r s = _
  have noJob : (s.jobs.grants.any fun n => (s.ring n).out.elim false fun o => typeOf o != 9 && o.regions.contains r.val) = false := by
    refine List.any_eq_false.2 fun n granted => ?_
    have apart := List.any_eq_false.1 ungranted n granted
    cases out : (s.ring n).out with
    | none => simp
    | some o =>
      have outside : o.regions.contains r.val = false := by simpa [out] using apart
      rw [Option.elim_some, outside, Bool.and_false]
      exact Bool.false_ne_true
  have noCheck : (s.resil.checks.any fun x => siteRegion x.checker == r.val || (x.third.map siteRegion) == some r.val) = false := by
    simpa using unchecked
  have clocked : (s.rstate r = stBivouac || (s.clocked r && s.devState != 5 && s.cairnStage != caStaging)) = true := by
    simpa [and_assoc] using clock
  unfold execScrubWindow
  rw [noJob, noCheck, Option.isNone_eq_false_iff.2 logical, awake, closed, due, unpaused, unswept]
  exact if_pos clocked

theorem State.openWindow_scrubWin (s : State) (r : Nat) : ((s.openWindow r).rg r).scrubWin = true :=
  congrArg RegionSt.scrubWin (Tab.get_set_self _ _ fun default => absurd (congrArg RegionSt.scrubWin default) (by simp))

end Sys2Proof.Machine

namespace Sys2Proof

open Machine

/-- Settles O36, command by command; whether a pass ends shows before the visit as after it (`State.scrubRow_scrubCheck`). -/
theorem larderUpkeepCommands : Obligations.LarderUpkeepCommands := by
  intro s c r v site rc n
  refine ⟨?visit, ?writeBack, ?window, ?retention, ?injection⟩
  case visit =>
    intro works unpaused row found
    have visit := scrubVisit_of_row works unpaused found
    refine ⟨fun ahead last => ?passEnds, fun ahead before more => ?pointerMoves, fun behind => ?passEndsFirst⟩
    case passEnds =>
      rw [if_neg (Nat.not_lt.2 ahead)] at visit
      rw [visit]
      refine congrArg _ ((if_pos works).trans (State.visitRow_of_last ?_))
      rw [State.scrubRow_scrubCheck found]
      rcases last with last | nothing | ⟨m, before, next⟩
      · exact .inl last
      · exact .inr fun m next => by rw [nothing] at next; cases next
      · exact .inr fun m' next' => by rw [next] at next'; cases next'; exact before
    case pointerMoves =>
      obtain ⟨m, later, next⟩ := more
      rw [if_neg (Nat.not_lt.2 ahead)] at visit
      rw [visit]
      exact congrArg _ ((if_pos works).trans (State.visitRow_of_more before next later))
    case passEndsFirst =>
      rw [if_pos behind] at visit
      exact visit
  case writeBack => exact fun w ws queued clocked => scrubWriteBack_of_queued queued clocked
  case window =>
    intro logical clock ungranted awake unchecked unswept closed due unpaused
    have framed : Frame [.regs, .regions] s ((s.preemptWatch r).openWindow r) :=
      .andThen (.widen (State.preemptWatch_frame ..)) (State.openWindow_frame ..)
    exact ⟨_, scrubWindow_of_free logical clock ungranted awake unchecked unswept closed due unpaused, rfl,
      State.openWindow_scrubWin _ r, framed.sameBytes, framed.part .clusters (by decide)⟩
  case retention => exact fun t last bivouac past => retentionReturn_of_due last bivouac past
  case injection => exact fun rails up => ⟨larinjArm_of_running rails up v, larinjArm_of_stopped rails up v⟩

end Sys2Proof
end

section
/-! SUPPORT. A slice's bytes and codewords: on what their reads rest, what an access touches, and what the symbol code makes of a
codeword (R150, R158). -/

namespace Sys2Proof.Machine

variable {s t : State} {r off n cw : Nat} {p : BitVec 544}

-- Bytes and stored errors

theorem State.celByte_of_cellar (same : t.cellar = s.cellar) (r a : Nat) : t.celByte r a = s.celByte r a := by
  rw [State.celByte, State.celByte, same]

theorem State.celErrs_of_celErr (same : t.celErr = s.celErr) (r off n : Nat) : t.celErrs r off n = s.celErrs r off n := by
  rw [State.celErrs, State.celErrs, same]

theorem State.celErrs_eq_nil_iff (nonempty : n ≠ 0) : s.celErrs r off n = [] ↔
    ∀ e ∈ s.celErr, ¬ (r * celWords + off / 64 ≤ e.1 ∧ e.1 ≤ r * celWords + (off + n - 1) / 64) := by
  rw [State.celErrs, if_neg nonempty, List.filterMap_eq_nil_iff]
  simp

/-- A range whose codewords are among those of a clean range is clean, also when fewer errors are stored. -/
theorem State.celErrs_nil_of_codewords {off' n' : Nat} (clean : s.celErrs r off n = []) (fewer : ∀ e ∈ t.celErr, e ∈ s.celErr)
    (codewords : n' ≠ 0 → n ≠ 0 ∧ off / 64 ≤ off' / 64 ∧ (off' + n' - 1) / 64 ≤ (off + n - 1) / 64) : t.celErrs r off' n' = [] := by
  by_cases nonempty : n' = 0
  · exact if_pos nonempty
  · obtain ⟨nonempty', first, last⟩ := codewords nonempty
    refine (State.celErrs_eq_nil_iff nonempty).2 fun e stored h => ?_
    exact (State.celErrs_eq_nil_iff nonempty').1 clean e (fewer e stored) (by omega)

theorem mem_celEdges {w : Nat} (h : w ∈ celEdges off n) : n ≠ 0 ∧ off / 64 ≤ w ∧ w ≤ (off + n - 1) / 64 := by
  simp only [celEdges] at h
  split at h <;> split at h <;> simp at h <;> omega

-- The code over one codeword (R158)

theorem mem_badSymbols {i : Nat} : i ∈ badSymbols p ↔ i < 68 ∧ p.toNat / 2 ^ (8 * i) % 256 ≠ 0 := by
  simp [badSymbols]

/-- The bad symbols are as many as any list without repeats that names them. -/
theorem length_badSymbols {l : List Nat} (nodup : l.Nodup) (same : ∀ i, i ∈ badSymbols p ↔ i ∈ l) : (badSymbols p).length = l.length :=
  ((List.perm_ext_iff_of_nodup (List.nodup_range.filter _) nodup).2 same).length_eq

/-- An error pattern that is not zero has a bad symbol. -/
theorem exists_mem_badSymbols (wrong : p ≠ 0) : ∃ i, i ∈ badSymbols p := by
  by_contra allGood
  refine wrong (BitVec.eq_of_getLsbD_eq fun b inWord => ?_)
  have symbol : p.toNat / 2 ^ (8 * (b / 8)) % 2 ^ 8 = 0 := by
    by_contra bad
    exact allGood ⟨b / 8, mem_badSymbols.2 ⟨by omega, bad⟩⟩
  have bit : (p.toNat / 2 ^ (8 * (b / 8)) % 2 ^ 8).testBit (b % 8) = p.getLsbD b := by
    rw [Nat.testBit_mod_two_pow, Nat.testBit_div_two_pow, Nat.mod_add_div, decide_eq_true (Nat.mod_lt b (by omega)), Bool.true_and]
    rfl
  rw [← bit, symbol, Nat.zero_testBit]
  simp

theorem celDecode_of_one (one : (badSymbols p).length = 1) : celDecode p = some (0, true) := by simp only [celDecode, one]

theorem celDecode_of_two (two : (badSymbols p).length = 2) : celDecode p = none := by simp only [celDecode, two]

/-- A codeword that is delivered as it was written has no wrong byte. -/
theorem celWrong_corrected (cw a : Nat) : celWrong [(cw, 0)] a = 0#8 := by
  unfold celWrong
  split
  · next e found =>
    obtain rfl : e = (cw, 0) := List.mem_singleton.1 (List.mem_of_find?_eq_some found)
    simp only [BitVec.toNat_zero, Nat.zero_shiftRight, BitVec.ofNat_eq_ofNat]
  · rfl

-- What a check of a range finds

theorem State.celCheck_of_clean (clean : s.celErrs r off n = []) (patrol : Bool) : s.celCheck r off n patrol = (s, some []) := by
  rw [State.celCheck, clean]; rfl

theorem State.celCheck_of_corrected (one : s.celErrs r off n = [(cw, p)]) (decoded : celDecode p = some (0, true)) (patrol : Bool) :
    s.celCheck r off n patrol = (s.celCorrected r cw patrol, some [(cw, 0)]) := by
  rw [State.celCheck, one, List.foldl_cons, List.foldl_nil, decoded]; rfl

theorem State.celCheck_of_uncorrectable (one : s.celErrs r off n = [(cw, p)]) (decoded : celDecode p = none) (patrol : Bool) :
    s.celCheck r off n patrol = (s.celUncorrectable r cw patrol, none) := by
  rw [State.celCheck, one, List.foldl_cons, List.foldl_nil, decoded]

-- What an access leaves in the intake of reports

theorem State.celTouch_intake (s : State) (r : Nat) : (s.celTouch r).resil.intake = s.resil.intake :=
  congrArg _ ((State.celTouch_frame s r).part .resil (by decide))

/-- A row recorded as hard waits for its repair; nothing is reported (R160). -/
theorem State.celHard_intake (s : State) (r : Nat) (x : CelRow) : (s.celHard r x).resil.intake = s.resil.intake := by
  unfold State.celHard State.todo
  split
  · rfl
  · rfl

theorem State.celCorrected_intake (s : State) (r cw : Nat) (patrol : Bool) :
    (s.celCorrected r cw patrol).resil.intake = s.resil.intake := by
  unfold State.celCorrected
  extract_lets s₁ s₂ s₃ log s₄
  split
  · exact State.celHard_intake s₄ r (celRow cw)
  · rfl

theorem State.celUncorrectable_intake (s : State) (r cw : Nat) (patrol : Bool) :
    (s.celUncorrectable r cw patrol).resil.intake = s.resil.intake ++ [.cellarUE (Fin.ofNat 192 r) (BitVec.ofNat 29 cw)] := rfl

-- What a read makes of the check

/-- What a read delivers rests on the check of its codewords (R158). -/
theorem State.celRead_of_check {l : Option (List (Nat × BitVec 512))} (check : (s.celTouch r).celCheck r off n false = (t, l))
    (nonempty : n ≠ 0) :
    s.celRead r off n = (t, l.map fun l => (List.range n).map fun i => s.celByte r (off + i) ^^^ celWrong l (off + i)) := by
  have bytes (a : Nat) : (s.celTouch r).celByte r a = s.celByte r a :=
    State.celByte_of_cellar ((State.celTouch_frame s r).part .cellar (by decide)) r a
  rw [State.celRead, if_neg nonempty]
  simp only [check, bytes]

end Sys2Proof.Machine
end
section
/-! CLAIM. Reads of a slice with one bad codeword: corrected with one bad symbol, held with two. -/

namespace Sys2Proof

open Machine

/-- Settles O39: the check of the range is one correction, or one report. -/
theorem symbolCodeCorrectsOneDetectsTwo : Obligations.SymbolCodeCorrectsOneDetectsTwo := by
  intro s r off n cw p filled one
  have touched : (s.celTouch r).celErrs r off n = [(cw, p)] :=
    (State.celErrs_of_celErr ((State.celTouch_frame s r).part .celErr (by decide)) r off n).trans one
  refine ⟨fun wrong single => ?corrected, ?held⟩
  case corrected =>
    obtain ⟨i, bad⟩ := exists_mem_badSymbols wrong
    have only (j : Nat) : j ∈ badSymbols p ↔ j ∈ [i] := by
      rw [List.mem_singleton]
      refine ⟨fun bad' => ?_, fun same => same ▸ bad⟩
      obtain ⟨inWord, symbol⟩ := mem_badSymbols.1 bad
      obtain ⟨inWord', symbol'⟩ := mem_badSymbols.1 bad'
      exact single j inWord' symbol' i inWord symbol
    have decoded : celDecode p = some (0, true) := celDecode_of_one (length_badSymbols (List.nodup_singleton i) only)
    have read := State.celRead_of_check (State.celCheck_of_corrected touched decoded false) (Nat.ne_of_gt filled)
    refine ⟨_, read.trans ?_, ((State.celRead_frame s r off n).of_eq read).sameBytes,
      (State.celCorrected_intake ..).trans (State.celTouch_intake s r)⟩
    simp only [Option.map_some, celWrong_corrected, BitVec.xor_zero]
  case held =>
    rintro ⟨i, inWord, j, before, symbol, symbol', others⟩
    have both (m : Nat) : m ∈ badSymbols p ↔ m ∈ [i, j] := by
      rw [List.mem_pair, mem_badSymbols]
      refine ⟨fun bad => others m bad.1 bad.2, ?_⟩
      rintro (rfl | rfl)
      · exact ⟨inWord, symbol⟩
      · exact ⟨by omega, symbol'⟩
    have apart : [i, j].Nodup := by simp; omega
    have decoded : celDecode p = none := celDecode_of_two (length_badSymbols apart both)
    have read := State.celRead_of_check (State.celCheck_of_uncorrectable touched decoded false) (Nat.ne_of_gt filled)
    refine ⟨_, read, ((State.celRead_frame s r off n).of_eq read).sameBytes, ?_⟩
    rw [State.celUncorrectable_intake, State.celTouch_intake]

end Sys2Proof
end

section
/-! CLAIM. Writes of a slice to codewords without a stored error, and what they then read. -/

namespace Sys2Proof.Machine

variable {s t : State} {r off n : Nat} {d : List Byte}

-- What a read of clean codewords delivers

/-- A read of codewords without a stored error delivers the bytes as they were written. -/
theorem State.celRead_bytes_of_clean (clean : s.celErrs r off n = []) :
    (s.celRead r off n).2 = some ((List.range n).map fun i => s.celByte r (off + i)) := by
  by_cases empty : n = 0
  · subst empty
    rfl
  · have touched : (s.celTouch r).celErrs r off n = [] :=
      (State.celErrs_of_celErr ((State.celTouch_frame s r).part .celErr (by decide)) r off n).trans clean
    rw [State.celRead_of_check (State.celCheck_of_clean touched false) empty]
    simp [celWrong]

-- One write of bytes as they are

/-- Bytes put in a slice are read there, and every other byte of a slice is as before. -/
theorem State.celByte_celPut (table : Tab.wf 0 s.cellar = true) (within : off + d.length ≤ celSpan) {r' a : Nat} (inside : a < celSpan) :
    (s.celPut r off d).celByte r' a = if r' = r ∧ off ≤ a ∧ a < off + d.length then d.getD (a - off) 0 else s.celByte r' a := by
  by_cases empty : d.length = 0
  · rw [State.celPut, if_pos empty, if_neg (by omega)]
  · have place : (r * celSpan + off ≤ r' * celSpan + a ∧ r' * celSpan + a < r * celSpan + off + d.length)
        ↔ r' = r ∧ off ≤ a ∧ a < off + d.length := by simp only [celSpan] at inside within ⊢; omega
    rw [State.celPut, if_neg empty, State.celByte, Tab.get_setList table]
    by_cases here : r' = r ∧ off ≤ a ∧ a < off + d.length
    · rw [if_pos (place.2 here), if_pos here, here.1, List.getD_eq_getElem?_getD,
        show r * celSpan + a - (r * celSpan + off) = a - off by omega]
    · rw [if_neg (mt place.1 here), if_neg here, State.celByte]

theorem State.celPut_celErr (s : State) (r off : Nat) (d : List Byte) : ∀ e ∈ (s.celPut r off d).celErr, e ∈ s.celErr := by
  intro e stored
  by_cases empty : d.length = 0
  · rwa [State.celPut, if_pos empty] at stored
  · rw [State.celPut, if_neg empty, Tab.clear_eq_filter] at stored
    exact (List.mem_filter.1 stored).1

-- The write with its partly covered codewords

theorem State.celEdgeCheck_of_clean {ws : List Nat} (clean : ∀ w ∈ ws, s.celErrs r (w * 64) 64 = []) :
    s.celEdgeCheck r ws = (s, some []) := by
  refine foldl_inv (· = (s, some [])) _ (fun a w hw same => ?_) rfl
  subst same
  simp only [State.celCheck_of_clean (clean w hw), Option.bind_some, Option.map_some, List.append_nil]

/-- A write whose first and last codewords are clean is made, with nothing to mend (R506). -/
theorem State.celWrite_of_clean (clean : ∀ w ∈ celEdges off d.length, s.celErrs r (w * 64) 64 = []) :
    s.celWrite r off d = ((if d.length = 0 then s else s.celTouch r).celPut r off d, true) := by
  have edges : (if d.length = 0 then s else s.celTouch r).celEdgeCheck r (celEdges off d.length)
      = (if d.length = 0 then s else s.celTouch r, some []) := by
    refine State.celEdgeCheck_of_clean fun w edge => ?_
    rw [if_neg (mem_celEdges edge).1]
    exact (State.celErrs_of_celErr ((State.celTouch_frame s r).part .celErr (by decide)) r _ _).trans (clean w edge)
  simp only [State.celWrite, edges, List.foldl_nil]

/-- Bytes that lie one after the other in a slice as a list gives them. -/
theorem State.celBytes_eq (bytes : ∀ i < d.length, s.celByte r (off + i) = d.getD i 0) :
    ((List.range d.length).map fun i => s.celByte r (off + i)) = d := by
  refine List.ext_getElem (by simp) fun i _ inList => ?_
  rw [List.getElem_map, List.getElem_range, bytes i inList, List.getD_eq_getElem _ _ inList]

end Sys2Proof.Machine

namespace Sys2Proof

open Machine

/-- Settles O38: the codewords that the write covers in part are clean, so its bytes are put as they are. -/
theorem cellarStoreTouchesItsBytesOnly : Obligations.CellarStoreTouchesItsBytesOnly := by
  intro s r off d canon within clean
  have written := State.celWrite_of_clean (s := s) (r := r) (off := off) (d := d) fun w edge =>
    State.celErrs_nil_of_codewords clean (fun _ => id) fun _ => by have := mem_celEdges edge; omega
  have touched : Frame [.regs, .regions] s (if d.length = 0 then s else s.celTouch r) :=
    .ite (fun _ => .refl s) fun _ => State.celTouch_frame s r
  rw [written]
  generalize (if d.length = 0 then s else s.celTouch r) = u at touched
  refine ⟨rfl, ?_⟩
  rintro _ rfl
  have larder : (u.celPut r off d).larder = s.larder :=
    ((State.celPut_frame u r off d).part .larder (by decide)).trans (touched.part .larder (by decide))
  have stored {r' a : Nat} (inside : a < celSpan) : (u.celPut r off d).celByte r' a
      = if r' = r ∧ off ≤ a ∧ a < off + d.length then d.getD (a - off) 0 else s.celByte r' a := by
    rw [State.celByte_celPut (touched.canon (canon_iff.1 canon)).cellar within inside,
      State.celByte_of_cellar (touched.part .cellar (by decide))]
  refine ⟨fun site a => State.larByte_of_larder larder a, fun r' a => stored, ?readBack⟩
  have fewer : ∀ e ∈ (u.celPut r off d).celErr, e ∈ s.celErr := fun e kept =>
    (touched.part .celErr (by decide) : u.celErr = s.celErr) ▸ State.celPut_celErr u r off d e kept
  rw [State.celRead_bytes_of_clean (State.celErrs_nil_of_codewords clean fewer (by omega)), State.celBytes_eq fun i inList => ?_]
  rw [stored (by omega), if_pos (by omega), Nat.add_sub_cancel_left]

end Sys2Proof
end

section
/-! CLAIM. Upkeep of the cellar: refresh, patrol, self-refresh, row remaps, injection. -/

namespace Sys2Proof.Machine

variable {s : State} {r : RegionNo}

-- Refresh and self-refresh

/-- A refresh that falls due on an ACTIVE slice is issued when the bank is idle or eight have been postponed (R155, R156). -/
theorem cellarRefresh_of_active (active : s.regF (Reg.RGN_CELSTATE r) 0 2 = 1) (ch : BitVec 3) (rank : BitVec 2) (bank : BitVec 5)
    (idle : Bool) : exec (.cellarRefresh r ch rank bank idle) s =
      let key := rank.toNat * 256 + ch.toNat * 32 + bank.toNat
      let n := Tab.get 0 (s.rg r).postponed key
      .next (s.setRg r { s.rg r with
        postponed := Tab.set 0 (s.rg r).postponed key (if idle = true ∨ 8 ≤ n then 0 else n + 1) }) :=
  if_neg (not_not.2 active)

theorem selfRefreshEntry_of_unclocked (active : s.regF (Reg.RGN_CELSTATE r) 0 2 = 1)
    (unclocked : s.rstate r ∈ [stDark, stReserve, stRetired]) (running : s.devState ≠ 5)
    (unused : 1000 ≤ (s.now - (s.rg r).sliceAt).toNat) :
    exec (.selfRefreshEntry r) s = .next (s.setRegF (Reg.RGN_CELSTATE r) 0 2 2) :=
  if_pos ⟨active, by simpa only [List.mem_cons, List.not_mem_nil, or_false] using unclocked, running, unused⟩

-- Patrol

/-- Only the low bits of a value reach the field that it is written to. -/
theorem State.setRegF_of_mod_eq {a lo len v w : Nat} (same : v % 2 ^ len = w % 2 ^ len) : s.setRegF a lo len v = s.setRegF a lo len w := by
  rw [State.setRegF, State.setRegF, setFld, setFld, same]

/-- A visit that the slice takes checks its unit in every channel and moves the pointer on; the last unit ends the pass (R157, R160). -/
theorem patrolVisit_of_trained (trained : s.regF (Reg.RGN_CELSTATE r) 0 2 ≠ 0) (usable : s.rstate r ≠ stRetired)
    (unpaused : tst (s.reg (Reg.RGN_CELPATROL r)) 31 = false) : exec (.patrolVisit r) s =
      let u := s.regF (Reg.RGN_CELPATPTR r) 0 24
      let a := ((List.range 8).foldl (fun s ch => s.patrolUnit r ch u) s).setRegF (Reg.RGN_CELPATPTR r) 0 24 (u + 1)
      let b := a.setRegF (Reg.RGN_CELPATPTR r) 24 8 (a.regF (Reg.RGN_CELPATPTR r) 24 8 + 1)
      .next (if u + 1 = 2 ^ 24 then b.setRg r { b.rg r with patLast := (b.rg r).patNow, patNow := [], ueLog := [] } else a) := by
  change execPatrolVisit r s = _
  unfold execPatrolVisit
  extract_lets st u a b
  rw [if_neg (by simp [trained, usable, unpaused, st]), apply_ite Host.Outcome.next]
  rfl

-- Row remaps

section
variable {ch : BitVec 3} {rank : BitVec 2} {bank : BitVec 5} {row : BitVec 15} {x : CelRow}
  (trained : s.regF (Reg.RGN_CELSTATE r) 0 2 ≠ 0) (hard : .hardCellar r ch rank bank row ∈ s.attic.todo)
  (named : x = ⟨ch.toNat, rank.toNat, bank.toNat, row.toNat⟩)
include trained hard named

/-- A hard row is remapped onto a spare of its bank and copied (R160). -/
theorem rowRemap_of_spare {t : State} (remapped : s.remapRow r x = some t) :
    exec (.rowRemap r ch rank bank row) s = .next (t.rewriteRow r x) := by
  subst named
  change execRowRemap r ch rank bank row s = _
  rw [execRowRemap, if_neg (by simp [trained, hard])]
  simp only [remapped]

/-- A hard row without a spare retires its region (R161, R45). -/
theorem rowRemap_of_spent (spent : s.remapRow r x = none) :
    exec (.rowRemap r ch rank bank row) s = .next (s.report (.forced r 7)) := by
  subst named
  change execRowRemap r ch rank bank row s = _
  rw [execRowRemap, if_neg (by simp [trained, hard])]
  simp only [spent]

end

-- Injection

section
variable (rails : s.railsOn = true) (up : (s.rg r).ctlUp = true) (v : Word)
include rails up

theorem celinjsymArm_of_running (running : s.injStopped r = false) : exec (.celinjsymArm r v) s = .fault (.undefinedCase .u5) := by
  change execCelinjsymArm r v s = _
  simp only [execCelinjsymArm, rails, up, running, Bool.and_self, Bool.not_true, Bool.not_false, Bool.false_eq_true, if_false, if_true]
  rfl

theorem celinjsymArm_of_stopped (stopped : s.injStopped r = true) : exec (.celinjsymArm r v) s =
    let a := s.setReg (Reg.RGN_CELINJSYM r) (v &&& 0xFF)
    .next (if tst v 8 then a.celInject r v else a) := by
  change execCelinjsymArm r v s = _
  simp only [execCelinjsymArm, rails, up, stopped, Bool.and_self, Bool.not_true, Bool.false_eq_true, if_false]

end

end Sys2Proof.Machine

namespace Sys2Proof

open Machine

/-- Settles O37, command by command; the pointer of a pass that ends wraps to 0 in its field. -/
theorem cellarUpkeepCommands : Obligations.CellarUpkeepCommands := by
  intro s r ch rank bank row idle v st key p put u x
  refine ⟨fun active issued => ?issued, fun active busy few => ?postponed, fun trained usable unpaused before => ?pointerMoves,
    fun trained usable unpaused last => ?passEnds, selfRefreshEntry_of_unclocked, fun trained hard => ?remap,
    fun rails up => ⟨celinjsymArm_of_running rails up v, celinjsymArm_of_stopped rails up v⟩⟩
  case issued => exact (cellarRefresh_of_active active ch rank bank idle).trans (congrArg put (if_pos issued))
  case postponed =>
    have waits : ¬ (idle = true ∨ 8 ≤ p) := by simp [busy, few]
    exact (cellarRefresh_of_active active ch rank bank idle).trans (congrArg put (if_neg waits))
  case pointerMoves =>
    rw [patrolVisit_of_trained trained usable unpaused]
    exact congrArg _ (if_neg (Nat.ne_of_lt before))
  case passEnds =>
    have wraps (s : State) : s.setRegF (Reg.RGN_CELPATPTR r) 0 24 (u + 1) = s.setRegF (Reg.RGN_CELPATPTR r) 0 24 0 :=
      State.setRegF_of_mod_eq (by rw [last]; rfl)
    intro a b
    rw [patrolVisit_of_trained trained usable unpaused]
    dsimp only
    rw [wraps]
    exact congrArg _ (if_pos last)
  case remap =>
    split
    case h_1 t remapped => exact rowRemap_of_spare trained hard rfl remapped
    case h_2 spent => exact rowRemap_of_spent trained hard rfl spent

end Sys2Proof
end

section
/-! SUPPORT. The fetch-ahead and copy engines as their events meet them (R165, R166, R246). -/

namespace Sys2Proof.Machine

variable {s y : State} {c : SiteNo} {f : Flow} {k : State → Flow}

-- Work that may end early

theorem Flow.bind'_eq_ok : f.bind' k = .ok y ↔ ∃ u, f = .ok u ∧ k u = .ok y := by
  cases f with
  | ok u => simp [Flow.bind']
  | error e => simp [Flow.bind']

-- Fills

section
variable (running : (s.cl c).fa.running = true) (free : (s.cl c).fa.held = false) (clocked : s.clocked (siteRegion c) = true)
  (left : (s.cl c).fa.filled < (s.cl c).fa.pitches) (credit : (s.cl c).fa.filled - (s.cl c).fa.freed < (s.cl c).fa.credits)
  (filled : State.fillPitch c (s.cl c).fa.filled ((s.cl c).fa.entries - (s.cl c).fa.next) s = .ok y)
include running free clocked left credit filled

/-- A pitch whose entries are in is counted, unless the engine has come to be held; FAWAIT of it goes on, and FASTART too when the
list is at its end (R165). -/
theorem pitchFilled_of_credit : exec (.pitchFilled c) s =
    let z := (y.setCl c { y.cl c with fa := { (y.cl c).fa with filled := (y.cl c).fa.filled + 1 } }).unstall
      (fun i w => i == c.val && decide (w = .fawait (s.cl c).fa.filled)) true
    .next (if (y.cl c).fa.held = true then y
      else if z.moreEntries c then z else z.unstall (fun i w => i == c.val && decide (w = .fastart)) false) := by
  have goes : (!(s.cl c).fa.running || (s.cl c).fa.held || !s.clocked (siteRegion c) || decide ((s.cl c).fa.pitches ≤ (s.cl c).fa.filled)
      || decide ((s.cl c).fa.credits ≤ (s.cl c).fa.filled - (s.cl c).fa.freed)) = false := by
    simp [running, free, clocked, left, credit]
  change execPitchFilled c s = _
  unfold execPitchFilled
  extract_lets fa z
  rw [if_neg (by rw [goes]; exact Bool.false_ne_true), filled, Flow.bind', apply_ite Host.Outcome.next]
  split
  · rfl
  · rfl

end

/-- A core that waits for a pitch which its engine will never fill is reported once (R166). -/
theorem loadListFault_of_stuck {q : Nat} (running : (s.cl c).run = .running) (waits : (s.cl c).stall = some (.fawait q))
    (never : (s.cl c).fa.running = false ∨ (s.cl c).fa.pitches ≤ q ∨ (s.cl c).fa.freed + (s.cl c).fa.credits ≤ q)
    (unreported : .loadList c ∉ s.resil.intake) : exec (.loadListFault c) s = .next (s.report (.loadList c)) := by
  have stuck : (!(s.cl c).fa.running || decide ((s.cl c).fa.pitches ≤ q) || decide ((s.cl c).fa.freed + (s.cl c).fa.credits ≤ q)) = true := by
    simpa [or_assoc] using never
  change execLoadListFault c s = _
  simp only [execLoadListFault, waits, stuck, running, decide_true, Bool.true_and]
  exact if_pos (by simpa using unreported)

-- Copies

/-- The engine of a COPY that is acknowledged is idle, and the core that waited for it goes on (R246). -/
def State.copyEnd (s : State) (c : SiteNo) : State :=
  ((s.setCl c { s.cl c with copyBusy := none }).unstall
    (fun i w => i == c.val && (decide (w = .cpwait) || decide (w = .fence))) true).unstall
    (fun i w => i == c.val && decide (w = .cpstart)) false

section
variable (free : (s.cl c).copyHeld = false)
include free

theorem copyComplete_of_program (busy : (s.cl c).copyBusy = some .program) : exec (.copyComplete c) s = .next (s.copyEnd c) := by
  change execCopyComplete c s = _
  simp only [execCopyComplete, busy]
  exact if_neg (by simp [free])

theorem copyComplete_of_ring {n : Nat} (busy : (s.cl c).copyBusy = some (.ring n)) :
    exec (.copyComplete c) s = .next ((s.copyEnd c).finish n 0 0 0) := by
  change execCopyComplete c s = _
  simp only [execCopyComplete, busy]
  exact if_neg (by simp [free])

end

end Sys2Proof.Machine
end

section
/-! SUPPORT. The nodes of a reduction tree, and what its root's completion leaves (R186, R190). -/

namespace Sys2Proof.Machine

variable {s y : State} {t : BitVec 8} {x : Tree} {i : Nat}

-- Sums on their way

/-- Where a node stands does not rest on what the sync network holds. -/
@[simp] theorem State.nodeSite_sync (s : State) (n : SyncNet) (x : Tree) (level node : Nat) :
    ({ s with sync := n } : State).nodeSite x level node = s.nodeSite x level node := rfl

theorem State.sendSum_eq (s : State) (x : Tree) (a : Option Nat) (m : TreeMsg) :
    s.sendSum x a m = { s with sync := { s.sync with
      msgs := s.sync.msgs ++ if a.elim true fun a => s.path 0 a [s.nodeSite x m.level m.node] then [m] else [] } } := by
  unfold State.sendSum
  split
  · rfl
  · rw [List.append_nil]

/-- Of a number and the next one, the first that passes: what a node forwards first (R186). -/
theorem find?_self_succ {p : Nat → Bool} {j : Nat} (due : i = j ∨ (i = j + 1 ∧ p (i - 1) = false)) (full : p i = true) :
    [j, j + 1].find? p = some i := by
  rcases due with rfl | ⟨rfl, waits⟩
  · exact List.find?_cons_of_pos full
  · rw [Nat.add_sub_cancel] at waits
    simp [waits, full]

-- The root

theorem State.broadcast_treeInst (s : State) (a : Option Nat) : (s.broadcast a).sync.treeInst = s.sync.treeInst := by
  cases a <;> rfl

theorem State.sendFlag_treeInst (s : State) (site f : Nat) (v : Bool) : (s.sendFlag site f v).sync.treeInst = s.sync.treeInst := by
  unfold State.sendFlag
  split
  · simp only [State.setFlag, State.unstall_sync, State.broadcast_treeInst]
  · rfl

/-- What the root has completed is counted (R186). -/
theorem State.completeTree_treeInst {n site : Nat} {sum : List DWord} (complete : s.completeTree n x site i sum = .ok y) :
    Tab.get 0 y.sync.treeInst n = i + 1 := by
  unfold State.completeTree at complete
  extract_lets w area sum' done at complete
  have counted (u : State) (old : List Int) (sat : Bool) (ended : done u old sat = .ok y) : Tab.get 0 y.sync.treeInst n = i + 1 := by
    obtain ⟨v, _, stored⟩ := Flow.bind'_eq_ok.1 ended
    obtain rfl := Except.ok.inj stored
    split
    · rw [State.sendFlag_treeInst, State.unstall_sync]
      exact Tab.get_set_self _ _ (Nat.succ_ne_zero i)
    · rw [State.unstall_sync]
      exact Tab.get_set_self _ _ (Nat.succ_ne_zero i)
  split at complete
  case isTrue =>
    split at complete
    case isTrue => cases complete
    case isFalse =>
      split at complete
      case h_1 => exact counted _ _ _ complete
      case h_2 => cases complete
  case isFalse => exact counted _ _ _ complete

end Sys2Proof.Machine
end

section
/-! CLAIM. Fills, load-list faults, copy completions, reduction stalls and the nodes of a tree. -/

namespace Sys2Proof.Machine

variable {s y : State} {t : BitVec 8} {x : Tree} {i : Nat}

theorem reductionStall_of_up {r : RegionNo} (up : (s.rg r).bulkUp = true) :
    exec (.reductionStall r) s = .next ((s.count (Reg.RGN_NETREDST r) 0 16 1).report (.redStall r)) := by
  refine if_neg ?_
  simp [up]

/-- A node forwards the sum of its inputs once it has every one, and drops them (R186). -/
theorem treeNodeForward_of_full {nd : TreeNode} {level node inputs : Nat} (entry : s.tree t.toNat = some x)
    (named : x.node nd = (level, node, inputs))
    (due : i = Tab.get 0 s.sync.treeInst t.toNat ∨ (i = Tab.get 0 s.sync.treeInst t.toNat + 1
      ∧ (s.nodeMsgs t.toNat level node (i - 1)).length ≠ inputs))
    (full : (s.nodeMsgs t.toNat level node i).length = inputs) :
    exec (.treeNodeForward t nd) s =
      let ms := s.nodeMsgs t.toNat level node i
      let v := ms.foldl (fun a m => addVec a m.vals) []
      let sum : TreeMsg := if level = 1 then ⟨t.toNat, i, 2, node / 16, node % 16, v⟩ else ⟨t.toNat, i, 3, 0, node, v⟩
      let goes := (s.nodeSite x level node).elim true fun a => s.path 0 a [s.nodeSite x sum.level sum.node]
      .next { s with sync := { s.sync with
        msgs := (s.sync.msgs.filter fun m => !ms.contains m) ++ if goes then [sum] else [] } } := by
  have found : ([Tab.get 0 s.sync.treeInst t.toNat, Tab.get 0 s.sync.treeInst t.toNat + 1].find? fun j =>
      (s.nodeMsgs t.toNat level node j).length == inputs) = some i :=
    find?_self_succ (by simpa using due) (by simpa using full)
  change execTreeNodeForward t nd s = _
  simp only [execTreeNodeForward, entry, named, found, State.sendSum_eq, State.nodeSite_sync, State.path_sync]

/-- The root completes at its destination once every row is in (R186). -/
theorem treeInstanceComplete_of_full {site : Nat} (entry : s.tree t.toNat = some x) (root : s.clusterSite x.dest = some site)
    (full : (s.nodeMsgs t.toNat 3 0 (Tab.get 0 s.sync.treeInst t.toNat)).length = x.m.ly1 + 1 - x.m.ly0)
    (complete : s.completeTree t.toNat x site (Tab.get 0 s.sync.treeInst t.toNat)
      ((s.nodeMsgs t.toNat 3 0 (Tab.get 0 s.sync.treeInst t.toNat)).foldl (fun a m => addVec a m.vals) []) = .ok y) :
    exec (.treeInstanceComplete t) s = .next y := by
  change execTreeInstanceComplete t s = _
  simp only [execTreeInstanceComplete, entry, root, full, if_true, complete]
  rfl

end Sys2Proof.Machine

namespace Sys2Proof

open Machine

/-- Settles O40, event by event. -/
theorem engineAndTreeEvents : Obligations.EngineAndTreeEvents := by
  intro s c r t nd x i k wakeOnly
  refine ⟨fun running free clocked left credit y filled => ⟨fun held => ?held, fun unheld => ?counted⟩,
    fun q running waits never unreported => loadListFault_of_stuck running waits never unreported,
    fun free => ⟨copyComplete_of_program free, fun n => copyComplete_of_ring free⟩, reductionStall_of_up,
    fun entry due => ?forward, ?root⟩
  case held => exact (pitchFilled_of_credit running free clocked left credit filled).trans (congrArg _ (if_pos held))
  case counted =>
    exact (pitchFilled_of_credit running free clocked left credit filled).trans (congrArg _ (if_neg (by simp [unheld])))
  case forward =>
    intro level node ms full
    exact treeNodeForward_of_full (level := level) (node := node) entry rfl due full
  case root =>
    rintro site y entry root rfl ms full complete
    exact ⟨treeInstanceComplete_of_full entry root full complete, State.completeTree_treeInst complete⟩

end Sys2Proof
end

section
/-! SUPPORT. Cores that an event releases: what a release leaves of each core's wait (R117, R192). -/

namespace Sys2Proof.Tab

variable {α : Type} [DecidableEq α] {d : α}

/-- What a canonical table lists is what it reads as, but for the default. -/
theorem mem_iff_get_from {t : Tab α} {m k : Nat} {v : α} (h : wfFrom d m t = true) : (k, v) ∈ t ↔ v ≠ d ∧ get d t k = v := by
  induction t generalizing m with
  | nil => simpa using fun other same => other same.symm
  | cons e t ih =>
    obtain ⟨j, w⟩ := e
    have ⟨_, listed, rest⟩ := wfFrom_cons.1 h
    have tail := ih rest
    rw [List.mem_cons, Prod.mk.injEq]
    by_cases here : j = k
    · subst here
      rw [tail, get_below rest (Nat.lt_succ_self j)]
      simp only [get, true_and, if_true]
      exact ⟨fun h => h.elim (fun same => ⟨same ▸ listed, same.symm⟩) fun ⟨other, same⟩ => absurd same.symm other,
        fun h => .inl h.2.symm⟩
    · rw [tail]
      by_cases below : k < j
      · simp [get, here, Ne.symm here, below, get_below rest (Nat.lt_succ_of_lt below)]
      · simp [get, here, Ne.symm here, below]

theorem mem_iff_get {t : Tab α} {k : Nat} {v : α} (h : wf d t = true) : (k, v) ∈ t ↔ v ≠ d ∧ get d t k = v := mem_iff_get_from h

end Sys2Proof.Tab

namespace Sys2Proof.Machine

variable {s : State}

/-- Writing clusters that do not wait ends the wait of each that is written, and of no other. -/
theorem State.foldl_setCl_stall {f : Cluster → Cluster} (free : ∀ c, (f c).stall = none) (l : List (Nat × Cluster))
    (tables : Tab.wf {} s.clusters = true) (i : Nat) :
    ((l.foldl (fun s e => s.setCl e.1 (f e.2)) s).cl i).stall = if i ∈ l.map (·.1) then none else (s.cl i).stall := by
  induction l generalizing s with
  | nil => rfl
  | cons e l ih =>
    rw [List.foldl_cons, ih (Tab.wf_set tables), cl_setCl tables]
    by_cases later : i ∈ l.map (·.1)
    · simp [later]
    · by_cases now : i = e.1
      · simp [now, free]
      · simp [later, now]

/-- A core whose wait has ended, at the instruction that waited or at the next. -/
def Cluster.freed (adv : Bool) (c : Cluster) : Cluster := if adv then { c with stall := none }.advance else { c with stall := none }

theorem Cluster.freed_stall (adv : Bool) (c : Cluster) : (c.freed adv).stall = none := by
  cases adv <;> rfl

theorem State.unstall_clusters (s : State) (p : Nat → Stall → Bool) (adv : Bool) : (s.unstall p adv).clusters
    = ((s.clusters.filter fun e => (e.2.stall.map (p e.1)).getD false).foldl (fun s e => s.setCl e.1 (e.2.freed adv)) s).clusters := by
  unfold State.unstall
  refine foldl_keeps (fun s : State => s.clusters) _ (fun s e => ?_) _ _
  split <;> rfl

/-- A release ends the waits that it picks, and no other. -/
theorem State.unstall_stall (tables : Tab.wf {} s.clusters = true) (p : Nat → Stall → Bool) (adv : Bool) (i : Nat) :
    ((s.unstall p adv).cl i).stall = (s.cl i).stall.filter fun w => !p i w := by
  have picked : i ∈ (s.clusters.filter fun e => (e.2.stall.map (p e.1)).getD false).map (·.1)
      ↔ ((s.cl i).stall.map (p i)).getD false = true := by
    simp only [List.mem_map, List.mem_filter, Prod.exists, exists_and_right, exists_eq_right, Tab.mem_iff_get tables]
    refine ⟨?_, fun waits => ⟨s.cl i, ⟨?_, rfl⟩, waits⟩⟩
    · rintro ⟨c, ⟨_, rfl⟩, waits⟩
      exact waits
    · intro unlisted
      rw [unlisted] at waits
      cases waits
  rw [State.cl, State.unstall_clusters]
  refine (State.foldl_setCl_stall (Cluster.freed_stall adv) _ tables i).trans ?_
  simp only [picked]
  generalize (s.cl i).stall = wait
  cases wait with
  | none => rfl
  | some w => cases picks : p i w <;> simp [Option.filter_some, picks]

/-- No core is left waiting for what a release picks. -/
theorem State.unstall_stall_ne (tables : Tab.wf {} s.clusters = true) {p : Nat → Stall → Bool} {i : Nat} {w : Stall} (picks : p i w = true)
    (adv : Bool) : ((s.unstall p adv).cl i).stall ≠ some w := by
  rw [State.unstall_stall tables, Ne, Option.filter_eq_some_iff, picks]
  simp

end Sys2Proof.Machine
end

section
/-! CLAIM. The release of a barrier's phase. -/

namespace Sys2Proof.Machine

variable {s : State} {b : BitVec 5} {m : CSet}

/-- The count of released phases after one more, as it goes out from the root; the cores that wait have not yet heard. -/
def State.releasePhase (s : State) (b : Nat) (m : CSet) : State :=
  let y := s.broadcast (s.hubSite m.root)
  { y with sync := { y.sync with barPhase := Tab.set 0 y.sync.barPhase b (s.released b + 1) } }

theorem State.releasePhase_frame (s : State) (b : Nat) (m : CSet) : Frame [.sync] s (s.releasePhase b m) := (State.broadcast_frame ..).withSync

theorem State.releasePhase_released (s : State) (b : Nat) (m : CSet) : (s.releasePhase b m).released b = s.released b + 1 :=
  Tab.get_set_self _ _ (Nat.succ_ne_zero _)

theorem State.releasePhase_arrivals (s : State) (b : Nat) (m : CSet) : (s.releasePhase b m).sync.arrivals = s.sync.arrivals := by
  unfold State.releasePhase
  cases s.hubSite m.root <;> rfl

/-- The cores that the release reaches: those that wait for the phase, then those that were too far ahead to arrive (R192). -/
def State.releaseWaiters (s : State) (b n : Nat) : State :=
  let y := s.unstall (fun i w => decide (w = .barRelease b n) && !s.isCut (siteRegion i)) true
  y.unstall (fun i w => (match w with | .barArrive b' a => b' == b && decide (a < n + 3) | _ => false) && !y.isCut (siteRegion i)) false

@[simp] theorem State.releaseWaiters_sync (s : State) (b n : Nat) : (s.releaseWaiters b n).sync = s.sync := by
  simp only [State.releaseWaiters, State.unstall_sync]

theorem State.releaseWaiters_stall_ne (canon : Canon s) {i : Nat} (reached : s.isCut (siteRegion i) = false) (b n : Nat) :
    ((s.releaseWaiters b n).cl i).stall ≠ some (.barRelease b n) := by
  unfold State.releaseWaiters
  extract_lets y
  have tables : Tab.wf {} y.clusters = true := ((State.unstall_frame ..).canon canon).clusters
  have free : (y.cl i).stall ≠ some (.barRelease b n) := State.unstall_stall_ne canon.clusters (by simp [reached]) true
  rw [State.unstall_stall tables, Ne, Option.filter_eq_some_iff]
  exact fun waits => free waits.1

theorem State.mem_members (s : State) (m : CSet) (lc : Nat) : lc ∈ s.members m ↔ lc < s.nClusters ∧ m.has lc = true := by
  rw [State.members, List.mem_filter, List.mem_range]

/-- The root releases a phase that every member has arrived at and of which no arrival was lost, and else waits (R191). -/
theorem barrierRelease_of_entry (entry : s.barSet b.toNat = some m) :
    let n := s.released b.toNat
    let lost := Tab.get 0 s.sync.barLost b.toNat
    exec (.barrierRelease b) s =
      if (lost = 0 ∨ n + 1 < lost) ∧ ∀ lc < s.nClusters, m.has lc = true → n < s.arrived b.toNat lc
      then .next ((s.releasePhase b.toNat m).releaseWaiters b.toNat n) else .next s := by
  intro n lost
  have due : ((decide (lost = 0) || decide (n + 1 < lost)) && (s.members m).all fun lc => decide (n < s.arrived b.toNat lc)) = true
      ↔ (lost = 0 ∨ n + 1 < lost) ∧ ∀ lc < s.nClusters, m.has lc = true → n < s.arrived b.toNat lc := by
    simp only [Bool.and_eq_true, Bool.or_eq_true, decide_eq_true_eq, List.all_eq_true, State.mem_members, and_imp]
  change execBarrierRelease b s = _
  simp only [execBarrierRelease, entry]
  exact if_congr due rfl rfl

end Sys2Proof.Machine

namespace Sys2Proof

open Machine

/-- Settles O41: the phase is counted at the root, then the cores that it reaches go on. -/
theorem barriersReleaseWhenAllArrived : Obligations.BarriersReleaseWhenAllArrived := by
  intro s b m canon entry n lost
  have eq := barrierRelease_of_entry entry
  refine ⟨fun kept all => ?releases, fun missing => eq.trans (if_neg ?waits)⟩
  case waits =>
    rintro ⟨kept, all⟩
    rcases missing with ⟨some, early⟩ | ⟨lc, placed, member, behind⟩
    · exact kept.elim some (Nat.not_lt.2 early)
    · exact Nat.not_lt.2 behind (all lc placed member)
  case releases =>
    have released := eq.trans (if_pos ⟨kept, all⟩)
    refine ⟨_, released, ?count, fun site reached => ?free, ?arrivals, (execBarrierRelease_frame b s _ released).sameBytes⟩
    case count =>
      rw [State.released, State.releaseWaiters_sync]
      exact State.releasePhase_released s b.toNat m
    case free =>
      rw [State.isCut, State.releaseWaiters_sync] at reached
      exact State.releaseWaiters_stall_ne ((State.releasePhase_frame ..).canon (canon_iff.1 canon)) reached b.toNat n
    case arrivals => rw [State.releaseWaiters_sync, State.releasePhase_arrivals]

end Sys2Proof
end

section
/-! CLAIM. Region time at a beacon (R196, R432). -/

namespace Sys2Proof.Machine

variable {s : State} {r : Nat}

/-- The error of a beacon's path delay in one region, free within ±2 counts. -/
def State.skew (s : State) : DWord := BitVec.ofNat 64 (Config.beaconSkew s.freeCtr % 5) - 2

theorem State.skew_toInt (s : State) : -2 ≤ s.skew.toInt ∧ s.skew.toInt ≤ 2 := by
  have five : ∀ k < 5, -2 ≤ (BitVec.ofNat 64 k - 2).toInt ∧ (BitVec.ofNat 64 k - 2).toInt ≤ 2 := by decide
  exact five _ (Nat.mod_lt _ (by decide))

-- One region

/-- A region that a beacon has reached: its count follows the counter with an error, and stays no less than it has shown. -/
def RegionSt.onBeacon (g : RegionSt) (e shown : DWord) : RegionSt := { g with timeAdj := e, timeFloor := shown }

/-- The beacon at one region; one whose control domain is down hears nothing. -/
def State.beaconAt (s : State) (r : Nat) : State :=
  if !(s.rg r).ctlUp then s
  else (s.setRg r ((s.rg r).onBeacon s.skew (s.regionTime r))).useFree

@[simp] theorem State.beaconAt_clk (s : State) (r : Nat) : (s.beaconAt r).clk = s.clk := by
  unfold State.beaconAt
  split <;> rfl

@[simp] theorem State.beaconAt_out (s : State) (r : Nat) : (s.beaconAt r).out = s.out := by
  unfold State.beaconAt
  split <;> rfl

theorem State.beaconAt_rg (tables : Tab.wf {} s.regions = true) (r q : Nat) : (s.beaconAt r).rg q =
    if q = r ∧ (s.rg r).ctlUp = true then (s.rg r).onBeacon s.skew (s.regionTime r) else s.rg q := by
  cases up : (s.rg r).ctlUp with
  | false => simp [State.beaconAt, up]
  | true =>
    simp only [State.beaconAt, up, and_true]
    exact rg_setRg tables r q _

theorem State.wf_beaconAt (tables : Tab.wf {} s.regions = true) (r : Nat) : Tab.wf {} (s.beaconAt r).regions = true := by
  unfold State.beaconAt
  split
  · exact tables
  · exact Tab.wf_set tables

-- All of them

theorem State.foldl_beaconAt_clk (s : State) (l : List Nat) : (l.foldl State.beaconAt s).clk = s.clk :=
  foldl_keeps (fun s : State => s.clk) _ State.beaconAt_clk l s

theorem State.foldl_beaconAt_out (s : State) (l : List Nat) : (l.foldl State.beaconAt s).out = s.out :=
  foldl_keeps (fun s : State => s.out) _ State.beaconAt_out l s

/-- The beacon at other regions leaves a region as it is. -/
theorem State.foldl_beaconAt_other (tables : Tab.wf {} s.regions = true) {l : List Nat} (other : r ∉ l) :
    (l.foldl State.beaconAt s).rg r = s.rg r ∧ Tab.wf {} (l.foldl State.beaconAt s).regions = true := by
  refine foldl_inv (fun t : State => t.rg r = s.rg r ∧ Tab.wf {} t.regions = true) _ ?_ ⟨rfl, tables⟩
  rintro t q listed ⟨rg, tables⟩
  refine ⟨?_, State.wf_beaconAt tables q⟩
  have apart : r ≠ q := fun same => other (same ▸ listed)
  rw [State.beaconAt_rg tables, if_neg (fun own => apart own.1), rg]

/-- A region takes its own beacon once, with some error within ±2 counts; one whose control domain is down takes none. -/
theorem State.foldl_beaconAt_own (tables : Tab.wf {} s.regions = true) {l : List Nat} (nodup : l.Nodup) (listed : r ∈ l) :
    ∃ e : DWord, -2 ≤ e.toInt ∧ e.toInt ≤ 2 ∧ (l.foldl State.beaconAt s).rg r =
      if (s.rg r).ctlUp = true then (s.rg r).onBeacon e (s.regionTime r) else s.rg r := by
  obtain ⟨before, after, rfl⟩ := List.append_of_mem listed
  obtain ⟨unseen, rest⟩ := List.nodup_cons.1 (List.nodup_middle.1 nodup)
  obtain ⟨notBefore, notAfter⟩ := not_or.1 (mt List.mem_append.2 unseen)
  obtain ⟨rg, wf⟩ := State.foldl_beaconAt_other tables notBefore
  have time : (before.foldl State.beaconAt s).regionTime r = s.regionTime r := by
    simp only [State.regionTime, State.now, rg, State.foldl_beaconAt_clk]
  refine ⟨(before.foldl State.beaconAt s).skew, (State.skew_toInt _).1, (State.skew_toInt _).2, ?_⟩
  rw [List.foldl_append, List.foldl_cons, (State.foldl_beaconAt_other (State.wf_beaconAt wf r) notAfter).1, State.beaconAt_rg wf, rg, time]
  simp only [true_and]

theorem timeBeacon_eq (s : State) : exec .timeBeacon s = .next (((List.range 192).foldl State.beaconAt s).emit (.beacon s.clk.counter)) := by
  change execTimeBeacon s = _
  unfold execTimeBeacon
  rw [← State.foldl_beaconAt_clk s (List.range 192)]
  generalize List.range 192 = l
  rfl

/-- What a region shows after a beacon, as a number, while the counter is not about to wrap. -/
theorem State.regionTime_onBeacon {g : RegionSt} {e shown : DWord} (rg : s.rg r = g.onBeacon e shown) (low : -2 ≤ e.toInt)
    (high : e.toInt ≤ 2) (room : s.now.toNat + 2 < 2 ^ 64) :
    ((s.regionTime r).toNat : Int) = max (shown.toNat : Int) (s.now.toNat + e.toInt) := by
  have inWord := shown.isLt
  rw [State.regionTime, rg, BitVec.toNat_ofInt]
  simp only [RegionSt.onBeacon]
  omega

end Sys2Proof.Machine

namespace Sys2Proof

open Machine

/-- Settles O42: each region takes its own beacon, and the floor that it sets is what it showed before. -/
theorem timeBeaconsSetRegionTime : Obligations.TimeBeaconsSetRegionTime := by
  intro s canon
  have frame := execTimeBeacon_frame s _ (timeBeacon_eq s)
  refine ⟨_, timeBeacon_eq s, ?out, frame.sameBytes, frame.part .clusters (by decide), fun r inDevice => ?region⟩
  case out => rw [State.emit, State.foldl_beaconAt_out]
  case region =>
    obtain ⟨e, low, high, rg⟩ := State.foldl_beaconAt_own (canon_iff.1 canon).regions List.nodup_range (List.mem_range.2 inDevice)
    have now : ((List.range 192).foldl State.beaconAt s).now = s.now := congrArg Clock.counter (State.foldl_beaconAt_clk ..)
    generalize (List.range 192).foldl State.beaconAt s = t at rg now ⊢
    refine ⟨fun up room => ⟨e.toInt, low, high, ?_⟩, fun down => rg.trans (if_neg (by simp [down]))⟩
    rw [← now] at room ⊢
    exact State.regionTime_onBeacon (rg.trans (if_pos up)) low high room

end Sys2Proof
end

section
/-! CLAIM. Flit errors, lost router domains, timed-out host accesses and regions that do not quiesce (R175 to R179, R184, R200). -/

namespace Sys2Proof.Machine

variable {s : State} {r : RegionNo}

-- Flit errors (R175)

theorem netWires_eq_getD (n : Nat) : netWires n = [640, 96, 32].getD n 0 := by
  rcases n with _ | _ | _ | n <;> rfl

section
variable {c : SiteNo} {net port : BitVec 2} {wire : BitVec 10} (wired : wire.toNat < netWires net.toNat)
  (up : s.netUp (siteRegion c) net.toNat = true) (fused : s.fuses.bypass.contains c.val = false)
  (listed : s.attic.bypass.contains c.val = false) (beside : (siteBeside c port.toNat).isSome = true)
include wired up fused listed beside

/-- A router that is up and not bypassed takes in what arrives on a wire of a link from a neighbour. -/
theorem flit_arrives : ¬ (netWires net.toNat ≤ wire.toNat ∨ (!s.netUp (siteRegion c) net.toNat) = true
    ∨ (s.fuses.bypass.contains c.val || s.attic.bypass.contains c.val) = true ∨ (siteBeside c port.toNat).isNone = true) := by
  have neighbour : (siteBeside c port.toNat).isNone = false := by simpa using beside
  rw [up, fused, listed, neighbour]
  simpa using wired

theorem networkFlitError_of_uncorrectable : exec (.networkFlitError c net port wire true) s =
    let a := ((s.count (Reg.RGN_NETUE (siteRegion c)) 0 16 1).setRegF (Reg.RGN_NETUE (siteRegion c)) 16 2 net.toNat).updRg (siteRegion c)
      fun g => if net.toNat = 0 then { g with heldBulk := true } else { g with heldCtl := true }
    .next ((a.hardWireAt c port.toNat net wire true).report (.flitUE (Fin.ofNat 192 (siteRegion c)) net)) :=
  (if_neg (flit_arrives wired up fused listed beside)).trans (if_pos rfl)

theorem networkFlitError_of_corrected : exec (.networkFlitError c net port wire false) s =
    let a := (s.count (Reg.RGN_NETCE (siteRegion c)) 0 16 1).setRegF (Reg.RGN_NETCE (siteRegion c)) 16 2 net.toNat
    let w := wireAt c port.toNat net.toNat wire.toNat
    let log := (a.rg (siteRegion c)).wireLog.filter fun e => decide ((s.now - e.2).toNat < day)
    let b := a.updRg (siteRegion c) fun g => { g with wireLog := log ++ [(w, s.now)] }
    .next (if 2 ≤ log.countP (fun e => e.1 == w) then b.hardWireAt c port.toNat net wire false else b) :=
  (if_neg (flit_arrives wired up fused listed beside)).trans (if_neg Bool.false_ne_true)

end

-- Lost router domains (R178, R179, R421)

/-- A region of which one router domain has lost its power, with the flits that it held. -/
def RegionSt.without (g : RegionSt) (ctl : Bool) : RegionSt :=
  if ctl then { g with ctlUp := false, heldCtl := false } else { g with bulkUp := false, heldBulk := false }

theorem RegionSt.without_up (g : RegionSt) (ctl : Bool) :
    (g.without ctl).bulkUp = (ctl && g.bulkUp) ∧ (g.without ctl).ctlUp = (!ctl && g.ctlUp) := by
  cases ctl <;> exact ⟨rfl, rfl⟩

/-- The region without the domain; sums that wait in its bulk routers are lost with them. -/
def State.withoutDomain (s : State) (r : Nat) (ctl : Bool) : State :=
  { s.setRg r ((s.rg r).without ctl) with
    sync := { s.sync with msgs := s.sync.msgs.filter fun m => ctl || decide (s.msgRegion m ≠ some r) } }

theorem State.withoutDomain_rg (tables : Tab.wf {} s.regions = true) (r : Nat) (ctl : Bool) :
    (s.withoutDomain r ctl).rg r = (s.rg r).without ctl := (rg_setRg tables r r _).trans (if_pos rfl)

theorem State.withoutDomain_netUp (tables : Tab.wf {} s.regions = true) (r : Nat) (ctl : Bool) :
    (s.withoutDomain r ctl).netUp r (b2n ctl) = false ∧ (s.withoutDomain r ctl).netUp r (b2n !ctl) = s.netUp r (b2n !ctl) := by
  obtain ⟨bulk, control⟩ := (s.rg r).without_up ctl
  simp only [State.netUp, State.withoutDomain_rg tables, bulk, control]
  cases ctl <;> simp [b2n]

/-- With the second domain the region's reference loop loses its lock. -/
theorem State.domainLost_eq (tables : Tab.wf {} s.regions = true) (r : Nat) (ctl : Bool) : s.domainLost r ctl =
    if s.netUp r (b2n !ctl) = true then s.withoutDomain r ctl else (s.withoutDomain r ctl).setRegF (Reg.RGN_PSTATE r) 3 1 0 := by
  have left : (((s.withoutDomain r ctl).rg r).bulkUp || ((s.withoutDomain r ctl).rg r).ctlUp) = s.netUp r (b2n !ctl) := by
    obtain ⟨bulk, control⟩ := (s.rg r).without_up ctl
    rw [State.withoutDomain_rg tables, bulk, control]
    cases ctl <;> simp [b2n, State.netUp]
  have sums : s.withoutDomain r ctl = if ctl then s.setRg r ((s.rg r).without ctl) else { s.setRg r ((s.rg r).without ctl) with
      sync := { s.sync with msgs := s.sync.msgs.filter fun m => !decide (s.msgRegion m = some r) } } := by
    cases ctl with
    | false => simp [State.withoutDomain]
    | true =>
      simp only [State.withoutDomain, Bool.true_or, List.filter_true]
      rfl
  rw [← left, sums]
  rfl

theorem State.domainLost_netUp (tables : Tab.wf {} s.regions = true) (r : Nat) (ctl : Bool) (net : Nat) :
    (s.domainLost r ctl).netUp r net = (s.withoutDomain r ctl).netUp r net := by
  rw [State.domainLost_eq tables]
  split <;> rfl

theorem State.domainLost_sync (tables : Tab.wf {} s.regions = true) (r : Nat) (ctl : Bool) :
    (s.domainLost r ctl).sync = (s.withoutDomain r ctl).sync := by
  rw [State.domainLost_eq tables]
  split <;> rfl

theorem State.domainLost_regs (tables : Tab.wf {} s.regions = true) {r : Nat} {ctl : Bool} (stays : s.netUp r (b2n !ctl) = true) :
    (s.domainLost r ctl).regs = s.regs := by
  rw [State.domainLost_eq tables, if_pos stays]
  rfl

theorem State.domainLost_lock (canon : Canon s) {r : Nat} {ctl : Bool} (stops : s.netUp r (b2n !ctl) = false) :
    tst ((s.domainLost r ctl).reg (Reg.RGN_PSTATE r)) 3 = false := by
  have regs : Tab.wf none (s.withoutDomain r ctl).regs = true := canon.regs
  rw [State.domainLost_eq canon.regions, if_neg (by simp [stops]), reg_setRegF regs, if_pos rfl, tst_setFld]
  rfl

theorem routerDomainLoss_of_up {ctl : Bool} (up : s.netUp r (b2n ctl) = true) :
    exec (.routerDomainLoss r ctl) s = .next ((s.domainLost r ctl).report (.routerLoss r ctl)) := by
  have lost : s.loseDomain r ctl = (s.domainLost r ctl).report (.routerLoss (Fin.ofNat 192 r.val) ctl) := if_pos up
  change Host.Outcome.next (s.loseDomain r ctl) = _
  rw [lost, show Fin.ofNat 192 r.val = r from Fin.ofNat_val_eq_self r]

-- Host accesses and restarts (R179, R200)

/-- A host access whose flit a lost domain or a restart took is answered with all ones. -/
theorem hostAccessTimeout_of_lost {p : PortNo} {tid : Word} {bytes : BitVec 13} (rails : s.railsOn = true)
    (lost : (∃ q < 192, (s.rg q).bulkUp = false ∨ (s.rg q).ctlUp = false) ∨ s.resil.restart.isSome = true)
    (nonempty : 1 ≤ bytes.toNat) (fits : bytes.toNat ≤ 4096) :
    exec (.hostAccessTimeout p tid bytes) s = .next (s.answer p tid.toNat 1 0 (List.replicate bytes.toNat 0xFF)) := by
  have gone : (((List.range 192).any fun q => !(s.rg q).bulkUp || !(s.rg q).ctlUp) || s.resil.restart.isSome) = true := by
    simpa only [Bool.or_eq_true, List.any_eq_true, List.mem_range, Bool.not_eq_true'] using lost
  have answered : ¬ (!s.railsOn || !(((List.range 192).any fun q => !(s.rg q).bulkUp || !(s.rg q).ctlUp) || s.resil.restart.isSome)
      || decide (bytes.toNat = 0) || decide (4096 < bytes.toNat)) = true := by
    rw [rails, gone]
    simpa using ⟨Nat.ne_of_gt nonempty, fits⟩
  exact if_neg answered

theorem quiesceTimeout_of_restart {x : RestartSt} (restart : s.resil.restart = some x) (waits : x.rebuilt = false) :
    exec (.quiesceTimeout r) s = .next (s.updRg r fun g => { g with heldBulk := false, heldCtl := false }).restartGo := by
  refine if_neg ?_
  rw [restart, Option.elim_some, waits]
  exact Bool.false_ne_true

end Sys2Proof.Machine

namespace Sys2Proof

open Machine

/-- Settles O43, event by event; a lost domain by whether its sibling is up. -/
theorem networkFaultEvents : Obligations.NetworkFaultEvents := by
  intro s c net port wire r ctl p tid bytes rc n
  refine ⟨fun wired up fused listed beside => ?flit, fun canon up => ?domain, hostAccessTimeout_of_lost,
    fun x => quiesceTimeout_of_restart⟩
  case flit =>
    rw [← netWires_eq_getD] at wired
    exact ⟨networkFlitError_of_uncorrectable wired up fused listed beside, networkFlitError_of_corrected wired up fused listed beside⟩
  case domain =>
    have canon := canon_iff.1 canon
    have regions := canon.regions
    obtain ⟨down, sibling⟩ := State.withoutDomain_netUp regions r ctl
    have resil : (s.domainLost r ctl).resil = s.resil := (State.domainLost_frame s r ctl).part .resil (by decide)
    have frame := execRouterDomainLoss_frame r ctl s _ (routerDomainLoss_of_up up)
    exact ⟨_, routerDomainLoss_of_up up, (State.domainLost_netUp regions r ctl _).trans down,
      (State.domainLost_netUp regions r ctl _).trans sibling, by rw [State.report, resil], frame.sameBytes, frame.part .clusters (by decide),
      State.domainLost_sync regions r ctl, State.domainLost_regs regions, State.domainLost_lock canon⟩

end Sys2Proof
end

section
/-! CLAIM. The indices that a COPY takes, in linear order and in tiles, and where each element goes (R229 to R240). -/

namespace Sys2Proof.Machine

theorem forall_lt_four {p : Nat → Prop} : (∀ k < 4, p k) ↔ p 0 ∧ p 1 ∧ p 2 ∧ p 3 := by
  simp only [Nat.forall_lt_succ_right, Nat.not_lt_zero, false_imp_iff, implies_true, true_and, and_assoc]

/-- An index lies below the sizes D in all four dimensions. -/
def IxBelow (D j : Ix) : Prop := ∀ k < 4, ixGet j k < ixGet D k

theorem ixBelow_iff {D j : Ix} :
    IxBelow D j ↔ j.1 < D.1 ∧ j.2.1 < D.2.1 ∧ j.2.2.1 < D.2.2.1 ∧ j.2.2.2 < D.2.2.2 := forall_lt_four

theorem not_ixBelow_of_zero {D : Ix} (empty : ∃ k < 4, ixGet D k = 0) (j : Ix) : ¬ IxBelow D j := by
  obtain ⟨k, hk, zero⟩ := empty
  exact fun below => Nat.not_lt_zero _ (zero ▸ below k hk)

theorem ixCount_ne_zero_iff {D : Ix} : ixCount D ≠ 0 ↔ ∀ k < 4, ixGet D k ≠ 0 := by
  simp only [ixCount, ne_eq, mul_eq_zero, not_or, forall_lt_four, and_assoc]
  rfl

-- Linear order (R234)

/-- The place of an index in the linear order of sizes D, d0 fastest. -/
def ixLinear (D j : Ix) : Nat := j.1 + D.1 * (j.2.1 + D.2.1 * (j.2.2.1 + D.2.2.1 * j.2.2.2))

/-- The index at place n of that order. -/
def ixAt (D : Ix) (n : Nat) : Ix :=
  (n % D.1, n / D.1 % D.2.1, n / (D.1 * D.2.1) % D.2.2.1, n / (D.1 * D.2.1 * D.2.2.1))

theorem ixAll_eq_map (D : Ix) : ixAll D = (List.range (ixCount D)).map (ixAt D) := rfl

theorem ixLinear_ixAt (D : Ix) (n : Nat) : ixLinear D (ixAt D n) = n := by
  simp only [ixLinear, ixAt, ← Nat.div_div_eq_div_mul, Nat.mod_add_div]

theorem ixLinear_lt {D j : Ix} (below : IxBelow D j) : ixLinear D j < ixCount D := by
  obtain ⟨h0, h1, h2, h3⟩ := ixBelow_iff.1 below
  rw [ixCount, Nat.mul_assoc, Nat.mul_assoc]
  exact Nat.add_mul_lt_mul_of_lt_of_lt h0 (Nat.add_mul_lt_mul_of_lt_of_lt h1 (Nat.add_mul_lt_mul_of_lt_of_lt h2 h3))

theorem add_mul_mod_div {i a : Nat} (m : Nat) (h : i < a) : (i + a * m) % a = i ∧ (i + a * m) / a = m :=
  ⟨by rw [Nat.add_mul_mod_self_left, Nat.mod_eq_of_lt h],
    by rw [Nat.add_mul_div_left _ _ (Nat.zero_lt_of_lt h), Nat.div_eq_of_lt h, Nat.zero_add]⟩

theorem ixAt_ixLinear {D j : Ix} (below : IxBelow D j) : ixAt D (ixLinear D j) = j := by
  obtain ⟨h0, h1, h2, -⟩ := ixBelow_iff.1 below
  simp only [ixLinear, ixAt, ← Nat.div_div_eq_div_mul, add_mul_mod_div _ h0, add_mul_mod_div _ h1, add_mul_mod_div _ h2]

theorem ixBelow_ixAt {D : Ix} {n : Nat} (h : n < ixCount D) : IxBelow D (ixAt D n) := by
  obtain ⟨h0, h1, h2, -⟩ := forall_lt_four.1 (ixCount_ne_zero_iff.1 (Nat.ne_zero_of_lt h))
  exact ixBelow_iff.2 ⟨Nat.mod_lt _ (Nat.pos_of_ne_zero h0), Nat.mod_lt _ (Nat.pos_of_ne_zero h1),
    Nat.mod_lt _ (Nat.pos_of_ne_zero h2), Nat.div_lt_of_lt_mul h⟩

theorem mem_ixAll_iff {D j : Ix} : j ∈ ixAll D ↔ IxBelow D j := by
  rw [ixAll_eq_map, List.mem_map]
  constructor
  · rintro ⟨n, hn, rfl⟩
    exact ixBelow_ixAt (List.mem_range.1 hn)
  · exact fun below => ⟨ixLinear D j, List.mem_range.2 (ixLinear_lt below), ixAt_ixLinear below⟩

theorem pairwise_ixLinear_ixAll (D : Ix) : (ixAll D).Pairwise fun a b => ixLinear D a < ixLinear D b := by
  rw [ixAll_eq_map, List.pairwise_map]
  simpa only [ixLinear_ixAt] using List.pairwise_lt_range

theorem nodup_ixAll (D : Ix) : (ixAll D).Nodup :=
  (pairwise_ixLinear_ixAll D).imp fun h e => absurd h (by simp [e])

-- Tiles (R236)

/-- Parts that a function of their elements tells apart make a list without repetition. -/
theorem nodup_flatMap_of_key {α β : Type} {l : List α} {f : α → List β} (key : β → α) (nodup : l.Nodup)
    (parts : ∀ x ∈ l, (f x).Nodup) (keyed : ∀ x ∈ l, ∀ y ∈ f x, key y = x) : (l.flatMap f).Nodup :=
  List.nodup_flatMap.2 ⟨parts, nodup.imp_of_mem fun hx hx' ne y hy hy' => ne ((keyed _ hx y hy).symm.trans (keyed _ hx' y hy'))⟩

/-- The tile of t × t indices in column a and row b of tiles, at (i2, i3). -/
def ixTile (D : Ix) (t i3 i2 b a : Nat) : List Ix :=
  (List.range (min t (D.2.1 - b * t))).flatMap fun y =>
    (List.range (min t (D.1 - a * t))).map fun x => (a * t + x, b * t + y, i2, i3)

theorem ixTiles_eq (D : Ix) (t : Nat) : ixTiles D t =
    (List.range D.2.2.2).flatMap fun i3 => (List.range D.2.2.1).flatMap fun i2 =>
      (List.range ((D.2.1 + t - 1) / t)).flatMap fun b => (List.range ((D.1 + t - 1) / t)).map (ixTile D t i3 i2 b) := rfl

section
variable {D : Ix} {t : Nat}

theorem mem_ixTiles_iff {l : List Ix} : l ∈ ixTiles D t ↔ ∃ i3 < D.2.2.2, ∃ i2 < D.2.2.1,
    ∃ b < (D.2.1 + t - 1) / t, ∃ a < (D.1 + t - 1) / t, ixTile D t i3 i2 b a = l := by
  simp only [ixTiles_eq, List.mem_flatMap, List.mem_map, List.mem_range]

theorem flatten_ixTiles (D : Ix) (t : Nat) : (ixTiles D t).flatten =
    (List.range D.2.2.2).flatMap fun i3 => (List.range D.2.2.1).flatMap fun i2 =>
      (List.range ((D.2.1 + t - 1) / t)).flatMap fun b => (List.range ((D.1 + t - 1) / t)).flatMap (ixTile D t i3 i2 b) := by
  simp only [ixTiles_eq, List.flatMap_def, List.flatten_flatten, List.map_map, Function.comp_def]

theorem nodup_ixTile (i3 i2 b a : Nat) : (ixTile D t i3 i2 b a).Nodup := by
  refine nodup_flatMap_of_key (fun j => j.2.1 - b * t) List.nodup_range (fun y _ => List.nodup_range.map ?_) ?_
  · exact fun x x' e => Nat.add_left_cancel (congrArg Prod.fst e)
  · intro y _ j hj
    obtain ⟨x, -, rfl⟩ := List.mem_map.1 hj
    exact Nat.add_sub_cancel_left ..

variable (pos : 0 < t)
include pos

/-- The numbers of a tile along one dimension are those below the size whose quotient by t is the tile's. -/
theorem exists_offset_iff {a n i : Nat} : (∃ x < min t (n - a * t), a * t + x = i) ↔ i / t = a ∧ i < n := by
  rw [Nat.div_eq_iff pos]
  constructor
  · rintro ⟨x, hx, rfl⟩
    omega
  · rintro ⟨⟨low, high⟩, below⟩
    exact ⟨i - a * t, by omega, by omega⟩

theorem mem_ixTile_iff {i3 i2 b a : Nat} {j : Ix} : j ∈ ixTile D t i3 i2 b a ↔
    (j.1 / t = a ∧ j.1 < D.1) ∧ (j.2.1 / t = b ∧ j.2.1 < D.2.1) ∧ j.2.2 = (i2, i3) := by
  rw [← exists_offset_iff pos, ← exists_offset_iff pos]
  simp only [ixTile, List.mem_flatMap, List.mem_map, List.mem_range, Prod.ext_iff]
  constructor
  · rintro ⟨y, hy, x, hx, e0, e1, e2⟩
    exact ⟨⟨x, hx, e0⟩, ⟨y, hy, e1⟩, e2.1.symm, e2.2.symm⟩
  · rintro ⟨⟨x, hx, e0⟩, ⟨y, hy, e1⟩, e2⟩
    exact ⟨y, hy, x, hx, e0, e1, e2.1.symm, e2.2.symm⟩

theorem lt_tiles_iff {a n : Nat} : a < (n + t - 1) / t ↔ a * t < n := by
  rw [Nat.lt_div_iff_mul_lt pos]
  omega

theorem div_lt_tiles {i n : Nat} (h : i < n) : i / t < (n + t - 1) / t :=
  (lt_tiles_iff pos).2 ((Nat.div_mul_le_self i t).trans_lt h)

theorem ixTile_ne_nil {i3 i2 b a : Nat} (hb : b < (D.2.1 + t - 1) / t) (ha : a < (D.1 + t - 1) / t) :
    ixTile D t i3 i2 b a ≠ [] :=
  List.ne_nil_of_mem (a := (a * t, b * t, i2, i3)) ((mem_ixTile_iff pos).2
    ⟨⟨Nat.mul_div_cancel a pos, (lt_tiles_iff pos).1 ha⟩, ⟨Nat.mul_div_cancel b pos, (lt_tiles_iff pos).1 hb⟩, rfl⟩)

theorem mem_flatten_ixTiles_iff {j : Ix} : j ∈ (ixTiles D t).flatten ↔ IxBelow D j := by
  simp only [List.mem_flatten, mem_ixTiles_iff, ixBelow_iff]
  constructor
  · rintro ⟨_, ⟨i3, h3, i2, h2, b, -, a, -, rfl⟩, hj⟩
    obtain ⟨⟨-, h0⟩, ⟨-, h1⟩, e⟩ := (mem_ixTile_iff pos).1 hj
    rw [e]
    exact ⟨h0, h1, h2, h3⟩
  · rintro ⟨h0, h1, h2, h3⟩
    exact ⟨_, ⟨_, h3, _, h2, _, div_lt_tiles pos h1, _, div_lt_tiles pos h0, rfl⟩,
      (mem_ixTile_iff pos).2 ⟨⟨rfl, h0⟩, ⟨rfl, h1⟩, rfl⟩⟩

/-- Dimension by dimension, d3 first, the index itself names the part that it stands in. -/
theorem nodup_flatten_ixTiles : (ixTiles D t).flatten.Nodup := by
  rw [flatten_ixTiles]
  refine nodup_flatMap_of_key (fun j => j.2.2.2) List.nodup_range (fun i3 _ => ?_) (fun i3 _ j hj => ?key3)
  refine nodup_flatMap_of_key (fun j => j.2.2.1) List.nodup_range (fun i2 _ => ?_) (fun i2 _ j hj => ?key2)
  refine nodup_flatMap_of_key (fun j => j.2.1 / t) List.nodup_range (fun b _ => ?_) (fun b _ j hj => ?key1)
  refine nodup_flatMap_of_key (fun j => j.1 / t) List.nodup_range (fun a _ => nodup_ixTile ..) (fun a _ j hj => ?key0)
  all_goals simp only [List.mem_flatMap, mem_ixTile_iff pos] at hj
  case key3 =>
    obtain ⟨_, -, _, -, _, -, -, -, e⟩ := hj
    rw [e]
  case key2 =>
    obtain ⟨_, -, _, -, -, -, e⟩ := hj
    rw [e]
  case key1 =>
    obtain ⟨_, -, -, ⟨e, -⟩, -⟩ := hj
    exact e
  case key0 => exact hj.1.1

theorem ne_nil_of_mem_ixTiles {l : List Ix} (hl : l ∈ ixTiles D t) : l ≠ [] := by
  obtain ⟨i3, -, i2, -, b, hb, a, ha, rfl⟩ := mem_ixTiles_iff.1 hl
  exact ixTile_ne_nil pos hb ha

/-- An index shares the tile of another when it is of the same tile column, tile row and (d2, d3). -/
theorem mem_tile_iff_of_mem {l : List Ix} (hl : l ∈ ixTiles D t) {i j : Ix} (hi : i ∈ l) :
    j ∈ l ↔ i.1 / t = j.1 / t ∧ i.2.1 / t = j.2.1 / t ∧ i.2.2 = j.2.2 ∧ IxBelow D j := by
  obtain ⟨i3, h3, i2, h2, b, -, a, -, rfl⟩ := mem_ixTiles_iff.1 hl
  obtain ⟨⟨rfl, -⟩, ⟨rfl, -⟩, e⟩ := (mem_ixTile_iff pos).1 hi
  rw [mem_ixTile_iff pos, ixBelow_iff, e]
  constructor
  · rintro ⟨⟨e0, h0⟩, ⟨e1, h1⟩, e2⟩
    rw [e2]
    exact ⟨e0.symm, e1.symm, rfl, h0, h1, h2, h3⟩
  · rintro ⟨e0, e1, e2, h0, h1, -, -⟩
    exact ⟨⟨e0.symm, h0⟩, ⟨e1.symm, h1⟩, e2.symm⟩

end

section
variable {d : CopyD} {v : CopyV}

theorem tileSide_pos (width : d.e ∈ [1, 2, 4, 8, 16]) : 0 < 128 / d.e := by
  simp only [List.mem_cons, List.not_mem_nil, or_false] at width
  rcases width with e | e | e | e | e <;> simp [e]

theorem flatten_copyTiles_of_linear (linear : d.trans = false) : (copyTiles d v).flatten = ixAll v.dst.size := by
  rw [copyTiles, if_neg (by simp [linear]), List.flatten_singleton]

theorem copyTiles_of_trans (trans : d.trans = true) : copyTiles d v = ixTiles v.dst.size (128 / d.e) := if_pos trans

/-- A COPY takes every index of its destination once (R234, R236). -/
theorem flatten_copyTiles (width : d.e ∈ [1, 2, 4, 8, 16]) :
    (copyTiles d v).flatten.Nodup ∧ ∀ j, j ∈ (copyTiles d v).flatten ↔ IxBelow v.dst.size j := by
  cases trans : d.trans with
  | false =>
    rw [flatten_copyTiles_of_linear trans]
    exact ⟨nodup_ixAll _, fun _ => mem_ixAll_iff⟩
  | true =>
    rw [copyTiles_of_trans trans]
    exact ⟨nodup_flatten_ixTiles (tileSide_pos width), fun _ => mem_flatten_ixTiles_iff (tileSide_pos width)⟩

end

-- Elements (R229)

theorem TView.four_mul_nib (w : TView) (e : Nat) (i : Ix) : 4 * w.nib e i = 8 * (w.loc % 2 ^ 35)
    + (if e = 1 then 4 * (w.loc / 2 ^ 35 % 2) else 0) + 4 * e * (i.1 + i.2.1 * w.t1 + i.2.2.1 * w.t2 + i.2.2.2 * w.t3) := by
  unfold TView.nib
  split <;> ring

-- Source and destination indices (R233, R238, R240)

def ixSub (i o : Ix) : Ix := (i.1 - o.1, i.2.1 - o.2.1, i.2.2.1 - o.2.2.1, i.2.2.2 - o.2.2.2)

theorem ixGet_ixSub (i o : Ix) : ∀ k, ixGet (ixSub i o) k = ixGet i k - ixGet o k
  | 0 | 1 | 2 | _ + 3 => rfl

theorem ixGet_ixSet (i : Ix) (x : Nat) : ∀ g < 4, ∀ k < 4, ixGet (ixSet i g x) k = if k = g then x else ixGet i k := by
  simp [forall_lt_four, ixGet, ixSet]

/-- An index of the destination lies in the body along dimension k. -/
def InBody (d : CopyD) (v : CopyV) (j : Ix) (k : Nat) : Prop :=
  ixGet v.ofs k ≤ ixGet j k ∧ ixGet j k < ixGet v.ofs k + ixGet (v.logical d.trans) k

/-- Component k of the source index that `bodyOf` gives. -/
def bodyDim (d : CopyD) (v : CopyV) (idx : List Nat) (j : Ix) (k : Nat) : Option Nat :=
  if d.mode = 1 ∧ k = d.g then idx[ixGet j k]?
  else if ixGet v.ofs k ≤ ixGet j k ∧ ixGet j k - ixGet v.ofs k < ixGet (v.logical d.trans) k then some (ixGet j k - ixGet v.ofs k)
  else none

section
variable {d : CopyD} {v : CopyV} {idx : List Nat} {j : Ix}

theorem bodyOf_eq_some_iff {i : Ix} : bodyOf d v idx j = some i ↔
    ixCount (v.logical d.trans) ≠ 0 ∧ ∀ k < 4, bodyDim d v idx j k = some (ixGet i k) := by
  have eq : bodyOf d v idx j = if ixCount (v.logical d.trans) = 0 then none else
      (bodyDim d v idx j 0).bind fun a => (bodyDim d v idx j 1).bind fun b => (bodyDim d v idx j 2).bind fun c =>
        (bodyDim d v idx j 3).bind fun e => some (a, b, c, e) := rfl
  rw [eq, forall_lt_four, Option.ite_none_left_eq_some]
  simp only [Option.bind_eq_some_iff, Option.some.injEq]
  refine and_congr_right fun _ => ⟨?_, fun ⟨h0, h1, h2, h3⟩ => ⟨_, h0, _, h1, _, h2, _, h3, rfl⟩⟩
  rintro ⟨a, h0, b, h1, c, h2, e, h3, rfl⟩
  exact ⟨h0, h1, h2, h3⟩

theorem bodyOf_eq_none {k : Nat} (hk : k < 4) (nothing : bodyDim d v idx j k = none) : bodyOf d v idx j = none :=
  Option.eq_none_iff_forall_ne_some.2 fun i taken => by
    have dim := (bodyOf_eq_some_iff.1 taken).2 k hk
    rw [nothing] at dim
    cases dim

theorem bodyDim_of_index {k : Nat} (gather : d.mode = 1) (along : k = d.g) : bodyDim d v idx j k = idx[ixGet j k]? :=
  if_pos ⟨gather, along⟩

theorem bodyDim_of_body {k : Nat} (plain : ¬ (d.mode = 1 ∧ k = d.g)) (body : InBody d v j k) :
    bodyDim d v idx j k = some (ixGet (ixSub j v.ofs) k) := by
  obtain ⟨low, high⟩ := body
  rw [bodyDim, if_neg plain, if_pos ⟨low, by omega⟩, ixGet_ixSub]

theorem bodyDim_of_padding {k : Nat} (plain : ¬ (d.mode = 1 ∧ k = d.g)) (padding : ¬ InBody d v j k) :
    bodyDim d v idx j k = none := by
  rw [bodyDim, if_neg plain, if_neg fun ⟨low, high⟩ => padding ⟨low, by omega⟩]

theorem bodyOf_plain_of_body (plain : d.mode = 0) (body : ∀ k < 4, InBody d v j k) :
    bodyOf d v idx j = some (ixSub j v.ofs) := by
  have sizes : ∀ k < 4, ixGet (v.logical d.trans) k ≠ 0 := fun k hk zero => by
    obtain ⟨low, high⟩ := body k hk
    omega
  exact bodyOf_eq_some_iff.2 ⟨ixCount_ne_zero_iff.2 sizes, fun k hk => bodyDim_of_body (by simp [plain]) (body k hk)⟩

theorem bodyOf_gather_of_body (gather : d.mode = 1) (dim : d.g < 4) (sizes : ∀ k < 4, ixGet (v.logical d.trans) k ≠ 0)
    {x : Nat} (index : idx[ixGet j d.g]? = some x) (body : ∀ k < 4, k ≠ d.g → InBody d v j k) :
    bodyOf d v idx j = some (ixSet (ixSub j v.ofs) d.g x) := by
  refine bodyOf_eq_some_iff.2 ⟨ixCount_ne_zero_iff.2 sizes, fun k hk => ?_⟩
  rw [ixGet_ixSet _ _ _ dim _ hk]
  split
  next along => rw [bodyDim_of_index gather along, along, index]
  next across => exact bodyDim_of_body (fun h => across h.2) (body k hk across)

/-- Padding along one dimension that the index tensor does not serve is padding (R233, R238). -/
theorem bodyOf_of_padding {k : Nat} (hk : k < 4) (plain : ¬ (d.mode = 1 ∧ k = d.g)) (padding : ¬ InBody d v j k) :
    bodyOf d v idx j = none := bodyOf_eq_none hk (bodyDim_of_padding plain padding)

end

section
variable {d : CopyD} {v : CopyV} {idx : List Nat} {i : Ix} {x : Nat}

def ixAdd (i o : Ix) : Ix := (i.1 + o.1, i.2.1 + o.2.1, i.2.2.1 + o.2.2.1, i.2.2.2 + o.2.2.2)

/-- A SCATTER drops an element that would land past a size of a dimension without indices, and no other (R240). -/
theorem scatterTo_of_index (index : idx[ixGet i d.g]? = some x) :
    let j := ixSet (ixAdd i v.ofs) d.g x
    ((∀ k < 4, k ≠ d.g → ixGet j k < ixGet v.dst.size k) → scatterTo d v idx i = some j)
    ∧ ((¬ ∀ k < 4, k ≠ d.g → ixGet j k < ixGet v.dst.size k) → scatterTo d v idx i = none) := by
  intro j
  have sent : scatterTo d v idx i =
      let j := ixSet (ixAdd i v.ofs) d.g ((idx[ixGet i d.g]?).getD 0)
      if (List.range 4).all fun k => k == d.g || decide (ixGet j k < ixGet v.dst.size k) then some j else none := rfl
  have lands : ((List.range 4).all fun k => k == d.g || decide (ixGet j k < ixGet v.dst.size k)) = true ↔
      ∀ k < 4, k ≠ d.g → ixGet j k < ixGet v.dst.size k := by
    simp only [List.all_eq_true, List.mem_range, Bool.or_eq_true, beq_iff_eq, decide_eq_true_eq, or_iff_not_imp_left]
  rw [sent, index, Option.getD_some]
  exact ⟨fun inside => if_pos (lands.2 inside), fun outside => if_neg fun all => outside (lands.1 all)⟩

end

-- What is written (R233 to R240)

section
variable {d : CopyD} {v : CopyV} {idx : List Nat}

theorem copyMoves_of_body (bodies : d.mode ≤ 1) :
    copyMoves d v idx = (copyTiles d v).flatten.filterMap (moveAt d v idx) := if_pos bodies

theorem copyMoves_of_scatter (scatters : 2 ≤ d.mode) : copyMoves d v idx = (ixAll (v.logical d.trans)).filterMap fun i =>
    (scatterTo d v idx i).map fun j => (v.dst.nib d.e j, some (v.srcNib d i)) := if_neg (by omega)

/-- A destination with a zero size has no index (R235). -/
theorem copyMoves_of_empty (bodies : d.mode ≤ 1) (width : d.e ∈ [1, 2, 4, 8, 16]) (empty : ∃ k < 4, ixGet v.dst.size k = 0) :
    copyMoves d v idx = [] := by
  have nothing : (copyTiles d v).flatten = [] :=
    List.eq_nil_iff_forall_not_mem.2 fun j taken => not_ixBelow_of_zero empty j (((flatten_copyTiles width).2 j).1 taken)
  rw [copyMoves_of_body bodies, nothing, List.filterMap_nil]

end

end Sys2Proof.Machine

namespace Sys2Proof

open Machine

/-- Settles O30: the listed indices are those of the linear order, or of the tiles, and each goes where `bodyOf` or
`scatterTo` sends it, dimension by dimension. -/
theorem copyPlacesElements : Obligations.CopyPlacesElements := by
  intro d v idx size sizes dims less plus place inBody T taken
  refine ⟨fun _ _ => mem_ixAll_iff, pairwise_ixLinear_ixAll, fun w e _ _ _ _ => w.four_mul_nib e _, fun _ => rfl, ?plain, ?gather,
    fun _ _ _ _ => scatterTo_of_index, ?order, copyMoves_of_body, copyMoves_of_scatter, copyMoves_of_empty, fun _ _ _ _ => rfl⟩
  case plain =>
    refine fun plain j => ⟨bodyOf_plain_of_body plain, fun padding => ?_⟩
    obtain ⟨k, hk, outside⟩ := by simpa only [not_forall] using padding
    exact bodyOf_of_padding hk (by simp [plain]) outside
  case gather =>
    refine fun gather dim nonzero j x index => ⟨bodyOf_gather_of_body gather dim nonzero index, fun padding => ?_⟩
    obtain ⟨k, hk, across, outside⟩ := by simpa only [not_forall] using padding
    exact bodyOf_of_padding hk (fun h => across h.2) outside
  case order =>
    intro width
    obtain ⟨once, every⟩ := flatten_copyTiles (v := v) width
    refine ⟨once, every, flatten_copyTiles_of_linear, fun trans t ht => ?_⟩
    rw [copyTiles_of_trans trans] at ht
    exact ⟨ne_nil_of_mem_ixTiles (tileSide_pos width) ht, fun a ha b => mem_tile_iff_of_mem (tileSide_pos width) ht ha⟩

end Sys2Proof
end

section
/-! SUPPORT. Descriptors that the job engine takes: which state a command of their type goes on from, and what a completion leaves
(R262, R265, R266, R276). -/

namespace Sys2Proof.Machine

variable {s a : State} {n : Nat} {d : BitVec 512}

-- Taking (R262)

/-- The job engine takes descriptor d of ring n, which is not one of a stopped rewind, and a is the state after taking it. -/
structure Takes (s : State) (n : Nat) (d : BitVec 512) (a : State) : Prop where
  ring : s.takeRing = some n
  next : ∃ i, s.nextDesc n = some (i, d) ∧ s.takeOut n i d = a
  rewinds : ((a.ring n).rewindStopped && (a.ring n).faultIdx.isSome) = false

section
variable (take : Takes s n d a)
include take

/-- A descriptor of a type that the command names is taken, and the command goes on from the state after taking it. -/
theorem Takes.takeDesc_of_named {ty : Nat → Bool} (named : ty (dF d 0 1) = true) (k : State → Nat → BitVec 512 → Flow) :
    s.takeDesc ty k = (k a n d).res := by
  obtain ⟨i, next, rfl⟩ := take.next
  simp [State.takeDesc, take.ring, next, named, take.rewinds]

theorem Takes.takeDesc_of_typed {ty : Nat} (typed : dF d 0 1 = ty) (k : State → Nat → BitVec 512 → Flow) :
    s.takeDesc (· == ty) k = (k a n d).res := take.takeDesc_of_named (ty := (· == ty)) (beq_iff_eq.2 typed) k

theorem Takes.takeDesc_of_ok {ty : Nat} {t : State} {k : State → Nat → BitVec 512 → Flow} (typed : dF d 0 1 = ty)
    (ends : k a n d = .ok t) : s.takeDesc (· == ty) k = .next t :=
  (take.takeDesc_of_typed typed k).trans (congrArg Flow.res ends)

end

-- Reads of host memory leave the rings as they are (R259 to R261)

@[simp] theorem State.pumpReads_rings (s : State) : s.pumpReads.jobs.rings = s.jobs.rings := by
  unfold State.pumpReads
  split
  · rfl
  · exact foldl_keeps (·.jobs.rings) _ (fun u _ => congrArg Jobs.rings ((State.send_frame u ..).part .jobs (by decide))) _ _

@[simp] theorem State.ringRead_rings (s : State) (addr : DWord) (len : Nat) (why : ReadFor) :
    (s.ringRead addr len why).jobs.rings = s.jobs.rings := State.pumpReads_rings _

theorem State.ring_updRing (canon : Canon s) (n q : Nat) (f : RingSt → RingSt) :
    (s.updRing n f).ring q = if q = n then f (s.ring q) else s.ring q := by
  rw [State.updRing, ring_setRing canon.rings]
  split
  case isTrue same => rw [same]
  case isFalse => rfl

/-- The outstanding descriptor of a ring stays when more are fetched (R261). -/
theorem State.fetchMore_out (canon : Canon s) (n q : Nat) : ((s.fetchMore n).ring q).out = (s.ring q).out := by
  unfold State.fetchMore
  extract_lets x room m
  split
  · rfl
  · have read (u : State) (addr : DWord) (len : Nat) (why : ReadFor) : (u.ringRead addr len why).ring q = u.ring q := by
      rw [State.ring, State.ringRead_rings, State.ring]
    rw [read, State.ring_updRing canon]
    split <;> rfl

/-- A descriptor that was just taken has no outcome. -/
theorem State.takeOut_rec (canon : Canon s) (n : Nat) (i : Word) (d : BitVec 512) {o : Outst}
    (out : ((s.takeOut n i d).ring n).out = some o) : o.rec_ = none := by
  unfold State.takeOut at out
  extract_lets x replay o jobs named pools noted at out
  have named_canon : Canon named := (Frame.upd (P := [.jobs]) (Frame.refl s) rfl).canon canon
  have pools_canon : Canon pools := (Frame.ite (P := [.regs]) (fun _ => State.sweepPools_frame _) fun _ => .refl _).canon named_canon
  split at out
  case isTrue =>
    rw [State.ring_updRing pools_canon, if_pos rfl] at out
    rw [← Option.some.inj out]
  case isFalse =>
    have noted_canon : Canon (noted.setReg (Reg.RNG_DEVIDX n) (i + 1)) :=
      (State.setReg_frame ..).canon ((State.updRing_frame ..).canon pools_canon)
    rw [State.fetchMore_out noted_canon] at out
    have same : (noted.setReg (Reg.RNG_DEVIDX n) (i + 1)).ring n = noted.ring n := rfl
    rw [same, State.ring_updRing pools_canon, if_pos rfl] at out
    rw [← Option.some.inj out]

-- Completion (R276)

/-- A completion sets no register of the global block, which lies below those of the rings (R462). -/
theorem State.finish_reg (canon : Canon s) (n : Nat) {b : Nat} (global : b < 0x10000) (status detail flags : Nat) :
    (s.finish n status detail flags).reg b = s.reg b := by
  have updated {f : RingSt → RingSt} : Tab.wf none (s.updRing n f).regs = true := canon.regs
  have other : b ≠ Reg.RNG_STATE n := by
    simp only [Reg.RNG_STATE, Reg.rngBase]
    omega
  exact (reg_setRegF updated ..).trans (if_neg other)

theorem State.finish_altSet (s : State) (n status detail flags : Nat) : (s.finish n status detail flags).jobs.altSet = s.jobs.altSet := rfl

theorem State.finish_reportOnly (s : State) (n status detail flags : Nat) :
    (s.finish n status detail flags).jobs.reportOnly = s.jobs.reportOnly := rfl

/-- An outstanding descriptor without an outcome gets the one that it completes with. -/
theorem State.finish_out (canon : Canon s) {o : Outst} (out : (s.ring n).out = some o) (open_ : o.rec_ = none) (status detail flags : Nat) :
    ((s.finish n status detail flags).ring n).out = some { o with rec_ := some ⟨status, detail, flags, s.checksOf n⟩ } := by
  unfold State.finish
  extract_lets checks restart ended idle
  change (ended.ring n).out = _
  rw [State.ring_updRing canon, if_pos rfl]
  simp [out, open_, checks]

end Sys2Proof.Machine
end

section
/-! CLAIM. POLICY: the groups that VALID names, and what each leaves in the registers (R273, R405, R470). -/

namespace Sys2Proof.Machine

variable {s x : State} {n : Nat} {d : BitVec 512} {k a b lo len lo' len' v : Nat} {w : Word}

-- A group of VALID sets a register, or a field of one

/-- Group k of VALID sets a register. -/
def State.policyWord (d : BitVec 512) (k a : Nat) (w : Word) (x : State) : State :=
  if (dF d 8 4).testBit k then x.setReg a w else x

/-- Group k of VALID sets a field of a register. -/
def State.policyField (d : BitVec 512) (k a lo len v : Nat) (x : State) : State := x.policyWord d k a (setFld (x.reg a) lo len v)

theorem State.policyWord_frame (d : BitVec 512) (k a : Nat) (w : Word) (x : State) : Frame [.regs] x (x.policyWord d k a w) :=
  .ite (fun _ => State.setReg_frame ..) fun _ => .refl x

section
variable (wf : Tab.wf none x.regs = true)
include wf

theorem State.policyWord_wf : Tab.wf none (x.policyWord d k a w).regs = true := by
  unfold State.policyWord
  split
  · exact wf_setReg wf ..
  · exact wf

theorem State.policyWord_reg_same : (x.policyWord d k a w).reg a = if (dF d 8 4).testBit k then w else x.reg a := by
  unfold State.policyWord
  split
  · rw [reg_setReg wf, if_pos rfl]
  · rfl

theorem State.policyWord_reg_other (other : b ≠ a) : (x.policyWord d k a w).reg b = x.reg b := by
  unfold State.policyWord
  split
  · rw [reg_setReg wf, if_neg other]
  · rfl

theorem State.policyField_wf : Tab.wf none (x.policyField d k a lo len v).regs = true := State.policyWord_wf wf

theorem State.policyField_reg_other (other : b ≠ a) : (x.policyField d k a lo len v).reg b = x.reg b :=
  State.policyWord_reg_other wf other

theorem State.policyField_regF_same (fits : lo + len ≤ 32) :
    (x.policyField d k a lo len v).regF a lo len = if (dF d 8 4).testBit k then v % 2 ^ len else x.regF a lo len := by
  rw [State.regF, State.policyField, State.policyWord_reg_same wf, apply_ite (fld · lo len), fld_setFld_same fits, State.regF]

theorem State.policyField_regF_other (apart : lo' + len' ≤ lo ∨ lo + len ≤ lo') :
    (x.policyField d k a lo len v).regF a lo' len' = x.regF a lo' len' := by
  rw [State.regF, State.policyField, State.policyWord_reg_same wf, apply_ite (fld · lo' len'), fld_setFld_other apart, ite_self,
    State.regF]

end

-- The descriptor's groups (R273)

/-- The sampling rate of BELAY follows the code of POLICY, with the raised steps that are left. -/
def State.policyRate (d : BitVec 512) (x : State) : State := if (dF d 8 4).testBit 0 then x.setRaised x.raisedLeft else x

theorem State.policyRate_eq (d : BitVec 512) (x : State) : x.policyRate d =
    x.policyWord d 0 Reg.GLB_BELAY
      (BitVec.ofNat 32 ((if x.raisedLeft = 0 then x.regF Reg.GLB_POLICY 0 3 else 1) + x.raisedLeft * 8)) := rfl

/-- The groups of VALID that set registers. -/
def State.policyRegs (d : BitVec 512) (x : State) : State :=
  let x₁ := x.policyField d 0 Reg.GLB_POLICY 0 3 (if dF d 12 1 ≤ 5 then dF d 12 1 else 3)
  let x₂ := x₁.policyRate d
  let x₃ := x₂.policyField d 1 Reg.GLB_PWRCAP 0 8 (max 48 (min 120 (dF d 14 2)))
  let x₄ := x₃.policyWord d 2 Reg.GLB_POLCAIRN (BitVec.ofNat 32 (dF d 16 4))
  let x₅ := x₄.policyWord d 3 Reg.GLB_POLSWEEP (BitVec.ofNat 32 (dF d 20 4))
  let x₆ := x₅.policyField d 4 Reg.GLB_POLICY 8 1 (dF d 13 1 % 2)
  x₆.policyField d 6 Reg.GLB_POLICY 9 1 (dF d 13 1 / 8 % 2)

/-- Each register and field that POLICY sets reads as the descriptor has it where VALID names its group, and else as before. -/
theorem State.policyRegs_reads (wf : Tab.wf none x.regs = true) (d : BitVec 512) :
    (x.policyRegs d).regF Reg.GLB_PWRCAP 0 8 =
        (if (dF d 8 4).testBit 1 then max 48 (min 120 (dF d 14 2)) else x.regF Reg.GLB_PWRCAP 0 8)
      ∧ (x.policyRegs d).reg Reg.GLB_POLCAIRN =
        (if (dF d 8 4).testBit 2 then BitVec.ofNat 32 (dF d 16 4) else x.reg Reg.GLB_POLCAIRN)
      ∧ (x.policyRegs d).reg Reg.GLB_POLSWEEP =
        (if (dF d 8 4).testBit 3 then BitVec.ofNat 32 (dF d 20 4) else x.reg Reg.GLB_POLSWEEP)
      ∧ (x.policyRegs d).regF Reg.GLB_POLICY 8 1 =
        (if (dF d 8 4).testBit 4 then dF d 13 1 % 2 else x.regF Reg.GLB_POLICY 8 1)
      ∧ (x.policyRegs d).regF Reg.GLB_POLICY 9 1 =
        (if (dF d 8 4).testBit 6 then dF d 13 1 / 8 % 2 else x.regF Reg.GLB_POLICY 9 1) := by
  unfold State.policyRegs
  extract_lets x₁ x₂ x₃ x₄ x₅ x₆
  have wf₁ : Tab.wf none x₁.regs = true := State.policyField_wf wf
  have wf₂ : Tab.wf none x₂.regs = true := State.policyWord_wf wf₁
  have wf₃ : Tab.wf none x₃.regs = true := State.policyField_wf wf₂
  have wf₄ : Tab.wf none x₄.regs = true := State.policyWord_wf wf₃
  have wf₅ : Tab.wf none x₅.regs = true := State.policyWord_wf wf₄
  have wf₆ : Tab.wf none x₆.regs = true := State.policyField_wf wf₅
  have early {b : Nat} (policy : b ≠ Reg.GLB_POLICY) (belay : b ≠ Reg.GLB_BELAY) : x₂.reg b = x.reg b :=
    (State.policyWord_reg_other wf₁ belay).trans (State.policyField_reg_other wf policy)
  have late {b : Nat} (policy : b ≠ Reg.GLB_POLICY) :
      (x₆.policyField d 6 Reg.GLB_POLICY 9 1 (dF d 13 1 / 8 % 2)).reg b = x₅.reg b :=
    (State.policyField_reg_other wf₆ policy).trans (State.policyField_reg_other wf₅ policy)
  have flags {lo len : Nat} (code : 3 ≤ lo) : x₅.regF Reg.GLB_POLICY lo len = x.regF Reg.GLB_POLICY lo len := by
    have words : x₅.reg Reg.GLB_POLICY = x₁.reg Reg.GLB_POLICY :=
      (State.policyWord_reg_other wf₄ (by decide)).trans <| (State.policyWord_reg_other wf₃ (by decide)).trans <|
        (State.policyField_reg_other wf₂ (by decide)).trans <| State.policyWord_reg_other wf₁ (by decide)
    exact (congrArg (fld · lo len) words).trans (State.policyField_regF_other wf (.inr code))
  refine ⟨?cap, ?cairn, ?sweep, ?retire, ?raise⟩
  case cap =>
    calc _ = x₃.regF Reg.GLB_PWRCAP 0 8 := congrArg (fld · 0 8) <| (late (by decide)).trans <|
          (State.policyWord_reg_other wf₄ (by decide)).trans (State.policyWord_reg_other wf₃ (by decide))
      _ = if (dF d 8 4).testBit 1 then max 48 (min 120 (dF d 14 2)) % 2 ^ 8 else x₂.regF Reg.GLB_PWRCAP 0 8 :=
        State.policyField_regF_same wf₂ (by decide)
      _ = _ := by rw [State.regF, early (by decide) (by decide), Nat.mod_eq_of_lt (by omega), State.regF]
  case cairn =>
    calc _ = x₄.reg Reg.GLB_POLCAIRN := (late (by decide)).trans (State.policyWord_reg_other wf₄ (by decide))
      _ = if (dF d 8 4).testBit 2 then BitVec.ofNat 32 (dF d 16 4) else x₃.reg Reg.GLB_POLCAIRN := State.policyWord_reg_same wf₃
      _ = _ := by rw [State.policyField_reg_other wf₂ (by decide), early (by decide) (by decide)]
  case sweep =>
    calc _ = x₅.reg Reg.GLB_POLSWEEP := late (by decide)
      _ = if (dF d 8 4).testBit 3 then BitVec.ofNat 32 (dF d 20 4) else x₄.reg Reg.GLB_POLSWEEP := State.policyWord_reg_same wf₄
      _ = _ := by
        rw [State.policyWord_reg_other wf₃ (by decide), State.policyField_reg_other wf₂ (by decide), early (by decide) (by decide)]
  case retire =>
    calc _ = x₆.regF Reg.GLB_POLICY 8 1 := State.policyField_regF_other wf₆ (by decide)
      _ = if (dF d 8 4).testBit 4 then dF d 13 1 % 2 % 2 ^ 1 else x₅.regF Reg.GLB_POLICY 8 1 :=
        State.policyField_regF_same wf₅ (by decide)
      _ = _ := by rw [flags (by decide), pow_one, Nat.mod_mod]
  case raise =>
    calc _ = if (dF d 8 4).testBit 6 then dF d 13 1 / 8 % 2 % 2 ^ 1 else x₆.regF Reg.GLB_POLICY 9 1 :=
        State.policyField_regF_same wf₆ (by decide)
      _ = _ := by rw [State.policyField_regF_other wf₅ (by decide), flags (by decide), pow_one, Nat.mod_mod]

-- The group of the plan

/-- The group of VALID that sets the alternates and REPORT_ONLY of the plan. -/
def State.policyPlan (d : BitVec 512) (x : State) : State :=
  if (dF d 8 4).testBit 5 then
    { x with jobs := { x.jobs with
      altSet := if dF d 13 1 / 2 % 2 = 1 then x.jobs.altSet.filter fun z => z.1 != dF d 2 2 else x.jobs.altSet
      reportOnly := x.jobs.reportOnly.filter (· != dF d 2 2) ++ (if dF d 13 1 / 4 % 2 = 1 then [dF d 2 2] else []) } }
  else x

theorem State.policyPlan_eq (d : BitVec 512) (x : State) : x.policyPlan d =
    if (dF d 8 4).testBit 5 then
      { x with jobs := { x.jobs with
        altSet := if dF d 13 1 / 2 % 2 = 1 then x.jobs.altSet.filter fun z => z.1 != planOf d else x.jobs.altSet
        reportOnly :=
          let l := x.jobs.reportOnly.filter (· != planOf d)
          if dF d 13 1 / 4 % 2 = 1 then l ++ [planOf d] else l } }
    else x := by
  have listed (l : List Nat) : (l ++ if dF d 13 1 / 4 % 2 = 1 then [planOf d] else []) =
      if dF d 13 1 / 4 % 2 = 1 then l ++ [planOf d] else l := by
    split
    · rfl
    · exact List.append_nil l
  simp only [← listed]
  rfl

theorem State.policyPlan_altSet (d : BitVec 512) (x : State) : (x.policyPlan d).jobs.altSet =
    if (dF d 8 4).testBit 5 && dF d 13 1 / 2 % 2 == 1 then x.jobs.altSet.filter fun z => z.1 != dF d 2 2 else x.jobs.altSet := by
  unfold State.policyPlan
  split
  case isTrue named => simp [named]
  case isFalse unnamed => simp [unnamed]

theorem State.mem_policyPlan_reportOnly (d : BitVec 512) (x : State) (q : Nat) : q ∈ (x.policyPlan d).jobs.reportOnly ↔
    if (dF d 8 4).testBit 5 = true ∧ q = dF d 2 2 then dF d 13 1 / 4 % 2 = 1 else q ∈ x.jobs.reportOnly := by
  unfold State.policyPlan
  split
  case isTrue named =>
    by_cases same : q = dF d 2 2
    · simp [named, same]
    · simp [named, same]
  case isFalse unnamed => simp [unnamed]

theorem State.policyPlan_reg (d : BitVec 512) (x : State) (b : Nat) : (x.policyPlan d).reg b = x.reg b := by
  unfold State.policyPlan
  split <;> rfl

theorem State.policyPlan_ring (d : BitVec 512) (x : State) (q : Nat) : (x.policyPlan d).ring q = x.ring q := by
  unfold State.policyPlan
  split <;> rfl

theorem State.policyRegs_frame (d : BitVec 512) (x : State) : Frame [.regs] x (x.policyRegs d) :=
  (State.policyWord_frame ..).trans <| (State.policyWord_frame d 0 Reg.GLB_BELAY _ _).trans <| (State.policyWord_frame ..).trans <|
    (State.policyWord_frame ..).trans <| (State.policyWord_frame ..).trans <| (State.policyWord_frame ..).trans (State.policyWord_frame ..)

theorem State.policyPlan_frame (d : BitVec 512) (x : State) : Frame [.jobs] x (x.policyPlan d) :=
  .ite (fun _ => Frame.upd (.refl x) rfl) fun _ => .refl x

-- The command

section
variable {u : State} (take : Takes s n d u) (typed : dF d 0 1 = 8)
include take typed

/-- A POLICY that names no invalid plan sets the groups of VALID, and completes DONE. -/
theorem policy_of_valid (valid : (dF d 8 4).testBit 5 = true → u.planValid (dF d 2 2) = true) :
    exec .policy s = .next (((u.policyRegs d).policyPlan d).finish n 0 0 0) := by
  have named : ¬ ((dF d 8 4).testBit 5 && !u.planValid (planOf d)) = true := by
    simpa [planOf] using valid
  change execPolicy s = _
  unfold execPolicy
  refine take.takeDesc_of_ok typed ((if_neg named).trans (congrArg (fun x : State => Except.ok (x.finish n 0 0 0)) ?_))
  exact (State.policyPlan_eq d (u.policyRegs d)).symm

theorem policy_of_invalid (named : (dF d 8 4).testBit 5 = true) (invalid : u.planValid (dF d 2 2) = false) :
    exec .policy s = .next (u.finish n 7 0x10 0) := by
  change execPolicy s = _
  unfold execPolicy
  refine take.takeDesc_of_ok typed (if_pos ?_)
  simp [planOf, named, invalid]

end

end Sys2Proof.Machine

namespace Sys2Proof

open Machine

/-- Settles O45: POLICY completes in the state of its groups (`policy_of_valid`), which is read register by register. -/
theorem policyGroupsApply : Obligations.PolicyGroupsApply := by
  refine ⟨?reads, ?whole⟩
  case reads =>
    intro s n i d canon ring next a v p bits typed rewinds valid
    have taken : Canon a := (State.takeOut_frame ..).canon (canon_iff.1 canon)
    have registers : Canon (a.policyRegs d) := (State.policyRegs_frame ..).canon taken
    have applied : Canon ((a.policyRegs d).policyPlan d) := (State.policyPlan_frame ..).canon registers
    have kept {b : Nat} (global : b < 0x10000) : (((a.policyRegs d).policyPlan d).finish n 0 0 0).reg b = (a.policyRegs d).reg b :=
      (State.finish_reg applied n global ..).trans (State.policyPlan_reg ..)
    obtain ⟨cap, cairn, sweep, retire, raise⟩ := State.policyRegs_reads taken.regs d
    have jobs : (a.policyRegs d).jobs = a.jobs := (State.policyRegs_frame d a).part .jobs (by decide)
    have completes := policy_of_valid ⟨ring, ⟨i, next, rfl⟩, rewinds⟩ typed valid
    refine ⟨_, completes, (congrArg (fld · 0 8) (kept (by decide))).trans cap, (kept (by decide)).trans cairn,
      (kept (by decide)).trans sweep, (congrArg (fld · 8 1) (kept (by decide))).trans retire,
      (congrArg (fld · 9 1) (kept (by decide))).trans raise, ?alternates, fun q => ?reportOnly, fun o out => ?done,
      (execPolicy_frame s _ completes).sameBytes⟩
    case alternates => rw [State.finish_altSet, State.policyPlan_altSet, jobs]
    case reportOnly => rw [State.finish_reportOnly, State.mem_policyPlan_reportOnly, jobs]
    case done =>
      have outstanding : (((a.policyRegs d).policyPlan d).ring n).out = some o := by
        rw [State.policyPlan_ring, State.ring, jobs]
        exact out
      exact ⟨_, State.finish_out applied outstanding (State.takeOut_rec (canon_iff.1 canon) n i d out) 0 0 0⟩
  case whole =>
    intro s n i d ring next typed a v put rate plan rewinds
    have take : Takes s n d a := ⟨ring, ⟨i, next, rfl⟩, rewinds⟩
    exact ⟨policy_of_valid take typed, policy_of_invalid take typed⟩

end Sys2Proof
end

section
/-! CLAIM. The descriptors that the job engine takes, type by type (R262 to R275). -/

namespace Sys2Proof.Machine

variable {s a : State} {n : Nat} {d : BitVec 512}

-- What a transfer asks for (R269)

theorem State.enqueueTransfer_of_unit {u : MUnit} (unit : s.peerUnit d = some u) (n : Nat) :
    (s.enqueueTransfer n d).res = .next (s.enqueue n [u.region] (transferLinks d)) := by
  rw [State.enqueueTransfer, unit]
  rfl

theorem State.enqueueTransfer_of_none (unit : s.peerUnit d = none) (n : Nat) :
    (s.enqueueTransfer n d).res = .fault (.undefinedCase .u2) := by
  rw [State.enqueueTransfer, unit]
  rfl

section
variable (take : Takes s n d a)
include take

theorem nop_of_taken (typed : dF d 0 1 = 0xB) : exec .nop s = .next (a.finish n 0 0 0) := by
  change execNop s = _
  unfold execNop
  exact take.takeDesc_of_ok typed rfl

theorem descriptorTypeRefused_of_unknown (typed : dF d 0 1 = 0 ∨ 0xB < dF d 0 1) :
    exec .descriptorTypeRefused s = .next (a.finish n 6 1 0) := by
  change execDescriptorTypeRefused s = _
  unfold execDescriptorTypeRefused
  exact take.takeDesc_of_named (by simpa using typed) _

-- Transfers (R268, R269)

theorem load_of_typed (typed : dF d 0 1 = 3) : exec .load s = (a.enqueueTransfer n d).res := by
  change execLoad s = _
  unfold execLoad
  exact take.takeDesc_of_typed typed _

theorem store_of_typed (typed : dF d 0 1 = 4) : exec .store s = (a.enqueueTransfer n d).res := by
  change execStore s = _
  unfold execStore
  exact take.takeDesc_of_typed typed _

-- COPY (R246, R268)

theorem copy_of_plain {site : Nat} {block src dst : MUnit} (typed : dF d 0 1 = 2)
    (engine : a.clusterSite (dF d 10 2 % 2 ^ 14) = some site)
    (views : a.locUnit site (copyD (dBytes d)).block = some block) (plain : (copyD (dBytes d)).mode = 0)
    (source : a.locUnit site
      (copyV (a.unitPeek block ((copyD (dBytes d)).block % 2 ^ 35 / 32 * 32) 96)).src.loc = some src)
    (destination : a.locUnit site
      (copyV (a.unitPeek block ((copyD (dBytes d)).block % 2 ^ 35 / 32 * 32) 96)).dst.loc = some dst) :
    exec .copy s = .next (a.enqueue n ([siteRegion site, block.region, src.region, dst.region].eraseDups) []) := by
  change execCopy s = _
  unfold execCopy
  refine take.takeDesc_of_ok typed ?_
  simp only [engine, views, plain, source, destination]
  rfl

-- Descriptors that name a plan (R202, R266)

section
variable (invalid : a.planValid (dF d 2 2) = false)
include invalid

theorem runPlan_of_invalid (typed : dF d 0 1 = 1) : exec .runPlan s = .next (a.finish n 7 0x10 0) := by
  change execRunPlan s = _
  unfold execRunPlan
  exact take.takeDesc_of_ok typed (if_pos (by simp [planOf, invalid]))

theorem cairn_of_invalid (typed : dF d 0 1 = 5) : exec .cairn s = .next (a.finish n 7 0x10 0) := by
  change execCairn s = _
  unfold execCairn
  exact take.takeDesc_of_ok typed (if_pos (by simp [planOf, invalid]))

theorem handoff_of_invalid (typed : dF d 0 1 = 0xA) : exec .handoff s = .next (a.finish n 7 0x10 0) := by
  change execHandoff s = _
  unfold execHandoff
  exact take.takeDesc_of_ok typed (if_pos (by simp [planOf, invalid]))

end

section
variable (valid : a.planValid (dF d 2 2) = true)
include valid

theorem cairn_of_valid (typed : dF d 0 1 = 5) (columns : a.columnsOk = true) :
    exec .cairn s = .next (a.enqueue n a.gridRegions []) := by
  change execCairn s = _
  unfold execCairn
  refine take.takeDesc_of_ok typed ?_
  simp [planOf, valid, columns]

theorem handoff_of_valid (typed : dF d 0 1 = 0xA) :
    exec .handoff s = .next (a.enqueue n [] (linksOf (dF d 40 6))) := by
  change execHandoff s = _
  unfold execHandoff
  exact take.takeDesc_of_ok typed (if_neg (by simp [planOf, valid]))

/-- A RUN_PLAN whose header passes every check of R266 is taken with the policy in force (R207, R273). -/
theorem runPlan_of_header {r : Nat} {b : State} {x : List Byte} (typed : dF d 0 1 = 1) (columns : a.columnsOk = true)
    (region : a.physRegion (a.planEnt (dF d 2 2)).hreg = some r)
    (inside : (a.planEnt (dF d 2 2)).off + 256 ≤ celSpan)
    (header : a.celRead r (a.planEnt (dF d 2 2)).off 256 = (b, some x))
    (magic : Hdr.magic ⟨x⟩ = planMagic) (format : Hdr.format ⟨x⟩ = 1) (grade : Hdr.grade ⟨x⟩ = b.fuses.grade.toNat)
    (rows : Hdr.lgy ⟨x⟩ = b.rowsL) (stream : Hdr.isStream ⟨x⟩ = (b.ring n).bound) (still : b.columnsOk = true)
    (pitches : Hdr.pitches ⟨x⟩ ≠ 0) :
    exec .runPlan s = .next ((b.setOut n fun o =>
      { o with
        hreg := (a.planEnt (dF d 2 2)).hreg, hoff := (a.planEnt (dF d 2 2)).off
        belay := b.regF Reg.GLB_POLICY 0 3, noRaise := tst (b.reg Reg.GLB_POLICY) 9
        cairnInt := (b.reg Reg.GLB_POLCAIRN).toNat, reportOnly := b.jobs.reportOnly.contains (dF d 2 2)
        alts := (b.jobs.altSet.filter fun z => z.1 == dF d 2 2).map (·.2) }).planTaken n) := by
  change execRunPlan s = _
  unfold execRunPlan
  refine take.takeDesc_of_ok typed ?_
  simp [planOf, valid, columns, State.readHdr, region, State.planRead, Nat.not_lt.2 inside, header, magic, format, grade, rows, stream,
    still, pitches]

end

-- SWEEP, FENCE and BIND_STREAM (R271, R272, R274, R275)

theorem sweep_of_held (typed : dF d 0 1 = 9) (held : (((List.range 192).filter fun r =>
    (dF d 8 24).testBit r && !a.isRetired r).any a.sweepHeld) = true) :
    exec .sweep s = .next (a.finish n 4 0x30 0) := by
  change execSweep s = _
  unfold execSweep
  exact take.takeDesc_of_ok typed (if_pos held)

theorem sweep_of_free {rs : List Nat} {b : State} (typed : dF d 0 1 = 9)
    (regions : rs = (List.range 192).filter fun r => (dF d 8 24).testBit r && !a.isRetired r)
    (free : rs.any a.sweepHeld = false) (started : foldFlow State.sweepStart a rs = .ok b) :
    let c := b.setOut n fun o =>
      { o with prog := .granted, hadGrant := true, tStart := b.now, regions := rs, marginRetire := b.regF Reg.GLB_POLICY 8 1 == 1 }
    exec .sweep s = .next (if rs.any fun r => ((c.addGrant n).rg r).sweeping then c.addGrant n else (c.addGrant n).finish n 0 0 0) := by
  subst regions
  change execSweep s = _
  unfold execSweep
  refine take.takeDesc_of_ok typed ((if_neg (by simp [free])).trans ?_)
  rw [started]
  rfl

theorem fenceDescriptor_of_taken (typed : dF d 0 1 = 6) :
    exec .fenceDescriptor s = .next (a.setOut n fun o =>
      { o with
        waitFor := (List.range 64).filterMap fun q =>
          if (dF d 8 8).testBit q && q != n then (a.ring q).out.map fun o => (q, o.idx) else none
        drain := dF d 16 1 % 2 == 1 }).fenceCheck := by
  change execFenceDescriptor s = _
  unfold execFenceDescriptor
  exact take.takeDesc_of_ok typed rfl

/-- A BIND_STREAM without flags binds its ring to channels that no other ring has (R272, R309). -/
theorem bindStream_of_free (typed : dF d 0 1 = 7) (plain : dF d 11 1 = 0)
    (free : ∀ q < 64, q ≠ n → (a.ring q).ingest &&& BitVec.ofNat 16 (dF d 8 2) = 0
      ∧ (a.ring q).actuate &&& BitVec.ofNat 8 (dF d 10 1) = 0) :
    exec .bindStream s = .next ((a.setRing n { a.ring n with
      ingest := BitVec.ofNat 16 (dF d 8 2), actuate := BitVec.ofNat 8 (dF d 10 1) }).finish n 0 0 0) := by
  change execBindStream s = _
  unfold execBindStream
  refine take.takeDesc_of_ok typed ?_
  simpa [plain, State.updRing] using free

end

end Sys2Proof.Machine

namespace Sys2Proof

open Machine

/-- Settles O44, type by type. -/
theorem descriptorsTaken : Obligations.DescriptorsTaken := by
  intro s n i d ring next a ty p e rewinds
  have take : Takes s n d a := ⟨ring, ⟨i, next, rfl⟩, rewinds⟩
  refine ⟨nop_of_taken take, descriptorTypeRefused_of_unknown take,
    fun u unit => ⟨fun typed => ?load, fun typed => ?store⟩, fun unit => ⟨fun typed => ?noLoad, fun typed => ?noStore⟩,
    fun site bu su du typed => copy_of_plain take typed, fun invalid => ?invalid, fun valid => ?valid,
    fun r b x typed valid => runPlan_of_header take valid typed,
    ⟨sweep_of_held take, fun b typed => sweep_of_free take typed rfl⟩, fun typed named => ?policy,
    fenceDescriptor_of_taken take, bindStream_of_free take⟩
  case invalid =>
    exact ⟨runPlan_of_invalid take invalid, cairn_of_invalid take invalid,
      handoff_of_invalid take invalid⟩
  case valid => exact ⟨cairn_of_valid take valid, handoff_of_valid take valid⟩
  case load => exact (load_of_typed take typed).trans (State.enqueueTransfer_of_unit unit n)
  case store => exact (store_of_typed take typed).trans (State.enqueueTransfer_of_unit unit n)
  case noLoad => exact (load_of_typed take typed).trans (State.enqueueTransfer_of_none unit n)
  case noStore => exact (store_of_typed take typed).trans (State.enqueueTransfer_of_none unit n)
  case policy =>
    have completes := policy_of_valid take typed fun group => named.resolve_left (by rw [group]; decide)
    exact ⟨_, completes, (execPolicy_frame s _ completes).sameBytes⟩

end Sys2Proof
end

section
/-! CLAIM. Records, doorbells, polls and the commands of rings (R253 to R260, R281 to R284). -/

namespace Sys2Proof.Machine

variable {s : State}

-- Completion records (R258, R281, R290)

section
variable {ring : RingNo} {energy : Word} {o : Outst} {c : CompRec} (out : (s.ring ring.val).out = some o) (outcome : o.rec_ = some c)
  (external : o.internal = false)
include out outcome external

theorem completionRecordWrite_of_bracket (waits : s.bracketWaits ring.val o c = true) :
    exec (.completionRecordWrite ring energy) s = .next s := by
  change execCompletionRecordWrite ring energy s = _
  simp [execCompletionRecordWrite, out, outcome, external, waits]

variable (running : s.ringState (64 + ring.val) = rsRunning) (port : s.ringPort.isSome = true)
  (free : s.bracketWaits ring.val o c = false)
include running port free

theorem completionRecordWrite_of_full (full : s.hasSpace (64 + ring.val) = false) :
    exec (.completionRecordWrite ring energy) s = .next (s.waitSpace (64 + ring.val)) := by
  change execCompletionRecordWrite ring energy s = _
  simp [execCompletionRecordWrite, out, outcome, external, running, Option.isSome_iff_ne_none.1 port, free, full]

theorem completionRecordWrite_of_space (space : s.hasSpace (64 + ring.val) = true) (idle : s.jobs.step = none) :
    let a := ((s.postReplayed ring.val o).putCompletion ring.val o c energy).returnGrant ring.val (c.status == 2 || c.status == 0xF)
    let b := (a.updRing ring.val fun x => { x with out := none, done := o.idx + 1, underrun := false }).countPlan o
    exec (.completionRecordWrite ring energy) s = .next
      (((((b.shadow ring.val).rewindStep ring.val o.idx c.status).stopIfIdle ring.val).fenceWakes ring.val o.idx).restartDone.fetchMore
        ring.val) := by
  change execCompletionRecordWrite ring energy s = _
  simp [execCompletionRecordWrite, out, outcome, external, running, Option.isSome_iff_ne_none.1 port, free, space, idle,
    Flow.bind', Flow.res]

end

-- Event records (R258, R284)

section
variable {e : EventRec} {es : List EventRec} (oldest : s.jobs.events = e :: es) (running : s.ringState 128 = rsRunning)
  (port : s.ringPort.isSome = true)
include oldest running port

theorem eventRecordWrite_of_full (full : s.hasSpace 128 = false) : exec .eventRecordWrite s = .next (s.waitSpace 128) := by
  change execEventRecordWrite s = _
  simp [execEventRecordWrite, oldest, running, Option.isSome_iff_ne_none.1 port, full]

theorem eventRecordWrite_of_space (space : s.hasSpace 128 = true) : exec .eventRecordWrite s =
    .next ({ s with jobs := { s.jobs with events := es, loss := false } }.putRecord 128 4 (eventBytes e s.jobs.loss)
      (s.regF (Reg.RNG_CTL 128) 6 2 != 0)) := by
  change execEventRecordWrite s = _
  simp [execEventRecordWrite, oldest, running, Option.isSome_iff_ne_none.1 port, space]

end

-- Doorbells (R259, R260)

theorem nudge_of_closed {p : PortNo} {num : BitVec 8} (closed : s.linkIn (48 + p.val) = false) :
    exec (.nudge p num) s = .next s := if_pos (by simp [closed])

/-- A port that takes packets in returns the credit of a NUDGE, whatever its ring then makes of it (R336, R354). -/
theorem nudge_of_open {p : PortNo} {num : BitVec 8} (opened : s.linkIn (48 + p.val) = true) :
    exec (.nudge p num) s = .next ((s.updLnk (48 + p.val) fun k => k.owe 0 1).nudge num.toNat) := if_neg (by simp [opened])

section
variable {q : Nat} (reached : s.reach Reg.GLB_NUDGEIGN = true)
include reached

theorem State.nudge_of_running (job : q < 64) (running : s.ringState q = rsRunning) :
    s.nudge q = if s.wordRead q then s.setRing q { s.ring q with nudgeAgain := true } else s.readDoorbell q := by
  simp [State.nudge, reached, running, Nat.not_lt.2 (Nat.le_of_lt_succ job), State.updRing]

theorem State.nudge_of_other (other : 64 ≤ q ∨ s.ringState q ≠ rsRunning) : s.nudge q = s.count Reg.GLB_NUDGEIGN 0 16 1 := by
  have ignored : 63 < q ∨ s.ringState q ≠ rsRunning := other
  simp [State.nudge, reached, ignored]

end

theorem backstopPoll_of_running (reached : s.reach Reg.GLB_RINGCFG = true) (running : ∃ q < 64, s.ringState q = rsRunning) :
    exec .backstopPoll s = .next (((List.range 65).map (64 + ·)).foldl
      (fun s n => if s.regF (Reg.RNG_STATE n) 2 1 = 1 then s.readSpace n else s)
      (s.ringRead (s.doorbellAddr 0) 256 (.poll ((List.range 64).filter fun q => s.ringState q == rsRunning)))) := by
  have polled : ((List.range 64).filter fun q => s.ringState q == rsRunning).isEmpty = false := by
    simpa [List.isEmpty_eq_false_iff] using running
  change execBackstopPoll s = _
  simp [execBackstopPoll, reached, polled]

-- The commands of a ring (R254, R255)

theorem not_unreached_of_reach {a : Nat} (reached : s.reach a = true) : ¬ (!s.reach a) = true := by simp [reached]

theorem not_going_of_still {n : Nat} (still : s.ringState n = rsDisabled ∨ s.ringState n = rsStopped) :
    ¬ (s.ringState n = rsRunning ∨ s.ringState n = rsStopping) := by
  rcases still with still | still <;> simp [still]

section
variable {p : PortNo} {n : Fin 129} {v : Word} (reached : s.reach (Reg.RNG_CTL n) = true)
include reached

theorem rngEnable_of_going (going : s.ringState n = rsRunning ∨ s.ringState n = rsStopping) :
    exec (.rngEnable p n v) s = .fault (.undefinedCase .u5) :=
  (if_neg (not_unreached_of_reach reached)).trans (if_pos going)

theorem rngDisable_of_going (going : s.ringState n = rsRunning ∨ s.ringState n = rsStopping) :
    exec (.rngDisable p n v) s = .fault (.undefinedCase .u5) :=
  (if_neg (not_unreached_of_reach reached)).trans (if_pos going)

theorem rngEnable_of_stopped (stopped : s.ringState n = rsStopped) :
    exec (.rngEnable p n v) s = .next (s.writeRw (Reg.RNG_CTL n) (v ||| 0x80000000)) :=
  (if_neg (not_unreached_of_reach reached)).trans <| (if_neg (by simp [stopped])).trans (if_pos stopped)

/-- The first enable of the event ring releases the events held (R288); any other only clears and runs the ring. -/
theorem rngEnable_of_disabled (disabled : s.ringState n = rsDisabled) :
    let a := ((s.writeRw (Reg.RNG_CTL n) (v ||| 0x80000000)).clearRing n).setReg (Reg.RNG_STATE n) 1
    exec (.rngEnable p n v) s = if n.val = 128 ∧ (!a.jobs.everOn) = true then
      .next { a with jobs := { a.jobs with everOn := true, events := a.jobs.events ++ a.jobs.held, held := [] } } else .next a :=
  (if_neg (not_unreached_of_reach reached)).trans <| (if_neg (by simp [disabled])).trans (if_neg (by simp [disabled]))

section
variable (still : s.ringState n = rsDisabled ∨ s.ringState n = rsStopped)
include still

theorem rngDisable_of_outstanding (ring : n.val < 128) (out : (s.ring (n.val % 64)).out.isSome = true) :
    exec (.rngDisable p n v) s = .fault (.undefinedCase .u10) :=
  (if_neg (not_unreached_of_reach reached)).trans <| (if_neg (not_going_of_still still)).trans (if_pos ⟨ring, out⟩)

theorem rngDisable_of_free (free : 128 ≤ n.val ∨ (s.ring (n.val % 64)).out = none) :
    let a := ((s.writeRw (Reg.RNG_CTL n) (v &&& 0x7FFFFFFF)).clearRing n).setReg (Reg.RNG_STATE n) 0
    exec (.rngDisable p n v) s = .next (if n.val < 64 then State.restartDone { a with strm := { a.strm with
      wins := a.strm.wins.map fun w => w.drop fun h => h.1 == n.val } } else a) := by
  have done : ¬ (n.val < 128 ∧ (s.ring (n.val % 64)).out.isSome = true) := by
    rintro ⟨ring, out⟩
    rcases free with event | free
    · omega
    · simp [free] at out
  exact (if_neg (not_unreached_of_reach reached)).trans <| (if_neg (not_going_of_still still)).trans (if_neg done)

end

end

section
variable {p : PortNo} {n : Fin 129} (reached : s.reach (Reg.RNG_CMD n) = true)
include reached

theorem rngStop_of_running (running : s.ringState n = rsRunning) :
    exec (.rngStop p n) s = .next ((s.setRingState n rsStopping).stopIfIdle n) := if_neg (by simp [reached, running])

theorem rngResume_of_stopped (stopped : s.ringState n = rsStopped) :
    exec (.rngResume p n) s = .next ((s.setRingState n rsRunning).fetchMore n) := if_neg (by simp [reached, stopped])

end

-- GLB_RINGCFG (R283)

section
variable {p : PortNo} {v : Word} (reached : s.reach Reg.GLB_RINGCFG = true)
include reached

theorem glbRingcfgWrite_of_still (still : ∀ q < 129, s.ringState q ≠ rsRunning ∧ s.ringState q ≠ rsStopping) :
    exec (.glbRingcfgWrite p v) s =
      let a := (s.writeRw Reg.GLB_RINGCFG v).setReg Reg.GLB_RINGSTAT 0
      .next { a with jobs := { a.jobs with portGone := false } } := by
  change execGlbRingcfgWrite p v s = _
  have none_going : ((List.range 129).any fun q => s.ringState q == rsRunning || s.ringState q == rsStopping) = false := by
    simpa [List.any_eq_false] using still
  simp [execGlbRingcfgWrite, reached, none_going]

theorem glbRingcfgWrite_of_going (going : ∃ q < 129, s.ringState q = rsRunning ∨ s.ringState q = rsStopping) :
    exec (.glbRingcfgWrite p v) s = .fault (.undefinedCase .u5) := by
  change execGlbRingcfgWrite p v s = _
  have some_going : ((List.range 129).any fun q => s.ringState q == rsRunning || s.ringState q == rsStopping) = true := by
    simpa [List.any_eq_true] using going
  simp [execGlbRingcfgWrite, reached, some_going, undef]

end

end Sys2Proof.Machine

namespace Sys2Proof

open Machine

/-- Settles O48, command by command. -/
theorem ringsServed : Obligations.RingsServed := by
  intro s p n v ring energy num st q r
  refine ⟨fun o c out outcome external running port => ?completion,
    fun e es oldest running port => ⟨eventRecordWrite_of_full oldest running port, eventRecordWrite_of_space oldest running port⟩,
    nudge_of_closed, fun opened => ?nudge, backstopPoll_of_running, fun reached => ?control,
    fun reached => ⟨rngStop_of_running reached, rngResume_of_stopped reached⟩,
    fun reached => ⟨glbRingcfgWrite_of_still reached, glbRingcfgWrite_of_going reached⟩⟩
  case completion =>
    exact ⟨completionRecordWrite_of_bracket out outcome external, completionRecordWrite_of_full out outcome external running port,
      completionRecordWrite_of_space out outcome external running port⟩
  case nudge =>
    intro a reached
    have returned : exec (.nudge p num) s = .next (a.nudge q) := nudge_of_open opened
    refine ⟨fun job running unread => ?_, fun job running read => ?_, fun other => ?_⟩
    · rw [returned, State.nudge_of_running reached job running, unread]
      rfl
    · rw [returned, State.nudge_of_running reached job running, read]
      rfl
    · rw [returned, State.nudge_of_other reached other]
  case control =>
    refine ⟨fun going => ?going, rngEnable_of_stopped reached, fun disabled => ?enable, fun still => ?outstanding,
      fun still free => ?free⟩
    case going =>
      have going : s.ringState n = rsRunning ∨ s.ringState n = rsStopping := by simpa using going
      exact ⟨rngEnable_of_going reached going, rngDisable_of_going reached going⟩
    case enable =>
      intro a
      have enabled := rngEnable_of_disabled (p := p) (v := v) reached disabled
      refine ⟨fun others => enabled.trans (if_neg ?_), fun event first => enabled.trans (if_pos ⟨event, by rw [first]; rfl⟩)⟩
      rintro ⟨event, never⟩
      rcases others with job | on
      · omega
      · rw [on] at never
        cases never
    case outstanding => exact rngDisable_of_outstanding reached (by simpa using still)
    case free =>
      have disabled := rngDisable_of_free (p := p) (v := v) reached (by simpa using still) free
      exact ⟨fun later => disabled.trans (congrArg _ (if_neg (Nat.not_lt.2 later))),
        fun job => disabled.trans (congrArg _ (if_pos job))⟩

end Sys2Proof
end

section
/-! CLAIM. Ticks of the cadence: the freeze of the open window, and the value of each slot (R303 to R311, R316). -/

namespace Sys2Proof.Machine

variable {P : List Part} {s t u : State} {at_ : DWord} {wins : List WinSt}

-- What a tick leaves as it is up to the freeze

/-- The open window of s is open in t, whose last tick is `at_` and whose closed windows are `wins`: no ingest channel was
enabled or disabled since, no entry committed or applied. -/
structure WindowOpen (s : State) (at_ : DWord) (wins : List WinSt) (t : State) : Prop where
  tables : Tab.wf none t.regs = true
  control : ∀ c < 16, t.reg (Reg.GLB_INGCTL c) = s.reg (Reg.GLB_INGCTL c)
  points : t.points = s.points
  window : t.strm.window = s.strm.window
  commit : t.strm.commit = s.strm.commit
  lastTick : t.strm.lastTick = at_
  wins : t.strm.wins = wins

theorem WindowOpen.refl (tables : Tab.wf none s.regs = true) : WindowOpen s s.strm.lastTick s.strm.wins s where
  tables := tables
  control _ _ := rfl
  points := rfl
  window := rfl
  commit := rfl
  lastTick := rfl
  wins := rfl

theorem WindowOpen.filter_ingOn (same : WindowOpen s at_ wins t) :
    (List.range 16).filter t.ingOn = (List.range 16).filter s.ingOn :=
  List.filter_congr fun c hc => congrArg (tst · 0) (same.control c (List.mem_range.1 hc))

theorem WindowOpen.ite {c : Prop} [Decidable c] (same : WindowOpen s at_ wins t) (other : WindowOpen s at_ wins u) :
    WindowOpen s at_ wins (if c then t else u) := by
  split
  · exact same
  · exact other

section
variable (same : WindowOpen s at_ wins t)
include same

/-- The registers of the ingest channels lie from 0x2100 to 0x21FF (R330). -/
theorem WindowOpen.setReg {a : Nat} (v : Word) (apart : a < 0x2100 ∨ 0x2200 ≤ a) : WindowOpen s at_ wins (t.setReg a v) :=
  { same with
    tables := wf_setReg same.tables ..
    control := fun c hc => by rw [reg_setReg same.tables, if_neg (by simp only [Reg.GLB_INGCTL]; omega), same.control c hc] }

theorem WindowOpen.setRegF {a : Nat} (lo len v : Nat) (apart : a < 0x2100 ∨ 0x2200 ≤ a) : WindowOpen s at_ wins (t.setRegF a lo len v) :=
  same.setReg _ apart

theorem WindowOpen.count {a : Nat} (lo len d : Nat) (apart : a < 0x2100 ∨ 0x2200 ≤ a) : WindowOpen s at_ wins (t.count a lo len d) :=
  same.setReg _ apart

theorem WindowOpen.setAct (a : Nat) (x : ActSt) : WindowOpen s at_ wins (t.setAct a x) := { same with }

theorem WindowOpen.withJobs (j : Jobs) : WindowOpen s at_ wins { t with jobs := j } := { same with }

theorem WindowOpen.frame (frame : Frame P t u) (regs : .regs ∉ P := by decide) (strm : .strm ∉ P := by decide)
    (points : .points ∉ P := by decide) : WindowOpen s at_ wins u := by
  have regs : u.regs = t.regs := frame.part .regs regs
  have strm : u.strm = t.strm := frame.part .strm strm
  have points : u.points = t.points := frame.part .points points
  obtain ⟨tables, control, points', window, commit, lastTick, wins⟩ := same
  rw [← regs] at tables
  rw [← points] at points'
  rw [← strm] at window commit lastTick wins
  exact ⟨tables, fun c hc => by rw [← control c hc, State.reg, State.reg, regs], points', window, commit, lastTick, wins⟩

/-- An event that is lost is counted with its ring, whose registers lie above the global block. -/
theorem WindowOpen.post (code : Nat) (source : BitVec 16) (data : List (Nat × Nat)) : WindowOpen s at_ wins (t.post code source data) := by
  unfold State.post State.postAt
  extract_lets e logged st
  have logs : WindowOpen s at_ wins logged := same.frame (State.logEvent_frame ..)
  refine WindowOpen.ite (WindowOpen.ite logs (WindowOpen.ite ?_ (logs.withJobs _))) (WindowOpen.ite (logs.withJobs _) logs)
  exact (logs.withJobs _).count _ _ _ (by simp only [Reg.RNG_DROPS, Reg.rngBase]; omega)

theorem WindowOpen.postCoal (code : Nat) (source : BitVec 16) (n : Nat) (data : Nat → List (Nat × Nat)) :
    WindowOpen s at_ wins (t.postCoal code source n data) := by
  unfold State.postCoal
  extract_lets key put
  split
  · exact WindowOpen.ite (same.withJobs _) ((same.post ..).withJobs _)
  · exact (same.post ..).withJobs _

theorem WindowOpen.postSlip (w : Word) (us : Nat) : WindowOpen s at_ wins (t.postSlip w us) := by
  unfold State.postSlip
  extract_lets key put
  split
  · exact WindowOpen.ite (same.withJobs _) ((same.post ..).withJobs _)
  · exact (same.post ..).withJobs _

theorem WindowOpen.sendFrame (a : Nat) (d : List Byte) : WindowOpen s at_ wins (t.sendFrame a d) := by
  have sent (l : Nat) (o : Nat × Nat → Out) : WindowOpen s at_ wins ((pieces d.length).foldl (fun s x => s.send l 3 x.2 (o x)) t) :=
    foldl_inv (WindowOpen s at_ wins) _ (fun _ _ _ same => same.frame (State.send_frame ..)) same
  exact .ite (sent ..) (.ite (sent ..) (same.count _ _ _ (by simp only [Reg.GLB_ACTCNT]; omega)))

/-- The stream pool is pool 0, whose counters are of the global block (R328, R330). -/
theorem WindowOpen.poolRead (q : Nat) (words : List (Nat × Nat)) : WindowOpen s at_ wins (t.poolRead 0 q words).1 := by
  have poisoned {t : State} (same : WindowOpen s at_ wins t) : WindowOpen s at_ wins (t.poolPoison 0 q) :=
    (same.count (a := poolUe 0) _ _ _ (by decide)).frame (State.report_frame ..)
  have corrected := same.count (a := poolCe 0) 0 32 (words.countP fun w => w.2 == 1) (by decide)
  unfold State.poolRead
  split
  · exact same
  · split
    · split
      · exact poisoned corrected
      · exact corrected
    · split
      · exact poisoned same
      · exact same

theorem WindowOpen.poolChange : WindowOpen s at_ wins (t.poolChange 0) := .ite (same.setRegF (a := poolReg 0) _ _ _ (by decide)) same

theorem WindowOpen.actuate (a : Nat) : WindowOpen s at_ wins (t.actuate a) := by
  unfold State.actuate
  extract_lets x fresh holdover
  have count {t : State} (same : WindowOpen s at_ wins t) (lo len d : Nat) : WindowOpen s at_ wins (t.count (Reg.GLB_ACTCNT a) lo len d) :=
    same.count _ _ _ (by simp only [Reg.GLB_ACTCNT]; omega)
  have control {t : State} (same : WindowOpen s at_ wins t) (lo v : Nat) : WindowOpen s at_ wins (t.setRegF (Reg.GLB_ACTCTL a) lo 1 v) :=
    same.setRegF _ _ _ (by simp only [Reg.GLB_ACTCTL]; omega)
  have last {t : State} (same : WindowOpen s at_ wins t) (v : Word) : WindowOpen s at_ wins (t.setReg (Reg.GLB_ACTLAST a) v) :=
    same.setReg _ (by simp only [Reg.GLB_ACTLAST]; omega)
  have held {t : State} (same : WindowOpen s at_ wins t) (skip : Bool) : WindowOpen s at_ wins (holdover t skip) := by
    unfold holdover
    extract_lets y lost s₁ s₂ s₃ s₄ s₅ s₆
    have h₁ : WindowOpen s at_ wins s₁ := WindowOpen.ite (last same _) same
    have h₄ : WindowOpen s at_ wins s₄ := count (control (control (h₁.setAct ..) ..) ..) ..
    have h₅ : WindowOpen s at_ wins s₅ := by
      unfold s₅
      split
      · exact h₄.withJobs _
      · exact h₄
    exact (h₅.postCoal ..).sendFrame ..
  split
  · exact held same _
  · extract_lets p s₁ s₂ s₃
    have read : WindowOpen s at_ wins p.1 := same.poolRead ..
    exact WindowOpen.ite (held (count same ..) _) <| WindowOpen.ite (held (count (control read ..) ..) _) <|
      (control (last (read.setAct ..) _) ..).sendFrame ..
theorem WindowOpen.stamp (now : DWord) (slip : Option (Word × DWord)) :
    WindowOpen s now wins { t with strm := { t.strm with lastTick := now, slip := slip } } :=
  { same with lastTick := rfl }

theorem WindowOpen.freeUnread : WindowOpen s at_ (wins.filter fun w => !w.holds.isEmpty) t.freeUnread := by
  obtain ⟨tables, control, points, window, commit, lastTick, closed⟩ :=
    same.count (a := Reg.GLB_WINSKIP) 0 32 (t.strm.wins.countP fun w => w.holds.isEmpty && !w.used) (by decide)
  exact ⟨tables, control, points, window, commit, lastTick, congrArg (List.filter fun w : WinSt => !w.holds.isEmpty) closed⟩

end

-- The freeze and what follows it (R302, R307)

/-- A fold each of whose steps appends its element appends the list. -/
theorem foldl_appends {α β : Type} (g : β → List α) (f : β → α → β) (appends : ∀ b x, g (f b x) = g b ++ [x]) (l : List α)
    (b : β) : g (l.foldl f b) = g b ++ l := by
  induction l generalizing b with
  | nil => exact (List.append_nil _).symm
  | cons x l ih => rw [List.foldl_cons, ih, appends, List.append_assoc, List.singleton_append]

/-- The seal puts one window behind the others, with a packet of each enabled channel in ascending order. -/
theorem State.seal_strm (s : State) (pin gen : Bool) : ∃ w slots,
    (s.seal pin gen).strm = { s.strm with wins := s.strm.wins ++ [w], window := s.strm.window + 1, slots := slots }
      ∧ w.num = s.strm.window ∧ w.tick = s.strm.lastTick ∧ w.holds = [] ∧ w.used = false
      ∧ w.packets.map (·.1) = (List.range 16).filter s.ingOn := by
  unfold State.seal
  extract_lets n w₀ r next
  have strm : r.1.strm = s.strm := by
    refine foldl_keeps (fun a : State × WinSt => a.1.strm) _ (fun a c => ?_) _ (s, w₀)
    change (ite _ _ _ : State).strm = _
    split
    · rfl
    · exact (State.postCoal_frame ..).part .strm (by decide)
  have header : (r.2.num, r.2.tick, r.2.holds, r.2.used) = (n, s.strm.lastTick, [], false) := by
    refine foldl_keeps (fun a : State × WinSt => (a.2.num, a.2.tick, a.2.holds, a.2.used)) _ (fun a c => ?_) _ (s, w₀)
    rfl
  have channels : r.2.packets.map (·.1) = (List.range 16).filter s.ingOn := by
    refine foldl_appends (fun a : State × WinSt => a.2.packets.map (·.1)) _ (fun a c => ?_) _ (s, w₀)
    exact List.map_append
  simp only [Prod.mk.injEq] at header
  obtain ⟨num, tick, holds, used⟩ := header
  refine ⟨r.2, Tab.mapVals {} next s.strm.slots, ?_, num, tick, holds, used, channels⟩
  exact congrArg (fun x : StreamSt => { x with wins := x.wins ++ [r.2], window := n + 1, slots := Tab.mapVals {} next x.slots }) strm

theorem State.seal_points (s : State) (pin gen : Bool) : (s.seal pin gen).points = s.points :=
  (State.seal_frame ..).part .points (by decide)

theorem State.applyCommit_strm (s : State) : ∃ slots, s.applyCommit.strm = { s.strm with commit := none, slots := slots } := by
  unfold State.applyCommit
  split
  next none_ => exact ⟨s.strm.slots, by rw [← none_]⟩
  next => exact ⟨_, rfl⟩

theorem State.applyCommit_points (s : State) :
    s.applyCommit.points = s.strm.commit.elim s.points fun x => Tab.set 0 s.points x.1 (x.2 &&& pointMask) := by
  unfold State.applyCommit
  split
  next none_ => rw [none_]; rfl
  next some_ => rw [some_]; rfl

theorem WindowOpen.applyCommit_seal (frozen : WindowOpen s at_ wins t) (pin gen : Bool) :
    let u := (t.seal pin gen).applyCommit
    u.strm.window = s.strm.window + 1 ∧ u.strm.lastTick = at_
      ∧ (∃ w, u.strm.wins = wins ++ [w] ∧ w.num = s.strm.window ∧ w.tick = at_ ∧ w.holds = [] ∧ w.used = false
          ∧ w.packets.map (·.1) = (List.range 16).filter s.ingOn)
      ∧ u.strm.commit = none
      ∧ u.points = s.strm.commit.elim s.points (fun x => Tab.set 0 s.points x.1 (x.2 &&& pointMask)) := by
  intro u
  obtain ⟨w, _, closed, window⟩ := t.seal_strm pin gen
  obtain ⟨_, applied⟩ := (t.seal pin gen).applyCommit_strm
  have points := (t.seal pin gen).applyCommit_points
  rw [closed, State.seal_points, frozen.points, frozen.commit] at points
  rw [frozen.window, frozen.lastTick, frozen.filter_ingOn] at window
  rw [closed, frozen.window, frozen.wins] at applied
  change u.strm = _ at applied
  rw [applied]
  exact ⟨rfl, frozen.lastTick, ⟨w, rfl, window⟩, rfl, points⟩

-- A tick

/-- A tick at count `at_` leaves state t: the open window of s closed, the next one open, nothing held (R303, R307, R312). -/
def ClosesWindow (s : State) (at_ : DWord) (t : State) : Prop :=
  t.strm.window = s.strm.window + 1 ∧ t.strm.lastTick = at_
    ∧ (∃ w, t.strm.wins = (s.strm.wins.filter fun x => !x.holds.isEmpty) ++ [w] ∧ w.num = s.strm.window ∧ w.tick = at_
        ∧ w.holds = [] ∧ w.used = false ∧ w.packets.map (·.1) = (List.range 16).filter s.ingOn)
    ∧ t.strm.commit = none
    ∧ t.points = s.strm.commit.elim s.points (fun x => Tab.set 0 s.points x.1 (x.2 &&& pointMask))
    ∧ t.jobs.tickQ = [] ∧ SameBytes s t ∧ t.clusters = s.clusters

/-- The open window stays as it is up to the freeze, which closes it; what follows the commit leaves stream and points alone. -/
theorem State.tick_closes (canon : Canon s) (at_ : DWord) (pin gen forward : Bool) :
    ClosesWindow s at_ (s.tick at_ pin gen forward) := by
  unfold State.tick
  extract_lets n slipped s₁ s₂ x₂ s₃ s₄ s₅ s₆ s₇
  have ticked : Frame [.attic, .regs, .links, .jobs, .points, .strm, .resil, .out] s s₇.releaseHeld := State.tick_frame ..
  have h₀ : WindowOpen s s.strm.lastTick s.strm.wins s := .refl canon.regs
  have h₁ : WindowOpen s s.strm.lastTick s.strm.wins s₁ := WindowOpen.ite ((h₀.count _ _ _ (by decide)).postSlip ..) h₀
  have h₂ : WindowOpen s s.strm.lastTick s.strm.wins s₂ := WindowOpen.ite (h₁.count _ _ _ (by decide)) h₁
  have h₃ : WindowOpen s at_ s.strm.wins s₃ := h₂.stamp ..
  have h₄ : WindowOpen s at_ s.strm.wins s₄ := (h₃.frame (State.markEmitted_frame _)).frame (State.markMissed_frame _)
  have h₅ : WindowOpen s at_ s.strm.wins s₅ := foldl_inv (WindowOpen s at_ s.strm.wins) _ (fun _ a _ same => same.actuate a) h₄
  obtain ⟨window, lastTick, wins, commit, points⟩ := h₅.freeUnread.poolChange.applyCommit_seal pin gen
  have released : Frame [.regs, .jobs] s₆.applyCommit s₇.releaseHeld :=
    .step (.ite (fun _ => (State.pendTicks_frame _).mono (by decide)) fun _ => .refl _) (State.releaseHeld_frame s₇) (by decide)
  have strm : s₇.releaseHeld.strm = s₆.applyCommit.strm := released.part .strm (by decide)
  have kept : s₇.releaseHeld.points = s₆.applyCommit.points := released.part .points (by decide)
  rw [ClosesWindow, strm, kept]
  exact ⟨window, lastTick, wins, commit, points, rfl, ticked.sameBytes, ticked.part .clusters (by decide)⟩

-- The cadences (R308, R309, R311)

section
variable {n : Nat} {c : Cadence} {new : Bool} (canon : Canon s) (on : s.dev.base ≠ .off)
include canon on

/-- A cadence that the tick adopts is no part of what it closes. -/
theorem cadenceTick_of_due (due : s.nextTick = some (n, c, new)) (reached : n ≤ s.now.toNat) :
    ∃ t, exec .cadenceTick s = .next t ∧ ClosesWindow s s.now t := by
  have going : (s.dev.base != .off && decide (n ≤ s.now.toNat)) = true := by simp [on, reached]
  refine ⟨s.dueTick false, rfl, ?_⟩
  rw [State.dueTick, due]
  change ClosesWindow _ _ (ite _ _ _)
  rw [if_pos going]
  cases new
  · exact State.tick_closes canon ..
  · exact State.tick_closes (s := s.adopt c) ((State.adopt_frame s c).canon canon) ..

theorem pinFallbackTick_of_due (due : s.pinDue = some (n, c, new)) (reached : n ≤ 16 * s.now.toNat) :
    ∃ t, exec .pinFallbackTick s = .next t ∧ ClosesWindow s s.now t := by
  have going : (s.dev.base != .off && decide (n ≤ 16 * s.now.toNat)) = true := by simp [on, reached]
  have falls {u : State} (canon : Canon u) (now : DWord) :
      ClosesWindow u now (State.tick { u with strm := { u.strm with fallback := true } } now false true false) :=
    State.tick_closes (s := { u with strm := { u.strm with fallback := true } })
      ((Frame.withStrm (P := [.strm]) (.refl u)).canon canon) ..
  change ∃ t, execPinFallbackTick s = .next t ∧ _
  rw [execPinFallbackTick, due]
  refine ⟨_, if_pos going, ?_⟩
  cases new
  · exact falls canon s.now
  · exact falls (u := s.adopt c) ((State.adopt_frame s c).canon canon) s.now

end

theorem cadenceTick_of_none (unscheduled : s.nextTick = none) : exec .cadenceTick s = .next s := by
  change Host.Outcome.next (s.dueTick false) = _
  rw [State.dueTick, unscheduled]

theorem pinFallbackTick_of_none (unscheduled : s.pinDue = none) : exec .pinFallbackTick s = .next s := by
  change execPinFallbackTick s = _
  rw [execPinFallbackTick, unscheduled]

-- Edges of CADENCE_IN (R308, R436, R486)

/-- The capture of an edge is at most one count early or late. -/
theorem State.captured_near (s : State) : (s.captured - s.now + 1).toNat ≤ 2 := by
  have offset : s.captured - s.now + 1 = BitVec.ofNat 64 (Config.measure s.freeCtr % 3) := by
    rw [State.captured]
    ring
  rw [offset, BitVec.toNat_ofNat]
  omega

section
variable (on : s.dev.base ≠ .off)
include on

theorem cadenceInEdge_of_alias (pulse : s.alias_ = true) : exec .cadenceInEdge s = .next s.pulse :=
  (if_neg on).trans (if_pos pulse)

variable (own : s.alias_ = false) (settled : s.strm.newCad = none)
include own settled

/-- With no new cadence armed an edge meets the one in force. -/
theorem cadenceInEdge_eq : exec .cadenceInEdge s =
    if (!(s.strm.cad.map (·.pin)).getD false) = true then .next s.useFree
    else if (!decide (milli ≤ s.captured.toNat - s.strm.lastTick.toNat)) = true then .next (s.useFree.count Reg.GLB_CADIGN 0 32 1)
    else .next (State.tick { s.useFree with strm := { s.strm with fallback := false } } s.captured true false false) := by
  change execCadenceInEdge s = _
  rw [execCadenceInEdge, if_neg on, if_neg (by simp [own]), settled]
  rfl

theorem cadenceInEdge_of_unpinned (unpinned : ∀ c, s.strm.cad = some c → c.pin = false) :
    exec .cadenceInEdge s = .next s.useFree := by
  have no_pin : (s.strm.cad.map (·.pin)).getD false = false := by
    cases cad : s.strm.cad with
    | none => rfl
    | some c => exact unpinned c cad
  rw [cadenceInEdge_eq on own settled, if_pos (by simp [no_pin])]

variable {c : Cadence} (cad : s.strm.cad = some c) (pin : c.pin = true)
include cad pin

theorem cadenceInEdge_of_near (near : s.captured.toNat - s.strm.lastTick.toNat < milli) :
    exec .cadenceInEdge s = .next (s.useFree.count Reg.GLB_CADIGN 0 32 1) := by
  rw [cadenceInEdge_eq on own settled, if_neg (by simp [cad, pin]), if_pos (by simp [near])]

theorem cadenceInEdge_of_far (canon : Canon s) (far : milli ≤ s.captured.toNat - s.strm.lastTick.toNat) :
    ∃ t, exec .cadenceInEdge s = .next t ∧ ClosesWindow s s.captured t := by
  rw [cadenceInEdge_eq on own settled, if_neg (by simp [cad, pin]), if_neg (by simp [far])]
  exact ⟨_, rfl, State.tick_closes (s := { s.useFree with strm := { s.strm with fallback := false } })
    ((Frame.withStrm (P := [.strm, .freeCtr]) (.widen (State.useFree_frame s))).canon canon) ..⟩

end

-- The value of a slot (R304, R305)

section
variable {num : Word} {elem : Nat} {e : PtEnt} {x : SlotSt}

theorem sealSlot_of_invalid (invalid : e.valid = false) : sealSlot num elem e x = (0, false) := if_pos (by simp [invalid])

section
variable (valid : e.valid = true)
include valid

theorem sealSlot_of_fresh (ever : x.ever = true) (fresh : e.stale = 0 ∨ (num - x.last).toNat < e.stale) :
    sealSlot num elem e x = (x.val, false) := by
  simp only [sealSlot, valid, ever, if_pos fresh, Bool.not_true, Bool.false_eq_true, if_false, if_true]

theorem sealSlot_of_stale (ever : x.ever = true) (limit : 1 ≤ e.stale) (stale : e.stale ≤ (num - x.last).toNat) :
    sealSlot num elem e x = (toElem elem (bf16In e.fallback), true) := by
  have not_fresh : ¬ (e.stale = 0 ∨ (num - x.last).toNat < e.stale) := by omega
  simp only [sealSlot, valid, ever, if_neg not_fresh, Bool.not_true, Bool.false_eq_true, if_false, if_true]

theorem sealSlot_of_never (never : x.ever = false) :
    sealSlot num elem e x = (toElem elem (bf16In e.fallback), decide (1 ≤ e.stale)) := by
  simp only [sealSlot, valid, never, Bool.not_true, Bool.false_eq_true, if_false]

end

end

end Sys2Proof.Machine

namespace Sys2Proof

open Machine

/-- Settles O51: each tick is one of `State.tick`, which closes the window, and an edge is one of its cases; the seal table entry
by entry. -/
theorem ticksCloseWindows : Obligations.TicksCloseWindows := by
  refine ⟨fun s canonical on => ?ticks, fun num elem e x => ?slots⟩
  case ticks =>
    have canon := canon_iff.1 canonical
    exact ⟨fun _ _ _ => cadenceTick_of_due canon on, cadenceTick_of_none, fun _ _ _ => pinFallbackTick_of_due canon on,
      pinFallbackTick_of_none, cadenceInEdge_of_alias on, fun own settled => ⟨s.captured_near,
        fun _ cad pin => cadenceInEdge_of_far on own settled cad pin canon,
        fun _ cad pin => cadenceInEdge_of_near on own settled cad pin, cadenceInEdge_of_unpinned on own settled⟩⟩
  case slots =>
    refine ⟨sealSlot_of_invalid, fun valid => ⟨sealSlot_of_fresh valid, sealSlot_of_stale valid,
      fun never limit => ?_, fun never limit => ?_⟩⟩
    · rw [sealSlot_of_never valid never, decide_eq_true limit]
    · rw [sealSlot_of_never valid never, limit]
      rfl

end Sys2Proof
end

section
/-! CLAIM. Commands of the stream: point records, frees of windows, staged entries, enables, flushes and pool modes (R295 to R330). -/

namespace Sys2Proof.Machine

variable {s t : State}

-- STREAM packets (R295)

theorem stream_of_open {p : PortNo} (opened : s.linkIn (portLink p) = true) (skind : Byte) (recs : List (BitVec 24 × Word)) :
    let got := s.received (portLink p) 3 (8 * recs.length)
    exec (.stream p skind recs) s
      = if skind ≠ 0 then .next got else Flow.res (foldFlow (fun s r => s.pointRecord r.1.toNat r.2) got recs) :=
  if_neg (by simp [opened])

-- A point record (R297, R298, R300, R303)

theorem State.pointRecord_of_miss {id : Nat} {raw : Word}
    (miss : (s.pointNow (id % 131072)).valid = false ∨ (s.pointNow (id % 131072)).id ≠ id) :
    s.pointRecord id raw = .ok (s.count Reg.GLB_STRMISS 0 32 1) := by
  rw [State.pointRecord, if_pos (by simpa using miss)]

section
variable {id : Nat} {raw : Word} {e : PtEnt} (entry : s.pointNow (id % 131072) = e) (valid : e.valid = true) (named : e.id = id)
include entry valid named

theorem State.pointRecord_of_off (off : s.ingOn e.ch = false) : s.pointRecord id raw = .ok (s.ingestDrop e.ch) := by
  rw [State.pointRecord, entry, if_neg (by simp [valid, named]), if_pos (by simp [off])]

variable (on : s.ingOn e.ch = true)
include on

theorem State.pointRecord_of_past (past : s.ingSlots e.ch ≤ e.slot) : s.pointRecord id raw = .error (.undef .u2) := by
  rw [State.pointRecord, entry, if_neg (by simp [valid, named]), if_neg (by simp [on]), if_pos past]

variable (within : e.slot < s.ingSlots e.ch)
include within

theorem State.pointRecord_of_unconverted (dropped : e.convert raw (s.ingElem e.ch) = none) :
    s.pointRecord id raw = .ok (s.ingestDrop e.ch) := by
  rw [State.pointRecord, entry, if_neg (by simp [valid, named]), if_neg (by simp [on]), if_neg (Nat.not_le.2 within), dropped]

theorem State.pointRecord_of_converted {x : Word} (converted : e.convert raw (s.ingElem e.ch) = some x) :
    s.pointRecord id raw = .ok { s with strm := { s.strm with
      slots := Tab.set {} s.strm.slots (slotKey e.ch e.slot) (if s.tickReached = true
        then { Tab.get {} s.strm.slots (slotKey e.ch e.slot) with early := some x }
        else ⟨x, s.strm.window, true, none⟩) } } := by
  rw [State.pointRecord, entry, if_neg (by simp [valid, named]), if_neg (by simp [on]), if_neg (Nat.not_le.2 within), converted]

end

-- GLB_PTCMT (R302)

section
variable {p : PortNo} {v : Word} (reached : s.reach Reg.GLB_PTCMT = true)
include reached

theorem ptcmtGo_of_idle (idle : tst v 31 = false ∨ s.strm.commit.isSome = true) :
    exec (.ptcmtGo p v) s = .next (s.writeRw Reg.GLB_PTCMT v) := by
  have idle : (!tst v 31 || (s.writeRw Reg.GLB_PTCMT v).strm.commit.isSome) = true := by
    simpa [State.writeRw] using idle
  exact (if_neg (not_unreached_of_reach reached)).trans (if_pos idle)

theorem ptcmtGo_of_go (go : tst v 31 = true) (free : s.strm.commit = none) :
    let w := s.writeRw Reg.GLB_PTCMT v
    exec (.ptcmtGo p v) s = .next { w.setRegF Reg.GLB_PTCMT 30 1 1 with strm := { s.strm with
      commit := some (fld v 0 17, BitVec.ofNat 128 (ofLe ((List.range 4).flatMap fun k =>
        toLe 4 (w.reg (Reg.GLB_PTSTG k)).toNat))) } } := by
  have busy : ¬ (!tst v 31 || (s.writeRw Reg.GLB_PTCMT v).strm.commit.isSome) = true := by
    simp [State.writeRw, go, free]
  exact (if_neg (not_unreached_of_reach reached)).trans (if_neg busy)

end

-- Enables (R320)

theorem State.enableChan_of_over {a cells : Nat} (exceeds : 65536 < s.reservedCells + cells) :
    s.enableChan a cells = ((s.setRegF a 0 1 0).setRegF a 1 1 1, false) := if_pos exceeds

theorem State.enableChan_of_fits {a cells : Nat} (fits : s.reservedCells + cells ≤ 65536) :
    s.enableChan a cells = ((s.setRegF a 0 1 1).setRegF a 1 1 0, true) := if_neg (Nat.not_lt.2 fits)

section
variable {p : PortNo} {v : Word} {ch : Fin 16} (reached : s.reach (Reg.GLB_INGCTL ch) = true)
include reached

theorem ingestEnable_of_clear (clear : tst v 0 = false) :
    exec (.ingestEnable p ch v) s = .next (s.setRegF (Reg.GLB_INGCTL ch) 0 1 0) :=
  (if_neg (not_unreached_of_reach reached)).trans (if_pos (by simp [clear]))

variable (enable : tst v 0 = true)
include enable

theorem ingestEnable_of_on (on : s.ingOn ch = true) : exec (.ingestEnable p ch v) s = .next s :=
  (if_neg (not_unreached_of_reach reached)).trans <| (if_neg (by simp [enable])).trans (if_pos on)

variable (off : s.ingOn ch = false)
include off

/-- A channel that is off is enabled when the cells allow it, and its slots are then forgotten. -/
theorem ingestEnable_of_off :
    let r := s.enableChan (Reg.GLB_INGCTL ch) (s.ingCells ch)
    let forget (k : Nat) (x : SlotSt) : SlotSt := if k / 131072 = ch.val then { x with ever := false } else x
    exec (.ingestEnable p ch v) s = .next (if r.2 then
      { r.1 with strm := { r.1.strm with slots := Tab.mapVals {} forget r.1.strm.slots } } else r.1) :=
  (if_neg (not_unreached_of_reach reached)).trans <| (if_neg (by simp [enable])).trans (if_neg (ne_true_of_eq_false off))

theorem ingestEnable_of_over (exceeds : 65536 < s.reservedCells + s.ingCells ch) :
    exec (.ingestEnable p ch v) s
      = .next ((s.setRegF (Reg.GLB_INGCTL ch) 0 1 0).setRegF (Reg.GLB_INGCTL ch) 1 1 1) := by
  rw [ingestEnable_of_off reached enable off, State.enableChan_of_over exceeds]
  rfl

theorem ingestEnable_of_fits (fits : s.reservedCells + s.ingCells ch ≤ 65536) :
    let t := (s.setRegF (Reg.GLB_INGCTL ch) 0 1 1).setRegF (Reg.GLB_INGCTL ch) 1 1 0
    let forget (k : Nat) (x : SlotSt) : SlotSt := if k / 131072 = ch.val then { x with ever := false } else x
    exec (.ingestEnable p ch v) s = .next { t with strm := { t.strm with slots := Tab.mapVals {} forget t.strm.slots } } := by
  rw [ingestEnable_of_off reached enable off, State.enableChan_of_fits fits]
  rfl

end

section
variable {p : PortNo} {v : Word} {ac : Fin 8} {keep : State} (reached : s.reach (Reg.GLB_ACTCTL ac) = true)
  (cleared : s.setReg (Reg.GLB_ACTCTL ac) (s.reg (Reg.GLB_ACTCTL ac) &&& ~~~(v &&& 0x600)) = keep)
include reached cleared

theorem actuationEnable_of_clear (clear : tst v 0 = false) : exec (.actuationEnable p ac v) s
    = .next ((keep.setRegF (Reg.GLB_ACTCTL ac) 0 1 0).setAct ac { keep.act ac with item := none }) := by
  subst cleared
  exact (if_neg (not_unreached_of_reach reached)).trans (if_pos (by simp [clear]))

variable (enable : tst v 0 = true)
include enable

theorem actuationEnable_of_on (on : keep.actOn ac = true) : exec (.actuationEnable p ac v) s = .next keep := by
  subst cleared
  exact (if_neg (not_unreached_of_reach reached)).trans <| (if_neg (by simp [enable])).trans (if_pos on)

variable (off : keep.actOn ac = false)
include off

/-- A channel that is off is enabled when the cells allow it, and is then empty. -/
theorem actuationEnable_of_off :
    let r := keep.enableChan (Reg.GLB_ACTCTL ac) (keep.actCells ac)
    exec (.actuationEnable p ac v) s = .next (if r.2 then r.1.setAct ac {} else r.1) := by
  subst cleared
  exact (if_neg (not_unreached_of_reach reached)).trans <| (if_neg (by simp [enable])).trans (if_neg (ne_true_of_eq_false off))

theorem actuationEnable_of_over (exceeds : 65536 < keep.reservedCells + keep.actCells ac) :
    exec (.actuationEnable p ac v) s
      = .next ((keep.setRegF (Reg.GLB_ACTCTL ac) 0 1 0).setRegF (Reg.GLB_ACTCTL ac) 1 1 1) := by
  rw [actuationEnable_of_off reached cleared enable off, State.enableChan_of_over exceeds]
  rfl

theorem actuationEnable_of_fits (fits : keep.reservedCells + keep.actCells ac ≤ 65536) :
    exec (.actuationEnable p ac v) s
      = .next (((keep.setRegF (Reg.GLB_ACTCTL ac) 0 1 1).setRegF (Reg.GLB_ACTCTL ac) 1 1 0).setAct ac {}) := by
  rw [actuationEnable_of_off reached cleared enable off, State.enableChan_of_fits fits]
  rfl

end

-- Flushes (R325)

section
variable {p : PortNo} {q : BitVec 16} {v : Word} {c : Nat} (control : qctlReg q.toNat = some c) (reached : s.reach c = true)
include control reached

theorem flush_eq : exec (.flush p q v) s
    = .next (if tst v 16 then ((s.writeRw c v).flushQueue q.toNat).wakeFlushed q.toNat else s.writeRw c v) := by
  change execFlush p q v s = _
  rw [execFlush, control]
  exact if_neg (not_unreached_of_reach reached)

end

/-- A flushed ingest queue has no packet left in any window. -/
theorem State.flushQueue_packets {q : Nat} (ingest : q < 16) {w : WinSt} (kept : w ∈ (s.flushQueue q).strm.wins)
    {x : Nat × List Byte} (packet : x ∈ w.packets) : x.1 ≠ q := by
  rw [State.flushQueue, if_pos ingest] at kept
  obtain ⟨w, _, rfl⟩ := List.mem_map.1 kept
  simpa using (List.mem_filter.1 packet).2

-- Pool modes (R328)

theorem poolModeRequest_of_reach {p : PortNo} {pool : Fin 13} {v : Word} (reached : s.reach (poolReg pool) = true) :
    exec (.poolModeRequest p pool v) s = .next ((s.writeRw (poolReg pool) v).poolChange pool) :=
  if_neg (not_unreached_of_reach reached)

theorem poolModeChange_of_empty {pool : Fin 13} (asked : s.regF (poolReg pool) 0 1 ≠ s.regF (poolReg pool) 1 1)
    (empty : s.poolCells pool = 0) :
    exec (.poolModeChange pool) s = .next (s.setRegF (poolReg pool) 0 1 (s.regF (poolReg pool) 1 1)) :=
  congrArg Host.Outcome.next (if_pos ⟨asked, empty⟩)

end Sys2Proof.Machine

namespace Sys2Proof

open Machine

/-- Settles O50, command by command; WINDOW_FREE and the drop of its holds are the same by definition. -/
theorem streamCommands : Obligations.StreamCommands := by
  intro s p v id raw skind recs win ch ac q pool got e a b keep
  refine ⟨fun opened => ?packet, State.pointRecord_of_miss, fun valid named => ?record, rfl,
    fun reached => ⟨ptcmtGo_of_idle reached, ptcmtGo_of_go reached⟩, fun reached => ?ingest, fun reached => ?actuation,
    fun c control reached => ?flush, fun ingest w kept x packet => State.flushQueue_packets ingest kept packet,
    poolModeRequest_of_reach, poolModeChange_of_empty⟩
  case packet =>
    refine ⟨fun other => (stream_of_open opened skind recs).trans (if_pos other), fun t taken => ?_⟩
    rw [stream_of_open opened, if_neg (by simp), taken]
    rfl
  case record =>
    exact ⟨State.pointRecord_of_off rfl valid named, fun on => ⟨State.pointRecord_of_past rfl valid named on, fun within =>
      ⟨State.pointRecord_of_unconverted rfl valid named on within,
        fun _ => State.pointRecord_of_converted rfl valid named on within⟩⟩⟩
  case ingest =>
    exact ⟨ingestEnable_of_clear reached, ingestEnable_of_on reached, fun enable off =>
      ⟨ingestEnable_of_over reached enable off, ingestEnable_of_fits reached enable off⟩⟩
  case actuation =>
    exact ⟨actuationEnable_of_clear reached rfl, actuationEnable_of_on reached rfl, fun enable off =>
      ⟨actuationEnable_of_over reached rfl enable off, actuationEnable_of_fits reached rfl enable off⟩⟩
  case flush =>
    refine ⟨fun clear => ?_, fun flush => ?_⟩
    · rw [flush_eq control reached, if_neg (by simp [clear])]
    · rw [flush_eq control reached, if_pos flush]

end Sys2Proof
end

section
/-! CLAIM. A fast start: training with saved settings takes its lanes from those that the settings name (R341, R345). -/

namespace Sys2Proof.Machine

/-- What a full training saved when only lanes 0 and 1 of each direction were good: both active, and no spare. -/
def twoSavedLanes : LinkSet := { peer := 0, eq := [], tx := [0, 1], rx := [0, 1], spares := [], rxSpares := [] }

/-- Depot link 3 in TRAINING, its peer of TYPE 2 noted, with these settings saved for the PEERID that the peer has. -/
def fastStart : State :=
  { attic := { copy0 := { links := [(3, some twoSavedLanes)] } }
    regs := [(Reg.LNK_STATE 3, some 0x2001)] }

/-- Transmit lane 0 has failed; every other lane of either direction is good. -/
def lane0Failed : LaneTest := { txFailed := 1 }

/-- Of the four transmit lanes that have not failed the settings name one. -/
theorem linkState_trained_fastStart : (fastStart.trained 3 false 0 lane0Failed).linkState 3 = lsDown := by decide +kernel

theorem linkUp_fastStart : exec (.linkUp 3 false 0 lane0Failed) fastStart = .next (fastStart.trained 3 false 0 lane0Failed) := by
  change execLinkUp 3 false 0 lane0Failed fastStart = _
  exact if_pos (by decide +kernel)

end Sys2Proof.Machine

namespace Sys2Proof

open Machine

/-- Refutes O57: its clause on LINK_UP counts every lane that has not failed, where a fast start takes only those that its saved
settings name. In `fastStart` four transmit lanes and five receive lanes are good, which is to bring the link UP, but training ends
in DOWN. -/
theorem not_linkCommands : ¬ Obligations.LinkCommands := by
  intro h
  obtain ⟨_, _, _, training, _⟩ := h fastStart 0 3 false 0 lane0Failed 0 0 0 0 0 0 0 0 0 0 0 0 0 0 false (by decide +kernel)
  obtain ⟨t, trained, _, _, enough, _⟩ := training (by decide +kernel) (by decide +kernel)
  obtain ⟨up, _⟩ := enough (by decide +kernel)
  rw [linkUp_fastStart] at trained
  cases trained
  have down := linkState_trained_fastStart.symm.trans up
  split at down <;> cases down

end Sys2Proof
end

section
/-! SUPPORT. Packets that a depot sends, on a link that takes packets in (R347 to R350, R352). -/

namespace Sys2Proof.Machine

variable {s t : State}

theorem fromDepot_of_open {l : LinkNo} (opened : s.linkIn l = true) (pool n : Nat) (k : State → Res) :
    fromDepot l pool n s k = k (s.received l pool n) := if_pos opened

section
variable {l : LinkNo} {tid : Word} {epoch st : Byte} {d : List Byte} {q : DepReq} (opened : s.linkIn l = true)
include opened

-- Read data

theorem rddata_of_unasked (unasked : (s.received l 2 d.length).findReq tid true = none) :
    exec (.rddata l tid epoch st d) s = .next (s.received l 2 d.length) := by
  change execRddata l tid epoch st d s = _
  rw [execRddata, fromDepot_of_open opened, unasked]

section
variable (asked : (s.received l 2 d.length).findReq tid true = some q)
  (current : (s.received l 2 d.length).sameEpoch l epoch = true)
include asked current

theorem rddata_of_stored (stored : (s.received l 2 d.length).storeParts (d.take q.len) q.parts = .ok t) :
    exec (.rddata l tid epoch 0 d) s = .next (t.reqDone q) := by
  change execRddata l tid epoch 0 d s = _
  simp [execRddata, fromDepot_of_open opened, asked, current, stored, Flow.bind', Flow.res]

theorem rddata_of_refused (failed : st ≠ 0#8) :
    exec (.rddata l tid epoch st d) s = .next ((s.received l 2 d.length).refused q) := by
  change execRddata l tid epoch st d s = _
  simp [execRddata, fromDepot_of_open opened, asked, current, failed]

end

-- Acknowledgements and refusals

section
variable (asked : (s.received l 1 0).findReq tid false = some q) (current : (s.received l 1 0).sameEpoch l epoch = true)
include asked current

theorem wrack_of_good : exec (.wrack l tid epoch 0) s = .next ((s.received l 1 0).reqDone q) := by
  change execWrack l tid epoch 0 s = _
  simp [execWrack, fromDepot_of_open opened, asked, current]

theorem wrack_of_refused (failed : st ≠ 0#8) : exec (.wrack l tid epoch st) s = .next ((s.received l 1 0).refused q) := by
  change execWrack l tid epoch st s = _
  simp [execWrack, fromDepot_of_open opened, asked, current, failed]

end

theorem derr_of_request (asked : ((s.received l 1 0).reqs.find? fun q => q.tid == tid.toNat && q.sent) = some q) :
    exec (.derr l tid st) s = .next ((s.received l 1 0).refused q) := by
  change execDerr l tid st s = _
  rw [execDerr, fromDepot_of_open opened, asked]

theorem derr_of_noRequest (unasked : ((s.received l 1 0).reqs.find? fun q => q.tid == tid.toNat && q.sent) = none) :
    exec (.derr l tid st) s = .next ((s.received l 1 0).pullAgain l tid.toNat) := by
  change execDerr l tid st s = _
  rw [execDerr, fromDepot_of_open opened, unasked]

theorem epack_of_current (current : (s.received l 1 0).sameEpoch l epoch = true) : exec (.epack l epoch) s
    = .next ((s.received l 1 0).updLnk l fun k => { k with epackDue := false }).pumpReqs.pumpHands := by
  change execEpack l epoch s = _
  rw [execEpack, fromDepot_of_open opened, if_pos current]

-- Parts of a handoff

section
variable {jt step da : DWord} {pi : BitVec 16} {sf sto : Byte} {x : Inbound} {b : HandBind}

theorem hdata_of_unawaited (unawaited : (s.received l 2 d.length).awaited jt step pi.toNat sf.toNat sto.toNat = none) :
    exec (.hdata l epoch jt step pi sf sto da d) s = .next (s.received l 2 d.length) := by
  change execHdata l epoch jt step pi sf sto da d s = _
  rw [execHdata, fromDepot_of_open opened, unawaited]

section
variable (awaited : (s.received l 2 d.length).awaited jt step pi.toNat sf.toNat sto.toNat = some (x, b))
  (current : (s.received l 2 d.length).sameEpoch l epoch = true)
include awaited current

theorem hdata_of_outside (outside : ∃ q ∈ (s.received l 2 d.length).tagPlaces x da.toNat d.length, q.1 = 3) :
    exec (.hdata l epoch jt step pi sf sto da d) s = .fault (.undefinedCase .u2) := by
  have found : (((s.received l 2 d.length).tagPlaces x da.toNat d.length).any fun q => q.1 == 3) = true := by
    simpa only [List.any_eq_true, beq_iff_eq] using outside
  change execHdata l epoch jt step pi sf sto da d s = _
  simp [execHdata, fromDepot_of_open opened, awaited, current, found, undef]

theorem hdata_of_stored (inside : ∀ q ∈ (s.received l 2 d.length).tagPlaces x da.toNat d.length, q.1 ≠ 3)
    (stored : (s.received l 2 d.length).storeParts d ((s.received l 2 d.length).tagPlaces x da.toNat d.length) = .ok t) :
    exec (.hdata l epoch jt step pi sf sto da d) s = .next (t.checkTag { x with got := x.got + d.length } b) := by
  have none_found : (((s.received l 2 d.length).tagPlaces x da.toNat d.length).any fun q => q.1 == 3) = false := by
    simpa only [List.any_eq_false, beq_iff_eq] using inside
  change execHdata l epoch jt step pi sf sto da d s = _
  simp [execHdata, fromDepot_of_open opened, awaited, current, none_found, stored, Flow.bind', Flow.res]

end

theorem hend_of_awaited {bytes crc : Word}
    (awaited : (s.received l 0 0).awaited jt step pi.toNat sf.toNat sto.toNat = some (x, b))
    (current : (s.received l 0 0).sameEpoch l epoch = true) : exec (.hend l epoch jt step pi sf sto bytes crc) s
      = .next ((s.received l 0 0).checkTag { x with total := some (bytes.toNat, crc) } b) := by
  change execHend l epoch jt step pi sf sto bytes crc s = _
  simp [execHend, fromDepot_of_open opened, awaited, current]

end

-- Unknown PTYPEs

section
variable {pt : Byte} {tag : BitVec 2} {df : BitVec 7}

theorem unknownPtype_of_unknown (unknown : knownPtype l pt.toNat = false) (starts : tag ≠ 0#2) :
    exec (.unknownPtype l ⟨pt, tag, df⟩) s
      = .next ((s.received l (tag.toNat - 1) (64 * df.toNat)).count (Reg.LNK_CRCERR l) 0 32 1) :=
  if_neg (by simp [opened, unknown, starts])

omit opened in
theorem unknownPtype_of_known (known : knownPtype l pt.toNat = true ∨ tag = 0) : exec (.unknownPtype l ⟨pt, tag, df⟩) s = .next s :=
  if_pos (by rcases known with known | none <;> simp [*])

end

end

-- Requests and pulls unanswered

/-- A request or a pull of this number is out on the link. -/
def State.outOn (s : State) (l : LinkNo) (tid : Word) : Prop :=
  (∃ q ∈ s.reqs, q.tid = tid.toNat ∧ q.link = l.val ∧ q.sent = true) ∨ ∃ q ∈ s.pullsOn l, q.tid = tid.toNat

theorem State.outOn_iff {l : LinkNo} {tid : Word} :
    ((s.reqs.any fun q => q.tid == tid.toNat && q.link == l.val && q.sent) || (s.pullsOn l).any fun x => x.tid == tid.toNat) = true
      ↔ s.outOn l tid := by
  simp [State.outOn, and_assoc]

theorem requestTimeout_of_out {l : LinkNo} {tid : Word} (out : s.outOn l tid) :
    exec (.requestTimeout l tid) s = .next ((s.resend l).pullLost l) := if_pos (State.outOn_iff.2 out)

theorem requestTimeout_of_answered {l : LinkNo} {tid : Word} (answered : ¬ s.outOn l tid) :
    exec (.requestTimeout l tid) s = .next s := if_neg fun out => answered (State.outOn_iff.1 out)

end Sys2Proof.Machine
end

section
/-! SUPPORT. Registers at their host addresses: their blocks, their latches, and what a write of one does (R14, R15, R462 to R467). -/

namespace Sys2Proof.Machine

variable {s t : State}

-- Blocks (R462)

theorem blockOf_rng {n o : Nat} (ring : n < 256) (inside : o < 0x40) : blockOf (Reg.rngBase n + o) = some (.rng n, o) := by
  unfold blockOf
  simp only [Reg.rngBase]
  rw [if_neg (by omega), if_pos (by omega), Option.some.injEq, Prod.mk.injEq, Block.rng.injEq]
  omega

theorem blockOf_rgn {r o : Nat} (region : r < 192) (inside : o < 0x10000) : blockOf (Reg.rgnBase r + o) = some (.rgn r, o) := by
  unfold blockOf
  simp only [Reg.rgnBase]
  repeat rw [if_neg (by omega)]
  rw [if_pos (by omega), Option.some.injEq, Prod.mk.injEq, Block.rgn.injEq]
  omega

theorem blockOf_lnk {l o : Nat} (link : l < 50) (inside : o < 0x1000) : blockOf (Reg.lnkBase l + o) = some (.lnk l, o) := by
  unfold blockOf Reg.lnkBase
  by_cases depot : l < 48
  · rw [if_pos depot]
    repeat rw [if_neg (by omega)]
    rw [if_pos (by omega), Option.some.injEq, Prod.mk.injEq, Block.lnk.injEq]
    omega
  · rw [if_neg depot]
    repeat rw [if_neg (by omega)]
    rw [if_pos (by omega), Option.some.injEq, Prod.mk.injEq, Block.lnk.injEq]
    omega

-- LO registers, whose HI partner a read latches (R466)

/-- Above the GLB block lie neither its named LO registers nor those of the grid map. -/
theorem not_glbLo_of_above {a : Nat} (above : 0x10000 ≤ a) :
    ([Reg.GLB_SERIALLO, Reg.GLB_DBBASELO, Reg.GLB_SHBASELO, Reg.GLB_CADPHASELO, Reg.GLB_CAIRNBASELO, Reg.GLB_CAIRNSTEPLO,
        Reg.GLB_ENERGYLO, Reg.GLB_TIMELO].contains a || decide (0x100 ≤ a) && decide (a < 0x180) && a % 8 == 0) = false := by
  have low : ∀ b ∈ [Reg.GLB_SERIALLO, Reg.GLB_DBBASELO, Reg.GLB_SHBASELO, Reg.GLB_CADPHASELO, Reg.GLB_CAIRNBASELO,
      Reg.GLB_CAIRNSTEPLO, Reg.GLB_ENERGYLO, Reg.GLB_TIMELO], b < 0x10000 := by decide
  rw [Bool.or_eq_false_iff, List.contains_eq_mem, decide_eq_false_iff_not, decide_eq_false (p := a < 0x180) (by omega)]
  exact ⟨fun named => Nat.not_lt.2 above (low a named), by simp⟩

theorem latchLo_rng {n o : Nat} (ring : n < 256) (inside : o < 0x40) :
    latchLo (Reg.rngBase n + o) = (decide (n ≤ 128) && (o == 0 || o == 0x1C)) := by
  rw [latchLo, not_glbLo_of_above (by simp only [Reg.rngBase]; omega), blockOf_rng ring inside, Bool.false_or]

theorem latchLo_rgn {r o : Nat} (region : r < 192) (inside : o < 0x10000) : latchLo (Reg.rgnBase r + o) = false := by
  rw [latchLo, not_glbLo_of_above (by simp only [Reg.rgnBase]; omega), blockOf_rgn region inside, Bool.false_or]

-- Writes of one register

theorem thenDo_id (r : Res) {f : State → Res} (kept : ∀ u, f u = .next u) : thenDo r f = r := by
  cases r with
  | next u => exact kept u
  | fault _ => rfl
  | refused _ => rfl

/-- Only the write of a HI register takes a latch away (R467). -/
theorem State.writeWord_of_notHi {a : Nat} (notHi : latchLo (a - 4) = false ∨ regDef a = none) (p : PortNo) (v : Word) :
    s.writeWord p a v = s.writeReg p a v := by
  refine thenDo_id _ fun u => congrArg _ (if_neg ?_)
  rcases notHi with notHi | reserved
  · simp [notHi]
  · simp [reserved]

theorem State.reg_writeRw (tables : Tab.wf none s.regs = true) (a b : Nat) (v : Word) :
    (s.writeRw a v).reg b
      = if b = a then (s.reg a &&& ~~~((regDef a).getD {}).rw) ||| (v &&& ((regDef a).getD {}).rw) else s.reg b :=
  reg_setReg tables ..

theorem State.reg_writeRw_masked (tables : Tab.wf none s.regs = true) (a : Nat) (v : Word) :
    (s.writeRw a v).reg a &&& ((regDef a).getD {}).rw = v &&& ((regDef a).getD {}).rw := by
  rw [State.reg_writeRw tables, if_pos rfl]
  ext i
  simp only [BitVec.getElem_and, BitVec.getElem_or, BitVec.getElem_not]
  cases ((regDef a).getD {}).rw[i] <;> simp

theorem State.writeWord_sleepcfg (p : PortNo) (v : Word) :
    s.writeWord p Reg.GLB_SLEEPCFG v = .next (s.writeRw Reg.GLB_SLEEPCFG v) :=
  State.writeWord_of_notHi (.inl (by decide)) p v

theorem State.writeWord_timecfg (p : PortNo) (v : Word) : s.writeWord p Reg.GLB_TIMECFG v = exec (.glbTimecfgWrite p v) s :=
  State.writeWord_of_notHi (.inl (by decide)) p v

theorem State.writeWord_ringcfg (p : PortNo) (v : Word) : s.writeWord p Reg.GLB_RINGCFG v = exec (.glbRingcfgWrite p v) s :=
  State.writeWord_of_notHi (.inl (by decide)) p v

theorem State.writeWord_ptcmt (p : PortNo) (v : Word) : s.writeWord p Reg.GLB_PTCMT v = exec (.ptcmtGo p v) s :=
  State.writeWord_of_notHi (.inl (by decide)) p v

theorem State.writeWord_reserved {a : Nat} (reserved : regDef a = none) (table : ∀ o, blockOf a ≠ some (.ptb, o))
    (p : PortNo) (v : Word) : s.writeWord p a v = .next s := by
  rw [State.writeWord_of_notHi (.inr reserved)]
  unfold State.writeReg
  split
  · exact absurd ‹_› (table _)
  · rw [if_pos (by simp [reserved])]
  · rfl

-- Registers of a ring

section
variable {p : PortNo} {k : Fin 129} {v : Word}

theorem State.writeReg_rng {o : Nat} {x : RegDef} (inside : o < 0x40) (known : rngDef o = some x) :
    s.writeReg p (Reg.rngBase k + o) v = s.rngWrite p k o v := by
  have ring := k.isLt
  have block : blockOf (Reg.rngBase k + o) = some (.rng k, o) := blockOf_rng (by omega) inside
  have register : regDef (Reg.rngBase k + o) = some x := by
    rw [regDef, block]
    exact (if_pos ring).trans known
  rw [State.writeReg, block]
  simp [register]

theorem State.writeWord_rngCtl :
    s.writeWord p (Reg.RNG_CTL k) v = exec (if tst v 31 then .rngEnable p k v else .rngDisable p k v) s := by
  have ring := k.isLt
  have notHi : latchLo (Reg.rngBase k + 4) = false := by rw [latchLo_rng (by omega) (by omega)]; simp
  rw [State.writeWord_of_notHi (.inl notHi), State.writeReg_rng (by omega) rfl, apply_ite (exec · s)]
  rfl

theorem State.writeWord_rngBaselo : s.writeWord p (Reg.RNG_BASELO k) v
    = s.setupWrite (s.ringState k == rsDisabled || s.ringState k == rsStopped) (Reg.RNG_BASELO k) v := by
  have notHi : latchLo (Reg.RNG_BASELO k - 4) = false := by
    obtain ⟨n, ring⟩ := k
    cases n with
    | zero =>
      change latchLo 0xFFFC = false
      decide
    | succ n =>
      have before : Reg.RNG_BASELO (n + 1) - 4 = Reg.rngBase n + 0x3C := by simp only [Reg.RNG_BASELO, Reg.rngBase]; omega
      simp only [before]
      rw [latchLo_rng (by omega) (by omega)]
      simp
  rw [State.writeWord_of_notHi (.inl notHi), State.writeReg_rng (by omega) rfl]
  rfl

end

-- Registers of a region and of a link

section
variable {p : PortNo} {v : Word}

theorem State.writeReg_rgn {q : RegionNo} {o : Nat} {x : RegDef} (inside : o < 0x10000) (known : rgnDef o = some x) :
    s.writeReg p (Reg.rgnBase q + o) v = s.rgnWrite p q o v := by
  have block : blockOf (Reg.rgnBase q + o) = some (.rgn q, o) := blockOf_rgn q.isLt inside
  have register : regDef (Reg.rgnBase q + o) = some x := by rw [regDef, block, ← known]
  rw [State.writeReg, block]
  simp [register]

theorem State.writeReg_lnk {l : LinkNo} {o : Nat} {x : RegDef} (inside : o < 0x1000) (known : lnkDef o = some x) :
    s.writeReg p (Reg.lnkBase l + o) v = s.lnkWrite p l o v := by
  have block : blockOf (Reg.lnkBase l + o) = some (.lnk l, o) := blockOf_lnk l.isLt inside
  have register : regDef (Reg.lnkBase l + o) = some x := by rw [regDef, block, ← known]
  rw [State.writeReg, block]
  simp [register]

theorem State.writeWord_scrubint {q : RegionNo} : s.writeWord p (Reg.RGN_SCRUBINT q) v = .next (s.writeRw (Reg.RGN_SCRUBINT q) v) := by
  have notHi : latchLo (Reg.RGN_SCRUBINT q - 4) = false := latchLo_rgn (o := 0xB3FC) q.isLt (by omega)
  rw [State.writeWord_of_notHi (.inl notHi), State.writeReg_rgn (by omega) rfl]
  simp [State.rgnWrite]

theorem State.writeWord_lnkCtl_of_going {l : LinkNo} (going : s.linkState l ∈ [lsTraining, lsUp, lsDegraded]) :
    s.writeWord p (Reg.LNK_CTL l) v = .fault (.undefinedCase .u5) := by
  have notStopped : (s.linkState l == lsOff || s.linkState l == lsDown || s.linkState l == lsPeerFail) = false := by
    have going : s.linkState l = lsTraining ∨ s.linkState l = lsUp ∨ s.linkState l = lsDegraded := by simpa using going
    rcases going with going | going | going <;> rw [going] <;> rfl
  have link : s.writeReg p (Reg.LNK_CTL l) v = s.lnkWrite p l 0 v := State.writeReg_lnk (by omega) rfl
  rw [State.writeWord, link, State.lnkWrite, notStopped]
  rfl

end

end Sys2Proof.Machine
end

section
/-! CLAIM. Host accesses: reads and writes of registers and apertures, and completions (R354, R355, R463 to R466). -/

namespace Sys2Proof.Machine

variable {s t : State}

/-- The address lies in an aperture: in a larder or in the cellar (R462). -/
def inAperture (a : Nat) : Bool := (blockOf a).elim false fun b => isAperture b.1

-- MRD

section
variable {p : PortNo} {addr : BitVec 44} {n : BitVec 13} {tid : Word} (opened : s.linkIn (portLink p) = true)
include opened

section
variable (served : (s.received (portLink p) 2 0).access addr.toNat n.toNat = 0)
include served

theorem mrd_of_register (register : inAperture addr.toNat = false) : exec (.mrd p addr n tid) s
    = .next (State.readBlock p tid.toNat 2 addr.toNat 0 n.toNat (s.received (portLink p) 2 0)) := by
  change execMrd p addr n tid s = _
  rw [inAperture] at register
  simp [execMrd, opened, served, register]

theorem mrd_of_aperture (aperture : inAperture addr.toNat = true) : exec (.mrd p addr n tid) s
    = .next (State.readAperture p tid.toNat (n.toNat + 1) false addr.toNat 0 n.toNat (s.received (portLink p) 2 0)) := by
  change execMrd p addr n tid s = _
  rw [inAperture] at aperture
  simp [execMrd, opened, served, aperture]

end

theorem mrd_of_unreachable (unreachable : (s.received (portLink p) 2 0).access addr.toNat n.toNat = 1) : exec (.mrd p addr n tid) s
    = .next ((s.received (portLink p) 2 0).answer p tid.toNat 1 0 (List.replicate n.toNat 0xFF)) := by
  change execMrd p addr n tid s = _
  simp [execMrd, opened, unreachable, onesBytes]

theorem mrd_of_unsupported (unsupported : 2 ≤ (s.received (portLink p) 2 0).access addr.toNat n.toNat) : exec (.mrd p addr n tid) s
    = .next ((s.received (portLink p) 2 0).answer p tid.toNat 2 0 []) := by
  obtain ⟨k, status⟩ := Nat.exists_eq_add_of_le' unsupported
  change execMrd p addr n tid s = _
  simp [execMrd, opened, status]

end

/-- Registers that one domain holds are answered in one part (R355). -/
theorem State.readBlock_of_oneDomain {p tid a n : Nat} (nonzero : n ≠ 0) (one : domainLen a n = n) (reached : s.reach a = true) :
    State.readBlock p tid 2 a 0 n s
      = (State.readWords p (n / 4) a s []).1.answer p tid 0 0 (State.readWords p (n / 4) a s []).2 := by
  simp [State.readBlock, nonzero, one, reached]

-- MWR and the write of one register

theorem inAperture_of_block {a o : Nat} {b : Block} (block : blockOf a = some (b, o)) : inAperture a = isAperture b := by
  rw [inAperture, block]
  rfl

/-- A register of four bytes lies in one domain: it is served only where that domain can be reached (R465). -/
theorem State.reach_of_access {a : Nat} (register : inAperture a = false) (served : s.access a 4 = 0) : s.reach a = true := by
  unfold State.access at served
  unfold inAperture at register
  split at served
  · cases served
  · by_contra unreached
    split_ifs at served <;> simp_all

section
variable {p : PortNo} {addr : BitVec 44} {d : List Byte} (opened : s.linkIn (portLink p) = true)
include opened

theorem mwr_of_discarded (discarded : (s.received (portLink p) 2 d.length).access addr.toNat d.length ≠ 0) :
    exec (.mwr p addr d) s = .next (s.received (portLink p) 2 d.length) := by
  change execMwr p addr d s = _
  simp [execMwr, opened, discarded]

variable (served : (s.received (portLink p) 2 d.length).access addr.toNat d.length = 0)
include served

theorem mwr_of_register (register : inAperture addr.toNat = false) :
    exec (.mwr p addr d) s = State.writeWords p (d.length / 4) addr.toNat d (s.received (portLink p) 2 d.length) := by
  change execMwr p addr d s = _
  rw [inAperture] at register
  simp [execMwr, opened, served, register]

theorem mwr_of_aperture (aperture : inAperture addr.toNat = true) :
    exec (.mwr p addr d) s = State.writeAperture (d.length + 1) addr.toNat d (s.received (portLink p) 2 d.length) := by
  change execMwr p addr d s = _
  rw [inAperture] at aperture
  simp [execMwr, opened, served, aperture]

end

theorem State.writeWords_one {p : PortNo} {a : Nat} {d : List Byte} (reached : s.reach a = true) (word : d.length = 4) :
    State.writeWords p 1 a d s = s.writeWord p a (BitVec.ofNat 32 (ofLe d)) := by
  have whole : d.take 4 = d := List.take_of_length_le (Nat.le_of_eq word)
  rw [State.writeWords, if_pos reached, whole]
  exact thenDo_id _ fun _ => rfl

theorem mwr_sleepcfg {p : PortNo} {addr : BitVec 44} {d : List Byte} (opened : s.linkIn (portLink p) = true)
    (at_ : addr.toNat = Reg.GLB_SLEEPCFG) (word : d.length = 4)
    (served : (s.received (portLink p) 2 d.length).access addr.toNat 4 = 0) :
    exec (.mwr p addr d) s = .next ((s.received (portLink p) 2 d.length).writeRw addr.toNat (BitVec.ofNat 32 (ofLe d))) := by
  have register : inAperture addr.toNat = false := by rw [at_]; decide
  have reached : (s.received (portLink p) 2 d.length).reach addr.toNat = true := State.reach_of_access register served
  rw [mwr_of_register opened (by rw [word] at served ⊢; exact served) register]
  rw [word] at reached ⊢
  rw [State.writeWords_one reached word, at_, State.writeWord_sleepcfg]

section
variable {p : PortNo} {addr : BitVec 44} {v : Word}

theorem registerWrite_of_discarded (discarded : s.access addr.toNat 4 ≠ 0) : exec (.registerWrite p addr v) s = .next s :=
  if_pos (by simp [discarded])

theorem registerWrite_of_aperture (aperture : inAperture addr.toNat = true) : exec (.registerWrite p addr v) s = .next s :=
  if_pos (Bool.or_eq_true_iff.2 (.inr aperture))

variable {a : Nat} (at_ : addr.toNat = a) (served : s.access addr.toNat 4 = 0)
include at_ served

theorem registerWrite_at (register : inAperture a = false) : exec (.registerWrite p addr v) s = s.writeWord p a v := by
  subst at_
  rw [inAperture] at register
  exact if_neg (by simp [served, register])

theorem registerWrite_reserved (reserved : regDef a = none) (table : ∀ o, blockOf a ≠ some (.ptb, o)) :
    exec (.registerWrite p addr v) s = .next s := by
  cases place : inAperture a with
  | true => exact registerWrite_of_aperture (by rw [at_, place])
  | false => rw [registerWrite_at at_ served place, State.writeWord_reserved reserved table]

end

-- Completions

section
variable {p : PortNo} {tid off : Word} {st : Byte} {d : List Byte} (opened : s.linkIn (portLink p) = true)
include opened

theorem cpl_of_unasked (unasked : (s.jobs.reads.find? fun x => x.tid == tid.toNat && x.sent && x.port == p.val) = none) :
    exec (.cpl p tid st off d) s = .next (s.received (portLink p) 2 d.length) := by
  change execCpl p tid st off d s = _
  rw [execCpl, if_neg (by simp [opened]), unasked]

theorem cpl_of_part {x : HostRead} (asked : (s.jobs.reads.find? fun x => x.tid == tid.toNat && x.sent && x.port == p.val) = some x)
    (next : off.toNat = x.got.length) (part : x.got.length + d.length < x.len) :
    exec (.cpl p tid 0 off d) s = .next { s.received (portLink p) 2 d.length with
      jobs := { (s.received (portLink p) 2 d.length).jobs with
        reads := s.jobs.reads.map fun y => if y.tid = x.tid then { y with got := x.got ++ d } else y } } := by
  have whole : (x.got ++ d).take x.len = x.got ++ d := List.take_of_length_le (by simp; omega)
  change execCpl p tid 0 off d s = _
  rw [execCpl, if_neg (by simp [opened]), asked]
  simp [next, whole, part]
  rfl

end

theorem rcRead_of_clearing {p : PortNo} {addr : BitVec 44} {tid : Word} (opened : s.linkIn (portLink p) = true)
    (clearing : ((regDef addr.toNat).getD {}).rc ≠ 0) : exec (.rcRead p addr tid) s = .next (s.readOne p addr.toNat tid) :=
  if_neg (by rw [opened, beq_eq_false_iff_ne.2 clearing]; decide)

theorem latchingLoRead_of_lo {p : PortNo} {addr : BitVec 44} {tid : Word} (opened : s.linkIn (portLink p) = true)
    (lo : latchLo addr.toNat = true) : exec (.latchingLoRead p addr tid) s = .next (s.readOne p addr.toNat tid) :=
  if_neg (by simp [opened, lo])

-- SHUTDOWN, BRINGUP and the retry (R441, R446)

theorem shutdown_of_idle {p : PortNo} (reached : s.reach Reg.GLB_DEVCMD = true) (ready : s.devState = 2)
    (idle : ∀ k < 64, (s.ring k).out = none) :
    exec (.shutdown p) s = .next { s with dev := { s.dev with next := none } }.dropRails := by
  have none_out : ((List.range 64).any fun n => (s.ring n).out.isSome) = false := by simpa [List.any_eq_false] using idle
  exact if_neg (by simp [reached, ready, none_out])

theorem bringup_of_aon {p : PortNo} (reached : s.reach Reg.GLB_DEVCMD = true) (aon : s.dev.base = .aon) (still : s.dev.next = none) :
    exec (.bringup p) s
      = .next { s.newBringup with dev := { s.dev with next := some .railsUp, retried := false, retryDue := false } } :=
  if_neg (by simp [reached, aon, still])

theorem autoretry_of_due (aon : s.dev.base = .aon) (due : s.dev.retryDue = true) (still : s.dev.next = none) :
    exec .autoretry s = .next { s with dev := { s.dev with next := some .railsUp, retried := true, retryDue := false } } :=
  if_pos ⟨aon, due, by rw [still]; rfl⟩

end Sys2Proof.Machine

namespace Sys2Proof

open Machine

/-- Settles O58, command by command. -/
theorem depotAndHostPackets : Obligations.DepotAndHostPackets := by
  intro s p l tid v off epoch st pt d addr n jt step pi sf sto da bytes crc tag df back a hp hw
  refine ⟨fun opened => ?depot, ⟨requestTimeout_of_out, requestTimeout_of_answered⟩, fun opened => ?host, fun served at_ => ?setup,
    fun served => ?register, registerWrite_of_discarded, fun reached => ⟨shutdown_of_idle reached, bringup_of_aon reached⟩,
    autoretry_of_due⟩
  case depot =>
    refine ⟨fun q asked current => ⟨fun t => rddata_of_stored opened asked current, rddata_of_refused opened asked current⟩,
      rddata_of_unasked opened, fun q asked current => ⟨wrack_of_good opened asked current, wrack_of_refused opened asked current⟩,
      fun q => derr_of_request opened, derr_of_noRequest opened, epack_of_current opened, hdata_of_unawaited opened,
      fun x b awaited current =>
        ⟨hdata_of_outside opened awaited current, fun inside t => hdata_of_stored opened awaited current inside⟩,
      fun x b => hend_of_awaited opened, unknownPtype_of_unknown opened, unknownPtype_of_known⟩
  case host =>
    intro plain
    have aperture (inside : ¬ plain) : inAperture a = true := Bool.eq_true_of_not_eq_false inside
    refine ⟨mrd_of_register opened, fun served register nonzero one reached => ?_,
      fun served inside => mrd_of_aperture opened served (aperture inside),
      mrd_of_unreachable opened, mrd_of_unsupported opened, mwr_of_discarded opened,
      fun served register t written => (mwr_of_register opened served register).trans written,
      fun served inside => mwr_of_aperture opened served (aperture inside), mwr_sleepcfg opened, cpl_of_unasked opened,
      fun x => cpl_of_part opened, rcRead_of_clearing opened, latchingLoRead_of_lo opened⟩
    have nonzero : n.toNat ≠ 0 := fun zero => nonzero (BitVec.eq_of_toNat_eq zero)
    rw [mrd_of_register opened served register, State.readBlock_of_oneDomain nonzero one reached]
  case setup =>
    refine ⟨s.writeRw a v, ?_, rfl, fun canonical => ?_⟩
    · rw [at_]
      exact (registerWrite_at at_ served (by decide)).trans (State.writeWord_sleepcfg p v)
    · have tables := (canon_iff.1 canonical).regs
      exact ⟨State.reg_writeRw_masked tables a v, fun b other => (State.reg_writeRw tables a b v).trans (if_neg other)⟩
  case register =>
    refine ⟨fun at_ => ?_, fun at_ => ?_, fun at_ => ?_, fun k at_ => ?_, fun k at_ => ?_, fun at_ going => ?_, fun q at_ => ?_,
      registerWrite_reserved rfl served⟩
    · exact (registerWrite_at at_ served (by decide)).trans (State.writeWord_timecfg p v)
    · exact (registerWrite_at at_ served (by decide)).trans (State.writeWord_ringcfg p v)
    · exact (registerWrite_at at_ served (by decide)).trans (State.writeWord_ptcmt p v)
    · exact (registerWrite_at at_ served (inAperture_of_block (blockOf_rng (by omega) (by omega)))).trans State.writeWord_rngCtl
    · have written := (registerWrite_at (v := v) (p := p) at_ served (inAperture_of_block (blockOf_rng (by omega) (by omega)))).trans
        State.writeWord_rngBaselo
      rw [at_]
      refine ⟨fun still => ?_, fun going => ?_⟩
      · have still : s.ringState k = rsDisabled ∨ s.ringState k = rsStopped := by simpa using still
        rw [written]
        rcases still with still | still <;> rw [still] <;> rfl
      · have going : s.ringState k = rsRunning ∨ s.ringState k = rsStopping := by simpa using going
        rw [written]
        rcases going with going | going <;> rw [going] <;> rfl
    · exact (registerWrite_at at_ served (inAperture_of_block (blockOf_lnk l.isLt (by omega)))).trans
        (State.writeWord_lnkCtl_of_going going)
    · rw [at_]
      exact (registerWrite_at at_ served (inAperture_of_block (blockOf_rgn q.isLt (by omega)))).trans State.writeWord_scrubint

end Sys2Proof
end

section
/-! CLAIM. What a step takes from the queue, the reference count that an empty queue stands for, cores that do not issue, and
the state at reset (R107 to R109, R431, R444, R462). -/

namespace Sys2Proof.Machine

variable {s : State}

-- A reference count (R431)

theorem State.passCount_of_off (off : s.dev.base = .off) : s.passCount = s := if_pos off

/-- No write of the attic is under way, so none goes on. -/
theorem State.atticWrites_of_none (saving : s.dev.saving = none) (flashing : s.dev.flashing = none) : s.atticWrites = s := by
  simp only [State.atticWrites, State.endSave, saving, flashing]

/-- Without a swap of lanes and without a write of the attic, a count is one of the time source alone. -/
theorem State.passCount_of_quiet (on : s.dev.base ≠ .off) (noSwap : ∀ e ∈ s.links, e.2.swaps = [])
    (saving : s.dev.saving = none) (flashing : s.dev.flashing = none) : s.passCount = s.refCount := by
  have due : (s.links.filter fun e => !e.2.swaps.isEmpty) = [] := List.filter_eq_nil_iff.2 fun e he => by simp [noSwap e he]
  rw [State.passCount, if_neg on, due]
  exact State.atticWrites_of_none saving flashing

theorem step_of_empty (empty : s.pending = []) : step s = .next s.passCount := by rw [step, empty]

-- Cores

/-- Each instruction that a core issues is, by its definition, a choice on whether the core issues (R107). -/
theorem exec_of_idle {i : Instr} {c : SiteNo} (issued : i.core = some c) (idle : s.coreReady c = false) : exec i s = .next s := by
  cases i <;> cases issued <;> exact if_neg (Bool.eq_false_iff.1 idle)

end Sys2Proof.Machine

namespace Sys2Proof

open Machine

/-- Settles O1: it is how a step is defined. -/
theorem stepTakesFrontCommand : Obligations.StepTakesFrontCommand := fun _ _ _ => rfl

/-- Settles O2, by what a reference count brings and by how a core issues. -/
theorem idleQueueAndIdleCores : Obligations.IdleQueueAndIdleCores := by
  refine ⟨fun s empty off => ?_, fun s empty on noSwap saving flashing => ?_, fun i c s => exec_of_idle⟩
  · rw [step_of_empty empty, State.passCount_of_off off]
  · refine ⟨s.refCount, ?_, rfl, rfl, rfl, rfl⟩
    rw [step_of_empty empty, State.passCount_of_quiet on noSwap saving flashing]

/-- Settles O3: no table lists anything at reset. -/
theorem resetReadsResetColumns : Obligations.ResetReadsResetColumns :=
  ⟨fun _ => rfl, fun _ _ => rfl, fun _ _ => rfl, fun _ => rfl, rfl, rfl, rfl, rfl, rfl, rfl, rfl, rfl, rfl, canon_iff.2 reset_canon⟩

/-- Settles O5: the frame of every command keeps the queue. -/
theorem commandsLeaveTheQueue : Obligations.CommandsLeaveTheQueue := by
  intro i s t h
  have framed : Frame Part.all s t := (exec_frame i s).of_eq h
  exact framed.pending

end Sys2Proof
end

section
/-! SUPPORT. Bits of host registers that operations leave as they are (R14 to R17). -/

namespace Sys2Proof.Machine

variable {A : Nat → Nat → Prop} {P : List Part} {s t u : State}

theorem tst_of_setFld_other {w : Word} {lo len v i : Nat} (apart : i < lo ∨ lo + len ≤ i) : tst (setFld w lo len v) i = tst w i := by
  rw [tst_setFld, if_neg (by omega)]

theorem fld_congr {w x : Word} {lo len : Nat} (same : ∀ i, lo ≤ i → i < lo + len → tst w i = tst x i) : fld w lo len = fld x lo len := by
  apply Nat.eq_of_testBit_eq
  intro i
  rw [testBit_fld, testBit_fld]
  by_cases inside : i < len
  · rw [show w.getLsbD (lo + i) = x.getLsbD (lo + i) from same (lo + i) (by omega) (by omega)]
  · simp [inside]

theorem word_congr {w x : Word} (same : ∀ i < 32, tst w i = tst x i) : w = x := BitVec.eq_of_getLsbD_eq same

/-- From s to t the registers stay canonical, and every bit that A names by address and place reads as before. -/
structure KeepsBits (A : Nat → Nat → Prop) (s t : State) : Prop where
  tables : Tab.wf none t.regs = true
  bit : ∀ a i, A a i → tst (t.reg a) i = tst (s.reg a) i

theorem KeepsBits.refl (tables : Tab.wf none s.regs = true) : KeepsBits A s s := ⟨tables, fun _ _ _ => rfl⟩

/-- Registers that are the same list read the same. -/
theorem KeepsBits.of_regs (tables : Tab.wf none s.regs = true) (regs : t.regs = s.regs) : KeepsBits A s t :=
  ⟨regs ▸ tables, fun a i _ => by rw [State.reg, State.reg, regs]⟩

theorem KeepsBits.ite {c : Prop} [Decidable c] (same : c → KeepsBits A s t) (other : ¬ c → KeepsBits A s u) :
    KeepsBits A s (if c then t else u) := by
  split
  next h => exact same h
  next h => exact other h

theorem KeepsBits.foldl {α : Type} {f : State → α → State} {l : List α} (same : KeepsBits A s t)
    (each : ∀ u x, x ∈ l → KeepsBits A s u → KeepsBits A s (f u x)) : KeepsBits A s (l.foldl f t) :=
  foldl_inv (KeepsBits A s) f each same

section
variable (same : KeepsBits A s t)
include same

theorem KeepsBits.trans (next : KeepsBits A t u) : KeepsBits A s u :=
  ⟨next.tables, fun a i named => (next.bit a i named).trans (same.bit a i named)⟩

theorem KeepsBits.regF {a lo len : Nat} (named : ∀ i, lo ≤ i → i < lo + len → A a i) : t.regF a lo len = s.regF a lo len :=
  fld_congr fun i low high => same.bit a i (named i low high)

theorem KeepsBits.reg {a : Nat} (named : ∀ i < 32, A a i) : t.reg a = s.reg a := word_congr fun i inside => same.bit a i (named i inside)

/-- A frame without the registers keeps all of them. -/
theorem KeepsBits.frame (frame : Frame P t u) (regs : .regs ∉ P := by decide) : KeepsBits A s u :=
  same.trans (.of_regs same.tables (frame.part .regs regs))

theorem KeepsBits.withRegs (regs : u.regs = t.regs) : KeepsBits A s u := same.trans (.of_regs same.tables regs)

theorem KeepsBits.updRg (r : Nat) (f : RegionSt → RegionSt) : KeepsBits A s (t.updRg r f) := same.withRegs rfl

theorem KeepsBits.updSlab (n : Nat) (f : SlabSt → SlabSt) : KeepsBits A s (t.updSlab n f) := same.withRegs rfl

theorem KeepsBits.withMgmt (m : Mgmt) : KeepsBits A s { t with mgmt := m } := same.withRegs rfl

theorem KeepsBits.withJobs (j : Jobs) : KeepsBits A s { t with jobs := j } := same.withRegs rfl

theorem KeepsBits.setReg {a : Nat} (v : Word) (apart : ∀ i, ¬ A a i) : KeepsBits A s (t.setReg a v) :=
  same.trans ⟨wf_setReg same.tables a v, fun b i named => by
    have other : b ≠ a := fun own => apart i (own ▸ named)
    rw [reg_setReg same.tables, if_neg other]⟩

theorem KeepsBits.setRegF {a lo len : Nat} (v : Nat) (apart : ∀ i, lo ≤ i → i < lo + len → ¬ A a i) :
    KeepsBits A s (t.setRegF a lo len v) :=
  same.trans ⟨wf_setRegF same.tables a lo len v, fun b i named => by
    rw [reg_setRegF same.tables]
    split
    case isFalse => rfl
    case isTrue own =>
      subst own
      exact tst_of_setFld_other (by
        by_cases inside : lo ≤ i ∧ i < lo + len
        · exact absurd named (apart i inside.1 inside.2)
        · omega)⟩

theorem KeepsBits.count {a lo len : Nat} (d : Nat) (apart : ∀ i, lo ≤ i → i < lo + len → ¬ A a i) :
    KeepsBits A s (t.count a lo len d) := same.setRegF _ apart

/-- An event that is lost is counted with the event ring (R258). -/
theorem KeepsBits.postAt (drops : ∀ i, ¬ A (Reg.RNG_DROPS 128) i) (code : Nat) (source : BitVec 16) (time : DWord) (data : BitVec 128) :
    KeepsBits A s (t.postAt code source time data) := by
  unfold State.postAt
  extract_lets e logged st
  have logs : KeepsBits A s logged := same.frame (State.logEvent_frame ..)
  refine .ite (fun _ => .ite (fun _ => logs) fun _ => .ite (fun _ => ?_) fun _ => logs.withJobs _) fun _ =>
    .ite (fun _ => logs.withJobs _) fun _ => logs
  exact (logs.withJobs _).count _ fun i _ _ => drops i

theorem KeepsBits.post (drops : ∀ i, ¬ A (Reg.RNG_DROPS 128) i) (code : Nat) (source : BitVec 16) (data : List (Nat × Nat)) :
    KeepsBits A s (t.post code source data) := same.postAt drops ..

end

theorem KeepsBits.mono {B : Nat → Nat → Prop} (same : KeepsBits B s t) (sub : ∀ a i, A a i → B a i) : KeepsBits A s t :=
  ⟨same.tables, fun a i named => same.bit a i (sub a i named)⟩

end Sys2Proof.Machine
end

section
/-! SUPPORT. Bits that the power states of a region leave as they are (R136 to R138, R398, R437). -/

namespace Sys2Proof.Machine

variable {A : Nat → Nat → Prop} {s t : State} {r : Nat}

/-- Nothing that A names lies in the block of region r (R462). -/
def RegionFree (A : Nat → Nat → Prop) (r : Nat) : Prop := ∀ a i, A a i → a < Reg.rgnBase r ∨ Reg.rgnBase r + 0x10000 ≤ a

theorem RegionFree.apart (free : RegionFree A r) {a : Nat} (inside : Reg.rgnBase r ≤ a ∧ a < Reg.rgnBase r + 0x10000) (i : Nat) : ¬ A a i :=
  fun named => by have := free a i named; omega

/-- A register at an offset of the block of region r. -/
theorem RegionFree.at (free : RegionFree A r) (o : Nat) (small : o < 0x10000 := by decide) (i : Nat) : ¬ A (Reg.rgnBase r + o) i :=
  free.apart ⟨by omega, by omega⟩ i

theorem RegionFree.pstate (free : RegionFree A r) (i : Nat) : ¬ A (Reg.RGN_PSTATE r) i := free.at 0xF100 (by decide) i
theorem RegionFree.rate (free : RegionFree A r) (i : Nat) : ¬ A (Reg.RGN_RATE r) i := free.at 0xF004 (by decide) i
theorem RegionFree.pwr (free : RegionFree A r) (i : Nat) : ¬ A (Reg.RGN_PWR r) i := free.at 0xF000 (by decide) i

/-- Sites of a region keep their registers in its block (R147). -/
theorem RegionFree.larpwr (free : RegionFree A r) {site : Nat} (own : siteRegion site = r) (i : Nat) : ¬ A (Reg.RGN_LARPWR site) i := by
  rw [siteRegion] at own
  subst own
  have few := Nat.mod_lt site (show 0 < 72 by decide)
  exact free.apart (by simp only [Reg.RGN_LARPWR, Reg.larBase]; omega) i

theorem mem_allSites {site : Nat} : site ∈ allSites r ↔ siteRegion site = r := by
  simp only [allSites, siteRegion, List.mem_map, List.mem_range]
  refine ⟨fun ⟨k, few, at_⟩ => by omega, fun own => ⟨site % 72, Nat.mod_lt _ (by decide), by omega⟩⟩

section
variable (same : KeepsBits A s t)
include same

theorem KeepsBits.setRstate (v : Nat) (apart : ∀ i < 3, ¬ A (Reg.RGN_PSTATE r) i) : KeepsBits A s (t.setRstate r v) :=
  same.setRegF v fun i _ high => apart i (by omega)

section
variable (free : RegionFree A r)
include free

theorem KeepsBits.setSwitches (closed retn sram : Bool) : KeepsBits A s (t.setSwitches r closed retn sram) :=
  ((same.setRegF _ fun i _ _ => free.pwr i).setRegF _ fun i _ _ => free.pwr i).setRegF _ fun i _ _ => free.pwr i

theorem KeepsBits.setRetention (on : Bool) : KeepsBits A s (t.setRetention r on) :=
  same.foldl fun _ _ listed same =>
    .ite (fun _ => same) fun _ => same.setRegF _ fun i _ _ => free.larpwr (mem_allSites.1 listed) i

theorem KeepsBits.toBivouac : KeepsBits A s (t.toBivouac r) := by
  have stopped := (same.setRstate stBivouac fun i _ => free.pstate i).setRegF (lo := 4) (len := 1) 0 fun i _ _ => free.pstate i
  have still := (stopped.setRegF (lo := 0) (len := 5) 0 fun i _ _ => free.rate i).setRegF (lo := 15) (len := 1) 0 fun i _ _ => free.rate i
  rw [State.toBivouac]
  exact ((still.setSwitches free false true false).setRetention free true).updRg r _

theorem KeepsBits.clockUp : KeepsBits A s (t.clockUp r) := by
  refine .ite (fun _ => same) fun _ => ?_
  have clocked := (same.setRstate stActive fun i _ => free.pstate i).setRegF (lo := 4) (len := 1) 1 fun i _ _ => free.pstate i
  exact ((clocked.setRegF _ fun i _ _ => free.rate i).setSwitches free true false true).setRetention free false

end

end

end Sys2Proof.Machine
end

section
/-! CLAIM. The mailbox, the watch units, SMBus, the reset input and the test access port (R451 to R460, R485, R486). -/

namespace Sys2Proof.Machine

variable {s : State} {p : PortNo} {tid : Word}

-- Mailbox replies (R454)

section
variable (s : State) (port tag op status : Nat) (d : List Byte)
@[simp] theorem State.mgtReply_attic : (s.mgtReply port tag op status d).attic = s.attic := (State.mgtReply_frame ..).part .attic (by decide)
@[simp] theorem State.mgtReply_dev : (s.mgtReply port tag op status d).dev = s.dev := (State.mgtReply_frame ..).part .dev (by decide)
@[simp] theorem State.mgtReply_clk : (s.mgtReply port tag op status d).clk = s.clk := (State.mgtReply_frame ..).part .clk (by decide)
@[simp] theorem State.mgtReply_points : (s.mgtReply port tag op status d).points = s.points := (State.mgtReply_frame ..).part .points (by decide)
@[simp] theorem State.mgtReply_strm : (s.mgtReply port tag op status d).strm = s.strm := (State.mgtReply_frame ..).part .strm (by decide)
@[simp] theorem State.mgtReply_jobs : (s.mgtReply port tag op status d).jobs = s.jobs := (State.mgtReply_frame ..).part .jobs (by decide)
@[simp] theorem State.mgtReply_mgmt : (s.mgtReply port tag op status d).mgmt = s.mgmt := (State.mgtReply_frame ..).part .mgmt (by decide)
end

/-- The state in which an operation of a port with n request bytes begins: its credits are owed and MBSTAT names the port. -/
def State.mailboxOpen (s : State) (p : PortNo) (n : Nat) : State := (s.received (portLink p) 1 n).setRegF Reg.MGT_MBSTAT 1 1 p.val

section
variable (live : s.aonLive = true) (opened : s.linkIn (portLink p) = true)
include live opened

theorem State.mailbox_of_busy (op n : Nat) (f : State → State) (busy : s.mbBusy p = true) :
    s.mailbox p tid op n f = .next ((s.received (portLink p) 1 n).send (portLink p) 1 0 (.mgt p tid.toNat op 1 [])) := by
  have served : (!s.aonLive || !s.linkIn (portLink p)) = false := by simp [live, opened]
  rw [State.mailbox, served]
  exact if_pos busy

theorem State.mailbox_of_free (op n : Nat) (f : State → State) (free : s.mbBusy p = false) :
    s.mailbox p tid op n f = .next (f (s.mailboxOpen p n)) := by
  have served : (!s.aonLive || !s.linkIn (portLink p)) = false := by simp [live, opened]
  rw [State.mailbox, served]
  exact if_neg (Bool.eq_false_iff.1 free)

end

/-- No image of the other port is on its way, and none is being written. -/
theorem State.mbBusy_of_mine (idle : s.dev.flashing = none) (own : ∀ b, s.mgmt.busy = some b → b.1 = p.val) : s.mbBusy p = false := by
  rw [State.mbBusy, idle]
  cases holder : s.mgmt.busy with
  | none => rfl
  | some b => simp [own b holder]

theorem State.mbBusy_of_other (held : s.dev.flashing.isSome = true ∨ ∃ b, s.mgmt.busy = some b ∧ b.1 ≠ p.val) : s.mbBusy p = true := by
  rcases held with writing | ⟨b, holder, other⟩
  · simp [State.mbBusy, writing]
  · simp [State.mbBusy, holder, other]

/-- The write of an image that passes ends 36 s to 44 s after the count at which it begins. -/
theorem flash_until (raw : DWord) (k : Nat) :
    let until_ : DWord := BitVec.ofNat 64 (raw.toNat + 36 * second + k % (8 * second + 1))
    36 * second ≤ (until_ - raw).toNat ∧ (until_ - raw).toNat ≤ 44 * second := by
  have few := Nat.mod_lt k (show 0 < 8 * second + 1 by decide)
  generalize k % (8 * second + 1) = m at few
  intro until_
  have spent : (until_ - raw).toNat = 36 * second + m := by
    have inWord := raw.isLt
    simp only [until_, second] at few ⊢
    rw [BitVec.toNat_sub, BitVec.toNat_ofNat]
    omega
  simp only [second] at few spent ⊢
  omega

/-- Before FW_VERIFIED nothing of the attic is read. -/
theorem State.atticRead_of_unverified {u : State} (unverified : u.dev.fwOk = false) (port tag op addr n : Nat) (byte : Nat → Byte) :
    u.atticRead port tag op addr n byte = u.mgtReply port tag op 3 [] := if_pos (by rw [unverified]; rfl)

theorem State.atticRead_of_inside {u : State} {addr n : Nat} (verified : u.dev.fwOk = true) (inside : addr + n ≤ logSize) (port tag op : Nat)
    (byte : Nat → Byte) :
    u.atticRead port tag op addr n byte = u.useFree.mgtReply port tag op 0 ((List.range n).map fun i => byte (addr + i)) := by
  rw [State.atticRead, verified]
  exact if_neg (Nat.not_lt.2 inside)

-- Each operation on a free mailbox (R452 to R455)

section
variable (live : s.aonLive = true) (opened : s.linkIn (portLink p) = true) (free : s.mbBusy p = false)
include live opened free

theorem getIdentity_of_free : exec (.getIdentity p tid) s
    = .next ((s.mailboxOpen p 0).mgtReply p tid.toNat opIdentity 0 ((s.mailboxOpen p 0).identity ++ Config.certificate s.fuses.serial)) := by
  change execGetIdentity p tid s = _
  exact State.mailbox_of_free live opened _ _ _ free

theorem attest_of_free (nonce : BitVec 256) : exec (.attest p tid nonce) s = .next (if s.dev.fwOk then
      (s.mailboxOpen p 32).mgtReply p tid.toNat opAttest 0 ((s.mailboxOpen p 32).attestBody nonce
        ++ toBe 96 (Config.ecdsaSign s.fuses.serial ((s.mailboxOpen p 32).attestBody nonce)).toNat)
    else (s.mailboxOpen p 32).mgtReply p tid.toNat opAttest 3 []) := by
  change execAttest p tid nonce s = _
  refine (State.mailbox_of_free live opened _ _ _ free).trans (congrArg _ ?_)
  have firmware : (s.mailboxOpen p 32).dev.fwOk = s.dev.fwOk := rfl
  cases ok : s.dev.fwOk <;> simp only [firmware, ok] <;> rfl

theorem fwWrite_of_free {addr : DWord} {d : List Byte} (inside : addr.toNat + d.length ≤ stagingSize) :
    ∃ t, exec (.fwWrite p tid addr d) s = .next t ∧ t.mgmt.staging = Tab.setList 0 s.mgmt.staging addr.toNat d
      ∧ t.mgmt.fill = max s.mgmt.fill (addr.toNat + d.length) ∧ t.mgmt.busy = some (p.val, tid.toNat) ∧ t.attic = s.attic := by
  change ∃ t, execFwWrite p tid addr d s = _ ∧ _
  refine ⟨_, (State.mailbox_of_free live opened _ _ _ free).trans (congrArg _ (if_neg (Nat.not_lt.2 inside))), ?_⟩
  simp only [State.mgtReply_mgmt, State.mgtReply_attic]
  exact ⟨rfl, rfl, rfl, rfl⟩

/-- The image in the staging buffer. -/
abbrev State.staged (s : State) : FwImage := ⟨s.mgmt.staging, s.mgmt.fill⟩

theorem fwCommit_of_rejected {why : Nat} (rejected : s.staged.reject s.fuses.keyHash s.fuses.k = some why) :
    ∃ t, exec (.fwCommit p tid) s = .next t ∧ t.mgmt.fill = 0 ∧ t.attic = s.attic ∧ t.mgmt.busy = none ∧ t.dev = s.dev := by
  change ∃ t, execFwCommit p tid s = _ ∧ _
  let emptied : State := { s.mailboxOpen p 0 with mgmt := { s.mgmt with fill := 0 } }
  refine ⟨emptied.mbFree.mgtReply p tid.toNat opFwCommit why [], (State.mailbox_of_free live opened _ _ _ free).trans ?_, ?_⟩
  · have check : (FwImage.mk (s.mailboxOpen p 0).mgmt.staging (s.mailboxOpen p 0).mgmt.fill).reject (s.mailboxOpen p 0).fuses.keyHash
      (s.mailboxOpen p 0).fuses.k = some why := rejected
    simp only [check]
    rfl
  · simp only [State.mgtReply_mgmt, State.mgtReply_attic, State.mgtReply_dev]
    exact ⟨rfl, rfl, rfl, rfl⟩

theorem fwCommit_of_passed (passed : s.staged.reject s.fuses.keyHash s.fuses.k = none) :
    ∃ t, exec (.fwCommit p tid) s = .next t ∧ t.mgmt.fill = 0 ∧ t.attic = s.attic ∧ t.mgmt.busy = some (p.val, tid.toNat)
      ∧ ∃ w, t.dev.flashing = some w ∧ w.image = s.staged ∧ w.port = p.val ∧ w.tid = tid.toNat
        ∧ 36 * second ≤ (w.until_ - s.clk.raw).toNat ∧ (w.until_ - s.clk.raw).toNat ≤ 44 * second := by
  change ∃ t, execFwCommit p tid s = _ ∧ _
  let held : State := State.mbHold { s.mailboxOpen p 0 with mgmt := { s.mgmt with fill := 0 } } p tid.toNat
  let until_ : DWord := BitVec.ofNat 64 (s.clk.raw.toNat + 36 * second + Config.measure s.freeCtr % (8 * second + 1))
  let write : FlashWrite := ⟨s.staged, p.val, tid.toNat, until_, s.mgmt.recovery⟩
  refine ⟨{ held.useFree with dev := { s.dev with flashing := some write } }, (State.mailbox_of_free live opened _ _ _ free).trans ?_,
    rfl, rfl, rfl, write, rfl, rfl, rfl, rfl, flash_until s.clk.raw (Config.measure s.freeCtr)⟩
  have check : (FwImage.mk (s.mailboxOpen p 0).mgmt.staging (s.mailboxOpen p 0).mgmt.fill).reject (s.mailboxOpen p 0).fuses.keyHash
    (s.mailboxOpen p 0).fuses.k = none := passed
  simp only [check]
  rfl

theorem fwActivate_of_running (running : s.dev.base ≠ .aon) :
    exec (.fwActivate p tid) s = .next ((s.mailboxOpen p 0).mgtReply p tid.toNat opFwActivate 3 []) := by
  change execFwActivate p tid s = _
  exact (State.mailbox_of_free live opened _ _ _ free).trans (congrArg _ (if_pos running))

theorem fwActivate_of_aon (aon : s.dev.base = .aon) (down : s.railsUp = false) :
    ∃ t, exec (.fwActivate p tid) s = .next t ∧ t.dev.next = some .fwVerified ∧ t.strm = s.strm ∧ t.points = s.points ∧ t.clk = s.clk := by
  change ∃ t, execFwActivate p tid s = _ ∧ _
  let replied := (s.mailboxOpen p 0).mgtReply p tid.toNat opFwActivate 0 []
  have dev : replied.dev = s.dev := State.mgtReply_dev ..
  have jobs : replied.jobs = s.jobs := State.mgtReply_jobs ..
  have rails : replied.railsUp = false := by
    rw [State.railsUp, State.railsOn, State.devState] at down ⊢
    rw [dev, jobs, down]
  have anew := State.newBringup_frame replied
  refine ⟨{ replied.newBringup with dev := { replied.dev with fwOk := false, next := some .fwVerified } },
    (State.mailbox_of_free live opened _ _ _ free).trans ?_, rfl, ?_, ?_, ?_⟩
  · have on : replied.dev.base ≠ .off := by rw [dev, aon]; decide
    refine congrArg _ ((if_neg (not_not.2 aon)).trans ?_)
    change (let u := if replied.railsUp then replied.dropRails else replied
      if u.dev.base = .off then u else { u.newBringup with dev := { u.dev with fwOk := false, next := some .fwVerified } }) = _
    simp only [rails, Bool.false_eq_true, if_false]
    exact if_neg on
  · exact (anew.part .strm (by decide)).trans (State.mgtReply_strm ..)
  · exact (anew.part .points (by decide)).trans (State.mgtReply_points ..)
  · exact (anew.part .clk (by decide)).trans (State.mgtReply_clk ..)

theorem logRead_of_unverified (unverified : s.dev.fwOk = false) (addr : DWord) (n : BitVec 13) :
    exec (.logRead p tid addr n) s = .next ((s.mailboxOpen p 0).mgtReply p tid.toNat opLogRead 3 []) := by
  change execLogRead p tid addr n s = _
  exact (State.mailbox_of_free live opened _ _ _ free).trans
    (congrArg _ (State.atticRead_of_unverified (u := s.mailboxOpen p 0) unverified ..))

theorem logRead_of_inside {addr : DWord} {n : BitVec 13} (verified : s.dev.fwOk = true) (inside : addr.toNat + n.toNat ≤ logSize) :
    exec (.logRead p tid addr n) s = .next ((s.mailboxOpen p 0).useFree.mgtReply p tid.toNat opLogRead 0
      ((List.range n.toNat).map fun i => (s.mailboxOpen p 0).logByte (addr.toNat + i))) := by
  change execLogRead p tid addr n s = _
  exact (State.mailbox_of_free live opened _ _ _ free).trans
    (congrArg _ (State.atticRead_of_inside (u := s.mailboxOpen p 0) verified inside ..))

theorem recordRead_of_unverified (unverified : s.dev.fwOk = false) (addr : DWord) (n : BitVec 13) :
    exec (.recordRead p tid addr n) s = .next ((s.mailboxOpen p 0).mgtReply p tid.toNat opRecordRead 3 []) := by
  change execRecordRead p tid addr n s = _
  exact (State.mailbox_of_free live opened _ _ _ free).trans
    (congrArg _ (State.atticRead_of_unverified (u := s.mailboxOpen p 0) unverified ..))

theorem recordRead_of_inside {addr : DWord} {n : BitVec 13} (verified : s.dev.fwOk = true) (inside : addr.toNat + n.toNat ≤ logSize) :
    exec (.recordRead p tid addr n) s = .next ((s.mailboxOpen p 0).useFree.mgtReply p tid.toNat opRecordRead 0
      ((List.range n.toNat).map fun i => (s.mailboxOpen p 0).recordByte (addr.toNat + i))) := by
  change execRecordRead p tid addr n s = _
  exact (State.mailbox_of_free live opened _ _ _ free).trans
    (congrArg _ (State.atticRead_of_inside (u := s.mailboxOpen p 0) verified inside ..))

end

/-- An attic write whose time has passed has written the image, and frees the mailbox. -/
theorem State.atticWrites_of_flashed {w : FlashWrite} (writing : s.dev.flashing = some w) (reached : w.until_.toNat ≤ s.clk.raw.toNat) :
    s.atticWrites.attic.image = w.image ∧ s.atticWrites.mgmt.busy = none ∧ s.atticWrites.dev.flashing = none := by
  have saved : s.endSave.dev.flashing = some w := by
    rw [← writing, State.endSave]
    split <;> rfl
  have clk : s.endSave.clk = s.clk := (State.endSave_frame s).part .clk (by decide)
  rw [State.atticWrites]
  simp only [saved, clk, if_neg (Nat.not_lt.2 reached)]
  split <;> simp only [State.mgtReply_attic, State.mgtReply_mgmt, State.mgtReply_dev] <;> exact ⟨rfl, rfl, rfl⟩

theorem mailboxTimeout_of_held (held : s.mgmt.busy.isSome = true) :
    exec .mailboxTimeout s = .next (if s.dev.flashing.isNone then s.mbFree else s) := by
  change Host.Outcome.next (ite _ _ _) = _
  rw [held, Bool.true_and]

end Sys2Proof.Machine
end

section
/-! CLAIM. SMBus, the test access port and the reset input (R459, R460, R485 to R487). -/

namespace Sys2Proof.Machine

variable {s : State}

-- The always-on domain (R444, R446)

theorem State.aonLive_iff : s.aonLive = true ↔ s.dev.base ≠ .off ∧ s.dev.next ≠ some .aonUp ∧ s.regF Reg.GLB_STAGE 0 8 ≠ 0x90 := by
  simp [State.aonLive, and_assoc]

-- SMBus (R459)

theorem alertResponse_of_released (released : s.dev.nAlert = false) : exec .alertResponse s = .next s := by
  change Host.Outcome.next (ite _ _ _) = _
  rw [released, Bool.and_false]
  rfl

section
variable (live : s.aonLive = true)
include live

theorem State.smbRead_of_live (cmd : Nat) (d : List Byte) : s.smbRead cmd d = .next (s.smbReply cmd d) :=
  congrArg Host.Outcome.next (if_pos live)

theorem stage_of_live : exec .stage s = .next (s.smbReply 0x01 [BitVec.ofNat 8 (s.regF Reg.GLB_STAGE 0 8)]) := by
  obtain ⟨on, ran, _⟩ := State.aonLive_iff.1 live
  change Host.Outcome.next (ite _ _ _) = _
  rw [if_neg (by simp [on, ran])]

theorem pin_of_live : ∃ w, (w = s.regF Reg.GLB_PWRIN 0 16 / 10 ∨ w = s.regF Reg.GLB_PWRIN 0 16 / 10 + 1)
    ∧ exec .pin s = .next (s.useFree.smbReply 0x04 (toLe 2 w)) := by
  refine ⟨s.tensOfWatts, ?_, if_pos live⟩
  have rounding := Nat.mod_two_eq_zero_or_one (Config.measure s.freeCtr)
  simp only [State.tensOfWatts]
  split <;> omega

theorem alertStatus_of_live : ∃ t, exec .alertStatus s = .next t ∧ t.dev.alerts = 0 ∧ t.dev.nAlert = false
    ∧ t.out = (s.smbReply 0x20 (toLe 2 s.dev.alerts.toNat)).out := by
  change ∃ t, execAlertStatus s = _ ∧ _
  rw [execAlertStatus, live]
  exact ⟨_, rfl, rfl, rfl, rfl⟩

theorem alertMask_of_write (m : BitVec 16) :
    exec (.alertMask (some m)) s = .next { s with dev := { s.dev with alertMask := m &&& 0x7F } } := if_pos live

theorem alertResponse_of_asserted (asserted : s.dev.nAlert = true) : exec .alertResponse s
    = .next (s.emit (.smbus [BitVec.ofNat 8 (2 * s.smbAddr), pec [0x19, BitVec.ofNat 8 (2 * s.smbAddr)]])) := by
  change Host.Outcome.next (ite _ _ _) = _
  rw [live, asserted]
  rfl

-- The test access port (R460)

theorem debugUnlock_of_live (signature : BitVec 768) : ∃ t, exec (.debugUnlock signature) s = .next t ∧ t.dev.tap = .debugUnlock
    ∧ t.dev.debug = (s.dev.debug || Config.debugSigOk s.dev.challenge signature) := by
  change ∃ t, execDebugUnlock signature s = _ ∧ _
  rw [execDebugUnlock, live]
  refine ⟨_, rfl, ?_⟩
  have genuine : (s.setTap .debugUnlock).dev.challenge = s.dev.challenge := rfl
  cases ok : Config.debugSigOk s.dev.challenge signature
  · simp only [genuine, ok, Bool.or_false]
    exact ⟨rfl, rfl⟩
  · simp only [genuine, ok, Bool.or_true]
    exact ⟨rfl, rfl⟩

theorem tapLoad_extest : exec (.tapInstructionLoad .extest) s = .next (s.scanOut (if s.tapOpen then .extest else .bypass)) := by
  change execTapInstructionLoad .extest s = _
  rw [execTapInstructionLoad, live]
  rfl

theorem tapLoad_unpublished (x : BitVec 8) : exec (.tapInstructionLoad (.unpublished x)) s
    = if s.tapOpen then .refused .privateTapInstruction else .next (s.scanOut .bypass) := by
  change execTapInstructionLoad (.unpublished x) s = _
  rw [execTapInstructionLoad, live]
  rfl

theorem tapLoad_published {ti : TapInstr} (boundary : ti ≠ .extest) (published : ∀ y, ti ≠ .unpublished y) :
    exec (.tapInstructionLoad ti) s = .next (s.scanOut ti) := by
  cases ti with
  | extest => exact absurd rfl boundary
  | unpublished y => exact absurd rfl (published y)
  | _ => exact if_neg (by rw [live]; decide)

end

theorem State.scanOut_tap (ti : TapInstr) : (s.scanOut ti).dev.tap = ti := by cases ti <;> rfl

-- Resets (R459, R460, R486)

theorem testReset_of_on (on : s.dev.base ≠ .off) : exec .testReset s = .next (s.setTap .idcode) :=
  congrArg Host.Outcome.next (if_neg on)

/-- Without a write under way the loss of power cuts none. -/
theorem State.cutWrites_of_none (saving : s.dev.saving = none) (flashing : s.dev.flashing = none) : s.cutWrites = s.attic := by
  simp [State.cutWrites, saving, flashing]

theorem nreset_of_short {low : Nat} (short : low < 25) : exec (.nreset low) s = .next s := if_pos (.inl short)

/-- A reset that lasts resets what OFF resets, and AON_UP follows. -/
theorem nreset_of_long {low : Nat} (long : 25 ≤ low) (on : s.dev.base ≠ .off) (fed : s.dev.backup = false) : exec (.nreset low) s
    = .next { s.deviceOff with dev := { s.deviceOff.dev with afterReset := true, base := .aon, next := some .aonUp } } := by
  change execNreset low s = _
  rw [execNreset, if_neg (not_or.2 ⟨Nat.not_lt.2 long, on⟩), fed]
  rfl

end Sys2Proof.Machine
end

section
/-! CLAIM. The watch units: arming, the capture window and samples (R456 to R458). -/

namespace Sys2Proof.Machine

variable {s t : State} {u : WatchNo} {p : PortNo}

-- Whole words and their counts

theorem fld_word (w : Word) : fld w 0 32 = w.toNat := by
  have small := w.isLt
  rw [fld, Nat.shiftRight_zero]
  omega

theorem setFld_word (w : Word) (v : Nat) : setFld w 0 32 v = BitVec.ofNat 32 v := by
  refine BitVec.eq_of_toNat_eq ?_
  have whole := fld_setFld_same (w := w) (lo := 0) (len := 32) (v := v) (by decide)
  rwa [fld_word, ← BitVec.toNat_ofNat] at whole

theorem reg_count_word (tables : Tab.wf none s.regs = true) (a b d : Nat) : (s.count a 0 32 d).reg b
    = if b = a then BitVec.ofNat 32 (min (2 ^ 32 - 1) ((s.reg a).toNat + d)) else s.reg b := by
  rw [State.count, reg_setRegF tables, setFld_word, State.regF, fld_word, satAdd]

theorem wf_count (tables : Tab.wf none s.regs = true) (a lo len d : Nat) : Tab.wf none (s.count a lo len d).regs = true :=
  wf_setRegF tables ..

-- The registers of a unit (R456)

theorem watchResults_place {u a : Nat} (listed : a ∈ watchResults u) : Reg.watchBase u + 0x20 ≤ a ∧ a < Reg.watchBase u + 0x100 := by
  simp only [watchResults, Reg.MGT_WMIN, Reg.MGT_WMAX, Reg.MGT_WCOUNT, Reg.MGT_WUNDER, Reg.MGT_WBIN, List.mem_append, List.mem_cons,
    List.not_mem_nil, or_false, List.mem_map, List.mem_range] at listed
  rcases listed with (rfl | rfl | rfl | rfl) | ⟨k, few, rfl⟩ <;> omega

/-- What clearing a list of registers leaves in each. -/
theorem State.reg_foldl_clear (tables : Tab.wf none s.regs = true) (l : List Nat) (a : Nat) :
    (l.foldl (fun s a => s.setReg a 0) s).reg a = if a ∈ l then 0 else s.reg a := by
  induction l generalizing s with
  | nil => rfl
  | cons b l ih =>
    rw [List.foldl_cons, ih (wf_setReg tables b 0), reg_setReg tables]
    by_cases later : a ∈ l
    · simp [later]
    · by_cases own : a = b <;> simp [later, own]

/-- What the start of a capture leaves as it is: the bits of the unit's own block but STATE, and all that lies above the regions. -/
def WatchBits (u : Nat) (a i : Nat) : Prop := 0x6000000 ≤ a ∧ ¬ (a = Reg.MGT_WCTL u ∧ 2 ≤ i ∧ i < 4)

theorem watchBits_regionFree {A : Nat → Nat → Prop} {r : Nat} (inDevice : r < 192) (above : ∀ a i, A a i → 0x6000000 ≤ a) :
    RegionFree A r := fun a i named => by
  have := above a i named
  simp only [Reg.rgnBase]
  omega

/-- A watch unit of a region names one of the device. -/
theorem watchScope_region {u r : Nat} (unit : u < 976) (scope : watchScope u = .region r) : r < 192 := by
  unfold watchScope at scope
  split at scope
  · cases scope
  split at scope
  · cases scope
  split at scope
  · cases scope
  · injection scope with own; omega

-- The capture window (R458)

theorem State.watchState_setWatchState (tables : Tab.wf none s.regs = true) (u st : Nat) : (s.setWatchState u st).watchState u = st % 4 :=
  regF_setRegF_same tables _ (by decide)

/-- A unit that is armed, whose START is reached and that nothing holds back, captures. -/
def State.watchOpens (s : State) (u : Nat) : Prop :=
  s.watchState u = wsArmed ∧ (s.watchFrom u).toNat ≤ s.now.toNat ∧ s.watchHeld u = false

theorem State.watchBegin_of_opens {u : Nat} (opens : s.watchOpens u) : s.watchBegin u = match watchScope u with
    | .region r => if (s.setWatchState u wsCapturing).watchClaim r u = true ∧ (s.setWatchState u wsCapturing).rstate r = stBivouac
        then (s.setWatchState u wsCapturing).clockUp r else s.setWatchState u wsCapturing
    | _ => s.setWatchState u wsCapturing := by
  obtain ⟨armed, reached, free⟩ := opens
  refine (if_pos ⟨armed, reached, by rw [free]; rfl⟩).trans ?_
  cases watchScope u <;> rfl

theorem State.watchBegin_of_not {u : Nat} (closed : ¬ s.watchOpens u) : s.watchBegin u = s :=
  if_neg fun ⟨armed, reached, free⟩ => closed ⟨armed, reached, by simpa using free⟩

theorem State.watchBegin_of_capturing {u : Nat} (capturing : s.watchState u = wsCapturing) : s.watchBegin u = s :=
  State.watchBegin_of_not fun opens => absurd (capturing.symm.trans opens.1) (by decide)

/-- The clock that a capture claims changes nothing above the regions. -/
theorem KeepsBits.watchClaim {A : Nat → Nat → Prop} (same : KeepsBits A s t) (above : ∀ a i, A a i → 0x6000000 ≤ a) {u : Nat} (unit : u < 976) :
    KeepsBits A s (match watchScope u with
      | .region r => if t.watchClaim r u = true ∧ t.rstate r = stBivouac then t.clockUp r else t
      | _ => t) := by
  split
  next r scope => exact .ite (fun _ => same.clockUp (watchBits_regionFree (watchScope_region unit scope) above)) fun _ => same
  next => exact same

/-- Once a unit is armed, it is so or captures, and nothing else above the regions has changed. -/
theorem State.watchBegin_of_armed {u : Nat} (tables : Tab.wf none s.regs = true) (unit : u < 976) (armed : s.watchState u = wsArmed) :
    KeepsBits (WatchBits u) s (s.watchBegin u) ∧ ((s.watchBegin u).watchState u = wsArmed ∨ (s.watchBegin u).watchState u = wsCapturing) := by
  by_cases opens : s.watchOpens u
  · rw [State.watchBegin_of_opens opens]
    let a := s.setWatchState u wsCapturing
    have set : KeepsBits (WatchBits u) s a :=
      (KeepsBits.refl tables).setRegF (lo := 2) (len := 2) _ fun i low high named => named.2 ⟨rfl, low, high⟩
    have capturing : a.watchState u = wsCapturing := State.watchState_setWatchState tables ..
    have claim : KeepsBits (fun x _ => 0x6000000 ≤ x) a _ :=
      (KeepsBits.refl set.tables).watchClaim (fun _ _ above => above) unit
    have own : 0x6000000 ≤ Reg.MGT_WCTL u := by simp only [Reg.MGT_WCTL, Reg.watchBase]; omega
    exact ⟨set.trans (claim.mono fun _ _ named => named.1), .inr ((claim.regF fun _ _ _ => own).trans capturing)⟩
  · rw [State.watchBegin_of_not opens]
    exact ⟨.refl tables, .inl armed⟩

/-- A unit with its results cleared. -/
def State.watchCleared (s : State) (u : WatchNo) : State :=
  (watchResults u).foldl (fun s a => s.setReg a 0) { s with mgmt := { s.mgmt with watchLast := Tab.set none s.mgmt.watchLast u none } }

/-- A cleared unit in ARMED, with BADKIND for a kind that its scope does not offer. -/
def State.watchArmed (s : State) (u : WatchNo) : State :=
  (((s.watchCleared u).setWatchState u wsArmed).setRegF (Reg.MGT_WCTL u) 4 1 0).setRegF (Reg.MGT_WCTL u) 5 1
    (b2n (!(watchKinds (watchScope u)).contains ((s.watchCleared u).watchKind u)))

theorem wctlArm_eq {u : WatchNo} (reached : s.reach (Reg.MGT_WCTL u) = true) (stopped : s.watchStopped u = true) :
    exec (.wctlArm p u) s = .next (if ((s.watchArmed u).watchTo u).toNat ≤ ((s.watchArmed u).watchFrom u).toNat
      then (s.watchArmed u).setWatchState u wsDone else (s.watchArmed u).watchBegin u) := by
  change execWctlArm p u s = _
  rw [execWctlArm, reached, stopped]
  rfl

section
variable {u : WatchNo} (tables : Tab.wf none s.regs = true)
include tables

theorem State.wf_watchCleared : Tab.wf none (s.watchCleared u).regs = true :=
  foldl_inv (fun s : State => Tab.wf none s.regs = true) _ (fun _ a _ wf => wf_setReg wf a 0) tables

theorem State.reg_watchCleared (a : Nat) : (s.watchCleared u).reg a = if a ∈ watchResults u then 0 else s.reg a :=
  State.reg_foldl_clear (s := { s with mgmt := { s.mgmt with watchLast := Tab.set none s.mgmt.watchLast u none } }) tables _ a

theorem State.watchKind_watchCleared : (s.watchCleared u).watchKind u = s.watchKind u := by
  have setup : Reg.MGT_WSRC u ∉ watchResults u := fun listed => by
    have := watchResults_place listed
    simp only [Reg.MGT_WSRC] at this
    omega
  rw [State.watchKind, State.regF, State.reg_watchCleared tables, if_neg setup]
  rfl

/-- Arming changes the control register and the results only, and what it leaves in each. -/
theorem State.watchArmed_spec : Tab.wf none (s.watchArmed u).regs = true ∧ (∀ a ∈ watchResults u, (s.watchArmed u).reg a = 0)
    ∧ (s.watchArmed u).watchState u = wsArmed
    ∧ (s.watchArmed u).regF (Reg.MGT_WCTL u) 5 1 = b2n (!(watchKinds (watchScope u)).contains (s.watchKind u)) := by
  rw [← State.watchKind_watchCleared tables (u := u)]
  have state := (KeepsBits.refl (A := fun a _ => a ≠ Reg.MGT_WCTL u) (State.wf_watchCleared tables (u := u))).setRegF
    (a := Reg.MGT_WCTL u) (lo := 2) (len := 2) wsArmed fun _ _ _ named => named rfl
  have ended := state.setRegF (a := Reg.MGT_WCTL u) (lo := 4) (len := 1) 0 fun _ _ _ named => named rfl
  have offered := ended.setRegF (a := Reg.MGT_WCTL u) (lo := 5) (len := 1)
    (b2n (!(watchKinds (watchScope u)).contains ((s.watchCleared u).watchKind u))) fun _ _ _ named => named rfl
  refine ⟨offered.tables, fun a listed => ?_, ?_, (regF_setRegF_same ended.tables _ (by decide)).trans ?_⟩
  · have other : a ≠ Reg.MGT_WCTL u := by
      have := watchResults_place listed
      simp only [Reg.MGT_WCTL]
      omega
    exact (offered.reg fun _ _ => other).trans ((State.reg_watchCleared tables a).trans (if_pos listed))
  · exact ((regF_setRegF_other ended.tables (.inr (by decide))).trans (regF_setRegF_other state.tables (.inr (by decide)))).trans
      (State.watchState_setWatchState (State.wf_watchCleared tables) ..)
  · cases (watchKinds (watchScope u)).contains ((s.watchCleared u).watchKind u) <;> rfl

/-- ARM clears the results and leaves the unit armed, capturing or done. -/
theorem wctlArm_of_stopped (reached : s.reach (Reg.MGT_WCTL u) = true) (stopped : s.watchStopped u = true) :
    ∃ t, exec (.wctlArm p u) s = .next t ∧ (∀ a ∈ watchResults u, t.reg a = 0) ∧ t.watchState u ≠ wsIdle
      ∧ t.regF (Reg.MGT_WCTL u) 5 1 = b2n (!(watchKinds (watchScope u)).contains (s.watchKind u)) := by
  obtain ⟨wf, cleared, armed, offered⟩ := State.watchArmed_spec tables (u := u)
  refine ⟨_, wctlArm_eq reached stopped, ?_⟩
  have finish {t : State} (kept : KeepsBits (WatchBits u) (s.watchArmed u) t) (going : t.watchState u ≠ wsIdle) :
      (∀ a ∈ watchResults u, t.reg a = 0) ∧ t.watchState u ≠ wsIdle
        ∧ t.regF (Reg.MGT_WCTL u) 5 1 = b2n (!(watchKinds (watchScope u)).contains (s.watchKind u)) := by
    refine ⟨fun a listed => ?_, going, ?_⟩
    · have place := watchResults_place listed
      have above : 0x6000000 ≤ a := by simp only [Reg.watchBase] at place; omega
      have other : a ≠ Reg.MGT_WCTL u := by simp only [Reg.MGT_WCTL]; omega
      exact (kept.reg fun i _ => ⟨above, fun own => other own.1⟩).trans (cleared a listed)
    · have above : 0x6000000 ≤ Reg.MGT_WCTL u := by simp only [Reg.MGT_WCTL, Reg.watchBase]; omega
      exact (kept.regF fun i low high => ⟨above, by omega⟩).trans offered
  split
  · refine finish ((KeepsBits.refl wf).setRegF (lo := 2) (len := 2) _ fun i low high named => named.2 ⟨rfl, low, high⟩) ?_
    rw [State.watchState_setWatchState wf]
    decide
  · obtain ⟨kept, going⟩ := State.watchBegin_of_armed wf u.isLt armed
    exact finish kept (by rcases going with going | going <;> rw [going] <;> decide)

end

theorem wctlStop_of_going {u : WatchNo} (reached : s.reach (Reg.MGT_WCTL u) = true) (going : s.watchStopped u = false) :
    exec (.wctlStop p u) s = .next (s.setWatchState u wsDone) := if_pos (by rw [reached, going]; rfl)

theorem watchEnd_of_reached {u : WatchNo} (capturing : s.watchState u = wsCapturing) (reached : (s.watchTo u).toNat ≤ s.now.toNat) :
    exec (.watchEnd u) s = .next (s.setWatchState u wsDone) := if_pos ⟨capturing, reached⟩

-- Samples (R457)

theorem State.watchTakes_capturing {u : Nat} (takes : s.watchTakes u = true) : s.watchState u = wsCapturing := by
  simp only [State.watchTakes, Bool.and_eq_true, beq_iff_eq] at takes
  exact takes.1.1.1

theorem watchBin_lt (log : Bool) (x : Int) (w : Nat) : watchBin log x w < 32 := by
  unfold watchBin
  extract_lets w
  split
  · omega
  split
  · omega
  split <;> omega

theorem watchBin_of_neg (log : Bool) {x : Int} (under : x < 0) (w : Nat) : watchBin log x w = 0 := if_pos under

/-- A sample that is not due, and one of the time offset, changes nothing in a unit that captures. -/
theorem watchSample_of_undue {u : WatchNo} {v : Word} (takes : s.watchTakes u = true) (undue : s.watchDue u = false ∨ s.watchKind u = 0x0B) :
    exec (.watchSample u v) s = .next s := by
  have begun : s.watchBegin u = s := State.watchBegin_of_capturing (State.watchTakes_capturing takes)
  change Host.Outcome.next (ite _ _ _) = _
  split
  · rw [begun]
  · next other =>
    have undue : s.watchDue u = false := undue.resolve_right other
    rw [State.watchTake, begun, if_pos (by rw [undue]; simp)]

/-- MIN or MAX takes a sample, or stays. -/
theorem reg_watchKeep (tables : Tab.wf none s.regs = true) (c : Bool) (a b : Nat) (v : Word) :
    (if c = true then s.setReg a v else s).reg b = if b = a ∧ c = true then v else s.reg b := by
  cases c
  · simp
  · simp [reg_setReg tables]

theorem wf_watchKeep (tables : Tab.wf none s.regs = true) (c : Bool) (a : Nat) (v : Word) :
    Tab.wf none (if c = true then s.setReg a v else s).regs = true := by
  cases c
  · exact tables
  · exact wf_setReg tables a v

/-- MIN and MAX with a sample v taken. -/
def State.watchExtremes (s : State) (u : Nat) (v : Word) : State :=
  let first := s.reg (Reg.MGT_WCOUNT u) == 0
  let low : State := if first || decide (v.toInt < (s.reg (Reg.MGT_WMIN u)).toInt) then s.setReg (Reg.MGT_WMIN u) v else s
  if first || decide ((low.reg (Reg.MGT_WMAX u)).toInt < v.toInt) then low.setReg (Reg.MGT_WMAX u) v else low

/-- The bin of a sample v. -/
def State.watchBinOf (s : State) (u : Nat) (v : Word) : Nat :=
  watchBin (tst (s.reg (Reg.MGT_WSRC u)) 16) (v.toInt - (s.reg (Reg.MGT_WBASE u)).toInt) (s.reg (Reg.MGT_WWIDTH u)).toNat

/-- COUNT and one bin with a sample v taken. -/
def State.watchCounted (s : State) (u : Nat) (v : Word) : State :=
  ((s.watchExtremes u v).count (Reg.MGT_WCOUNT u) 0 32 1).count (Reg.MGT_WBIN u ((s.watchExtremes u v).watchBinOf u v)) 0 32 1

section
variable {u : Nat} {v : Word} (tables : Tab.wf none s.regs = true)
include tables

theorem State.wf_watchExtremes : Tab.wf none (s.watchExtremes u v).regs = true := wf_watchKeep (wf_watchKeep tables ..) ..

theorem State.reg_watchExtremes_other {a : Nat} (min : a ≠ Reg.MGT_WMIN u) (max : a ≠ Reg.MGT_WMAX u) :
    (s.watchExtremes u v).reg a = s.reg a := by
  rw [State.watchExtremes, reg_watchKeep (wf_watchKeep tables ..), if_neg fun own => max own.1, reg_watchKeep tables,
    if_neg fun own => min own.1]

theorem State.reg_watchExtremes_min : (s.watchExtremes u v).reg (Reg.MGT_WMIN u)
    = if (s.reg (Reg.MGT_WCOUNT u) == 0 || decide (v.toInt < (s.reg (Reg.MGT_WMIN u)).toInt)) = true then v
      else s.reg (Reg.MGT_WMIN u) := by
  have apart : Reg.MGT_WMIN u ≠ Reg.MGT_WMAX u := by simp only [Reg.MGT_WMIN, Reg.MGT_WMAX]; omega
  rw [State.watchExtremes, reg_watchKeep (wf_watchKeep tables ..), if_neg fun own => apart own.1, reg_watchKeep tables]
  simp only [true_and]

theorem State.reg_watchExtremes_max : (s.watchExtremes u v).reg (Reg.MGT_WMAX u)
    = if (s.reg (Reg.MGT_WCOUNT u) == 0 || decide ((s.reg (Reg.MGT_WMAX u)).toInt < v.toInt)) = true then v
      else s.reg (Reg.MGT_WMAX u) := by
  have apart : Reg.MGT_WMAX u ≠ Reg.MGT_WMIN u := by simp only [Reg.MGT_WMIN, Reg.MGT_WMAX]; omega
  simp only [State.watchExtremes, reg_watchKeep (wf_watchKeep tables ..), reg_watchKeep tables, apart, false_and, if_false, true_and]

end

section
variable {u : Nat} {v : Word} (tables : Tab.wf none s.regs = true)
include tables

theorem State.watchBinOf_watchExtremes : (s.watchExtremes u v).watchBinOf u v = s.watchBinOf u v := by
  have setup {a : Nat} (low : a < Reg.watchBase u + 0x20) : (s.watchExtremes u v).reg a = s.reg a :=
    State.reg_watchExtremes_other tables (by simp only [Reg.MGT_WMIN]; omega) (by simp only [Reg.MGT_WMAX]; omega)
  rw [State.watchBinOf, setup (by simp only [Reg.MGT_WSRC]; omega), setup (by simp only [Reg.MGT_WBASE]; omega),
    setup (by simp only [Reg.MGT_WWIDTH]; omega), State.watchBinOf]

theorem State.wf_watchCounted : Tab.wf none (s.watchCounted u v).regs = true :=
  wf_setRegF (wf_setRegF (State.wf_watchExtremes tables) ..) ..

/-- COUNT and the bin of the sample are one more each; the other registers are as MIN and MAX leave them. -/
theorem State.reg_watchCounted (a : Nat) : (s.watchCounted u v).reg a
    = if a = Reg.MGT_WBIN u (s.watchBinOf u v) ∨ a = Reg.MGT_WCOUNT u then BitVec.ofNat 32 (min (2 ^ 32 - 1) ((s.reg a).toNat + 1))
      else (s.watchExtremes u v).reg a := by
  have wf := State.wf_watchExtremes tables (u := u) (v := v)
  have apart : Reg.MGT_WBIN u (s.watchBinOf u v) ≠ Reg.MGT_WCOUNT u := by simp only [Reg.MGT_WBIN, Reg.MGT_WCOUNT]; omega
  have bin : (s.watchExtremes u v).reg (Reg.MGT_WBIN u (s.watchBinOf u v)) = s.reg (Reg.MGT_WBIN u (s.watchBinOf u v)) :=
    State.reg_watchExtremes_other tables (by simp only [Reg.MGT_WBIN, Reg.MGT_WMIN]; omega) (by simp only [Reg.MGT_WBIN, Reg.MGT_WMAX]; omega)
  have count : (s.watchExtremes u v).reg (Reg.MGT_WCOUNT u) = s.reg (Reg.MGT_WCOUNT u) :=
    State.reg_watchExtremes_other tables (by simp only [Reg.MGT_WCOUNT, Reg.MGT_WMIN]; omega) (by simp only [Reg.MGT_WCOUNT, Reg.MGT_WMAX]; omega)
  rw [State.watchCounted, State.watchBinOf_watchExtremes tables, reg_count_word (wf_count wf ..), reg_count_word wf,
    reg_count_word wf, if_neg apart]
  by_cases own : a = Reg.MGT_WBIN u (s.watchBinOf u v)
  · subst own; rw [if_pos rfl, if_pos (.inl rfl), bin]
  · by_cases counts : a = Reg.MGT_WCOUNT u
    · subst counts; rw [if_neg own, if_pos rfl, if_pos (.inr rfl), count]
    · rw [if_neg own, if_neg counts, if_neg (not_or.2 ⟨own, counts⟩)]

end

/-- A sample that is due is counted once, and the bits of no result but UNDER change after that. -/
theorem watchSample_eq {u : WatchNo} {v : Word} (tables : Tab.wf none s.regs = true) (takes : s.watchTakes u = true)
    (due : s.watchDue u = true) (kind : s.watchKind u ≠ 0x0B) :
    ∃ t, exec (.watchSample u v) s = .next t
      ∧ KeepsBits (fun a _ => a ≠ Reg.MGT_WUNDER u) (s.watchCounted u (s.watchValue u v)) t := by
  have begun : s.watchBegin u = s := State.watchBegin_of_capturing (State.watchTakes_capturing takes)
  change ∃ t, Host.Outcome.next (ite _ _ _) = _ ∧ _
  rw [if_neg kind, State.watchTake, begun, if_neg (by rw [takes, due]; decide)]
  refine ⟨_, rfl, ?_⟩
  have same := KeepsBits.refl (A := fun a _ => a ≠ Reg.MGT_WUNDER u) (State.wf_watchCounted tables (u := u) (v := s.watchValue u v))
  have noted (level : Bool) (m : Mgmt) : KeepsBits (fun a _ => a ≠ Reg.MGT_WUNDER u) (s.watchCounted u (s.watchValue u v))
      (if level then { s.watchCounted u (s.watchValue u v) with mgmt := m } else s.watchCounted u (s.watchValue u v)) :=
    .ite (fun _ => same.withMgmt m) fun _ => same
  exact .ite (fun _ => (noted _ _).count _ fun _ _ _ named => named rfl) fun _ => noted ..

/-- What a sample that is due leaves in COUNT, MIN, MAX and the bins. -/
theorem watchSample_of_due {u : WatchNo} {x : Word} (tables : Tab.wf none s.regs = true) (takes : s.watchTakes u = true)
    (due : s.watchDue u = true) (kind : s.watchKind u ≠ 0x0B) {v : Word} (value : s.watchValue u x = v) :
    ∃ t, exec (.watchSample u x) s = .next t
      ∧ (t.reg (Reg.MGT_WCOUNT u)).toNat = min (2 ^ 32 - 1) ((s.reg (Reg.MGT_WCOUNT u)).toNat + 1)
      ∧ (s.reg (Reg.MGT_WCOUNT u) = 0 → t.reg (Reg.MGT_WMIN u) = v ∧ t.reg (Reg.MGT_WMAX u) = v)
      ∧ (s.reg (Reg.MGT_WCOUNT u) ≠ 0 →
          (t.reg (Reg.MGT_WMIN u)).toInt = min v.toInt (s.reg (Reg.MGT_WMIN u)).toInt
          ∧ (t.reg (Reg.MGT_WMAX u)).toInt = max v.toInt (s.reg (Reg.MGT_WMAX u)).toInt)
      ∧ ∃ b < 32, (∀ i < 32, t.reg (Reg.MGT_WBIN u i)
            = if i = b then BitVec.ofNat 32 (min (2 ^ 32 - 1) ((s.reg (Reg.MGT_WBIN u i)).toNat + 1)) else s.reg (Reg.MGT_WBIN u i))
          ∧ (v.toInt < (s.reg (Reg.MGT_WBASE u)).toInt → b = 0) := by
  obtain ⟨t, sampled, same⟩ := watchSample_eq (v := x) tables takes due kind
  rw [value] at same
  have read {a : Nat} (other : a ≠ Reg.MGT_WUNDER u) : t.reg a = _ := (same.reg fun _ _ => other).trans (State.reg_watchCounted tables a)
  refine ⟨t, sampled, ?count, fun first => ?first, fun later => ?later, s.watchBinOf u v, watchBin_lt .., fun i few => ?bin,
    fun under => watchBin_of_neg _ (by omega) _⟩
  case count =>
    rw [read (by simp only [Reg.MGT_WCOUNT, Reg.MGT_WUNDER]; omega), if_pos (.inr rfl), BitVec.toNat_ofNat]
    omega
  case bin =>
    rw [read (by simp only [Reg.MGT_WBIN, Reg.MGT_WUNDER]; omega),
      State.reg_watchExtremes_other tables (by simp only [Reg.MGT_WBIN, Reg.MGT_WMIN]; omega) (by simp only [Reg.MGT_WBIN, Reg.MGT_WMAX]; omega)]
    have place : (Reg.MGT_WBIN u i = Reg.MGT_WBIN u (s.watchBinOf u v) ∨ Reg.MGT_WBIN u i = Reg.MGT_WCOUNT u) ↔ i = s.watchBinOf u v := by
      simp only [Reg.MGT_WBIN, Reg.MGT_WCOUNT]
      omega
    exact if_congr place rfl rfl
  all_goals
    have low : t.reg (Reg.MGT_WMIN u) = _ := (read (by simp only [Reg.MGT_WMIN, Reg.MGT_WUNDER]; omega)).trans
      ((if_neg (by simp only [Reg.MGT_WMIN, Reg.MGT_WBIN, Reg.MGT_WCOUNT]; omega)).trans (State.reg_watchExtremes_min tables))
    have high : t.reg (Reg.MGT_WMAX u) = _ := (read (by simp only [Reg.MGT_WMAX, Reg.MGT_WUNDER]; omega)).trans
      ((if_neg (by simp only [Reg.MGT_WMAX, Reg.MGT_WBIN, Reg.MGT_WCOUNT]; omega)).trans (State.reg_watchExtremes_max tables))
    rw [low, high]
  case first => simp only [first, beq_self_eq_true, Bool.true_or, if_true, and_self]
  case later =>
    have counted : (s.reg (Reg.MGT_WCOUNT u) == 0) = false := beq_false_of_ne later
    simp only [counted, Bool.false_or, decide_eq_true_eq]
    constructor <;> split <;> omega

/-- A capture that START, the count and the core's watch let begin. -/
theorem watchStart_of_opens {u : WatchNo} (opens : s.watchOpens u) : exec (.watchStart u) s = .next (match watchScope u with
    | .region r => if (s.setWatchState u wsCapturing).watchClaim r u = true ∧ (s.setWatchState u wsCapturing).rstate r = stBivouac
        then (s.setWatchState u wsCapturing).clockUp r else s.setWatchState u wsCapturing
    | _ => s.setWatchState u wsCapturing) := congrArg Host.Outcome.next (State.watchBegin_of_opens opens)

end Sys2Proof.Machine
end

section
/-! CLAIM. Mailbox, watch units, SMBus, reset input and test access port answer and act as their rules say. -/

namespace Sys2Proof.Machine

variable {s : State} {p : PortNo} {tid : Word}

/-- FW_COMMIT empties the buffer: an image that fails frees the mailbox, one that passes is written. -/
theorem fwCommit_of_free (live : s.aonLive = true) (opened : s.linkIn (portLink p) = true) (free : s.mbBusy p = false) :
    ∃ t, exec (.fwCommit p tid) s = .next t ∧ t.mgmt.fill = 0 ∧ t.attic = s.attic
      ∧ (match s.staged.reject s.fuses.keyHash s.fuses.k with
        | some _ => t.mgmt.busy = none ∧ t.dev = s.dev
        | none => t.mgmt.busy = some (p.val, tid.toNat) ∧ ∃ w, t.dev.flashing = some w
            ∧ w.image = s.staged ∧ w.port = p.val ∧ w.tid = tid.toNat
            ∧ 36 * second ≤ (w.until_ - s.clk.raw).toNat ∧ (w.until_ - s.clk.raw).toNat ≤ 44 * second) := by
  cases check : s.staged.reject s.fuses.keyHash s.fuses.k with
  | some why => exact fwCommit_of_rejected live opened free check
  | none => exact fwCommit_of_passed live opened free check

end Sys2Proof.Machine

namespace Sys2Proof

open Machine

/-- Settles O60: every operation has its own lemma above, under the conditions of its clause. -/
theorem managementCommands : Obligations.ManagementCommands := by
  unfold Obligations.ManagementCommands
  intro s p tid x0 nonce addr d n u m low sg ti x open' mine o
  refine ⟨fun live opened own => ?mailbox, fun live opened held => ?other, mailboxTimeout_of_held, fun w => State.atticWrites_of_flashed,
    fun canon => ?watch, fun live => ?smbus, testReset_of_on,
    fun long on fed => ⟨_, nreset_of_long long on fed, rfl, rfl, rfl, rfl, State.cutWrites_of_none, rfl, rfl, rfl, rfl, rfl⟩, nreset_of_short⟩
  case other =>
    change execGetIdentity p tid s = _
    exact State.mailbox_of_busy live opened _ _ _ (State.mbBusy_of_other held)
  case mailbox =>
    have free : s.mbBusy p = false := State.mbBusy_of_mine own.1 own.2
    exact ⟨getIdentity_of_free live opened free, attest_of_free live opened free nonce, fwWrite_of_free live opened free,
      fwCommit_of_free live opened free, fwActivate_of_running live opened free, fwActivate_of_aon live opened free,
      fun unverified => ⟨logRead_of_unverified live opened free unverified addr n, recordRead_of_unverified live opened free unverified addr n⟩,
      fun verified inside => ⟨logRead_of_inside live opened free verified inside, recordRead_of_inside live opened free verified inside⟩⟩
  case watch =>
    have tables : Tab.wf none s.regs = true := (canon_iff.1 canon).regs
    exact ⟨wctlArm_of_stopped tables, watchSample_of_undue, wctlStop_of_going,
      fun armed reached free => watchStart_of_opens ⟨armed, reached, free⟩, watchEnd_of_reached,
      fun takes due kind => watchSample_of_due tables takes due kind rfl⟩
  case smbus =>
    refine ⟨stage_of_live live, State.smbRead_of_live live .., State.smbRead_of_live live .., pin_of_live live,
      State.smbRead_of_live live .., State.smbRead_of_live live .., alertStatus_of_live live, State.smbRead_of_live live ..,
      alertMask_of_write live m, alertResponse_of_released, alertResponse_of_asserted live, debugUnlock_of_live live sg,
      fun opened => ⟨?_, ?_⟩, fun shut => ⟨?_, ?_⟩, tapLoad_published live, State.scanOut_tap ti, rfl, rfl⟩
    · rw [tapLoad_extest live, if_pos opened]
    · rw [tapLoad_unpublished live, if_pos opened]
    · rw [tapLoad_extest live, if_neg (Bool.eq_false_iff.1 shut)]
    · rw [tapLoad_unpublished live, if_neg (Bool.eq_false_iff.1 shut)]

end Sys2Proof
end

section
/-! CLAIM. Ceilings fall and rise by one, a trip stops every region, and its release starts it again (R409 to R412). -/

namespace Sys2Proof.Machine

variable {A : Nat → Nat → Prop} {s t : State} {q r : Nat}

-- Folds that reach a fact

/-- What one step of a fold brings about and no step undoes holds after it; J holds all along. -/
theorem foldl_reaches {α β : Type} (J P : β → Prop) (f : β → α → β) {l : List α} {s : β} {x : α} (listed : x ∈ l) (start : J s)
    (holds : ∀ u, ∀ y ∈ l, J u → J (f u y)) (reaches : ∀ u, J u → P (f u x)) (keeps : ∀ u, ∀ y ∈ l, J u → P u → P (f u y)) :
    P (l.foldl f s) := by
  induction l generalizing s with
  | nil => cases listed
  | cons y l ih =>
    rw [List.foldl_cons]
    have first : J (f s y) := holds s y List.mem_cons_self start
    by_cases later : x ∈ l
    · exact ih later first (fun u y mem => holds u y (.tail _ mem)) fun u y mem => keeps u y (.tail _ mem)
    · obtain rfl : x = y := by simpa [later] using listed
      exact (foldl_inv (fun u => J u ∧ P u) f (fun u y mem h => ⟨holds u y (.tail _ mem) h.1, keeps u y (.tail _ mem) h.1 h.2⟩)
        ⟨first, reaches s start⟩).2

-- Bits that readings and rates leave as they are

/-- Registers below the regions (R462). -/
theorem regionFree_of_low (low : ∀ a i, A a i → a < 0x4000000) : RegionFree A r := fun a i named => by
  have := low a i named
  simp only [Reg.rgnBase]
  omega

/-- The bits of the thermal ceiling of region q. -/
def CeilBits (q a i : Nat) : Prop := a = Reg.RGN_RATE q ∧ 10 ≤ i ∧ i < 15

/-- The bits of the temperature of region q. -/
def TempBits (q a i : Nat) : Prop := a = Reg.RGN_TEMP q ∧ i < 8

theorem KeepsBits.thCeil (same : KeepsBits (CeilBits q) s t) : t.thCeil q = s.thCeil q := same.regF fun _ low high => ⟨rfl, low, high⟩

theorem KeepsBits.temp (same : KeepsBits (TempBits q) s t) : t.regF (Reg.RGN_TEMP q) 0 8 = s.regF (Reg.RGN_TEMP q) 0 8 :=
  same.regF fun _ _ high => ⟨rfl, high⟩

section
variable (same : KeepsBits A s t)
include same

theorem KeepsBits.readTemp (temp : Nat) (apart : ∀ i, ¬ A (Reg.RGN_TEMP r) i) : KeepsBits A s (t.readTemp r temp) :=
  (same.setRegF _ fun i _ _ => apart i).setRegF _ fun i _ _ => apart i

theorem KeepsBits.setRate (k : Nat) (rate : ∀ i < 5, ¬ A (Reg.RGN_RATE r) i) (stops : ∀ i, ¬ A (Reg.RGN_CLKSTR r) i) :
    KeepsBits A s (t.setRate r k) :=
  .ite (fun _ => same) fun _ => (same.setRegF _ fun i _ high => rate i (by omega)).count _ fun i _ _ => stops i

theorem KeepsBits.clipRate (rate : ∀ i < 5, ¬ A (Reg.RGN_RATE r) i) (stops : ∀ i, ¬ A (Reg.RGN_CLKSTR r) i) :
    KeepsBits A s (t.clipRate r) := .ite (fun _ => same.setRate _ rate stops) fun _ => same

theorem KeepsBits.openSwitches (free : RegionFree A r) : KeepsBits A s (t.openSwitches r) :=
  .ite (fun _ => same.toBivouac free) fun _ => same

end

-- One ceiling comes down (R409)

/-- What a lowered ceiling does besides: the count, the report and the rate. -/
theorem State.lowerThermal_after (tables : Tab.wf none s.regs = true) (above : 8 < s.thCeil r) (count : ∀ i, ¬ A (Reg.RGN_THROT r) i)
    (drops : ∀ i, ¬ A (Reg.RNG_DROPS 128) i) (rate : ∀ i < 5, ¬ A (Reg.RGN_RATE r) i) (stops : ∀ i, ¬ A (Reg.RGN_CLKSTR r) i) :
    KeepsBits A (s.setRegF (Reg.RGN_RATE r) 10 5 (s.thCeil r - 1)) (s.lowerThermal r) := by
  rw [State.lowerThermal]
  refine KeepsBits.ite (fun low => absurd low (by omega)) fun _ => ?_
  have counted := (KeepsBits.refl (A := A) (wf_setRegF tables (Reg.RGN_RATE r) 10 5 (s.thCeil r - 1))).count
    (a := Reg.RGN_THROT r) (lo := 0) (len := 16) 1 fun i _ _ => count i
  exact (KeepsBits.ite (fun _ => (counted.updRg r _).post drops ..) fun _ => counted).clipRate rate stops

theorem State.lowerThermal_of_low (low : s.thCeil r ≤ 8) : s.lowerThermal r = s := if_pos low

theorem State.thCeil_lowerThermal (tables : Tab.wf none s.regs = true) (q r : Nat) :
    (s.lowerThermal r).thCeil q = if q = r ∧ 8 < s.thCeil q then s.thCeil q - 1 else s.thCeil q := by
  by_cases low : s.thCeil r ≤ 8
  · rw [State.lowerThermal_of_low low, if_neg (by rintro ⟨rfl, above⟩; omega)]
  have apart : ∀ i, ¬ CeilBits q (Reg.RGN_THROT r) i := by simp only [CeilBits, Reg.RGN_THROT, Reg.RGN_RATE, Reg.rgnBase]; omega
  have drops : ∀ i, ¬ CeilBits q (Reg.RNG_DROPS 128) i := by simp only [CeilBits, Reg.RNG_DROPS, Reg.rngBase, Reg.RGN_RATE, Reg.rgnBase]; omega
  have stops : ∀ i, ¬ CeilBits q (Reg.RGN_CLKSTR r) i := by simp only [CeilBits, Reg.RGN_CLKSTR, Reg.RGN_RATE, Reg.rgnBase]; omega
  rw [(State.lowerThermal_after tables (by omega) apart drops (by unfold CeilBits; omega) stops).thCeil]
  by_cases own : q = r
  · subst own
    have width := fld_lt (s.reg (Reg.RGN_RATE q)) 10 5
    rw [if_pos ⟨rfl, by omega⟩, State.thCeil, regF_setRegF_same tables _ (by decide)]
    rw [← State.regF, ← State.thCeil] at width
    omega
  · rw [if_neg (by tauto)]
    exact regF_setRegF_other tables (.inl (by simp only [Reg.RGN_RATE, Reg.rgnBase]; omega))

theorem KeepsBits.lowerThermal (same : KeepsBits A s t) (inside : ∀ o, o = 0xf004 ∨ o = 0xf01c ∨ o = 0xf104 → ∀ i, ¬ A (Reg.rgnBase r + o) i)
    (drops : ∀ i, ¬ A (Reg.RNG_DROPS 128) i) : KeepsBits A s (t.lowerThermal r) := by
  by_cases low : t.thCeil r ≤ 8
  · rwa [State.lowerThermal_of_low low]
  · have rate : ∀ i, ¬ A (Reg.RGN_RATE r) i := inside 0xf004 (.inl rfl)
    exact (same.setRegF _ fun i _ _ => rate i).trans
      (State.lowerThermal_after same.tables (by omega) (inside 0xf01c (.inr (.inl rfl))) drops (fun i _ => rate i) (inside 0xf104 (.inr (.inr rfl))))

theorem State.wf_lowerThermal (tables : Tab.wf none s.regs = true) : Tab.wf none (s.lowerThermal r).regs = true :=
  ((KeepsBits.refl (A := fun _ _ => False) tables).lowerThermal (fun _ _ _ h => h) fun _ h => h).tables

/-- Each region of a list without repeats comes down once. -/
theorem State.thCeil_foldl_lowerThermal (tables : Tab.wf none s.regs = true) {l : List Nat} (once : l.Nodup) (q : Nat) :
    (l.foldl State.lowerThermal s).thCeil q = if q ∈ l ∧ 8 < s.thCeil q then s.thCeil q - 1 else s.thCeil q := by
  induction l generalizing s with
  | nil => simp
  | cons r l ih =>
    obtain ⟨new, once⟩ := List.nodup_cons.1 once
    rw [List.foldl_cons, ih (State.wf_lowerThermal tables) once, State.thCeil_lowerThermal tables]
    by_cases own : q = r
    · subst own; simp [new]
    · simp [own]

-- The readings of a slab (R409)

theorem nodup_slabRegions (sl : Nat) : (slabRegions sl).Nodup := List.nodup_range.filter _

theorem nodup_fieldRegions (sl f : Nat) : (fieldRegions sl f).Nodup := List.nodup_range.filter _

/-- The readings of a slab's regions, noted (R409). -/
def State.readTemps (s : State) (sl : SlabNo) (temps : List (BitVec 8)) : State :=
  (slabRegions sl).zipIdx.foldl (fun s p => (temps[p.2]?).elim s fun t => s.readTemp p.1 t.toNat) s

theorem KeepsBits.readTemps (same : KeepsBits A s t) (sl : SlabNo) (temps : List (BitVec 8)) (apart : ∀ r i, ¬ A (Reg.RGN_TEMP r) i) :
    KeepsBits A s (t.readTemps sl temps) := same.foldl fun u p _ same => by
  cases temps[p.2]? with
  | none => exact same
  | some x => exact same.readTemp _ (apart p.1)

theorem State.temp_readTemp (tables : Tab.wf none s.regs = true) (r : Nat) (x : BitVec 8) :
    (s.readTemp r x.toNat).regF (Reg.RGN_TEMP r) 0 8 = x.toNat := by
  rw [State.readTemp, regF_setRegF_other (wf_setRegF tables ..) (.inr (.inl (by decide))), regF_setRegF_same tables _ (by decide)]
  exact Nat.mod_eq_of_lt x.isLt

theorem State.temp_readTemps (tables : Tab.wf none s.regs = true) {sl : SlabNo} {temps : List (BitVec 8)} {i : Nat} {x : BitVec 8}
    (placed : (slabRegions sl)[i]? = some q) (given : temps[i]? = some x) : (s.readTemps sl temps).regF (Reg.RGN_TEMP q) 0 8 = x.toNat := by
  have listed : (q, i) ∈ (slabRegions sl).zipIdx := List.mem_zipIdx_iff_getElem?.2 placed
  refine foldl_reaches (fun u : State => Tab.wf none u.regs = true) (fun u => u.regF (Reg.RGN_TEMP q) 0 8 = x.toNat) _ listed tables
    (fun u p _ wf => ?_) (fun u wf => ?_) fun u p other wf read => ?_
  · cases temps[p.2]? with
    | none => exact wf
    | some y => exact wf_setRegF (wf_setRegF wf ..) ..
  · simp only [given, Option.elim_some]
    exact State.temp_readTemp wf q x
  · cases reading : temps[p.2]? with
    | none => exact read
    | some y =>
      have there := List.mem_zipIdx_iff_getElem?.1 other
      by_cases own : p.1 = q
      · have at_ : p.2 = i := (List.getElem?_inj (List.getElem?_eq_some_iff.1 there).1 (nodup_slabRegions sl)).1 (by rw [there, placed, own])
        obtain rfl : x = y := by rw [at_, given] at reading; exact Option.some.inj reading
        rw [own]
        exact State.temp_readTemp wf q x
      · exact (((KeepsBits.refl wf).readTemp (r := p.1) _ (by simp only [TempBits, Reg.RGN_TEMP, Reg.rgnBase]; omega)).temp (q := q)).trans read

-- The hottest region (R409)

/-- The hotter of two regions, the first of equals. -/
def hotter (temp : Nat → Nat) (b : Option Nat) (r : Nat) : Option Nat :=
  match b with
  | some q => if temp q < temp r then some r else b
  | none => some r

theorem hotter_isSome (temp : Nat → Nat) (b : Option Nat) (r : Nat) : (hotter temp b r).isSome = true := by
  cases b with
  | none => rfl
  | some q => rw [hotter]; split <;> rfl

/-- A pick along a list is of the list or the one at the start, and as hot as any. -/
theorem foldl_hotter {temp : Nat → Nat} {l : List Nat} {b : Option Nat} {h : Nat} (picked : l.foldl (hotter temp) b = some h) :
    (h ∈ l ∨ b = some h) ∧ (∀ q, q ∈ l ∨ b = some q → temp q ≤ temp h) := by
  induction l generalizing b with
  | nil =>
    obtain rfl : b = some h := picked
    exact ⟨.inr rfl, by simp⟩
  | cons r l ih =>
    obtain ⟨of, most⟩ := ih picked
    cases b with
    | none => exact ⟨by simpa [hotter, eq_comm, or_comm] using of, by simpa [hotter, eq_comm, or_comm, or_imp, forall_and] using most⟩
    | some p =>
      by_cases cooler : temp p < temp r
      · simp only [hotter, cooler, if_true, Option.some.injEq] at of most
        refine ⟨?_, ?_⟩
        · rcases of with later | rfl <;> simp [*]
        · rintro q (listed | start)
          · rcases List.mem_cons.1 listed with rfl | later
            · exact most q (.inr rfl)
            · exact most q (.inl later)
          · obtain rfl : p = q := Option.some.inj start
            exact Nat.le_trans (Nat.le_of_lt cooler) (most r (.inr rfl))
      · simp only [hotter, cooler, if_false, Option.some.injEq] at of most
        refine ⟨?_, ?_⟩
        · rcases of with later | rfl <;> simp [*]
        · rintro q (listed | start)
          · rcases List.mem_cons.1 listed with rfl | later
            · exact Nat.le_trans (Nat.le_of_not_lt cooler) (most p (.inr rfl))
            · exact most q (.inl later)
          · exact most q (.inr (Option.some.inj start))

theorem foldl_hotter_none {temp : Nat → Nat} {l : List Nat} (none : l.foldl (hotter temp) none = none) : l = [] := by
  cases l with
  | nil => rfl
  | cons r l =>
    have some := foldl_inv (fun b : Option Nat => b.isSome = true) (hotter temp) (l := l) (s := hotter temp Option.none r)
      (fun b q _ _ => hotter_isSome temp b q) (hotter_isSome ..)
    rw [List.foldl_cons] at none
    rw [none] at some
    cases some

/-- The regions of a slab that a lower ceiling would cool. -/
def State.tooHot (s : State) (sl : SlabNo) (q : Nat) : Prop :=
  q ∈ slabRegions sl ∧ 95 ≤ s.regF (Reg.RGN_TEMP q) 0 8 ∧ 8 < s.thCeil q

theorem State.hottest_eq (s : State) (sl : Nat) : s.hottest sl
    = ((slabRegions sl).filter fun r => decide (95 ≤ s.regF (Reg.RGN_TEMP r) 0 8) && decide (8 < s.thCeil r)).foldl
        (hotter fun r => s.regF (Reg.RGN_TEMP r) 0 8) none := rfl

theorem State.mem_tooHot {sl : SlabNo} :
    (q ∈ (slabRegions sl).filter fun r => decide (95 ≤ s.regF (Reg.RGN_TEMP r) 0 8) && decide (8 < s.thCeil r)) ↔ s.tooHot sl q := by
  simp [State.tooHot]

theorem State.hottest_none {sl : SlabNo} (cool : s.hottest sl = none) : ¬ s.tooHot sl q := fun hot => by
  rw [State.hottest_eq] at cool
  have := State.mem_tooHot.2 hot
  rw [foldl_hotter_none cool] at this
  cases this

theorem State.hottest_some {sl : SlabNo} {h : Nat} (picked : s.hottest sl = some h) :
    s.tooHot sl h ∧ ∀ q, s.tooHot sl q → s.regF (Reg.RGN_TEMP q) 0 8 ≤ s.regF (Reg.RGN_TEMP h) 0 8 := by
  rw [State.hottest_eq] at picked
  obtain ⟨of, most⟩ := foldl_hotter picked
  exact ⟨State.mem_tooHot.1 (of.resolve_right (by simp)), fun q hot => most q (.inl (State.mem_tooHot.2 hot))⟩

end Sys2Proof.Machine
end

section
/-! CLAIM. Readings, trips and the coolant (R409 to R412). -/

namespace Sys2Proof.Machine

variable {s t : State} {q r : Nat}

theorem State.tooHot_of_same (sl : SlabNo) {s t : State} (ceil : t.thCeil q = s.thCeil q) :
    t.tooHot sl q ↔ q ∈ slabRegions sl ∧ 95 ≤ t.regF (Reg.RGN_TEMP q) 0 8 ∧ 8 < s.thCeil q := by rw [State.tooHot, ceil]

/-- Readings leave the ceilings as they are. -/
theorem State.thCeil_readTemps (tables : Tab.wf none s.regs = true) (sl : SlabNo) (temps : List (BitVec 8)) (q : Nat) :
    (s.readTemps sl temps).thCeil q = s.thCeil q :=
  ((KeepsBits.refl tables).readTemps sl temps (by simp only [CeilBits, Reg.RGN_TEMP, Reg.RGN_RATE, Reg.rgnBase]; omega)).thCeil

theorem State.thCeil_readTemp (tables : Tab.wf none s.regs = true) (r x q : Nat) : (s.readTemp r x).thCeil q = s.thCeil q :=
  ((KeepsBits.refl tables).readTemp x (by simp only [CeilBits, Reg.RGN_TEMP, Reg.RGN_RATE, Reg.rgnBase]; omega)).thCeil

theorem State.wf_readTemps (tables : Tab.wf none s.regs = true) (sl : SlabNo) (temps : List (BitVec 8)) :
    Tab.wf none (s.readTemps sl temps).regs = true :=
  ((KeepsBits.refl (A := fun _ _ => False) tables).readTemps sl temps fun _ _ h => h).tables

theorem State.temp_lowerThermal (tables : Tab.wf none s.regs = true) (q r : Nat) :
    (s.lowerThermal r).regF (Reg.RGN_TEMP q) 0 8 = s.regF (Reg.RGN_TEMP q) 0 8 :=
  ((KeepsBits.refl tables).lowerThermal
    (by simp only [TempBits, Reg.RGN_TEMP, Reg.rgnBase]; omega)
    (by simp only [TempBits, Reg.RGN_TEMP, Reg.rgnBase, Reg.RNG_DROPS, Reg.rngBase]; omega)).temp

/-- A slab's readings are noted, and one of its hottest regions comes down, if any is hot and not down already. -/
theorem thermalCeilingLower_of_live (tables : Tab.wf none s.regs = true) (live : s.aonLive = true) (sl : SlabNo) (temps : List (BitVec 8)) :
    ∃ t, exec (.thermalCeilingLower sl temps) s = .next t
      ∧ (∀ (i q : Nat) (x : BitVec 8), (slabRegions sl)[i]? = some q → temps[i]? = some x →
          (s.readTemps sl temps).regF (Reg.RGN_TEMP q) 0 8 = x.toNat ∧ t.regF (Reg.RGN_TEMP q) 0 8 = x.toNat)
      ∧ ((∀ q, ¬ (s.readTemps sl temps).tooHot sl q) → ∀ q, t.thCeil q = s.thCeil q)
      ∧ ((∃ q, (s.readTemps sl temps).tooHot sl q) → ∃ h, (s.readTemps sl temps).tooHot sl h
          ∧ (∀ q, (s.readTemps sl temps).tooHot sl q →
              (s.readTemps sl temps).regF (Reg.RGN_TEMP q) 0 8 ≤ (s.readTemps sl temps).regF (Reg.RGN_TEMP h) 0 8)
          ∧ ∀ q, t.thCeil q = if q = h then s.thCeil q - 1 else s.thCeil q) := by
  have ran : exec (.thermalCeilingLower sl temps) s
      = .next (((s.readTemps sl temps).hottest sl).elim (s.readTemps sl temps) (s.readTemps sl temps).lowerThermal) :=
    if_neg (by rw [live]; decide)
  have wf := State.wf_readTemps tables sl temps
  have ceil := State.thCeil_readTemps tables sl temps
  have temp {i q : Nat} {x : BitVec 8} := State.temp_readTemps tables (sl := sl) (temps := temps) (q := q) (i := i) (x := x)
  generalize s.readTemps sl temps = read at ran wf ceil temp ⊢
  refine ⟨_, ran, ?_⟩
  cases picked : read.hottest sl with
  | none => exact ⟨fun i q x at_ given => ⟨temp at_ given, temp at_ given⟩, fun _ q => ceil q, fun ⟨q, hot⟩ => absurd hot (State.hottest_none picked)⟩
  | some h =>
    obtain ⟨hot, most⟩ := State.hottest_some picked
    refine ⟨fun i q x at_ given => ⟨temp at_ given, (State.temp_lowerThermal wf q h).trans (temp at_ given)⟩,
      fun cool => absurd hot (cool h), fun _ => ⟨h, hot, most, fun q => ?_⟩⟩
    refine (State.thCeil_lowerThermal wf q h).trans (if_congr ⟨And.left, fun own => ⟨own, ?_⟩⟩ ?_ ?_)
    · exact own ▸ hot.2.2
    · rw [ceil]
    · rw [ceil]

/-- A cool reading raises a lowered ceiling by 1/16. -/
theorem thermalCeilingRaise_of_cool (tables : Tab.wf none s.regs = true) (live : s.aonLive = true) {r : RegionNo} {temp : BitVec 8}
    (cool : temp.toNat ≤ 92) (lowered : s.thCeil r < 16) :
    ∃ t, exec (.thermalCeilingRaise r temp) s = .next t ∧ t.thCeil r = s.thCeil r + 1 ∧ t.regF (Reg.RGN_TEMP r) 0 8 = temp.toNat
      ∧ ∀ q : Nat, q ≠ r → t.thCeil q = s.thCeil q := by
  have ceil := State.thCeil_readTemp tables r temp.toNat
  have read := State.temp_readTemp tables r temp
  have wf : Tab.wf none (s.readTemp r temp.toNat).regs = true := wf_setRegF (wf_setRegF tables ..) ..
  change ∃ t, execThermalCeilingRaise r temp s = _ ∧ _
  rw [execThermalCeilingRaise, live]
  simp only [Bool.not_true, Bool.false_eq_true, if_false]
  rw [if_neg (by rw [ceil]; omega)]
  generalize s.readTemp r temp.toNat = u at ceil read wf ⊢
  let raised := u.setRegF (Reg.RGN_RATE r) 10 5 (u.thCeil r + 1)
  have same {A : Nat → Nat → Prop} (drops : ∀ i, ¬ A (Reg.RNG_DROPS 128) i) : KeepsBits A raised (if u.thCeil r = 15
      then raised.post 0x0202 (srcRegion r) [(0, min (2 ^ 32 - 1) ((raised.now - (raised.rg r).throtSince).toNat / micro))] else raised) :=
    .ite (fun _ => (KeepsBits.refl (wf_setRegF wf ..)).post drops ..) fun _ => .refl (wf_setRegF wf ..)
  have ceilings (q : Nat) := (same (A := CeilBits q)
    (by simp only [CeilBits, Reg.RNG_DROPS, Reg.rngBase, Reg.RGN_RATE, Reg.rgnBase]; omega)).thCeil
  have temps := (same (A := TempBits r)
    (by simp only [TempBits, Reg.RNG_DROPS, Reg.rngBase, Reg.RGN_TEMP, Reg.rgnBase]; omega)).temp
  refine ⟨_, rfl, (ceilings r).trans ?_, (temps.trans ?_).trans read, fun q other => ((ceilings q).trans ?_).trans (ceil q)⟩
  · rw [← ceil] at lowered ⊢
    exact (regF_setRegF_same wf _ (by decide)).trans (Nat.mod_eq_of_lt (by omega))
  · exact regF_setRegF_other wf (.inl (by simp only [Reg.RGN_RATE, Reg.RGN_TEMP, Reg.rgnBase]; omega))
  · exact regF_setRegF_other wf (.inl (by simp only [Reg.RGN_RATE, Reg.rgnBase]; omega))

/-- Bits below the regions that the ceilings of a field leave as they are. -/
theorem KeepsBits.foldl_lowerThermal {A : Nat → Nat → Prop} (same : KeepsBits A s t) (l : List Nat) (low : ∀ a i, A a i → a < 0x4000000)
    (drops : ∀ i, ¬ A (Reg.RNG_DROPS 128) i) : KeepsBits A s (l.foldl State.lowerThermal t) :=
  same.foldl fun _ r _ same => same.lowerThermal (fun o which => (regionFree_of_low low).at o (by omega)) drops

/-- A stack is hot from 95 °C until it reads below 92 °C. -/
def State.stackIsHot (s : State) (sl : SlabNo) (f : BitVec 2) (temp : BitVec 8) : Bool :=
  decide (95 ≤ temp.toNat) || ((s.slab sl).hotFields.getLsbD f.toNat && decide (92 ≤ temp.toNat))

/-- A stack's reading, noted, and its first hot one posted. -/
def State.stackRead (s : State) (sl : SlabNo) (f : BitVec 2) (temp : BitVec 8) : State :=
  let noted := (s.setRegF (Reg.SLB_STACKT sl) (8 * f.toNat) 8 temp.toNat).updSlab sl fun x =>
    { x with hotFields := (x.hotFields &&& ~~~((1 : BitVec 4) <<< f.toNat)) ||| (BitVec.ofNat 4 (b2n (s.stackIsHot sl f temp)) <<< f.toNat) }
  if s.stackIsHot sl f temp && !(s.slab sl).hotFields.getLsbD f.toNat
  then noted.post 0x0204 (srcSlab sl) [(0, f.toNat), (1, temp.toNat)] else noted

theorem stackHot_eq (live : s.aonLive = true) (sl : SlabNo) (f : BitVec 2) (temp : BitVec 8) : exec (.stackHot sl f temp) s
    = .next (if s.stackIsHot sl f temp then (fieldRegions sl f.toNat).foldl State.lowerThermal (s.stackRead sl f temp)
        else s.stackRead sl f temp) := if_neg (by rw [live]; decide)

theorem KeepsBits.stackRead {A : Nat → Nat → Prop} {sl : SlabNo} {f : BitVec 2} {temp : BitVec 8} (drops : ∀ i, ¬ A (Reg.RNG_DROPS 128) i)
    (tables : Tab.wf none s.regs = true) :
    KeepsBits A (s.setRegF (Reg.SLB_STACKT sl) (8 * f.toNat) 8 temp.toNat) (s.stackRead sl f temp) := by
  have noted := (KeepsBits.refl (A := A) (wf_setRegF tables (Reg.SLB_STACKT sl) (8 * f.toNat) 8 temp.toNat)).updSlab sl fun x =>
    { x with hotFields := (x.hotFields &&& ~~~((1 : BitVec 4) <<< f.toNat)) ||| (BitVec.ofNat 4 (b2n (s.stackIsHot sl f temp)) <<< f.toNat) }
  exact .ite (fun _ => noted.post drops ..) fun _ => noted

theorem State.thCeil_stackRead (tables : Tab.wf none s.regs = true) (sl : SlabNo) (f : BitVec 2) (temp : BitVec 8) (q : Nat) :
    (s.stackRead sl f temp).thCeil q = s.thCeil q := by
  have slab := sl.isLt
  exact (KeepsBits.stackRead (by simp only [CeilBits, Reg.RNG_DROPS, Reg.rngBase, Reg.RGN_RATE, Reg.rgnBase]; omega) tables).thCeil.trans
    (regF_setRegF_other tables (.inl (by simp only [Reg.SLB_STACKT, Reg.slbBase, Reg.RGN_RATE, Reg.rgnBase]; omega)))

/-- A stack's reading is noted; a hot one lowers its field, a cool one lowers none. -/
theorem stackHot_of_live (tables : Tab.wf none s.regs = true) (live : s.aonLive = true) (sl : SlabNo) (f : BitVec 2) (temp : BitVec 8) :
    ∃ t, exec (.stackHot sl f temp) s = .next t ∧ t.regF (Reg.SLB_STACKT sl) (8 * f.toNat) 8 = temp.toNat
      ∧ (temp.toNat < 92 → ∀ q, t.thCeil q = s.thCeil q)
      ∧ (95 ≤ temp.toNat → ∀ q, t.thCeil q
          = if q ∈ fieldRegions sl f.toNat ∧ 8 < s.thCeil q then s.thCeil q - 1 else s.thCeil q) := by
  have ceil := State.thCeil_stackRead tables sl f temp
  have drops : Nat → Reg.RNG_DROPS 128 ≠ Reg.SLB_STACKT sl := by
    simp only [Reg.SLB_STACKT, Reg.slbBase, Reg.RNG_DROPS, Reg.rngBase]; omega
  have read : KeepsBits (fun a _ => a = Reg.SLB_STACKT sl) _ (s.stackRead sl f temp) := .stackRead drops tables
  refine ⟨_, stackHot_eq live sl f temp, ?_, fun cool q => ?_, fun warm q => ?_⟩
  · have slab := sl.isLt
    have field := f.isLt
    have fields : KeepsBits (fun a _ => a = Reg.SLB_STACKT sl) (s.stackRead sl f temp) _ :=
      (KeepsBits.refl read.tables).foldl_lowerThermal (fieldRegions sl f.toNat) (by simp only [Reg.SLB_STACKT, Reg.slbBase]; omega) drops
    have kept := read.trans (.ite (c := s.stackIsHot sl f temp = true) (fun _ => fields) fun _ => .refl read.tables)
    exact (kept.regF fun _ _ _ => rfl).trans ((regF_setRegF_same tables _ (by omega)).trans (Nat.mod_eq_of_lt temp.isLt))
  · rw [if_neg (by simp [State.stackIsHot]; omega)]
    exact ceil q
  · rw [if_pos (by simp [State.stackIsHot]; omega), State.thCeil_foldl_lowerThermal read.tables (nodup_fieldRegions ..), ceil]

-- The trip (R411)

/-- A region whose clock and wake are off. -/
def State.still (s : State) (q : Nat) : Prop := s.clocked q = false ∧ (s.rg q).waking = false

theorem State.clocked_of_rstate {v : Nat} (state : s.rstate q = v) (off : v ≠ stActive ∧ v ≠ stIdle) : s.clocked q = false := by
  simp [State.clocked, state, off]

/-- The bits of the power state of region q. -/
def StateBits (q a i : Nat) : Prop := a = Reg.RGN_PSTATE q ∧ i < 3

theorem KeepsBits.rstate (same : KeepsBits (StateBits q) s t) : t.rstate q = s.rstate q := same.regF fun _ _ high => ⟨rfl, high⟩

theorem KeepsBits.still (same : KeepsBits (StateBits q) s t) (rg : t.rg q = s.rg q) (was : s.still q) : t.still q := by
  rw [State.still, State.clocked, same.rstate, rg]
  exact was

theorem stateBits_free (other : q ≠ r) : RegionFree (StateBits q) r := fun a i ⟨own, _⟩ => by
  subst own
  simp only [Reg.RGN_PSTATE, Reg.rgnBase]
  omega

/-- BIVOUAC writes registers, and then the region's own record. -/
theorem State.toBivouac_eq (s : State) (r : Nat) : ∃ u, Frame [.regs] s u ∧ s.toBivouac r
    = u.updRg r fun g => { g with waking := false, wakeReq := none, scrubWin := false, bivSince := u.now, aperAt := none } := by
  rw [State.toBivouac]
  refine ⟨_, ?_, rfl⟩
  have stopped : Frame [.regs] s ((s.setRstate r stBivouac).setRegF (Reg.RGN_PSTATE r) 4 1 0) :=
    .andThen (State.setRegF_frame ..) (State.setRegF_frame ..)
  exact (((stopped.andThen (State.setRegF_frame ..)).andThen (State.setRegF_frame ..)).andThen (State.setSwitches_frame ..)).andThen
    (State.setRetention_frame ..)

/-- The record of a region in BIVOUAC, and what its entry leaves of the others. -/
theorem State.rg_toBivouac (canon : Canon s) (r q : Nat) : (s.toBivouac r).rg q
    = if q = r then { s.rg r with waking := false, wakeReq := none, scrubWin := false, bivSince := s.now, aperAt := none } else s.rg q := by
  obtain ⟨u, frame, eq⟩ := State.toBivouac_eq s r
  have regions : u.regions = s.regions := frame.part .regions (by decide)
  have now : u.now = s.now := congrArg Clock.counter (frame.part .clk (by decide))
  have rg (i : Nat) : u.rg i = s.rg i := by rw [State.rg, State.rg, regions]
  rw [eq, State.updRg_eq, rg_setRg (by rw [regions]; exact canon.regions), rg, rg, now]

theorem State.rstate_toBivouac (tables : Tab.wf none s.regs = true) (r : Nat) : (s.toBivouac r).rstate r = stBivouac := by
  have set : Tab.wf none (s.setRstate r stBivouac).regs = true := wf_setRegF tables ..
  have stopped : KeepsBits (StateBits r) (s.setRstate r stBivouac) ((s.setRstate r stBivouac).setRegF (Reg.RGN_PSTATE r) 4 1 0) :=
    (KeepsBits.refl set).setRegF _ (by unfold StateBits; omega)
  have other {o : Nat} (apart : o ≠ 0xf100) (i : Nat) : ¬ StateBits r (Reg.rgnBase r + o) i := fun own => by
    have := own.1
    simp only [Reg.RGN_PSTATE] at this
    omega
  have slow := (stopped.setRegF (a := Reg.RGN_RATE r) (lo := 0) (len := 5) 0 fun i _ _ => other (by decide) i).setRegF
    (a := Reg.RGN_RATE r) (lo := 15) (len := 1) 0 fun i _ _ => other (by decide) i
  have opened := ((slow.setRegF (a := Reg.RGN_PWR r) (lo := 0) (len := 2) 0 fun i _ _ => other (by decide) i).setRegF
    (a := Reg.RGN_PWR r) (lo := 2) (len := 1) 1 fun i _ _ => other (by decide) i).setRegF
    (a := Reg.RGN_PWR r) (lo := 3) (len := 1) 0 fun i _ _ => other (by decide) i
  have retained := opened.foldl (l := allSites r) (f := fun s site =>
      let p := s.regF (Reg.RGN_LARPWR site) 0 4
      if p = 0 then s else s.setRegF (Reg.RGN_LARPWR site) 8 4 (if true then p else 0)) fun _ site listed same =>
    .ite (fun _ => same) fun _ => same.setRegF _ fun i _ _ own => by
      have here := mem_allSites.1 listed
      have := own.1
      simp only [siteRegion, Reg.RGN_LARPWR, Reg.larBase, Reg.RGN_PSTATE, Reg.rgnBase] at here this
      omega
  have entered : (s.setRstate r stBivouac).rstate r = stBivouac := regF_setRegF_same tables _ (by decide)
  rw [State.toBivouac]
  refine Eq.trans (KeepsBits.rstate ?_) entered
  exact retained.updRg r _

theorem State.still_openSwitches (canon : Canon s) (r : Nat) : (s.openSwitches r).still r := by
  rw [State.openSwitches]
  split
  · refine ⟨State.clocked_of_rstate (State.rstate_toBivouac canon.regs r) (by decide), ?_⟩
    rw [State.rg_toBivouac canon, if_pos rfl]
  · next off => simpa [State.still] using off

theorem State.openSwitches_still (canon : Canon s) (r : Nat) (was : s.still q) : (s.openSwitches r).still q := by
  by_cases own : q = r
  · subst own
    exact State.still_openSwitches canon q
  · refine ((KeepsBits.refl canon.regs).openSwitches (stateBits_free own)).still ?_ was
    rw [State.openSwitches]
    split
    · rw [State.rg_toBivouac canon, if_neg own]
    · rfl

/-- One region of a trip: its switches open, and its slice refreshes itself. -/
def State.tripRegion (s : State) (r : Nat) : State :=
  let u := s.openSwitches r
  if u.regF (Reg.RGN_CELSTATE r) 0 2 = 0 then u else u.setRegF (Reg.RGN_CELSTATE r) 0 2 2

theorem State.tripRegion_frame (s : State) (r : Nat) : Frame [.regs, .regions] s (s.tripRegion r) :=
  .ite (fun _ => State.openSwitches_frame ..) fun _ => .andThen (State.openSwitches_frame ..) (State.setRegF_frame ..)

theorem KeepsBits.tripRegion {A : Nat → Nat → Prop} (same : KeepsBits A s t) (free : RegionFree A r) : KeepsBits A s (t.tripRegion r) :=
  .ite (fun _ => same.openSwitches free) fun _ => (same.openSwitches free).setRegF _ fun i _ _ => free.at 0xc000 (by decide) i

theorem State.tripRegion_still (canon : Canon s) (r : Nat) (was : (s.openSwitches r).still q) : (s.tripRegion r).still q := by
  have slice : ∀ i, ¬ StateBits q (Reg.RGN_CELSTATE r) i := by
    simp only [StateBits, Reg.RGN_PSTATE, Reg.RGN_CELSTATE, Reg.rgnBase]; omega
  have opened := ((State.openSwitches_frame s r).canon canon).regs
  have same : KeepsBits (StateBits q) (s.openSwitches r) (s.tripRegion r) :=
    .ite (fun _ => .refl opened) fun _ => (KeepsBits.refl opened).setRegF _ fun i _ _ => slice i
  refine same.still ?_ was
  rw [State.tripRegion]
  split <;> rfl

/-- Every region of a trip is still, however many there are. -/
theorem State.still_trip (canon : Canon s) (device : q < 192) : ((List.range 192).foldl State.tripRegion s).still q :=
  foldl_reaches Canon (State.still · q) _ (List.mem_range.2 device) canon (fun u r _ => (State.tripRegion_frame u r).canon)
    (fun _ canon => State.tripRegion_still canon q (State.still_openSwitches canon q))
    fun _ r _ canon was => State.tripRegion_still canon r (State.openSwitches_still canon r was)

/-- The reading that a trip comes with. -/
def State.readTrip (s : State) (src : TripSrc) (temp : BitVec 8) : State := match src with
  | .junction r => s.readTemp r temp.toNat
  | .stack sl f => s.setRegF (Reg.SLB_STACKT sl) (8 * f.toNat) 8 temp.toNat

theorem State.readTrip_frame (s : State) (src : TripSrc) (temp : BitVec 8) : Frame [.regs] s (s.readTrip src temp) := by
  cases src with
  | junction r => exact State.readTemp_frame ..
  | stack sl f => exact State.setRegF_frame ..

theorem State.readTrip_trips (tables : Tab.wf none s.regs = true) (src : TripSrc) (temp : BitVec 8) :
    (s.readTrip src temp).reg Reg.GLB_TRIPS = s.reg Reg.GLB_TRIPS := by
  have same : KeepsBits (fun a _ => a = Reg.GLB_TRIPS) s (s.readTrip src temp) := by
    cases src with
    | junction r => exact (KeepsBits.refl tables).readTemp _ (by simp only [Reg.RGN_TEMP, Reg.rgnBase, Reg.GLB_TRIPS]; omega)
    | stack sl f =>
      exact (KeepsBits.refl tables).setRegF (a := Reg.SLB_STACKT sl) _ (by simp only [Reg.SLB_STACKT, Reg.slbBase, Reg.GLB_TRIPS]; omega)
  exact same.reg fun _ _ => rfl

/-- A reading at the trip of its sensor. -/
def tripReached (src : TripSrc) (temp : BitVec 8) : Prop := match src with
  | .junction _ => 115 ≤ temp.toNat
  | .stack _ _ => 105 ≤ temp.toNat

/-- The end of a trip, once every region is still: it is asserted, counted, posted and reported. -/
def State.tripDone (u : State) (src : TripSrc) (source : BitVec 16) (data : List (Nat × Nat)) : State :=
  ((({ u with dev := { u.dev with tripped := true, nTrip := true } }.setReg Reg.GLB_TRIPS (u.reg Reg.GLB_TRIPS + 1)).post
    0x0203 source data).alert alTrip).report (.trip src)

theorem thermalTrip_eq (live : s.aonLive = true) (new : s.dev.tripped = false) {src : TripSrc} {temp : BitVec 8} (reached : tripReached src temp) :
    ∃ source data, exec (.thermalTrip src temp) s
      = .next (((List.range 192).foldl State.tripRegion (s.readTrip src temp)).tripDone src source data) := by
  have running : ¬ (!s.aonLive) = true := by rw [live]; decide
  cases src with
  | junction r =>
    have trips : ¬ (!decide (115 ≤ temp.toNat) || s.dev.tripped) = true := by simpa [new, tripReached] using reached
    refine ⟨srcRegion r, [(0, temp.toNat)], ?_⟩
    change execThermalTrip (.junction r) temp s = _
    refine (if_neg running).trans ((if_neg trips).trans ?_)
    change Host.Outcome.next (State.tripDone (List.foldl _ _ _) _ _ _) = _
    rfl
  | stack sl f =>
    have trips : ¬ (!decide (105 ≤ temp.toNat) || s.dev.tripped) = true := by simpa [new, tripReached] using reached
    refine ⟨srcSlab sl, [(0, temp.toNat), (1, f.toNat)], ?_⟩
    change execThermalTrip (.stack sl f) temp s = _
    refine (if_neg running).trans ((if_neg trips).trans ?_)
    change Host.Outcome.next (State.tripDone (List.foldl _ _ _) _ _ _) = _
    rfl

/-- A new trip stops every region, asserts itself, is counted and reported. -/
theorem thermalTrip_of_reached (canon : Canon s) (live : s.aonLive = true) (new : s.dev.tripped = false) {src : TripSrc} {temp : BitVec 8}
    (reached : tripReached src temp) :
    ∃ t, exec (.thermalTrip src temp) s = .next t ∧ t.dev.tripped = true ∧ t.dev.nTrip = true
      ∧ (∀ q < 192, t.clocked q = false ∧ (t.rg q).waking = false) ∧ t.resil.intake = s.resil.intake ++ [.trip src]
      ∧ t.reg Reg.GLB_TRIPS = s.reg Reg.GLB_TRIPS + 1 := by
  obtain ⟨source, data, ran⟩ := thermalTrip_eq live new reached
  have read := State.readTrip_frame s src temp
  have stopped : Frame [.regs, .regions] s ((List.range 192).foldl State.tripRegion (s.readTrip src temp)) :=
    .foldl (.widen read) fun u r h => h.andThen (State.tripRegion_frame u r)
  have still (q : Nat) (device : q < 192) := State.still_trip (read.canon canon) device
  have trips : ((List.range 192).foldl State.tripRegion (s.readTrip src temp)).reg Reg.GLB_TRIPS = s.reg Reg.GLB_TRIPS :=
    (((KeepsBits.refl (A := fun a _ => a = Reg.GLB_TRIPS) (read.canon canon).regs).foldl fun _ r _ same =>
      same.tripRegion (regionFree_of_low (by simp only [Reg.GLB_TRIPS]; omega))).reg fun _ _ => rfl).trans
      (State.readTrip_trips canon.regs src temp)
  generalize (List.range 192).foldl State.tripRegion (s.readTrip src temp) = u at ran stopped still trips
  rw [State.tripDone] at ran
  have wf := (stopped.canon canon).regs
  let counted := { u with dev := { u.dev with tripped := true, nTrip := true } }.setReg Reg.GLB_TRIPS (u.reg Reg.GLB_TRIPS + 1)
  have count : counted.reg Reg.GLB_TRIPS = u.reg Reg.GLB_TRIPS + 1 := (reg_setReg wf ..).trans (if_pos rfl)
  have posted := State.post_frame counted 0x0203 source data
  have bits {A : Nat → Nat → Prop} (drops : ∀ i, ¬ A (Reg.RNG_DROPS 128) i) : KeepsBits A counted (counted.post 0x0203 source data) :=
    (KeepsBits.refl (wf_setReg (s := { u with dev := { u.dev with tripped := true, nTrip := true } }) wf ..)).post drops ..
  have dev : (counted.post 0x0203 source data).dev = counted.dev := posted.part .dev (by decide)
  refine ⟨_, ran, congrArg Dev.tripped dev, congrArg Dev.nTrip dev, fun q device => ?_, ?_, ?_⟩
  · have set : counted.still q := ((KeepsBits.refl (s := { u with dev := { u.dev with tripped := true, nTrip := true } }) wf).setReg _
      (by simp only [StateBits, Reg.RGN_PSTATE, Reg.rgnBase, Reg.GLB_TRIPS]; omega)).still rfl (still q device)
    exact (bits (by simp only [StateBits, Reg.RGN_PSTATE, Reg.rgnBase, Reg.RNG_DROPS, Reg.rngBase]; omega)).still
      (by rw [State.rg, posted.part .regions (by decide), State.rg]) set
  · exact congrArg (· ++ [_]) (congrArg Resil.intake ((posted.part .resil (by decide)).trans (stopped.part .resil (by decide))))
  · refine ((bits (A := fun a _ => a = Reg.GLB_TRIPS) fun _ => by decide).reg fun _ _ => rfl).trans (count.trans (by rw [trips]))

-- The release and the coolant (R411, R412)

theorem tripRelease_of_cool {temp : BitVec 8} (tripped : s.dev.tripped = true) (cool : temp.toNat < 85) : exec (.tripRelease temp) s
    = .next { s with dev := { s.dev with tripped := false, nTrip := false } }.restartGo := if_neg (by rw [tripped]; simp [cool])

/-- A coolant reading is noted, and the first out of range is posted. -/
theorem coolantRange_of_on {inlet : BitVec 16} (on : s.dev.base ≠ .off) {bad : Bool}
    (range : (decide (inlet.toInt < 200) || decide (400 < inlet.toInt)) = bad) :
    let noted := { s with dev := { s.dev with coolBad := bad } }.setRegF Reg.GLB_COOLANT 0 16 inlet.toNat
    exec (.coolantRange inlet) s = .next (if bad && !s.dev.coolBad then noted.post 0x0205 srcModule [(0, inlet.toNat)] else noted) := by
  subst range
  exact if_neg on

end Sys2Proof.Machine

namespace Sys2Proof

open Machine

/-- Settles O54: the effects of each command on the ceilings, the temperatures and the power states, one lemma each above. -/
theorem heatCommands : Obligations.HeatCommands := by
  unfold Obligations.HeatCommands
  intro s sl temps r temp f src inlet canonical read
  have canon := canon_iff.1 canonical
  have tables := canon.regs
  refine ⟨fun live => ?lower, fun live cool lowered => ?raise, fun live => ?stack, fun live new reached => ?trip, tripRelease_of_cool,
    fun on => ?coolant⟩
  case lower =>
    intro temp hot
    have same (q : Nat) : (s.readTemps sl temps).tooHot sl q ↔ hot q := State.tooHot_of_same sl (State.thCeil_readTemps tables sl temps q)
    obtain ⟨t, ran, noted, none, one⟩ := thermalCeilingLower_of_live tables live sl temps
    refine ⟨t, ran, noted, fun cool q _ => none (fun q => (same q).not.2 (cool q)) q, fun ⟨q, warm⟩ => ?_⟩
    obtain ⟨h, first, most, ceil⟩ := one ⟨q, (same q).2 warm⟩
    exact ⟨h, (same h).1 first, fun q warm => most q ((same q).2 warm), fun q _ => ceil q⟩
  case raise =>
    obtain ⟨t, ran, up, noted, others⟩ := thermalCeilingRaise_of_cool tables live cool lowered
    exact ⟨t, ran, up, noted, fun q _ other => others q fun own => other (Fin.ext own)⟩
  case stack =>
    obtain ⟨t, ran, noted, none, field⟩ := stackHot_of_live tables live sl f temp
    exact ⟨t, ran, noted, fun cool q _ => none cool q, fun warm q _ => field warm q⟩
  case trip => exact thermalTrip_of_reached canon live new (by cases src <;> exact reached)
  case coolant =>
    refine ⟨fun good => ?_, fun bad new => ?_, fun bad old => ?_⟩
    · exact coolantRange_of_on on (bad := false) (by simpa using good)
    · refine (coolantRange_of_on on (bad := true) (by simpa using bad)).trans ?_
      rw [new]
      rfl
    · refine (coolantRange_of_on on (bad := true) (by simpa using bad)).trans ?_
      rw [old]
      rfl

end Sys2Proof
end

section
/-! CLAIM. A tick and a sample leave the registers of host time as they are (R303, R433). -/

namespace Sys2Proof.Machine

variable {A : Nat → Nat → Prop} {s t : State}

theorem KeepsBits.setAct (same : KeepsBits A s t) (a : Nat) (x : ActSt) : KeepsBits A s (t.setAct a x) := same.withRegs rfl

theorem KeepsBits.withStrm (same : KeepsBits A s t) (x : StreamSt) : KeepsBits A s { t with strm := x } := same.withRegs rfl

section
variable (inTime : ∀ a i, A a i → 0x5000 ≤ a ∧ a < 0x6000) (same : KeepsBits A s t)
include inTime same

theorem KeepsBits.setReg_outside {a : Nat} (v : Word) (apart : a < 0x5000 ∨ 0x6000 ≤ a) : KeepsBits A s (t.setReg a v) :=
  same.setReg v fun i named => by have := inTime a i named; omega

theorem KeepsBits.setRegF_outside {a : Nat} (lo len v : Nat) (apart : a < 0x5000 ∨ 0x6000 ≤ a) : KeepsBits A s (t.setRegF a lo len v) :=
  same.setReg_outside inTime _ apart

theorem KeepsBits.count_outside {a : Nat} (lo len d : Nat) (apart : a < 0x5000 ∨ 0x6000 ≤ a) : KeepsBits A s (t.count a lo len d) :=
  same.setReg_outside inTime _ apart

theorem KeepsBits.post_outside (code : Nat) (source : BitVec 16) (data : List (Nat × Nat)) : KeepsBits A s (t.post code source data) :=
  same.post (fun i named => by have := inTime _ i named; simp only [Reg.RNG_DROPS, Reg.rngBase] at this; omega) ..

theorem KeepsBits.postCoal (code : Nat) (source : BitVec 16) (n : Nat) (data : Nat → List (Nat × Nat)) :
    KeepsBits A s (t.postCoal code source n data) := by
  unfold State.postCoal
  extract_lets key put
  split
  · exact .ite (fun _ => same.withJobs _) fun _ => (same.post_outside inTime ..).withJobs _
  · exact (same.post_outside inTime ..).withJobs _

theorem KeepsBits.postSlip (w : Word) (us : Nat) : KeepsBits A s (t.postSlip w us) := by
  unfold State.postSlip
  extract_lets key put
  split
  · exact .ite (fun _ => same.withJobs _) fun _ => (same.post_outside inTime ..).withJobs _
  · exact (same.post_outside inTime ..).withJobs _

theorem KeepsBits.sendFrame (a : Nat) (d : List Byte) (few : a < 8) : KeepsBits A s (t.sendFrame a d) := by
  have sent (l : Nat) (o : Nat × Nat → Out) : KeepsBits A s ((pieces d.length).foldl (fun s x => s.send l 3 x.2 (o x)) t) :=
    same.foldl fun _ _ _ same => same.frame (State.send_frame ..)
  exact .ite (fun _ => sent ..) fun _ => .ite (fun _ => sent ..) fun _ =>
    same.count_outside inTime _ _ _ (by simp only [Reg.GLB_ACTCNT]; omega)

theorem KeepsBits.poolRead (q : Nat) (words : List (Nat × Nat)) : KeepsBits A s (t.poolRead 0 q words).1 := by
  have poisoned {t : State} (same : KeepsBits A s t) : KeepsBits A s (t.poolPoison 0 q) :=
    (same.count_outside inTime (a := poolUe 0) _ _ _ (by decide)).frame (State.report_frame ..)
  have corrected := same.count_outside inTime (a := poolCe 0) 0 32 (words.countP fun w => w.2 == 1) (by decide)
  unfold State.poolRead
  split
  · exact same
  · split
    · split
      · exact poisoned corrected
      · exact corrected
    · split
      · exact poisoned same
      · exact same

theorem KeepsBits.poolChange : KeepsBits A s (t.poolChange 0) :=
  .ite (fun _ => same.setRegF_outside inTime (a := poolReg 0) _ _ _ (by decide)) fun _ => same

theorem KeepsBits.actuate (a : Nat) (few : a < 8) : KeepsBits A s (t.actuate a) := by
  unfold State.actuate
  extract_lets x fresh holdover
  have count {t : State} (same : KeepsBits A s t) (lo len d : Nat) : KeepsBits A s (t.count (Reg.GLB_ACTCNT a) lo len d) :=
    same.count_outside inTime _ _ _ (by simp only [Reg.GLB_ACTCNT]; omega)
  have control {t : State} (same : KeepsBits A s t) (lo v : Nat) : KeepsBits A s (t.setRegF (Reg.GLB_ACTCTL a) lo 1 v) :=
    same.setRegF_outside inTime _ _ _ (by simp only [Reg.GLB_ACTCTL]; omega)
  have last {t : State} (same : KeepsBits A s t) (v : Word) : KeepsBits A s (t.setReg (Reg.GLB_ACTLAST a) v) :=
    same.setReg_outside inTime _ (by simp only [Reg.GLB_ACTLAST]; omega)
  have held {t : State} (same : KeepsBits A s t) (skip : Bool) : KeepsBits A s (holdover t skip) := by
    unfold holdover
    extract_lets y lost s₁ s₂ s₃ s₄ s₅ s₆
    have h₁ : KeepsBits A s s₁ := .ite (fun _ => last same _) fun _ => same
    have h₄ : KeepsBits A s s₄ := count (control (control (h₁.setAct ..) ..) ..) ..
    have h₅ : KeepsBits A s s₅ := by
      unfold s₅
      split
      · exact h₄.withJobs _
      · exact h₄
    exact (h₅.postCoal inTime ..).sendFrame inTime _ _ few
  split
  · exact held same _
  · extract_lets p s₁ s₂ s₃
    have read : KeepsBits A s p.1 := same.poolRead inTime ..
    exact .ite (fun _ => held (count same ..) _) fun _ => .ite (fun _ => held (count (control read ..) ..) _) fun _ =>
      (control (last (read.setAct ..) _) ..).sendFrame inTime _ _ few

theorem KeepsBits.seal (pin gen : Bool) : KeepsBits A s (t.seal pin gen) := by
  unfold State.seal
  extract_lets n w₀ r next
  have counted : KeepsBits A s r.1 :=
    foldl_inv (fun a : State × WinSt => KeepsBits A s a.1) _ (fun a c mem same => .ite (fun _ => same) fun _ =>
      (same.count_outside inTime _ _ _ (by
        have := List.mem_range.1 (List.mem_of_mem_filter mem)
        simp only [Reg.GLB_INGSTALE]
        omega)).postCoal inTime ..) same
  exact counted.withRegs rfl

theorem KeepsBits.applyCommit : KeepsBits A s t.applyCommit := by
  unfold State.applyCommit
  split
  · exact same
  · exact (same.setRegF_outside inTime (a := Reg.GLB_PTCMT) 30 1 0 (by decide)).withRegs rfl

theorem KeepsBits.freeUnread : KeepsBits A s t.freeUnread :=
  (same.count_outside inTime (a := Reg.GLB_WINSKIP) 0 32 _ (by decide)).withStrm _

theorem KeepsBits.releaseHeld : KeepsBits A s t.releaseHeld :=
  (same.foldl fun _ r _ same => (same.setRegF_outside inTime (a := Reg.RNG_STATE r) 3 1 0
    (by simp only [Reg.RNG_STATE, Reg.rngBase]; omega)).withJobs _).withJobs _

theorem KeepsBits.tick (at_ : DWord) (pin gen forward : Bool) : KeepsBits A s (t.tick at_ pin gen forward) := by
  unfold State.tick
  extract_lets n slipped s₁ s₂ x₂ s₃ s₄ s₅ s₆ s₇
  have h₁ : KeepsBits A s s₁ := .ite (fun _ => (same.count_outside inTime _ _ _ (by decide)).postSlip inTime ..) fun _ => same
  have h₂ : KeepsBits A s s₂ := .ite (fun _ => h₁.count_outside inTime _ _ _ (by decide)) fun _ => h₁
  have h₃ : KeepsBits A s s₃ := h₂.withRegs rfl
  have h₄ : KeepsBits A s s₄ := (h₃.frame (State.markEmitted_frame _)).frame (State.markMissed_frame _)
  have h₅ : KeepsBits A s s₅ := h₄.foldl fun _ a mem same =>
    same.actuate inTime a (List.mem_range.1 (List.mem_of_mem_filter mem))
  have h₆ : KeepsBits A s s₆ :=
    ((h₅.freeUnread inTime).poolChange inTime).seal inTime ..
  have applied := h₆.applyCommit inTime
  exact KeepsBits.releaseHeld inTime (.ite (fun _ => applied.frame (State.pendTicks_frame _)) fun _ => applied)

theorem KeepsBits.dueTick (forward : Bool) : KeepsBits A s (t.dueTick forward) := by
  unfold State.dueTick
  split
  next => exact .ite (fun _ => KeepsBits.tick inTime (.ite (fun _ => same.frame (State.adopt_frame ..)) fun _ => same) ..) fun _ => same
  next => exact same

/-- A sample of a unit of the module, whose registers lie above the host time's. -/
theorem KeepsBits.watchTake (u : Nat) (module : u < 16) (v : Word) : KeepsBits A s (t.watchTake u v) := by
  have scope : watchScope u = .global := if_pos module
  have own {a : Nat} (block : Reg.watchBase u ≤ a) : a < 0x5000 ∨ 0x6000 ≤ a := by simp only [Reg.watchBase] at block; omega
  have begun : KeepsBits A s (t.watchBegin u) := by
    rw [State.watchBegin]
    refine .ite (fun _ => ?_) fun _ => same
    simp only [scope]
    exact same.setRegF_outside inTime _ _ _ (own (Nat.le_add_right _ _))
  have kept {c : Bool} {u : State} (same : KeepsBits A s u) {a : Nat} (v : Word) (block : a < 0x5000 ∨ 0x6000 ≤ a) :
      KeepsBits A s (if c = true then u.setReg a v else u) := .ite (fun _ => same.setReg_outside inTime v block) fun _ => same
  unfold State.watchTake
  extract_lets b first keep s₁ x bin s₂ m s₃
  refine .ite (fun _ => begun) fun _ => ?_
  have h₁ : KeepsBits A s s₁ := kept (kept begun _ (own (Nat.le_add_right _ _))) _ (own (Nat.le_add_right _ _))
  have h₂ : KeepsBits A s s₂ := (h₁.count_outside inTime _ _ _ (own (Nat.le_add_right _ _))).count_outside inTime _ _ _
    (own (by simp only [Reg.MGT_WBIN]; omega))
  have h₃ : KeepsBits A s s₃ := .ite (fun _ => h₂.withMgmt _) fun _ => h₂
  exact .ite (fun _ => h₃.count_outside inTime _ _ _ (own (Nat.le_add_right _ _))) fun _ => h₃

end

end Sys2Proof.Machine
end

section
/-! CLAIM. Time packets, edges, slews and the pulse source (R431 to R436). -/

namespace Sys2Proof.Machine

variable {s t : State} {p : PortNo}

theorem timePacket_of_open (opened : s.linkIn (portLink p) = true) (lo hi : BitVec 256) : exec (.timePacket p lo hi) s
    = .next { s.received (portLink p) 0 0 with clk := { s.clk with beacons := ((hi ++ lo) :: s.clk.beacons).take 16 } } :=
  if_neg (by rw [opened]; decide)

-- The time pulse (R433)

/-- The registers in which a pulse notes host time. -/
def HostTimeBits (a _ : Nat) : Prop := a = Reg.GLB_TIMESEQ ∨ a = Reg.GLB_TIMEOFS

theorem hostTimeBits_place (a i : Nat) (named : HostTimeBits a i) : 0x5000 ≤ a ∧ a < 0x6000 := by
  rcases named with rfl | rfl <;> decide

/-- A capture is the counter's value or one count off it (R486). -/
theorem State.captured_eq (s : State) : ∃ e : DWord, (e = 0 ∨ e = 1 ∨ e = -1) ∧ s.captured = s.now + e := by
  have near := s.captured_near
  refine ⟨s.captured - s.now, ?_, by ring⟩
  generalize s.captured - s.now = e at near
  bv_omega

/-- The counter and the slew after a pulse whose offset is d. -/
def ClockTaken (s : State) (d : Int) (t : State) : Prop :=
  (if tst (s.reg Reg.GLB_TIMECFG) 2 = true ∧ 100000 < d then t.clk.slew = 0 ∧ t.clk.counter = s.clk.counter + BitVec.ofInt 64 d
    else t.clk.slew = d ∧ t.clk.counter = s.clk.counter)
  ∧ t.clk.lastEdge = some s.clk.raw ∧ t.clk.beacons = [] ∧ t.clk.aligned = true

/-- What an accepted pulse with a beacon of host time h and sequence q leaves. -/
def TimeTaken (s : State) (h : DWord) (q : Word) (t : State) : Prop :=
  ∃ e : DWord, (e = 0 ∨ e = 1 ∨ e = -1) ∧ ClockTaken s (h - (s.now + e)).toInt t ∧ t.reg Reg.GLB_TIMESEQ = q
    ∧ t.reg Reg.GLB_TIMEOFS = BitVec.ofInt 32 (clampInt (-2 ^ 31) (2 ^ 31 - 1) (h - (s.now + e)).toInt)

theorem ClockTaken.of_clk {d : Int} {u : State} (taken : ClockTaken s d t) (clk : u.clk = t.clk) : ClockTaken s d u := by
  rw [ClockTaken, clk]
  exact taken

theorem TimeTaken.keep {h : DWord} {q : Word} {u : State} (taken : TimeTaken s h q t) (clk : u.clk = t.clk)
    (same : KeepsBits HostTimeBits t u) : TimeTaken s h q u := by
  obtain ⟨e, near, clocked, seq, offset⟩ := taken
  exact ⟨e, near, clocked.of_clk clk, (same.reg fun _ _ => .inl rfl).trans seq, (same.reg fun _ _ => .inr rfl).trans offset⟩

section
variable (on : s.dev.base ≠ .off) (enabled : tst (s.reg Reg.GLB_TIMECFG) 0 = true)
  (late : ∀ x, s.clk.lastEdge = some x → 10 * milli ≤ (s.clk.raw - x).toNat)
include on enabled late

theorem State.pulse_accepted : ¬ (s.dev.base == .off || !tst (s.reg Reg.GLB_TIMECFG) 0
    || s.clk.lastEdge.elim false fun t => decide ((s.clk.raw - t).toNat < 10 * milli)) = true := by
  cases last : s.clk.lastEdge with
  | none => simp [on, enabled]
  | some x => simpa [on, enabled] using late x last

theorem State.timePulse_of_empty (empty : s.clk.beacons = []) :
    s.timePulse = { s with clk := { s.clk with lastEdge := some s.clk.raw } }.count Reg.GLB_TIMEMISS 0 32 1 := by
  refine (if_neg (State.pulse_accepted on enabled late)).trans ?_
  simp only [empty]

/-- The state in which a pulse has noted the beacon's time h and sequence q; d is the offset. -/
def State.timeNoted (s : State) (q : Word) (d : Int) : State :=
  let noted := ({ s.useFree with clk := { s.clk with lastEdge := some s.clk.raw, beacons := [], aligned := true } }.setReg
    Reg.GLB_TIMESEQ q).setReg Reg.GLB_TIMEOFS (BitVec.ofInt 32 (clampInt (-2 ^ 31) (2 ^ 31 - 1) d))
  if noted.clk.drift && !noted.clk.onHold && noted.clk.lostAt.isNone && decide (d.natAbs ≤ 100) then noted.clearDrift else noted

theorem State.timePulse_eq {cell : BitVec 512} {l : List (BitVec 512)} (queue : s.clk.beacons = cell :: l) {d : Int}
    (offset : (cell.extractLsb' 160 64 - s.captured).toInt = d) {u : State} (noted : s.timeNoted (cell.extractLsb' 224 32) d = u) :
    s.timePulse = if 100000 < d ∧ tst (u.reg Reg.GLB_TIMECFG) 2 = true
      then State.dueTick { u with clk := { u.clk with counter := u.clk.counter + BitVec.ofInt 64 d, slew := 0 } } true
      else { u with clk := { u.clk with slew := d } } := by
  refine (if_neg (State.pulse_accepted on enabled late)).trans ?_
  subst offset noted
  simp only [queue]
  rfl

end

/-- What is noted, with the rest of the clock as it was. -/
theorem State.timeNoted_spec (tables : Tab.wf none s.regs = true) (q : Word) (d : Int) :
    let u := s.timeNoted q d
    (u.clk.lastEdge = some s.clk.raw ∧ u.clk.beacons = [] ∧ u.clk.aligned = true ∧ u.clk.counter = s.clk.counter)
      ∧ Tab.wf none u.regs = true ∧ u.reg Reg.GLB_TIMESEQ = q
      ∧ u.reg Reg.GLB_TIMEOFS = BitVec.ofInt 32 (clampInt (-2 ^ 31) (2 ^ 31 - 1) d) ∧ u.reg Reg.GLB_TIMECFG = s.reg Reg.GLB_TIMECFG := by
  let taken : State := { s.useFree with clk := { s.clk with lastEdge := some s.clk.raw, beacons := [], aligned := true } }
  have wf : Tab.wf none (taken.setReg Reg.GLB_TIMESEQ q).regs = true := wf_setReg (s := taken) tables ..
  let noted := (taken.setReg Reg.GLB_TIMESEQ q).setReg Reg.GLB_TIMEOFS (BitVec.ofInt 32 (clampInt (-2 ^ 31) (2 ^ 31 - 1) d))
  have seq : noted.reg Reg.GLB_TIMESEQ = q := (reg_setReg wf ..).trans ((reg_setReg (s := taken) tables ..).trans (if_pos rfl))
  have ofs : noted.reg Reg.GLB_TIMEOFS = BitVec.ofInt 32 (clampInt (-2 ^ 31) (2 ^ 31 - 1) d) := (reg_setReg wf ..).trans (if_pos rfl)
  have cfg : noted.reg Reg.GLB_TIMECFG = s.reg Reg.GLB_TIMECFG := (reg_setReg wf ..).trans (reg_setReg (s := taken) tables ..)
  intro u
  have same : (u.clk.lastEdge = noted.clk.lastEdge ∧ u.clk.beacons = noted.clk.beacons ∧ u.clk.aligned = noted.clk.aligned
      ∧ u.clk.counter = noted.clk.counter) ∧ u.regs = noted.regs := by
    unfold u State.timeNoted
    extract_lets
    split <;> exact ⟨⟨rfl, rfl, rfl, rfl⟩, rfl⟩
  obtain ⟨clk, regs⟩ := same
  have reg (a : Nat) : u.reg a = noted.reg a := by rw [State.reg, State.reg, regs]
  exact ⟨clk, regs ▸ wf_setReg wf .., (reg _).trans seq, (reg _).trans ofs, (reg _).trans cfg⟩

section
variable (on : s.dev.base ≠ .off) (enabled : tst (s.reg Reg.GLB_TIMECFG) 0 = true)
  (late : ∀ x, s.clk.lastEdge = some x → 10 * milli ≤ (s.clk.raw - x).toNat)
include on enabled late

theorem State.timePulse_of_beacon (tables : Tab.wf none s.regs = true) {cell : BitVec 512} {l : List (BitVec 512)}
    (queue : s.clk.beacons = cell :: l) :
    TimeTaken s (cell.extractLsb' 160 64) (cell.extractLsb' 224 32) s.timePulse ∧ Tab.wf none s.timePulse.regs = true := by
  obtain ⟨e, near, captured⟩ := s.captured_eq
  generalize offset : (cell.extractLsb' 160 64 - s.captured).toInt = d
  obtain ⟨⟨edge, empty, aligned, counter⟩, wf, seq, ofs, cfg⟩ := State.timeNoted_spec tables (cell.extractLsb' 224 32) d
  have eq := State.timePulse_eq on enabled late queue offset rfl
  generalize s.timeNoted (cell.extractLsb' 224 32) d = u at *
  rw [cfg] at eq
  rw [captured] at offset
  have same {x : Clock} : KeepsBits HostTimeBits u { u with clk := x } := .of_regs wf rfl
  by_cases far : 100000 < d ∧ tst (s.reg Reg.GLB_TIMECFG) 2 = true
  · rw [if_pos far] at eq
    let stepped : State := { u with clk := { u.clk with counter := u.clk.counter + BitVec.ofInt 64 d, slew := 0 } }
    have clk : s.timePulse.clk = stepped.clk := by rw [eq]; exact (State.dueTick_frame ..).part .clk (by decide)
    have bits : KeepsBits HostTimeBits u s.timePulse := by rw [eq]; exact KeepsBits.dueTick hostTimeBits_place same true
    refine ⟨⟨e, near, ⟨?_, ?_, ?_, ?_⟩, (bits.reg fun _ _ => .inl rfl).trans seq, (bits.reg fun _ _ => .inr rfl).trans ?_⟩, bits.tables⟩
    · rw [offset, if_pos far.symm, clk]
      exact ⟨rfl, congrArg (· + _) counter⟩
    · rw [clk]; exact edge
    · rw [clk]; exact empty
    · rw [clk]; exact aligned
    · rw [offset, ofs]
  · rw [if_neg far] at eq
    have bits : KeepsBits HostTimeBits u s.timePulse := by rw [eq]; exact same
    refine ⟨⟨e, near, ⟨?_, ?_, ?_, ?_⟩, (bits.reg fun _ _ => .inl rfl).trans seq, (bits.reg fun _ _ => .inr rfl).trans ?_⟩, bits.tables⟩
    · rw [offset, if_neg fun both => far both.symm, eq]
      exact ⟨rfl, counter⟩
    · rw [eq]; exact edge
    · rw [eq]; exact empty
    · rw [eq]; exact aligned
    · rw [offset, ofs]

omit on enabled late in
/-- A pulse that takes no beacon computes no offset. -/
theorem State.pulse_of_kept (kept : s.timePulse.clk.beacons = s.clk.beacons) : s.pulse = s.timePulse :=
  if_neg (by rw [kept]; exact Nat.lt_irrefl _)

theorem timeinEdge_of_empty (own : s.alias_ = false) (empty : s.clk.beacons = []) : exec .timeinEdge s
    = .next ({ s with clk := { s.clk with lastEdge := some s.clk.raw } }.count Reg.GLB_TIMEMISS 0 32 1) := by
  have missed := State.timePulse_of_empty on enabled late empty
  have kept : s.timePulse.clk.beacons = [] := by rw [missed]; exact empty
  change Host.Outcome.next (if s.alias_ then s else s.pulse) = _
  rw [own, ← missed]
  exact congrArg _ (State.pulse_of_kept (by rw [kept, empty]))

/-- An accepted edge takes the newest beacon; the units that watch the offset sample it after that. -/
theorem timeinEdge_of_beacon (own : s.alias_ = false) (tables : Tab.wf none s.regs = true) {cell : BitVec 512} {l : List (BitVec 512)}
    (queue : s.clk.beacons = cell :: l) :
    ∃ t, exec .timeinEdge s = .next t ∧ TimeTaken s (cell.extractLsb' 160 64) (cell.extractLsb' 224 32) t := by
  obtain ⟨taken, wf⟩ := State.timePulse_of_beacon on enabled late tables queue
  refine ⟨s.pulse, ?_, ?_⟩
  · change Host.Outcome.next (if s.alias_ then s else s.pulse) = _
    rw [own]
    rfl
  · have watched : Frame [.regs, .mgmt] s.timePulse s.pulse :=
      .ite (fun _ => .foldl (.refl _) fun _ _ h => h.andThen (State.watchTake_frame ..)) fun _ => .refl _
    have bits : KeepsBits HostTimeBits s.timePulse s.pulse :=
      .ite (fun _ => (KeepsBits.refl wf).foldl fun _ u mem same =>
        same.watchTake hostTimeBits_place u (List.mem_range.1 (List.mem_of_mem_filter mem)) _) fun _ => .refl wf
    exact taken.keep (watched.part .clk (by decide)) bits

end

-- The pulse source (R436)

theorem State.tst_writeRw_timecfg (tables : Tab.wf none s.regs = true) (x : Word) (i : Nat) :
    tst ((s.writeRw Reg.GLB_TIMECFG x).reg Reg.GLB_TIMECFG) i = if i < 3 then tst x i else tst (s.reg Reg.GLB_TIMECFG) i := by
  have mask : ((regDef Reg.GLB_TIMECFG).getD {}).rw = BitVec.ofNat 32 (2 ^ 3 - 1) := by decide
  rw [State.reg_writeRw tables, if_pos rfl, mask]
  simp only [tst, BitVec.getLsbD_or, BitVec.getLsbD_and, BitVec.getLsbD_not, BitVec.getLsbD_ofNat, Nat.testBit_two_pow_sub_one]
  by_cases word : i < 32
  · by_cases low : i < 3 <;> simp [word, low]
  · rw [BitVec.getLsbD_of_ge x i (by omega), BitVec.getLsbD_of_ge (s.reg Reg.GLB_TIMECFG) i (by omega)]
    simp

/-- What a write of GLB_TIMECFG leaves in its control bits. -/
theorem glbTimecfgWrite_of_reached (tables : Tab.wf none s.regs = true) (reached : s.reach Reg.GLB_TIMECFG = true) (v : Word) :
    ∃ t, exec (.glbTimecfgWrite p v) s = .next t
      ∧ (tst v 1 = true → s.pinSource = true → t.alias_ = false ∧ t.regF Reg.GLB_TIMECFG 3 1 = 1)
      ∧ (tst v 1 = true → s.pinSource = false → t.alias_ = true ∧ t.regF Reg.GLB_TIMECFG 3 1 = s.regF Reg.GLB_TIMECFG 3 1)
      ∧ (tst v 1 = false → t.alias_ = false ∧ t.regF Reg.GLB_TIMECFG 3 1 = 0)
      ∧ tst (t.reg Reg.GLB_TIMECFG) 0 = tst v 0 ∧ tst (t.reg Reg.GLB_TIMECFG) 2 = tst v 2 ∧ { t with regs := s.regs } = s := by
  have ran (held : Bool) (own : (tst v 1 && s.pinSource) = held) : exec (.glbTimecfgWrite p v) s
      = .next (if held then (s.writeRw Reg.GLB_TIMECFG (if held then setFld v 1 1 0 else v)).setRegF Reg.GLB_TIMECFG 3 1 1
        else if tst v 1 then s.writeRw Reg.GLB_TIMECFG (if held then setFld v 1 1 0 else v)
        else (s.writeRw Reg.GLB_TIMECFG (if held then setFld v 1 1 0 else v)).setRegF Reg.GLB_TIMECFG 3 1 0) := by
    subst own
    exact if_neg (by rw [reached]; decide)
  have wf (x : Word) : Tab.wf none (s.writeRw Reg.GLB_TIMECFG x).regs = true := wf_setReg tables ..
  -- a write of HELD leaves the bits of the other fields
  have bit (x : Word) (k i : Nat) (other : i ≠ 3) : tst (((s.writeRw Reg.GLB_TIMECFG x).setRegF Reg.GLB_TIMECFG 3 1 k).reg Reg.GLB_TIMECFG) i
      = if i < 3 then tst x i else tst (s.reg Reg.GLB_TIMECFG) i := by
    rw [reg_setRegF (wf x), if_pos rfl, tst_of_setFld_other (by omega), State.tst_writeRw_timecfg tables]
  have mark (x : Word) (k : Nat) : ((s.writeRw Reg.GLB_TIMECFG x).setRegF Reg.GLB_TIMECFG 3 1 k).regF Reg.GLB_TIMECFG 3 1 = k % 2 :=
    regF_setRegF_same (wf x) _ (by decide)
  by_cases pulse : tst v 1 = true
  · cases source : s.pinSource with
    | true =>
      have low (i : Nat) (apart : i ≠ 1) : tst (setFld v 1 1 0) i = tst v i := tst_of_setFld_other (by omega)
      have cleared : tst (setFld v 1 1 0) 1 = false := by simp [tst_setFld]
      refine ⟨(s.writeRw Reg.GLB_TIMECFG (setFld v 1 1 0)).setRegF Reg.GLB_TIMECFG 3 1 1, ran true (by rw [pulse, source]; rfl), fun _ _ => ⟨?_, mark ..⟩, fun _ no => absurd no (by simp),
        fun no => absurd no (by simp [pulse]), ?_, ?_, rfl⟩
      · rw [State.alias_, bit _ _ 1 (by decide), if_pos (by decide), cleared]
      · rw [bit _ _ 0 (by decide), if_pos (by decide), low 0 (by decide)]
      · rw [bit _ _ 2 (by decide), if_pos (by decide), low 2 (by decide)]
    | false =>
      refine ⟨s.writeRw Reg.GLB_TIMECFG v, (ran false (by rw [source, Bool.and_false])).trans (congrArg _ (if_pos pulse)), fun _ no => absurd no (by simp), fun _ _ => ⟨?_, fld_congr fun i low high => ?_⟩, fun no => absurd no (by simp [pulse]), ?_, ?_, rfl⟩
      · rw [State.alias_, State.tst_writeRw_timecfg tables, if_pos (by decide), pulse]
      · rw [State.tst_writeRw_timecfg tables, if_neg (by omega)]
      · rw [State.tst_writeRw_timecfg tables, if_pos (by decide)]
      · rw [State.tst_writeRw_timecfg tables, if_pos (by decide)]
  · have off : tst v 1 = false := Bool.eq_false_iff.2 pulse
    refine ⟨(s.writeRw Reg.GLB_TIMECFG v).setRegF Reg.GLB_TIMECFG 3 1 0, (ran false (by rw [off, Bool.false_and])).trans (congrArg _ (if_neg pulse)), fun on => absurd on pulse, fun on => absurd on pulse,
      fun _ => ⟨?_, mark ..⟩, ?_, ?_, rfl⟩
    · rw [State.alias_, bit _ _ 1 (by decide), if_pos (by decide), off]
    · rw [bit _ _ 0 (by decide), if_pos (by decide)]
    · rw [bit _ _ 2 (by decide), if_pos (by decide)]

end Sys2Proof.Machine
end

section
/-! CLAIM. Slews, loss and return of the reference, stretches and their repayment (R424 to R430, R433). -/

namespace Sys2Proof.Machine

variable {A : Nat → Nat → Prop} {s t : State} {q : Nat}

theorem timeSlewStep_of_ahead (ahead : 0 < s.clk.slew) : exec .timeSlewStep s
    = .next { s with clk := { s.clk with counter := s.clk.counter + 1, slew := s.clk.slew - 1 } } := if_pos ahead

theorem timeSlewStep_of_behind (behind : s.clk.slew < 0) : exec .timeSlewStep s
    = .next { s with clk := { s.clk with hold := s.clk.hold + 1, slew := s.clk.slew + 1 } } :=
  (if_neg (by omega)).trans (if_pos behind)

theorem timeSlewStep_of_still (still : s.clk.slew = 0) : exec .timeSlewStep s = .next s :=
  (if_neg (by omega)).trans (if_neg (by omega))

-- Loss of the reference (R428)

/-- The bits of the rate of region q. -/
def RateBits (q a i : Nat) : Prop := a = Reg.RGN_RATE q ∧ i < 5

theorem KeepsBits.rate (same : KeepsBits (RateBits q) s t) : t.rate q = s.rate q := same.regF fun _ _ high => ⟨rfl, by omega⟩

theorem KeepsBits.clocked (same : KeepsBits (StateBits q) s t) : t.clocked q = s.clocked q := by rw [State.clocked, same.rstate, State.clocked]

/-- One region when the reference is lost: it waits to switch back, and runs at 8/16. -/
def State.onHoldover (s : State) (r : Nat) : State :=
  let u := if s.refLoop r then s.setRegF (Reg.RGN_PSTATE r) 5 1 1 else s
  if u.clocked r then (u.setRegF (Reg.RGN_RATE r) 0 5 8).shortStop r else u

theorem State.onHoldover_frame (s : State) (r : Nat) : Frame [.regs] s (s.onHoldover r) := by
  have held : Frame [.regs] s (if s.refLoop r then s.setRegF (Reg.RGN_PSTATE r) 5 1 1 else s) :=
    .ite (fun _ => State.setRegF_frame ..) fun _ => .refl s
  exact .ite (fun _ => (held.andThen (State.setRegF_frame ..)).andThen (State.shortStop_frame ..)) fun _ => held

theorem KeepsBits.onHoldover (same : KeepsBits A s t) {r : Nat} (state : ¬ A (Reg.RGN_PSTATE r) 5) (rate : ∀ i < 5, ¬ A (Reg.RGN_RATE r) i)
    (stops : ∀ i, ¬ A (Reg.RGN_CLKSTR r) i) : KeepsBits A s (t.onHoldover r) := by
  have held : KeepsBits A s (if t.refLoop r then t.setRegF (Reg.RGN_PSTATE r) 5 1 1 else t) :=
    .ite (fun _ => same.setRegF _ fun i low high => by obtain rfl : i = 5 := by omega
                                                       exact state) fun _ => same
  exact .ite (fun _ => (held.setRegF _ fun i _ high => rate i (by omega)).count _ fun i _ _ => stops i) fun _ => held

/-- No power state changes at the loss. -/
theorem KeepsBits.onHoldover_state (same : KeepsBits (StateBits q) s t) (r : Nat) : KeepsBits (StateBits q) s (t.onHoldover r) :=
  same.onHoldover (by simp [StateBits]) (by simp only [StateBits, Reg.RGN_RATE, Reg.RGN_PSTATE, Reg.rgnBase]; omega)
    (by simp only [StateBits, Reg.RGN_CLKSTR, Reg.RGN_PSTATE, Reg.rgnBase]; omega)

theorem State.rate_onHoldover (tables : Tab.wf none s.regs = true) (clocked : s.clocked q = true) : (s.onHoldover q).rate q = 8 := by
  have same := (KeepsBits.refl (A := StateBits q) tables)
  have held : KeepsBits (StateBits q) s (if s.refLoop q then s.setRegF (Reg.RGN_PSTATE q) 5 1 1 else s) :=
    .ite (fun _ => same.setRegF _ (by simp only [StateBits]; omega)) fun _ => same
  rw [State.onHoldover]
  generalize (if s.refLoop q then s.setRegF (Reg.RGN_PSTATE q) 5 1 1 else s) = u at held
  have going : u.clocked q = true := held.clocked.trans clocked
  simp only [going, if_true]
  have kept : KeepsBits (RateBits q) (u.setRegF (Reg.RGN_RATE q) 0 5 8) _ := (KeepsBits.refl (wf_setRegF held.tables ..)).count
    (a := Reg.RGN_CLKSTR q) (lo := 16) (len := 16) 1 (by simp only [RateBits, Reg.RGN_CLKSTR, Reg.RGN_RATE, Reg.rgnBase]; omega)
  exact kept.rate.trans (regF_setRegF_same held.tables _ (by decide))

theorem State.rate_onHoldover_other {r : Nat} (tables : Tab.wf none s.regs = true) (other : q ≠ r) : (s.onHoldover r).rate q = s.rate q :=
  ((KeepsBits.refl tables).onHoldover (by simp only [RateBits, Reg.RGN_PSTATE, Reg.RGN_RATE, Reg.rgnBase]; omega)
    (by simp only [RateBits, Reg.RGN_RATE, Reg.rgnBase]; omega)
    (by simp only [RateBits, Reg.RGN_CLKSTR, Reg.RGN_RATE, Reg.rgnBase]; omega)).rate

/-- Every clocked region goes to 8/16. -/
theorem State.rate_allOnHoldover (tables : Tab.wf none s.regs = true) (device : q < 192) (clocked : s.clocked q = true) :
    ((List.range 192).foldl State.onHoldover s).rate q = 8 := by
  refine foldl_reaches (fun u => KeepsBits (StateBits q) s u) (fun u => u.rate q = 8) _ (List.mem_range.2 device) (.refl tables)
    (fun u r _ same => same.onHoldover_state r) (fun u same => State.rate_onHoldover same.tables (same.clocked.trans clocked))
    fun u r _ same slow => ?_
  by_cases own : q = r
  · subst own
    exact State.rate_onHoldover same.tables (same.clocked.trans clocked)
  · exact (State.rate_onHoldover_other same.tables own).trans slow

/-- The state in which the reference has just been lost. -/
def State.refGone (s : State) (oor : Bool) : State :=
  let u := s.count Reg.GLB_REFMON 16 16 1
  { u with
    dev := { u.dev with refOk := false }
    clk := { u.clk with
      onHold := true, drift := true, refOut := oor, lostAt := some (u.clk.lostAt.getD u.now), switching := [] } }

/-- The loss is reported. -/
def State.refTold (u : State) (oor : Bool) : State := ((u.report .refLoss).post 0x0301 srcModule [(0, b2n oor)]).alert alRef

theorem refLost_eq (on : s.dev.base ≠ .off) (valid : s.dev.refOk = true) (oor : Bool) : exec (.refLost oor) s
    = .next (((List.range 192).foldl State.onHoldover (s.refGone oor)).refTold oor) := by
  have going : ¬ (s.dev.base == .off || !s.dev.refOk) = true := by simp [on, valid]
  exact if_neg going

/-- The loss leaves every power state as it was, and the clocked regions at 8/16, before it is reported. -/
theorem refLost_holds (canon : Canon s) (on : s.dev.base ≠ .off) (valid : s.dev.refOk = true) (oor : Bool) :
    ∃ u, exec (.refLost oor) s = .next (u.refTold oor) ∧ Frame [.regs] (s.refGone oor) u ∧ (∀ q, KeepsBits (StateBits q) s u)
      ∧ ∀ q < 192, s.clocked q = true → u.rate q = 8 := by
  have gone (q : Nat) : KeepsBits (StateBits q) s (s.refGone oor) :=
    ((KeepsBits.refl canon.regs).count (a := Reg.GLB_REFMON) (lo := 16) (len := 16) 1
      (by simp only [StateBits, Reg.RGN_PSTATE, Reg.rgnBase, Reg.GLB_REFMON]; omega)).withRegs rfl
  exact ⟨_, refLost_eq on valid oor, .foldl (.refl _) fun _ r h => h.trans (State.onHoldover_frame _ r),
    fun q => (gone q).foldl fun _ r _ same => same.onHoldover_state r,
    fun q device clocked => State.rate_allOnHoldover (gone q).tables device ((gone q).clocked.trans clocked)⟩

/-- The loss puts everything on holdover and every clocked region at 8/16, and is reported. -/
theorem refLost_of_valid (canon : Canon s) (on : s.dev.base ≠ .off) (valid : s.dev.refOk = true) (oor : Bool) :
    ∃ t, exec (.refLost oor) s = .next t ∧ t.dev.refOk = false ∧ t.clk.onHold = true ∧ t.clk.drift = true
      ∧ (∀ q < 192, s.clocked q = true → t.rate q = 8) ∧ (∀ q < 192, t.rstate q = s.rstate q)
      ∧ t.resil.intake = s.resil.intake ++ [.refLoss] ∧ t.clusters = s.clusters := by
  obtain ⟨u, ran, held, states, rates⟩ := refLost_holds canon on valid oor
  have posted := State.post_frame (u.report .refLoss) 0x0301 srcModule [(0, b2n oor)]
  have bits {A : Nat → Nat → Prop} (drops : ∀ i, ¬ A (Reg.RNG_DROPS 128) i) :
      KeepsBits A u (((u.report .refLoss).post 0x0301 srcModule [(0, b2n oor)]).alert alRef) :=
    (KeepsBits.post ((KeepsBits.refl (states 0).tables).frame (State.report_frame ..)) drops ..).frame (State.alert_frame ..)
  have clk : ((u.report .refLoss).post 0x0301 srcModule [(0, b2n oor)]).clk = (s.refGone oor).clk :=
    (posted.part .clk (by decide)).trans (held.part .clk (by decide))
  have dev : ((u.report .refLoss).post 0x0301 srcModule [(0, b2n oor)]).dev = (s.refGone oor).dev :=
    (posted.part .dev (by decide)).trans (held.part .dev (by decide))
  refine ⟨_, ran, congrArg Dev.refOk dev, congrArg Clock.onHold clk, congrArg Clock.drift clk, fun q device clocked => ?_, fun q _ => ?_, ?_,
    (posted.part .clusters (by decide)).trans (held.part .clusters (by decide))⟩
  · exact (bits (by simp only [RateBits, Reg.RGN_RATE, Reg.rgnBase, Reg.RNG_DROPS, Reg.rngBase]; omega)).rate.trans (rates q device clocked)
  · exact (bits (by simp only [StateBits, Reg.RGN_PSTATE, Reg.rgnBase, Reg.RNG_DROPS, Reg.rngBase]; omega)).rstate.trans (states q).rstate
  · have reports := congrArg Resil.intake (posted.part .resil (by decide))
    exact reports.trans (congrArg (fun x : Resil => x.intake ++ [.refLoss]) (held.part .resil (by decide)))

-- Its return (R430)

theorem State.refRestored_clk (s : State) : s.refRestored.clk.onHold = s.clk.onHold ∧ s.refRestored.clk.switching = s.clk.switching := by
  unfold State.refRestored
  split
  next at_ =>
    split
    · exact ⟨rfl, rfl⟩
    · extract_lets c lost posted
      have clk : posted.clk = lost.clk := (State.post_frame ..).part .clk (by decide)
      have kept (u : State) (same : u = posted ∨ u = posted.clearDrift) : u.clk.onHold = s.clk.onHold ∧ u.clk.switching = s.clk.switching := by
        rcases same with rfl | rfl
        · rw [clk]; exact ⟨rfl, rfl⟩
        · exact ⟨(congrArg Clock.onHold clk :), (congrArg Clock.switching clk :)⟩
      split
      · exact kept _ (.inl rfl)
      · exact kept _ (.inr rfl)
  next => exact ⟨rfl, rfl⟩

/-- A region that is not listed to switch back later leaves the list as it is. -/
theorem State.switchBack_clk (s : State) (r : Nat) : (s.switchBack r).clk
    = { s.clk with switching := s.clk.switching.filter (· != r) } := by
  unfold State.switchBack
  extract_lets u v
  have clk : v.clk = s.clk := by
    unfold v
    split <;> rfl
  exact congrArg (fun c : Clock => { c with switching := c.switching.filter (· != r) }) clk

/-- The state in which the reference has just come back. -/
def State.refBack (s : State) : State :=
  { s with
    dev := { s.dev with refOk := true }
    clk := { s.clk with
      onHold := false, refOut := false
      switching := ((List.range 192).filter fun q => tst (s.reg (Reg.RGN_PSTATE q)) 5).filter s.regionGranted } }

/-- The regions that switch back at once. -/
def State.backAtOnce (s : State) : List Nat :=
  ((List.range 192).filter fun q => tst (s.reg (Reg.RGN_PSTATE q)) 5).filter fun r => !s.regionGranted r

theorem State.foldl_switchBack_clk (s : State) : (s.backAtOnce.foldl State.switchBack s.refBack).clk = s.refBack.clk := by
  refine foldl_inv (fun u : State => u.clk = s.refBack.clk) _ (fun u r listed same => ?_) rfl
  have free : s.regionGranted r = false := by simpa using List.of_mem_filter listed
  have kept : s.refBack.clk.switching.filter (· != r) = s.refBack.clk.switching := by
    refine List.filter_eq_self.2 fun q granted => ?_
    have held : s.regionGranted q = true := List.of_mem_filter (p := s.regionGranted) granted
    rw [bne_iff_ne]
    rintro rfl
    rw [held] at free
    cases free
  rw [State.switchBack_clk, same, kept]

theorem refclkValid_eq (on : s.dev.base ≠ .off) (lost : s.dev.refOk = false) {u : State}
    (back : s.backAtOnce.foldl State.switchBack s.refBack = u) : exec .refclkValid s
    = .next (if u.clk.lostAt.isNone then if tst (u.reg Reg.GLB_TIMECFG) 0 then u else u.clearDrift else u.refRestored) := by
  have going : ¬ (s.dev.base == .off || s.dev.refOk) = true := by simp [on, lost]
  subst back
  refine (if_neg going).trans ?_
  exact (apply_ite Host.Outcome.next ..).symm

/-- The return is noted, and the regions with a grant switch back later. -/
theorem refclkValid_of_lost (on : s.dev.base ≠ .off) (lost : s.dev.refOk = false) :
    ∃ t, exec .refclkValid s = .next t ∧ t.dev.refOk = true ∧ t.clk.onHold = false ∧ t.clusters = s.clusters
      ∧ t.clk.switching = ((List.range 192).filter fun q => tst (s.reg (Reg.RGN_PSTATE q)) 5).filter s.regionGranted := by
  have ran := refclkValid_eq on lost rfl
  have clk := s.foldl_switchBack_clk
  have switched : Frame [.clk, .regs] s.refBack (s.backAtOnce.foldl State.switchBack s.refBack) :=
    .foldl (.refl _) fun _ r h => h.trans (State.switchBack_frame _ r)
  have dev : (s.backAtOnce.foldl State.switchBack s.refBack).dev = s.refBack.dev := switched.part .dev (by decide)
  have clusters : (s.backAtOnce.foldl State.switchBack s.refBack).clusters = s.clusters := switched.part .clusters (by decide)
  generalize s.backAtOnce.foldl State.switchBack s.refBack = u at *
  have settled (v : State) (same : v = u ∨ v = u.clearDrift ∨ v = u.refRestored) : v.dev.refOk = true ∧ v.clk.onHold = false
      ∧ v.clusters = s.clusters ∧ v.clk.switching = s.refBack.clk.switching := by
    have plain : u.dev.refOk = true ∧ u.clk.onHold = false ∧ u.clusters = s.clusters ∧ u.clk.switching = s.refBack.clk.switching :=
      ⟨congrArg Dev.refOk dev, congrArg Clock.onHold clk, clusters, congrArg Clock.switching clk⟩
    rcases same with rfl | rfl | rfl
    · exact plain
    · exact plain
    · have frame := State.refRestored_frame u
      obtain ⟨held, switching⟩ := u.refRestored_clk
      rw [frame.part .dev (by decide), frame.part .clusters (by decide), held, switching]
      exact plain
  refine ⟨_, ran, settled _ ?_⟩
  split
  · split
    · exact .inl rfl
    · exact .inr (.inl rfl)
  · exact .inr (.inr rfl)

-- Stretches (R424 to R426)

theorem foldl_id {α β : Type} {f : β → α → β} {l : List α} {b : β} (each : ∀ x ∈ l, f b x = b) : l.foldl f b = b := by
  induction l with
  | nil => rfl
  | cons x l ih => rw [List.foldl_cons, each x List.mem_cons_self, ih fun y mem => each y (.tail _ mem)]

theorem State.walkStalls_of_near {r : Nat} {later : Bool}
    (near : ∀ p ∈ neighbours r, (if later then s.walk r p.2 else s.walk p.2 r) ≤ 6 ∨ s.refLoop p.2 = false) : s.walkStalls r later = s :=
  foldl_id fun p mem => if_neg fun ⟨far, runs⟩ => by
    rcases near p mem with close | off
    · omega
    · rw [off] at runs; cases runs

end Sys2Proof.Machine
end

section
/-! CLAIM. Time packets, edges, slews, the pulse source, loss and return of the reference, stretches. -/

namespace Sys2Proof.Machine

variable {s : State} {r : RegionNo}

theorem ne_of_mem_neighbours {r : Nat} {p : Nat × Nat} (beside : p ∈ neighbours r) : p.2 ≠ r := by
  simp only [neighbours, List.mem_append] at beside
  rcases beside with ((north | south) | east) | west
  · split at north
    · cases north
    · next inside =>
      rw [List.mem_singleton.1 north]
      simp only [regionY] at inside
      omega
  · split at south
    · cases south
    · rw [List.mem_singleton.1 south]; omega
  · split at east
    · cases east
    · rw [List.mem_singleton.1 east]; omega
  · split at west
    · cases west
    · next inside =>
      rw [List.mem_singleton.1 west]
      simp only [regionX] at inside
      omega

/-- The stretches that region r owes change, and with them its distance to each neighbour. -/
theorem State.rg_owed (regions : Tab.wf {} s.regions = true) (r q : Nat) (f : RegionSt → RegionSt) :
    (s.updRg r f).rg q = if q = r then f (s.rg r) else s.rg q := rg_setRg regions r q _

theorem State.walk_add {u : State} {a b : Nat} {d e : Int} (base : u.clk = s.clk) (later : ((u.rg a).owed : Int) = (s.rg a).owed + d)
    (earlier : ((u.rg b).owed : Int) = (s.rg b).owed + e) : u.walk a b = s.walk a b + d - e := by
  rw [State.walk, base, later, earlier, State.walk]
  ring

theorem droopStretch_of_running (canon : Canon s) (up : s.railsUp = true) (runs : s.refLoop r = true)
    (near : ∀ p ∈ neighbours r, s.walk r p.2 + 1 ≤ 6 ∨ s.refLoop p.2 = false) : exec (.droopStretch r) s
    = .next ((s.count (Reg.RGN_CLKSTR r) 0 16 1).updRg r fun g => { g with owed := g.owed + 1 }) := by
  have going : ¬ (!s.railsUp || !s.refLoop r) = true := by simp [up, runs]
  refine (if_neg going).trans (congrArg Host.Outcome.next (State.walkStalls_of_near fun p beside => ?_))
  have apart := ne_of_mem_neighbours beside
  have rg (q : Nat) := State.rg_owed (s := s.count (Reg.RGN_CLKSTR r) 0 16 1) canon.regions r q fun g => { g with owed := g.owed + 1 }
  have clock : (s.count (Reg.RGN_CLKSTR r) 0 16 1).reg (Reg.RGN_PSTATE p.2) = s.reg (Reg.RGN_PSTATE p.2) :=
    (reg_setRegF canon.regs ..).trans (if_neg (by simp only [Reg.RGN_PSTATE, Reg.RGN_CLKSTR, Reg.rgnBase]; omega))
  refine (near p beside).imp (fun close => ?_) fun off => ?_
  · rw [if_pos rfl]
    refine Int.le_trans (Int.le_of_eq (State.walk_add (s := s) (d := 1) (e := 0) ?_ ?_ ?_)) (by omega)
    · rfl
    · rw [rg, if_pos rfl]; rfl
    · rw [rg, if_neg apart]; rfl
  · exact (congrArg (tst · 3) clock).trans off

theorem stretchRepayment_of_owed (canon : Canon s) (runs : s.refLoop r = true) (owed : 0 < (s.rg r).owed)
    (near : ∀ p ∈ neighbours r, s.walk p.2 r + 1 ≤ 6 ∨ s.refLoop p.2 = false) : exec (.stretchRepayment r) s
    = .next (s.updRg r fun g => { g with owed := g.owed - 1 }) := by
  have going : (s.refLoop r && decide (0 < (s.rg r).owed)) = true := by simp [runs, owed]
  refine (if_pos going).trans (congrArg Host.Outcome.next (State.walkStalls_of_near fun p beside => ?_))
  have apart := ne_of_mem_neighbours beside
  have rg (q : Nat) := State.rg_owed canon.regions r q fun g => { g with owed := g.owed - 1 }
  refine (near p beside).imp (fun close => ?_) fun off => off
  rw [if_neg (by decide)]
  refine Int.le_trans (Int.le_of_eq (State.walk_add (s := s) (d := 0) (e := -1) ?_ ?_ ?_)) (by omega)
  · rfl
  · rw [rg, if_neg apart]
    exact (Int.add_zero _).symm
  · rw [rg, if_pos rfl]
    exact Int.ofNat_sub owed

end Sys2Proof.Machine

namespace Sys2Proof

open Machine

/-- Settles O52: each command's effect is a lemma of its own above. -/
theorem timeAndReferenceCommands : Obligations.TimeAndReferenceCommands := by
  unfold Obligations.TimeAndReferenceCommands
  intro s p lo hi v oor r canonical
  have canon := canon_iff.1 canonical
  refine ⟨fun opened => timePacket_of_open opened lo hi, fun pin => congrArg Host.Outcome.next (if_pos pin), fun own on enabled late =>
    ⟨fun empty => timeinEdge_of_empty on enabled late own empty, fun cell l queue => ?beacon⟩, timeSlewStep_of_ahead, timeSlewStep_of_behind,
    timeSlewStep_of_still, fun reached => glbTimecfgWrite_of_reached canon.regs reached v, fun on valid => refLost_of_valid canon on valid oor,
    refclkValid_of_lost, droopStretch_of_running canon, stretchRepayment_of_owed canon⟩
  case beacon =>
    intro h q
    have host : cell.extractLsb' 160 64 = h := by simp [h, BitVec.extractLsb', Nat.shiftRight_eq_div_pow]
    have seq : cell.extractLsb' 224 32 = q := by simp [q, BitVec.extractLsb', Nat.shiftRight_eq_div_pow]
    obtain ⟨t, ran, e, near, ⟨clock, edge, empty, aligned⟩, noted, offset⟩ := timeinEdge_of_beacon on enabled late own canon.regs queue
    rw [host] at clock offset
    exact ⟨t, e, ran, near, clock, edge, empty, aligned, noted.trans seq, offset⟩

end Sys2Proof
end

section
/-! CLAIM. The wake of a region re-centres its crossings only where the table of their bases is canonical (R427, R439). -/

namespace Sys2Proof.Machine

/-- The base of the crossing between regions 0 and 1 is listed twice: the canonical form of a state says nothing of that table. -/
def twiceListed : State :=
  { State.reset with regions := [(0, { waking := true })], clk := { State.reset.clk with walkBase := [(0, 1), (0, 1)] } }

/-- The distance of the crossing from region 0 to region 1 that an outcome leaves. -/
def walkLeft : Res → Int
  | .next t => t.walk 0 1
  | _ => 0

/-- The alignment of region 0 drops the first of the two entries, and reads the second. -/
theorem walkLeft_twiceListed : walkLeft (exec (.wakeComplete 0) twiceListed) = -1 := by decide +kernel

end Sys2Proof.Machine

namespace Sys2Proof

open Machine

/-- Refutes O53: in a canonical state whose table of crossing bases lists one key twice, the wake of region 0 leaves its crossing to
region 1 off centre. -/
theorem not_governorAndSleepCommands : ¬ Obligations.GovernorAndSleepCommands := by
  unfold Obligations.GovernorAndSleepCommands
  intro h
  have canon : twiceListed.canon = true := by decide
  obtain ⟨_, _, _, _, wakes, _⟩ := h twiceListed 0 0 0 0 [] 0 .check canon
  obtain ⟨t, ran, _, _, centred, _⟩ := wakes (by decide) (by decide) (by decide) (by decide)
  have left := walkLeft_twiceListed
  rw [ran] at left
  have centre : t.walk 0 1 = 0 := centred (2, 1) (by decide)
  rw [walkLeft, centre] at left
  exact absurd left (by decide)

end Sys2Proof
end

section
/-! SUPPORT. What device work, events, repairs and links leave alone: where the device stands in bring-up, whether a restart is under way,
and the boot settings and lost converters of the attic (R36, R444 to R446). -/

namespace Sys2Proof.Machine

-- In sequence, so that the stacks of their threads do not add up.
set_option Elab.async false

variable {P : List Part} {o s t u : State}

/-- Where the device stands in bring-up and in a restart. -/
structure Course where
  base : DevBase
  next : Option StageNo
  backup : Bool
  retried : Bool
  bootcfg : Word
  deadConvs : List Nat
  restart : Bool

def State.course (s : State) : Course :=
  ⟨s.dev.base, s.dev.next, s.dev.backup, s.dev.retried, s.attic.bootcfg, s.attic.deadConvs, s.resil.restart.isSome⟩

/-- From o to s the device stands where it stood. -/
def SameCourse (o s : State) : Prop := s.course = o.course

theorem SameCourse.refl (s : State) : SameCourse s s := rfl

section
variable (same : SameCourse o s)
include same

theorem SameCourse.base : s.dev.base = o.dev.base := congrArg Course.base same
theorem SameCourse.next : s.dev.next = o.dev.next := congrArg Course.next same
theorem SameCourse.backup : s.dev.backup = o.dev.backup := congrArg Course.backup same
theorem SameCourse.retried : s.dev.retried = o.dev.retried := congrArg Course.retried same
theorem SameCourse.bootcfg : s.attic.bootcfg = o.attic.bootcfg := congrArg Course.bootcfg same
theorem SameCourse.deadConvs : s.attic.deadConvs = o.attic.deadConvs := congrArg Course.deadConvs same
theorem SameCourse.restart : s.resil.restart.isSome = o.resil.restart.isSome := congrArg Course.restart same

theorem SameCourse.trans (next : SameCourse s t) : SameCourse o t := Eq.trans next same

theorem SameCourse.frame (frame : Frame P s t) (dev : .dev ∉ P := by decide) (attic : .attic ∉ P := by decide)
    (resil : .resil ∉ P := by decide) : SameCourse o t :=
  same.trans (by rw [SameCourse, State.course, State.course, frame.part .dev dev, frame.part .attic attic, frame.part .resil resil])

/-- A frame with the restart in it, as long as the restart goes on. -/
theorem SameCourse.frameResil (frame : Frame P s t) (goes : t.resil.restart.isSome = s.resil.restart.isSome) (dev : .dev ∉ P := by decide)
    (attic : .attic ∉ P := by decide) : SameCourse o t :=
  same.trans (by rw [SameCourse, State.course, State.course, frame.part .dev dev, frame.part .attic attic, goes])

theorem SameCourse.foldl {α : Type} {f : State → α → State} {l : List α} (each : ∀ u x, SameCourse o u → SameCourse o (f u x)) :
    SameCourse o (l.foldl f s) := foldl_inv (SameCourse o) f (fun u x _ => each u x) same

-- Events, alerts and reports

theorem SameCourse.logEvent (code : Nat) (source : BitVec 16) (time : DWord) (data : BitVec 128) :
    SameCourse o (s.logEvent code source time data) := by
  unfold State.logEvent
  split
  · exact same
  · exact same

end

theorem SameCourse.ite {c : Prop} [Decidable c] (yes : c → SameCourse o t) (no : ¬ c → SameCourse o u) : SameCourse o (if c then t else u) := by
  split
  next h => exact yes h
  next h => exact no h

section
variable (same : SameCourse o s)
include same

theorem SameCourse.postAt (code : Nat) (source : BitVec 16) (time : DWord) (data : BitVec 128) :
    SameCourse o (s.postAt code source time data) := by
  unfold State.postAt
  extract_lets e logged st
  have logs : SameCourse o logged := same.logEvent ..
  exact .ite (fun _ => .ite (fun _ => logs) fun _ => .ite (fun _ => logs) fun _ => logs) fun _ => .ite (fun _ => logs) fun _ => logs

theorem SameCourse.post (code : Nat) (source : BitVec 16) (data : List (Nat × Nat)) : SameCourse o (s.post code source data) := same.postAt ..

theorem SameCourse.alert (cause : Nat) : SameCourse o (s.alert cause) := same

theorem SameCourse.todo (k : ReportKind) : SameCourse o (s.todo k) := by
  unfold State.todo State.recordRepair
  split
  · exact same
  · exact same

-- Accesses of memory

theorem SameCourse.celUncorrectable (r cw : Nat) (patrol : Bool) : SameCourse o (s.celUncorrectable r cw patrol) := same

theorem SameCourse.celCorrected (r cw : Nat) (patrol : Bool) : SameCourse o (s.celCorrected r cw patrol) := by
  unfold State.celCorrected
  extract_lets counted flagged noted log logged
  have logs : SameCourse o logged := same
  exact .ite (fun _ => logs.todo _) fun _ => logs

theorem SameCourse.celCheck (r off n : Nat) (patrol : Bool) : SameCourse o (s.celCheck r off n patrol).1 := by
  refine foldl_inv (fun a : State × Option (List (Nat × BitVec 512)) => SameCourse o a.1) _ (fun a e _ same => ?_) same
  cases celDecode e.2 with
  | none => exact same.celUncorrectable r e.1 patrol
  | some x => exact .ite (fun _ => same.celCorrected r e.1 patrol) fun _ => same

theorem SameCourse.celRead (r off n : Nat) : SameCourse o (s.celRead r off n).1 :=
  .celCheck (.ite (fun _ => same) fun _ => same.frame (State.celTouch_frame ..)) ..

theorem SameCourse.celEdgeCheck (r : Nat) (ws : List Nat) : SameCourse o (s.celEdgeCheck r ws).1 :=
  foldl_inv (fun a : State × Option (List (Nat × BitVec 512)) => SameCourse o a.1) _ (fun _ _ _ same => same.celCheck ..) same

theorem SameCourse.celWrite (r off : Nat) (d : List Byte) : SameCourse o (s.celWrite r off d).1 := by
  have checked := SameCourse.celEdgeCheck (s := if d.length = 0 then s else s.celTouch r)
    (.ite (fun _ => same) fun _ => same.frame (State.celTouch_frame ..)) r (celEdges off d.length)
  unfold State.celWrite
  extract_lets touched
  split
  next written => rw [written] at checked; exact checked
  next written =>
    rw [written] at checked
    exact (checked.foldl fun _ _ same => same.frame (State.celMend_frame ..)).frame (State.celPut_frame ..)

theorem SameCourse.larUncorrectable (site i : Nat) (scrub : Bool) : SameCourse o (s.larUncorrectable site i scrub) := same

theorem SameCourse.larCheck (site addr n : Nat) (scrub : Bool) : SameCourse o (s.larCheck site addr n scrub).1 := by
  refine foldl_inv (fun a : State × Option (List (Nat × BitVec 64)) => SameCourse o a.1) _ (fun a e _ same => ?_) same
  cases larDecode e.2 with
  | none => exact same.larUncorrectable site e.1 scrub
  | some x => exact .ite (fun _ => same) fun _ => same

theorem SameCourse.larEdges (site : Nat) (ws : List Nat) : SameCourse o (s.larEdges site ws).1 :=
  foldl_inv (fun a : State × Option (List (Nat × BitVec 64)) => SameCourse o a.1) _ (fun _ _ _ same => same.larCheck ..) same

theorem SameCourse.larWriteRow (site addr : Nat) (d : List Byte) : SameCourse o (s.larWriteRow site addr d).1 := by
  have checked := SameCourse.larEdges ((same.frame (State.wakeGroups_frame s site addr d.length)).frame
    (State.contend_frame _ site addr d.length)) site (edgeWords addr d.length)
  unfold State.larWriteRow
  extract_lets woken
  split
  next written => rw [written] at checked; exact checked
  next written =>
    rw [written] at checked
    exact (checked.foldl fun _ _ same => same.frame (State.larMend_frame ..)).frame (State.larPut_frame ..)

omit same in
theorem SameCourse.larWriteRows (same : SameCourse o s) (site fuel addr : Nat) (d : List Byte) :
    SameCourse o (State.larWriteRows site fuel addr d s).1 := by
  induction fuel generalizing addr d s with
  | zero => exact same
  | succ fuel ih =>
    unfold State.larWriteRows
    split
    · exact same
    · extract_lets k
      have row := same.larWriteRow site addr (d.take k)
      split
      next written => rw [written] at row; exact row
      next written => rw [written] at row; exact ih row ..

end

-- Device work

/-- However work ends, the device stands where it stood. -/
def Flow.sameCourse (o : State) (f : Flow) : Prop := ∀ t, f = .ok t ∨ f = .error (.held t) → SameCourse o t

theorem Flow.sameCourse.ok (same : SameCourse o s) : Flow.sameCourse o (.ok s) := by
  rintro t (is | is) <;> cases is
  exact same

theorem Flow.sameCourse.held (same : SameCourse o s) : Flow.sameCourse o (.error (.held s)) := by
  rintro t (is | is) <;> cases is
  exact same

theorem Flow.sameCourse.undef {c : UCase} : Flow.sameCourse o (.error (.undef c)) := by
  rintro t (is | is) <;> cases is

theorem Flow.sameCourse.bind {f : Flow} {k : State → Flow} (first : f.sameCourse o) (next : ∀ t, SameCourse o t → (k t).sameCourse o) :
    (f.bind' k).sameCourse o := by
  match f with
  | .ok t => exact next t (first t (.inl rfl))
  | .error e => exact first

theorem Flow.sameCourse.fold {α : Type} {f : State → α → Flow} {l : List α} (same : SameCourse o s)
    (each : ∀ t x, SameCourse o t → (f t x).sameCourse o) : (foldFlow f s l).sameCourse o := by
  induction l generalizing s with
  | nil => exact .ok same
  | cons x l ih => exact .bind (each s x same) fun t => ih

section
variable (same : SameCourse o s)
include same

theorem SameCourse.withRestart (f : RestartSt → RestartSt) :
    SameCourse o { s with resil := { s.resil with restart := s.resil.restart.map f } } :=
  same.trans (by rw [SameCourse, State.course, State.course, Option.isSome_map])

theorem Flow.sameCourse.orStuck {f : Flow} (work : f.sameCourse o) : SameCourse o (f.orStuck s) := by
  match f with
  | .ok t => exact work t (.inl rfl)
  | .error (.held t) => exact (work t (.inr rfl)).withRestart _
  | .error (.undef _) => exact same.withRestart _

theorem Flow.sameCourse.planRead (r off n : Nat) {k : State → List Byte → Flow}
    (next : ∀ t d, SameCourse o t → (k t d).sameCourse o) : (s.planRead r off n k).sameCourse o := by
  unfold State.planRead
  have read := same.celRead r off n
  split
  · exact .undef
  · split
    next done => rw [done] at read; exact next _ _ read
    next done => rw [done] at read; exact .held read

theorem Flow.sameCourse.planWrite (r off : Nat) (d : List Byte) : (s.planWrite r off d).sameCourse o := by
  unfold State.planWrite
  have written := same.celWrite r off d
  split
  · exact .undef
  · split
    next done => rw [done] at written; exact .ok written
    next done => rw [done] at written; exact .held written

theorem Flow.sameCourse.larStore (site addr : Nat) (d : List Byte) : (s.larStore site addr d).sameCourse o := by
  unfold State.larStore
  have written : SameCourse o (s.larWrite site addr d).1 := same.larWriteRows ..
  split
  · exact .undef
  · split
    next done => rw [done] at written; exact .ok written
    next done => rw [done] at written; exact .held written

theorem Flow.sameCourse.restoreLocal (c : Snap) (l : Nat) : (s.restoreLocal c l).sameCourse o := by
  unfold State.restoreLocal
  split
  · exact .ok same
  · next r _ =>
    refine .bind (.fold same fun t i same => ?_) fun t same => .fold same fun t q same => ?_
    · split
      · exact .planRead same _ _ _ fun t d same => .larStore same _ _ _
      · exact .ok same
    · exact .planRead same _ _ _ fun t d same => .planWrite same _ _ _

theorem Flow.sameCourse.sweepEnd (r : Nat) : (s.sweepEnd r).sameCourse o := by
  unfold State.sweepEnd
  extract_lets copy ended
  have ends : SameCourse o ended := (SameCourse.frame same (State.updRg_frame ..)).frame (State.sweepPools_frame _)
  clear_value copy
  split
  · exact .ok (ends.frame (State.zeroLarders_frame ..))
  · refine .fold ends fun t p same => .fold same fun t g same => ?_
    split
    · exact .planRead same _ _ _ fun t d same => .larStore same _ _ _
    · exact .ok same

-- Snapshots, checks and references

theorem SameCourse.withSnap (x : Option Snap) : SameCourse o { s with resil := { s.resil with snap := x } } := same

theorem SameCourse.withReqs (l : List DepReq) : SameCourse o { s with reqs := l } := same

theorem SameCourse.stopCairn : SameCourse o s.stopCairn := by
  have staged : SameCourse o (s.setCairnStage caIdle) := same.frame (State.setCairnStage_frame ..)
  rw [State.stopCairn]
  exact (staged.withSnap _).frame (State.fenceCheck_frame _)

theorem SameCourse.discardDrain : SameCourse o s.discardDrain := by
  have idle : SameCourse o { (s.setCairnStage caIdle) with reqs := s.reqs.filter fun (q : DepReq) => !q.isDrain } := same
  unfold State.discardDrain
  extract_lets staged
  split
  · next x _ =>
    extract_lets noted
    have notes : SameCourse o noted := idle.withSnap _
    refine SameCourse.frame ?_ (State.fenceCheck_frame _)
    split
    · exact notes.frame (State.finish_frame ..)
    · exact notes
  · exact idle.frame (State.fenceCheck_frame _)

theorem SameCourse.dropChecks (p : Check → Bool) : SameCourse o (s.dropChecks p) := by
  have kept : SameCourse o { s with resil := { s.resil with checks := s.resil.checks.filter fun x => !p x } } := same
  rw [State.dropChecks]
  exact kept.frame (State.unstall_frame ..)

theorem SameCourse.endStep : SameCourse o s.endStep := same.dropChecks _

theorem SameCourse.refRestored : SameCourse o s.refRestored := by
  unfold State.refRestored
  split
  · refine .ite (fun _ => same) fun _ => ?_
    extract_lets clk noted posted
    have posts : SameCourse o posted := SameCourse.post (s := noted) same ..
    exact .ite (fun _ => posts) fun _ => posts.frame (State.clearDrift_frame _)
  · exact same

-- Links

theorem SameCourse.reqFail (q : DepReq) : SameCourse o (s.reqFail q) := by
  unfold State.reqFail
  split
  · split
    · next r _ => exact (same.frame (State.finish_frame s r 8 0x50 0)).withReqs _
    · exact same
  · split
    · next r _ => exact (same.frame (State.finish_frame s r 8 0x50 0)).withReqs _
    · exact same
  · exact same.discardDrain
  · exact same.discardDrain
  · exact same

theorem SameCourse.resend (l : Nat) : SameCourse o (s.resend l) := by
  unfold State.resend
  refine SameCourse.frame (same.foldl fun u q same => ?_) (State.pumpReqs_frame _)
  refine .ite (fun _ => same) fun _ => ?_
  extract_lets up rest next
  split
  · exact same.reqFail q
  · exact .ite (fun _ => same.reqFail q) fun _ => same

theorem SameCourse.linkDown (l reason : Nat) : SameCourse o (s.linkDown l reason) := by
  unfold State.linkDown
  extract_lets lost waiting ring down dropped
  have rings : SameCourse o ring := .ite (fun _ => same.frame (State.ringLost_frame _)) fun _ => same
  have downs : SameCourse o down :=
    ((rings.frame (State.setLinkState_frame ..)).frame (State.setRegF_frame ..)).post ..
  have drops : SameCourse o dropped := downs.frame (State.updLnk_frame ..)
  have handed : SameCourse o { dropped with hands := dropped.hands ++ lost } := drops
  refine .ite (fun _ => ?_) fun _ => (drops.frame (State.moveFrames_frame ..)).frame (State.portLost_frame ..)
  exact (((handed.resend l).frame (State.pumpHands_frame _)).frame (State.pullLost_frame ..)).frame (State.handoffWait_frame _)

theorem SameCourse.linkOff (l : Nat) : SameCourse o (s.linkOff l) := by
  have downs : SameCourse o (if s.linkUp l then s.linkDown l 0 else s) := .ite (fun _ => same.linkDown ..) fun _ => same
  exact (downs.frame (State.setLinkState_frame ..)).frame (State.updLnk_frame ..)

theorem SameCourse.peerFail (l type reason : Nat) (id : DWord) : SameCourse o (s.peerFail l type reason id) :=
  ((same.frame (State.setLinkState_frame ..)).frame (State.updLnk_frame ..)).post ..

end

end Sys2Proof.Machine
end

section
/-! SUPPORT. A restart that has begun stays under way through its own steps (R368 to R372). -/

namespace Sys2Proof.Machine

-- In sequence, so that the stacks of their threads do not add up.
set_option Elab.async false

variable {P : List Part} {s t u : State}

/-- A restart is under way. -/
def State.restarting (s : State) : Prop := s.resil.restart.isSome = true

theorem State.restarting.of_restart (under : s.restarting) (same : t.resil.restart = s.resil.restart) : t.restarting := by
  rw [State.restarting, same]
  exact under

theorem State.restarting.frame (under : s.restarting) (frame : Frame P s t) (resil : .resil ∉ P := by decide) : t.restarting :=
  under.of_restart (congrArg Resil.restart (frame.part .resil resil))

theorem State.restarting.ite {c : Prop} [Decidable c] (yes : c → t.restarting) (no : ¬ c → u.restarting) : (if c then t else u).restarting := by
  split
  next h => exact yes h
  next h => exact no h

theorem State.restarting.foldl {α : Type} {f : State → α → State} {l : List α} (under : s.restarting)
    (each : ∀ u x, u.restarting → (f u x).restarting) : (l.foldl f s).restarting := foldl_inv State.restarting f (fun u x _ => each u x) under

theorem State.restarting.withRestart {f : RestartSt → RestartSt} (under : s.restarting) :
    State.restarting { s with resil := { s.resil with restart := s.resil.restart.map f } } := by
  rw [State.restarting, Option.isSome_map]
  exact under

theorem State.restarting.same (under : s.restarting) (same : SameCourse s t) : t.restarting := same.restart.trans under

-- Steps of a restart

theorem State.restarting.restartReads (under : s.restarting) : s.restartReads.restarting := by
  unfold State.restartReads
  split
  next none => rw [State.restarting, none] at under; cases under
  next x _ =>
    extract_lets go
    have goes {u : State} (under : u.restarting) : (go u).restarting := under.withRestart
    refine .ite (fun _ => under) fun _ => .ite (fun _ => ?_) fun _ => .ite (fun _ => under) fun _ => ?_
    · split
      · exact goes under
      · exact .ite (fun _ => under) fun _ => goes (under.same (Flow.sameCourse.orStuck (.refl s) (.fold (.refl s) fun _ _ same => .restoreLocal same _ _)))
    · split
      · exact goes (.ite (fun _ => (under.frame (State.readStatics_frame ..)).frame (State.pumpReqs_frame ..)) fun _ => under)
      · exact .ite (fun _ => under) fun _ => goes <|
          ((under.frame (State.readStatics_frame ..)).frame (State.readImages_frame ..)).frame (State.pumpReqs_frame ..)

theorem State.restarting_rebuild (s : State) (x : RestartSt) : (s.rebuild x).restarting := rfl

theorem State.restarting.idled (under : s.restarting) (d : Dev) (c : Tab Cluster) (m : StreamSt) (q : List DepReq) (h : List HandPkt) (j : Jobs) :
    State.restarting { s with dev := d, clusters := c, strm := m, reqs := q, hands := h, jobs := j } := under

theorem State.restarting.withdraw (under : s.restarting) (x : RestartSt) (fold : Bool) : (s.withdraw x fold).restarting := by
  unfold State.withdraw
  extract_lets back reset ended dropped dev jobs strm idle
  have h₁ : back.restarting := (under.foldl fun _ _ under => under.frame (State.switchBack_frame ..)).frame (State.refRestored_frame _)
  have h₂ : reset.restarting := .ite (fun _ => h₁) fun _ => h₁.frame (State.resetRegions_frame _)
  have h₃ : ended.restarting := (h₂.foldl fun _ _ under => under.frame (State.endRing_frame ..)).same (SameCourse.stopCairn (.refl _)) |>.frame (State.resetSync_frame _)
  have h₄ : idle.restarting := (h₃.same (SameCourse.dropChecks (.refl _) _)).idled _ _ _ _ _ _
  exact ((h₄.foldl fun _ _ under => under.frame (State.raiseEpoch_frame ..)).frame (State.slabPools_frame ..)).frame (State.dropWaves_frame _)

/-- A restart that begins is under way. -/
theorem State.restarting_beginRestart (s : State) (kind : Nat) (planned supply : Bool) (upd : RestartSt → RestartSt) :
    (s.beginRestart kind planned supply upd).restarting := by
  unfold State.beginRestart
  extract_lets x fold noted
  apply State.restarting.withdraw
  exact (rfl : (some x).isSome = true)

theorem State.restarting.replayEnds (under : s.restarting) : s.replayEnds.restarting := by
  unfold State.replayEnds
  split
  · exact .ite (fun _ => State.restarting_beginRestart ..) fun _ => under
  · exact under

theorem State.restarting.restartGo (under : s.restarting) : s.restartGo.restarting := by
  unfold State.restartGo
  extract_lets u
  have ended : u.restarting := under.replayEnds
  split
  · exact ended
  · exact .ite (fun _ => ended) fun _ => (State.restarting_rebuild ..).restartReads

theorem State.restarting_restart (s : State) (k : ReportKind) (upd : RestartSt → RestartSt) : (s.restart k upd).restarting := by
  unfold State.restart
  exact (State.restarting_beginRestart ..).restartGo

end Sys2Proof.Machine
end

section
/-! CLAIM. O56: what the commands of resilience do (R359 to R386). -/

namespace Sys2Proof.Machine

-- In sequence, so that the stacks of their threads do not add up.
set_option Elab.async false

variable {s : State} {k : ReportKind} {r : RegionNo} {slot : BitVec 16} {x : Check}

-- Reports

/-- The report is the one of its region to act on, or a new one with no other before it. -/
def State.reportTurn (s : State) (k : ReportKind) : Prop :=
  s.resil.intake.contains k = false ∧ s.reportsOf k = [] ∨
    s.resil.intake.contains k = true ∧ ((∀ q ∈ s.reportsOf k, q = k) ∨ (s.reportsOf k).head? = some k)

/-- The state that a report which is acted on leaves behind in the intake. -/
abbrev State.tookReport (s : State) (k : ReportKind) : State :=
  { s with resil := { s.resil with intake := s.resil.intake.erase k } }

theorem execFaultReport_waits (known : s.resil.intake.contains k = true) (behind : (s.reportsOf k).head? ≠ some k)
    (other : ∃ q ∈ s.reportsOf k, q ≠ k) : exec (.faultReport k) s = .next s := by
  change execFaultReport k s = _
  have any : ((s.reportsOf k).any (· != k)) = true := by simpa using other
  exact if_pos (by rw [known, any]; simpa using behind)

theorem execFaultReport_joins (new : s.resil.intake.contains k = false) (others : s.reportsOf k ≠ []) :
    exec (.faultReport k) s = .next (s.report k) := by
  change execFaultReport k s = _
  unfold execFaultReport
  rw [if_neg (by simp only [new]; simp), if_pos (by simp only [new]; simpa using others)]

/-- A report whose turn has come gets past the two tests of the order of reports. -/
theorem State.reportTurn.skips {α : Type} (turn : s.reportTurn k) (a b c : α) :
    (if (s.resil.intake.contains k && (s.reportsOf k).any (· != k) && (s.reportsOf k).head? != some k) = true then a
      else if (!s.resil.intake.contains k && !(s.reportsOf k).isEmpty) = true then b else c) = c := by
  obtain ⟨new, alone⟩ | ⟨known, first⟩ := turn
  · rw [new, alone]
    rfl
  · refine (if_neg ?_).trans (if_neg (by rw [known]; simp))
    obtain own | first := first
    · have none : ((s.reportsOf k).any (· != k)) = false := by simpa using own
      rw [none, Bool.and_false, Bool.false_and]
      decide
    · rw [first, bne_self_eq_false, Bool.and_false]
      decide

theorem execFaultReport_down (turn : s.reportTurn k) (rails : s.railsOn = false) (none : s.resil.restart = none) :
    exec (.faultReport k) s = .next (if s.railsUp then (s.tookReport k).bringReport k else s.tookReport k) := by
  refine Eq.trans (b := if (!s.railsOn && s.resil.restart.isNone) = true then _ else _) (turn.skips ..) (if_pos ?_)
  rw [rails, none]
  rfl

/-- With the rails on, or in a restart, a report is not only dropped. -/
theorem State.notDropped {α : Type} (on : s.railsOn = true ∨ s.resil.restart.isSome = true) (a b : α) :
    (if (!s.railsOn && s.resil.restart.isNone) = true then a else b) = b := by
  refine if_neg ?_
  obtain rails | under := on
  · rw [rails, Bool.not_true, Bool.false_and]
    decide
  · rw [Option.isNone_eq_false_iff.mpr under, Bool.and_false]
    decide

theorem execFaultReport_plain (turn : s.reportTurn k) (on : s.railsOn = true ∨ s.resil.restart.isSome = true) :
    (∀ site f, k = .program site f → exec (.faultReport k) s = .next ((s.tookReport k).failStep 0x20))
    ∧ (∀ site, k = .loadList site → exec (.faultReport k) s = .next ((s.tookReport k).failStep 0x21))
    ∧ (k = .redStall r → exec (.faultReport k) s = .next ((s.tookReport k).failStep 0x22))
    ∧ (k = .refLoss → exec (.faultReport k) s = .next (s.tookReport k))
    ∧ (∀ q, k = .poison q → exec (.faultReport k) s = .next (s.tookReport k))
    ∧ (∀ c, k = .precursor r c → exec (.faultReport k) s = .next ((s.tookReport k).planRetirement r c.toNat))
    ∧ (∀ site row, k = .hardLarder site row → exec (.faultReport k) s = .next ((s.tookReport k).todo k))
    ∧ (k = .transient r → exec (.faultReport k) s = .next ((s.tookReport k).regionFault k r)) := by
  refine ⟨?_, ?_, ?_, ?_, ?_, ?_, ?_, ?_⟩ <;>
    · intros
      subst k
      exact (turn.skips ..).trans (State.notDropped on ..)

theorem execFaultReport_transient (turn : s.reportTurn (.transient r)) (on : s.railsOn = true ∨ s.resil.restart.isSome = true) :
    (s.carries r = true → ∃ t, exec (.faultReport (.transient r)) s = .next t ∧ t.resil.restart.isSome = true)
    ∧ (s.carries r = false → exec (.faultReport (.transient r)) s = .next (s.tookReport (.transient r))) := by
  obtain ⟨-, -, -, -, -, -, -, acts⟩ := execFaultReport_plain (r := r) turn on
  refine ⟨fun carries => ⟨_, acts rfl, ?_⟩, fun idle => (acts rfl).trans (congrArg _ (if_neg ?_))⟩
  · have restart : (s.tookReport (.transient r)).regionFault (.transient r) r = (s.tookReport (.transient r)).restart (.transient r) id :=
      if_pos carries
    rw [restart]
    exact State.restarting_restart ..
  · change ¬ s.carries r = true
    rw [idle]
    decide

-- Restarts

theorem execPlannedRestart_begins (base : s.dev.base = .ready ∨ s.dev.base = .degraded) (none : s.resil.restart = none)
    (due : s.resil.plannedDue = true) (cairn : ∃ m, s.resil.cairn = some m ∧ m.forPlan = true) (stage : s.cairnStage = caIdle)
    (last : ∀ t, s.resil.lastPlanned = some t → day ≤ (s.now - t).toNat) (rings : ∀ n ∈ s.rewindRings, (s.ring n).out = .none) :
    exec .plannedRestart s = .next (s.beginRestart 0 true false id).restartGo := by
  obtain ⟨m, cairn, plan⟩ := cairn
  have soon : s.planSoon = true := by
    unfold State.planSoon
    rw [due, Bool.true_and]
    match same : s.resil.lastPlanned with
    | .none => rfl
    | some t => simpa [Option.elim] using last t same
  have idle : (s.rewindRings.all fun r => (s.ring r).out.isNone) = true := by simpa using rings
  have plan : (s.resil.cairn.elim false fun m => m.forPlan) = true := by rw [cairn]; exact plan
  change execPlannedRestart s = _
  refine if_neg ?_
  rw [soon, idle, plan, none]
  simp only [stage]
  obtain base | base := base <;> simp [base]

theorem execLeaveRestart_leaves {x : RestartSt} (restart : s.resil.restart = some x) (reading : x.reading = true) (left : x.left = false)
    (stuck : x.stuck = false) (cool : s.dev.tripped = false) (rails : s.railsOn = true) (reads : ∀ q ∈ s.reqs, q.kind.isRead = false)
    (images : ∀ m, s.restartFrom x = some m → x.replay = true ∨ s.badImages m = []) :
    exec .leaveRestart s = .next (s.leave x) := by
  have came : (s.reqs.any fun q => q.kind.isRead) = false := by simpa using reads
  change execLeaveRestart s = _
  unfold execLeaveRestart
  rw [restart]
  refine (if_neg (by rw [reading, left, stuck, cool, rails, came]; decide)).trans ?_
  match same : s.restartFrom x with
  | none => rfl
  | some m => 
    refine if_pos ?_
    obtain replay | good := images m same
    · rw [replay]
      rfl
    · rw [good]
      simp

-- Snapshots

theorem execSnapshotStaged_drains {x : Snap} (snap : s.resil.snap = some x) (stage : s.cairnStage = caStaging) (carrier : x.carrierRing = none) :
    let u := { s.setLocal true with resil := { s.resil with snap := some x } }
    exec .snapshotStaged s = if u.cairnDepot = 0 then .next u.discardDrain else (u.startDrain x).res := by
  intro u
  change execSnapshotStaged s = _
  unfold execSnapshotStaged
  rw [snap]
  refine (if_neg (by rw [stage]; exact fun h => h rfl)).trans ?_
  simp only [carrier]
  rfl

-- Checks of BELAY

theorem State.checkClaims_notSweeping {d : Nat} (still : (s.rg (siteRegion d)).sweeping = false) :
    s.checkClaims d = .ok (s.preemptWatch (siteRegion d)) := if_neg (by rw [still]; decide)

theorem execCheckReplay_compares (check : s.checkNo slot = some x) (second : x.sigC = none) (can : s.canCheck x.checker = true) {c : State}
    (claims : s.checkClaims x.checker = .ok c) :
    let t := (c.replayOn x.checker x).1
    let sig := (c.replayOn x.checker x).2
    (sig = x.sig → exec (.checkReplay slot) s = .next (t.checkEnds x))
    ∧ (sig ≠ x.sig → (∀ d, t.thirdOf x.primary x.checker x.checker = some d →
          exec (.checkReplay slot) s = .next (t.setCheck { x with sigC := some sig, third := some d }))
        ∧ (t.thirdOf x.primary x.checker x.checker = none → exec (.checkReplay slot) s = .next (t.arbitrate x 2))) := by
  intro t sig
  have runs : exec (.checkReplay slot) s = Flow.res (if sig = x.sig then .ok (t.checkEnds x) else
      match t.thirdOf x.primary x.checker x.checker with
      | some d => .ok (t.setCheck { x with sigC := some sig, third := some d })
      | none => .ok (t.arbitrate x 2)) := by
    change execCheckReplay slot s = _
    unfold execCheckReplay
    rw [check]
    refine (if_neg (by rw [second, can]; decide)).trans ?_
    rw [claims]
    rfl
  refine ⟨fun same => ?_, fun differs => ⟨fun d third => ?_, fun third => ?_⟩⟩
  · rw [runs, if_pos same]
    rfl
  · rw [runs, if_neg differs, third]
    rfl
  · rw [runs, if_neg differs, third]
    rfl

theorem execThirdReplay_decides {a d : _} (check : s.checkNo slot = some x) (second : x.sigC = some a) (third : x.third = some d)
    (can : s.canCheck d = true) {c : State} (claims : s.checkClaims d = .ok c) :
    exec (.thirdReplay slot) s = .next ((c.replayOn d x).1.arbitrate x
      (if (c.replayOn d x).2 = x.sig then 0 else if (c.replayOn d x).2 = a then 1 else 2)) := by
  change execThirdReplay slot s = _
  unfold execThirdReplay
  rw [check]
  simp only [second, third]
  refine (if_neg (by rw [can]; decide)).trans ?_
  rw [claims]
  rfl

-- Sweeps

/-- A window holds at most 8 sweeps: those that it has already, or 8. -/
theorem length_sweepPick_le (ok : Nat → Bool) (l acc : List Nat) : (sweepPick ok l acc).length ≤ max 8 acc.length := by
  induction l generalizing acc with
  | nil => exact le_max_right ..
  | cons r l ih =>
    unfold sweepPick
    split
    · exact le_max_right ..
    · split
      · exact (ih _).trans (by simp only [List.length_append, List.length_singleton]; omega)
      · exact ih _

theorem length_drop_sweepPick (ok : Nat → Bool) (l acc : List Nat) : ((sweepPick ok l acc).drop acc.length).length ≤ 8 := by
  have := length_sweepPick_le ok l acc
  rw [List.length_drop]
  omega

theorem execScheduledSweep_starts (base : s.dev.base = .ready ∨ s.dev.base = .degraded) (every : (s.reg Reg.GLB_POLSWEEP).toNat ≠ 0)
    (due : s.resil.swept ≠ [] ∨ (s.reg Reg.GLB_POLSWEEP).toNat * 60 * second ≤ (s.now - s.resil.lastSweep).toNat) :
    let before := if s.idleWindow then s.resil.winSwept else []
    let rs := (sweepPick (fun q => s.sweepable q && !s.resil.swept.contains q && !s.sweepHeld q && (s.idleWindow || s.isReserve q))
      (List.range 192) before).drop before.length
    ∀ u, foldFlow State.sweepStart s rs = .ok u →
      exec .scheduledSweep s = .next (if s.idleWindow then
        { u with resil := { u.resil with winSwept := u.resil.winSwept ++ rs.filter fun q => (u.rg q).sweeping } } else u) := by
  intro before rs u starts
  change execScheduledSweep s = _
  have late : ((s.reg Reg.GLB_POLSWEEP).toNat != 0 && (!s.resil.swept.isEmpty ||
      decide ((s.reg Reg.GLB_POLSWEEP).toNat * 60 * second ≤ (s.now - s.resil.lastSweep).toNat))) = true := by
    simpa [every] using due
  refine (if_neg ?_).trans ?_
  · rw [late]
    obtain base | base := base <;> simp [base]
  · change Flow.res ((foldFlow State.sweepStart s rs).bind' _) = _
    rw [starts]
    rfl

theorem execSweepFinished_ends {cool : Bool} (none : s.jobs.grants = []) (sweeping : (s.rg r).sweeping = true) (clocked : s.clocked r = true)
    (kept : s.isRetired r = false) :
    let w := Tab.get 0 s.attic.sweep r
    let y := setFld (setFld (setFld w 0 4 0) 4 1 (b2n cool)) 16 16 (fld w 16 16 + 1)
    let x : State := { s with attic := { s.attic with sweep := Tab.set 0 s.attic.sweep r y } }
    ∀ t, ((x.count (Reg.RGN_KA r) 0 16 4).count (Reg.RGN_KA r) 16 16 0).sweepEnd r = .ok t →
      exec (.sweepFinished r {} cool) s = .next (t.noteSwept [r]) := by
  intro w y x t ends
  change execSweepFinished r {} cool s = _
  unfold execSweepFinished
  rw [if_neg (by rw [sweeping, clocked]; simp)]
  simp only [none, List.find?_nil, Option.bind_none, Option.getD_none, kept, List.filter_nil]
  change Flow.res (Flow.bind' (State.sweepEnd ((x.count (Reg.RGN_KA r) 0 16 4).count (Reg.RGN_KA r) 16 16 0) r) _) = _
  rw [ends]
  rfl

end Sys2Proof.Machine

namespace Sys2Proof
open Machine

/-- Settles O56: each command of resilience by the tests that it makes first; a restart that a transient begins stays under way through
its own steps (`State.restarting`). -/
theorem resilienceCommands : Obligations.ResilienceCommands := by
  intro s k r c slot cool s' on mine acted
  refine ⟨execFaultReport_waits, execFaultReport_joins, execFaultReport_down, fun turn on => ?_, execPlannedRestart_begins,
    fun x restart reading left stuck cool rails reads images => execLeaveRestart_leaves restart reading left stuck cool rails reads images,
    fun x snap stage carrier => ?_, fun x check second can still => execCheckReplay_compares check second can (State.checkClaims_notSweeping still),
    fun x a d check second third can c claims => execThirdReplay_decides check second third can claims, ?_, execSweepFinished_ends⟩
  · obtain ⟨program, loadList, redStall, refLoss, poison, precursor, hardLarder, -⟩ := execFaultReport_plain (r := r) turn on
    refine ⟨program, loadList, redStall, refLoss, poison, precursor c, hardLarder, ?_, ?_⟩
    · rintro rfl
      exact (execFaultReport_transient turn on).1
    · rintro rfl
      exact (execFaultReport_transient turn on).2
  · have drains := execSnapshotStaged_drains snap stage carrier
    refine ⟨fun none => drains.trans (if_pos none), fun depot t starts => (drains.trans (if_neg depot)).trans ?_⟩
    rw [starts]
    rfl
  · intro n idle base every due before rs
    exact ⟨length_drop_sweepPick .., execScheduledSweep_starts base every due⟩

end Sys2Proof
end

section
/-! SUPPORT. The measurements of the inputs stay when a restart begins and the rails fall (R368, R413, R461). -/

namespace Sys2Proof.Machine

-- In sequence, so that the stacks of their threads do not add up.
set_option Elab.async false

variable {A : Nat → Nat → Prop} {P : List Part} {o s t u : State}

-- Registers below those of the regions

section
variable (same : KeepsBits A o s) (below : ∀ a i, A a i → a < 0x4000000)
include same below

theorem KeepsBits.setReg_region {a : Nat} (v : Word) (region : 0x4000000 ≤ a) : KeepsBits A o (s.setReg a v) :=
  same.setReg v fun i named => by have := below a i named; omega

theorem KeepsBits.setRegF_region {a : Nat} (lo len v : Nat) (region : 0x4000000 ≤ a) : KeepsBits A o (s.setRegF a lo len v) :=
  same.setReg_region below _ region

theorem KeepsBits.unstall (p : Nat → Stall → Bool) (adv : Bool) : KeepsBits A o (s.unstall p adv) := by
  unfold State.unstall
  extract_lets hit freed
  have frees : KeepsBits A o freed := same.foldl fun _ _ _ same => same.withRegs rfl
  exact frees.foldl fun _ e _ same => .ite (fun _ => same.setRegF_region below _ _ _ (by simp only [Reg.RGN_PSTATE, Reg.rgnBase]; omega)) fun _ => same

theorem KeepsBits.dropChecks (p : Check → Bool) : KeepsBits A o (s.dropChecks p) := by
  have kept : KeepsBits A o { s with resil := { s.resil with checks := s.resil.checks.filter fun x => !p x } } := same.withRegs rfl
  rw [State.dropChecks]
  exact kept.unstall below _ _

omit below in
theorem KeepsBits.clearRegs (lo n : Nat) (apart : ∀ a i, A a i → a < lo ∨ lo + n ≤ a) :
    KeepsBits A o (s.clearRegs lo n) :=
  same.trans ⟨Tab.wf_clear _ _ same.tables, fun a i named => by
    have outside : ¬ (lo ≤ a ∧ a < lo + n) := by have := apart a i named; omega
    have read : (s.clearRegs lo n).reg a = s.reg a := by
      rw [State.reg, State.clearRegs, Tab.get_clear same.tables, if_neg outside, State.reg]
    rw [read]⟩

omit below in
theorem KeepsBits.refRestored (drops : ∀ i, ¬ A (Reg.RNG_DROPS 128) i) : KeepsBits A o s.refRestored := by
  unfold State.refRestored
  split
  · refine .ite (fun _ => same) fun _ => ?_
    extract_lets clk noted posted
    have posts : KeepsBits A o posted := KeepsBits.post (t := noted) (same.withRegs rfl) drops ..
    exact .ite (fun _ => posts) fun _ => posts.frame (State.clearDrift_frame _)
  · exact same

omit below in
/-- The pools of the slabs keep their registers in the blocks of the slabs. -/
theorem KeepsBits.slabPools (low : ∀ a i, A a i → a < 0x2000000) (ecc : Bool) : KeepsBits A o (s.slabPools ecc) := by
  have pool {u : State} (same : KeepsBits A o u) (sl lo len v : Nat) : KeepsBits A o (u.setRegF (Reg.SLB_POOL sl) lo len v) :=
    same.setReg _ fun i named => by
      have := low _ i named
      simp only [Reg.SLB_POOL, Reg.slbBase] at this
      omega
  refine same.foldl fun u sl _ same => .ite (fun _ => ?_) fun _ => pool same ..
  have own : poolReg (sl + 1) = Reg.SLB_POOL sl := if_neg (by omega)
  rw [own]
  exact pool (pool same ..) ..

end

theorem lnkBase_high (l : Nat) : 0x5000000 ≤ Reg.lnkBase l := by
  unfold Reg.lnkBase
  split <;> omega

-- GLB_VIN

/-- From o to s the registers stay canonical, and GLB_VIN reads as before. -/
abbrev KeepsVin (o s : State) : Prop := KeepsBits (fun a _ => a = Reg.GLB_VIN) o s

section
variable (same : KeepsVin o s)
include same

theorem KeepsVin.setReg {a : Nat} (v : Word) (apart : a ≠ Reg.GLB_VIN) : KeepsVin o (s.setReg a v) := KeepsBits.setReg same v fun _ => apart

theorem KeepsVin.setRegF {a : Nat} (lo len v : Nat) (apart : a ≠ Reg.GLB_VIN) : KeepsVin o (s.setRegF a lo len v) :=
  KeepsVin.setReg same _ apart

theorem KeepsVin.count {a : Nat} (lo len d : Nat) (apart : a ≠ Reg.GLB_VIN) : KeepsVin o (s.count a lo len d) := KeepsVin.setRegF same _ _ _ apart

theorem KeepsVin.setRgn {a : Nat} (v : Word) (region : 0x10000 ≤ a) : KeepsVin o (s.setReg a v) :=
  KeepsVin.setReg same v (by simp only [Reg.GLB_VIN]; omega)

theorem KeepsVin.setRgnF {a : Nat} (lo len v : Nat) (region : 0x10000 ≤ a) : KeepsVin o (s.setRegF a lo len v) := KeepsVin.setRgn same _ region

theorem KeepsVin.post (code : Nat) (source : BitVec 16) (data : List (Nat × Nat)) : KeepsVin o (s.post code source data) :=
  KeepsBits.post same (fun _ => by decide) ..

theorem KeepsVin.unstall (p : Nat → Stall → Bool) (adv : Bool) : KeepsVin o (s.unstall p adv) :=
  KeepsBits.unstall same (by simp only [Reg.GLB_VIN]; omega) ..

theorem KeepsVin.clearRegs (lo n : Nat) (apart : 0x10000 ≤ lo) : KeepsVin o (s.clearRegs lo n) :=
  KeepsBits.clearRegs same lo n fun a i vin => by simp only [vin, Reg.GLB_VIN]; omega

-- Rings

theorem KeepsVin.finish (n status detail flags : Nat) : KeepsVin o (s.finish n status detail flags) := by
  have updated : KeepsVin o (s.updRing n fun x =>
      match x.out with
      | some o => if o.rec_.isSome && !(status == 2 && detail == 0x40) then x else { x with out := some { o with rec_ := some ⟨status, detail, flags, s.checksOf n⟩ } }
      | none => x) := same.withRegs rfl
  exact (KeepsVin.setRgnF updated 3 1 0 (a := Reg.RNG_STATE n) (by simp only [Reg.RNG_STATE, Reg.rngBase]; omega)).withRegs rfl

theorem KeepsVin.setRingState (n v : Nat) : KeepsVin o (s.setRingState n v) :=
  KeepsVin.setRgnF same 0 2 v (by simp only [Reg.RNG_STATE, Reg.rngBase]; omega)

theorem KeepsVin.stopIfIdle (n : Nat) : KeepsVin o (s.stopIfIdle n) := .ite (fun _ => KeepsVin.setRingState same ..) fun _ => same

theorem KeepsVin.fenceCheck : KeepsVin o s.fenceCheck := KeepsBits.foldl same fun u r _ same => by
  split
  · exact .ite (fun _ => KeepsVin.finish same ..) fun _ => same
  · exact same

theorem KeepsVin.endRing (x : RestartSt) (fold : Bool) (r : Nat) : KeepsVin o (s.endRing x fold r) := by
  unfold State.endRing
  extract_lets y rewind ended known g w written again marked work c taken mine ready
  refine .ite (fun _ => same) fun _ => .ite (fun _ => ?_) fun _ => ?_
  · have ends : KeepsVin o ended := KeepsVin.finish same ..
    exact .ite (fun _ => .ite (fun _ => KeepsVin.setRingState ends ..) fun _ => KeepsVin.setRingState ends ..) fun _ => ends
  · have marks : KeepsVin o marked := KeepsVin.setRgnF same 3 1 0 (by simp only [Reg.RNG_STATE, Reg.rngBase]; omega)
    refine .ite (fun _ => marks.withRegs rfl) fun _ => ?_
    have takes : KeepsVin o taken := marks.withRegs rfl
    have readies : KeepsVin o ready := KeepsVin.setRgn takes c (by simp only [Reg.RNG_DEVIDX, Reg.rngBase]; omega)
    have drops : KeepsVin o { ready with jobs := { ready.jobs with reads := ready.jobs.reads.filter fun h => !mine h } } := readies.withRegs rfl
    exact KeepsVin.stopIfIdle drops r

-- Snapshots

theorem KeepsVin.setCairnStage (v : Nat) : KeepsVin o (s.setCairnStage v) := KeepsVin.setRegF same _ _ v (by decide)

theorem KeepsVin.setLocal (v : Bool) : KeepsVin o (s.setLocal v) := KeepsVin.setRegF same _ _ _ (by decide)

theorem KeepsVin.stopCairn : KeepsVin o s.stopCairn := by
  have staged := KeepsVin.setCairnStage same caIdle
  rw [State.stopCairn]
  exact KeepsVin.fenceCheck (staged.withRegs rfl)

theorem KeepsVin.discardDrain : KeepsVin o s.discardDrain := by
  have idle : KeepsVin o { (s.setCairnStage caIdle) with reqs := s.reqs.filter fun (q : DepReq) => !q.isDrain } :=
    (KeepsVin.setCairnStage same caIdle).withRegs rfl
  unfold State.discardDrain
  extract_lets staged
  split
  · next x _ =>
    extract_lets noted
    have notes : KeepsVin o noted := idle.withRegs rfl
    refine KeepsVin.fenceCheck ?_
    split
    · exact KeepsVin.finish notes ..
    · exact notes
  · exact KeepsVin.fenceCheck idle

-- Links

theorem KeepsVin.reqFail (q : DepReq) : KeepsVin o (s.reqFail q) := by
  unfold State.reqFail
  split
  · split
    · next r _ => exact (KeepsVin.finish same r 8 0x50 0).withRegs rfl
    · exact same.withRegs rfl
  · split
    · next r _ => exact (KeepsVin.finish same r 8 0x50 0).withRegs rfl
    · exact same.withRegs rfl
  · exact KeepsVin.discardDrain same
  · exact KeepsVin.discardDrain same
  · exact same.withRegs rfl

theorem KeepsVin.resend (l : Nat) : KeepsVin o (s.resend l) := by
  unfold State.resend
  refine KeepsBits.frame (KeepsBits.foldl same fun u q _ same => ?_) (State.pumpReqs_frame _)
  refine .ite (fun _ => same) fun _ => ?_
  extract_lets up rest next
  split
  · exact KeepsVin.reqFail same q
  · exact .ite (fun _ => KeepsVin.reqFail same q) fun _ => same.withRegs rfl

theorem KeepsVin.pullOnce (st : StepSt) (x : Inbound) : KeepsVin o (s.pullOnce st x) := by
  unfold State.pullOnce
  split
  · exact .ite (fun _ => KeepsVin.finish same ..) fun _ => same.frame (State.pullTag_frame ..)
  · exact same

theorem KeepsVin.pullLost (l : Nat) : KeepsVin o (s.pullLost l) := by
  unfold State.pullLost
  split
  · exact same
  · exact KeepsBits.foldl same fun _ _ _ same => KeepsVin.pullOnce same ..

theorem KeepsVin.handoffWait : KeepsVin o s.handoffWait := by
  unfold State.handoffWait
  split
  · exact same
  · exact .ite (fun _ => KeepsVin.finish same ..) fun _ => same

theorem KeepsVin.setLinkState (l v : Nat) : KeepsVin o (s.setLinkState l v) :=
  KeepsVin.setRgnF same 0 3 v (by have := lnkBase_high l; simp only [Reg.LNK_STATE]; omega)

theorem KeepsVin.linkDown {l : Nat} (depot : l < 48) (reason : Nat) : KeepsVin o (s.linkDown l reason) := by
  unfold State.linkDown
  extract_lets lost waiting ring down dropped
  have rings : KeepsVin o ring := .ite (fun _ => same.frame (State.ringLost_frame _)) fun _ => same
  have downs : KeepsVin o down := KeepsVin.post (KeepsVin.setRgnF (KeepsVin.setLinkState rings ..) 3 4 0
    (by have := lnkBase_high l; simp only [Reg.LNK_STATE]; omega)) ..
  have handed : KeepsVin o { dropped with hands := dropped.hands ++ lost } := downs.withRegs rfl
  rw [if_pos depot]
  exact KeepsVin.handoffWait (KeepsVin.pullLost ((KeepsVin.resend handed l).frame (State.pumpHands_frame _)) l)

theorem KeepsVin.linkOff {l : Nat} (depot : l < 48) : KeepsVin o (s.linkOff l) := by
  have downs : KeepsVin o (if s.linkUp l then s.linkDown l 0 else s) := .ite (fun _ => KeepsVin.linkDown same depot _) fun _ => same
  exact (KeepsVin.setLinkState downs l lsOff).frame (State.updLnk_frame ..)

-- Regions

theorem KeepsVin.groupOff (site g : Nat) : KeepsVin o (s.groupOff site g) := by
  have power : ∀ {u : State}, KeepsVin o u → ∀ lo len v, KeepsVin o (u.setRegF (Reg.RGN_LARPWR site) lo len v) := fun same lo len v =>
    KeepsVin.setRgnF same lo len v (by simp only [Reg.RGN_LARPWR, Reg.larBase, Reg.rgnBase]; omega)
  exact (power (power (power (same.frame (State.dropWriteBack_frame ..)) ..) ..) ..).withRegs rfl

theorem KeepsVin.loseRegion (r : Nat) : KeepsVin o (s.loseRegion r) := by
  unfold State.loseRegion
  refine (KeepsBits.foldl same fun u site _ same => ?_).updRg ..
  extract_lets off
  have offs : KeepsVin o off := KeepsBits.foldl same fun u g _ same => .ite (fun _ => KeepsVin.groupOff same ..) fun _ => same
  exact offs.withRegs rfl

theorem KeepsVin.abandonPackets (r : Nat) : KeepsVin o (s.abandonPackets r) := by
  unfold State.abandonPackets
  extract_lets mine opened strm cut
  have cuts : KeepsVin o cut := same.withRegs rfl
  exact cuts.foldl fun _ _ _ same => KeepsVin.unstall same ..

section
variable (r : Nat)

theorem KeepsVin.toDark : KeepsVin o (s.toDark r) := by
  have place {u : State} (same : KeepsVin o u) (n lo len v : Nat) : KeepsVin o (u.setRegF (Reg.rgnBase r + n) lo len v) :=
    KeepsVin.setRgnF same lo len v (by simp only [Reg.rgnBase]; omega)
  unfold State.toDark
  extract_lets dark still lost
  have darks : KeepsVin o dark := place (place same 0xF100 0 3 _) 0xF100 4 1 _
  have stills : KeepsVin o still := place (place darks 0xF004 0 5 _) 0xF004 15 1 _
  have switched : KeepsVin o (still.setSwitches r false false false) := place (place (place stills 0xF000 0 2 _) 0xF000 2 1 _) 0xF000 3 1 _
  exact (KeepsVin.abandonPackets (KeepsVin.loseRegion switched r) r).updRg ..

theorem KeepsVin.resetRegion : KeepsVin o (s.resetRegion r) := .ite (fun _ => KeepsVin.toDark same r) fun _ => same

theorem KeepsVin.switchBack : KeepsVin o (s.switchBack r) := by
  have place {u : State} (same : KeepsVin o u) (n lo len v : Nat) : KeepsVin o (u.setRegF (Reg.rgnBase r + n) lo len v) :=
    KeepsVin.setRgnF same lo len v (by simp only [Reg.rgnBase]; omega)
  unfold State.switchBack
  extract_lets back stopped
  have backs : KeepsVin o back := place same 0xF100 5 1 _
  have stops : KeepsVin o stopped := .ite (fun _ => KeepsVin.count backs _ _ _ (by simp only [Reg.RGN_CLKSTR, Reg.rgnBase, Reg.GLB_VIN]; omega)) fun _ => backs
  exact stops.withRegs rfl

theorem KeepsVin.railsOff : KeepsVin o (s.railsOff r) := by
  have place {u : State} (same : KeepsVin o u) (n lo len v : Nat) : KeepsVin o (u.setRegF (Reg.rgnBase r + n) lo len v) :=
    KeepsVin.setRgnF same lo len v (by simp only [Reg.rgnBase]; omega)
  unfold State.railsOff
  extract_lets off clk noted
  have cell : KeepsVin o ((s.toDark r).setRegF (Reg.RGN_CELSTATE r) 0 2 0) :=
    KeepsVin.setRgnF (KeepsVin.toDark same r) 0 2 0 (by simp only [Reg.RGN_CELSTATE, Reg.rgnBase]; omega)
  have held := KeepsVin.setRgn cell (a := Reg.RGN_CELHELD r) 0 (by simp only [Reg.RGN_CELHELD, Reg.rgnBase]; omega)
  have offs : KeepsVin o off := (held.frame (State.celLose_frame ..)).updRg ..
  have notes : KeepsVin o noted := offs.withRegs rfl
  exact (place notes 0xF100 3 3 0).updRg ..

end

theorem KeepsVin.resetRegions : KeepsVin o s.resetRegions := by
  refine KeepsBits.foldl (KeepsBits.foldl same fun _ r _ same => KeepsVin.resetRegion same r) fun _ r _ same =>
    .ite (fun _ => KeepsVin.setRgnF same _ _ _ ?_) fun _ => same
  simp only [Reg.RGN_CELSTATE, Reg.rgnBase]
  omega

-- Slabs

theorem KeepsVin.slabPools (ecc : Bool) : KeepsVin o (s.slabPools ecc) := KeepsBits.slabPools same (by simp only [Reg.GLB_VIN]; omega) ecc

theorem KeepsVin.slabRegs (sl : Nat) : KeepsVin o (s.slabRegs sl) := by
  unfold State.slabRegs
  extract_lets regions noted slab
  have cleared : KeepsVin o regions := KeepsBits.foldl same fun _ r _ same => KeepsVin.clearRegs same _ _ (by simp only [Reg.rgnBase]; omega)
  have notes : KeepsVin o noted := cleared.withRegs rfl
  have slabs : KeepsVin o slab := KeepsVin.clearRegs (KeepsVin.clearRegs notes _ _ (by simp only [Reg.slbBase]; omega)) _ _
    (by simp only [Reg.slbBase]; omega)
  refine KeepsBits.foldl slabs fun _ f _ same => KeepsBits.frame (KeepsVin.clearRegs same _ _ ?_) (State.updLnk_frame ..)
  have := lnkBase_high (sl * 4 + f)
  omega

theorem KeepsVin.slabOff (sl : Nat) : KeepsVin o (s.slabOff sl) := by
  unfold State.slabOff
  extract_lets regions conv slab mine cut
  have rails : KeepsVin o regions := KeepsBits.foldl same fun u r _ same => by
    have place {u : State} (same : KeepsVin o u) (n lo len v : Nat) : KeepsVin o (u.setRegF (Reg.rgnBase r + n) lo len v) :=
      KeepsVin.setRgnF same lo len v (by simp only [Reg.rgnBase]; omega)
    have net : KeepsVin o ((u.railsOff r).setRegF (Reg.RGN_NETSTATE r) 2 1 0) :=
      KeepsVin.setRgnF (KeepsVin.railsOff same r) 2 1 0 (by simp only [Reg.RGN_NETSTATE, Reg.rgnBase]; omega)
    have phases := place net 0xF000 4 4 0
    exact KeepsVin.setRgnF phases 0 8 0 (by simp only [Reg.RGN_CURR, Reg.rgnBase]; omega)
  have place {u : State} (same : KeepsVin o u) (n : Nat) (v : Word) : KeepsVin o (u.setReg (Reg.slbBase sl + n) v) :=
    KeepsVin.setRgn same v (by simp only [Reg.slbBase]; omega)
  have convs : KeepsVin o conv :=
    KeepsVin.setRgn (KeepsVin.setRgnF (KeepsVin.setRgnF rails 8 1 0 (a := Reg.SLB_CONV sl) (by simp only [Reg.SLB_CONV, Reg.slbBase]; omega)) 0 8 0
      (by simp only [Reg.SLB_CONV, Reg.slbBase]; omega)) 0 (by simp only [Reg.SLB_BUDGET, Reg.slbBase]; omega)
  apply KeepsVin.slabRegs
  exact convs.withRegs rfl

-- Restarts and rails

theorem KeepsVin.idled (d : Dev) (c : Tab Cluster) (m : StreamSt) (q : List DepReq) (h : List HandPkt) (j : Jobs) :
    KeepsVin o { s with dev := d, clusters := c, strm := m, reqs := q, hands := h, jobs := j } := same.withRegs rfl

theorem KeepsVin.withdraw (x : RestartSt) (fold : Bool) : KeepsVin o (s.withdraw x fold) := by
  unfold State.withdraw
  extract_lets back reset ended dropped dev jobs strm idle
  have h₁ : KeepsVin o back := KeepsBits.refRestored (KeepsBits.foldl same fun _ _ _ same => KeepsVin.switchBack same _) fun _ => by decide
  have h₂ : KeepsVin o reset := .ite (fun _ => h₁) fun _ => KeepsVin.resetRegions h₁
  have h₃ : KeepsVin o ended :=
    (KeepsVin.stopCairn (KeepsBits.foldl h₂ fun _ _ _ same => KeepsVin.endRing same ..)).frame (State.resetSync_frame _)
  have h₄ : KeepsVin o dropped := KeepsBits.dropChecks h₃ (by simp only [Reg.GLB_VIN]; omega) _
  have h₅ : KeepsVin o idle := KeepsVin.idled h₄ _ _ _ _ _ _
  exact (KeepsVin.slabPools (h₅.foldl fun _ _ _ same => same.frame (State.raiseEpoch_frame ..)) true).frame (State.dropWaves_frame _)

theorem KeepsVin.beginRestart (kind : Nat) (planned supply : Bool) (upd : RestartSt → RestartSt) :
    KeepsVin o (s.beginRestart kind planned supply upd) := by
  unfold State.beginRestart
  extract_lets x fold counted noted
  have counts : KeepsVin o counted := KeepsVin.count same 0 32 1 (by decide)
  have notes : KeepsVin o noted := KeepsBits.ite (fun _ => same) fun _ => KeepsVin.post counts ..
  apply KeepsVin.withdraw
  exact notes.withRegs rfl

end

end Sys2Proof.Machine
end

section
/-! SUPPORT. The rails fall, and a slab goes dark, while the standby input feeds the always-on domain (R156, R413 to R415, R441). -/

namespace Sys2Proof.Machine

-- In sequence, so that the stacks of their threads do not add up.
set_option Elab.async false

variable {A : Nat → Nat → Prop} {o s t u : State}

theorem State.feedCheck_of_standby (backup : s.dev.backup = false) : s.feedCheck = s := if_neg (by rw [backup, Bool.false_and]; decide)

-- The rails

/-- The links and slabs off, before the references switch back. -/
def State.slabsOff (s : State) : State := (List.range 12).foldl State.slabOff ((depotLinks.foldl State.linkOff s.stopCairn).setLocal false)

theorem SameCourse.slabsOff (same : SameCourse o s) : SameCourse o s.slabsOff := by
  have links : SameCourse o (depotLinks.foldl State.linkOff s.stopCairn) := SameCourse.foldl same.stopCairn fun _ l same => same.linkOff l
  exact (links.frame (State.setLocal_frame ..)).foldl fun _ sl same => same.frame (State.slabOff_frame ..)

theorem State.slabsOff_dev (s : State) : s.slabsOff.dev = s.dev := by
  have links : Frame [.attic, .regs, .links, .jobs, .reqs, .hands, .resil, .out] s (depotLinks.foldl State.linkOff s.stopCairn) :=
    .foldl ((State.stopCairn_frame s).mono (by decide)) fun _ l same => same.trans (State.linkOff_frame ..)
  have slabs (u : State) : Frame [.clk, .regs, .larder, .larErr, .cellar, .celErr, .conflicts, .clusters, .regions, .slabs, .links, .strm] u
      ((List.range 12).foldl State.slabOff u) := .foldl (.refl _) fun _ sl same => same.trans (State.slabOff_frame ..)
  exact ((slabs _).part .dev (by decide)).trans (((State.setLocal_frame ..).part .dev (by decide)).trans (links.part .dev (by decide)))

theorem KeepsVin.slabsOff (same : KeepsVin o s) : KeepsVin o s.slabsOff := by
  have links : KeepsVin o (depotLinks.foldl State.linkOff s.stopCairn) := KeepsBits.foldl (KeepsVin.stopCairn same) fun _ l listed same =>
    KeepsVin.linkOff same (List.mem_range.1 listed)
  exact KeepsBits.foldl (KeepsVin.setLocal links false) fun _ sl _ same => KeepsVin.slabOff same sl

/-- The device in AON without rails. -/
def State.railless (u : State) : State := { u with dev := { u.dev with base := .aon, pGood := false } }

theorem State.railless_dev (u : State) : u.railless.dev = { u.dev with base := .aon, pGood := false } := rfl
theorem State.railless_attic (u : State) : u.railless.attic = u.attic := rfl
theorem State.railless_resil (u : State) : u.railless.resil = u.resil := rfl
theorem State.railless_regs (u : State) : u.railless.regs = u.regs := rfl

theorem State.dropRails_eq (s : State) : s.dropRails = s.slabsOff.railless.refRestored.feedCheck := by
  unfold State.dropRails State.slabsOff
  rfl

theorem State.fallen_dev (s : State) : s.slabsOff.railless.refRestored.dev = { s.dev with base := .aon, pGood := false } := by
  rw [← State.slabsOff_dev s, ← State.railless_dev]
  exact (State.refRestored_frame _).part .dev (by decide)

theorem State.dropRails_of_standby (backup : s.dev.backup = false) : s.dropRails = s.slabsOff.railless.refRestored := by
  rw [State.dropRails_eq]
  refine State.feedCheck_of_standby ?_
  rw [State.fallen_dev]
  exact backup

theorem State.dropRails_dev (backup : s.dev.backup = false) : s.dropRails.dev = { s.dev with base := .aon, pGood := false } := by
  rw [State.dropRails_of_standby backup, State.fallen_dev]

theorem State.dropRails_devFields (backup : s.dev.backup = false) : s.dropRails.dev.base = .aon ∧ s.dropRails.dev.pGood = false
    ∧ s.dropRails.dev.v48 = s.dev.v48 ∧ s.dropRails.dev.v48Held = s.dev.v48Held ∧ s.dropRails.dev.outageFrom = s.dev.outageFrom
    ∧ s.dropRails.dev.next = s.dev.next ∧ s.dropRails.dev.retried = s.dev.retried := by
  rw [State.dropRails_dev backup]
  exact ⟨rfl, rfl, rfl, rfl, rfl, rfl, rfl⟩

/-- What the fall of the rails keeps of the attic and of a restart. -/
theorem State.dropRails_keeps (backup : s.dev.backup = false) : s.dropRails.attic.bootcfg = s.attic.bootcfg
    ∧ s.dropRails.resil.restart.isSome = s.resil.restart.isSome := by
  have slabs := SameCourse.slabsOff (.refl s)
  rw [State.dropRails_of_standby backup, (SameCourse.refRestored (.refl s.slabsOff.railless)).bootcfg,
    (SameCourse.refRestored (.refl s.slabsOff.railless)).restart, State.railless_attic, State.railless_resil]
  exact ⟨slabs.bootcfg, slabs.restart⟩

theorem KeepsVin.dropRails (same : KeepsVin o s) (backup : s.dev.backup = false) : KeepsVin o s.dropRails := by
  have falls : KeepsVin o s.slabsOff.railless := (KeepsVin.slabsOff same).withRegs (State.railless_regs _)
  rw [State.dropRails_of_standby backup]
  exact falls.refRestored fun _ => by decide

-- The start of a restart

theorem State.refRestored_counter (s : State) : s.refRestored.clk.counter = s.clk.counter := by
  unfold State.refRestored
  split
  · split
    · rfl
    · extract_lets clk noted posted
      have post : posted.clk = noted.clk := (State.post_frame noted ..).part .clk (by decide)
      have posts : posted.clk.counter = s.clk.counter := (congrArg Clock.counter post).trans rfl
      split
      · exact posts
      · exact posts
  · rfl

/-- From o to s neither the time nor anything of the device but its base state changes. -/
def SameDevice (o s : State) : Prop := ({ s.dev with base := .off } : Dev) = { o.dev with base := .off } ∧ s.now = o.now

section
variable (same : SameDevice o s)
include same

theorem SameDevice.now : s.now = o.now := same.2

theorem SameDevice.backup : s.dev.backup = o.dev.backup := by
  have field := congrArg Dev.backup same.1
  exact field

theorem SameDevice.v48 : s.dev.v48 = o.dev.v48 := by
  have field := congrArg Dev.v48 same.1
  exact field

theorem SameDevice.v48Held : s.dev.v48Held = o.dev.v48Held := by
  have field := congrArg Dev.v48Held same.1
  exact field


theorem SameDevice.trans (next : SameDevice s t) : SameDevice o t := ⟨next.1.trans same.1, next.2.trans same.2⟩

theorem SameDevice.of_parts (dev : t.dev = s.dev) (counter : t.clk.counter = s.clk.counter) : SameDevice o t :=
  ⟨by rw [dev]; exact same.1, counter.trans same.2⟩

theorem SameDevice.frame {P : List Part} (frame : Frame P s t) (dev : .dev ∉ P := by decide) (clk : .clk ∉ P := by decide) : SameDevice o t :=
  same.of_parts (frame.part .dev dev) (congrArg Clock.counter (frame.part .clk clk))

theorem SameDevice.foldl {α : Type} {f : State → α → State} {l : List α} (each : ∀ u x, SameDevice o u → SameDevice o (f u x)) :
    SameDevice o (l.foldl f s) := foldl_inv (SameDevice o) f (fun u x _ => each u x) same

theorem SameDevice.idled (b : DevBase) (c : Tab Cluster) (m : StreamSt) (q : List DepReq) (h : List HandPkt) (j : Jobs) :
    SameDevice o { s with dev := { s.dev with base := b }, clusters := c, strm := m, reqs := q, hands := h, jobs := j } := same

theorem SameDevice.withRestart (x : Option RestartSt) : SameDevice o { s with resil := { s.resil with restart := x } } := same

theorem SameDevice.switchBack (r : Nat) : SameDevice o (s.switchBack r) :=
  same.of_parts ((State.switchBack_frame s r).part .dev (by decide)) ((congrArg Clock.counter (State.switchBack_clk s r)).trans rfl)

theorem SameDevice.refRestored : SameDevice o s.refRestored :=
  same.of_parts ((State.refRestored_frame s).part .dev (by decide)) (State.refRestored_counter s)

end

theorem SameDevice.refl (s : State) : SameDevice s s := ⟨rfl, rfl⟩

theorem SameDevice.ite {c : Prop} [Decidable c] (yes : c → SameDevice o t) (no : ¬ c → SameDevice o u) :
    SameDevice o (if c then t else u) := by
  split
  next h => exact yes h
  next h => exact no h

section
variable (same : SameDevice o s)
include same

theorem SameDevice.withdraw (x : RestartSt) (fold : Bool) : SameDevice o (s.withdraw x fold) := by
  unfold State.withdraw
  extract_lets back reset ended dropped dev jobs strm idle
  have h₁ : SameDevice o back := (same.foldl fun _ r same => same.switchBack r).refRestored
  have h₂ : SameDevice o reset := .ite (fun _ => h₁) fun _ => h₁.frame (State.resetRegions_frame _)
  have h₃ : SameDevice o ended :=
    ((h₂.foldl fun _ _ same => same.frame (State.endRing_frame ..)).frame (State.stopCairn_frame _)).frame (State.resetSync_frame _)
  have h₄ : SameDevice o dropped := h₃.frame (State.dropChecks_frame ..)
  have h₅ : SameDevice o idle := h₄.idled _ _ _ _ _ _
  exact ((h₅.foldl fun _ _ same => same.frame (State.raiseEpoch_frame ..)).frame (State.slabPools_frame ..)).frame (State.dropWaves_frame _)

theorem SameDevice.beginRestart (kind : Nat) (planned supply : Bool) (upd : RestartSt → RestartSt) :
    SameDevice o (s.beginRestart kind planned supply upd) := by
  unfold State.beginRestart
  extract_lets x fold counted noted
  have counts : SameDevice o counted := same.frame (State.count_frame ..)
  have notes : SameDevice o noted := .ite (fun _ => same) fun _ => counts.frame (State.post_frame ..)
  apply SameDevice.withdraw
  exact notes.withRestart _

end

end Sys2Proof.Machine
end

section
/-! CLAIM. O55, first part: the inputs, the VCORE phases of a region, shorts and suspect bumps (R396 to R401, R413, R414, R448). -/

namespace Sys2Proof.Machine

-- In sequence, so that the stacks of their threads do not add up.
set_option Elab.async false

variable {s : State} {v : BitVec 16} {r : RegionNo}

-- The 48 V input

theorem execSupplyLow_inRange (base : s.dev.base ≠ .off) (low : 4000 ≤ v.toNat) (high : v.toNat ≤ 6000) :
    exec (.supplyLow v) s = .next ({ s with dev := { s.dev with v48 := true } }.setV48 v) := by
  have ok : (decide (4000 ≤ v.toNat) && decide (v.toNat ≤ 6000)) = true := by simp [low, high]
  change execSupplyLow v s = _
  unfold execSupplyLow
  rw [if_neg (by rintro (off | less | more); exacts [base off, by omega, by omega])]
  simp only [ok, Bool.true_and, Bool.true_or, if_true]

theorem State.inBringup_of_next {t : State} (next : t.dev.next = s.dev.next) : t.inBringup = s.inBringup := by
  rw [State.inBringup, State.inBringup, next]

theorem execSupplyLow_posts (base : s.dev.base ≠ .off) (low : 3800 ≤ v.toNat) (high : v.toNat ≤ 6300) (out : v.toNat < 4000 ∨ 6000 < v.toNat)
    (was : s.dev.v48 = true) (service : s.inBringup = false) :
    exec (.supplyLow v) s
      = .next (({ s with dev := { s.dev with v48 := false, v48Held := false } }.setV48 v).post 0x0101 srcModule [(0, v.toNat)]) := by
  have bad : (decide (4000 ≤ v.toNat) && decide (v.toNat ≤ 6000)) = false := by simp; omega
  change execSupplyLow v s = _
  unfold execSupplyLow
  rw [if_neg (by rintro (off | less | more); exacts [base off, by omega, by omega])]
  simp only [bad, Bool.false_and, was, Bool.not_true, Bool.or_false, Bool.false_eq_true, if_false]
  rw [if_neg]
  refine Bool.eq_false_iff.mp ((State.inBringup_of_next ?_).trans service)
  exact (congrArg Dev.next ((State.post_frame ..).part .dev (by decide))).trans rfl

/-- What a loss of the 48 V input measures is free, outside 38 V to 63 V. -/
def lostVolts (above : Bool) (s : State) : Nat :=
  if above then 6301 + Config.measure s.freeCtr % 59235 else Config.measure s.freeCtr % 3800

theorem lostVolts_outside (above : Bool) (s : State) : if above then 6300 < (BitVec.ofNat 16 (lostVolts above s)).toNat
    else (BitVec.ofNat 16 (lostVolts above s)).toNat < 3800 := by
  rw [BitVec.toNat_ofNat]
  cases above with
  | true =>
    have : lostVolts true s = 6301 + Config.measure s.freeCtr % 59235 := rfl
    have := Nat.mod_lt (Config.measure s.freeCtr) (show 0 < 59235 by decide)
    simp only [if_true]
    omega
  | false =>
    have : lostVolts false s = Config.measure s.freeCtr % 3800 := rfl
    have := Nat.mod_lt (Config.measure s.freeCtr) (show 0 < 3800 by decide)
    simp only [Bool.false_eq_true, if_false]
    omega

/-- The input is lost and read. -/
def State.inputLost (s : State) (above : Bool) : State :=
  { s.useFree with dev := { s.dev with v48 := false, v48Held := false } }.setV48 (BitVec.ofNat 16 (lostVolts above s))

/-- The time of an outage is noted, and bring-up waits for its end. -/
def State.outageNoted (b : State) : State := { b with dev := { b.dev with outageFrom := some b.now, next := none } }

theorem State.outageNoted_backup (b : State) : b.outageNoted.dev.backup = b.dev.backup := rfl
theorem State.outageNoted_v48 (b : State) : b.outageNoted.dev.v48 = b.dev.v48 := rfl
theorem State.outageNoted_v48Held (b : State) : b.outageNoted.dev.v48Held = b.dev.v48Held := rfl
theorem State.outageNoted_outageFrom (b : State) : b.outageNoted.dev.outageFrom = some b.now := rfl
theorem State.outageNoted_next (b : State) : b.outageNoted.dev.next = none := rfl
theorem State.outageNoted_resil (b : State) : b.outageNoted.resil = b.resil := rfl
theorem State.outageNoted_regs (b : State) : b.outageNoted.regs = b.regs := rfl

theorem State.dropRails_outageNoted (b : State) :
    State.dropRails { b with dev := { b.dev with outageFrom := some b.now, next := none } } = b.outageNoted.dropRails := rfl

/-- The rails fall in service: a restart has begun, and the time of the outage is noted. -/
def State.outage (s : State) : State := (s.beginRestart 0 false true id).outageNoted.dropRails

theorem execSupplyLost_inService {above : Bool} (rails : s.railsOn = true) : exec (.supplyLost above) s
    = .next (((s.inputLost above).post 0x0102 srcModule [(0, b2n above)]).alert alSupply).outage := by
  have base : s.dev.base ≠ .off := fun off => by
    simp [State.railsOn, State.devState, off] at rails
  change execSupplyLost above s = _
  unfold execSupplyLost
  extract_lets v dev lost noted alerted begun
  have reads : noted = s.inputLost above := if_neg base
  have begins : begun = ((noted.post 0x0102 srcModule [(0, b2n above)]).alert alSupply).beginRestart 0 false true id := rfl
  have on : (s.inputLost above).railsOn = true := rails
  rw [State.outage, ← reads, ← begins, ← State.dropRails_outageNoted]
  clear_value begun
  exact if_pos (reads ▸ on)

theorem State.begun_backup (backup : s.dev.backup = false) : (s.beginRestart 0 false true id).outageNoted.dev.backup = false := by
  rw [State.outageNoted_backup, (SameDevice.beginRestart (.refl s) 0 false true id).backup, backup]

theorem State.outage_dev (s : State) (backup : s.dev.backup = false) : s.outage.dev.base = .aon ∧ s.outage.dev.v48 = s.dev.v48
    ∧ s.outage.dev.v48Held = s.dev.v48Held ∧ s.outage.dev.outageFrom = some s.now ∧ s.outage.dev.pGood = false ∧ s.outage.dev.next = none := by
  have same := SameDevice.beginRestart (.refl s) 0 false true id
  obtain ⟨base, good, v48, held, from_, next, -⟩ := State.dropRails_devFields (State.begun_backup backup)
  rw [State.outageNoted_v48, same.v48] at v48
  rw [State.outageNoted_v48Held, same.v48Held] at held
  rw [State.outageNoted_outageFrom, same.now] at from_
  rw [State.outageNoted_next] at next
  exact ⟨base, v48, held, from_, good, next⟩

theorem State.outage_restarts (s : State) (backup : s.dev.backup = false) : s.outage.resil.restart.isSome = true := by
  rw [State.outage, (State.dropRails_keeps (State.begun_backup backup)).2, State.outageNoted_resil]
  exact State.restarting_beginRestart ..

theorem KeepsVin.outage {o : State} (same : KeepsVin o s) (backup : s.dev.backup = false) : KeepsVin o s.outage :=
  KeepsVin.dropRails ((KeepsVin.beginRestart same 0 false true id).withRegs (State.outageNoted_regs _)) (State.begun_backup backup)

theorem execSupplyLost_falls {above : Bool} (canon : Canon s) (rails : s.railsOn = true) (backup : s.dev.backup = false) :
    ∃ t, exec (.supplyLost above) s = .next t ∧ t.dev.base = .aon ∧ t.dev.v48 = false ∧ t.dev.v48Held = false ∧ t.dev.outageFrom = some s.now
      ∧ t.resil.restart.isSome = true ∧ t.dev.pGood = false ∧ t.dev.next = none
      ∧ (if above then 6300 < t.regF Reg.GLB_VIN 0 16 else t.regF Reg.GLB_VIN 0 16 < 3800) := by
  have posted := State.post_frame (s.inputLost above) 0x0102 srcModule [(0, b2n above)]
  have dev : ((s.inputLost above).post 0x0102 srcModule [(0, b2n above)]).dev = (s.inputLost above).dev := posted.part .dev (by decide)
  have clk : ((s.inputLost above).post 0x0102 srcModule [(0, b2n above)]).clk = (s.inputLost above).clk := posted.part .clk (by decide)
  have standby : (((s.inputLost above).post 0x0102 srcModule [(0, b2n above)]).alert alSupply).dev.backup = false :=
    (congrArg Dev.backup dev).trans backup
  obtain ⟨base, v48, held, from_, good, next⟩ := State.outage_dev _ standby
  have wf : Tab.wf none (s.inputLost above).regs = true :=
    wf_setRegF (s := { s.useFree with dev := { s.dev with v48 := false, v48Held := false } }) canon.regs ..
  have vin : KeepsVin (s.inputLost above) (((s.inputLost above).post 0x0102 srcModule [(0, b2n above)]).alert alSupply).outage :=
    KeepsVin.outage ((KeepsVin.post (.refl wf) ..).frame (State.alert_frame ..)) standby
  have read : (((s.inputLost above).post 0x0102 srcModule [(0, b2n above)]).alert alSupply).outage.regF Reg.GLB_VIN 0 16
      = (BitVec.ofNat 16 (lostVolts above s)).toNat :=
    (vin.regF fun _ _ _ => rfl).trans ((regF_setRegF_same (s := { s.useFree with dev := { s.dev with v48 := false, v48Held := false } })
      canon.regs Reg.GLB_VIN (by decide)).trans (Nat.mod_eq_of_lt (BitVec.isLt _)))
  refine ⟨_, execSupplyLost_inService rails, base, v48.trans (congrArg Dev.v48 dev), held.trans (congrArg Dev.v48Held dev),
    from_.trans (congrArg (fun c => some (Clock.counter c)) clk), State.outage_restarts _ standby, good, next, ?_⟩
  rw [read]
  exact lostVolts_outside above s

theorem execSupplyLost_noted {above : Bool} (rails : s.railsOn = false) (early : s.dev.base ≠ .aon ∨ s.inBringup = false) :
    let lost := { s with dev := { s.dev with v48 := false, v48Held := false } }
    (s.dev.base = .off → exec (.supplyLost above) s = .next lost)
    ∧ (s.dev.base ≠ .off → ∃ u : BitVec 16, (if above then 6300 < u.toNat else u.toNat < 3800)
        ∧ exec (.supplyLost above) s = .next ({ lost with freeCtr := s.freeCtr + 1 }.setV48 u)) := by
  intro lost
  refine ⟨fun base => ?_, fun base => ⟨_, lostVolts_outside above s, ?_⟩⟩ <;>
    change execSupplyLost above s = _ <;> unfold execSupplyLost <;> extract_lets v dev gone noted
  · have reads : noted = lost := if_pos base
    rw [reads]
    refine (if_neg fun on => ?_).trans (if_neg fun both => ?_)
    · exact absurd (rails.symm.trans on) (by decide)
    · exact absurd (both.1.symm.trans base) (by decide)
  · have reads : noted = s.inputLost above := if_neg base
    rw [reads]
    refine (if_neg fun on => ?_).trans (if_neg fun both => ?_)
    · exact absurd (rails.symm.trans on) (by decide)
    · obtain aon | late := early
      · exact aon both.1
      · exact absurd (late.symm.trans both.2) (by decide)

theorem execSupplyRestored_returns (base : s.dev.base ≠ .off) (low : 4000 ≤ v.toNat) (high : v.toNat ≤ 6000) :
    let on := { s with dev := { s.dev with v48 := true, v48Held := true } }.setV48 v
    (s.dev.outageFrom = none → exec (.supplyRestored v) s = .next on)
    ∧ ∀ x, s.dev.outageFrom = some x →
        let t := on.post 0x0103 srcModule [(0, (s.now - x).toNat)]
        exec (.supplyRestored v) s = .next { t.newBringup with dev := { t.dev with outageFrom := none, next := some .railsUp } } := by
  intro on
  refine ⟨fun none => ?_, fun x from_ => ?_⟩ <;> change execSupplyRestored v s = _ <;> unfold execSupplyRestored <;> rw [if_neg (by omega)] <;>
    refine (if_neg base).trans ?_ <;> extract_lets set <;> split
  · next x from_ => exact absurd (none.symm.trans from_) (by simp)
  · rfl
  · next y from' =>
    obtain rfl : x = y := Option.some.inj (from_.symm.trans from')
    rfl
  · next none => exact absurd (from_.symm.trans none) (by simp)

-- The standby input

theorem State.backupFeed_setV12 (tables : Tab.wf none s.regs = true) (v : BitVec 16) : (s.setV12 v).backupFeed = s.backupFeed := by
  have read (sl : Nat) : (s.setV12 v).reg (Reg.SLB_CONV sl) = s.reg (Reg.SLB_CONV sl) :=
    (reg_setRegF tables ..).trans (if_neg (by simp only [Reg.SLB_CONV, Reg.slbBase, Reg.GLB_VIN]; omega))
  simp only [State.backupFeed, read]

theorem execStandbyLost_falls (canon : Canon s) (base : s.dev.base ≠ .off) :
    let t := { s with dev := { s.dev with v12 := decide (1140 ≤ v.toNat) && decide (v.toNat ≤ 1260) } }.setV12 v
    (1100 ≤ v.toNat ∨ s.dev.backup = true → exec (.standbyLost v) s = .next t)
    ∧ (v.toNat < 1100 → s.dev.backup = false → s.backupFeed = false → exec (.standbyLost v) s = .next t.deviceOff)
    ∧ (v.toNat < 1100 → s.dev.backup = false → s.backupFeed = true →
        exec (.standbyLost v) s
          = .next (({ t with dev := { t.dev with backup := true } }.post 0x0104 srcModule [(0, v.toNat)]).alert alStandby)) := by
  intro t
  have feed : t.backupFeed = s.backupFeed :=
    State.backupFeed_setV12 (s := { s with dev := { s.dev with v12 := decide (1140 ≤ v.toNat) && decide (v.toNat ≤ 1260) } }) canon.regs v
  have runs : exec (.standbyLost v) s = if 1100 ≤ v.toNat ∨ s.dev.backup = true then .next t
      else if t.backupFeed = true then .next (({ t with dev := { t.dev with backup := true } }.post 0x0104 srcModule [(0, v.toNat)]).alert alStandby)
      else .next t.deviceOff := if_neg base
  rw [runs, feed]
  refine ⟨fun holds => if_pos holds, fun low alone dead => (if_neg ?_).trans (if_neg (by rw [dead]; decide)),
    fun low alone runs => (if_neg ?_).trans (if_pos runs)⟩ <;>
    · rw [alone]
      rintro (high | feeds)
      · omega
      · exact absurd feeds (by decide)

theorem execStandbyRestored_returns (low : 1140 ≤ v.toNat) (high : v.toNat ≤ 1260) :
    let on := { s with dev := { s.dev with v12 := true } }
    (s.dev.base = .off →
      exec (.standbyRestored v) s = .next ({ on with dev := { on.dev with base := .aon, next := some .aonUp } }.setV12 v))
    ∧ (s.dev.base ≠ .off → s.dev.backup = false → exec (.standbyRestored v) s = .next (on.setV12 v))
    ∧ (s.dev.base ≠ .off → s.dev.backup = true → exec (.standbyRestored v) s
        = .next ({ on.setV12 v with dev := { on.dev with backup := false } }.post 0x0105 srcModule [])) := by
  intro on
  have runs : exec (.standbyRestored v) s = if s.dev.base = .off then .next ({ on with dev := { on.dev with base := .aon, next := some .aonUp } }.setV12 v)
      else if s.dev.backup = true then .next ({ on.setV12 v with dev := { on.dev with backup := false } }.post 0x0105 srcModule [])
      else .next (on.setV12 v) := if_neg (by omega)
  rw [runs]
  exact ⟨fun off => if_pos off, fun on alone => (if_neg on).trans (if_neg (by rw [alone]; decide)), fun on fed => (if_neg on).trans (if_pos fed)⟩

-- Phases, shorts and cracks of a region

theorem State.post_retired (s : State) (code : Nat) (source : BitVec 16) (data : List (Nat × Nat)) :
    (s.post code source data).attic.retired = s.attic.retired := by
  have logs (time : DWord) (data : BitVec 128) : (s.logEvent code source time data).attic.retired = s.attic.retired := by
    unfold State.logEvent
    split <;> rfl
  unfold State.post State.postAt
  extract_lets e logged st
  split
  · split
    · exact logs ..
    · split
      · exact logs ..
      · exact logs ..
  · split
    · exact logs ..
    · exact logs ..

end Sys2Proof.Machine
end

section
/-! CLAIM. O55, second part: phases, shorts and bumps of a region, converters, and the whole (R399 to R401, R415). -/

namespace Sys2Proof.Machine

-- In sequence, so that the stacks of their threads do not add up.
set_option Elab.async false

variable {o s t u : State} {r : RegionNo}

-- Regions

theorem execPhaseLost_limits {ph : BitVec 2} (up : s.railsUp = true) (on : (s.regF (Reg.RGN_PWR r) 4 4).testBit ph.toNat = true) :
    let m := s.regF (Reg.RGN_PWR r) 4 4
    let left := ones 4 (BitVec.ofNat 4 (m - 2 ^ ph.toNat))
    let lose (x : Nat) : State := { s with attic := { s.attic with phases := Tab.set 0 s.attic.phases r x } }
    let lost := ((lose (Tab.get 0 s.attic.phases r ||| 2 ^ ph.toNat)).setPhases r (m - 2 ^ ph.toNat)).post 0x0408 (srcRegion r)
      [(0, ph.toNat), (1, left)]
    (3 ≤ left → exec (.phaseLost r ph) s = .next lost)
    ∧ (left = 2 → exec (.phaseLost r ph) s = .next (lost.preventCause r 4))
    ∧ (left = 1 → exec (.phaseLost r ph) s = .next ((lost.openSwitches r).forceCause r 4))
    ∧ (left = 0 → exec (.phaseLost r ph) s
        = .next ((((lost.openSwitches r).forceCause r 4).loseDomain r false).loseDomain r true)) := by
  intro m left lose lost
  have runs : exec (.phaseLost r ph) s = if 3 ≤ left then .next lost else if left = 2 then .next (lost.preventCause r 4)
      else .next (if left = 0 then (((lost.openSwitches r).forceCause r 4).loseDomain r false).loseDomain r true
        else (lost.openSwitches r).forceCause r 4) := if_neg (by rw [up, on]; decide)
  rw [runs]
  refine ⟨fun three => if_pos three, fun two => ?_, fun one => ?_, fun none => ?_⟩
  · rw [if_neg (by omega), if_pos two]
  · rw [if_neg (by omega), if_neg (by omega), if_neg (by omega)]
  · rw [if_neg (by omega), if_neg (by omega), if_pos none]

theorem execRegionShort_opens {ns : Word} (up : s.railsUp = true) :
    let short := ((s.openSwitches r).setRegF (Reg.RGN_PWR r) 8 1 1).post 0x0409 (srcRegion r) [(0, ns.toNat)]
    let t := short.forceCause r 5
    exec (.regionShort r ns false) s = .next t
    ∧ exec (.regionShort r ns true) s
        = .next ((({ t with attic := { t.attic with phases := Tab.set 0 t.attic.phases r 15 } }.setPhases r 0).loseDomain r
            false).loseDomain r true) :=
  ⟨if_neg (by rw [up]; decide), if_neg (by rw [up]; decide)⟩

theorem State.isRetired_of_parts (fuses : t.fuses = s.fuses) (retired : t.attic.retired = s.attic.retired) (q : Nat) :
    t.isRetired q = s.isRetired q := by
  rw [State.isRetired, State.isRetired, fuses, retired]

theorem execCrackSuspect_first {g : BitVec 4} {ex : Word} (up : s.railsUp = true) (high : 8000 < ex.toNat) :
    let w := Tab.get 0 s.attic.bump r
    let bumped := setFld (setFld (setFld w 0 4 g.toNat) 4 1 1) 8 8 (min 255 (ex.toNat / 1000))
    let crack := (({ s with attic := { s.attic with bump := Tab.set 0 s.attic.bump r bumped } }.setIlim r (s.phasesIn r))).post
      0x0407 (srcRegion r) [(0, g.toNat), (4, ex.toNat)]
    fld w 4 1 = 0 → exec (.crackSuspect r g ex) s = .next (if s.isRetired r then crack else crack.report (.precursor r 11)) := by
  intro w bumped crack first
  have limited := State.setIlim_frame { s with attic := { s.attic with bump := Tab.set 0 s.attic.bump r bumped } } r (s.phasesIn r)
  have retired : crack.isRetired r = s.isRetired r := State.isRetired_of_parts
    (((State.post_frame ..).part .fuses (by decide)).trans (limited.part .fuses (by decide)))
    ((State.post_retired ..).trans ((congrArg Attic.retired (limited.part .attic (by decide))).trans rfl)) r
  have runs : exec (.crackSuspect r g ex) s = .next (if crack.isRetired r then crack else crack.report (.precursor r 11)) := by
    refine (if_neg ?_).trans (if_neg ?_)
    · rw [up]
      simp only [Bool.not_true, Bool.false_or, decide_eq_true_eq]
      omega
    · rw [first]
      decide
  rw [runs, retired]

theorem execCrackSuspect_second {g : BitVec 4} {ex : Word} (up : s.railsUp = true) (high : 8000 < ex.toNat)
    (second : fld (Tab.get 0 s.attic.bump r) 4 1 = 1) (other : fld (Tab.get 0 s.attic.bump r) 0 4 ≠ g.toNat)
    (new : (r.val, g.toNat) ∉ s.attic.bumpGroups) : exec (.crackSuspect r g ex) s
      = .next { s with attic := { s.attic with bumpGroups := s.attic.bumpGroups ++ [(r.val, g.toNat)] } } := by
  refine (if_neg ?_).trans ((if_pos second).trans (if_neg ?_))
  · rw [up]
    simp only [Bool.not_true, Bool.false_or, decide_eq_true_eq]
    omega
  · rintro (same | listed)
    · exact other same
    · exact new (by simpa using listed)

-- What a slab that goes dark keeps

theorem SameCourse.withJobs (same : SameCourse o s) (j : Jobs) : SameCourse o { s with jobs := j } := same

theorem SameCourse.slabFails (same : SameCourse o s) (sl : Nat) : SameCourse o (s.slabFails sl) := by
  unfold State.slabFails
  refine (same.foldl fun u n same => ?_).frame (State.dropWaves_frame _)
  split
  · exact same
  · next x _ =>
    extract_lets ty ended jobs cut freed swept
    refine .ite (fun _ => ?_) fun _ => same
    have ends : SameCourse o ended := same.frame (State.finish_frame ..)
    have cuts : SameCourse o cut := (ends.withReqs _).withJobs jobs
    have frees : SameCourse o freed := cuts.frame (State.dropCopy_frame ..)
    have sweeps : SameCourse o swept := .ite (fun _ => frees.foldl fun _ _ same => Flow.sameCourse.orStuck same (.sweepEnd same _)) fun _ => frees
    exact .ite (fun _ => sweeps.endStep) fun _ => sweeps

/-- The register of the converter of slab sl. -/
abbrev ConvBits (sl : Nat) : Nat → Nat → Prop := fun a i => a = Reg.SLB_CONV sl ∧ i = 8

theorem KeepsBits.convRuns {sl : Nat} (same : KeepsBits (ConvBits sl) s t) : t.convRuns sl = s.convRuns sl := same.bit _ _ ⟨rfl, rfl⟩

theorem KeepsBits.slabRegs_conv {sl : Nat} (few : sl < 12) (same : KeepsBits (ConvBits sl) o s) : KeepsBits (ConvBits sl) o (s.slabRegs sl) := by
  unfold State.slabRegs
  extract_lets regions noted slab
  have cleared : KeepsBits (ConvBits sl) o regions := same.foldl fun _ r _ same =>
    same.clearRegs _ _ fun a i named => by simp only [named.1, Reg.SLB_CONV, Reg.slbBase, Reg.rgnBase]; omega
  have notes : KeepsBits (ConvBits sl) o noted := cleared.withRegs rfl
  have slabs : KeepsBits (ConvBits sl) o slab :=
    (notes.clearRegs _ _ fun a i named => by simp only [named.1, Reg.SLB_CONV, Reg.slbBase]; omega).clearRegs _ _ fun a i named => by
      simp only [named.1, Reg.SLB_CONV, Reg.slbBase]; omega
  refine slabs.foldl fun _ f _ same => (same.clearRegs _ _ fun a i named => ?_).frame (State.updLnk_frame ..)
  have := lnkBase_high (sl * 4 + f)
  simp only [named.1, Reg.SLB_CONV, Reg.slbBase]
  omega

theorem State.slabOff_convRuns {sl : Nat} (few : sl < 12) (canon : Canon s) : (s.slabOff sl).convRuns sl = false := by
  unfold State.slabOff
  extract_lets regions conv slab mine strm
  have wf : Tab.wf none regions.regs = true := by
    have canon' : Canon regions := foldl_inv Canon _ (fun u r _ canon => (State.setRegF_frame ..).canon ((State.setRegF_frame ..).canon
      ((State.setRegF_frame ..).canon ((State.railsOff_frame ..).canon canon)))) canon
    exact canon'.regs
  have stops : (regions.setRegF (Reg.SLB_CONV sl) 8 1 0).convRuns sl = false := by
    rw [State.convRuns, reg_setRegF wf, if_pos rfl, tst_setFld]
    rfl
  have convs : KeepsBits (ConvBits sl) (regions.setRegF (Reg.SLB_CONV sl) 8 1 0) conv :=
    ((KeepsBits.refl (wf_setRegF wf ..)).setRegF 0 fun i _ high named => by have := named.2; omega).setReg 0 fun i named => by
      have := named.1
      simp only [Reg.SLB_CONV, Reg.SLB_BUDGET, Reg.slbBase] at this
      omega
  refine (KeepsBits.convRuns (KeepsBits.slabRegs_conv few ?_)).trans stops
  exact convs.withRegs rfl

/-- Slab sl is dark, its converter does not run, and both stay so. -/
structure Darkened (sl : Nat) (s : State) : Prop where
  slabs : Tab.wf {} s.slabs = true
  regs : Tab.wf none s.regs = true
  dark : (s.slab sl).dark = true
  stopped : s.convRuns sl = false

theorem Darkened.keeps {sl : Nat} (dark : Darkened sl s) (slabs : t.slabs = s.slabs) (same : KeepsBits (ConvBits sl) s t) : Darkened sl t :=
  ⟨slabs ▸ dark.slabs, same.tables, by rw [State.slab, slabs]; exact dark.dark, same.convRuns.trans dark.stopped⟩

theorem State.convRuns_updSlab (s : State) (n : Nat) (f : SlabSt → SlabSt) (sl : Nat) : (s.updSlab n f).convRuns sl = s.convRuns sl := rfl

theorem State.darkened_of_stopped {sl : Nat} (canon : Canon u) (stopped : u.convRuns sl = false) :
    Darkened sl (u.updSlab sl fun x => { x with dark := true }) := by
  refine ⟨((State.updSlab_frame ..).canon canon).slabs, canon.regs, ?_, (State.convRuns_updSlab ..).trans stopped⟩
  rw [State.updSlab, slab_setSlab canon.slabs, if_pos rfl]

theorem Darkened.refRestored {sl : Nat} (dark : Darkened sl s) : Darkened sl s.refRestored :=
  dark.keeps ((State.refRestored_frame _).part .slabs (by decide)) <| (KeepsBits.refl dark.regs).refRestored fun i named => by
    have := named.1
    simp only [Reg.RNG_DROPS, Reg.rngBase, Reg.SLB_CONV, Reg.slbBase] at this
    omega

theorem Darkened.setLinkState {sl : Nat} (few : sl < 12) (dark : Darkened sl s) (l v : Nat) : Darkened sl (s.setLinkState l v) :=
  dark.keeps ((State.setLinkState_frame ..).part .slabs (by decide)) <| (KeepsBits.refl dark.regs).setRegF v fun i _ _ named => by
    have conv := named.1
    have low : sl < 12 := few
    have high := lnkBase_high l
    simp only [Reg.LNK_STATE, Reg.SLB_CONV, Reg.slbBase] at *
    omega

theorem Darkened.dropChecks {sl : Nat} (few : sl < 12) (dark : Darkened sl s) (p : Check → Bool) : Darkened sl (s.dropChecks p) :=
  dark.keeps ((State.dropChecks_frame ..).part .slabs (by decide)) <| (KeepsBits.refl dark.regs).dropChecks
    (fun a i named => by simp only [named.1, Reg.SLB_CONV, Reg.slbBase]; omega) p

/-- The device is degraded for good. -/
def State.degrade (u : State) : State :=
  { u with dev := { u.dev with degraded := true, base := if u.dev.base == DevBase.ready then DevBase.degraded else u.dev.base } }

theorem Darkened.degrade {sl : Nat} (dark : Darkened sl s) : Darkened sl s.degrade := dark.keeps rfl ((KeepsBits.refl dark.regs).withRegs rfl)

theorem Darkened.alert {sl : Nat} (dark : Darkened sl s) (cause : Nat) : Darkened sl (s.alert cause) :=
  dark.keeps rfl ((KeepsBits.refl dark.regs).withRegs rfl)

/-- A converter is remembered as lost (R415). -/
def State.buryConv (s : State) (sl : Nat) : State :=
  { s with attic := { s.attic with deadConvs := if s.attic.deadConvs.contains sl then s.attic.deadConvs else s.attic.deadConvs ++ [sl] } }

theorem State.mem_deadConvs_buryConv (s : State) (sl : Nat) : sl ∈ (s.buryConv sl).attic.deadConvs := by
  change sl ∈ if s.attic.deadConvs.contains sl then s.attic.deadConvs else s.attic.deadConvs ++ [sl]
  split
  next listed => exact List.contains_iff_mem.1 listed
  next => exact List.mem_append_right _ (List.mem_singleton.2 rfl)

/-- What fails with a slab: descriptors, cairns and links. -/
def State.slabLinksDown (s : State) (sl : Nat) : State :=
  (List.range 4).foldl (fun s f => if s.linkUp (sl * 4 + f) then s.linkDown (sl * 4 + f) 0 else s) (((s.slabFails sl).stopCairn).setLocal false)

theorem SameCourse.slabLinksDown (same : SameCourse o s) (sl : Nat) : SameCourse o (s.slabLinksDown sl) :=
  ((same.slabFails sl).stopCairn.frame (State.setLocal_frame ..)).foldl fun _ _ same => .ite (fun _ => same.linkDown ..) fun _ => same

theorem State.slabLinksDown_canon (canon : Canon s) (sl : Nat) : Canon (s.slabLinksDown sl) :=
  foldl_inv Canon _ (fun u f _ canon => by
    split
    · exact (State.linkDown_frame ..).canon canon
    · exact canon) ((State.setLocal_frame ..).canon ((State.stopCairn_frame _).canon ((State.slabFails_frame ..).canon canon)))

/-- A slab without its converter. -/
def State.slabDark (s : State) (sl : Nat) : State :=
  (List.range 4).foldl (fun s f => s.setLinkState (sl * 4 + f) lsDown) ((s.slabOff sl).updSlab sl fun x => { x with dark := true }).refRestored

theorem SameCourse.slabDark (same : SameCourse o s) (sl : Nat) : SameCourse o (s.slabDark sl) :=
  ((same.frame (State.slabOff_frame ..)).frame (State.updSlab_frame ..)).refRestored.foldl fun _ _ same => same.frame (State.setLinkState_frame ..)

theorem State.darkened_slabDark {sl : Nat} (few : sl < 12) (canon : Canon s) : Darkened sl (s.slabDark sl) :=
  foldl_inv (Darkened sl) _ (fun _ _ _ dark => dark.setLinkState few _ _)
    ((State.darkened_of_stopped ((State.slabOff_frame ..).canon canon) (State.slabOff_convRuns few canon)).refRestored)

/-- The end of a loss of a slab: the device is degraded, and the slab's checks end. -/
def State.slabLost (u : State) (sl : Nat) : State :=
  if u.dev.base == DevBase.ready then (u.degrade.dropChecks fun x => slabOf (siteRegion x.checker) == sl).alert alDegraded
  else u.degrade.dropChecks fun x => slabOf (siteRegion x.checker) == sl

theorem SameCourse.slabLost (u : State) (sl : Nat) : SameCourse u.degrade (u.slabLost sl) :=
  .ite (fun _ => (SameCourse.dropChecks (.refl _) _).alert _) fun _ => SameCourse.dropChecks (.refl _) _

theorem Darkened.slabLost {sl : Nat} (few : sl < 12) (dark : Darkened sl u) : Darkened sl (u.slabLost sl) := by
  unfold State.slabLost
  split
  · exact (dark.degrade.dropChecks few _).alert _
  · exact dark.degrade.dropChecks few _

theorem State.slabLost_degraded (u : State) (sl : Nat) : (u.slabLost sl).dev.degraded = true := by
  have kept : (u.degrade.dropChecks fun x => slabOf (siteRegion x.checker) == sl).dev = u.degrade.dev :=
    (State.dropChecks_frame ..).part .dev (by decide)
  have degraded := (congrArg Dev.degraded kept).trans (rfl : u.degrade.dev.degraded = true)
  unfold State.slabLost
  split
  · exact degraded
  · exact degraded

theorem State.darkenSlab_eq (s : State) (sl : Nat) : s.darkenSlab sl = ((((s.post 0x0107 (srcSlab sl)
    [(0, ones 8 (BitVec.ofNat 8 (s.regF (Reg.SLB_CONV sl) 0 8)))]).buryConv sl |>.slabLinksDown sl).slabDark sl).slabLost sl).feedCheck := by
  unfold State.darkenSlab State.slabLost State.slabDark State.slabLinksDown State.degrade State.buryConv
  rfl

theorem Canon.withAttic (canon : Canon s) (a : Attic) : Canon { s with attic := a } := canon_iff.1 (show s.canon = true from canon_iff.2 canon)

theorem State.buried_cut {sl : Nat} (few : sl < 12) (canon : Canon s) :
    Darkened sl (((s.buryConv sl).slabLinksDown sl).slabDark sl)
    ∧ (((s.buryConv sl).slabLinksDown sl).slabDark sl).dev.base = s.dev.base
    ∧ (((s.buryConv sl).slabLinksDown sl).slabDark sl).dev.backup = s.dev.backup
    ∧ sl ∈ (((s.buryConv sl).slabLinksDown sl).slabDark sl).attic.deadConvs := by
  have downs := (SameCourse.slabLinksDown (.refl (s.buryConv sl)) sl).slabDark sl
  exact ⟨State.darkened_slabDark few (State.slabLinksDown_canon (canon.withAttic _) sl), downs.base, downs.backup,
    downs.deadConvs ▸ State.mem_deadConvs_buryConv ..⟩

/-- The state in which a slab that goes dark is cut off. -/
theorem State.darkenSlab_cut {sl : Nat} (few : sl < 12) (canon : Canon s) : ∃ u, s.darkenSlab sl = (u.slabLost sl).feedCheck ∧ Darkened sl u
    ∧ u.dev.base = s.dev.base ∧ u.dev.backup = s.dev.backup ∧ sl ∈ u.attic.deadConvs := by
  have posted := State.post_frame s 0x0107 (srcSlab sl) [(0, ones 8 (BitVec.ofNat 8 (s.regF (Reg.SLB_CONV sl) 0 8)))]
  have dev := posted.part .dev (by decide)
  obtain ⟨dark, base, fed, dead⟩ := State.buried_cut few (posted.canon canon)
  exact ⟨_, State.darkenSlab_eq s sl, dark, base.trans (congrArg Dev.base dev), fed.trans (congrArg Dev.backup dev), dead⟩

/-- A slab that goes dark for good while the standby input feeds the always-on domain. -/
theorem State.darkenSlab_darkens {sl : Nat} (few : sl < 12) (canon : Canon s) (backup : s.dev.backup = false) :
    ((s.darkenSlab sl).slab sl).dark = true ∧ (s.darkenSlab sl).dev.degraded = true ∧ (s.darkenSlab sl).convRuns sl = false
      ∧ (s.dev.base = .ready → (s.darkenSlab sl).dev.base = .degraded) ∧ sl ∈ (s.darkenSlab sl).attic.deadConvs := by
  obtain ⟨u, same, dark, base, fed, dead⟩ := State.darkenSlab_cut few canon
  have lost := SameCourse.slabLost u sl
  have feeds : (u.slabLost sl).dev.backup = false := lost.backup.trans (fed.trans backup)
  rw [same, State.feedCheck_of_standby feeds]
  refine ⟨(dark.slabLost few).dark, State.slabLost_degraded .., (dark.slabLost few).stopped, fun ready => lost.base.trans ?_, ?_⟩
  · change (if u.dev.base == DevBase.ready then DevBase.degraded else u.dev.base) = _
    rw [base, ready]
    rfl
  · rw [lost.deadConvs]
    exact dead

-- Converters

/-- What a converter does that fails. -/
def Darkens (s : State) (sl : SlabNo) (i : Instr) : Prop := ∃ t, exec i s = .next t ∧ (t.slab sl).dark = true ∧ t.dev.degraded = true
  ∧ t.convRuns sl = false ∧ (s.dev.base = .ready → t.dev.base = .degraded) ∧ sl.val ∈ t.attic.deadConvs

theorem execConverterPhase_loses {sl : SlabNo} {ph : BitVec 3} (canon : Canon s) (runs : s.convRuns sl = true)
    (on : (s.regF (Reg.SLB_CONV sl) 0 8).testBit ph.toNat = true) :
    let m := s.regF (Reg.SLB_CONV sl) 0 8
    let left := ones 8 (BitVec.ofNat 8 (m - 2 ^ ph.toNat))
    (6 < left →
      let t : State := { s with attic := { s.attic with
        convPhases := Tab.set 0 s.attic.convPhases sl (Tab.get 0 s.attic.convPhases sl ||| 2 ^ ph.toNat) } }
      exec (.converterPhase sl ph) s = .next ((t.setRegF (Reg.SLB_CONV sl) 0 8 (m - 2 ^ ph.toNat)).post 0x0106 (srcSlab sl)
        [(0, ph.toNat), (1, left)]))
    ∧ (left ≤ 6 → s.dev.backup = false → Darkens s sl (.converterPhase sl ph)) := by
  intro m left
  let t : State := { s with attic := { s.attic with
    convPhases := Tab.set 0 s.attic.convPhases sl (Tab.get 0 s.attic.convPhases sl ||| 2 ^ ph.toNat) } }
  let u := (t.setRegF (Reg.SLB_CONV sl) 0 8 (m - 2 ^ ph.toNat)).post 0x0106 (srcSlab sl) [(0, ph.toNat), (1, left)]
  have acts : exec (.converterPhase sl ph) s = .next (if left ≤ 6 then u.darkenSlab sl else u) := if_neg (by rw [runs, on]; decide)
  refine ⟨fun enough => acts.trans (congrArg _ (if_neg (by omega))), fun few backup => ⟨_, acts, ?_⟩⟩
  have posted : Frame [.attic, .regs, .jobs] (t.setRegF (Reg.SLB_CONV sl) 0 8 (m - 2 ^ ph.toNat)) u := State.post_frame ..
  have dev : u.dev = s.dev := posted.part .dev (by decide)
  have noted : Canon t := canon.withAttic _
  rw [if_pos few, ← dev]
  exact State.darkenSlab_darkens sl.isLt (posted.canon ((State.setRegF_frame ..).canon noted)) ((congrArg Dev.backup dev).trans backup)

theorem execConverterLost_darkens {sl : SlabNo} (canon : Canon s) (runs : s.convRuns sl = true) (backup : s.dev.backup = false) :
    Darkens s sl (.converterLost sl) :=
  ⟨_, congrArg Host.Outcome.next (if_pos runs), State.darkenSlab_darkens sl.isLt canon backup⟩

end Sys2Proof.Machine

namespace Sys2Proof
open Machine

/-- Settles O55: each command by the tests that it makes, the fall of the rails by what the operations on its way leave alone
(`SameCourse`, `SameDevice`, `KeepsVin`), and a slab's loss by `Darkened`, which holds from its converter's stop to the end. -/
theorem supplyAndPhaseCommands : Obligations.SupplyAndPhaseCommands := by
  intro s v above r ph ns ex g sl cph canon
  have canon := canon_iff.1 canon
  exact ⟨execSupplyLow_inRange, execSupplyLow_posts, execSupplyLost_falls canon, execSupplyLost_noted, execSupplyRestored_returns,
    execStandbyLost_falls canon, execStandbyRestored_returns, execPhaseLost_limits, execRegionShort_opens, execCrackSuspect_first,
    execCrackSuspect_second, execConverterPhase_loses canon, execConverterLost_darkens canon⟩

end Sys2Proof
end

section
/-! SUPPORT. Repairs, builds of the grid and the training of links leave the device where it stands in bring-up (R345, R373 to R376, R388). -/

namespace Sys2Proof.Machine

-- In sequence, so that the stacks of their threads do not add up.
set_option Elab.async false

variable {o s t u : State}

-- Repairs

section
variable (same : SameCourse o s)
include same

theorem SameCourse.markRetired (r cause : Nat) (forced : Bool) : SameCourse o (s.markRetired r cause forced) := .ite (fun _ => same) fun _ => same

theorem SameCourse.withResil {x : Resil} (goes : x.restart.isSome = s.resil.restart.isSome) : SameCourse o { s with resil := x } :=
  same.trans (by rw [SameCourse, State.course, State.course, goes])

theorem SameCourse.retireFound (r cause kind : Nat) : SameCourse o (s.retireFound r cause kind) := by
  have marked := same.markRetired r cause true
  have resil : (s.markRetired r cause true).resil = s.resil := (State.markRetired_frame ..).part .resil (by decide)
  exact .ite (fun _ => same) fun _ => marked.withResil (congrArg (fun x => x.restart.isSome) resil.symm)

theorem SameCourse.markBad (site : Nat) : SameCourse o (s.markBad site) := .ite (fun _ => same) fun _ => same

theorem SameCourse.markBypass (site : Nat) : SameCourse o (s.markBypass site) := .ite (fun _ => same) fun _ => same

theorem SameCourse.spareLarRow (site row : Nat) : SameCourse o (s.spareLarRow site row) := by
  unfold State.spareLarRow
  extract_lets bank
  split
  · next i _ =>
    extract_lets k
    have mapped : SameCourse o { s with attic := { s.attic with larMap := Tab.set 0 s.attic.larMap k (BitVec.ofNat 32 (row % 1024 + 2 ^ 15)) } } := same
    exact mapped.frame (State.zeroRow_frame ..)
  · exact same.markBad site

theorem SameCourse.spareArrayRow (site blk row : Nat) : SameCourse o (s.spareArrayRow site blk row) :=
  .ite (fun _ => same) fun _ => same.markBad site

theorem SameCourse.setResilF (r p w v : Nat) : SameCourse o (s.setResilF r p w v) := same

theorem SameCourse.pendRetirement (r cause : Nat) : SameCourse o (s.pendRetirement r cause) :=
  ((same.setResilF ..).setResilF ..).withResil rfl

theorem SameCourse.withGuard (l : List Nat) : SameCourse o { s with attic := { s.attic with guard := l } } := same

theorem SameCourse.deferRetirement (r : Nat) : SameCourse o (s.deferRetirement r) :=
  (((same.setResilF ..).setResilF ..).setResilF ..).withGuard _

theorem SameCourse.planRetirement (r cause : Nat) : SameCourse o (s.planRetirement r cause) :=
  .ite (fun _ => same) fun _ => .ite (fun _ => same.deferRetirement r) fun _ => same.pendRetirement r cause

theorem SameCourse.shiftWire (site port net wire group : Nat) : SameCourse o (s.shiftWire site port net wire group) := by
  unfold State.shiftWire
  split
  · exact same
  · exact same

omit same in
theorem SameCourse.remapRow (same : SameCourse o s) {r : Nat} {x : CelRow} (remaps : s.remapRow r x = some t) : SameCourse o t := by
  unfold State.remapRow at remaps
  extract_lets fch base sameBank free rows at remaps
  clear_value free
  split at remaps
  · split at remaps
    · cases remaps
    · cases remaps
      exact .ite (fun _ => same) fun _ => same
  · cases remaps

end

theorem SameCourse.applyRepair {a : State × List Retire} (same : SameCourse o a.1) (k : ReportKind) : SameCourse o (applyRepair a k).1 := by
  unfold Machine.applyRepair
  split
  · exact same.spareLarRow ..
  · exact same.spareArrayRow ..
  · exact same.markBad ..
  · extract_lets before row
    split
    next remaps => exact (SameCourse.remapRow (s := before) same remaps).frame (State.rewriteRow_frame ..)
    next => exact same
  · extract_lets before
    have befores : SameCourse o before := same
    split
    · exact same
    · split
      · exact befores.markBypass ..
      · split
        · exact (befores.shiftWire ..).planRetirement ..
        · exact befores.markBypass ..
  · exact same
  · exact same

section
variable (same : SameCourse o s)
include same

theorem SameCourse.applyTodo : SameCourse o s.applyTodo.1 := by
  have none : SameCourse o { s with attic := { s.attic with todo := [] } } := same
  unfold State.applyTodo
  exact foldl_inv (fun a : State × List Retire => SameCourse o a.1) _ (fun _ k _ same => SameCourse.applyRepair same k) none

theorem SameCourse.applyFound (k : ReportKind) : SameCourse o (s.applyFound k) :=
  (SameCourse.applyRepair (a := (s, [])) same k).foldl fun _ _ same => same.retireFound ..

theorem SameCourse.saveSettings (x : Settings) : SameCourse o (s.saveSettings x) := same

-- The grid

theorem SameCourse.reinstateColumn (x : Nat) : SameCourse o (s.reinstateColumn x) :=
  same.foldl fun _ _ same => .ite (fun _ => same) fun _ => same

theorem SameCourse.attachAll : SameCourse o s.attachAll := by
  have named : SameCourse o { s with dev := { s.dev with routeNamed := s.bypassList, routeNoBulk := s.downRegions 0, routeNoCtl := s.downRegions 1 } } := same
  exact named.foldl fun _ _ same => same.frame (State.updRg_frame ..)

theorem SameCourse.withGrid (grid : Bool) : SameCourse o { s with dev := { s.dev with grid := grid } } := same

theorem SameCourse.withDegraded (d : Bool) : SameCourse o { s with dev := { s.dev with degraded := d } } := same

theorem SameCourse.buildGrid : SameCourse o s.buildGrid := by
  unfold State.buildGrid
  extract_lets built hi resv ret lost counted numbered dev attached
  have builds : SameCourse o built := same.foldl fun _ _ same => same.frame (State.buildColumn_frame ..)
  have numbers : SameCourse o numbered := (builds.frame (State.setReg_frame ..)).frame (State.setReg_frame ..)
  have attaches : SameCourse o attached := (numbers.withGrid true).attachAll
  exact .ite (fun _ => attaches) fun _ => attaches.withDegraded true

theorem SameCourse.postFound : SameCourse o s.postFound := by
  have none : SameCourse o { s with resil := { s.resil with found := [] } } := same
  exact none.foldl fun _ _ same => (same.post ..).alert _

theorem SameCourse.bringGrid : SameCourse o s.bringGrid := by
  have found : SameCourse o (s.twoBad.foldl (fun s r => s.retireFound r 3 1) s) := same.foldl fun _ _ same => same.retireFound ..
  have columns : SameCourse o ((List.range 16).foldl State.reinstateColumn (s.twoBad.foldl (fun s r => s.retireFound r 3 1) s)) :=
    found.foldl fun _ _ same => same.reinstateColumn _
  exact columns.buildGrid.postFound

theorem SameCourse.conflict (site : Nat) : SameCourse o (s.conflict site) := by
  have noted : SameCourse o { s with attic := { s.attic with conflicts := s.attic.conflicts ++ [site] } } := same
  exact .ite (fun _ => same) fun _ => noted.post ..

theorem SameCourse.postConflicts (was : List Nat) : SameCourse o (s.postConflicts was) := same.foldl fun _ _ same => same.conflict _

theorem SameCourse.kaRun (f : KaFound) (rs : List Nat) : SameCourse o (s.kaRun f rs) := by
  unfold State.kaRun
  extract_lets bad counted marked spared
  have counts : SameCourse o counted := same.foldl fun u r same => by
    have counted : SameCourse o (u.count (Reg.RGN_KA r) 0 16 1) := same.frame (State.count_frame ..)
    exact .ite (fun _ => counted.frame (State.count_frame ..)) fun _ => counted
  have marks : SameCourse o marked := counts.foldl fun _ _ same => same.markBad _
  have spares : SameCourse o spared := marks.foldl fun _ _ same => same.applyFound _
  exact (spares.foldl fun _ _ same => same.applyFound _).postConflicts _

omit same in
theorem SameCourse.kaRounds (same : SameCourse o s) (n : Nat) (fs : List KaFound) (rs : List Nat) (unit : BitVec 16) :
    SameCourse o (State.kaRounds n fs s rs unit).1 := by
  induction n generalizing s fs rs unit with
  | zero => exact same
  | succ n ih =>
    unfold State.kaRounds
    extract_lets f run unit' t moved
    have runs : SameCourse o run := same.kaRun ..
    have grids : SameCourse o t := .ite (fun _ => runs) fun _ => runs.bringGrid
    split
    · exact grids
    · exact ih grids ..

-- The training of links in AON

omit same in
theorem State.railsOn_of_aon (aon : s.dev.base = .aon) : s.railsOn = false := by
  simp [State.railsOn, State.devState, aon]

omit same in
/-- Without the rails a restart whose path returns only starts its reads again later. -/
theorem SameCourse.restartRepeat (same : SameCourse o s) (aon : s.dev.base = .aon) : SameCourse o s.restartRepeat := by
  have down := State.railsOn_of_aon aon
  unfold State.restartRepeat
  split
  · exact same
  · next x restart =>
    split
    · exact same
    · next goes =>
      have rewinds : x.replay = false := by simp at goes; exact goes.1.2
      split
      · unfold State.restartGo State.replayEnds
        rw [restart]
        simp only [rewinds, Bool.false_and, Bool.false_eq_true, if_false, restart, down, Bool.not_false, Bool.or_true, Bool.true_or, if_true]
        exact same
      · have waits : SameCourse o { s with
            reqs := s.reqs.filter fun (q : DepReq) => !q.kind.isRead || q.ring.isSome
            resil := { s.resil with restart := some { x with reading := false, fails := 0 } } } :=
          same.trans (by rw [SameCourse, State.course, State.course, restart]; rfl)
        have still : ∀ u : State, u.railsOn = false → u.restartReads = u := fun u down => by
          unfold State.restartReads
          split
          · rfl
          · rw [down, Bool.not_false, Bool.or_true]
            rfl
        refine (congrArg (SameCourse o) (still _ ?_)).mpr waits
        exact down

theorem SameCourse.saveLink (l : Nat) (spares : List Nat) : SameCourse o (s.saveLink l spares) := same

theorem SameCourse.trained (aon : o.dev.base = .aon) (l : Nat) (full : Bool) (rtt : Word) (m : LaneTest) :
    SameCourse o (s.trained l full rtt m) := by
  unfold State.trained
  extract_lets full' was saved marked tx rx n laned learned state shown posted sent
  have marks : SameCourse o marked := same.frame (State.markLanes_frame ..)
  refine .ite (fun _ => marks.frame (State.trainFail_frame ..)) fun _ => ?_
  have lanes : SameCourse o laned := marks.frame (State.updLnk_frame ..)
  have learns : SameCourse o learned := .ite (fun _ => (lanes.frame (State.measureEq_frame ..)).saveLink ..) fun _ => lanes.frame (State.loadLink_frame ..)
  have states : SameCourse o state := learns.frame (State.setLinkState_frame ..)
  have shows : SameCourse o shown := (states.frame (State.setRegF_frame ..)).frame (State.setReg_frame ..)
  have posts : SameCourse o posted := ((shows.frame (State.firstGroups_frame ..)).frame (State.showLanes_frame ..)).post ..
  have sends : SameCourse o sent := (((posts.frame (State.portUp_frame ..)).frame (State.drainLink_frame ..)).frame
    (State.pumpReqs_frame _)).frame (State.pumpHands_frame _)
  exact .ite (fun _ => sends) fun _ => sends.restartRepeat (sends.base.trans aon)

theorem SameCourse.bringLink (aon : o.dev.base = .aon) (t : Trained) : SameCourse o (s.bringLink t) := by
  unfold State.bringLink
  extract_lets l started peered
  have starts : SameCourse o started := same.frame (State.startTraining_frame ..)
  have peers : SameCourse o peered := (starts.frame (State.sendPeer_frame ..)).frame (State.setPeer_frame ..)
  exact .ite (fun _ => same) fun _ => .ite (fun _ => starts.frame (State.trainFail_frame ..)) fun _ => .ite (fun _ => peers.peerFail ..) fun _ =>
    .ite (fun _ => peers.peerFail ..) fun _ => peers.trained aon ..

theorem SameCourse.bringLinks (aon : o.dev.base = .aon) (ts : List Trained) : SameCourse o (s.bringLinks ts) :=
  same.foldl fun _ _ same => same.bringLink aon _

end

end Sys2Proof.Machine
end

section
/-! SUPPORT. Reports of bring-up's stages, and stages that succeed or fail (R445, R446). -/

namespace Sys2Proof.Machine

-- In sequence, so that the stacks of their threads do not add up.
set_option Elab.async false

variable {P : List Part} {o s t u : State}

theorem fld_stageWord {code : Nat} (small : code < 256) (unit : BitVec 16) (reason : Nat) :
    fld (w32 (code + unit.toNat * 256 + reason * 2 ^ 24)) 0 8 = code := by
  have bits : fld (w32 (code + unit.toNat * 256 + reason * 2 ^ 24)) 0 8 = (code + unit.toNat * 256 + reason * 2 ^ 24) % 2 ^ 32 % 2 ^ 8 := by
    rw [fld, w32, BitVec.toNat_ofNat, Nat.shiftRight_zero]
  rw [bits]
  omega

theorem State.stageReport_tables (tables : Tab.wf none s.regs = true) (code : Nat) (us : Word) (unit : BitVec 16) (reason : Nat) :
    Tab.wf none (s.stageReport code us unit reason).regs = true :=
  (KeepsBits.post (A := fun _ _ => False) (.refl (wf_setReg (wf_setReg tables ..) ..)) (fun _ h => h) ..).tables

theorem State.stageReport_stage (tables : Tab.wf none s.regs = true) {code : Nat} (small : code < 256) (us : Word) (unit : BitVec 16) (reason : Nat) :
    (s.stageReport code us unit reason).regF Reg.GLB_STAGE 0 8 = code := by
  have set := wf_setReg tables Reg.GLB_STAGE (w32 (code + unit.toNat * 256 + reason * 2 ^ 24))
  have kept : KeepsBits (fun a _ => a = Reg.GLB_STAGE) (s.setReg Reg.GLB_STAGE (w32 (code + unit.toNat * 256 + reason * 2 ^ 24)))
      (s.stageReport code us unit reason) := KeepsBits.post ((KeepsBits.refl set).setReg us fun _ => by decide) (fun _ => by decide) ..
  rw [kept.regF fun _ _ _ => rfl, State.regF, reg_setReg tables, if_pos rfl, fld_stageWord small]

theorem State.stageReport_dev (s : State) (code : Nat) (us : Word) (unit : BitVec 16) (reason : Nat) :
    (s.stageReport code us unit reason).dev = s.dev := (State.stageReport_frame ..).part .dev (by decide)

theorem SameCourse.stageReport (same : SameCourse o s) (code : Nat) (us : Word) (unit : BitVec 16) (reason : Nat) :
    SameCourse o (s.stageReport code us unit reason) :=
  ((same.frame (State.setReg_frame ..)).frame (State.setReg_frame ..)).post ..

-- Canonical states of a device in AON

/-- The state is canonical, and the device in AON. -/
structure InAon (s : State) : Prop where
  canon : Canon s
  base : s.dev.base = .aon

theorem InAon.frame (aon : InAon s) (frame : Frame P s t) (dev : .dev ∉ P := by decide) : InAon t :=
  ⟨frame.canon aon.canon, (congrArg Dev.base (frame.part .dev dev)).trans aon.base⟩

theorem InAon.course (aon : InAon s) (frame : Frame P s t) (same : SameCourse s t) : InAon t :=
  ⟨frame.canon aon.canon, same.base.trans aon.base⟩

theorem InAon.foldl {α : Type} {f : State → α → State} {l : List α} (aon : InAon s) (each : ∀ u x, InAon u → InAon (f u x)) :
    InAon (l.foldl f s) := foldl_inv InAon f (fun u x _ => each u x) aon

theorem InAon.ite {c : Prop} [Decidable c] (yes : c → InAon t) (no : ¬ c → InAon u) : InAon (if c then t else u) := by
  split
  next h => exact yes h
  next h => exact no h

theorem Canon.withDev (canon : Canon s) (d : Dev) : Canon { s with dev := d } := canon_iff.1 (show s.canon = true from canon_iff.2 canon)

theorem Canon.withDevAttic (canon : Canon s) (d : Dev) (a : Attic) : Canon { s with dev := d, attic := a } :=
  canon_iff.1 (show s.canon = true from canon_iff.2 canon)

theorem Canon.booted (canon : Canon s) (d : Dev) (k : Clock) (n : Nat) : Canon { s with dev := d, clk := k, freeCtr := n } :=
  canon_iff.1 (show s.canon = true from canon_iff.2 canon)

theorem InAon.withDev (aon : InAon s) {d : Dev} (base : d.base = .aon) : InAon { s with dev := d } := ⟨aon.canon.withDev d, base⟩

theorem InAon.withAttic (aon : InAon s) (a : Attic) : InAon { s with attic := a } := ⟨aon.canon.withAttic a, aon.base⟩

theorem InAon.withDevAttic (aon : InAon s) (d : Dev) (a : Attic) (base : d.base = .aon) : InAon { s with dev := d, attic := a } :=
  ⟨aon.canon.withDevAttic d a, base⟩

-- Outcomes of a stage

/-- The stage succeeds, and stage n is next. -/
def Leads (s : State) (i : Instr) (code : Nat) (n : StageNo) : Prop :=
  ∃ t, exec i s = .next t ∧ t.dev.next = some n ∧ t.dev.base = .aon ∧ t.regF Reg.GLB_STAGE 0 8 = code

/-- The stage fails, and bring-up ends with its failure code and nALERT's cause. -/
def Fails (s : State) (i : Instr) (code : Nat) : Prop :=
  ∃ t, exec i s = .next t ∧ t.dev.next = none ∧ t.regF Reg.GLB_STAGE 0 8 = code ∧ t.dev.alerts.getLsbD 0 = true

/-- The stage fails, and the rails fall. -/
def Drops (s : State) (i : Instr) : Prop := s.dev.backup = false → ∃ t, exec i s = .next t ∧ t.dev.next = none ∧ t.dev.base = .aon
  ∧ t.dev.pGood = false ∧ t.dev.retryDue = (tst s.attic.bootcfg 2 && !s.dev.retried)

theorem leads_of_stageDone {i : Instr} {code : Nat} {us : Word} {unit : BitVec 16} {n : StageNo} (aon : InAon t)
    (runs : exec i s = .next (t.stageDone code us unit n)) (small : code < 256 := by decide) : Leads s i code n := by
  have clocked := aon.withDev (d := { t.dev with railsUs := t.dev.railsUs + us.toNat }) aon.base
  refine ⟨_, runs, rfl, ?_, State.stageReport_stage clocked.canon.regs small ..⟩
  exact (congrArg Dev.base (State.stageReport_dev ..)).trans clocked.base

theorem fails_of_alert {i : Instr} {code : Nat} {us : Word} {unit : BitVec 16} {reason : Nat} {d : Dev} {m : Mgmt} (tables : Tab.wf none t.regs = true)
    (small : code < 256) (runs : exec i s = .next { (((t.stageReport code us unit reason).alert alStage).goStage none) with dev := d, mgmt := m })
    (next : d.next = none) (alerts : d.alerts = (t.stageReport code us unit reason).dev.alerts ||| 1 <<< alStage) : Fails s i code := by
  refine ⟨_, runs, next, State.stageReport_stage tables small .., ?_⟩
  change d.alerts.getLsbD 0 = true
  rw [alerts, BitVec.getLsbD_or]
  simp [alStage]

/-- The end of a stage that failed: AUTORETRY retries once. -/
def State.stageEnd (u : State) : State :=
  if u.dev.base = .off then u else { u with dev := { u.dev with next := none, retryDue := tst u.attic.bootcfg 2 && !u.dev.retried } }

theorem State.stageFail_eq (s : State) (code : Nat) (us : Word) (unit : BitVec 16) (reason : Nat) :
    s.stageFail code us unit reason = (((s.stageReport (code + 128) us unit reason).alert alStage).dropRails).stageEnd := rfl

theorem State.stageEnd_ends (base : u.dev.base = .aon) (good : u.dev.pGood = false) (bootcfg : u.attic.bootcfg = s.attic.bootcfg)
    (retried : u.dev.retried = s.dev.retried) : u.stageEnd.dev.next = none ∧ u.stageEnd.dev.base = .aon ∧ u.stageEnd.dev.pGood = false
    ∧ u.stageEnd.dev.retryDue = (tst s.attic.bootcfg 2 && !s.dev.retried) := by
  rw [State.stageEnd, if_neg (by rw [base]; decide), ← bootcfg, ← retried]
  exact ⟨rfl, base, good, rfl⟩

theorem State.stageFail_dropped (s : State) (code : Nat) (us : Word) (unit : BitVec 16) (reason : Nat) (backup : s.dev.backup = false) :
    (s.stageFail code us unit reason).dev.next = none ∧ (s.stageFail code us unit reason).dev.base = .aon
    ∧ (s.stageFail code us unit reason).dev.pGood = false
    ∧ (s.stageFail code us unit reason).dev.retryDue = (tst s.attic.bootcfg 2 && !s.dev.retried) := by
  have reported := (SameCourse.stageReport (.refl s) (code + 128) us unit reason).alert alStage
  have fed := reported.backup.trans backup
  obtain ⟨base, good, -, -, -, -, retried⟩ := State.dropRails_devFields fed
  rw [State.stageFail_eq]
  exact State.stageEnd_ends base good ((State.dropRails_keeps fed).1.trans reported.bootcfg) (retried.trans reported.retried)

theorem drops_of_stageFail {i : Instr} {code : Nat} {us : Word} {unit : BitVec 16} {reason : Nat} (same : SameCourse s t)
    (runs : exec i s = .next (t.stageFail code us unit reason)) : Drops s i := by
  intro backup
  obtain ⟨next, base, good, retry⟩ := t.stageFail_dropped code us unit reason (same.backup.trans backup)
  exact ⟨_, runs, next, base, good, retry.trans (by rw [same.bootcfg, same.retried])⟩

-- Turns

theorem State.atStage_iff {n : StageNo} : s.atStage n = true ↔ s.dev.base = .aon ∧ s.dev.next = some n := by
  simp [State.atStage]

theorem State.atClocked_iff {n : StageNo} : s.atClocked n = true ↔ (s.dev.base = .aon ∧ s.dev.next = some n) ∧ s.dev.refOk = true := by
  rw [State.atClocked, Bool.and_eq_true, State.atStage_iff]

theorem State.not_atClocked {n : StageNo} (out : ¬ (s.dev.base = .aon ∧ s.dev.next = some n) ∨ s.dev.refOk = false) : ¬ s.atClocked n = true := by
  rw [State.atClocked_iff]
  rintro ⟨turn, ref⟩
  obtain out | lost := out
  · exact out turn
  · rw [ref] at lost
    cases lost

/-- A stage in its turn goes on. -/
theorem State.goesOn {α : Type} {b : Bool} (turn : b = true) (x y : α) : (if (!b) = true then x else y) = y := if_neg (by rw [turn]; decide)

/-- A stage out of turn stops. -/
theorem State.stops {α : Type} {b : Bool} (turn : ¬ b = true) (x y : α) : (if (!b) = true then x else y) = x :=
  if_pos (by rw [Bool.not_eq_true _ |>.mp turn]; rfl)

end Sys2Proof.Machine
end

section
/-! CLAIM. O59: each stage of bring-up (R444 to R453). -/

namespace Sys2Proof.Machine

-- In sequence, so that the stacks of their threads do not add up.
set_option Elab.async false

variable {s t : State} {us : Word} {bad : List RegionNo}

-- AON_UP and FW_VERIFIED

/-- The always-on domain once its self-test has passed. -/
def State.aonStarts (s : State) : State :=
  State.readSettings { s with
    dev := { s.dev with
      smbStraps := Config.smbStraps s.freeCtr, tap := .idcode, debug := false, challenge := Config.challenge (s.freeCtr + 1)
      next := some .fwVerified, v12 := true, energy := [] }
    clk := { s.clk with onHold := !s.dev.refOk, drift := !s.dev.refOk }
    freeCtr := s.freeCtr + 2 }

theorem InAon.aonStarts (aon : InAon s) : InAon s.aonStarts ∧ s.aonStarts.dev.next = some .fwVerified :=
  ⟨⟨(State.readSettings_frame _).canon (aon.canon.booted ..), aon.base⟩, rfl⟩

theorem execAonUp_leads {ports : List Trained} (canon : Canon s) (turn : s.dev.base = .aon ∧ s.dev.next = some .aonUp) :
    Leads s (.aonUp us true ports) 0x10 .fwVerified := by
  obtain ⟨aon, next⟩ := InAon.aonStarts ⟨canon, turn.1⟩
  have trains (ts : List Trained) := SameCourse.bringLinks (.refl s.aonStarts) aon.base ts
  have trained (ts : List Trained) : Canon (s.aonStarts.bringLinks ts) := (State.bringLinks_frame ..).canon aon.canon
  refine ⟨_, (State.goesOn (State.atStage_iff.mpr turn) ..).trans (if_neg (by decide)), ?_, ?_, State.stageReport_stage (trained _).regs (by decide) ..⟩
  · rw [State.stageReport_dev]
    exact (trains _).next.trans next
  · rw [State.stageReport_dev]
    exact (trains _).base.trans aon.base

theorem execAonUp_fails {ports : List Trained} (canon : Canon s) (turn : s.dev.base = .aon ∧ s.dev.next = some .aonUp) :
    Fails s (.aonUp us false ports) 0x90 := by
  let noted : State := { s.useFree with dev := { s.dev with smbStraps := Config.smbStraps s.freeCtr } }
  let u := ((noted.stageReport 0x90 us srcModule 0).alert alStage).goStage none
  have canon' : Canon noted := ((State.useFree_frame s).canon canon).withDev _
  have runs : exec (.aonUp us false ports) s = .next u := (State.goesOn (State.atStage_iff.mpr turn) ..).trans (if_pos rfl)
  exact fails_of_alert (d := u.dev) (m := u.mgmt) canon'.regs (by decide) runs rfl rfl

/-- The attic's image runs. -/
def State.imageRuns (s : State) (us : Word) : State :=
  let x := s.attic.image
  let u := s.stageReport 0x18 us srcModule 0
  { u with
    dev := { u.dev with fwOk := true, next := if tst u.attic.bootcfg 1 then none else some .railsUp }
    mgmt := { u.mgmt with
      recovery := false, version := BitVec.ofNat 32 (tabLe x.bytes 8 4), svn := tabLe x.bytes 6 1, running := x
      commitFlag := decide (tabLe x.bytes 7 1 % 2 = 1) } }

theorem execFwVerified_runs (turn : s.dev.base = .aon ∧ s.dev.next = some .fwVerified)
    (good : s.attic.image.reject s.fuses.keyHash s.fuses.k = none) : exec (.fwVerified us) s = .next (s.imageRuns us) := by
  refine (State.goesOn (State.atStage_iff.mpr turn) ..).trans ?_
  simp only [good]
  rfl

theorem execFwVerified_passes (canon : Canon s) (turn : s.dev.base = .aon ∧ s.dev.next = some .fwVerified)
    (good : s.attic.image.reject s.fuses.keyHash s.fuses.k = none) :
    ∃ t, exec (.fwVerified us) s = .next t ∧ t.dev.next = (if tst s.attic.bootcfg 1 then none else some .railsUp) ∧ t.dev.base = .aon
      ∧ t.dev.fwOk = true ∧ t.regF Reg.GLB_STAGE 0 8 = 0x18 := by
  have reported := SameCourse.stageReport (.refl s) 0x18 us srcModule 0
  refine ⟨_, execFwVerified_runs turn good, ?_, reported.base.trans turn.1, rfl, State.stageReport_stage canon.regs (by decide) ..⟩
  rw [← reported.bootcfg]
  rfl

theorem execFwVerified_next (canon : Canon s) (turn : s.dev.base = .aon ∧ s.dev.next = some .fwVerified)
    (good : s.attic.image.reject s.fuses.keyHash s.fuses.k = none) (runs : tst s.attic.bootcfg 1 = false) :
    Leads s (.fwVerified us) 0x18 .railsUp := by
  obtain ⟨t, ends, next, base, -, stage⟩ := execFwVerified_passes (us := us) canon turn good
  rw [runs] at next
  exact ⟨t, ends, next, base, stage⟩

theorem execFwVerified_holds (canon : Canon s) (turn : s.dev.base = .aon ∧ s.dev.next = some .fwVerified)
    (good : s.attic.image.reject s.fuses.keyHash s.fuses.k = none) (holds : tst s.attic.bootcfg 1 = true) :
    ∃ t, exec (.fwVerified us) s = .next t ∧ t.dev.next = none ∧ t.dev.base = .aon ∧ t.dev.fwOk = true ∧ t.regF Reg.GLB_STAGE 0 8 = 0x18 := by
  have goes := execFwVerified_passes (us := us) canon turn good
  rw [holds] at goes
  exact goes

theorem execFwVerified_fails (canon : Canon s) (turn : s.dev.base = .aon ∧ s.dev.next = some .fwVerified) {why : Nat}
    (rejected : s.attic.image.reject s.fuses.keyHash s.fuses.k = some why) : Fails s (.fwVerified us) 0x98 := by
  let u := ((s.stageReport 0x98 us srcModule why).alert alStage).goStage none
  have runs : exec (.fwVerified us) s
      = .next { u with dev := { u.dev with fwOk := false }, mgmt := { u.mgmt with recovery := true, version := 0, svn := 0 } } := by
    refine (State.goesOn (State.atStage_iff.mpr turn) ..).trans ?_
    simp only [rejected]
    rfl
  exact fails_of_alert canon.regs (by decide) runs rfl rfl

-- RAILS_UP to CLOCKS_LOCKED

theorem InAon.slabStart (aon : InAon s) (sl : Nat) : InAon (s.slabStart sl) := aon.frame (State.slabStart_frame ..)

theorem InAon.slabMissing (aon : InAon s) (sl : Nat) : InAon (s.slabMissing sl) := by
  unfold State.slabMissing
  extract_lets attic dev noted dark
  have notes : InAon noted := aon.withDevAttic _ _ aon.base
  have darks : InAon dark := notes.frame (State.updSlab_frame ..)
  exact darks.foldl fun _ _ aon => aon.frame (State.setLinkState_frame ..)

/-- RAILS_UP in its turn, with the input in range and the device cool. -/
structure RailsTurn (s : State) (tmp : BitVec 8) : Prop where
  turn : s.dev.base = .aon ∧ s.dev.next = some .railsUp
  held : s.dev.v48Held = true
  cool : s.dev.afterReset = false ∨ tmp.toNat < 85

/-- RAILS_UP has begun. -/
def State.railsBegin (s : State) : State := State.readSettings { s with dev := { s.dev with railsUs := 0, afterReset := false } }

/-- The converters that start, and those that are missing. -/
def State.convsStart (s : State) (up missing : List Nat) : State := missing.foldl State.slabMissing (up.foldl State.slabStart s)

theorem InAon.convsStart (aon : InAon s) (up missing : List Nat) : InAon (s.convsStart up missing) :=
  (aon.foldl fun _ _ aon => aon.slabStart _).foldl fun _ _ aon => aon.slabMissing _

/-- The rails are up, without the regions whose regulators failed. -/
def State.railsGood (s : State) (bad : List Nat) : State :=
  let u := bad.foldl (fun s r => s.regulatorFails r) s
  State.slabPools { u with dev := { u.dev with pGood := true } } true

theorem InAon.railsGood (aon : InAon s) (bad : List Nat) : InAon (s.railsGood bad) := by
  unfold State.railsGood
  extract_lets failed
  have fails : InAon failed := aon.foldl fun _ _ aon => aon.frame (State.regulatorFails_frame ..)
  have good : InAon { failed with dev := { failed.dev with pGood := true } } := fails.withDev fails.base
  exact good.frame (State.slabPools_frame _ true)

theorem InAon.railsBegin (aon : InAon s) : InAon s.railsBegin :=
  (aon.withDev (d := { s.dev with railsUs := 0, afterReset := false }) aon.base).frame (State.readSettings_frame _)

theorem SameCourse.railsBegin (s : State) : SameCourse s s.railsBegin := by
  have begun : SameCourse s { s with dev := { s.dev with railsUs := 0, afterReset := false } } := .refl s
  exact begun.frame (State.readSettings_frame _)

theorem execRailsUp_goes {convs : BitVec 12} {tmp : BitVec 8} (ready : RailsTurn s tmp) :
    let starts (sl : Nat) : Bool := convs.getLsbD sl && !s.attic.deadConvs.contains sl
    exec (.railsUp us ⟨convs, bad⟩ tmp) s = (match (List.range 12).filter starts with
      | [] => .next (s.railsBegin.stageFail 0x20 us srcModule 0x16)
      | up =>
        let missing := (List.range 12).filter fun sl => !starts sl
        let bad := bad.filter fun r => starts (slabOf r)
        .next (((s.railsBegin.convsStart up missing).railsGood bad).stageDone 0x20 us
          ((bad.getLast?).elim ((missing.getLast?).elim srcModule srcSlab) fun r => srcRegion r) .fusesRead)) := by
  intro starts
  obtain ⟨turn, held, cool⟩ := ready
  have goes : ¬ (!s.atStage .railsUp || !s.dev.v48Held || (s.dev.afterReset && decide (85 ≤ tmp.toNat))) = true := by
    rw [State.atStage_iff.mpr turn, held]
    obtain begun | cold := cool
    · rw [begun]
      simp
    · simpa using fun _ => cold
  refine (if_neg goes).trans ?_
  unfold State.railsGood State.convsStart State.railsBegin
  rfl

theorem execRailsUp_leads {convs : BitVec 12} {tmp : BitVec 8} (canon : Canon s) (ready : RailsTurn s tmp)
    (starts : ∃ n < 12, convs.getLsbD n = true ∧ n ∉ s.attic.deadConvs) : Leads s (.railsUp us ⟨convs, bad⟩ tmp) 0x20 .fusesRead := by
  have goes := execRailsUp_goes (us := us) (convs := convs) (bad := bad) ready
  obtain ⟨n, few, on, alive⟩ := starts
  have listed : n ∈ (List.range 12).filter fun sl => convs.getLsbD sl && !s.attic.deadConvs.contains sl := by
    simpa [few, on] using alive
  dsimp only at goes
  split at goes
  next none => rw [none] at listed; cases listed
  next => exact leads_of_stageDone ((InAon.railsBegin ⟨canon, ready.turn.1⟩).convsStart .. |>.railsGood _) goes

theorem execRailsUp_drops {convs : BitVec 12} {tmp : BitVec 8} (ready : RailsTurn s tmp)
    (dead : ∀ n < 12, convs.getLsbD n = false ∨ n ∈ s.attic.deadConvs) : Drops s (.railsUp us ⟨convs, bad⟩ tmp) := by
  have goes := execRailsUp_goes (us := us) (convs := convs) (bad := bad) ready
  have none : ((List.range 12).filter fun sl => convs.getLsbD sl && !s.attic.deadConvs.contains sl) = [] := by
    rw [List.filter_eq_nil_iff]
    intro n few
    obtain off | lost := dead n (List.mem_range.1 few)
    · rw [off]
      simp
    · simp [lost]
  dsimp only at goes
  rw [none] at goes
  exact drops_of_stageFail (SameCourse.railsBegin s) goes

/-- RAILS_UP out of turn waits, and so does it with no input in range or after a trip while a sensor reads 85 °C. -/
theorem execRailsUp_waits {convs : BitVec 12} {tmp : BitVec 8} (out : ¬ (s.dev.base = .aon ∧ s.dev.next = some .railsUp)
      ∨ s.dev.v48Held = false ∨ (s.dev.afterReset = true ∧ 85 ≤ tmp.toNat)) : exec (.railsUp us ⟨convs, bad⟩ tmp) s = .next s := by
  refine if_pos ?_
  rw [Bool.or_eq_true, Bool.or_eq_true, Bool.and_eq_true, decide_eq_true_iff, Bool.not_eq_true', Bool.not_eq_true', ← Bool.not_eq_true,
    State.atStage_iff, or_assoc]
  exact out

theorem execFusesRead_leads (canon : Canon s) (turn : s.dev.base = .aon ∧ s.dev.next = some .fusesRead) :
    Leads s (.fusesRead us true) 0x28 .clocksLocked :=
  leads_of_stageDone (InAon.withDev ⟨canon, turn.1⟩ (d := { s.dev with fuses := true }) turn.1)
    ((State.goesOn (State.atStage_iff.mpr turn) ..).trans (if_neg (by decide)))

theorem execFusesRead_drops (turn : s.dev.base = .aon ∧ s.dev.next = some .fusesRead) : Drops s (.fusesRead us false) :=
  drops_of_stageFail (.refl s) ((State.goesOn (State.atStage_iff.mpr turn) ..).trans (if_pos rfl))

/-- Reference loops and crossings once the clocks have locked. -/
def State.clocksLock (s : State) (bad : List RegionNo) : State :=
  let s := (List.range 192).foldl
    (fun s r =>
      let s := if (s.rg r).owed = 0 then s else s.updRg r fun g => { g with owed := 0 }
      if ((s.rg r).bulkUp || (s.rg r).ctlUp) && !(bad.any fun q => q.val == r) then s.setRegF (Reg.RGN_PSTATE r) 3 1 1 else s) s
  let s := bad.foldl (fun s r => s.pllFails r) s
  { s with clk := { s.clk with walkBase := [] } }

theorem InAon.withClk (aon : InAon s) (k : Clock) : InAon { s with clk := k } := ⟨aon.canon.booted s.dev k s.freeCtr, aon.base⟩

theorem InAon.clocksLock (aon : InAon s) (bad : List RegionNo) : InAon (s.clocksLock bad) := by
  unfold State.clocksLock
  extract_lets loops fails
  have looped : InAon loops := aon.foldl fun u r aon => by
    have repaid : InAon (if (u.rg r).owed = 0 then u else u.updRg r fun g => { g with owed := 0 }) :=
      .ite (fun _ => aon) fun _ => aon.frame (State.updRg_frame ..)
    exact .ite (fun _ => repaid.frame (State.setRegF_frame ..)) fun _ => repaid
  have failed : InAon fails := looped.foldl fun _ _ aon => aon.frame (State.pllFails_frame ..)
  exact failed.withClk _

theorem execClocksLocked_leads (canon : Canon s) (turn : s.dev.base = .aon ∧ s.dev.next = some .clocksLocked) (ref : s.dev.refOk = true) :
    Leads s (.clocksLocked us ⟨true, bad⟩) 0x30 .seamsTrained := by
  have runs : exec (.clocksLocked us ⟨true, bad⟩) s = .next ((s.clocksLock bad).stageDone 0x30 us ((bad.getLast?).elim srcModule fun r => srcRegion r)
      .seamsTrained) := by
    refine (State.goesOn (State.atStage_iff.mpr turn) ..).trans ((if_neg (by simp)).trans ((State.goesOn ref ..).trans ?_))
    unfold State.clocksLock
    rfl
  exact leads_of_stageDone (InAon.clocksLock ⟨canon, turn.1⟩ bad) runs

theorem execClocksLocked_waits (turn : s.dev.base = .aon ∧ s.dev.next = some .clocksLocked) (ref : s.dev.refOk = false) :
    exec (.clocksLocked us ⟨true, bad⟩) s = .next s :=
  (State.goesOn (State.atStage_iff.mpr turn) ..).trans ((if_neg (by simp)).trans (State.stops (by rw [ref]; decide) ..))

theorem execClocksLocked_drops (turn : s.dev.base = .aon ∧ s.dev.next = some .clocksLocked) : Drops s (.clocksLocked us ⟨false, bad⟩) :=
  drops_of_stageFail (.refl s) ((State.goesOn (State.atStage_iff.mpr turn) ..).trans (if_pos rfl))

end Sys2Proof.Machine
end

section
/-! CLAIM. O59, second part: the stages with the reference, and the whole (R142, R160, R175, R447 to R449, R452). -/

namespace Sys2Proof.Machine

-- In sequence, so that the stacks of their threads do not add up.
set_option Elab.async false

variable {s t : State} {us : Word}

theorem InAon.ofCourse {P : List Part} (aon : InAon s) (frame : Frame P s t) (same : ∀ o, SameCourse o s → SameCourse o t) : InAon t :=
  aon.course frame (same s (.refl s))

-- The networks, the cellar and the larders

theorem InAon.applyFound (aon : InAon s) (k : ReportKind) : InAon (s.applyFound k) :=
  aon.course (State.applyFound_frame ..) (SameCourse.applyFound (.refl s) k)

theorem InAon.saveSettings (aon : InAon s) (x : Settings) : InAon (s.saveSettings x) := aon.withDev aon.base

theorem execSeamsTrained_leads {seams : SeamsFound} (canon : Canon s) (turn : s.dev.base = .aon ∧ s.dev.next = some .seamsTrained)
    (ref : s.dev.refOk = true) : Leads s (.seamsTrained us seams) 0x38 .cellarTrained := by
  have runs : ∃ t unit, InAon t ∧ execSeamsTrained us seams s = .next (t.stageDone 0x38 us unit .cellarTrained) := by
    have aon : InAon s := ⟨canon, turn.1⟩
    unfold execSeamsTrained
    rw [State.goesOn (State.atClocked_iff.mpr ⟨turn, ref⟩)]
    extract_lets y full spared wired key slow bad n saved unit
    have spares : InAon spared := aon.foldl fun _ _ aon => aon.applyFound _
    have wires : InAon wired := spares.foldl fun _ _ aon => .ite (fun _ => aon.frame (State.setRegF_frame ..)) fun _ => aon
    have used : InAon wired.useFree := wires.frame (State.useFree_frame _)
    have saves : InAon saved := .ite (fun _ => used.saveSettings _) fun _ => .ite (fun _ => wires) fun _ => used.saveSettings _
    exact ⟨saved, unit, saves, rfl⟩
  obtain ⟨t, unit, aon, runs⟩ := runs
  exact leads_of_stageDone aon runs

theorem execCellarTrained_leads {slices : CellarFound} (canon : Canon s) (turn : s.dev.base = .aon ∧ s.dev.next = some .cellarTrained)
    (ref : s.dev.refOk = true) : Leads s (.cellarTrained us slices) 0x40 .larderChecked := by
  have runs : ∃ t unit, InAon t ∧ execCellarTrained us slices s = .next (t.stageDone 0x40 us unit .larderChecked) := by
    have aon : InAon s := ⟨canon, turn.1⟩
    unfold execCellarTrained
    rw [State.goesOn (State.atClocked_iff.mpr ⟨turn, ref⟩)]
    extract_lets ready full temp record retired woken saved settings
    have retires : InAon retired := aon.foldl fun _ _ aon => aon.frame (State.retireFound_frame ..)
    have wakes : InAon woken := retires.foldl fun _ _ aon =>
      ((aon.frame (State.setRegF_frame ..)).frame (State.setRegF_frame ..)).frame (State.updRg_frame ..)
    have saves : InAon settings := .ite (fun _ => (wakes.frame (State.useFree_frame _)).saveSettings _) fun _ => wakes
    exact ⟨settings, _, saves, rfl⟩
  obtain ⟨t, unit, aon, runs⟩ := runs
  exact leads_of_stageDone aon runs

theorem execLarderChecked_leads {rows : List (SiteNo × BitVec 14)} (canon : Canon s) (turn : s.dev.base = .aon ∧ s.dev.next = some .larderChecked)
    (ref : s.dev.refOk = true) : Leads s (.larderChecked us rows) 0x48 .gridBuilt := by
  have found : InAon (rows.foldl (fun s w => s.applyFound (.hardLarder w.1 w.2)) s) :=
    InAon.foldl ⟨canon, turn.1⟩ fun _ _ aon => aon.applyFound _
  exact leads_of_stageDone (found.frame (State.postConflicts_frame ..)) (State.goesOn (State.atClocked_iff.mpr ⟨turn, ref⟩) ..)

-- The grid, the known-answer set and the links

/-- The grid that GRID_BUILT builds. -/
def State.gridBuilt (s : State) : State :=
  let a := s.applyTodo
  (a.2.foldl (fun s t => s.retireFound t.1 t.2.1 1) a.1).bringGrid

theorem SameCourse.gridBuilt (s : State) : SameCourse s s.gridBuilt :=
  ((SameCourse.applyTodo (.refl s)).foldl fun _ _ same => same.retireFound ..).bringGrid

theorem InAon.gridBuilt (aon : InAon s) : InAon s.gridBuilt := by
  refine ⟨?_, (SameCourse.gridBuilt s).base.trans aon.base⟩
  have repaired : Canon s.applyTodo.1 := (State.applyTodo_frame s).canon aon.canon
  exact (State.bringGrid_frame _).canon (foldl_inv Canon _ (fun _ _ _ canon => (State.retireFound_frame ..).canon canon) repaired)

theorem execGridBuilt_leads (canon : Canon s) (turn : s.dev.base = .aon ∧ s.dev.next = some .gridBuilt) (ref : s.dev.refOk = true)
    (routes : s.gridBuilt.routeFault = none) : Leads s (.gridBuilt us) 0x50 .knownAnswer := by
  have runs : ∃ unit, execGridBuilt us s = .next (s.gridBuilt.stageDone 0x50 us unit .knownAnswer) := by
    unfold execGridBuilt
    rw [State.goesOn (State.atClocked_iff.mpr ⟨turn, ref⟩)]
    extract_lets a built new unit
    have fault : built.routeFault = none := routes
    rw [fault]
    exact ⟨unit, rfl⟩
  obtain ⟨unit, runs⟩ := runs
  exact leads_of_stageDone (InAon.gridBuilt ⟨canon, turn.1⟩) runs

theorem execGridBuilt_drops (turn : s.dev.base = .aon ∧ s.dev.next = some .gridBuilt) (ref : s.dev.refOk = true)
    (blocked : s.gridBuilt.routeFault.isSome = true) : Drops s (.gridBuilt us) := by
  obtain ⟨net, blocked⟩ := Option.isSome_iff_exists.mp blocked
  have runs : ∃ unit reason, execGridBuilt us s = .next (s.gridBuilt.stageFail 0x50 us unit reason) := by
    unfold execGridBuilt
    rw [State.goesOn (State.atClocked_iff.mpr ⟨turn, ref⟩)]
    extract_lets a built new unit
    have fault : built.routeFault = some net := blocked
    rw [fault]
    exact ⟨_, _, rfl⟩
  obtain ⟨unit, reason, runs⟩ := runs
  exact drops_of_stageFail (SameCourse.gridBuilt s) runs

/-- Whether four rounds of the known-answer set suffice. -/
def State.enoughRounds (s : State) (first : KaFound) (later : List KaFound) : Bool :=
  (State.kaRounds 4 (first :: later) s ((List.range 192).filter fun r => !s.isRetired r) srcModule).2.1

theorem execKnownAnswer_goes (first : KaFound) (later : List KaFound) (engines : List LinkNo) (streamOk crypto : Bool)
    (turn : s.dev.base = .aon ∧ s.dev.next = some .knownAnswer) (ref : s.dev.refOk = true) :
    ∃ t unit, SameCourse s t ∧ (Canon s → Canon t) ∧ exec (.knownAnswer us first later engines streamOk crypto) s
      = .next (if !crypto then t.stageFail 0x58 us unit 0x13 else if !(s.enoughRounds first later) then t.stageFail 0x58 us unit 0x12
        else t.stageDone 0x58 us unit .linksTrained) := by
  change ∃ t unit, _ ∧ _ ∧ execKnownAnswer us first later engines streamOk crypto s = _
  unfold execKnownAnswer State.enoughRounds
  rw [State.goesOn (State.atClocked_iff.mpr ⟨turn, ref⟩)]
  have same := SameCourse.kaRounds (.refl s) 4 (first :: later) ((List.range 192).filter fun r => !s.isRetired r) srcModule
  have frame := State.kaRounds_frame 4 (first :: later) s ((List.range 192).filter fun r => !s.isRetired r) srcModule
  generalize State.kaRounds 4 (first :: later) s ((List.range 192).filter fun r => !s.isRetired r) srcModule = x at *
  obtain ⟨t, enough, unit⟩ := x
  dsimp -zeta only
  extract_lets engines last attic dev marked
  have marks : SameCourse s marked := same
  have kept (canon : Canon s) : Canon marked := Canon.withDevAttic (frame.canon canon : Canon t) _ _
  refine ⟨marked, last, marks, kept, ?_⟩
  rw [apply_ite Host.Outcome.next, apply_ite Host.Outcome.next]

theorem execKnownAnswer_leads {first : KaFound} {later : List KaFound} {engines : List LinkNo} {streamOk crypto : Bool} (canon : Canon s)
    (turn : s.dev.base = .aon ∧ s.dev.next = some .knownAnswer) (ref : s.dev.refOk = true)
    (good : (s.enoughRounds first later && crypto) = true) : Leads s (.knownAnswer us first later engines streamOk crypto) 0x58 .linksTrained := by
  obtain ⟨t, unit, same, canon', runs⟩ := execKnownAnswer_goes (us := us) first later engines streamOk crypto turn ref
  obtain ⟨enough, crypto⟩ := Bool.and_eq_true_iff.mp good
  rw [State.goesOn crypto, State.goesOn enough] at runs
  exact leads_of_stageDone ⟨canon' canon, same.base.trans turn.1⟩ runs

theorem execKnownAnswer_drops {first : KaFound} {later : List KaFound} {engines : List LinkNo} {streamOk crypto : Bool}
    (turn : s.dev.base = .aon ∧ s.dev.next = some .knownAnswer) (ref : s.dev.refOk = true)
    (bad : (s.enoughRounds first later && crypto) = false) : Drops s (.knownAnswer us first later engines streamOk crypto) := by
  obtain ⟨t, unit, same, -, runs⟩ := execKnownAnswer_goes (us := us) first later engines streamOk crypto turn ref
  obtain few | broken := Bool.and_eq_false_iff.mp bad
  · by_cases works : crypto = true
    · rw [State.goesOn works, State.stops (by rw [few]; decide)] at runs
      exact drops_of_stageFail same runs
    · rw [State.stops works] at runs
      exact drops_of_stageFail same runs
  · rw [State.stops (by rw [broken]; decide)] at runs
    exact drops_of_stageFail same runs

theorem execLinksTrained_leads {outs : List Trained} (canon : Canon s) (turn : s.dev.base = .aon ∧ s.dev.next = some .linksTrained)
    (ref : s.dev.refOk = true) : Leads s (.linksTrained us outs) 0x60 .ready := by
  have runs : ∃ t unit, InAon t ∧ execLinksTrained us outs s = .next (t.stageDone 0x60 us unit .ready) := by
    unfold execLinksTrained
    rw [State.goesOn (State.atClocked_iff.mpr ⟨turn, ref⟩)]
    extract_lets ts down
    have downs : InAon down := InAon.foldl ⟨canon, turn.1⟩ fun _ _ aon => aon.frame (State.setLinkState_frame ..)
    exact ⟨_, _, downs.course (State.bringLinks_frame ..) (SameCourse.bringLinks (.refl _) downs.base _), rfl⟩
  obtain ⟨t, unit, aon, runs⟩ := runs
  exact leads_of_stageDone aon runs

-- READY

/-- The device at the end of bring-up, with its settings of bring-up done and its image's SVN burnt. -/
def State.bootEnds (u : State) (lost : Bool) : State :=
  { u with
    attic := { u.attic with bootcfg := setFld u.attic.bootcfg 0 1 0 }
    fuses := { u.fuses with k := if u.mgmt.commitFlag then max u.fuses.k u.mgmt.svn else u.fuses.k }
    dev := { u.dev with
      next := none, retried := false, retryDue := false, degraded := lost
      base := if lost then .degraded else .ready } }

/-- What the end of bring-up leaves, with the columns lost or not and a restart pending or not. -/
def State.readyThen (u : State) (lost pending : Bool) : State :=
  let ends : State := { u with
    attic := { u.attic with bootcfg := setFld u.attic.bootcfg 0 1 0 }
    fuses := { u.fuses with k := if u.mgmt.commitFlag then max u.fuses.k u.mgmt.svn else u.fuses.k }
    dev := { u.dev with
      next := none, retried := false, retryDue := false, degraded := lost
      base := if pending then .restart else if lost then .degraded else .ready } }
  let alerted := if lost then ends.alert alDegraded else ends
  if pending then alerted.restartGo else alerted.slabPools false

/-- What the end of bring-up leaves with no restart pending. -/
def State.readyNow (u : State) (lost : Bool) : State :=
  State.slabPools (if lost then (u.bootEnds lost).alert alDegraded else u.bootEnds lost) false

/-- The report of READY and the boot time. -/
def State.readyReport (s : State) (us : Word) : State :=
  (s.stageReport 0x70 us srcModule 0).setReg Reg.GLB_BOOTTIME (w32 (min (2 ^ 32 - 1) ((s.dev.railsUs + us.toNat) / 1000)))

theorem KeepsBits.readyNow {A : Nat → Nat → Prop} (same : KeepsBits A s t) (low : ∀ a i, A a i → a < 0x2000000) (lost : Bool) :
    KeepsBits A s (t.readyNow lost) := by
  have ends : KeepsBits A s (t.bootEnds lost) := same.withRegs rfl
  exact (KeepsBits.ite (fun _ => ends.frame (State.alert_frame ..)) fun _ => ends).slabPools low false

theorem State.readyNow_parts (u : State) (lost : Bool) : (u.readyNow lost).dev.next = none
    ∧ (u.readyNow lost).dev.base = (if lost then .degraded else .ready) ∧ (u.readyNow lost).attic.bootcfg = setFld u.attic.bootcfg 0 1 0
    ∧ (u.readyNow lost).fuses.k = (if u.mgmt.commitFlag then max u.fuses.k u.mgmt.svn else u.fuses.k) := by
  unfold State.readyNow
  have pools := State.slabPools_frame (if lost then (u.bootEnds lost).alert alDegraded else u.bootEnds lost) false
  rw [pools.part .dev (by decide), pools.part .attic (by decide), pools.part .fuses (by decide)]
  cases lost <;> exact ⟨rfl, rfl, rfl, rfl⟩

theorem State.readyReport_parts (s : State) (us : Word) : (s.readyReport us).dev = s.dev ∧ (s.readyReport us).fuses = s.fuses
    ∧ (s.readyReport us).mgmt = s.mgmt ∧ (s.readyReport us).resil = s.resil := by
  have reported := (State.stageReport_frame s 0x70 us srcModule 0).step (State.setReg_frame _ Reg.GLB_BOOTTIME
    (w32 (min (2 ^ 32 - 1) ((s.dev.railsUs + us.toNat) / 1000)))) (by decide)
  exact ⟨reported.part .dev (by decide), reported.part .fuses (by decide), reported.part .mgmt (by decide), reported.part .resil (by decide)⟩

theorem State.readyReport_lostCols (canon : Canon s) (us : Word) : (s.readyReport us).lostCols = s.lostCols := by
  have set : KeepsBits (fun a _ => a = Reg.GLB_GRIDSTAT) s (s.readyReport us) :=
    (KeepsBits.post (((KeepsBits.refl canon.regs).setReg _ fun _ => by decide).setReg _ fun _ => by decide) (fun _ => by decide) ..).setReg _
      fun _ => by decide
  exact set.regF fun _ _ _ => rfl

theorem execReady_goes (turn : s.dev.base = .aon ∧ s.dev.next = some .ready) (ref : s.dev.refOk = true) (none : s.resil.restart = none) :
    exec (.ready us) s = .next ((s.readyReport us).readyNow ((s.readyReport us).dev.degraded || (s.readyReport us).lostCols != 0)) := by
  have pending : (s.readyReport us).resil.restart.isSome = false := by
    rw [(s.readyReport_parts us).2.2.2, none]
    rfl
  refine (State.goesOn (State.atClocked_iff.mpr ⟨turn, ref⟩) ..).trans ?_
  change Host.Outcome.next (State.readyThen (s.readyReport us) ((s.readyReport us).dev.degraded || (s.readyReport us).lostCols != 0)
    (s.readyReport us).resil.restart.isSome) = _
  rw [pending]
  rfl

theorem execReady_ends (canon : Canon s) (turn : s.dev.base = .aon ∧ s.dev.next = some .ready) (ref : s.dev.refOk = true)
    (none : s.resil.restart = none) : ∃ t, exec (.ready us) s = .next t ∧ t.dev.next = .none
      ∧ t.dev.base = (if s.dev.degraded = true ∨ s.lostCols ≠ 0 then .degraded else .ready)
      ∧ t.regF Reg.GLB_STAGE 0 8 = 0x70 ∧ tst t.attic.bootcfg 0 = false
      ∧ t.fuses.k = (if s.mgmt.commitFlag = true then max s.fuses.k s.mgmt.svn else s.fuses.k) := by
  have runs := execReady_goes (us := us) turn ref none
  obtain ⟨dev, fuses, mgmt, -⟩ := s.readyReport_parts us
  rw [dev, State.readyReport_lostCols canon] at runs
  obtain ⟨next, base, bootcfg, k⟩ := (s.readyReport us).readyNow_parts (s.dev.degraded || s.lostCols != 0)
  have reported := State.stageReport_tables canon.regs 0x70 us srcModule 0
  have stage : KeepsBits (fun a _ => a = Reg.GLB_STAGE) (s.stageReport 0x70 us srcModule 0)
      ((s.readyReport us).readyNow (s.dev.degraded || s.lostCols != 0)) :=
    KeepsBits.readyNow ((KeepsBits.refl reported).setReg _ fun _ => by decide) (by simp only [Reg.GLB_STAGE]; omega) _
  refine ⟨_, runs, next, base.trans ?_, (stage.regF fun _ _ _ => rfl).trans (State.stageReport_stage canon.regs (by decide) ..), ?_, ?_⟩
  · simp only [Bool.or_eq_true, bne_iff_ne]
  · rw [bootcfg, tst_setFld]
    rfl
  · rw [k, fuses, mgmt]

end Sys2Proof.Machine

namespace Sys2Proof
open Machine

/-- Settles O59: a stage in its turn leaves a canonical state in AON (`InAon`), which its report and the next stage rest on, or fails in a state
that stands in bring-up where it stood (`SameCourse`). -/
theorem bringupStagesFollowEachOther : Obligations.BringupStagesFollowEachOther := by
  intro s us ports outs convs tmp seams slices rows first later engines streamOk bad canon
  have canon := canon_iff.1 canon
  intro turn lead fails drops built enough
  have grid : s.gridBuilt = built := by
    unfold State.gridBuilt
    rfl
  have rounds : s.enoughRounds first later = enough := by
    unfold State.enoughRounds
    rfl
  rw [← grid, ← rounds]
  refine ⟨?_, ?_, ?_, ?_, ?_, ?_, ?_, ?_⟩
  · exact fun t => ⟨execAonUp_leads canon t, execAonUp_fails canon t⟩
  · exact fun t => ⟨execFwVerified_next canon t, execFwVerified_holds canon t, fun why => execFwVerified_fails canon t⟩
  · exact fun t held cool => ⟨execRailsUp_leads canon ⟨t, held, cool⟩, execRailsUp_drops ⟨t, held, cool⟩⟩
  · exact fun _ blocked => execRailsUp_waits (.inr blocked)
  · exact fun t => ⟨execFusesRead_leads canon t, execFusesRead_drops t⟩
  · exact fun t => ⟨execClocksLocked_leads canon t, execClocksLocked_drops t⟩
  · intro ref
    refine ⟨?_, ?_, ?_, ?_, ?_, ?_, ?_⟩
    · exact fun t => execSeamsTrained_leads canon t ref
    · exact fun t => execCellarTrained_leads canon t ref
    · exact fun t => execLarderChecked_leads canon t ref
    · exact fun t => ⟨execGridBuilt_leads canon t ref, execGridBuilt_drops t ref⟩
    · exact fun t crypto => ⟨execKnownAnswer_leads canon t ref, execKnownAnswer_drops t ref⟩
    · exact fun t => execLinksTrained_leads canon t ref
    · exact fun t none => execReady_ends canon t ref none
  · intro ok crypto still
    refine ⟨?_, ?_, ?_, ?_, ?_, ?_, ?_, ?_, ?_, ?_, ?_, ?_, ?_⟩
    · exact fun out => State.stops (mt State.atStage_iff.mp out) ..
    · exact fun out => State.stops (mt State.atStage_iff.mp out) ..
    · exact fun out => execRailsUp_waits (.inl out)
    · exact fun out => State.stops (mt State.atStage_iff.mp out) ..
    · exact fun out => State.stops (mt State.atStage_iff.mp out) ..
    · exact execClocksLocked_waits
    · exact fun out => State.stops (State.not_atClocked out) ..
    · exact fun out => State.stops (State.not_atClocked out) ..
    · exact fun out => State.stops (State.not_atClocked out) ..
    · exact fun out => State.stops (State.not_atClocked out) ..
    · exact fun out => State.stops (State.not_atClocked out) ..
    · exact fun out => State.stops (State.not_atClocked out) ..
    · exact fun out => State.stops (State.not_atClocked out) ..

end Sys2Proof
end
